-- ==== Sys2Proof/Word.lean ====
section
/-!
DEFINITION. Sys2Proof/Word.lean: the word types of the NX9 and the plainest facts about them (R6, R7).
-/

namespace Sys2Proof

/-- A byte of memory. -/
abbrev Byte := BitVec 8
/-- A 32-bit register element or instruction word. -/
abbrev Word := BitVec 32
/-- A 64-bit uniform register, pair or virtual address. -/
abbrev DWord := BitVec 64
/-- A set of the 32 lanes of a group, bit l for lane l. -/
abbrev LaneMask := BitVec 32
/-- The code of a W320 value (R54). -/
abbrev W320 := BitVec 320

/-- Bits hi down to lo of a natural number (R7). -/
abbrev bitsOf (w hi lo : Nat) : Nat := w / 2 ^ lo % 2 ^ (hi + 1 - lo)

end Sys2Proof
end

