-- ==== Sys2Proof/Config.lean ====
section
/-!
DEFINITION. Sys2Proof/Config.lean: what the spec leaves open and the model keeps open. Each constant is opaque: nothing in
Lean can evaluate it or prove a value of it (log entry 8). State.free counts the free values drawn so far.
-/

namespace Sys2Proof.Config

/-- The n-th free value: the bits of a value the spec calls undefined (R11) or leaves to timing (log entry 8). -/
opaque freeBits : Nat → BitVec 1024

/-- The coded length, 0 to 8 units, of a 256-byte sector of a compressed page: private to the base die (R335). -/
opaque sectorLen : BitVec 2048 → Fin 9

/-- AES-256-XTS of one 128-byte line under the key of a confidential context (R292): context, line number, data. -/
opaque lineCipher : Nat → Nat → BitVec 1024 → BitVec 1024

/-- SHA-256 (R365, R366). -/
opaque sha256 : List Byte → BitVec 256

/-- Whether an HSS signature over an image or manifest verifies (R364, R367): key selector (0 vendor, 1 owner) and bytes. -/
opaque signatureValid : Nat → List Byte → Bool

/-- The HSS signature of 5716 bytes made with one-time key n (R365). -/
opaque hssSign : Nat → List Byte → List Byte

/-- The ML-KEM-768 encapsulation key that OPEN-SESSION uses (R366). -/
opaque kemKey : List Byte

/-- Whether an ML-KEM-768 ciphertext is accepted (R361). -/
opaque kemAccepts : List Byte → Bool

/-- Words 0 to 3 of the firmware measurement after boot (R363, R366, R367). -/
opaque firmwareWord : Nat → BitVec 64

/-- The INFO result: part, stepping, firmware version and domain device number; the packing is not given (R361). -/
opaque infoWord : Nat → BitVec 64

/-- Whether a grid with these packet and argument dwords names a queue for device launch in its code (R240; log entry 31). -/
opaque namesQueue : List (BitVec 64) → Nat → Bool

/-- Bytes of the context area that are in a form private to the firmware (R279). -/
opaque areaByte : Nat → Byte

end Sys2Proof.Config
end

