-- ==== Sys2Proof/Machine/Bits.lean ====
section
/-!
DEFINITION. Sys2Proof/Machine/Bits.lean: keyed tables (AMap), byte memories in one canonical form (Mem), and the bit-field,
byte-order and lane helpers the meanings use (R6, R7, R8).
-/

namespace Sys2Proof.Machine

/-- A table of values by number: pairs in strictly rising key order. -/
abbrev AMap (α : Type) := List (Nat × α)

/-- The entry of k, if any. -/
def AMap.get? {α : Type} : AMap α → Nat → Option α
  | [], _ => none
  | (k', v) :: r, k => if k = k' then some v else AMap.get? r k

/-- Sets the entry of k. -/
def AMap.set {α : Type} : AMap α → Nat → α → AMap α
  | [], k, v => [(k, v)]
  | (k', v') :: r, k, v =>
    if k = k' then (k, v) :: r else if k < k' then (k, v) :: (k', v') :: r else (k', v') :: AMap.set r k v

/-- Removes the entry of k. -/
def AMap.del {α : Type} : AMap α → Nat → AMap α
  | [], _ => []
  | (k', v) :: r, k => if k = k' then AMap.del r k else (k', v) :: AMap.del r k

/-- The entry of k, or d. -/
def AMap.getD {α : Type} (m : AMap α) (k : Nat) (d : α) : α := (m.get? k).getD d

/-- Changes the entry of k, taking d for an absent one. -/
def AMap.upd {α : Type} (m : AMap α) (k : Nat) (d : α) (f : α → α) : AMap α := m.set k (f (m.getD k d))

/-- Changes the entry of k where it is present. -/
def AMap.adj {α : Type} (m : AMap α) (k : Nat) (f : α → α) : AMap α :=
  match m.get? k with
  | some v => m.set k (f v)
  | none => m

/-- Changes every entry. -/
def AMap.mapVals {α β : Type} (m : AMap α) (f : Nat → α → β) : AMap β := m.map fun e => (e.1, f e.1 e.2)

/-- The keys. -/
def AMap.keys {α : Type} (m : AMap α) : List Nat := m.map (·.1)

/-- A byte memory: (address, byte) pairs in strictly rising address order, none equal to 0, which is what an unlisted address
reads as (log entry 1). -/
abbrev Mem := List Host.Cell

/-- Reads one byte. -/
def Mem.read : Mem → Nat → Byte
  | [], _ => 0
  | (a', b) :: r, a => if a = a' then b else if a < a' then 0 else Mem.read r a

/-- Writes one byte, keeping the canonical form. -/
def Mem.write : Mem → Nat → Byte → Mem
  | [], a, b => if b = 0 then [] else [(a, b)]
  | (a', b') :: r, a, b =>
    if a = a' then (if b = 0 then r else (a, b) :: r)
    else if a < a' then (if b = 0 then (a', b') :: r else (a, b) :: (a', b') :: r)
    else (a', b') :: Mem.write r a b

/-- Every address listed is above lo, strictly rising, and no byte listed is 0. -/
def Mem.sortedFrom : Nat → Mem → Bool
  | _, [] => true
  | lo, (a, b) :: r => decide (lo ≤ a) && decide (b ≠ 0) && Mem.sortedFrom (a + 1) r

/-- The canonical form of a memory. -/
def Mem.wf (m : Mem) : Bool := Mem.sortedFrom 0 m

/-- Reads n bytes from a, least significant first, as a number (R8). -/
def Mem.readN (m : Mem) (a : Nat) : Nat → Nat
  | 0 => 0
  | n + 1 => (m.read a).toNat + 256 * Mem.readN m (a + 1) n

/-- Writes the n low bytes of v from a on (R8). -/
def Mem.writeN (m : Mem) (a : Nat) : Nat → Nat → Mem
  | 0, _ => m
  | n + 1, v => Mem.writeN (m.write a (BitVec.ofNat 8 (v % 256))) (a + 1) n (v / 256)

/-- Reads n bytes from a as a list. -/
def Mem.readL (m : Mem) (a : Nat) : Nat → List Byte
  | 0 => []
  | n + 1 => m.read a :: Mem.readL m (a + 1) n

/-- Writes a list of bytes from a on. -/
def Mem.writeL (m : Mem) (a : Nat) : List Byte → Mem
  | [] => m
  | b :: r => Mem.writeL (m.write a b) (a + 1) r

/-- Writes, from a on, those of the n low bytes of v whose bit is set in mask. -/
def Mem.writeMask (m : Mem) (a : Nat) : Nat → Nat → Nat → Mem
  | 0, _, _ => m
  | n + 1, v, mask =>
    Mem.writeMask (if mask % 2 = 1 then m.write a (BitVec.ofNat 8 (v % 256)) else m) (a + 1) n (v / 256) (mask / 2)

/-- Zeroes n bytes from a on. -/
def Mem.zero (m : Mem) (a n : Nat) : Mem := m.filter fun c => decide (c.1 < a ∨ a + n ≤ c.1)

/-- The bytes of a list as a number, least significant first (R8). -/
def bytesNat : List Byte → Nat
  | [] => 0
  | b :: r => b.toNat + 256 * bytesNat r

/-- The n low bytes of a number, least significant first (R8). -/
def natBytes : Nat → Nat → List Byte
  | 0, _ => []
  | n + 1, v => BitVec.ofNat 8 (v % 256) :: natBytes n (v / 256)

/-- One value per lane of a group. -/
abbrev Lanes (α : Type) := Vector α 32

/-- The same value in every lane. -/
def lanesOf {α : Type} (x : α) : Lanes α := Vector.replicate 32 x

/-- The mask of the lanes where p holds. -/
def maskOf (p : Fin 32 → Bool) : LaneMask :=
  (List.finRange 32).foldl (fun m l => if p l then m ||| (1#32 <<< l.val) else m) 0#32

/-- Whether lane l is in the mask. -/
abbrev inMask (m : LaneMask) (l : Fin 32) : Bool := m.getLsbD l.val

/-- The lanes of a mask, lowest first. -/
def laneList (m : LaneMask) : List (Fin 32) := (List.finRange 32).filter fun l => inMask m l

/-- The lowest lane of a mask, 0 when it is empty. -/
def lowLane (m : LaneMask) : Fin 32 := (laneList m).headD 0

/-- The number of lanes of a mask. -/
def laneCount (m : LaneMask) : Nat := (laneList m).length

/-- Bits hi down to lo of a 64-bit value as a number (R7). -/
abbrev fieldOf {w : Nat} (x : BitVec w) (hi lo : Nat) : Nat := bitsOf x.toNat hi lo

/-- Replaces bits hi down to lo of a 64-bit value (R7). -/
def setField (x : DWord) (hi lo v : Nat) : DWord :=
  let mask := BitVec.ofNat 64 ((2 ^ (hi + 1 - lo) - 1) * 2 ^ lo)
  (x &&& ~~~ mask) ||| (BitVec.ofNat 64 (v * 2 ^ lo) &&& mask)

/-- The signed value of the low n bits of a number. -/
def sgnOf (n v : Nat) : Int :=
  let x := v % 2 ^ n
  if x < 2 ^ (n - 1) then (x : Int) else (x : Int) - (2 ^ n : Nat)

/-- The low n bits of an integer as a number. -/
def wrapTo (n : Nat) (x : Int) : Nat := (x % ((2 ^ n : Nat) : Int)).toNat

/-- Element n of a list, or d. -/
abbrev nth {α : Type} (l : List α) (n : Nat) (d : α) : α := l.getD n d

/-- The XOR of the consecutive w-bit fields of x, at most n of them (R327, R332). -/
def fold (w : Nat) : Nat → Nat → Nat
  | 0, _ => 0
  | n + 1, x => Nat.xor (x % 2 ^ w) (fold w n (x / 2 ^ w))

end Sys2Proof.Machine
end

