-- ==== Sys2Proof/Syntax.lean ====
section
/-!
DEFINITION. Sys2Proof/Syntax.lean: the operand types and the instruction type, one constructor for each row of
spec/opcode_table.json. The rows with an encoding are instruction words (R77-R89); the other rows are steps of the
device that no word encodes (spec/95_what_each_step_holds.md), delivered by State.agenda; their operands are the model's.
-/

namespace Sys2Proof

/-- Conditions of icmp and icmp64 (R105). -/
inductive ICond where
  | eq | ne | ltSg | leSg | gtSg | geSg | ltUs | leUs | gtUs | geUs
  deriving DecidableEq, Repr

/-- Conditions of fcmp (R123). -/
inductive FCond where
  | eq | ne | lt | le | gt | ge | un | or
  deriving DecidableEq, Repr

/-- Conditions of trcmp (R134). -/
inductive TCond where
  | eq | ne | lt | le | gt | ge
  deriving DecidableEq, Repr

/-- Tapered formats by their fn code (R131). -/
inductive TapFmt where
  | e8e0 | e8e1 | e8e2 | e16e1 | e16e2 | e32e2
  deriving DecidableEq, Repr

/-- Formats of qmac by fn (R136). -/
inductive QmacFmt where
  | e8e0 | e8e1 | e8e2 | e16e1 | e16e2
  deriving DecidableEq, Repr

/-- Formats of qadd by fn (R136). -/
inductive QaddFmt where
  | e8e0 | e8e1 | e8e2 | e16e1 | e16e2 | e32e2 | f32 | sg
  deriving DecidableEq, Repr

/-- Target codes of qround (R136). -/
inductive QTarget where
  | e8e0 | e8e1 | e8e2 | e16e1 | e16e2 | e32e2 | f32 | sg | f64
  deriving DecidableEq, Repr

/-- Format codes of the conversions (R126). -/
inductive CvtFmt where
  | sg | us | sg64 | us64 | f32 | f64 | e8e0 | e8e1 | e8e2 | e16e1 | e16e2 | e32e2
  deriving DecidableEq, Repr

/-- Reductions by fn (R145). -/
inductive RedOp where
  | addSg | addUs | addF32 | minSg | minUs | maxSg | maxUs | andB32 | orB32 | xorB32
  deriving DecidableEq, Repr

/-- Scans by fn (R145). -/
inductive ScanOp where
  | incSg | incUs | incF32 | excSg | excUs | excF32
  deriving DecidableEq, Repr

/-- Width codes WC of major 0x36 but for the prefetch (R153). -/
inductive LdKind where
  | b8zx | b8sx | b16zx | b16sx | b32 | b64 | b128
  deriving DecidableEq, Repr

/-- Width codes WC of major 0x37 (R153). -/
inductive StKind where
  | b8 | b16 | b32 | b64 | b128
  deriving DecidableEq, Repr

/-- Prefetch levels (R158). -/
inductive PfLevel where
  | l1 | l3
  deriving DecidableEq, Repr

/-- Memory scopes, narrowest first (R153). -/
inductive Scope where
  | fibre | team | cluster | device | domain | system
  deriving DecidableEq, Repr

/-- Formats of aacc (R166). -/
inductive AaccFmt where
  | f32 | sg | e16e1 | e16e2 | e32e2 | f64
  deriving DecidableEq, Repr

/-- Conditions of ucmp (R109). -/
inductive UCond where
  | eq | ne | ltSg | leSg | ltUs | leUs
  deriving DecidableEq, Repr

/-- RMODE of an X prefix (R84). -/
inductive RMode where
  | rne | rtz | rup | rdn | rna | dyn
  deriving DecidableEq, Repr

/-- Lane modifiers of an X prefix (R84). -/
inductive LKind where
  | none | bcast | rot | xor
  deriving DecidableEq, Repr

/-- The register classes of RDREG and WRREG (R275). -/
inductive RegClass where
  | v | p | s | b | cf | q | fpstat | ric | pc
  deriving DecidableEq, Repr

/-- A register selector of RDREG and WRREG: class and number (R275). -/
structure RegSel where
  cls : RegClass
  num : Nat
  deriving DecidableEq, Repr

/-- The CXL.io registers written by the row REGISTER_WRITE: those that have no row of their own (R9, R271, R295, R338, R362, R380). -/
inductive IoReg where
  | fqirq | srcfg | srptr | srirq | trcfg | trstat | trirq | mrcfg
  | hbmRmth | hbmRmint | hbmRmctl | hbmAlert | hbmQth | hbmErr
  deriving DecidableEq, Repr

/-- A switch instant that a gang message names, and the partition that it is for (R254). -/
structure GangInstant where
  part : Nat
  t : Nat
  deriving DecidableEq, Repr

/-- The device and fibre that a request from another device comes from; order is the OP and sequence number that the log of a pod-wide
replay gives the access (R299, R323). -/
structure Requester where
  dev : Nat
  fibre : Nat
  order : Option (Nat × Nat)
  deriving DecidableEq, Repr

/-- The sharing group and COH of the buffer that a request comes through (R330). -/
structure Sharing where
  sgrp : Nat
  coh : Nat
  deriving DecidableEq, Repr

/-- The steps of the NX9: one constructor for each row of the opcode table. -/
inductive Instr where
  /-- IADD (R101). Adds two vector registers per lane, wrapping modulo 2^32. -/
  | iadd (d : BitVec 7) (a : BitVec 7) (b : BitVec 7)
  /-- ISUB (R101). Subtracts vb from va per lane. -/
  | isub (d : BitVec 7) (a : BitVec 7) (b : BitVec 7)
  /-- IMUL (R101). Writes the low 32 bits of the product per lane. -/
  | imul (d : BitVec 7) (a : BitVec 7) (b : BitVec 7)
  /-- IMULH_SG (R101). Writes the high 32 bits of the signed product per lane. -/
  | imulhSg (d : BitVec 7) (a : BitVec 7) (b : BitVec 7)
  /-- IMULH_US (R101). Writes the high 32 bits of the unsigned product per lane. -/
  | imulhUs (d : BitVec 7) (a : BitVec 7) (b : BitVec 7)
  /-- IMAD (R101). Writes the low 32 bits of va times vb plus the fourth operand vc. -/
  | imad (d : BitVec 7) (a : BitVec 7) (b : BitVec 7)
  /-- IMIN_SG (R101). Writes the signed lesser of two registers per lane. -/
  | iminSg (d : BitVec 7) (a : BitVec 7) (b : BitVec 7)
  /-- IMIN_US (R101). Writes the unsigned lesser of two registers per lane. -/
  | iminUs (d : BitVec 7) (a : BitVec 7) (b : BitVec 7)
  /-- IMAX_SG (R101). Writes the signed greater of two registers per lane. -/
  | imaxSg (d : BitVec 7) (a : BitVec 7) (b : BitVec 7)
  /-- IMAX_US (R101). Writes the unsigned greater of two registers per lane. -/
  | imaxUs (d : BitVec 7) (a : BitVec 7) (b : BitVec 7)
  /-- IABS (R101). Writes the magnitude of signed va per lane. -/
  | iabs (d : BitVec 7) (a : BitVec 7)
  /-- AND (R101). Bitwise AND of two registers per lane. -/
  | and (d : BitVec 7) (a : BitVec 7) (b : BitVec 7)
  /-- OR (R101). Bitwise OR of two registers per lane. -/
  | or (d : BitVec 7) (a : BitVec 7) (b : BitVec 7)
  /-- XOR (R101). Bitwise XOR of two registers per lane. -/
  | xor (d : BitVec 7) (a : BitVec 7) (b : BitVec 7)
  /-- ANDN (R101). Writes va AND NOT vb per lane. -/
  | andn (d : BitVec 7) (a : BitVec 7) (b : BitVec 7)
  /-- SHL (R102). Shifts va left by the amount in vb. -/
  | shl (d : BitVec 7) (a : BitVec 7) (b : BitVec 7)
  /-- SHR (R102). Shifts va right with zero fill by the amount in vb. -/
  | shr (d : BitVec 7) (a : BitVec 7) (b : BitVec 7)
  /-- SAR (R102). Shifts va right with sign fill by the amount in vb. -/
  | sar (d : BitVec 7) (a : BitVec 7) (b : BitVec 7)
  /-- ROT (R102). Rotates va left by vb modulo 32. -/
  | rot (d : BitVec 7) (a : BitVec 7) (b : BitVec 7)
  /-- CLZ (R101). Counts leading zero bits of va. -/
  | clz (d : BitVec 7) (a : BitVec 7)
  /-- POPC (R101). Counts one bits of va. -/
  | popc (d : BitVec 7) (a : BitVec 7)
  /-- BREV (R101). Reverses the bit order of va. -/
  | brev (d : BitVec 7) (a : BitVec 7)
  /-- MOV (R101). Copies a vector register per lane. -/
  | mov (d : BitVec 7) (a : BitVec 7)
  /-- MOV_FROM_UNIFORM (R101). Copies bits 31:0 of a uniform register into every lane of vd. -/
  | movFromUniform (d : BitVec 7) (sa : BitVec 6)
  /-- MOV_B64 (R101). Copies a 64-bit uniform register into an even vector pair. -/
  | movB64 (d : BitVec 7) (sa : BitVec 6)
  /-- BFE_US (R103). Extracts a zero-extended bit field of va. -/
  | bfeUs (d : BitVec 7) (a : BitVec 7) (b : BitVec 7)
  /-- BFE_SG (R103). Extracts a sign-extended bit field of va. -/
  | bfeSg (d : BitVec 7) (a : BitVec 7) (b : BitVec 7)
  /-- BFI (R103). Inserts a field of va into vc. -/
  | bfi (d : BitVec 7) (a : BitVec 7) (b : BitVec 7)
  /-- IADD64 (R101). Adds two 64-bit register pairs. -/
  | iadd64 (d : BitVec 7) (a : BitVec 7) (b : BitVec 7)
  /-- ISUB64 (R101). Subtracts two 64-bit register pairs. -/
  | isub64 (d : BitVec 7) (a : BitVec 7) (b : BitVec 7)
  /-- IMUL64 (R101). Writes the low 64 bits of a pair product. -/
  | imul64 (d : BitVec 7) (a : BitVec 7) (b : BitVec 7)
  /-- SHL64 (R102). Shifts a pair left by a 32-bit amount. -/
  | shl64 (d : BitVec 7) (a : BitVec 7) (b : BitVec 7)
  /-- SHR64 (R102). Shifts a pair right with zero fill. -/
  | shr64 (d : BitVec 7) (a : BitVec 7) (b : BitVec 7)
  /-- SAR64 (R102). Shifts a pair right with sign fill. -/
  | sar64 (d : BitVec 7) (a : BitVec 7) (b : BitVec 7)
  /-- IADD_IMM (R104). Adds a sign-extended 11-bit immediate to va. -/
  | iaddImm (d : BitVec 7) (a : BitVec 7) (i : BitVec 11)
  /-- AND_IMM (R104). ANDs va with a sign-extended 11-bit immediate. -/
  | andImm (d : BitVec 7) (a : BitVec 7) (i : BitVec 11)
  /-- SHL_IMM (R104). Shifts va left by an immediate amount. -/
  | shlImm (d : BitVec 7) (a : BitVec 7) (n : BitVec 6)
  /-- SHR_IMM (R104). Shifts va right with zero fill by an immediate amount. -/
  | shrImm (d : BitVec 7) (a : BitVec 7) (n : BitVec 6)
  /-- SAR_IMM (R104). Shifts va right with sign fill by an immediate amount. -/
  | sarImm (d : BitVec 7) (a : BitVec 7) (n : BitVec 6)
  /-- ROT_IMM (R104). Rotates va left by an immediate amount. -/
  | rotImm (d : BitVec 7) (a : BitVec 7) (n : BitVec 6)
  /-- SHL64_IMM (R104). Shifts a pair left by an immediate amount. -/
  | shl64Imm (d : BitVec 7) (a : BitVec 7) (n : BitVec 6)
  /-- SHR64_IMM (R104). Shifts a pair right with zero fill by an immediate amount. -/
  | shr64Imm (d : BitVec 7) (a : BitVec 7) (n : BitVec 6)
  /-- SAR64_IMM (R104). Shifts a pair right with sign fill by an immediate amount. -/
  | sar64Imm (d : BitVec 7) (a : BitVec 7) (n : BitVec 6)
  /-- MOVI (R104). Writes a sign-extended 18-bit immediate to vd. -/
  | movi (d : BitVec 7) (i : BitVec 18)
  /-- ICMP (R105). Compares two 32-bit registers per lane into a predicate. -/
  | icmp (c : ICond) (p : BitVec 3) (a : BitVec 7) (b : BitVec 7)
  /-- ICMP64 (R105). Compares two pairs per lane into a predicate. -/
  | icmp64 (c : ICond) (p : BitVec 3) (a : BitVec 7) (b : BitVec 7)
  /-- SEL (R106). Selects va or vb per lane by a possibly negated predicate. -/
  | sel (n : Bool) (p : BitVec 3) (d : BitVec 7) (a : BitVec 7) (b : BitVec 7)
  /-- PAND (R107). ANDs two predicates per lane. -/
  | pand (d : BitVec 3) (a : BitVec 3) (b : BitVec 3)
  /-- POR (R107). ORs two predicates per lane. -/
  | por (d : BitVec 3) (a : BitVec 3) (b : BitVec 3)
  /-- PXOR (R107). XORs two predicates per lane. -/
  | pxor (d : BitVec 3) (a : BitVec 3) (b : BitVec 3)
  /-- PNOT (R107). Negates a predicate per lane. -/
  | pnot (d : BitVec 3) (a : BitVec 3)
  /-- IDP4_SG (R108). Accumulates a signed 4-way byte dot product with one saturation. -/
  | idp4Sg (d : BitVec 7) (a : BitVec 7) (b : BitVec 7)
  /-- IDP4_US (R108). Accumulates an unsigned 4-way byte dot product with one saturation. -/
  | idp4Us (d : BitVec 7) (a : BitVec 7) (b : BitVec 7)
  /-- IDP2_SG (R108). Accumulates a signed 2-way halfword dot product with one saturation. -/
  | idp2Sg (d : BitVec 7) (a : BitVec 7) (b : BitVec 7)
  /-- IDP2_US (R108). Accumulates an unsigned 2-way halfword dot product with one saturation. -/
  | idp2Us (d : BitVec 7) (a : BitVec 7) (b : BitVec 7)
  /-- FADD_F32 (R122). Adds binary32 values with one rounding. -/
  | faddF32 (d : BitVec 7) (a : BitVec 7) (b : BitVec 7)
  /-- FSUB_F32 (R122). Subtracts binary32 values with one rounding. -/
  | fsubF32 (d : BitVec 7) (a : BitVec 7) (b : BitVec 7)
  /-- FMUL_F32 (R122). Multiplies binary32 values with one rounding. -/
  | fmulF32 (d : BitVec 7) (a : BitVec 7) (b : BitVec 7)
  /-- FFMA_F32 (R122). Fused multiply-add in binary32 with the fourth operand vc. -/
  | ffmaF32 (d : BitVec 7) (a : BitVec 7) (b : BitVec 7)
  /-- FMIN_F32 (R122). IEEE minimumNumber of binary32 values. -/
  | fminF32 (d : BitVec 7) (a : BitVec 7) (b : BitVec 7)
  /-- FMAX_F32 (R122). IEEE maximumNumber of binary32 values. -/
  | fmaxF32 (d : BitVec 7) (a : BitVec 7) (b : BitVec 7)
  /-- FADD_F64 (R122). Adds binary64 pairs with one rounding. -/
  | faddF64 (d : BitVec 7) (a : BitVec 7) (b : BitVec 7)
  /-- FSUB_F64 (R122). Subtracts binary64 pairs with one rounding. -/
  | fsubF64 (d : BitVec 7) (a : BitVec 7) (b : BitVec 7)
  /-- FMUL_F64 (R122). Multiplies binary64 pairs with one rounding. -/
  | fmulF64 (d : BitVec 7) (a : BitVec 7) (b : BitVec 7)
  /-- FFMA_F64 (R122). Fused multiply-add in binary64. -/
  | ffmaF64 (d : BitVec 7) (a : BitVec 7) (b : BitVec 7)
  /-- FMIN_F64 (R122). IEEE minimumNumber of binary64 values. -/
  | fminF64 (d : BitVec 7) (a : BitVec 7) (b : BitVec 7)
  /-- FMAX_F64 (R122). IEEE maximumNumber of binary64 values. -/
  | fmaxF64 (d : BitVec 7) (a : BitVec 7) (b : BitVec 7)
  /-- FCMP_F32 (R123). Compares binary32 values into a predicate. -/
  | fcmpF32 (c : FCond) (p : BitVec 3) (a : BitVec 7) (b : BitVec 7)
  /-- FCMP_F64 (R123). Compares binary64 values into a predicate. -/
  | fcmpF64 (c : FCond) (p : BitVec 3) (a : BitVec 7) (b : BitVec 7)
  /-- FDIV_F32 (R124). Issues a correctly rounded binary32 division of class B. -/
  | fdivF32 (d : BitVec 7) (a : BitVec 7) (b : BitVec 7)
  /-- FSQRT_F32 (R124). Issues a correctly rounded binary32 square root. -/
  | fsqrtF32 (d : BitVec 7) (a : BitVec 7)
  /-- FRCP_F32 (R124). Issues a correctly rounded binary32 reciprocal. -/
  | frcpF32 (d : BitVec 7) (a : BitVec 7)
  /-- FRSQ_F32 (R124). Issues a correctly rounded binary32 reciprocal square root. -/
  | frsqF32 (d : BitVec 7) (a : BitVec 7)
  /-- FDIV_F64 (R124). Issues a correctly rounded binary64 division. -/
  | fdivF64 (d : BitVec 7) (a : BitVec 7) (b : BitVec 7)
  /-- FSQRT_F64 (R124). Issues a correctly rounded binary64 square root. -/
  | fsqrtF64 (d : BitVec 7) (a : BitVec 7)
  /-- FRCP_F64 (R124). Issues a correctly rounded binary64 reciprocal. -/
  | frcpF64 (d : BitVec 7) (a : BitVec 7)
  /-- FRSQ_F64 (R124). Issues a correctly rounded binary64 reciprocal square root. -/
  | frsqF64 (d : BitVec 7) (a : BitVec 7)
  /-- TRADD (R132). Adds tapered values with one rounding. -/
  | tradd (f : TapFmt) (d : BitVec 7) (a : BitVec 7) (b : BitVec 7)
  /-- TRSUB (R132). Subtracts tapered values with one rounding. -/
  | trsub (f : TapFmt) (d : BitVec 7) (a : BitVec 7) (b : BitVec 7)
  /-- TRMUL (R132). Multiplies tapered values with one rounding. -/
  | trmul (f : TapFmt) (d : BitVec 7) (a : BitVec 7) (b : BitVec 7)
  /-- TRFMA (R132). Fused tapered multiply-add with one rounding. -/
  | trfma (f : TapFmt) (d : BitVec 7) (a : BitVec 7) (b : BitVec 7)
  /-- TRMIN (R133). Selects the lesser tapered code by the total order. -/
  | trmin (f : TapFmt) (d : BitVec 7) (a : BitVec 7) (b : BitVec 7)
  /-- TRMAX (R133). Selects the greater tapered code by the total order. -/
  | trmax (f : TapFmt) (d : BitVec 7) (a : BitVec 7) (b : BitVec 7)
  /-- TRCMP (R134). Compares tapered codes into a predicate. -/
  | trcmp (f : TapFmt) (c : TCond) (p : BitVec 3) (a : BitVec 7) (b : BitVec 7)
  /-- TRDEC (R135). Unpacks a tapered code into a scale and fraction pair. -/
  | trdec (f : TapFmt) (d : BitVec 7) (a : BitVec 7)
  /-- TRENC (R135). Encodes a scale and fraction pair into a tapered code. -/
  | trenc (f : TapFmt) (d : BitVec 7) (a : BitVec 7)
  /-- QMAC (R137). Adds an exact tapered product into a lane exact accumulator. -/
  | qmac (f : QmacFmt) (q : BitVec 1) (a : BitVec 7) (b : BitVec 7)
  /-- QCLR (R137). Clears a lane exact accumulator. -/
  | qclr (q : BitVec 1)
  /-- QROUND (R137). Rounds a lane exact accumulator once into a target format. -/
  | qround (d : BitVec 7) (q : BitVec 1) (t : QTarget)
  /-- QADD (R137). Adds a value exactly into a lane exact accumulator. -/
  | qadd (f : QaddFmt) (q : BitVec 1) (a : BitVec 7)
  /-- FEX2_F32 (R125). Issues a correctly rounded binary32 power of two. -/
  | fex2F32 (d : BitVec 7) (a : BitVec 7)
  /-- FLG2_F32 (R125). Issues a correctly rounded binary32 base-2 logarithm. -/
  | flg2F32 (d : BitVec 7) (a : BitVec 7)
  /-- FSIN_F32 (R125). Issues a correctly rounded binary32 sine. -/
  | fsinF32 (d : BitVec 7) (a : BitVec 7)
  /-- FCOS_F32 (R125). Issues a correctly rounded binary32 cosine. -/
  | fcosF32 (d : BitVec 7) (a : BitVec 7)
  /-- CVT (R128). Converts a value between formats with one rounding. -/
  | cvt (t : CvtFmt) (d : BitVec 7) (a : BitVec 7) (f : CvtFmt)
  /-- CVT_CLAMP (R130). Converts to a tapered format with a per-lane clamp bound. -/
  | cvtClamp (t : CvtFmt) (d : BitVec 7) (a : BitVec 7) (f : CvtFmt)
  /-- SHFL_IDX (R142). Reads va from an indexed member lane. -/
  | shflIdx (w : Bool) (d : BitVec 7) (a : BitVec 7) (b : BitVec 7)
  /-- SHFL_UP (R142). Reads va from a lower member lane. -/
  | shflUp (w : Bool) (d : BitVec 7) (a : BitVec 7) (b : BitVec 7)
  /-- SHFL_DOWN (R142). Reads va from a higher member lane. -/
  | shflDown (w : Bool) (d : BitVec 7) (a : BitVec 7) (b : BitVec 7)
  /-- SHFL_XOR (R142). Reads va from the lane at an XOR distance. -/
  | shflXor (w : Bool) (d : BitVec 7) (a : BitVec 7) (b : BitVec 7)
  /-- VOTE_ANY (R143). Sets a predicate when any member lane holds pa. -/
  | voteAny (d : BitVec 3) (a : BitVec 3)
  /-- VOTE_ALL (R143). Sets a predicate when every member lane holds pa. -/
  | voteAll (d : BitVec 3) (a : BitVec 3)
  /-- VOTE_BALLOT (R143). Writes the mask of member lanes holding pa. -/
  | voteBallot (d : BitVec 7) (a : BitVec 3)
  /-- VOTE_EQ (R143). Sets a predicate when all member lanes hold equal va. -/
  | voteEq (d : BitVec 3) (a : BitVec 7)
  /-- MATCH_B32 (R144). Writes the mask of member lanes with equal 32-bit values. -/
  | matchB32 (d : BitVec 7) (a : BitVec 7)
  /-- MATCH_B64 (R144). Writes the mask of member lanes with equal 64-bit values. -/
  | matchB64 (d : BitVec 7) (a : BitVec 7)
  /-- RED (R146). Reduces va over member lanes into a uniform register, class B. -/
  | red (f : RedOp) (sd : BitVec 6) (a : BitVec 7)
  /-- SCAN (R147). Forms running sums over member lanes and a uniform total, class B. -/
  | scan (f : ScanOp) (d : BitVec 7) (a : BitVec 7) (sd : BitVec 6)
  /-- LD_B32 (R154). Loads 32 bits per lane through a buffer register. -/
  | ldB32 (d : BitVec 7) (a : BitVec 7) (b : BitVec 4) (i : BitVec 7)
  /-- LD_B64 (R154). Loads 64 bits per lane into a pair. -/
  | ldB64 (d : BitVec 7) (a : BitVec 7) (b : BitVec 4) (i : BitVec 7)
  /-- LD_B128 (R154). Loads 128 bits per lane into a quad. -/
  | ldB128 (d : BitVec 7) (a : BitVec 7) (b : BitVec 4) (i : BitVec 7)
  /-- ST_B32 (R154). Stores 32 bits per lane through a buffer register. -/
  | stB32 (d : BitVec 7) (a : BitVec 7) (b : BitVec 4) (i : BitVec 7)
  /-- ST_B64 (R154). Stores a pair per lane. -/
  | stB64 (d : BitVec 7) (a : BitVec 7) (b : BitVec 4) (i : BitVec 7)
  /-- ST_B128 (R154). Stores a quad per lane. -/
  | stB128 (d : BitVec 7) (a : BitVec 7) (b : BitVec 4) (i : BitVec 7)
  /-- LD_EXTENDED (R153). Loads a narrow, sign-extended, or acquire access with a scope. -/
  | ldExtended (d : BitVec 7) (a : BitVec 7) (b : BitVec 4) (wc : LdKind) (o : Bool) (c : Scope)
  /-- PF (R158). Prefetches a line into L1 and L3 or L3 only without faulting. -/
  | pf (a : BitVec 7) (b : BitVec 4) (l : PfLevel)
  /-- ST_EXTENDED (R153). Stores a narrow or release access with a scope. -/
  | stExtended (d : BitVec 7) (a : BitVec 7) (b : BitVec 4) (wc : StKind) (o : Bool) (c : Scope)
  /-- LDS_B32 (R159). Loads 32 bits per lane from the team scratchpad. -/
  | ldsB32 (d : BitVec 7) (a : BitVec 7) (i : BitVec 11)
  /-- LDS_B64 (R159). Loads a pair per lane from the team scratchpad. -/
  | ldsB64 (d : BitVec 7) (a : BitVec 7) (i : BitVec 11)
  /-- STS_B32 (R159). Stores 32 bits per lane into the team scratchpad. -/
  | stsB32 (d : BitVec 7) (a : BitVec 7) (i : BitVec 11)
  /-- STS_B64 (R159). Stores a pair per lane into the team scratchpad. -/
  | stsB64 (d : BitVec 7) (a : BitVec 7) (i : BitVec 11)
  /-- ATOM_ADD_B32 (R164). Atomically adds to a 32-bit word and returns the old value. -/
  | atomAddB32 (d : BitVec 7) (a : BitVec 7) (b : BitVec 4) (sc : Scope)
  /-- ATOM_MIN_SG_B32 (R164). Atomic signed minimum on a 32-bit word. -/
  | atomMinSgB32 (d : BitVec 7) (a : BitVec 7) (b : BitVec 4) (sc : Scope)
  /-- ATOM_MIN_US_B32 (R164). Atomic unsigned minimum on a 32-bit word. -/
  | atomMinUsB32 (d : BitVec 7) (a : BitVec 7) (b : BitVec 4) (sc : Scope)
  /-- ATOM_MAX_SG_B32 (R164). Atomic signed maximum on a 32-bit word. -/
  | atomMaxSgB32 (d : BitVec 7) (a : BitVec 7) (b : BitVec 4) (sc : Scope)
  /-- ATOM_MAX_US_B32 (R164). Atomic unsigned maximum on a 32-bit word. -/
  | atomMaxUsB32 (d : BitVec 7) (a : BitVec 7) (b : BitVec 4) (sc : Scope)
  /-- ATOM_AND_B32 (R164). Atomic AND on a 32-bit word. -/
  | atomAndB32 (d : BitVec 7) (a : BitVec 7) (b : BitVec 4) (sc : Scope)
  /-- ATOM_OR_B32 (R164). Atomic OR on a 32-bit word. -/
  | atomOrB32 (d : BitVec 7) (a : BitVec 7) (b : BitVec 4) (sc : Scope)
  /-- ATOM_XOR_B32 (R164). Atomic XOR on a 32-bit word. -/
  | atomXorB32 (d : BitVec 7) (a : BitVec 7) (b : BitVec 4) (sc : Scope)
  /-- ATOM_XCHG_B32 (R164). Atomic exchange on a 32-bit word. -/
  | atomXchgB32 (d : BitVec 7) (a : BitVec 7) (b : BitVec 4) (sc : Scope)
  /-- ATOM_CAS_B32 (R164). Atomic compare-and-swap on a 32-bit word with vc as new value. -/
  | atomCasB32 (d : BitVec 7) (a : BitVec 7) (b : BitVec 4) (sc : Scope)
  /-- ATOM_ADD_B64 (R164). Atomically adds to a 64-bit word. -/
  | atomAddB64 (d : BitVec 7) (a : BitVec 7) (b : BitVec 4) (sc : Scope)
  /-- ATOM_MIN_SG_B64 (R164). Atomic signed minimum on a 64-bit word. -/
  | atomMinSgB64 (d : BitVec 7) (a : BitVec 7) (b : BitVec 4) (sc : Scope)
  /-- ATOM_MIN_US_B64 (R164). Atomic unsigned minimum on a 64-bit word. -/
  | atomMinUsB64 (d : BitVec 7) (a : BitVec 7) (b : BitVec 4) (sc : Scope)
  /-- ATOM_MAX_SG_B64 (R164). Atomic signed maximum on a 64-bit word. -/
  | atomMaxSgB64 (d : BitVec 7) (a : BitVec 7) (b : BitVec 4) (sc : Scope)
  /-- ATOM_MAX_US_B64 (R164). Atomic unsigned maximum on a 64-bit word. -/
  | atomMaxUsB64 (d : BitVec 7) (a : BitVec 7) (b : BitVec 4) (sc : Scope)
  /-- ATOM_AND_B64 (R164). Atomic AND on a 64-bit word. -/
  | atomAndB64 (d : BitVec 7) (a : BitVec 7) (b : BitVec 4) (sc : Scope)
  /-- ATOM_OR_B64 (R164). Atomic OR on a 64-bit word. -/
  | atomOrB64 (d : BitVec 7) (a : BitVec 7) (b : BitVec 4) (sc : Scope)
  /-- ATOM_XOR_B64 (R164). Atomic XOR on a 64-bit word. -/
  | atomXorB64 (d : BitVec 7) (a : BitVec 7) (b : BitVec 4) (sc : Scope)
  /-- ATOM_XCHG_B64 (R164). Atomic exchange on a 64-bit word. -/
  | atomXchgB64 (d : BitVec 7) (a : BitVec 7) (b : BitVec 4) (sc : Scope)
  /-- ATOM_CAS_B64 (R164). Atomic compare-and-swap on a 64-bit word. -/
  | atomCasB64 (d : BitVec 7) (a : BitVec 7) (b : BitVec 4) (sc : Scope)
  /-- ACAS_B128 (R165). Indivisible 16-byte compare-and-swap. -/
  | acasB128 (d : BitVec 7) (a : BitVec 7) (b : BitVec 4) (sc : Scope)
  /-- AACC (R166). Adds a value exactly into a W320 value in memory. -/
  | aacc (d : BitVec 7) (a : BitVec 7) (b : BitVec 4) (f : AaccFmt)
  /-- ARSV (R167). Reserves element places in a reserved-append buffer. -/
  | arsv (d : BitVec 7) (b : BitVec 4)
  /-- BRA (R114). Per-lane conditional relative branch. -/
  | bra (p : BitVec 3) (n : Bool) (o : BitVec 17)
  /-- CALL (R114). Per-lane conditional relative call writing the link pair. -/
  | call (p : BitVec 3) (n : Bool) (o : BitVec 17)
  /-- CALLR (R114). Per-lane conditional call to a register target. -/
  | callr (p : BitVec 3) (n : Bool) (a : BitVec 7)
  /-- RET (R114). Per-lane conditional return through v62 and v63. -/
  | ret (p : BitVec 3) (n : Bool)
  /-- JMPR (R114). Per-lane conditional jump to a register target. -/
  | jmpr (p : BitVec 3) (n : Bool) (a : BitVec 7)
  /-- EXIT (R115). Ends each lane whose condition holds. -/
  | exit (p : BitVec 3) (n : Bool)
  /-- YIELD (R116). Makes the end of the word a yield point and clears the watchdog. -/
  | yield
  /-- TRAP (R117). Raises a trap-instruction fault with a code. -/
  | trap (p : BitVec 3) (n : Bool) (c : BitVec 16)
  /-- BKPT (R117). Raises a breakpoint fault with a code. -/
  | bkpt (p : BitVec 3) (n : Bool) (c : BitVec 16)
  /-- NOP (R116). Changes nothing but RIC. -/
  | nop
  /-- X_PREFIX (R84). Guards, rounds, lane-modifies or extends the next word. -/
  | xPrefix (g : BitVec 3) (z : Bool) (n : Bool) (r : RMode) (v : BitVec 7) (k : LKind) (kk : BitVec 5) (ls : Bool)
  /-- W_PREFIX (R88). Holds the next word until named completion flags are done. -/
  | wPrefix (sw : Bool) (p : BitVec 12)
  /-- UADD (R109). Adds two uniform registers. -/
  | uadd (d : BitVec 6) (a : BitVec 6) (b : BitVec 6)
  /-- USUB (R109). Subtracts two uniform registers. -/
  | usub (d : BitVec 6) (a : BitVec 6) (b : BitVec 6)
  /-- UMUL (R109). Multiplies two uniform registers. -/
  | umul (d : BitVec 6) (a : BitVec 6) (b : BitVec 6)
  /-- UAND (R109). Bitwise AND of uniform registers. -/
  | uand (d : BitVec 6) (a : BitVec 6) (b : BitVec 6)
  /-- UOR (R109). Bitwise OR of uniform registers. -/
  | uor (d : BitVec 6) (a : BitVec 6) (b : BitVec 6)
  /-- UXOR (R109). Bitwise XOR of uniform registers. -/
  | uxor (d : BitVec 6) (a : BitVec 6) (b : BitVec 6)
  /-- USHL (R109). Shifts a uniform register left. -/
  | ushl (d : BitVec 6) (a : BitVec 6) (b : BitVec 6)
  /-- USHR (R109). Shifts a uniform register right with zero fill. -/
  | ushr (d : BitVec 6) (a : BitVec 6) (b : BitVec 6)
  /-- USAR (R109). Shifts a uniform register right with sign fill. -/
  | usar (d : BitVec 6) (a : BitVec 6) (b : BitVec 6)
  /-- UMIN_SG (R109). Signed minimum of uniform registers. -/
  | uminSg (d : BitVec 6) (a : BitVec 6) (b : BitVec 6)
  /-- UMIN_US (R109). Unsigned minimum of uniform registers. -/
  | uminUs (d : BitVec 6) (a : BitVec 6) (b : BitVec 6)
  /-- UMAX_SG (R109). Signed maximum of uniform registers. -/
  | umaxSg (d : BitVec 6) (a : BitVec 6) (b : BitVec 6)
  /-- UMAX_US (R109). Unsigned maximum of uniform registers. -/
  | umaxUs (d : BitVec 6) (a : BitVec 6) (b : BitVec 6)
  /-- UMOV (R109). Copies a uniform register. -/
  | umov (d : BitVec 6) (a : BitVec 6)
  /-- USEL (R109). Selects sa or sb by the old value of sd. -/
  | usel (d : BitVec 6) (a : BitVec 6) (b : BitVec 6)
  /-- UCMP (R109). Writes 1 or 0 by a uniform comparison. -/
  | ucmp (d : BitVec 6) (a : BitVec 6) (b : BitVec 6) (c : UCond)
  /-- UADD_IMM (R110). Adds a sign-extended 13-bit immediate to a uniform register. -/
  | uaddImm (d : BitVec 6) (a : BitVec 6) (i : BitVec 13)
  /-- ULD (R112). Loads 64 bits into a uniform register through a buffer. -/
  | uld (d : BitVec 6) (a : BitVec 6) (b : BitVec 4) (o : BitVec 8)
  /-- UST (R112). Stores a 64-bit uniform register through a buffer. -/
  | ust (d : BitVec 6) (a : BitVec 6) (b : BitVec 4) (o : BitVec 8)
  /-- UMOVI_LO (R111). Writes a sign-extended 19-bit immediate to a uniform register. -/
  | umoviLo (d : BitVec 6) (i : BitVec 19)
  /-- UMOVI_HI (R111). Shifts a uniform register left 19 and ORs in an immediate. -/
  | umoviHi (d : BitVec 6) (i : BitVec 19)
  /-- UBRA (R118). Uniform conditional relative branch of the whole bundle. -/
  | ubra (n : Bool) (a : BitVec 6) (i : BitVec 13)
  /-- UCALL (R118). Uniform conditional relative call writing s63. -/
  | ucall (n : Bool) (a : BitVec 6) (i : BitVec 13)
  /-- UBRA_REG (R118). Uniform branch to the address in a uniform register. -/
  | ubraReg (a : BitVec 6)
  /-- UCALL_REG (R118). Uniform call to the address in a uniform register. -/
  | ucallReg (a : BitVec 6)
  /-- FENCE (R169). Full fence at a scope. -/
  | fence (sc : Scope)
  /-- FENCE_ACQ (R169). Acquire fence at a scope. -/
  | fenceAcq (sc : Scope)
  /-- FENCE_REL (R169). Release fence at a scope. -/
  | fenceRel (sc : Scope)
  /-- FENCE_LREC (R170). Team release then invalidation of the layout-record cache. -/
  | fenceLrec
  /-- BAR_INIT (R174). Sets a team barrier's expected count, ending a live phase in error. -/
  | barInit (a : BitVec 6) (n : BitVec 6)
  /-- BAR_ARRIVE (R174). Arrives at a team barrier and returns the phase token. -/
  | barArrive (d : BitVec 6) (n : BitVec 6)
  /-- BAR_WAIT (R174). Waits for the phase named by a token to end. -/
  | barWait (d : BitVec 6) (a : BitVec 6) (n : BitVec 6)
  /-- BAR_SYNC (R174). Arrives at and waits on a team barrier. -/
  | barSync (d : BitVec 6) (n : BitVec 6)
  /-- BAR_INVAL (R174). Ends a barrier phase in error and invalidates the barrier. -/
  | barInval (n : BitVec 6)
  /-- FBAR_SYNC (R175). Synchronises k fibres of a slot at a fibre barrier. -/
  | fbarSync (d : BitVec 6) (n : BitVec 6) (k : BitVec 3)
  /-- RING_INIT (R178). Reconfigures a stage ring, ending its waits with status 0x12. -/
  | ringInit (a : BitVec 6) (r : BitVec 6)
  /-- RING_ARRIVE_FULL (R178). Arrives on the full side of a ring stage. -/
  | ringArriveFull (a : BitVec 6) (r : BitVec 6)
  /-- RING_ARRIVE_EMPTY (R178). Arrives on the empty side of a ring stage. -/
  | ringArriveEmpty (a : BitVec 6) (r : BitVec 6)
  /-- RING_WAIT_FULL (R178). Waits while the full side's phase equals the parity. -/
  | ringWaitFull (d : BitVec 6) (a : BitVec 6) (r : BitVec 6) (q : Bool)
  /-- RING_WAIT_EMPTY (R178). Waits while the empty side's phase equals the parity. -/
  | ringWaitEmpty (d : BitVec 6) (a : BitVec 6) (r : BitVec 6) (q : Bool)
  /-- CFTEST (R179). Reads the pending and error bits of a completion flag. -/
  | cftest (d : BitVec 6) (n : BitVec 6)
  /-- COPY (R190). Starts a tile copy from memory into the scratchpad. -/
  | copy (a : BitVec 6) (b : BitVec 4) (sc : Scope)
  /-- COPY_ST (R190). Starts a tile copy from the scratchpad to memory. -/
  | copySt (a : BitVec 6) (b : BitVec 4) (sc : Scope)
  /-- COPY_ACC (R190). Starts exact accumulation of a scratchpad tile into W320 memory. -/
  | copyAcc (a : BitVec 6) (b : BitVec 4) (sc : Scope)
  /-- CVINIT (R195). Sets a convergence register's signer count and discards pending signatures. -/
  | cvinit (a : BitVec 6) (c : BitVec 4)
  /-- MMA (R196). Signs a convergence register for a matrix multiply-accumulate. -/
  | mma (a : BitVec 6) (c : BitVec 4)
  /-- WBLOAD (R201). Loads raw bytes into the weight buffer. -/
  | wbload (a : BitVec 6) (b : BitVec 4)
  /-- WBLOAD_MASK (R201). Loads a masked stream into the weight buffer. -/
  | wbloadMask (a : BitVec 6) (b : BitVec 4)
  /-- ACCLD (R202). Loads scratchpad elements into W320 accumulator entries. -/
  | accld (a : BitVec 6)
  /-- ACCLD_F64 (R202). Loads scratchpad elements into binary64 accumulator entries. -/
  | accldF64 (a : BitVec 6)
  /-- ACCST (R202). Rounds W320 accumulator entries out to the scratchpad. -/
  | accst (a : BitVec 6)
  /-- ACCST_F64 (R202). Converts binary64 accumulator entries out to the scratchpad. -/
  | accstF64 (a : BitVec 6)
  /-- ACCZERO (R202). Zeroes a rectangle of accumulator entries. -/
  | acczero (a : BitVec 6)
  /-- OPFENCE (R200). Holds until earlier operand writes are complete for the matrix engine. -/
  | opfence
  /-- XFORM_CVT (R204). Converts elements in the L3 bank transform units. -/
  | xformCvt (a : BitVec 6) (b : BitVec 4)
  /-- XFORM_ROUND (R204). Rounds W320 elements in the bank transform units. -/
  | xformRound (a : BitVec 6) (b : BitVec 4)
  /-- XFORM_SCALE (R204). Scales elements by a power of two in place. -/
  | xformScale (a : BitVec 6) (b : BitVec 4)
  /-- XFORM_FILL (R204). Fills elements with a code. -/
  | xformFill (a : BitVec 6) (b : BitVec 4)
  /-- XFORM_ZERO (R204). Zeroes elements. -/
  | xformZero (a : BitVec 6) (b : BitVec 4)
  /-- MSG_SEND (R205). Sends 64 bytes to a mailbox as a release at domain scope. -/
  | msgSend (a : BitVec 6) (b : BitVec 6)
  /-- MSG_RECV (R206). Pops the oldest message of a mailbox into uniform registers. -/
  | msgRecv (d : BitVec 6) (a : BitVec 6) (b : BitVec 6)
  /-- SREG_RD_VECTOR (R209). Reads a special register into each lane. -/
  | sregRdVector (d : BitVec 7) (i : BitVec 6)
  /-- SREG_RD_UNIFORM (R209). Reads a special register into a uniform register. -/
  | sregRdUniform (d : BitVec 6) (i : BitVec 6)
  /-- SREG_WR (R209). Writes FPSTAT from a uniform register. -/
  | sregWr (a : BitVec 6) (i : BitVec 6)
  /-- TEMIT (R210). Appends a trace record to the core's trace FIFO. -/
  | temit (a : BitVec 6) (c : BitVec 3)
  /-- CTR_RD (R211). Reads a counter into a uniform register. -/
  | ctrRd (d : BitVec 6) (n : BitVec 6)
  /-- CTR_CTL (R375). Writes the control register of a programmable counter. -/
  | ctrCtl (a : BitVec 6) (n : BitVec 6)
  /-- RTAG (R212). Reads the shape tags of 32 vector registers. -/
  | rtag (d : BitVec 6) (g : BitVec 2)
  /-- GLAUNCH (R208). Writes a launch packet to a work queue and rings its doorbell. -/
  | glaunch (a : BitVec 6) (q : BitVec 6)
  /-- CLAUSE_FETCH (R70). Fetches and checks a clause whole before its first word issues. -/
  | clauseFetch (fibre : Nat)
  /-- RIC_WRAP (R34). RIC wraps from 0xFFFF_FFFF to 0 and the recorder logs a WRAP record. -/
  | ricWrap (fibre : Nat)
  /-- WATCHDOG_FAULT (R42). The slot watchdog count reaches 2^WDLOG and freezes the fibre at its next clause boundary. -/
  | watchdogFault (fibre : Nat)
  /-- DROWSY_RETENTION (R39). A fibre Waiting for 4096 clocks has its granules put into drowsy retention. -/
  | drowsyRetention (fibre : Nat)
  /-- LOAD_DATA_RETURN (R156). Load data arrives, is written to the destination and clears its pending mark. -/
  | loadDataReturn (op : Nat)
  /-- STORE_PERFORMED (R156). A store is performed at its point and its flag count settles. -/
  | storePerformed (op : Nat)
  /-- ATOMIC_PERFORMED (R164). An atomic is performed at the point of its scope and returns the old value. -/
  | atomicPerformed (op : Nat)
  /-- CLASS_B_COMPLETE (R124). A divide, special function, reduction or scan completes and writes its destination. -/
  | classBComplete (op : Nat)
  /-- PAGE_WALK_COMPLETE (R288). A page walker returns a translation or a fault outcome for a held word. -/
  | pageWalkComplete (fibre : Nat)
  /-- LREC_FILL_COMPLETE (R184). A layout-record cache fill returns and the stalled engine word issues. -/
  | lrecFillComplete (fibre : Nat)
  /-- COPY_LINE_ARRIVAL (R161). Copy data for a scratchpad line arrives and sets its presence bit, freeing parked lanes. -/
  | copyLineArrival (op : Nat) (line : Nat)
  /-- ENGINE_OPERATION_COMPLETE (R187). An engine operation writes its status, arrives at its SYNC target and settles its flag. -/
  | engineOperationComplete (op : Nat)
  /-- FIBRE_RELEASE (R115). Releases a fibre once all its lanes have exited and its operations completed. -/
  | fibreRelease (fibre : Nat)
  /-- MESSAGE_ARRIVAL (R356). Admits an arriving message into a mailbox ring slot or the overflow store. -/
  | messageArrival (mbox : Nat) (sender : Nat) (spart : Nat) (sseq : Nat) (payload : BitVec 512)
  /-- MSG_ACCEPTED (R205). The destination's acceptance of a message makes the sender's flag done. -/
  | msgAccepted (op : Nat)
  /-- MAILBOX_ADMISSION_SIGNAL (R409). A sender resends retried replay arrivals when the mailbox signals a further admission. -/
  | mailboxAdmissionSignal (dev : Nat) (mbox : Nat)
  /-- QDB_WRITE (R236). A doorbell write advances a work queue's TAIL when it is ahead within range. -/
  | qdbWrite (queue : Nat) (value : BitVec 64)
  /-- PACKET_CONSUME (R236). Trailhead consumes the packet at HEAD once it may begin dispatch or is refused. -/
  | packetConsume (queue : Nat)
  /-- CLUSTER_PLACE (R242). Places the next cluster of a grid on a qualifying rectangle once cores are free. -/
  | clusterPlace (grid : Nat)
  /-- PRIORITY_WAIT_LIMIT (R246). A higher-priority cluster waiting 100 us blocks placement of lower grids. -/
  | priorityWaitLimit (grid : Nat)
  /-- GRID_COMPLETE (R231). Trailhead releases a finished grid's writes at system scope and posts its completion. -/
  | gridComplete (grid : Nat)
  /-- TEAM_RETIRE (R257). The ticket unit performs a finished team's staged writes in team-index order. -/
  | teamRetire (grid : Nat)
  /-- MODE_CHANGE_APPLY (R234). Applies a written PCTL.MODE at the partition's next kernel boundary. -/
  | modeChangeApply (part : Nat)
  /-- THROTTLE_SIGNAL (R250). A throttle signal halves a core's active group limit. -/
  | throttleSignal (core : Nat)
  /-- QUIET_INTERVAL (R250). A quiet interval without signals doubles the active group limit. -/
  | quietInterval (core : Nat)
  /-- QUEUE_CONGESTION (R342). A channel queue reaching its threshold signals throttle to requesting cores; cores lists its requests beyond those of
  fibres' operations, by core. -/
  | queueCongestion (channel : Nat) (cores : List Nat)
  /-- CONGESTION_REPEAT (R342). Every 256 clocks at or above threshold the channel signals throttle again. -/
  | congestionRepeat (channel : Nat) (cores : List Nat)
  /-- GANG_SWITCH_PROPOSE (R254). The proposer sends a switch instant to every gang member. -/
  | gangSwitchPropose (part : Nat) (t : Nat)
  /-- GANG_TIME_MESSAGE (R254). A member receiving a switch instant arms a comparison and acknowledges. -/
  | gangTimeMessage (part : Nat) (t : Nat)
  /-- GANG_CANCELLATION (R254). A member receiving a cancellation disarms its switch. -/
  | gangCancellation (what : GangInstant)
  /-- GANG_ACK_DEADLINE (R254). Missing acknowledgements by T - 200 us make the proposer cancel and repropose. -/
  | gangAckDeadline (part : Nat) (t : Nat)
  /-- GANG_SWITCH (R255). At instant T the partition halts, saves state and exchanges contexts with Bivouac. -/
  | gangSwitch (part : Nat)
  /-- BIVOUAC_FILL (R255). Trailhead fills Bivouac with the incoming context during the outgoing slice. -/
  | bivouacFill (part : Nat)
  /-- BIVOUAC_SPILL (R255). Trailhead spills exchanged outgoing arrays to the context area. -/
  | bivouacSpill (part : Nat)
  /-- CAIRN (R311). At a kernel boundary Trailhead quiesces and opens a new epoch and Cairn. -/
  | cairn (part : Nat)
  /-- POD_CAIRN_PROPOSE (R322). The proposer proposes a pod Cairn instant and number. -/
  | podCairnPropose (part : Nat) (t : Nat) (number : Nat)
  /-- POD_CAIRN_ACK_TIMEOUT (R322). Without all acknowledgements within 1 s the pod Cairn is cancelled. -/
  | podCairnAckTimeout (part : Nat)
  /-- POD_CAIRN_TAKE (R322). At instant T2 every member takes the agreed Cairn. -/
  | podCairnTake (part : Nat)
  /-- CHUNK_LIMIT (R302). A chunk reaching CHMAX words ends with a CHUNK record. -/
  | chunkLimit (fibre : Nat)
  /-- SEQUENCE_EXHAUSTED (R300). A line's sequence passing 2^32 - 1 sets ANCLOST and ends every log. -/
  | sequenceExhausted (line : Nat)
  /-- REPLAY_LOG_END (R317). When the log is exhausted the partition halts and SUB 5 records are posted. -/
  | replayLogEnd (part : Nat)
  /-- ABORT_DRAINED (R348). Once every operation of an aborting grid completes, restore begins. -/
  | abortDrained (grid : Nat)
  /-- RESTORE_COMPLETE (R349). The undo restore ends and the grid is relaunched, ended or replay begins. -/
  | restoreComplete (part : Nat)
  /-- EPOCH_SCRUB (R346). The scrubber rewrites stale EPOCH fields of a partition's lines. -/
  | epochScrub (part : Nat)
  /-- L1_EVICTION (R220). An evicted L1 line writes back its dirty words and registers them at the L3. -/
  | l1Eviction (core : Nat) (line : Nat)
  /-- COHERENCE_READ (R331). The home slice decides a remote device's read of a line. -/
  | coherenceRead (who : Requester) (line : Nat) (via : Sharing)
  /-- COHERENCE_OWNERSHIP (R331). The home slice decides a remote device's request for ownership. -/
  | coherenceOwnership (who : Requester) (line : Nat) (via : Sharing)
  /-- COHERENCE_WRITEBACK (R331). An owner's write-back reaches the home slice and updates the state. -/
  | coherenceWriteback (who : Requester) (line : Nat) (data : BitVec 1024) (mask : BitVec 128)
  /-- EVICTION_NOTICE (R331). An E owner's eviction notice moves the line to I. -/
  | evictionNotice (dev : Nat) (line : Nat)
  /-- INVALIDATION (R331). A device receives an invalidation, drops its copy and acknowledges. -/
  | invalidation (home : Nat) (line : Nat)
  /-- RECALL (R331). An owner receives a recall and writes back its dirty bytes. -/
  | recallLine (home : Nat) (line : Nat)
  /-- LOST_COPIES_NOTICE (R368). A home device treats every line owned by a reset device as lost and poisoned. -/
  | lostCopiesNotice (dev : Nat)
  /-- HOST_MEM_READ (R351). A host CXL.mem read of device memory is served as a system-scope access. -/
  | hostMemRead (port : Nat) (h : Nat) (len : Nat)
  /-- HOST_MEM_WRITE (R351). A host CXL.mem write is performed, discarded or held. -/
  | hostMemWrite (port : Nat) (h : Nat) (data : List (BitVec 8))
  /-- HOST_CACHE_OWNERSHIP (R331). A host CXL.cache ownership request is decided at the home slice. -/
  | hostCacheOwnership (port : Nat) (line : Nat)
  /-- PAGE_RECOMPRESS (R336). Trailhead rewrites a compressed page densely and releases the held write. -/
  | pageRecompress (part : Nat) (page : Nat)
  /-- RM_THRESHOLD (R337). A row's activation count reaching TH starts a refresh-management hold. -/
  | rmThreshold (bank : Nat) (row : Nat)
  /-- RM_HOLD_END (R337). After INT clocks the held bank is released. -/
  | rmHoldEnd (bank : Nat)
  /-- PERIODIC_REFRESH (R337). A row's periodic refresh clears its activation count. -/
  | periodicRefresh (bank : Nat) (row : Nat)
  /-- TRACE_FILTER (R380). Lantern takes a trace record, runs the filter and keeps or drops it. -/
  | traceFilter (core : Nat)
  /-- LINK_FAILURE (R354). A failed Guyline link retrains and resends unacknowledged flits. -/
  | linkFailure (port : Nat)
  /-- LINK_TIMEOUT (R354). A link not up within LINKTO is removed from every route entry. -/
  | linkTimeout (port : Nat)
  /-- PTP_TIME_UPDATE (R360). IEEE 1588 time on the management port slews GTS. -/
  | ptpTimeUpdate (time : Nat)
  /-- INTR_FREEZE (R277). An interrupted fibre is frozen at its next clause boundary with an ASYNC record. -/
  | intrFreeze (fibre : Nat)
  /-- STEP_COMPLETE (R276). A stepped word's operations complete and the fibre returns with a STEP record. -/
  | stepComplete (fibre : Nat)
  /-- RESUME (R274). Makes a Frozen fibre Ready at its resume point. -/
  | resume (fibre : Nat)
  /-- SKIP (R274). Moves a Frozen fibre's resume point past the faulting word and resumes it. -/
  | skip (fibre : Nat)
  /-- STEP (R276). Issues exactly one word for one lane of a stopped fibre. -/
  | step (fibre : Nat) (lane : Nat)
  /-- RDREG (R275). Reads one register of a bound fibre. -/
  | rdreg (fibre : Nat) (sel : RegSel) (lane : Nat)
  /-- WRREG (R275). Writes one register of a Frozen or Halted fibre. -/
  | wrreg (fibre : Nat) (sel : RegSel) (lane : Nat) (value : BitVec 320)
  /-- INTR (R277). Requests a freeze of a fibre or of all fibres of a grid. -/
  | intr (target : Nat) (wholeGrid : Bool)
  /-- HALT (R277). Halts a partition at clause boundaries and drains engines. -/
  | halt (part : Nat)
  /-- UNHALT (R277). Resumes a halted partition. -/
  | unhalt (part : Nat)
  /-- TERMINATE (R274). Aborts a grid with STATUS 0x30. -/
  | terminate (handle : Nat)
  /-- REPLAY (R313). Restores a partition to a Cairn and starts replay of its log. -/
  | replay (part : Nat) (cairn : Nat) (flags : BitVec 64)
  /-- CTRTOT (R378). Returns the twelve top-down leaf totals of a context. -/
  | ctrtot (vi : Nat)
  /-- CTRGRANT (R378). Grants or revokes counter control for a context. -/
  | ctrgrant (vi : Nat) (grant : Bool)
  /-- LANTERN_LOAD (R382). Checks and installs a Lantern filter program. -/
  | lanternLoad (vi : Nat) (addr : Nat) (len : Nat)
  /-- LANTERN_READ (R378). Returns Lantern counters k0 to k15. -/
  | lanternRead (vi : Nat)
  /-- CTRPROG (R398). Holds four PMCTL values to be applied at the context's next team binding. -/
  | ctrprog (vi : Nat) (c0 : BitVec 64) (c1 : BitVec 64) (c2 : BitVec 64) (c3 : BitVec 64)
  /-- CTRREAD (R399). Writes per-core counts and ISSUED to the command's payload area. -/
  | ctrread (vi : Nat) (addr : Nat)
  /-- CFGRD (R363). Reads one configuration register. -/
  | cfgrd (space : Nat) (inst : Nat)
  /-- CFGWR (R363). Writes masked bits of one configuration register. -/
  | cfgwr (space : Nat) (inst : Nat) (value : BitVec 64) (mask : BitVec 64)
  /-- BTINVAL (R284). Drops cached buffer-table entries on every core of the device. -/
  | btinval (ctx : Nat) (first : Nat) (count : Nat)
  /-- TLBINVAL (R291). Drops matching TLB and walker-cache entries on the device. -/
  | tlbinval (ctx : Nat) (va : Nat) (len : Nat)
  /-- MRDB_WRITE (R362). Announcing requests makes Trailhead read and execute the management ring. -/
  | mrdbWrite (fn : Nat) (value : BitVec 64)
  /-- MGMT_DATAGRAM (R362). A management request arrives as a UDP datagram on the management port. -/
  | mgmtDatagram (bytes : List (BitVec 8))
  /-- INFO (R361). Returns part, stepping, firmware version and device number. -/
  | info
  /-- STORE_MANIFEST (R364). Verifies and stores a signed manifest. -/
  | storeManifest (bytes : List (BitVec 8))
  /-- COMPARE_MANIFEST (R364). Compares a stored manifest against one snapshot of the fields. -/
  | compareManifest (index : Nat)
  /-- ATTEST (R366). Returns a signed attestation report. -/
  | attest (nonce : BitVec 256) (part : Nat) (addr : Nat)
  /-- OPEN_SESSION (R366). Opens an attested session bound to a confidential context. -/
  | openSession (ctx : Nat) (ct : List (BitVec 8))
  /-- REMAP_ADD (R340). Moves a DRAM row to a spare row in both remap-table copies. -/
  | remapAdd (channel : Nat) (pc : Nat) (bank : Nat) (row : Nat)
  /-- POWER_STATE (R369). Moves the device to a commanded power state. -/
  | powerState (target : Nat)
  /-- WARM_RESET (R368). Enters warm reset, keeping HBM contents and configuration. -/
  | warmReset
  /-- FW_UPDATE (R367). Verifies and installs a signed firmware image. -/
  | fwUpdate (bytes : List (BitVec 8))
  /-- CXL_HOT_RESET (R368). A CXL hot reset of a host port enters warm reset. -/
  | cxlHotReset (port : Nat)
  /-- COLD_RESET (R367). Power-on or fundamental reset verifies firmware and trains the memory and links. -/
  | coldReset
  /-- THERMAL_WARNING (R370). Junction temperature above 95 deg C signals a warning to the host. -/
  | thermalWarning
  /-- THERMAL_TRIP (R370). At 110 deg C the device stops every link and enters PS4. -/
  | thermalTrip
  /-- FQCFG_WRITE (R272). A fault-queue configuration write also retries posting held records. -/
  | fqcfgWrite (vi : Nat) (value : BitVec 64)
  /-- FQPTR_WRITE (R272). A fault-queue HEAD write frees space and retries held records. -/
  | fqptrWrite (vi : Nat) (value : BitVec 64)
  /-- FQSTAT_READ (R271). Reading FQSTAT returns and clears the LOST count. -/
  | fqstatRead (vi : Nat)
  /-- SRSTAT_READ (R295). Reading SRSTAT returns and clears the lost-summary count. -/
  | srstatRead
  /-- TRSTAT_READ (R380). Reading TRSTAT returns and clears the trace LOST count. -/
  | trstatRead (vi : Nat)
  /-- HBM_ERR_READ (R338). Reading HBM.ERR returns and clears the error counts. -/
  | hbmErrRead (stack : Nat)
  /-- TRPTR_WRITE (R380). A trace-ring HEAD write frees space for a waiting Lantern. -/
  | trptrWrite (vi : Nat) (value : BitVec 64)
  /-- URSTAT_FAIL_CLEAR (R348). Clearing URSTAT.FAIL moves the undo state from FAILED to IDLE. -/
  | urstatFailClear (part : Nat)
  /-- REGISTER_WRITE (R9). Writes a register that has no row of its own, by its access codes. -/
  | registerWrite (reg : IoReg) (inst : Nat) (value : BitVec 64)
  /-- RECORDER_BUFFER_FREE (R304). A recorder's page write to the ring completes and frees a page buffer, releasing words stalled on a full recorder. -/
  | recorderBufferFree (part : Nat) (rec : Nat)
  /-- TWIN_PAGE_CONSUMED (R310). The twin consumes a log page, advancing TWPG and releasing a primary recorder stalled at that page. -/
  | twinPageConsumed (part : Nat)
  /-- POWER_LOSS (R365). Loss of supply stops the package, losing everything but fuses and non-volatile storage, and can skip a committed LMS index. -/
  | powerLoss
  /-- LINK_RETRAINED (R354). A failed Guyline link comes up again within LINKTO and resends its unacknowledged flits in order. -/
  | linkRetrained (port : Nat)
  /-- FLIT_CRC_RETRY (R352). A received Guyline flit whose CRC fails is retried. -/
  | flitCrcRetry (port : Nat)
  /-- GUYLINE_CREDIT_RETURN (R352). Credits return on a Guyline virtual channel, releasing traffic stalled on that full channel. -/
  | guylineCreditReturn (port : Nat) (vc : Nat)
  /-- POD_CAIRN_INSTANT (R322). At the proposed instant T each gang member begins holding dispatch at its next kernel boundary toward acknowledging the pod Cairn. -/
  | podCairnInstant (part : Nat)
  /-- POD_CAIRN_ACKNOWLEDGED (R322). The proposer receives every member's acknowledgement and names the second instant T2. -/
  | podCairnAcknowledged (part : Nat) (t2 : Nat)
  /-- H2D_SNOOP (R350). A host H2D snoop of a host line cached by Trailhead is answered. -/
  | h2dSnoop (port : Nat) (addr : Nat)
  deriving DecidableEq, Repr

end Sys2Proof
end

