-- ==== Sys2Proof/Machine/State.lean ====
section
/-!
DEFINITION. Sys2Proof/Machine/State.lean: everything the spec gives one NX9 device, as plain data; Fault, Refusal and the
state after cold reset (R367). INVENTORY.md lists every piece with the rule that names it.
-/

namespace Sys2Proof.Machine

/-- Shape tags of a vector register (R27). -/
inductive Tag where
  | g | u | a
  deriving DecidableEq, Repr

/-- A vector register: one 32-bit value per lane, and its tag (R27, R29). -/
structure VReg where
  vals : Lanes Word
  tag  : Tag
  deriving DecidableEq, Repr

/-- A vector register at binding: zero, tag U (R37). -/
def VReg.zero : VReg := ⟨lanesOf 0, .u⟩

/-- Roles (R26). -/
inductive Role where
  | vector | copy | matrix
  deriving DecidableEq, Repr

/-- Scheduling states (R20). Halted is Fibre.halted over the state it returns to; a Frozen fibre is never halted. -/
inductive Sched where
  | ready | running | waiting | frozen
  deriving DecidableEq, Repr

/-- What a synchronisation hold waits for: a phase of a team barrier, of a fibre barrier, or of one side of a ring stage. -/
inductive SyncOn where
  | bar (n tok : Nat)
  | fbar (n : Nat)
  | ring (r stage : Nat) (full par : Bool)
  deriving DecidableEq, Repr

/-- A synchronisation word that holds its lanes: its status register, RIC, whether the fibre was diverged (R30, R174), and whether it
is the last counted word of its clause. -/
structure SyncHold where
  on  : SyncOn
  sd  : Nat
  ric : Word
  div : Bool
  last : Bool
  deriving DecidableEq, Repr

/-- Why a lane is held at its word (R248). cross keeps the members the lane waits for, crossGo marks a
released cross-lane set (R141); absent lists scratchpad lines. -/
inductive Hold where
  | none
  | cross (members : LaneMask)
  | crossGo
  | absent (lines : List Nat)
  | sync (w : SyncHold)
  deriving DecidableEq, Repr

/-- One lane: live, the clause address and word index of its program counter, its hold and its stamp (R15, R248). -/
structure Lane where
  live  : Bool
  pc    : DWord
  word  : Nat
  hold  : Hold
  stamp : Nat
  deriving DecidableEq, Repr

/-- Which operations of a fibre in flight a word waits for: memory accesses, reads, stores, flag-producing operations, acquires,
atomics. -/
inductive OpsWait where
  | mem | reads | stores | flagging | acquires | atomics
  deriving DecidableEq, Repr

/-- What a fibre waits or stalls for at a word (R20, R72, R74, R150, R169, R184, R206, R208, R210, R214, R260, R304, R314). -/
inductive Wait where
  | flags (m : BitVec 12)
  | regs (vs ds ss : List Nat)
  | walk
  | ops (w : OpsWait)
  | lrec
  | msg (mbox : Nat)
  | queue (q : Nat)
  | staging
  | recorder
  | traceFull
  | replay
  | lanes
  | acks
  deriving DecidableEq, Repr

/-- The clause a bundle is executing: address, the sixteen words, the bundle, the next word (R70, R71), and whether WAIT has been met. -/
structure ClauseRun where
  addr   : DWord
  words  : List Word
  lanes  : LaneMask
  word   : Nat
  waited : Bool
  deriving DecidableEq, Repr

/-- What a Frozen fibre keeps for its handler (R76, R274): the faulting clause and word, the resume word, the word after it,
the lanes of the bundle, the cause, and whether the record was SYNC. -/
structure Frozen where
  clause : DWord
  word   : Nat
  resume : Nat
  after  : Nat
  lanes  : LaneMask
  cause  : Nat
  sync   : Bool
  deriving DecidableEq, Repr

/-- A single step in progress (R276): its lane, whether its word has issued, the first operation it can have issued, whether the fibre
returns to Halted, and over which state. -/
structure StepRun where
  lane      : Nat
  issued    : Bool
  firstOp   : Nat
  wasHalted : Bool
  back      : Sched
  deriving DecidableEq, Repr

/-- The result of a walk of one page for a held word (R150, R288): a leaf, or a cause with its subcode and outcome order. -/
inductive WalkRes where
  | ok (entry : DWord) (big : Bool)
  | bad (cause sub order : Nat)
  deriving DecidableEq, Repr

/-- A fibre: one group at its place (R15, R29-R37). walkReq lists the pages a held word asked walkers for (with write, fetch and the class asked for),
walkRes what they returned; lrecReq is a layout record being filled (its address and virtual address); postDue a fault record still to be posted (R267); freed the
lanes freed from a hold since the last bundle was formed (R302); yielded that a word it issued in this clock reached a yield point
(R249); wdDue that its watchdog count has reached 2^WDLOG and the fault is not taken yet (R42); log is what replay still has to enforce, and in a recording mode
the records that wait for the fibre's atomic (R303; log entry 107); bpHit that the chunk of an armed breakpoint has ended (R318); stepRest the lanes of a
partly stepped bundle that have not issued its word yet, and stepSeen the records that its lanes so far have met, each with its line and
full sequence number (R319). -/
structure Fibre where
  team     : Nat
  group    : Nat
  role     : Role
  priv     : Nat
  shared   : Nat
  region   : Nat
  sched    : Sched
  halted   : Bool
  readyAt  : Nat
  waitFrom : Nat
  wait     : Option Wait
  lanes    : Lanes Lane
  v        : AMap VReg
  p        : Vector LaneMask 8
  q        : Vector (Lanes W320) 2
  s        : Vector DWord 64
  b        : Vector (BitVec 24) 16
  cfErr    : BitVec 12
  fpstat   : Word
  ric      : Word
  wraps    : Nat
  wdog     : Nat
  wdDue    : Bool
  yielded  : Bool
  append   : Vector Word 4
  ovf      : Vector Bool 4
  run      : Option ClauseRun
  frozen   : Option Frozen
  intr     : Bool
  step     : Option StepRun
  drowsy   : Bool
  walkReq  : List (Nat × Bool × Bool × Nat)
  walkRes  : List (Nat × WalkRes)
  lrecReq  : Option (Nat × Nat)
  recvErr  : Bool
  postDue  : Option (BitVec 512)
  freed    : LaneMask
  chFrom   : BitVec 32
  chItems  : List (Nat × BitVec 16)
  uwrites  : Nat
  log      : List (BitVec 128)
  diverged : Option (Nat × Nat × Nat)
  bpHit    : Bool
  stepRest : LaneMask
  stepSeen : List (BitVec 128 × Nat × Nat)
  deriving DecidableEq, Repr

/-- A team barrier (R172). -/
structure Barrier where
  valid  : Bool
  phase  : BitVec 16
  endErr : Bool
  exp    : Nat
  arr    : Nat
  gmask  : BitVec 32
  deriving DecidableEq, Repr

/-- One signature of a convergence register: fibre, group, lanes, and the operation that counts the signing word (R196); the operand and
accumulator registers that it named as they were, and the undefined values that the accumulator registers hold until the mma
completes (R199). -/
structure Signer where
  fibre : Nat
  group : Nat
  lanes : LaneMask
  op    : Nat
  regs  : List (Nat × Lanes Word)
  fill  : List (Nat × Lanes Word)
  deriving DecidableEq, Repr

/-- A convergence register (R195). -/
structure Conv where
  e       : Nat
  cnt     : Nat
  bitmap  : BitVec 1024
  desc    : List DWord
  signers : List Signer
  deriving DecidableEq, Repr

/-- A write of n scratchpad bytes of a core by sts that some opfence has still to cover: the fibre that made it, whether that fibre has released
since, the fibres that observed it through an acquire, and those that executed an opfence after that (R200). -/
structure PadWrite where
  lo     : Nat
  n      : Nat
  writer : Nat
  rel    : Bool
  seen   : List Nat
  fenced : List Nat
  deriving DecidableEq, Repr

/-- A write staged by an ordered-mode team: home device, address, byte (R257). -/
abbrev Staged := List (Nat × Nat × Byte)

/-- A team (R15, R35, R242-R245). near: what its .fibre and .team accesses wrote to words its core owns, as it sees them itself (R258);
unfenced: its writes by sts that no opfence of every reader covers yet (R200); finished: all
fibres released; retired: ordered-mode writes performed (R257). -/
structure Team where
  grid    : Nat
  index   : Nat
  rank    : Nat
  core    : Nat
  groups  : Nat
  sbase   : Nat
  slines  : Nat
  rings   : List Nat
  fbars   : AMap (List Nat)
  matrix  : Bool
  fibres  : List Nat
  live    : List Nat
  bars    : Vector Barrier 16
  cvs     : Vector Conv 16
  staged  : Staged
  near    : Staged
  stLines : List Nat
  held    : List Nat
  unfenced : List PadWrite
  finished : Bool
  retired  : Bool
  deriving DecidableEq, Repr

/-- One side of a ring stage: arrivals, phase bit, and the groups counted in this phase (R176, R178). -/
structure RingSide where
  cnt    : Nat
  phase  : Bool
  groups : List Nat
  deriving DecidableEq, Repr

/-- A stage ring of a core: owning team, stages, expected arrivals, valid bit and the two sides of each stage (R176). -/
structure Ring where
  team   : Option Nat
  stages : Nat
  fe     : Nat
  ee     : Nat
  valid  : Bool
  full   : Vector RingSide 8
  empty  : Vector RingSide 8
  deriving DecidableEq, Repr

/-- A fibre barrier of a slot: owning team, arrivals, the k of its phase, and the fibres that arrived (R175). -/
structure FBar where
  team    : Option Nat
  cnt     : Nat
  k       : Nat
  arrived : List Nat
  deriving DecidableEq, Repr

/-- A shared region of a slot: its size in registers, the fibres naming it and its registers (R22, R25). -/
structure Region where
  size  : Nat
  users : List Nat
  v     : AMap VReg
  deriving DecidableEq, Repr

/-- An issue slot: its current fibre, the clock from which a chosen fibre runs (R249), shared regions, fibre barriers and
the switch count (R306), and the fibre, RIC and reason of a hand-over under way. -/
structure Slot where
  cur      : Option Nat
  runFrom  : Nat
  regions  : Vector Region 4
  fbars    : Vector FBar 4
  switches : BitVec 16
  out      : Option (Nat × Nat × Nat)
  deriving DecidableEq, Repr

/-- The epoch state of a line (R299); the fibre is the first fibre and the Boolean its W. -/
inductive Epoch where
  | untouched
  | priv (dev fibre : Nat) (w : Bool)
  | readShared
  | writeShared
  deriving DecidableEq, Repr

/-- Where a line stands in its epoch: state, next sequence number, its first fibre and the virtual line by
which that fibre first touched it, and a replayed drop still awaited (R299, R300, R314). -/
structure EpLine where
  st    : Epoch
  seq   : Nat
  first : Option Nat
  vline : Nat
  drop  : Bool
  deriving DecidableEq, Repr

/-- An owner record of an L3 line: core and word mask (R220). -/
structure OwnRec where
  core : Nat
  mask : BitVec 32
  deriving DecidableEq, Repr

/-- Whose request a home slice has sent invalidations, recalls or snoops for: an operation in flight, the fence or release of a fibre,
another device, a host port (R329). -/
inductive LineReq where
  | op (id : Nat)
  | fibre (fid : Nat)
  | dev (d : Nat)
  | host (port : Nat)
  deriving DecidableEq, Repr

/-- What the home slice holds of a line: the 16 metadata bits, owner records (older first), epoch state, whether the L3 holds it and holds
it newer than DRAM (R328, R332); the sharing group by which other devices cache it (R330); the request that awaits acknowledgements, and
the devices, or host ports as 512 + port, that have not given theirs yet (R329). -/
structure LineInfo where
  md   : BitVec 16
  own  : List OwnRec
  ep   : EpLine
  inL3 : Bool
  dirty : Bool
  grp  : Nat
  asked : Option LineReq
  acks : List Nat
  deriving DecidableEq, Repr

/-- An L1 line: bytes, which bytes are valid, which are dirty (R220, R221); poison received with the data (R339). -/
structure L1Line where
  data   : BitVec 1024
  valid  : BitVec 128
  dirty  : BitVec 128
  poison : Bool
  deriving DecidableEq, Repr

/-- A TLB entry: context, virtual page number of its size, leaf entry, whether it is a 512 MiB page (R290). -/
structure TlbEntry where
  ctx  : Nat
  page : Nat
  big  : Bool
  leaf : DWord
  deriving DecidableEq, Repr

/-- A trace record before filtering (R379). -/
structure TraceRec where
  payload : DWord
  gts     : DWord
  ric     : Word
  fibre   : Nat
  ch      : Nat
  part    : Nat
  seq     : Nat
  vi      : Nat
  deriving DecidableEq, Repr

/-- A core's own state; quietFrom is the clock its present quiet interval began (R250). -/
structure Core where
  scratch  : Mem
  absent   : List Nat
  sep      : AMap EpLine
  acc      : AMap W320
  wb       : Mem
  l1       : AMap L1Line
  tlb      : List TlbEntry
  btc      : AMap (BitVec 256)
  lrec     : List (Nat × BitVec 512)
  rings    : Vector Ring 16
  agl      : Nat
  halvedAt : Option Nat
  quietFrom : Nat
  admitted : List Nat
  pmctl    : Vector DWord 4
  pmcnt    : Vector DWord 4
  pmNext   : List (Nat × Nat × DWord)
  fifo     : List TraceRec
  emitted  : Nat
  leaves   : Vector DWord 12
  issued   : DWord
  deriving DecidableEq, Repr

/-- Atomic operations (R163). -/
inductive AtomOp where
  | add | minSg | minUs | maxSg | maxUs | and | or | xor | xchg | cas
  deriving DecidableEq, Repr

/-- One lane's access: lane, offset, virtual and physical address, home device, size in bytes, operand and compare value. -/
structure Acc where
  lane : Nat
  off  : Nat
  va   : Nat
  pa   : Nat
  home : Nat
  size : Nat
  data : Nat
  cmp  : Nat
  deriving DecidableEq, Repr

/-- The buffer side of a memory word: buffer register, table index, non-temporal hint, COH and SGRP (R31, R282). -/
structure BufInfo where
  breg : Nat
  idx  : Nat
  nt   : Bool
  coh  : Nat
  sgrp : Nat
  deriving DecidableEq, Repr

/-- A register write made at completion. -/
inductive RegWrite where
  | v (r : Nat) (mask : LaneMask) (vals : Lanes Word)
  | s (r : Nat) (val : DWord)
  deriving DecidableEq, Repr

/-- Bank transforms (R204). -/
inductive XForm where
  | cvt | round | scale | fill | zero
  deriving DecidableEq, Repr

/-- The engine operations (R188-R204). -/
inductive EngForm where
  | copy | copySt | copyAcc
  | wbload (mask : Bool)
  | accld (f64 : Bool)
  | accst (f64 : Bool)
  | acczero
  | mma
  | xform (k : XForm)
  deriving DecidableEq, Repr

/-- An engine operation in flight: form, scope, buffer register number and value, buffer entry, descriptor, record, an early
code (record invalid or tile outside), SYNC and status targets, ring re-initialised, arrivals discarded by an abort, scratchpad
lines whose presence it cleared, lines arrived, signers of an mma; scratchpad bytes, by start and length, that it reads undefined (R200, R229), memory
bytes written while it is pending (R229), destination bytes it shares with a pending copy or accst (R191), accumulator rectangles
and weight-buffer bytes it shares with an unordered operation (R194), an undelivered fault already reported in replay (R314); the fibres that know
of its dispatch, and whether one of them has released since (R194). -/
structure EngOp where
  form    : EngForm
  scope   : Scope
  bnum    : Nat
  breg    : BitVec 24
  desc    : List DWord
  record  : BitVec 512
  early   : Nat
  sync    : Nat
  status  : Option Nat
  inScratch : Bool
  reinit  : Bool
  discard : Bool
  cleared : List Nat
  arrived : List Nat
  signers : List Signer
  loose   : List (Nat × Nat)
  stirred : List (Nat × Nat)
  clash   : List Nat
  hazAcc  : List (Nat × Nat × Nat × Nat)
  hazWb   : List (Nat × Nat)
  noted   : Bool
  seen    : List Nat
  rel     : Bool
  deriving DecidableEq, Repr

/-- The kinds of operation in flight (R73, R156); fp of a class B operation: it produces floating-point flags (R66). -/
inductive OpKind where
  | load (accs : List Acc) (buf : BufInfo) (k : LdKind) (vd : Nat) (z : LaneMask) (acq : Option Scope)
  | uload (acc : Acc) (buf : BufInfo) (sd : Nat) (div : Bool)
  | lds (accs : List Acc) (vd : Nat) (z : LaneMask)
  | store (accs : List Acc) (buf : BufInfo) (rel : Option Scope)
  | sts (accs : List Acc)
  | atom (op : AtomOp) (sc : Scope) (accs : List Acc) (buf : BufInfo) (vd : Nat) (z : LaneMask)
  | aacc (f : AaccFmt) (accs : List Acc) (buf : BufInfo)
  | classB (ws : List RegWrite) (flags : Word) (fp div : Bool)
  | engine (e : EngOp)
  | sign (cv mma : Nat)
  | send (dev mbox : Nat) (payload : BitVec 512) (seq : Nat)
  | done
  deriving DecidableEq, Repr

/-- An operation in flight: number, issuing fibre and bundle, clause, word and RIC, the flag that counts it, its kind. -/
structure Op where
  id     : Nat
  fibre  : Nat
  team   : Nat
  core   : Nat
  lanes  : LaneMask
  clause : DWord
  word   : Nat
  ric    : Word
  flag   : Option Nat
  kind   : OpKind
  deriving DecidableEq, Repr

/-- An X prefix as issued (R84). -/
structure XPre where
  gp : BitVec 3
  z  : Bool
  gn : Bool
  rm : RMode
  vc : BitVec 7
  lk : LKind
  k  : BitVec 5
  ls : Bool
  deriving DecidableEq, Repr

/-- The word being issued: fibre, bundle, clause, first word (its prefix or itself), the word, the prefix, whether a stall
switches (S or SW), the clause header (R69), whether the fibre is diverged for a uniform write (R30). -/
structure Issue where
  fibre  : Nat
  lanes  : LaneMask
  clause : DWord
  first  : Nat
  word   : Nat
  px     : Option XPre
  sw     : Bool
  hdr    : Word
  div    : Bool
  deriving DecidableEq, Repr

/-- A source of commands (R362, R366): PF0, a virtual function by its interface, the management port, a session of a context. -/
inductive Src where
  | pf0
  | vf (vi : Nat)
  | mgmt
  | session (ctx : Nat)
  deriving DecidableEq, Repr

/-- Where the response of a management request goes: slot of a request ring in host memory, or the management port (R362). -/
inductive Reply where
  | ring (fn slot code tag payload : Nat)
  | port (code tag : Nat)
  deriving DecidableEq, Repr

/-- What comes from outside and is no event of the opcode table: an acknowledgement at a home slice, by a device or, as 512 + port, a host port
(R329); what another device or its host wrote to a line homed there, or poison found there (R227, R339); an acknowledgement of a switch instant
(R254); the last credit of a virtual channel of a port taken (R352); a send that its remote mailbox completes in error (R205). -/
inductive Input where
  | lineAck (line who : Nat)
  | foreign (line : Nat) (data : BitVec 1024) (mask : BitVec 128) (poison : Bool)
  | gangAck (part t dev mpart : Nat)
  | creditsOut (port vc : Nat)
  | sendError (op : Nat)
  deriving DecidableEq, Repr

/-- One turn of the agenda (log entry 3): issue from a fibre, end of a clock, an event, a management request with its code, payload
and payload address (R361), an input. -/
inductive Turn where
  | issue (fibre : Nat)
  | tick
  | event (i : Instr)
  | request (src : Src) (code : Nat) (pay : List Byte) (addr : Nat) (reply : Reply)
  | input (x : Input)
  deriving DecidableEq, Repr

/-- A context: its registers, counter control, the PMCTL values held for it, saved leaf totals, key (R281, R292, R373, R378, R398). -/
structure Ctx where
  bt      : DWord
  pt      : DWord
  cf      : DWord
  granted : Bool
  held    : Option (List DWord)
  leaves  : Vector DWord 12
  key     : Bool
  session : Option Nat
  deriving DecidableEq, Repr

/-- A fault record waiting for space (R272): its bits without SEQ, and whether it may be dropped. -/
structure HeldRec where
  bits : BitVec 512
  soft : Bool
  deriving DecidableEq, Repr

/-- A virtual interface: configuration, fault queue and trace ring (R271, R359, R380-R382). -/
structure Vi where
  cfg    : DWord
  fqcfg  : DWord
  fqHead : BitVec 16
  fqTail : BitVec 16
  fqLost : Nat
  fqHeld : List HeldRec
  fqirq  : DWord
  trcfg  : DWord
  trHead : BitVec 32
  trTail : BitVec 32
  trLost : Nat
  trTrig : BitVec 16
  trirq  : DWord
  prog   : List Word
  k      : Vector DWord 16
  deriving DecidableEq, Repr

/-- The summary ring of PF0 (R295). -/
structure Summary where
  cfg  : DWord
  head : BitVec 16
  tail : BitVec 16
  lost : Nat
  irq  : DWord
  deriving DecidableEq, Repr

/-- A request ring (R362). -/
structure ReqRing where
  cfg  : DWord
  head : BitVec 16
  tail : BitVec 16
  deriving DecidableEq, Repr

/-- A work queue: entry dwords 0 to 2, QDB, the packets consumed and not yet completed, by index (R235, R236, R246), and the markers among
them, each with its packet and the earlier packets it still waits for (R237). -/
structure Queue where
  base  : DWord
  cfg   : DWord
  tailp : DWord
  head  : BitVec 16
  tail  : BitVec 16
  open_ : List Nat
  marks : List (Nat × List DWord × List Nat)
  deriving DecidableEq, Repr

/-- A grid in progress: where it came from, packet, arguments, descriptor, progress and what its completion entry reports
(R237-R246, R263). abort holds the STATUS of an abort in progress; waitFrom when its next cluster began to wait, blocks
that it has waited 100 us (R246); image is the pre-kernel image of an ordered-mode grid (R171, R258). -/
structure Grid where
  queue    : Nat
  idx      : Nat
  part     : Nat
  vi       : Nat
  packet   : List DWord
  args     : List DWord
  kdesc    : List DWord
  placed   : Nat
  teamsEnd : Nat
  nextRet  : Nat
  tstart   : Option DWord
  tend     : DWord
  used     : Vector Nat 4
  ovf      : Vector Bool 4
  relaunch : Nat
  waitFrom : Option Nat
  blocks   : Bool
  abort    : Option Nat
  launchNo : Nat
  unprot   : Bool
  anclost  : Bool
  image    : Option Mem
  deriving DecidableEq, Repr

/-- States of a partition's undo ring (R348). -/
inductive UndoState where
  | idle | capture | guarded | noprot | aborting | restoring | failed
  deriving DecidableEq, Repr

/-- A recorder: records not yet appended with the GTS of each, END written, an ANCHOR awaited as first record (R304, R310, R311). -/
structure Recorder where
  recs  : List (BitVec 128 × DWord)
  ended : Bool
  first : Bool
  deriving DecidableEq, Repr

/-- A log read back for replay (R313): launches, placements and pops still to come, the records of each fibre that is not bound,
MODE before REPLAY; the recorders with an unreadable page, 25 where a page does not tell its recorder (R316); the recorders whose pages hold
records of fibres, and those whose log ends with an END record of REASON 1 (R317). -/
structure Replay where
  launches : List (List Byte)
  places   : List (BitVec 128)
  arrives  : List (BitVec 128)
  logs     : AMap (List (BitVec 128))
  prior    : Nat
  bad      : List Nat
  used     : List Nat
  ends     : List Nat
  deriving DecidableEq, Repr

/-- A saved context of a partition that is swapped out: its fibres, teams, slots, cores and operations in flight (R213, R255, R278);
staged: it is in Bivouac; spilled: its image stands in its context area, by the count its private
bytes were drawn at, the clock, and PCTL then (R279). -/
structure Saved where
  vi     : Nat
  fibres : AMap Fibre
  teams  : AMap Team
  slots  : AMap Slot
  cores  : AMap Core
  ops    : List Op
  staged : Bool
  spilled : Option (Nat × Nat × DWord)
  deriving DecidableEq, Repr

/-- What a Cairn saves of a mailbox: HEAD, TAIL and the senders of the messages in its ring (R408). -/
structure MbSave where
  head : Nat
  tail : Nat
  info : List (Nat × Nat × Nat)
  deriving DecidableEq, Repr

/-- A partition: control, configuration, rings, gang, Cairn, replay and twin state; quiet: the halt is complete (R255 steps 2 and 3);
gang: the other members of its gang by device and
partition, leads whether it proposes, armed the switch instants it compares with, proposed those it sent with the members that have
acknowledged (R254), sliceAt the instant its slice began; begun that a grid has begun since the Cairn (R311, R347); lastGrid: by PRIO, one past the grid last placed, for the round-robin of R246; podReplay: the instant at
which a pod-wide replay begins, agreed as for a pod Cairn (R322, R323); replayDue: a REPLAY that waits for its restore, with COLD and the MODE to
return to (R234, R253, R254, R309, R311, R313, R320, R343, R358). -/
structure Part where
  mode     : Nat
  wdlog    : Nat
  qlog     : Nat
  nextMode : Option Nat
  nextWd   : Option (Nat × Nat)
  cfg      : DWord
  halted   : Bool
  quiet    : Bool
  cycle    : DWord
  slices   : AMap DWord
  entry    : Nat
  runVi    : Option Nat
  saved    : AMap Saved
  gang     : List (Nat × Nat)
  leads    : Bool
  sliceAt  : Nat
  armed    : List Nat
  proposed : List (Nat × List (Nat × Nat))
  rrbase   : DWord
  rrctl    : DWord
  rrNow    : DWord × DWord
  rrTail   : Nat
  rrCairn  : Nat
  twpg     : Nat
  cairn    : Nat
  xdev     : Bool
  ended    : Bool
  anclost  : Bool
  rrbp     : Vector DWord 8
  recs     : AMap Recorder
  lpages   : List (List Byte)
  lfirst   : Bool
  urbase   : DWord
  urctl    : DWord
  urNow    : DWord × DWord
  urTail   : Nat
  urEpst   : Nat
  urState  : UndoState
  urEpoch  : BitVec 2
  urFresh  : BitVec 2
  urFail   : Bool
  unprot   : Bool
  scrubbed : Bool
  cairnAt  : Option Nat
  cairnDue : Bool
  launchNo : Nat
  begun    : Bool
  mbSaved  : AMap MbSave
  podAt    : Option (Nat × Nat)
  podAck   : Bool
  podT2    : Option Nat
  replay   : Option Replay
  replayDue : Option (Bool × Nat)
  twin     : Option (Nat × Bool)
  lastRic  : AMap Nat
  lastGrid : AMap Nat
  podReplay : Bool
  deriving DecidableEq, Repr

/-- A mailbox: configuration dword, offset, TAIL, HEAD (R355), pops since the Cairn (R408), and of each message in its ring, oldest
first, the sending device, sending partition and send sequence (R206). -/
structure Mailbox where
  cfg  : DWord
  ofs  : DWord
  tail : Nat
  head : Nat
  pops : Nat
  info : List (Nat × Nat × Nat)
  deriving DecidableEq, Repr

/-- A message: mailbox, sending device and partition, send sequence, payload (R205, R357), and the operation of this device that sent it and
still awaits its acceptance (R355). -/
structure Msg where
  mbox    : Nat
  dev     : Nat
  part    : Nat
  seq     : Nat
  payload : BitVec 512
  op      : Option Nat
  deriving DecidableEq, Repr

/-- A Guyline port: link up, whether and since what GTS it has failed, unacknowledged flits to resend, virtual channels without credits (R352,
R354). -/
structure Port where
  up      : Bool
  failed  : Bool
  downAt  : Nat
  resend  : Nat
  stalled : List Nat
  deriving DecidableEq, Repr

/-- The fabric: device number, mailboxes, overflow store, arrivals held for a page, arrivals held at their senders in replay,
send counts, ports, routes, LINKTO in milliseconds, sharing groups (R330, R352-R357, R409). -/
structure Fabric where
  device   : Nat
  mboxes   : AMap Mailbox
  overflow : List Msg
  heldPage : List Msg
  retry    : List Msg
  sends    : AMap Nat
  ports    : AMap Port
  routes   : AMap DWord
  linkTo   : Nat
  groups   : AMap (Nat × List DWord)
  deriving DecidableEq, Repr

/-- A stack's controller registers and its remap table (R338, R340, R341). -/
structure Stack where
  rmth   : DWord
  rmint  : DWord
  rmctl  : DWord
  alert  : DWord
  rmcnt  : DWord
  qth    : DWord
  ce     : Nat
  ue     : Nat
  rmbad  : Bool
  fence  : BitVec 32
  remap  : List (Nat × Nat × Nat × Nat × Nat)
  deriving DecidableEq, Repr

/-- Main memory control: MEMRGN, stacks, DRAM extents, row activation counts, open rows and held banks, the congested channels with the
clock of their last signal,
compressed page directories, the pages whose writes are held, and of those that still did not fit the virtual address and context at
which they were mapped (R325, R335-R338, R342); and, as an input from outside, the
errors present in DRAM: by line 1 correctable, 2 uncorrectable, 3 uncorrectable metadata, and by channel the remap-table copies
in error (R339, R341; log entry 11). -/
structure Hbm where
  regions : AMap DWord
  stk     : AMap Stack
  extents : AMap Nat
  acts    : AMap Nat
  openRow : AMap Nat
  bankHold : AMap Nat
  congested : AMap Nat
  cdir    : AMap (List (Nat × Nat))
  cheld   : AMap (List (Nat × BitVec 1024 × BitVec 128))
  cstuck  : AMap (Option (Nat × Nat))
  fenceDue : List Nat
  errs    : AMap Nat
  remapErr : AMap Nat
  deriving DecidableEq, Repr

/-- A host CXL.mem write held while a grid records (R312). -/
structure HeldHost where
  port : Nat
  addr : Nat
  data : List Byte
  own  : Bool
  deriving DecidableEq, Repr

/-- Power states (R369). -/
inductive Power where
  | ps0 | ps1 | ps2 | ps3 | ps4
  deriving DecidableEq, Repr

/-- Management, identity and power (R360-R370): GTS with its fraction in 1/28500 ns and the correction still to be slewed in 1/9500 ns, slewBig: it was above
1 ms (R360), manifests, key and firmware, signature counter, sessions, boot error,
MSI-X messages signalled, the last command's status and result, its source, datagram fragments and responses sent,
where the response of the command in hand goes, and those of steps not ended yet, by fibre; fwImage is the image that the next boot
verifies, and fwBad, an input from outside, that the stored images fail verification; hostOwned the lines whose ownership a host port took
by CXL.cache (R331); hostError: the last host write was answered by an error completion (R351); remoteOut what the device sent out about lines and instants,
with its addressees. -/
structure Mgmt where
  gts       : DWord
  gtsFrac   : Nat
  slew      : Int
  slewBig   : Bool
  manifests : List (List Byte)
  ownerKey  : Bool
  fwVersion : Nat
  fwWords   : Vector DWord 4
  fwImage   : Option (List Byte)
  fwBad     : Bool
  hssCount  : Nat
  sessions  : AMap Nat
  nextSess  : Nat
  power     : Power
  bootErr   : Bool
  msix      : List (Nat × Nat)
  status    : Nat
  result    : DWord
  data      : List Byte
  src       : Src
  frags     : List Byte
  sent      : List (List Byte)
  reply     : Option Reply
  stepReplies : AMap Reply
  summary   : Summary
  rings     : AMap ReqRing
  hostHeld  : List HeldHost
  hostData  : List Byte
  hostPoison : Bool
  hostError : Bool
  hostOwned : List Nat
  remoteOut : List (Nat × Nat × List Nat)
  deriving DecidableEq, Repr

/-- One NX9 device. issued lists the slots that have issued in the present clock, tried those that were offered it, served whether
an operation completed in it by the default policy (log entry 3). mem and lines hold the device's own memory below 2^41 (line 2^34) and, above it, other devices' memory as this
device reads and writes it: device d at (d + 1) * 2^41 (log entry 9). -/
structure State where
  agenda  : List Turn
  issue   : Option Issue
  clock   : Nat
  issued  : List Nat
  tried   : List Nat
  served  : Bool
  nextOp  : Nat
  nextTeam : Nat
  nextGrid : Nat
  free    : Nat
  fibres  : AMap Fibre
  teams   : AMap Team
  slots   : AMap Slot
  cores   : AMap Core
  ops     : List Op
  mem     : Mem
  lines   : AMap LineInfo
  hostMem : Mem
  ctxs    : AMap Ctx
  vis     : AMap Vi
  parts   : AMap Part
  queues  : AMap Queue
  grids   : AMap Grid
  fabric  : Fabric
  hbm     : Hbm
  mgmt    : Mgmt
  deriving DecidableEq, Repr

/-- Why the model stops. Every fault of the spec is a next state (R267); these are the model's own. -/
inductive Fault where
  /-- Raised by exec of an instruction word when no fibre is issuing: the spec gives such a word no place. Safe. -/
  | noIssue
  deriving DecidableEq, Repr

/-- Why the model refuses. -/
inductive Refusal where
  /-- Raised by an arm of exec that has no meaning yet. Safe: nothing can be proved of the instruction. -/
  | notModelled (mnemonic : String)
  deriving DecidableEq, Repr

/-- A lane that was never launched (R16). -/
def Lane.dead : Lane := ⟨false, 0, 1, .none, 0⟩

/-- A team barrier at binding (R172). -/
def Barrier.init (groups : Nat) : Barrier := ⟨true, 0, false, groups, 0, 0⟩

/-- A convergence register at binding (R195). -/
def Conv.init : Conv := ⟨32, 0, 0, [], []⟩

/-- A ring side at binding (R176). -/
def RingSide.init : RingSide := ⟨0, false, []⟩

/-- A ring at binding, without an owner (R176). -/
def Ring.init : Ring :=
  ⟨none, 2, 1, 1, true, Vector.replicate 8 RingSide.init, Vector.replicate 8 RingSide.init⟩

/-- A free fibre barrier. -/
def FBar.init : FBar := ⟨none, 0, 0, []⟩

/-- A free shared region. -/
def Region.init : Region := ⟨0, [], []⟩

/-- A slot with nothing bound. -/
def Slot.init : Slot := ⟨none, 0, Vector.replicate 4 Region.init, Vector.replicate 4 FBar.init, 0, none⟩

/-- An untouched line (R299). -/
def EpLine.init : EpLine := ⟨.untouched, 0, none, 0, false⟩

/-- A line with metadata 0 and no L3 copy (R328). -/
def LineInfo.init : LineInfo := ⟨0, [], EpLine.init, false, false, 0, none, []⟩

/-- A core with nothing bound: AGL 32 (R250), PMCTL 0 (R375). -/
def Core.init : Core :=
  { scratch := [], absent := [], sep := [], acc := [], wb := [], l1 := [], tlb := [], btc := [], lrec := [],
    rings := Vector.replicate 16 Ring.init, agl := 32, halvedAt := none, quietFrom := 0, admitted := [],
    pmctl := Vector.replicate 4 0, pmcnt := Vector.replicate 4 0, pmNext := [], fifo := [], emitted := 0,
    leaves := Vector.replicate 12 0, issued := 0 }

/-- A context's registers at reset (R281). -/
def Ctx.init : Ctx := ⟨0, 0, 0, false, none, Vector.replicate 12 0, false, none⟩

/-- A virtual interface at reset: FQCFG.LOG 6, TRCFG.LOG 7 (R271, R359, R380). -/
def Vi.init : Vi :=
  { cfg := 0, fqcfg := 0x600#64, fqHead := 0, fqTail := 0, fqLost := 0, fqHeld := [], fqirq := 0,
    trcfg := 0x700#64, trHead := 0, trTail := 0, trLost := 0, trTrig := 0, trirq := 0, prog := [],
    k := Vector.replicate 16 0 }

/-- A request ring at reset: LOG 4 (R362). -/
def ReqRing.init : ReqRing := ⟨0x400#64, 0, 0⟩

/-- A queue at reset: QLOG2 4 (R235). -/
def Queue.init : Queue := ⟨0, 4, 0, 0, 0, [], []⟩

/-- A mailbox at reset: LOG 4 (R355). -/
def Mailbox.init : Mailbox := ⟨0x4000000#64, 0, 0, 0, 0, []⟩

/-- A port whose link is up. -/
def Port.init : Port := ⟨true, false, 0, 0, []⟩

/-- A stack's registers at reset (R338). -/
def Stack.init : Stack := ⟨1024, 304, 0, 0, 0, 96, 0, 0, false, 0, []⟩

/-- A recorder that has written nothing. -/
def Recorder.init : Recorder := ⟨[], false, false⟩

/-- A partition at reset (R234, R309, R343, R358): partition 0 exists and holds all dies. -/
def Part.init (p : Nat) : Part :=
  { mode := 0, wdlog := 26, qlog := 4, nextMode := none, nextWd := none,
    cfg := if p = 0 then 0x1FF#64 else 0#64, halted := false, quiet := false, cycle := 0, slices := [], entry := 0, runVi := none,
    saved := [], gang := [], leads := true, sliceAt := 0, armed := [], proposed := [],
    rrbase := 0, rrctl := 0x100010000000#64, rrNow := (0#64, 0x100010000000#64), rrTail := 0, rrCairn := 0, twpg := 0,
    cairn := 0, xdev := false, ended := false, anclost := false, rrbp := Vector.replicate 8 0, recs := [], lpages := [],
    lfirst := false, urbase := 0, urctl := 0x1002#64, urNow := (0#64, 0x1002#64), urTail := 0, urEpst := 0,
    urState := .idle, urEpoch := 0, urFresh := 0, urFail := false, unprot := false, scrubbed := true, cairnAt := none,
    cairnDue := false, launchNo := 0, begun := false, mbSaved := [], podAt := none, podAck := false, podT2 := none, replay := none, replayDue := none,
    twin := none, lastRic := [], lastGrid := [], podReplay := false }

/-- The fabric at reset: LINKTO 100 ms (R354); the device number, routes and groups have no reset value in the spec (log entry 2). -/
def Fabric.init : Fabric := ⟨0, [], [], [], [], [], [], [], 100, []⟩

/-- Main memory control at reset. -/
def Hbm.init : Hbm := ⟨[], [], [], [], [], [], [], [], [], [], [], [], []⟩

/-- Management at reset: SRCFG.LOG 8 (R295); values the spec does not give are named in log entry 2. -/
def Mgmt.init : Mgmt :=
  { gts := 0, gtsFrac := 0, slew := 0, slewBig := false, manifests := [], ownerKey := false, fwVersion := 0,
    fwWords := Vector.ofFn fun i => Config.firmwareWord i.val,
    fwImage := none, fwBad := false, hssCount := 0, sessions := [], nextSess := 1, power := .ps0,
    bootErr := false, msix := [], status := 0, result := 0, data := [], src := .pf0, frags := [], sent := [], reply := none, stepReplies := [],
    summary := ⟨0x800#64, 0, 0, 0, 0⟩, rings := [], hostHeld := [], hostData := [], hostPoison := false, hostError := false, hostOwned := [], remoteOut := [] }

/-- The device after cold reset (R367): every register at its Reset value, nothing bound, memory with nothing listed. -/
def State.reset : State :=
  { agenda := [], issue := none, clock := 0, issued := [], tried := [], served := false, nextOp := 0, nextTeam := 0, nextGrid := 0, free := 0,
    fibres := [], teams := [], slots := [], cores := [], ops := [], mem := [], lines := [],
    hostMem := [], ctxs := [], vis := [], parts := [], queues := [], grids := [], fabric := Fabric.init, hbm := Hbm.init,
    mgmt := Mgmt.init }

end Sys2Proof.Machine
end

