-- ==== Sys2Proof/Machine/Access.lean ====
section
/-!
DEFINITION. Sys2Proof/Machine/Access.lean: reading and changing one piece of the state: fibres, teams, cores, slots,
partitions, registers and windows (R4, R22, R23, R29-R33).
-/

namespace Sys2Proof.Machine

/-- Element i of a vector, or d. -/
abbrev vget {α : Type} {n : Nat} (v : Vector α n) (i : Nat) (d : α) : α := v[i]?.getD d

/-- A vector with element i replaced. -/
abbrev vset {α : Type} {n : Nat} (v : Vector α n) (i : Nat) (x : α) : Vector α n := v.setIfInBounds i x

/-- The core of a fibre (R4). -/
abbrev coreOf (f : Nat) : Nat := f / 32
/-- The global slot number of a fibre (R4). -/
abbrev slotOf (f : Nat) : Nat := f / 8
/-- The recording block of a core (R4). -/
abbrev blockOf (c : Nat) : Nat := c / 12
/-- The die of a core (R4). -/
abbrev dieOf (c : Nat) : Nat := c / 36

namespace State

/-- The bound fibre f. -/
def fib (s : State) (f : Nat) : Option Fibre := s.fibres.get? f
/-- Changes fibre f. -/
def modFib (s : State) (f : Nat) (g : Fibre → Fibre) : State := { s with fibres := s.fibres.adj f g }
/-- Core c. -/
def core (s : State) (c : Nat) : Core := s.cores.getD c Core.init
/-- Changes core c. -/
def modCore (s : State) (c : Nat) (g : Core → Core) : State := { s with cores := s.cores.upd c Core.init g }
/-- Slot n. -/
def slot (s : State) (n : Nat) : Slot := s.slots.getD n Slot.init
/-- Changes slot n. -/
def modSlot (s : State) (n : Nat) (g : Slot → Slot) : State := { s with slots := s.slots.upd n Slot.init g }
/-- Team t. -/
def team (s : State) (t : Nat) : Option Team := s.teams.get? t
/-- Changes team t. -/
def modTeam (s : State) (t : Nat) (g : Team → Team) : State := { s with teams := s.teams.adj t g }
/-- Grid g. -/
def grid (s : State) (g : Nat) : Option Grid := s.grids.get? g
/-- Changes grid g. -/
def modGrid (s : State) (g : Nat) (h : Grid → Grid) : State := { s with grids := s.grids.adj g h }
/-- Partition p. -/
def part (s : State) (p : Nat) : Part := s.parts.getD p (Part.init p)
/-- Changes partition p. -/
def modPart (s : State) (p : Nat) (g : Part → Part) : State := { s with parts := s.parts.upd p (Part.init p) g }
/-- Context c. -/
def ctx (s : State) (c : Nat) : Ctx := s.ctxs.getD c Ctx.init
/-- Changes context c. -/
def modCtx (s : State) (c : Nat) (g : Ctx → Ctx) : State := { s with ctxs := s.ctxs.upd c Ctx.init g }
/-- Virtual interface n. -/
def vi (s : State) (n : Nat) : Vi := s.vis.getD n Vi.init
/-- Changes virtual interface n. -/
def modVi (s : State) (n : Nat) (g : Vi → Vi) : State := { s with vis := s.vis.upd n Vi.init g }
/-- Work queue q. -/
def queue (s : State) (q : Nat) : Queue := s.queues.getD q Queue.init
/-- Changes work queue q. -/
def modQueue (s : State) (q : Nat) (g : Queue → Queue) : State := { s with queues := s.queues.upd q Queue.init g }
/-- What the home slice holds of a line that is not listed: the line as at reset, its EPOCH as the scrubs of its region's partition have
rewritten it (R325, R328, R346, log entry 40). -/
def freshLine (s : State) (n : Nat) : LineInfo :=
  if n < 2 ^ 34 then
    { LineInfo.init with md := (s.part (fieldOf (s.hbm.regions.getD (n / 2 ^ 22) 0) 61 59)).urFresh.setWidth 16 <<< 12 }
  else LineInfo.init
/-- What the home slice holds of a line. -/
def line (s : State) (n : Nat) : LineInfo := s.lines.getD n (s.freshLine n)
/-- Changes what the home slice holds of a line. -/
def modLine (s : State) (n : Nat) (g : LineInfo → LineInfo) : State := { s with lines := s.lines.upd n (s.freshLine n) g }
/-- The controller of a stack. -/
def stack (s : State) (n : Nat) : Stack := s.hbm.stk.getD n Stack.init
/-- Changes the controller of a stack. -/
def modStack (s : State) (n : Nat) (g : Stack → Stack) : State :=
  { s with hbm := { s.hbm with stk := s.hbm.stk.upd n Stack.init g } }
/-- Mailbox m. -/
def mbox (s : State) (m : Nat) : Mailbox := s.fabric.mboxes.getD m Mailbox.init
/-- Changes mailbox m. -/
def modMbox (s : State) (m : Nat) (g : Mailbox → Mailbox) : State :=
  { s with fabric := { s.fabric with mboxes := s.fabric.mboxes.upd m Mailbox.init g } }
/-- Changes management state. -/
def modMgmt (s : State) (g : Mgmt → Mgmt) : State := { s with mgmt := g s.mgmt }

/-- The grid of a fibre. -/
def gridOf (s : State) (f : Nat) : Option Grid :=
  (s.fib f).bind fun x => (s.team x.team).bind fun t => s.grid t.grid

/-- The partition whose enabled configuration register holds the die of core c (R358); 8 when none does. -/
def partOfCore (s : State) (c : Nat) : Nat :=
  ((List.range 8).find? fun p => (s.part p).cfg.getLsbD 8 && (s.part p).cfg.getLsbD (dieOf c)).getD 8

/-- The partition of a fibre: that of its grid. -/
def partOf (s : State) (f : Nat) : Nat := ((s.gridOf f).map (·.part)).getD (s.partOfCore (coreOf f))

/-- The virtual interface, and so the context (log entry 5), of a fibre. -/
def viOf (s : State) (f : Nat) : Nat := ((s.gridOf f).map (·.vi)).getD 0

/-- Whether a core belongs to a partition. -/
def coreIn (s : State) (p c : Nat) : Bool := (s.part p).cfg.getLsbD (dieOf c)

/-- The cores of a partition. -/
def coresOf (s : State) (p : Nat) : List Nat := (List.range 288).filter (s.coreIn p)

/-- The fibres of a partition. -/
def fibresOf (s : State) (p : Nat) : List Nat := s.fibres.keys.filter fun f => s.partOf f == p

/-- Draws a free value (log entry 8). -/
def drawFree (s : State) : BitVec 1024 × State := (Config.freeBits s.free, { s with free := s.free + 1 })

/-- The run mode of a partition records (R297). -/
def recording (s : State) (p : Nat) : Bool := (s.part p).mode == 1 || (s.part p).mode == 5
/-- PCTL.MODE of a partition is a replay mode (R313). -/
def inReplayMode (s : State) (p : Nat) : Bool := (s.part p).mode == 2 || (s.part p).mode == 6
/-- A partition in a replay mode whose log has not ended (R313, R317). -/
def replaying (s : State) (p : Nat) : Bool := s.inReplayMode p && (s.part p).replay.isSome
/-- The run mode of a partition is ordered (R257). -/
def ordered (s : State) (p : Nat) : Bool := 4 ≤ (s.part p).mode

end State

/-- Whether register r lies in the private window (R22). -/
abbrev Fibre.inPriv (f : Fibre) (r : Nat) : Bool := r < f.priv
/-- Whether register r lies in the shared window, which maps onto the highest registers (R22). -/
abbrev Fibre.inShared (f : Fibre) (r : Nat) : Bool := f.shared != 0 && (128 - f.shared ≤ r && r < 128)
/-- Whether register r lies in one of the fibre's windows (R23). -/
abbrev Fibre.hasReg (f : Fibre) (r : Nat) : Bool := f.inPriv r || f.inShared r

/-- Vector register r of fibre fid; zero outside both windows, where nothing is read (R22, R23). -/
def readReg (s : State) (fid r : Nat) : VReg :=
  match s.fib fid with
  | none => VReg.zero
  | some f =>
    if f.inPriv r then f.v.getD r VReg.zero
    else if f.inShared r then (vget (s.slot (slotOf fid)).regions f.region Region.init).v.getD r VReg.zero
    else VReg.zero

/-- Writes register r of a shared region of a slot (R22). -/
def Slot.writeShared (region r : Nat) (x : VReg) (sl : Slot) : Slot :=
  let rg := vget sl.regions region Region.init
  { sl with regions := vset sl.regions region { rg with v := rg.v.set r x } }

/-- Writes vector register r of fibre fid; outside both windows nothing is written (R22, R23). -/
def writeReg (s : State) (fid r : Nat) (x : VReg) : State :=
  match s.fib fid with
  | none => s
  | some f =>
    if f.inPriv r then s.modFib fid fun g => { g with v := g.v.set r x }
    else if f.inShared r then
      s.modSlot (slotOf fid) (Slot.writeShared f.region r x)
    else s

/-- The value of register r in lane l. -/
def readLane (s : State) (fid r : Nat) (l : Fin 32) : Word := (readReg s fid r).vals[l]

/-- Uniform register n: s0 reads as zero (R30). -/
def Fibre.readS (f : Fibre) (n : Nat) : DWord := if n = 0 then 0 else vget f.s n 0

/-- Writes uniform register n: a write to s0 is discarded (R30). -/
def Fibre.writeS (f : Fibre) (n : Nat) (x : DWord) : Fibre := if n = 0 then f else { f with s := vset f.s n x }

/-- Predicate n as a lane mask: p7 reads as true in every lane (R29). -/
def Fibre.readP (f : Fibre) (n : Nat) : LaneMask := if n = 7 then BitVec.allOnes 32 else vget f.p n 0

/-- Writes predicate n in the lanes of a mask: a write to p7 is discarded (R29). -/
def Fibre.writeP (f : Fibre) (n : Nat) (mask val : LaneMask) : Fibre :=
  if n = 7 then f else { f with p := vset f.p n ((vget f.p n 0 &&& ~~~mask) ||| (val &&& mask)) }

/-- Lane l of a fibre. -/
def Fibre.lane (f : Fibre) (l : Fin 32) : Lane := f.lanes[l]

/-- The lanes that are live. -/
def Fibre.liveMask (f : Fibre) : LaneMask := maskOf fun l => (f.lane l).live

/-- Changes the lanes of a mask. -/
def Fibre.onLanes (f : Fibre) (m : LaneMask) (g : Lane → Lane) : Fibre :=
  { f with lanes := Vector.ofFn fun l => if inMask m l then g (f.lane l) else f.lane l }

/-- Whether a flag is pending: an operation in flight is counted against it (R32). -/
def State.cfPending (s : State) (fid n : Nat) : Bool := s.ops.any fun o => o.fibre == fid && o.flag == some n

/-- The flags of a mask that are pending. -/
def State.cfWaits (s : State) (fid : Nat) (m : BitVec 12) : Bool :=
  (List.range 12).any fun n => m.getLsbD n && s.cfPending fid n

/-- The registers a list of writes names. -/
def RegWrite.vregs : RegWrite → List Nat
  | .v r _ _ => [r]
  | .s _ _ => []

/-- The uniform registers a list of writes names. -/
def RegWrite.sregs : RegWrite → List Nat
  | .v _ _ _ => []
  | .s r _ => [r]

/-- The number of registers a load of a width fills (R154). -/
def ldRegs : LdKind → Nat
  | .b64 => 2
  | .b128 => 4
  | _ => 1

/-- n registers from r up. -/
abbrev regRange (r n : Nat) : List Nat := (List.range n).map (r + ·)

/-- The vector registers an operation in flight marks pending (R74). -/
def OpKind.vdst : OpKind → List Nat
  | .load _ _ k vd _ _ => regRange vd (ldRegs k)
  | .lds accs vd _ => regRange vd (if (accs.headD ⟨0, 0, 0, 0, 0, 4, 0, 0⟩).size = 8 then 2 else 1)
  | .atom _ _ accs _ vd _ => regRange vd ((accs.headD ⟨0, 0, 0, 0, 0, 4, 0, 0⟩).size / 4)
  | .classB ws _ _ _ => ws.flatMap RegWrite.vregs
  | _ => []

/-- The uniform registers an operation in flight marks pending (R74). -/
def OpKind.sdst : OpKind → List Nat
  | .uload _ _ sd _ => [sd]
  | .classB ws _ _ _ => ws.flatMap RegWrite.sregs
  | _ => []

/-- Whether vector register r of fibre fid is pending; a shared register is pending for every fibre naming its region (R25, R74). -/
def State.vPending (s : State) (fid r : Nat) : Bool :=
  s.ops.any fun o =>
    o.kind.vdst.contains r &&
      (o.fibre == fid ||
        (slotOf o.fibre == slotOf fid &&
          match s.fib fid, s.fib o.fibre with
          | some f, some g => f.inShared r && g.inShared r && f.region == g.region
          | _, _ => false))

/-- Whether an operation of fibre fid itself will write vector register r (R74). -/
def State.vOwn (s : State) (fid r : Nat) : Bool := s.ops.any fun o => o.kind.vdst.contains r && o.fibre == fid

/-- Whether uniform register r of fibre fid is pending (R74). -/
def State.sPending (s : State) (fid r : Nat) : Bool :=
  r != 0 && s.ops.any fun o => o.fibre == fid && o.kind.sdst.contains r

/-- Adds an operation in flight with the next number, counting it against a flag: a flag that becomes pending loses its error bit (R32). -/
def State.addOp (s : State) (o : Op) : State :=
  let s1 := match o.flag with
    | some n => if s.cfPending o.fibre n then s else
        s.modFib o.fibre fun f => { f with cfErr := f.cfErr &&& ~~~(1#12 <<< n) }
    | none => s
  { s1 with ops := s1.ops ++ [{ o with id := s1.nextOp }], nextOp := s1.nextOp + 1 }

/-- The operation numbered id. -/
def State.op (s : State) (id : Nat) : Option Op := s.ops.find? fun o => o.id == id

/-- Removes an operation that has completed; in error it sets the error bit of its flag (R32). -/
def State.endOp (s : State) (o : Op) (err : Bool) : State :=
  let s1 := { s with ops := s.ops.filter fun x => x.id != o.id }
  match o.flag with
  | some n => if err then s1.modFib o.fibre fun f => { f with cfErr := f.cfErr ||| (1#12 <<< n) } else s1
  | none => s1

/-- Replaces an operation in flight. -/
def State.setOp (s : State) (o : Op) : State :=
  { s with ops := s.ops.map fun x => if x.id == o.id then o else x }

/-- Whether a fault record's lanes, and so on, may name any lane: the lanes of a fibre that are live, or none. -/
def State.liveOf (s : State) (fid : Nat) : LaneMask := ((s.fib fid).map (·.liveMask)).getD 0

/-- Counts n events of code ev, for a slot when given (R375, R376). -/
def Core.pmCount (k : Core) (slot : Option Nat) (ev n : Nat) : Core :=
  if n = 0 then k else
  { k with pmcnt := Vector.ofFn fun (i : Fin 4) =>
      let ctl := k.pmctl[i]
      let on := ctl.getLsbD 0 && fieldOf ctl 23 16 == ev &&
        match slot with
        | some sl => ctl.getLsbD (4 + sl % 4)
        | none => true
      if on then k.pmcnt[i] + BitVec.ofNat 64 n else k.pmcnt[i] }

/-- Counts n events of code ev on core c, for a slot when given (R375, R376). -/
def State.pmCount (s : State) (c : Nat) (slot : Option Nat) (ev n : Nat) : State :=
  if n = 0 then s else s.modCore c fun k => k.pmCount slot ev n

end Sys2Proof.Machine
end

