-- ==== Sys2Proof/Machine/NumFmt.lean ====
section
/-!
DEFINITION. Sys2Proof/Machine/NumFmt.lean: the number formats and every rounding between them, on exact values (R44-R68).
Flags stand at the bit positions of FPSTAT (R33).
-/

namespace Sys2Proof.Machine

/-- FPSTAT flag positions (R33). -/
abbrev fTO : Word := 0x800
/-- Tapered: NaR from real operands. -/
abbrev fTN : Word := 0x400
/-- Tapered: clamped. -/
abbrev fTC : Word := 0x200
/-- Tapered: inexact. -/
abbrev fTI : Word := 0x100
/-- IEEE invalid. -/
abbrev fNV : Word := 0x80
/-- IEEE division by zero. -/
abbrev fDZ : Word := 0x40
/-- IEEE overflow. -/
abbrev fOF : Word := 0x20
/-- IEEE underflow. -/
abbrev fUF : Word := 0x10
/-- IEEE inexact. -/
abbrev fNX : Word := 0x8

/-- Rounding modes (R33, R50). -/
inductive Rnd where
  | rne | rtz | rup | rdn | rna
  deriving DecidableEq, Repr

/-- The mode of an FPSTAT.RM or layout-record code 0 to 4 (R33, R182). -/
def rndOf : Nat → Rnd
  | 1 => .rtz
  | 2 => .rup
  | 3 => .rdn
  | 4 => .rna
  | _ => .rne

/-- An exact dyadic value m * 2^e. -/
structure Dy where
  m : Int
  e : Int
  deriving DecidableEq, Repr

namespace Dy

/-- m * 2^(e - k), for a common exponent not above e. -/
def scaleTo (d : Dy) (k : Int) : Int := d.m * (2 ^ (d.e - k).toNat : Nat)

/-- Exact sum. -/
def add (x y : Dy) : Dy := let k := min x.e y.e; ⟨x.scaleTo k + y.scaleTo k, k⟩

/-- Exact product. -/
def mul (x y : Dy) : Dy := ⟨x.m * y.m, x.e + y.e⟩

/-- Negation. -/
def neg (x : Dy) : Dy := ⟨-x.m, x.e⟩

/-- Magnitude. -/
def abs (x : Dy) : Dy := ⟨(x.m.natAbs : Int), x.e⟩

/-- x < y. -/
def lt (x y : Dy) : Bool := let k := min x.e y.e; decide (x.scaleTo k < y.scaleTo k)

/-- x ≤ y. -/
def le (x y : Dy) : Bool := !lt y x

/-- x = y. -/
def eq (x y : Dy) : Bool := le x y && le y x

/-- x * 2^n. -/
def shift (x : Dy) (n : Int) : Dy := ⟨x.m, x.e + n⟩

end Dy

/-- A quotient q with remainder r of d, rounded as a magnitude of the given sign (R50). -/
def roundMag (rm : Rnd) (neg : Bool) (q r d : Nat) : Nat :=
  if r = 0 then q else
  match rm with
  | .rne => if 2 * r > d ∨ (2 * r = d ∧ q % 2 = 1) then q + 1 else q
  | .rna => if 2 * r ≥ d then q + 1 else q
  | .rtz => q
  | .rup => if neg then q else q + 1
  | .rdn => if neg then q + 1 else q

/-- The magnitude of a value in units of 2^q, rounded, and whether that was exact. -/
def roundUnits (rm : Rnd) (d : Dy) (q : Int) : Nat × Bool :=
  let mag := d.m.natAbs
  if q ≤ d.e then (mag * 2 ^ (d.e - q).toNat, true)
  else
    let k := 2 ^ (q - d.e).toNat
    (roundMag rm (decide (d.m < 0)) (mag / k) (mag % k) k, mag % k == 0)

/-- A value rounded to an integer, and whether that was exact (R61). -/
def roundInt (rm : Rnd) (d : Dy) : Int × Bool :=
  let r := roundUnits rm d 0
  (if d.m < 0 then -(r.1 : Int) else (r.1 : Int), r.2)

/-! ### IEEE formats (R58) -/

/-- A binary format: precision with the hidden bit, exponent bits. -/
structure FFmt where
  p : Nat
  w : Nat
  deriving DecidableEq, Repr

/-- binary32. -/
def f32 : FFmt := ⟨24, 8⟩
/-- binary64. -/
def f64 : FFmt := ⟨53, 11⟩

namespace FFmt

/-- The exponent bias. -/
abbrev bias (f : FFmt) : Nat := 2 ^ (f.w - 1) - 1
/-- The width in bits. -/
abbrev bits (f : FFmt) : Nat := f.p + f.w
/-- The code of +infinity. -/
abbrev infCode (f : FFmt) : Nat := (2 ^ f.w - 1) * 2 ^ (f.p - 1)
/-- The sign bit's weight. -/
abbrev signBit (f : FFmt) : Nat := 2 ^ (f.p + f.w - 1)
/-- The default quiet NaN (R58). -/
abbrev qnan (f : FFmt) : Nat := f.infCode + 2 ^ (f.p - 2)
/-- The exponent of the least subnormal. -/
abbrev qmin (f : FFmt) : Int := 2 - (f.bias : Int) - (f.p : Int)

end FFmt

/-- What a code stands for, in any of the families. -/
inductive Num where
  | nar
  | qnan
  | snan
  | inf (neg : Bool)
  | zero (neg : Bool)
  | fin (d : Dy)
  deriving DecidableEq, Repr

/-- The value of a binary code (R58). -/
def decF (f : FFmt) (c : Nat) : Num :=
  let neg := c.testBit (f.bits - 1)
  let ex := c / 2 ^ (f.p - 1) % 2 ^ f.w
  let fr := c % 2 ^ (f.p - 1)
  let sg : Int := if neg then -1 else 1
  if ex = 2 ^ f.w - 1 then
    if fr = 0 then .inf neg else if fr.testBit (f.p - 2) then .qnan else .snan
  else if ex = 0 then
    if fr = 0 then .zero neg else .fin ⟨sg * fr, f.qmin⟩
  else .fin ⟨sg * ((2 ^ (f.p - 1) + fr : Nat) : Int), f.qmin + (ex : Int) - 1⟩

/-- IEEE overflow under a mode: infinity or the greatest finite (R58, R62). -/
def overflowCode (f : FFmt) (rm : Rnd) (neg : Bool) : Nat :=
  let up := match rm with
    | .rne => true
    | .rna => true
    | .rtz => false
    | .rup => !neg
    | .rdn => neg
  (if neg then f.signBit else 0) + (if up then f.infCode else f.infCode - 1)

/-- round_f32, round_f64: the code of a nonzero exact value and the flags, tininess found after rounding (R58, R68). -/
def roundF (f : FFmt) (rm : Rnd) (d : Dy) : Nat × Word :=
  let neg := decide (d.m < 0)
  let top : Int := (Nat.log2 d.m.natAbs : Int) + d.e
  let q := max (top - (f.p : Int) + 1) f.qmin
  let r := roundUnits rm d q
  let free := roundUnits rm d (top - (f.p : Int) + 1)
  let tiny := decide ((Nat.log2 free.1 : Int) + (top - (f.p : Int) + 1) < f.qmin + (f.p : Int) - 1)
  let code := (q - f.qmin).toNat * 2 ^ (f.p - 1) + r.1
  if f.infCode ≤ code then (overflowCode f rm neg, fOF ||| fNX)
  else ((if neg then f.signBit else 0) + code, if r.2 then 0 else if tiny then fUF ||| fNX else fNX)

/-- Flags of NaN operands: NV for a signalling NaN (R58). -/
def sigFlags (l : List Num) : Word := if l.contains .snan then fNV else 0

/-- Whether a value is a NaN. -/
def Num.isNan : Num → Bool
  | .qnan => true
  | .snan => true
  | .nar => true
  | _ => false

/-- Whether a value is an infinity. -/
def Num.isInf : Num → Bool
  | .inf _ => true
  | _ => false

/-- Whether a value is zero. -/
def Num.isZero : Num → Bool
  | .zero _ => true
  | _ => false

/-- The sign of a value. -/
def Num.sign : Num → Bool
  | .inf n => n
  | .zero n => n
  | .fin d => decide (d.m < 0)
  | _ => false

/-- The exact value of a number that is finite. -/
def Num.val : Num → Dy
  | .fin d => d
  | _ => ⟨0, 0⟩

/-- The code of a zero. -/
abbrev zeroF (f : FFmt) (neg : Bool) : Nat := if neg then f.signBit else 0
/-- The code of an infinity. -/
abbrev infF (f : FFmt) (neg : Bool) : Nat := f.infCode + if neg then f.signBit else 0

/-- The negation of a number. -/
def Num.neg : Num → Num
  | .inf n => .inf !n
  | .zero n => .zero !n
  | .fin d => .fin d.neg
  | x => x

/-- An exact product, with its invalid flag. -/
def mulNum (x y : Num) : Num × Word :=
  if x.isNan || y.isNan then (.qnan, sigFlags [x, y])
  else if x.isInf || y.isInf then
    if x.isZero || y.isZero then (.qnan, fNV) else (.inf (x.sign != y.sign), 0)
  else if x.isZero || y.isZero then (.zero (x.sign != y.sign), 0)
  else (.fin (x.val.mul y.val), 0)

/-- An exact sum rounded once (R58): NaNs, infinities, and the sign of an exact zero sum under the mode. -/
def addF (f : FFmt) (rm : Rnd) (x y : Num) : Nat × Word :=
  if x.isNan || y.isNan then (f.qnan, sigFlags [x, y])
  else if x.isInf && y.isInf && x.sign != y.sign then (f.qnan, fNV)
  else if x.isInf then (infF f x.sign, 0)
  else if y.isInf then (infF f y.sign, 0)
  else
    let t := x.val.add y.val
    if t.m = 0 then
      (zeroF f (if x.isZero && y.isZero && x.sign == y.sign then x.sign else decide (rm = .rdn)), 0)
    else roundF f rm t

/-- Rounds a product (R58). -/
def roundNum (f : FFmt) (rm : Rnd) (x : Num) : Nat × Word :=
  match x with
  | .fin d => if d.m = 0 then (0, 0) else roundF f rm d
  | .inf n => (infF f n, 0)
  | .zero n => (zeroF f n, 0)
  | _ => (f.qnan, 0)

/-- fadd (R58). -/
def fpAdd (f : FFmt) (rm : Rnd) (a b : Nat) : Nat × Word := addF f rm (decF f a) (decF f b)

/-- fsub (R58). -/
def fpSub (f : FFmt) (rm : Rnd) (a b : Nat) : Nat × Word := addF f rm (decF f a) (decF f b).neg

/-- fmul (R58). -/
def fpMul (f : FFmt) (rm : Rnd) (a b : Nat) : Nat × Word :=
  let p := mulNum (decF f a) (decF f b)
  let r := roundNum f rm p.1
  (r.1, p.2 ||| r.2)

/-- Fused multiply-add with one rounding; zero times infinity raises NV even with a quiet NaN addend (R58, R122). -/
def fpFma (f : FFmt) (rm : Rnd) (a b c : Nat) : Nat × Word :=
  let x := decF f a
  let y := decF f b
  let z := decF f c
  if x.isNan || y.isNan then (f.qnan, sigFlags [x, y, z])
  else
    let p := mulNum x y
    if p.1.isNan || z.isNan then (f.qnan, p.2 ||| sigFlags [z]) else addF f rm p.1 z

/-- Whether x orders below y as IEEE numbers, with -0 below +0 for minimum and maximum. -/
def numLt (x y : Num) : Bool :=
  match x, y with
  | .inf n, .inf m => n && !m
  | .inf n, _ => n
  | _, .inf m => !m
  | .zero n, .zero m => n && !m
  | _, _ => x.val.lt y.val

/-- minimumNumber, or maximumNumber when mx (R58, R122). -/
def fpMinMax (f : FFmt) (mx : Bool) (a b : Nat) : Nat × Word :=
  let x := decF f a
  let y := decF f b
  let fl := sigFlags [x, y]
  if x.isNan && y.isNan then (f.qnan, fl)
  else if x.isNan then (b, fl)
  else if y.isNan then (a, fl)
  else if mx then (if numLt x y then b else a, fl)
  else (if numLt y x then b else a, fl)

/-- The IEEE relation of two numbers: none when unordered, else the sign of x - y; +0 equals -0 (R49). -/
def numCmp (x y : Num) : Option Int :=
  if x.isNan || y.isNan then none
  else
    match x, y with
    | .inf n, .inf m => some (if n = m then 0 else if n then -1 else 1)
    | .inf n, _ => some (if n then -1 else 1)
    | _, .inf m => some (if m then 1 else -1)
    | _, _ => some (if x.val.lt y.val then -1 else if y.val.lt x.val then 1 else 0)

/-! ### Square roots and quotients with a sticky bit -/

/-- The integer square root, bit by bit from bit n - 1 down. -/
def isqrtFrom (x : Nat) : Nat → Nat → Nat
  | 0, r => r
  | n + 1, r => isqrtFrom x n (if (r + 2 ^ n) * (r + 2 ^ n) ≤ x then r + 2 ^ n else r)

/-- The integer square root. -/
def isqrt (x : Nat) : Nat := isqrtFrom x (Nat.log2 x / 2 + 1) 0

/-- x / y to more than 130 bits, the last one sticky: rounding it rounds the exact quotient. -/
def divSticky (x y : Dy) : Dy :=
  let n := x.m.natAbs * 2 ^ (130 + Nat.log2 y.m.natAbs)
  let d := y.m.natAbs
  let q := 2 * (n / d) + if n % d = 0 then 0 else 1
  ⟨if (x.m < 0) != (y.m < 0) then -(q : Int) else (q : Int), x.e - y.e - ((131 + Nat.log2 y.m.natAbs : Nat) : Int)⟩

/-- The square root of a positive value to more than 130 bits, the last one sticky. -/
def sqrtSticky (x : Dy) : Dy :=
  let x2 : Dy := if x.e % 2 = 0 then x else ⟨2 * x.m, x.e - 1⟩
  let n := x2.m.natAbs * 4 ^ 140
  let r := isqrt n
  ⟨((2 * r + if r * r = n then 0 else 1 : Nat) : Int), x2.e / 2 - 141⟩

/-- 1 over the square root of a positive value, likewise. -/
def rsqrtSticky (x : Dy) : Dy :=
  let x2 : Dy := if x.e % 2 = 0 then x else ⟨2 * x.m, x.e - 1⟩
  let k := 140 + Nat.log2 x2.m.natAbs
  let r := isqrt (4 ^ k / x2.m.natAbs)
  ⟨((2 * r + if r * r * x2.m.natAbs = 4 ^ k then 0 else 1 : Nat) : Int), -(x2.e / 2) - (k : Int) - 1⟩

/-- fdiv (R58, R124). -/
def fpDiv (f : FFmt) (rm : Rnd) (a b : Nat) : Nat × Word :=
  let x := decF f a
  let y := decF f b
  let sg := x.sign != y.sign
  if x.isNan || y.isNan then (f.qnan, sigFlags [x, y])
  else if x.isInf then if y.isInf then (f.qnan, fNV) else (infF f sg, 0)
  else if y.isInf then (zeroF f sg, 0)
  else if y.isZero then if x.isZero then (f.qnan, fNV) else (infF f sg, fDZ)
  else if x.isZero then (zeroF f sg, 0)
  else roundF f rm (divSticky x.val y.val)

/-- fsqrt (R58, R124). -/
def fpSqrt (f : FFmt) (rm : Rnd) (a : Nat) : Nat × Word :=
  let x := decF f a
  if x.isNan then (f.qnan, sigFlags [x])
  else if x.isZero then (zeroF f x.sign, 0)
  else if x.sign then (f.qnan, fNV)
  else if x.isInf then (infF f false, 0)
  else roundF f rm (sqrtSticky x.val)

/-- The reciprocal: 1 / a (R124). -/
def fpRcp (f : FFmt) (rm : Rnd) (a : Nat) : Nat × Word := fpDiv f rm (f.bias * 2 ^ (f.p - 1)) a

/-- The reciprocal square root (R124). -/
def fpRsq (f : FFmt) (rm : Rnd) (a : Nat) : Nat × Word :=
  let x := decF f a
  if x.isNan then (f.qnan, sigFlags [x])
  else if x.isZero then (infF f x.sign, fDZ)
  else if x.sign then (f.qnan, fNV)
  else if x.isInf then (zeroF f false, 0)
  else roundF f rm (rsqrtSticky x.val)

/-! ### Tapered formats (R47-R53) -/

/-- Width in bits of a tapered format (R48). -/
def tapN : TapFmt → Nat
  | .e8e0 => 8 | .e8e1 => 8 | .e8e2 => 8 | .e16e1 => 16 | .e16e2 => 16 | .e32e2 => 32

/-- Greatest exponent field of a tapered format (R48). -/
def tapEs : TapFmt → Nat
  | .e8e0 => 0 | .e8e1 => 1 | .e8e2 => 2 | .e16e1 => 1 | .e16e2 => 2 | .e32e2 => 2

/-- The number of consecutive bits equal to lead from bit i - 1 down (R47). -/
def runLen (x : Nat) (lead : Bool) : Nat → Nat
  | 0 => 0
  | i + 1 => if x.testBit i = lead then runLen x lead i + 1 else 0

/-- The value of a positive code of n bits below 2^(n-1) (R47). -/
def tapMag (n es x : Nat) : Dy :=
  let lead := x.testBit (n - 2)
  let m := runLen x lead (n - 1)
  let k : Int := if lead then (m : Int) - 1 else -(m : Int)
  let rest := n - 2 - m
  let eb := min es rest
  let e := x / 2 ^ (rest - eb) % 2 ^ eb * 2 ^ (es - eb)
  let f := rest - eb
  ⟨((2 ^ f + x % 2 ^ f : Nat) : Int), k * (2 ^ es : Nat) + (e : Int) - (f : Int)⟩

/-- decode_tap (R47). -/
def decTap (t : TapFmt) (c0 : Nat) : Num :=
  let n := tapN t
  let c := c0 % 2 ^ n
  if c = 0 then .zero false
  else if c = 2 ^ (n - 1) then .nar
  else if c.testBit (n - 1) then .fin (tapMag n (tapEs t) (2 ^ n - c)).neg
  else .fin (tapMag n (tapEs t) c)

/-- The greatest positive code whose value does not exceed v, found bit by bit from bit i - 1 down. -/
def tapFloor (n es : Nat) (v : Dy) : Nat → Nat → Nat
  | 0, c => c
  | i + 1, c => tapFloor n es v i (if (tapMag n es (c + 2 ^ i)).le v then c + 2 ^ i else c)

/-- encode_tap of a nonzero exact value: the code and the flags (R51). -/
def encTap (t : TapFmt) (rm : Rnd) (bound : Nat) (v : Dy) : Nat × Word :=
  let n := tapN t
  let es := tapEs t
  let neg := decide (v.m < 0)
  let mag := v.abs
  let maxE : Int := ((n - 2) * 2 ^ es : Nat)
  let r : Nat × Word :=
    if (Dy.mk 1 maxE).lt mag then (2 ^ (n - 1) - 1, fTC ||| fTI)
    else if mag.lt (Dy.mk 1 (-maxE)) then (1, fTC ||| fTI)
    else
      let lo := tapFloor n es mag (n - 1) 0
      let lv := tapMag n es lo
      if lv.eq mag then (lo, 0)
      else
        let hv := tapMag n es (lo + 1)
        let dl := mag.add lv.neg
        let dh := hv.add mag.neg
        let c := match rm with
          | .rne => if dl.lt dh then lo else if dh.lt dl then lo + 1 else if lo % 2 = 0 then lo else lo + 1
          | .rna => if dl.lt dh then lo else lo + 1
          | .rtz => lo
          | .rup => if neg then lo else lo + 1
          | .rdn => if neg then lo + 1 else lo
        (c, fTI)
  let b : Nat × Word := if bound ≠ 0 ∧ bound < r.1 then (bound, r.2 ||| fTC ||| fTI) else r
  ((if neg then 2 ^ n - b.1 else b.1), b.2)

/-- The NaR code of a tapered format (R48). -/
abbrev tapNar (t : TapFmt) : Nat := 2 ^ (tapN t - 1)

/-- Copies of the sign bit above a tapered code in a 32-bit register (R45). -/
def tapReg (t : TapFmt) (c : Nat) : Word := BitVec.ofInt 32 (sgnOf (tapN t) c)

/-! ### W320 (R54-R57) -/

/-- NaR of W320 (R54). -/
def wNar : W320 := BitVec.ofNat 320 (2 ^ 319)

/-- The value of a W320 code (R54). -/
def decW (x : W320) : Num := if x = wNar then .nar else if x = 0 then .zero false else .fin ⟨x.toInt, -160⟩

/-- w320_add (R55). -/
def wAdd (x y : W320) : W320 × Word :=
  if x = wNar ∨ y = wNar then (wNar, fTO)
  else
    let t := x.toInt + y.toInt
    if 2 ^ 319 - 1 < t.natAbs then (wNar, fTN) else (BitVec.ofInt 320 t, 0)

/-! ### Conversions (R59-R62) -/

/-- The family of a source, which fixes the inexact and invalid flags of an integer result (R59). -/
inductive Fam where
  | ieee | tap | int
  deriving DecidableEq, Repr

/-- NV of a signalling NaN (R59). -/
def snanFlag : Num → Word
  | .snan => fNV
  | _ => 0

/-- To a tapered code (R62). -/
def toTap (t : TapFmt) (rm : Rnd) (bound : Nat) (x : Num) : Nat × Word :=
  match x with
  | .zero _ => (0, 0)
  | .nar => (tapNar t, fTO)
  | .qnan => (tapNar t, 0)
  | .snan => (tapNar t, fNV)
  | .inf _ => (tapNar t, fTN)
  | .fin d => if d.m = 0 then (0, 0) else encTap t rm bound d

/-- to_w320 (R62). -/
def toW (rm : Rnd) (x : Num) : W320 × Word :=
  match x with
  | .zero _ => (0, 0)
  | .nar => (wNar, fTO)
  | .qnan => (wNar, 0)
  | .snan => (wNar, fNV)
  | .inf _ => (wNar, fTN)
  | .fin d =>
    let r := roundInt rm (d.shift 160)
    if 2 ^ 319 - 1 < r.1.natAbs then (wNar, fTN) else (BitVec.ofInt 320 r.1, if r.2 then 0 else fTI)

/-- To a binary format (R62). -/
def toF (f : FFmt) (rm : Rnd) (fam : Fam) (x : Num) : Nat × Word :=
  match x with
  | .zero n => (zeroF f (n && decide (fam = .ieee)), 0)
  | .nar => (f.qnan, fTO)
  | .qnan => (f.qnan, 0)
  | .snan => (f.qnan, fNV)
  | .inf n => (infF f n, 0)
  | .fin d => if d.m = 0 then (0, 0) else roundF f rm d

/-- The least and greatest value of an integer format of n bits. -/
def intRange (n : Nat) (signed : Bool) : Int × Int :=
  if signed then (-(2 ^ (n - 1) : Nat), (2 ^ (n - 1) : Nat) - 1) else (0, (2 ^ n : Nat) - 1)

/-- To an integer format of n bits, saturating (R62). -/
def toInt (n : Nat) (signed : Bool) (rm : Rnd) (fam : Fam) (x : Num) : Nat × Word :=
  let r := intRange n signed
  match x with
  | .zero _ => (0, 0)
  | .nar => (wrapTo n r.1, fTO)
  | .qnan => (wrapTo n r.1, fNV)
  | .snan => (wrapTo n r.1, fNV)
  | .inf neg => (wrapTo n (if neg then r.1 else r.2), fNV)
  | .fin d =>
    let v := roundInt rm d
    let bad : Word := if fam = .ieee then fNV else fTC ||| fTI
    if v.1 < r.1 then (wrapTo n r.1, bad)
    else if r.2 < v.1 then (wrapTo n r.2, bad)
    else (wrapTo n v.1, if v.2 then 0 else if fam = .ieee then fNX else fTI)

/-- An integer as a number. -/
def ofInt (x : Int) : Num := if x = 0 then .zero false else .fin ⟨x, 0⟩

/-- A number times 2^n (R52). -/
def Num.scale (x : Num) (n : Int) : Num :=
  match x with
  | .fin d => .fin (d.shift n)
  | y => y

/-! ### The binary64 matrix sum (R63) -/

/-- A node of the sum tree: one rounding under RNE (R63). -/
def f64Node (x y : Num × Word) : Num × Word :=
  let r := addF f64 .rne x.1 y.1
  (decF f64 r.1, x.2 ||| y.2 ||| r.2)

/-- One level of the tree: nodes over pairs in index order; a lone child stands for its node (R63). -/
def f64Level : List (Num × Word) → List (Num × Word)
  | x :: y :: r => f64Node x y :: f64Level r
  | l => l

/-- The root of a chunk of at most 16 leaves (R63). -/
def f64Root (l : List (Num × Word)) : Num × Word :=
  (f64Level (f64Level (f64Level (f64Level l)))).headD (.zero false, 0)

/-- Accumulates the chunks of 16 products in order (R63). -/
def f64Sum : Nat → List (Num × Word) → Num × Word → Num × Word
  | 0, _, acc => acc
  | n + 1, l, acc =>
    if l.isEmpty then acc else f64Sum n (l.drop 16) (f64Node acc (f64Root (l.take 16)))

end Sys2Proof.Machine
end

