-- ==== Sys2Proof/Machine/MemSys.lean ====
section
/-!
DEFINITION. Sys2Proof/Machine/MemSys.lean: main memory and its metadata, the L3 home slice, the L1s, buffer-table entries and
page walks (R220, R221, R281-R291, R325-R345, R349).
-/

namespace Sys2Proof.Machine

/-- Signals an MSI-X message of function fn (0 for PF0, n + 1 for interface n) when IEN, bit 16, is set (R271). -/
def signal (s : State) (fn : Nat) (irq : DWord) : State :=
  if irq.getLsbD 16 then s.modMgmt fun m => { m with msix := m.msix ++ [(fn, fieldOf irq 15 0)] } else s

/-- The address at which the model keeps byte pa of a home device's memory (log entry 9). -/
def gaddr (s : State) (home pa : Nat) : Nat :=
  if home = s.fabric.device then pa else (home + 1) * 2 ^ 41 + pa

/-- The line of an address. -/
abbrev lineOf (a : Nat) : Nat := a / 128

/-- Whether a line is homed on another device. -/
abbrev isRemote (ln : Nat) : Bool := 2 ^ 34 ≤ ln

/-- Whether a context is confidential (R281). -/
abbrev State.conf (s : State) (c : Nat) : Bool := (s.ctx c).cf.getLsbD 0

/-- The home device of a line. -/
def homeOf (s : State) (ln : Nat) : Nat := if isRemote ln then ln / 2 ^ 34 - 1 else s.fabric.device

/-! ### Routing and row activations (R324-R327, R337) -/

/-- The MEMRGN entry of a region (R325). -/
def region (s : State) (n : Nat) : DWord := s.hbm.regions.getD n 0

/-- The partition a line of this device belongs to: its region's PART (R325). -/
abbrev lineRegionPart (s : State) (ln : Nat) : Nat := fieldOf (region s (ln * 128 / 2 ^ 29)) 61 59

/-- The number of stacks of a set (R287). -/
def setSize (cls : Nat) : Nat := nth [16, 8, 4, 1] (cls % 4) 1

/-- The granule of a class in bytes (R287). -/
def granule (cls : Nat) : Nat := nth [256, 4096, 65536] (bitsOf cls 3 2) 256

/-- Whether a class is valid: GRAN not 3 and SEL within its set (R287). -/
def classValid (cls : Nat) : Bool := bitsOf cls 3 2 != 3 && decide (bitsOf cls 8 5 < 16 / setSize cls)

/-- A place in DRAM: stack, channel, pseudo-channel, bank, row. -/
structure Place where
  stack : Nat
  channel : Nat
  pc : Nat
  bank : Nat
  row : Nat
  deriving DecidableEq, Repr

/-- The route of a physical address in an uncompressed region, with the extent given (R327). -/
def route (cls ext pa : Nat) : Place :=
  let n := setSize cls
  let g := granule cls
  let m := 32 * n
  let o := pa % 2 ^ 29
  let u := o / g
  let t0 := u % m
  let t := if cls.testBit 4 then Nat.xor t0 (fold (Nat.log2 m) 32 (u / m) % m) else t0
  let q := ext + u / m * g + o % g
  { stack := bitsOf cls 8 5 * n + t % n, channel := t / n, pc := bitsOf q 10 10, bank := bitsOf q 14 11, row := bitsOf q 31 15 }

/-- The route of a line of this device; the frame of a compressed page is 40 KiB (R335). -/
def placeOf (s : State) (ln : Nat) : Place :=
  let pa := ln * 128
  let r := region s (pa / 2 ^ 29)
  let cls := fieldOf r 8 0
  let ext := fun st => s.hbm.extents.getD (pa / 2 ^ 29 * 16 + st) 0
  let pa' := if r.getLsbD 62 then pa / 2 ^ 29 * 2 ^ 29 + pa % 2 ^ 29 / 65536 * 40960 + pa % 65536 / 256 * 128 else pa
  route cls (ext (route cls 0 pa').stack) pa'

/-- The global channel of a place (R324). -/
abbrev Place.chan (p : Place) : Nat := p.stack * 32 + p.channel
/-- The global bank of a place. -/
abbrev Place.gbank (p : Place) : Nat := (p.chan * 2 + p.pc) * 16 + p.bank

/-- Whether a line's channel is fenced (R341). -/
def fenced (s : State) (ln : Nat) : Bool :=
  !isRemote ln && (let p := placeOf s ln; (s.stack p.stack).fence.getLsbD p.channel)

/-- A row of a bank reached the threshold (R337, R338): neighbours refreshed, count cleared, bank held and precharged, ALERT. -/
def rmThreshold (s : State) (bank row : Nat) : State :=
  let st := bank / 1024
  let k := s.stack st
  let had := k.alert.getLsbD 63
  let alert := if had then k.alert ||| 0x4000000000000000#64 else
    BitVec.ofNat 64 (2 ^ 63 + bank / 32 % 32 * 2 ^ 57 + bank / 16 % 2 * 2 ^ 56 + bank % 16 * 2 ^ 52 + row % 2 ^ 17 * 2 ^ 35)
      ||| (k.alert &&& 0x4000000000000000#64)
  let s1 := s.modStack st fun k => { k with alert := alert, rmcnt := k.rmcnt + 1 }
  let s2 := if had then s1 else signal s1 0 k.rmctl
  { s2 with hbm := { s2.hbm with
      acts := s2.hbm.acts.set (bank * 2 ^ 17 + row) 0
      openRow := s2.hbm.openRow.del bank
      bankHold := s2.hbm.bankHold.set bank (s2.clock + fieldOf k.rmint 11 0) } }

/-- The DRAM access of a line: its row is activated when it is not the open row of its bank, and the activation counts (R337). -/
def activate (s : State) (ln : Nat) : State :=
  let p := placeOf s ln
  let b := p.gbank
  if s.hbm.openRow.get? b = some p.row then s else
  let n := s.hbm.acts.getD (b * 2 ^ 17 + p.row) 0 + 1
  let s1 := { s with hbm := { s.hbm with
    openRow := s.hbm.openRow.set b p.row, acts := s.hbm.acts.set (b * 2 ^ 17 + p.row) n } }
  if fieldOf (s.stack p.stack).rmth 15 0 ≤ n then rmThreshold s1 b p.row else s1

/-! ### Line metadata (R328) -/

/-- STATE of a line: 0 I, 1 S, 2 E, 3 O, 4 M, 5 H. -/
abbrev mdState (m : BitVec 16) : Nat := fieldOf m 2 0
/-- OWNER of a line. -/
abbrev mdOwner (m : BitVec 16) : Nat := fieldOf m 11 3
/-- EPOCH of a line. -/
abbrev mdEpoch (m : BitVec 16) : Nat := fieldOf m 13 12
/-- POISON of a line. -/
abbrev mdPoison (m : BitVec 16) : Bool := m.getLsbD 14

/-- A metadata word (R328). -/
def mdMake (poison : Bool) (epoch owner state : Nat) : BitVec 16 :=
  BitVec.ofNat 16 ((if poison then 2 ^ 14 else 0) + epoch % 4 * 2 ^ 12 + owner % 512 * 8 + state % 8)

/-- The metadata of a line. -/
abbrev State.md (s : State) (ln : Nat) : BitVec 16 := (s.line ln).md

/-- Sets STATE and OWNER of a line. -/
def State.setMd (s : State) (ln owner state : Nat) : State :=
  s.modLine ln fun l => { l with md := mdMake (mdPoison l.md) (mdEpoch l.md) owner state }

/-- Sets or clears POISON of a line. -/
def State.setPoison (s : State) (ln : Nat) (p : Bool) : State :=
  s.modLine ln fun l => { l with md := mdMake p (mdEpoch l.md) (mdOwner l.md) (mdState l.md) }

/-- A message sent out about a line to devices, or to host ports as 512 + port: 0 invalidation, 1 recall, 2 back-invalidation snoop of a host
port, 3 acknowledgement, 4 answer to a host's snoop, 5 a proposed instant, 6 its cancellation, 7 its acknowledgement,
8 a lost-copies notice, 9 an order to supply the line to a reader, 10 a throttle signal, 11 an error completion of a message. -/
def State.tellTo (s : State) (what ln : Nat) (to_ : List Nat) : State :=
  s.modMgmt fun m => { m with remoteOut := m.remoteOut ++ [(what, ln, to_)] }

/-- A message sent out without a named addressee. -/
def State.tell (s : State) (what ln : Nat) : State := s.tellTo what ln []

/-! ### What a request asks of copies outside (R329-R331) -/

/-- The devices of a sharing group (R330). -/
def groupDevs (s : State) (sgrp : Nat) : List Nat :=
  let g := s.fabric.groups.getD sgrp (0, [])
  (List.range (min 32 g.1)).map fun i => fieldOf (nth g.2 (i / 7) 0) (9 * (i % 7) + 8) (9 * (i % 7))

/-- A request at a home slice: by the home device, another device or a host port; a read, or a write or a taking of ownership (R331). -/
inductive LineUse where
  | home (write : Bool)
  | dev (d : Nat) (own : Bool)
  | host (port : Nat) (own : Bool)
  deriving DecidableEq, Repr

/-- The devices that hold a line in S or E: the owner by name, or the line's group by broadcast, but for the requester (R330, R331). -/
def sharers (s : State) (ln : Nat) (u : LineUse) : List Nat :=
  let l := s.line ln
  let all := if mdState l.md = 3 || mdOwner l.md = 0x1FF then groupDevs s l.grp else [mdOwner l.md]
  match u with
  | .dev d _ => all.filter (· != d)
  | _ => all

/-- The messages that a request needs acknowledged before it is decided, with their addressees (R331). -/
def asks (s : State) (ln : Nat) (u : LineUse) : List (Nat × List Nat) :=
  let m := s.md ln
  let o := mdOwner m
  let inv := (0, sharers s ln u)
  match mdState m, u with
  | 1, .home true => [inv]
  | 1, .dev _ true => [inv]
  | 1, .host _ _ => [inv]
  | 2, .home true => [inv]
  | 2, .dev d true => if d = o then [] else [inv]
  | 2, .host _ _ => [inv]
  | 3, .home false => [(1, [o])]
  | 3, .dev d false => if d = o then [] else [(9, [o])]
  | 3, .dev d true => if d = o then [inv] else [(1, [o]), inv]
  | 3, _ => [(1, [o]), inv]
  | 4, .dev d false => if d = o then [] else [(9, [o])]
  | 4, .dev d true => if d = o then [] else [(1, [o])]
  | 4, _ => [(1, [o])]
  | 5, .home false => if m.getLsbD 4 then [(2, [512 + o % 2])] else []
  | 5, .home true => [(2, [512 + o % 2])]
  | 5, .dev _ _ => [(2, [512 + o % 2])]
  | 5, .host p own => if o % 2 ≠ p && (own || m.getLsbD 4) then [(2, [512 + o % 2])] else []
  | _, _ => []

/-- The requester for whom a line's messages have gone out, while it still waits: an operation that has ended waits no more (R329). -/
def asker (s : State) (ln : Nat) : Option LineReq :=
  match (s.line ln).asked with
  | some (.op id) => if s.ops.any fun o => o.id == id then some (.op id) else none
  | some (.fibre f) => if (s.fibres.get? f).isSome then some (.fibre f) else none
  | r => r

/-- The routes of a device's traffic, the ports that a route-table entry lists, four at most (R353, R363). -/
def routePorts (x : DWord) : List Nat := (List.range (min 4 (fieldOf x 2 0))).map fun k => fieldOf x (7 + 4 * k) (4 + 4 * k)

/-- Whether some device port still reaches the home of a remote line (R354). -/
def reachable (s : State) (dev : Nat) : Bool := dev == s.fabric.device || !(routePorts (s.fabric.routes.getD dev 0)).isEmpty

/-- Whether acknowledgements are outstanding for a line, from a device that can still give them or from a host port (R329, R354). -/
def acksDue (s : State) (ln : Nat) : Bool := (s.line ln).acks.any fun d => decide (512 ≤ d) || reachable s d

/-- Whether a request to a line must wait: for its own messages to be acknowledged, or behind a request that waits for its own (R329). -/
def lineWaits (s : State) (ln : Nat) (r : LineReq) (u : LineUse) : Bool :=
  match asker s ln with
  | some (.op id) => r != .op id || acksDue s ln
  | some _ => acksDue s ln
  | none => !(asks s ln u).isEmpty

/-- The messages of a request go out, and it waits for their acknowledgements (R329). -/
def askFor (s : State) (ln : Nat) (r : LineReq) (u : LineUse) : State :=
  match asker s ln with
  | some _ => s
  | none =>
    let l := asks s ln u
    if l.isEmpty then s
    else (l.foldl (fun s e => s.tellTo e.1 ln e.2) s).modLine ln fun x => { x with asked := some r, acks := (l.flatMap (·.2)).dedup }

/-- A request is decided: the messages it needs go out unless they have, and nothing is awaited any more (R329). -/
def gather (s : State) (ln : Nat) (u : LineUse) : State :=
  if (s.line ln).asked.isSome then s.modLine ln fun x => { x with asked := none, acks := [] }
  else (asks s ln u).foldl (fun s e => s.tellTo e.1 ln e.2) s

/-! ### The place of a line (R324, R327, R332, R353) -/

/-- The hub die of a stack (R324). -/
abbrev hubOf (stack : Nat) : Nat := stack / 4

/-- The home slice of a line of this device (R332). -/
def sliceOf (s : State) (ln : Nat) : Nat := hubOf (placeOf s ln).stack * 32 + fold 5 34 ln % 32

/-- The bank of a line within its slice (R332). -/
abbrev bankOf (ln : Nat) : Nat := ln / 32 % 4

/-- The port that traffic concerning a line takes to its home device (R353). -/
def linePort (s : State) (ln : Nat) : Option Nat :=
  let l := routePorts (s.fabric.routes.getD (homeOf s ln) 0)
  l[ln % 2 ^ 34 % l.length]?

/-- The port that messages to a mailbox of a device take (R353). -/
def mboxPort (s : State) (dev mbox : Nat) : Option Nat :=
  let l := routePorts (s.fabric.routes.getD dev 0)
  l[mbox % l.length]?

/-- Whether a virtual channel of a port is full and stalls its traffic (R352). -/
def vcFull (s : State) (port : Option Nat) (vc : Nat) : Bool :=
  match port with
  | some n => (s.fabric.ports.getD n Port.init).stalled.contains vc
  | none => false

/-! ### Errors (R339, R341) -/

/-- An uncorrectable error in a line's burst sets POISON and counts in UE (R339). -/
def uncorrectable (s : State) (ln : Nat) : State :=
  (s.setPoison ln true).modStack (placeOf s ln).stack fun k => { k with ue := k.ue + 1 }

/-- A remap-table error of the line's channel: rebuilt from the good copy, or the channel is fenced (R341); the record of a
fence is posted when the step settles (fenceDue). -/
def remapError (s : State) (ln : Nat) : State :=
  let p := placeOf s ln
  match s.hbm.remapErr.get? p.chan with
  | some 1 =>
    let s1 := s.modStack p.stack fun k => { k with rmbad := true }
    { s1 with hbm := { s1.hbm with remapErr := s1.hbm.remapErr.del p.chan } }
  | some _ =>
    let s1 := s.modStack p.stack fun k => { k with fence := k.fence ||| (1#32 <<< p.channel) }
    { s1 with hbm := { s1.hbm with remapErr := s1.hbm.remapErr.del p.chan, fenceDue := s1.hbm.fenceDue ++ [p.chan] } }
  | none => s

/-- Metadata that is uncorrectable (R339): the line's group and the host ports are told to drop it, and it becomes I with POISON set. -/
def badMeta (s : State) (ln : Nat) : State :=
  (((uncorrectable s ln).tellTo 0 ln (groupDevs s (s.line ln).grp)).tellTo 2 ln [512, 513]).modLine ln fun l =>
    { l with md := mdMake true (mdEpoch l.md) 0 0 }

/-- The L3 makes room in the slice of a line: 3 MiB, 24,576 lines; which line leaves a full slice is private to the slice, and it is written
to DRAM where the L3 holds it newer (R2, R332, R337). -/
def l3Room (s : State) (ln : Nat) : State :=
  if s.lines.length < 24576 then s else
  let n := sliceOf s ln
  let held := (s.lines.filter fun e => e.2.inL3 && !isRemote e.1 && sliceOf s e.1 == n).map (·.1)
  if held.length < 24576 then s
  else
    let d := s.drawFree
    let out := nth held (d.1.toNat % held.length) 0
    let s1 := if (s.line out).dirty then activate d.2 out else d.2
    s1.modLine out fun l => { l with own := [], inL3 := false, dirty := false }

/-- A line's burst is read through the ECC of its channel: an error in DRAM is counted, and an uncorrectable one poisons the line (R328, R339). -/
def eccRead (s : State) (ln : Nat) : State :=
  let s1 := match s.hbm.errs.get? ln with
    | some 1 => s.modStack (placeOf s ln).stack fun k => { k with ce := k.ce + 1 }
    | some 2 => uncorrectable s ln
    | some _ => badMeta s ln
    | none => if 6 ≤ mdState (s.md ln) || (s.md ln).getLsbD 15 then badMeta s ln else s
  { s1 with hbm := { s1.hbm with errs := s1.hbm.errs.del ln } }

/-- Brings a line of this device into its home slice: data and metadata arrive together (R329), the row is activated (R337),
errors are found (R328, R339), and with nt a miss allocates nothing (R404). -/
def fetchLine (s : State) (ln : Nat) (nt : Bool) : State :=
  if isRemote ln || (s.line ln).inL3 then s else
  let s0 := remapError (if nt then s else l3Room s ln) ln
  let s4 := eccRead (activate s0 ln) ln
  if nt then s4 else s4.modLine ln fun l => { l with inL3 := true }

/-! ### The undo ring (R343-R345) -/

/-- Whether a partition captures pre-images (R345). -/
def capturing (s : State) (p : Nat) : Bool := (s.part p).urState == .capture || (s.part p).urState == .guarded

/-- The number of entries of a partition's undo ring (R344). -/
def undoSize (s : State) (p : Nat) : Nat := fieldOf (s.part p).urNow.2 15 8 * 2 ^ 30 / 144

/-- The address of undo entry k (R344). -/
def undoAddr (s : State) (p k : Nat) : Nat :=
  fieldOf (s.part p).urNow.1 51 30 * 2 ^ 30 + 144 * (k % undoSize s p)

/-- The bytes of an undo entry (R344). -/
def undoEntry (md : BitVec 16) (ln k : Nat) (data : List Byte) : List Byte :=
  natBytes 8 (2 ^ 63 + md.toNat * 2 ^ 34 + ln % 2 ^ 34) ++ natBytes 8 k ++ data

/-- The capture check of a write reaching the home slice of a line (R345). -/
def undoCapture (s : State) (ln : Nat) : State :=
  if isRemote ln then s else
  let p := lineRegionPart s ln
  let pt := s.part p
  let l := s.line ln
  let mark := fun (s : State) => s.modLine ln fun l =>
    { l with md := mdMake (mdPoison l.md) pt.urEpoch.toNat (mdOwner l.md) (mdState l.md) }
  if mdEpoch l.md = pt.urEpoch.toNat then s
  else if capturing s p then
    if pt.urTail - pt.urEpst = undoSize s p then
      mark (s.modPart p fun t => { t with unprot := true, urState := .noprot })
    else
      let e := undoEntry l.md ln pt.urTail (s.mem.readL (ln * 128) 128)
      mark (activate ({ s with mem := s.mem.writeL (undoAddr s p pt.urTail) e }.modPart p fun t => { t with urTail := t.urTail + 1 })
        (lineOf (undoAddr s p pt.urTail)))
  else if pt.urState = .noprot then mark s
  else s

/-! ### Compressed pages (R335, R336) -/

/-- The spill units of a sector of a given coded length. -/
abbrev spillUnits (len : Nat) : Nat := len - 4

/-- The least spill start that leaves room for n units clear of the directory's other sectors. -/
def spillPlace (dir : List (Nat × Nat)) (i n : Nat) : Option Nat :=
  (List.range 241).find? fun st =>
    decide (st + n ≤ 240) &&
      dir.zipIdx.all fun e => e.2 == i || spillUnits e.1.1 == 0 || decide (st + n ≤ e.1.2 ∨ e.1.2 + spillUnits e.1.1 ≤ st)

/-- The coded length of a sector: 0 exactly where it is all zero (R335). -/
def sectorLen (bytes : BitVec 2048) : Nat := if bytes = 0 then 0 else max 1 (Config.sectorLen bytes).val

/-- Re-codes sector i of a compressed page for its new bytes: the new directory, or none when it does not fit the free run (R336). -/
def recode (dir : List (Nat × Nat)) (i : Nat) (bytes : BitVec 2048) : Option (List (Nat × Nat)) :=
  let len := sectorLen bytes
  match spillPlace dir i (spillUnits len) with
  | some st => some (dir.set i (len, st))
  | none => none

/-- The directory of a compressed page, every sector zero at first. -/
def pageDir (s : State) (page : Nat) : List (Nat × Nat) := s.hbm.cdir.getD page (List.replicate 256 (0, 0))

/-- Writes bytes of a line of a compressed page, or holds the write when the page cannot take it (R336). -/
def compWrite (s : State) (ln : Nat) (data : BitVec 1024) (mask : BitVec 128) : State :=
  let page := ln * 128 / 65536
  let m1 := s.mem.writeMask (ln * 128) 128 data.toNat mask.toNat
  let i := ln * 128 % 65536 / 256
  match recode (pageDir s page) i (BitVec.ofNat 2048 (m1.readN (page * 65536 + 256 * i) 256)) with
  | some d => { s with mem := m1, hbm := { s.hbm with cdir := s.hbm.cdir.set page d } }
  | none => { s with hbm := { s.hbm with cheld := s.hbm.cheld.set page (s.hbm.cheld.getD page [] ++ [(ln, data, mask)]) } }

/-- Bytes of a line of this device as its controller writes them: a compressed page re-codes the sector (R336). -/
def lineWrite (s : State) (ln : Nat) (data : BitVec 1024) (mask : BitVec 128) : State :=
  if !isRemote ln && (region s (ln * 128 / 2 ^ 29)).getLsbD 62 then compWrite s ln data mask
  else { s with mem := s.mem.writeMask (ln * 128) 128 data.toNat mask.toNat }

/-- Whether requests to a line's page wait for a recompression (R336). -/
def pageHeld (s : State) (ln : Nat) : Bool := (s.hbm.cheld.get? (ln * 128 / 65536)).isSome

/-! ### The home slice (R331) -/

/-- The data of a copy held outside and recalled: the holder's dirty bytes are an input, so the line becomes a free value (log entry 12). -/
def recallData (s : State) (ln : Nat) : State :=
  let s1 := undoCapture s ln
  let d := s1.drawFree
  (lineWrite d.2 ln d.1 (BitVec.allOnes 128)).modLine ln fun l => { l with dirty := !isRemote ln }

/-- A back-invalidation snoop of a port that holds a line with HX: a port that took the line's ownership writes it back, with bytes that are
an input (log entry 12); one that only wrote it has its bytes in memory already (R331, R351). -/
def snoopData (s : State) (ln : Nat) : State :=
  if s.mgmt.hostOwned.contains ln then
    (recallData s ln).modMgmt fun m => { m with hostOwned := m.hostOwned.filter (· != ln) }
  else s

/-- The home device reads a line (R331, column "Home device reads"). -/
def homeRead (s : State) (ln : Nat) (nt : Bool) : State :=
  let s1 := fetchLine s ln nt
  if isRemote ln then s1 else
  let m := s1.md ln
  let s2 := gather s1 ln (.home false)
  match mdState m with
  | 3 => (recallData s2 ln).setMd ln 0x1FF 1
  | 4 => (recallData s2 ln).setMd ln (mdOwner m) 2
  | 5 => if m.getLsbD 4 then (snoopData s2 ln).setMd ln (mdOwner m % 2) 5 else s2
  | _ => s2

/-- Every copy outside the home slice is gathered and invalidated, as for a write of the home device (R331). -/
def homeTakes (s : State) (ln : Nat) : State :=
  if isRemote ln then s else
  let m := s.md ln
  let s1 := gather s ln (.home true)
  match mdState m with
  | 0 => s1
  | 3 => (recallData s1 ln).setMd ln 0 0
  | 4 => (recallData s1 ln).setMd ln 0 0
  | 5 => (if m.getLsbD 4 then snoopData s1 ln else s1).setMd ln 0 0
  | _ => s1.setMd ln 0 0

/-- The words touched by a byte mask. -/
def wordMask (m : BitVec 128) : BitVec 32 := maskOf fun i => decide (m.toNat / 2 ^ (4 * i.val) % 16 ≠ 0)

/-- Words written at a line's home slice leave every owner record, and the L3 holds the line newer than DRAM (R216, R220, R332). -/
def dropOwn (s : State) (ln : Nat) (words : BitVec 32) : State :=
  s.modLine ln fun l => { l with dirty := !isRemote ln, own := l.own.map fun r => { r with mask := r.mask &&& ~~~ words } }

/-- A write of the home device, of one of its cores or engines, or of an uncached remote device, to bytes of one line at its
home slice: fenced channels discard it (R341), copies outside are gathered (R331), the pre-image is captured (R345), a full
write clears POISON (R339), and the words leave every owner record (R220). A write to an unreachable device is lost (R354). -/
def homeWrite (s : State) (ln : Nat) (data : BitVec 1024) (mask : BitVec 128) : State :=
  if mask = 0 then s
  else if isRemote ln then
    if reachable s (homeOf s ln) then dropOwn { s with mem := s.mem.writeMask (ln * 128) 128 data.toNat mask.toNat } ln (wordMask mask) else s
  else
    let s0 := fetchLine s ln false
    if fenced s0 ln then s0
    else
      let s1 := undoCapture (homeTakes s0 ln) ln
      let s2 := if mask = BitVec.allOnes 128 then s1.setPoison ln false else s1
      dropOwn (lineWrite s2 ln data mask) ln (wordMask mask)

/-- Writes the n low bytes of v at address a, which do not cross a line, at the home slice. -/
def homeWriteN (s : State) (a n v : Nat) : State :=
  homeWrite s (lineOf a) (BitVec.ofNat 1024 (v % 2 ^ (8 * n) * 2 ^ (8 * (a % 128)))) (BitVec.ofNat 128 ((2 ^ n - 1) * 2 ^ (a % 128)))

/-- Whether a read of a line gives poisoned data: POISON, a fenced channel or an unreachable home (R339, R341, R354). -/
def linePoison (s : State) (ln : Nat) : Bool :=
  mdPoison (s.md ln) || if isRemote ln then !reachable s (homeOf s ln) else fenced s ln

/-- Whether a write to a line is lost because its home device has become unreachable; it completes in error (R354). -/
def lineLost (s : State) (ln : Nat) : Bool := isRemote ln && !reachable s (homeOf s ln)

/-! ### The L1 (R220, R221) -/

/-- The byte mask of n bytes at offset o of a line. -/
abbrev byteMask (o n : Nat) : BitVec 128 := BitVec.ofNat 128 ((2 ^ n - 1) * 2 ^ o)

/-- Widens a byte mask to bits. -/
def bitMask (m : BitVec 128) : BitVec 1024 :=
  BitVec.ofNat 1024 ((List.range 128).foldl (fun a i => if m.getLsbD i then a + 255 * 2 ^ (8 * i) else a) 0)

/-- Bytes of new where mask is set, of old elsewhere. -/
def mergeBytes (old new : BitVec 1024) (m : BitVec 128) : BitVec 1024 :=
  (old &&& ~~~ bitMask m) ||| (new &&& bitMask m)

/-- The byte mask of a word mask. -/
def wordBytes (m : BitVec 32) : BitVec 128 :=
  BitVec.ofNat 128 ((List.range 32).foldl (fun a i => if m.getLsbD i then a + 15 * 2 ^ (4 * i) else a) 0)

/-- An empty L1 line. -/
def L1Line.empty : L1Line := ⟨0, 0, 0, false⟩

/-- The L1 line of a core. -/
abbrev State.l1 (s : State) (c ln : Nat) : L1Line := (s.core c).l1.getD ln L1Line.empty

/-- The 128 bytes of a line as memory holds them. -/
def memLine (s : State) (ln : Nat) : BitVec 1024 := BitVec.ofNat 1024 (s.mem.readN (ln * 128) 128)

/-- Clocks that a request to a line spends held by refresh management (R337). -/
def rmHeld (s : State) (ln : Nat) : Nat :=
  if isRemote ln || (s.line ln).inL3 then 0 else s.hbm.bankHold.getD (placeOf s ln).gbank 0 - s.clock

/-- Counts a request of core c that its L1 could not serve: over Guyline, or a hit or miss in the L3, a request to a compressed page, held
clocks (R376). -/
def countRequest (s : State) (c ln : Nat) (s1 : State) : State :=
  if isRemote ln then s1.pmCount c none 0x16 1
  else
    let s2 := (s1.pmCount c none (if (s.line ln).inL3 then 7 else 8) 1).pmCount c none 0x12 (rmHeld s ln)
    if (region s (ln * 128 / 2 ^ 29)).getLsbD 62 then s2.pmCount c none 0x15 1 else s2

/-- Writes the dirty bytes of an L1 line to its home slice and keeps them valid, without registering. -/
def cleanLine (s : State) (c ln : Nat) : State :=
  let l := s.l1 c ln
  let s0 := homeWrite s ln l.data l.dirty
  let s1 := if pageHeld s0 ln && !pageHeld s ln then s0.pmCount c none 0x17 1 else s0
  s1.modCore c fun k => { k with l1 := k.l1.upd ln L1Line.empty fun l => { l with valid := l.valid ||| l.dirty, dirty := 0 } }

/-- Room for a record of core c among the two of a line: the core of the older one writes back what it holds dirty of the line, and its record
is dropped (R220 step 4). -/
def ownRoom (s : State) (c ln : Nat) : State :=
  match (s.line ln).own with
  | o :: p :: rest =>
    if (o :: p :: rest).any (fun r => r.core == c) then s
    else (cleanLine s o.core ln).modLine ln fun l => { l with own := l.own.drop 1 }
  | _ => s

/-- The clean bytes that core c holds of some words of a line become those of memory: a word that it registers is current (R220, R221). -/
def freshWords (s : State) (c ln : Nat) (m : BitVec 32) : State :=
  s.modCore c fun k => { k with l1 := k.l1.adj ln fun l =>
    { l with data := mergeBytes l.data (memLine s ln) (wordBytes m &&& ~~~ l.dirty) } }

/-- Registers words of a line to core c: they leave every other record and join, or make, its own (R220, steps 2 to 4). -/
def registerWords (s : State) (c ln : Nat) (m : BitVec 32) : State :=
  let s1 := ownRoom s c ln
  (freshWords s1 c ln m).modLine ln fun l =>
    let own := l.own.map fun r => if r.core = c then { r with mask := r.mask ||| m } else { r with mask := r.mask &&& ~~~ m }
    { l with own := if own.any fun r => r.core == c then own else own ++ [⟨c, m⟩] }

/-- Writes back the dirty words of one line of core c and registers them (R220): the record that must make room writes back before. -/
def writeBack (s : State) (c ln : Nat) : State :=
  let d := (s.l1 c ln).dirty
  if d = 0 then s else registerWords (cleanLine (ownRoom s c ln) c ln) c ln (wordMask d)

/-- Writes back and registers every dirty word of core c (R220). -/
def writeBackAll (s : State) (c : Nat) : State :=
  (s.core c).l1.keys.foldl (fun s ln => writeBack s c ln) s

/-- The L1 of core c makes room for a line: 128 KiB, 1024 lines; which line a full L1 evicts is private to it, and its dirty words are written back
(R2, R219, R220). -/
def l1Room (s : State) (c ln : Nat) : State :=
  let k := (s.core c).l1
  if k.length < 1024 || (k.get? ln).isSome then s
  else
    let d := s.drawFree
    let out := nth k.keys (d.1.toNat % k.length) 0
    (writeBack d.2 c out).modCore c fun k => { k with l1 := k.l1.del out }

/-- Brings a line into the L1 of core c: memory's bytes under the core's own dirty bytes (R220). -/
def l1Fill (s : State) (c ln : Nat) (nt : Bool) : State :=
  let s1 := homeRead s ln nt
  let s2 := l1Room (countRequest s c ln s1) c ln
  s2.modCore c fun k =>
    { k with l1 := k.l1.upd ln L1Line.empty fun l =>
        { l with data := mergeBytes (memLine s1 ln) l.data l.dirty, valid := BitVec.allOnes 128, poison := linePoison s1 ln } }

/-- Reads n bytes at address a through the L1 of core c: value, poison, state. A write-shared line of a recording or replaying
partition is read at its slice (R300); a miss with nt allocates no line, and brings a line that is there up to date (R404). -/
def l1Read (s : State) (c a n : Nat) (nt uncached : Bool) : Nat × Bool × State :=
  let ln := lineOf a
  let o := a % 128
  let l := s.l1 c ln
  if uncached then
    let s1 := homeRead s ln nt
    (s1.mem.readN a n, linePoison s1 ln, s1)
  else if byteMask o n &&& ~~~ (l.valid ||| l.dirty) = 0 then
    (l.data.toNat / 2 ^ (8 * o) % 2 ^ (8 * n), l.poison && (byteMask o n &&& ~~~ l.dirty != 0), s)
  else
    let s1 := l1Fill s c ln nt
    let l1 := s1.l1 c ln
    let s2 := if nt && l = L1Line.empty then s1.modCore c fun k => { k with l1 := k.l1.del ln } else s1
    (l1.data.toNat / 2 ^ (8 * o) % 2 ^ (8 * n), l1.poison && (byteMask o n &&& ~~~ l1.dirty != 0), s2)

/-- Writes the n low bytes of v at address a into the L1 of core c, dirty (R220). -/
def l1Write (s : State) (c a n v : Nat) : State :=
  let ln := lineOf a
  let o := a % 128
  (l1Room s c ln).modCore c fun k =>
    { k with l1 := k.l1.upd ln L1Line.empty fun l =>
        { l with
          data := mergeBytes l.data (BitVec.ofNat 1024 (v % 2 ^ (8 * n) * 2 ^ (8 * o))) (byteMask o n)
          dirty := l.dirty ||| byteMask o n } }

/-- The words of a line that core c owns (R220). -/
def ownedWords (s : State) (c ln : Nat) : BitVec 32 :=
  (s.line ln).own.foldl (fun m r => if r.core = c then m ||| r.mask else m) 0

/-- The bytes of a line in which two images agree. -/
def sameBytes (x y : BitVec 1024) : BitVec 128 :=
  BitVec.ofNat 128 ((List.range 128).foldl (fun a i => if (x ^^^ y).toNat / 2 ^ (8 * i) % 256 = 0 then a + 2 ^ i else a) 0)

/-- Self-invalidation: owned words and words with dirty bytes are kept, every other word is invalidated (R221); of a word with dirty bytes that
is not owned, a clean byte that is no longer current goes too (R225, log entry 43). -/
def selfInvalidate (s : State) (c : Nat) : State :=
  s.modCore c fun k =>
    { k with l1 := k.l1.mapVals fun ln l =>
        let stay := if l.dirty = 0 then 0 else wordBytes (wordMask l.dirty) &&& sameBytes l.data (memLine s ln)
        { l with valid := l.valid &&& (wordBytes (ownedWords s c ln) ||| stay) } }

/-! ### The buffer table (R281-R284) -/

/-- A buffer-table entry as read (R282). -/
structure BufEntry where
  valid : Bool
  base  : Nat
  len   : Nat
  owner : Nat
  icl   : Nat
  coh   : Nat
  twin  : Bool
  r     : Bool
  w     : Bool
  x     : Bool
  a     : Bool
  home  : Nat
  sgrp  : Nat
  deriving DecidableEq, Repr

/-- The entry read from its 32 bytes; any invalid entry reads as one of length 0 (R282, R283). -/
def parseEntry (e : BitVec 256) : BufEntry :=
  let d0 := bitsOf e.toNat 63 0
  let d1 := bitsOf e.toNat 127 64
  let d2 := bitsOf e.toNat 191 128
  let d3 := bitsOf e.toNat 255 192
  let icl := bitsOf d2 41 32
  let ok := d2.testBit 19 && bitsOf d0 63 57 == 0 && bitsOf d1 63 58 == 0 && bitsOf d2 47 42 == 0 && bitsOf d2 31 27 == 0 &&
    bitsOf d2 23 20 == 0 && bitsOf d2 14 9 == 0 && bitsOf d3 63 16 == 0 && bitsOf d0 6 0 == 0 &&
    decide (bitsOf d0 56 0 + bitsOf d1 57 0 ≤ 2 ^ 57) && bitsOf d2 26 25 != 3 && classValid (icl % 512)
  { valid := ok, base := bitsOf d0 56 0, len := if ok then bitsOf d1 57 0 else 0, owner := bitsOf d2 63 48, icl := icl,
    coh := bitsOf d2 26 25, twin := d2.testBit 24, r := d2.testBit 18, w := d2.testBit 17, x := d2.testBit 16,
    a := d2.testBit 15, home := bitsOf d2 8 0, sgrp := bitsOf d3 15 0 }

/-- An invalid entry (R283). -/
def BufEntry.bad : BufEntry := ⟨false, 0, 0, 0, 0, 0, false, false, false, false, false, 0, 0⟩

/-- Entry 1, the flat buffer (R283). -/
def flatEntry (s : State) (ctx : Nat) : BufEntry := ⟨true, 0, 2 ^ 57, ctx, 512, 0, false, true, true, true, true, s.fabric.device, 0⟩

/-- Whether a context runs in the twin of a pair (R320). -/
def inTwin (s : State) (ctx : Nat) : Bool :=
  match (s.part (fieldOf (s.vi ctx).cfg 2 0)).twin with
  | some (_, t) => t
  | none => false

/-- In a twin, every entry that does not have TWIN set has W and A cleared (R320). -/
def BufEntry.inTwin (e : BufEntry) (twin : Bool) : BufEntry := if twin && !e.twin then { e with w := false, a := false } else e

/-- Buffer-table entry i of a context, whose bytes are given (R281, R283, R320). -/
def tableEntry (s : State) (ctx i : Nat) (bits : BitVec 256) : BufEntry :=
  (if i = 1 then flatEntry s ctx
   else if i = 0 || 2 ^ min 20 (fieldOf (s.ctx ctx).bt 4 0) ≤ i then BufEntry.bad
   else parseEntry bits).inTwin (inTwin s ctx)

/-- The 32 bytes of buffer-table entry i of a context in memory (R281). -/
def entryBits (s : State) (ctx i : Nat) : BitVec 256 :=
  BitVec.ofNat 256 (s.mem.readN (fieldOf (s.ctx ctx).bt 51 12 * 4096 + 32 * i) 32)

/-- Buffer-table entry i of a context as core c has it: its cached copy, or the table's (R283, R284). -/
def bufEntry (s : State) (c ctx i : Nat) : BufEntry := tableEntry s ctx i ((s.core c).btc.getD (ctx * 2 ^ 20 + i) (entryBits s ctx i))

/-- Buffer-table entry i of a context as Trailhead and the mailbox unit read it. -/
def thEntry (s : State) (ctx i : Nat) : BufEntry := tableEntry s ctx i (entryBits s ctx i)

/-- Caches buffer-table entry i of a context in core c (R284). -/
def cacheEntry (s : State) (c ctx i : Nat) : State :=
  if i ≤ 1 then s else
  s.modCore c fun k =>
    match k.btc.get? (ctx * 2 ^ 20 + i) with
    | some _ => k
    | none => { k with btc := k.btc.set (ctx * 2 ^ 20 + i) (entryBits s ctx i) }

/-! ### Page walks (R285-R291, R326) -/

/-- Whether a leaf is malformed: reserved bits, alignment, class, physical address outside DRAM, CMP against the region (R286, R288, R326). -/
def leafBad (s : State) (e : DWord) (big : Bool) : Bool :=
  e.getLsbD 63 || e.getLsbD 61 || fieldOf e 15 8 != 0 || fieldOf e 5 3 != 0 || (big && fieldOf e 28 16 != 0) ||
    !classValid (fieldOf e 60 52) || fieldOf e 51 41 != 0 ||
    (let r := region s (fieldOf e 40 29); !r.getLsbD 63 || r.getLsbD 62 != e.getLsbD 62)

/-- Whether a non-leaf entry is malformed (R286, R288). -/
def nodeBad (e : DWord) : Bool := fieldOf e 63 52 != 0 || fieldOf e 15 2 != 0

/-- The index into a table of a level (R285). -/
def walkIdx (lvl va : Nat) : Nat :=
  match lvl with
  | 0 => bitsOf va 28 16
  | 1 => bitsOf va 41 29
  | 2 => bitsOf va 54 42
  | _ => bitsOf va 56 55

/-- One level of a walk and the levels below it (R285, R288). -/
def walkLevel (s : State) (va : Nat) : Nat → Nat → WalkRes
  | 0, _ => .bad 0x08 4 2
  | lvl + 1, table =>
    let e := BitVec.ofNat 64 (s.mem.readN (table + 8 * walkIdx lvl va) 8)
    if !e.getLsbD 0 then .bad 0x08 lvl 1
    else if e.getLsbD 1 then
      if 2 ≤ lvl || leafBad s e (lvl == 1) then .bad 0x08 4 2
      else if !e.getLsbD 2 then .bad 0x09 0 3
      else .ok e (lvl == 1)
    else if lvl = 0 || nodeBad e then .bad 0x08 4 2
    else walkLevel s va lvl (fieldOf e 51 16 * 65536)

/-- The walk of a virtual address for a context, up to and including residency (R288, outcomes 1 to 3). -/
def walk (s : State) (ctx va : Nat) : WalkRes := walkLevel s va 4 (fieldOf (s.ctx ctx).pt 51 6 * 64)

/-- The entries that a walk reads are read as an acquire at .system: at their home slices, copies outside gathered (R288). -/
def walkRead (va : Nat) : Nat → Nat → State → State
  | 0, _, s => s
  | lvl + 1, table, s =>
    let a := table + 8 * walkIdx lvl va
    let s1 := homeRead s (lineOf a) false
    let e := BitVec.ofNat 64 (s1.mem.readN a 8)
    if !e.getLsbD 0 || e.getLsbD 1 then s1 else walkRead va lvl (fieldOf e 51 16 * 65536) s1

/-- The reads of a walk of a virtual address for a context (R288). -/
def walkReads (ctx va : Nat) (s : State) : State := walkRead va 4 (fieldOf (s.ctx ctx).pt 51 6 * 64) s

/-- The physical address a leaf gives (R285, R286). -/
def leafPa (e : DWord) (big : Bool) (va : Nat) : Nat :=
  if big then fieldOf e 51 29 * 2 ^ 29 + va % 2 ^ 29 else fieldOf e 51 16 * 2 ^ 16 + va % 2 ^ 16

/-- The checks of an access against its leaf: write protection, execution, interleave (R287, R288 outcomes 4 and 5, R326):
cause, subcode and order, or none. -/
def leafCheck (s : State) (e : DWord) (icl : Nat) (write fetch : Bool) : Option (Nat × Nat × Nat) :=
  if write && e.getLsbD 6 then some (0x08, 5, 4)
  else if fetch && e.getLsbD 7 then some (0x08, 6, 4)
  else if (!icl.testBit 9 && icl % 512 != fieldOf e 60 52) || fieldOf (region s (fieldOf e 40 29)) 8 0 != fieldOf e 60 52 then
    some (0x11, 0, 5)
  else none

/-- The TLB entry of core c for an address (R290). -/
def tlbFind (s : State) (c ctx va : Nat) : Option TlbEntry :=
  (s.core c).tlb.find? fun t => t.ctx == ctx && t.page == (if t.big then va / 2 ^ 29 else va / 2 ^ 16)

/-- Adds a leaf to the TLB of core c, which holds 2048 entries (R290). -/
def tlbAdd (s : State) (c ctx va : Nat) (e : DWord) (big : Bool) : State :=
  s.modCore c fun k =>
    { k with tlb := (⟨ctx, if big then va / 2 ^ 29 else va / 2 ^ 16, big, e⟩ :: k.tlb).take 2048 }

/-- What translation gives at once: a physical address, a failure (cause, subcode, order), or a miss (R150, R288, R290). -/
inductive Trans where
  | ok (pa : Nat)
  | bad (cause sub order : Nat)
  | miss
  deriving DecidableEq, Repr

/-- The outcome of a walk or TLB entry for one access. -/
def finish (s : State) (w : WalkRes) (va icl : Nat) (write fetch : Bool) : Trans :=
  match w with
  | .bad c sb o => .bad c sb o
  | .ok e big =>
    match leafCheck s e icl write fetch with
    | some (c, sb, o) => .bad c sb o
    | none => .ok (leafPa e big va)

/-- Translates for a word of fibre fid: by the TLB, else by the results its walk left, else a miss. -/
def transWord (s : State) (fid ctx va icl : Nat) (write fetch : Bool) : Trans :=
  match tlbFind s (coreOf fid) ctx va with
  | some t => finish s (.ok t.leaf t.big) va icl write fetch
  | none =>
    match ((s.fib fid).map (·.walkRes)).getD [] |>.find? fun r => r.1 == va / 2 ^ 16 with
    | some (_, w) => finish s w va icl write fetch
    | none => .miss

/-- Translates by a walk made at once: engines, Trailhead, Lantern, the mailbox unit (R190, R241, R272, R356). -/
def transNow (s : State) (ctx va icl : Nat) (write : Bool) : Trans := finish s (walk s ctx va) va icl write false

/-- Translates an engine's or a prefetch's access of core c: by the core's TLB, else by a walk made at once (R158, R190, R290). -/
def transCore (s : State) (c ctx va icl : Nat) (write : Bool) : Trans :=
  match tlbFind s c ctx va with
  | some t => finish s (.ok t.leaf t.big) va icl write false
  | none => transNow s ctx va icl write

/-- The walk made at once where core c's TLB misses: its reads, and a leaf that serves the access enters the TLB (R288, R290, R376). -/
def fillTlb (s : State) (c ctx va icl : Nat) (write : Bool) : State :=
  if (tlbFind s c ctx va).isSome then s
  else
    let s1 := (walkReads ctx va s).pmCount c none 9 1
    match walk s1 ctx va with
    | .ok leaf big => if (leafCheck s1 leaf icl write false).isNone then tlbAdd s1 c ctx va leaf big else s1
    | .bad .. => s1

/-- Whether the tables below one table of a context map a physical address (R285, R286). -/
def mapsPa (s : State) (pa : Nat) : Nat → Nat → Bool
  | 0, _ => false
  | lvl + 1, table =>
    (List.range (if lvl = 3 then 4 else 8192)).any fun i =>
      let e := BitVec.ofNat 64 (s.mem.readN (table + 8 * i) 8)
      if !e.getLsbD 0 then false
      else if e.getLsbD 1 then
        decide (lvl ≤ 1) && (if lvl = 1 then fieldOf e 51 29 == pa / 2 ^ 29 else fieldOf e 51 16 == pa / 2 ^ 16)
      else lvl != 0 && mapsPa s pa lvl (fieldOf e 51 16 * 65536)

/-- The virtual address at which the tables below one table of a context map a 64 KiB page of main memory, if they do (R285, R286). -/
def vaOfPage (s : State) (page : Nat) : Nat → Nat → Nat → Option Nat
  | 0, _, _ => none
  | lvl + 1, table, va =>
    (List.range (if lvl = 3 then 4 else 8192)).findSome? fun i =>
      let e := BitVec.ofNat 64 (s.mem.readN (table + 8 * i) 8)
      let at_ := va + i * 2 ^ (16 + 13 * lvl)
      if !e.getLsbD 0 then none
      else if e.getLsbD 1 then
        if lvl = 0 && fieldOf e 51 16 == page then some at_
        else if lvl = 1 && fieldOf e 51 29 == page / 8192 then some (at_ + page % 8192 * 65536)
        else none
      else if lvl = 0 then none
      else vaOfPage s page lvl (fieldOf e 51 16 * 65536) at_

/-- The confidential context whose pages map a line (R292). -/
def confOf (s : State) (ln : Nat) : Option Nat :=
  s.ctxs.keys.find? fun c => s.conf c && mapsPa s (ln * 128) 4 (fieldOf (s.ctx c).pt 51 6 * 64)

/-- Writes bytes at a virtual address of a context as Trailhead does; none when translation fails. -/
def writeVirt (s : State) (ctx va : Nat) (l : List Byte) (captured : Bool) : Option State :=
  let s0 := walkReads ctx va s
  match transNow s0 ctx va 512 true with
  | .ok pa =>
    let ln := lineOf pa
    let mask := byteMask (pa % 128) l.length
    let t := homeTakes (fetchLine s0 ln false) ln
    some (if captured then homeWriteN s0 pa l.length (bytesNat l)
      else if fenced t ln then t
      else dropOwn (lineWrite t ln (BitVec.ofNat 1024 (bytesNat l * 2 ^ (8 * (pa % 128)))) mask) ln (wordMask mask))
  | _ => none

/-- The reads of n bytes at a virtual address of a context as Trailhead makes them, within one page: the walk, then the lines at their
home slices, as acquires (R241, R288). -/
def virtReads (s : State) (ctx va n : Nat) : State :=
  let s0 := walkReads ctx va s
  match transNow s0 ctx va 512 false with
  | .ok pa => (List.range ((pa % 128 + n + 127) / 128)).foldl (fun s i => homeRead s (lineOf pa + i) false) s0
  | _ => s0

/-- Reads n bytes at a virtual address of a context as Trailhead does, within one page. -/
def readVirt (s : State) (ctx va n : Nat) : Option (List Byte) :=
  match transNow s ctx va 512 false with
  | .ok pa => some (s.mem.readL pa n)
  | _ => none

end Sys2Proof.Machine
end

