-- ==== Sys2Proof/Machine/Record.lean ====
section
/-!
DEFINITION. Sys2Proof/Machine/Record.lean: epoch states of lines, log records, chunks and recorders, and the consumption of a
log in replay (R297-R316).
-/

namespace Sys2Proof.Machine

/-! ### Records (R305, R306) -/

/-- A log record: kind, fibre, RIC, the 62 kind-specific bits 77:16, bits 15:0. -/
def mkRec (kind fibre ric mid seq : Nat) : BitVec 128 :=
  BitVec.ofNat 128 (kind % 16 * 2 ^ 124 + fibre % 2 ^ 14 * 2 ^ 110 + ric % 2 ^ 32 * 2 ^ 78 + mid % 2 ^ 62 * 2 ^ 16 + seq % 2 ^ 16)

/-- KIND of a record. -/
abbrev recKind (r : BitVec 128) : Nat := fieldOf r 127 124
/-- FIBRE of a record. -/
abbrev recFibre (r : BitVec 128) : Nat := fieldOf r 123 110
/-- RIC of a record. -/
abbrev recRic (r : BitVec 128) : Nat := fieldOf r 109 78

/-- The CRC of a store item: polynomial 0x1021, initial value 0xFFFF, over the bytes in address order (R303). -/
def crcBit (c : Nat) : Nat := if c.testBit 15 then Nat.xor (c * 2 % 2 ^ 16) 0x1021 else c * 2 % 2 ^ 16

/-- One byte of the CRC (R303). -/
def crcByte (c b : Nat) : Nat :=
  let x := Nat.xor c (b * 256)
  crcBit (crcBit (crcBit (crcBit (crcBit (crcBit (crcBit (crcBit x)))))))

/-- The CRC of an item of 8 address bytes and 8 data bytes (R303). -/
def itemCrc (addr data : Nat) : BitVec 16 :=
  BitVec.ofNat 16 ((natBytes 8 addr ++ natBytes 8 data).foldl (fun c b => crcByte c b.toNat) 0xFFFF)

/-- Adds a store item of the word at a RIC to the chunk of a fibre, in the recording and replay modes (R303). -/
def addItemAt (s : State) (fid ric addr data : Nat) : State :=
  if s.recording (s.partOf fid) || s.replaying (s.partOf fid) then
    s.modFib fid fun f => { f with chItems := (ric, itemCrc addr data) :: f.chItems }
  else s

/-- Adds a store item of the word that a fibre issues (R303). -/
def addItem (s : State) (fid addr data : Nat) : State := addItemAt s fid (((s.fib fid).map (·.ric.toNat)).getD 0) addr data

/-- The items of a store or atomic of size bytes: one for each 8-byte half (R303). -/
def addItemsAt (s : State) (fid ric addr size data : Nat) : State :=
  if size = 16 then addItemAt (addItemAt s fid ric addr (data % 2 ^ 64)) fid ric (addr + 8) (data / 2 ^ 64 % 2 ^ 64)
  else addItemAt s fid ric addr (data % 2 ^ (8 * size))

/-- The items of a store that a fibre issues (R303). -/
def addItems (s : State) (fid addr size data : Nat) : State :=
  addItemsAt s fid (((s.fib fid).map (·.ric.toNat)).getD 0) addr size data

/-! ### Recorders and pages (R304, R307-R310) -/

/-- The recorder of a fibre: its recording block (R304). -/
abbrev recorderOf (fid : Nat) : Nat := blockOf (coreOf fid)

/-- Recorder k of a partition. -/
def recorder (s : State) (p k : Nat) : Recorder := (s.part p).recs.getD k Recorder.init

/-- Changes recorder k of a partition. -/
def modRecorder (s : State) (p k : Nat) (g : Recorder → Recorder) : State :=
  s.modPart p fun t => { t with recs := t.recs.upd k Recorder.init g }

/-- Stores a record in the page buffers of a recorder, unless its log has ended (R304, R310). -/
def emit (s : State) (p k : Nat) (r : BitVec 128) : State :=
  if (recorder s p k).ended then s else
  modRecorder (if recFibre r < 9216 then s.pmCount (coreOf (recFibre r)) none 0x13 1 else s) p k fun x => { x with recs := x.recs ++ [(r, s.mgmt.gts)] }

/-- Both page buffers of a recorder are full (R304). -/
def recorderFull (s : State) (p k : Nat) : Bool := 504 ≤ (recorder s p k).recs.length

/-- Ring pages of a partition (R310). -/
def ringPages (s : State) (p : Nat) : Nat := fieldOf (s.part p).rrNow.2 47 40 * 2 ^ 18

/-- The address of ring page k (R310). -/
def pageAddr (s : State) (p k : Nat) : Nat :=
  fieldOf (s.part p).rrNow.1 51 30 * 2 ^ 30 + 4096 * (k % (ringPages s p))

/-- The 64-byte header of a log page (R307). -/
def pageHeader (s : State) (p k type n : Nat) (last first : Bool) (gts : DWord) : List Byte :=
  let t := s.part p
  natBytes 8 (0xCA1E * 2 ^ 48 + type * 2 ^ 40 + t.mode % 8 * 2 ^ 37 + k % 32 * 2 ^ 32 + n * 2 ^ 16 +
    (if last then 8 else 0) + (if t.xdev then 4 else 0) + (if t.anclost then 2 else 0) + (if first then 1 else 0)) ++
  natBytes 8 (t.rrTail % 2 ^ 32 * 2 ^ 32 + t.cairn % 2 ^ 32) ++ natBytes 8 gts.toNat ++
  natBytes 8 s.fabric.device ++ natBytes 32 0

/-- A replaying fibre has diverged; the freeze follows when the step settles (R316). -/
def diverge (s : State) (fid sub got exp : Nat) : State :=
  s.modFib fid fun f => { f with diverged := f.diverged.orElse fun _ => some (sub, got, exp) }

/-- The records of a fibre's log that are still to be met: those that lanes of a partly stepped bundle have met stay in the log until its
last lane has issued (R319). -/
def Fibre.due (f : Fibre) : List (BitVec 128) :=
  if f.stepSeen.isEmpty then f.log else f.log.filter fun r => !f.stepSeen.any fun x => x.1 == r

/-- Takes a record off a replaying fibre's log. -/
def popLog (s : State) (fid : Nat) (r : BitVec 128) : State := s.modFib fid fun f => { f with log := f.log.erase r }

/-- The next record of a fibre's log. -/
def logHead (s : State) (fid : Nat) : Option (BitVec 128) := (s.fib fid).bind fun f => f.due.head?

/-- The next record of a fibre's log that is not the CHUNK record of a chunk ending at its present RIC. -/
def logNext (s : State) (fid : Nat) : Option (BitVec 128) :=
  (s.fib fid).bind fun f =>
    match f.due with
    | r :: rest => if recKind r = 1 && recRic r = f.ric.toNat then rest.head? else some r
    | [] => none

/-- Whether a record at a RIC belongs to a bundle of which lanes are still to step (R319). -/
def partStep (f : Fibre) (ric : Nat) : Bool := f.stepRest != 0 && (ric == f.ric.toNat || ric + 1 == f.ric.toNat)

/-- A fibre meets the next record of its log: it is consumed, or kept for the lanes of its bundle that are still to step (R319). -/
def meetRec (s : State) (fid : Nat) (r : BitVec 128) (ln seq : Nat) : State :=
  s.modFib fid fun f => if partStep f (recRic r) then { f with stepSeen := f.stepSeen ++ [(r, ln, seq)] } else { f with log := f.log.erase r }

/-- Whether an armed breakpoint names the chunk of a fibre that ends at its present RIC (R318). -/
def breaksAt (s : State) (p fid : Nat) (f : Fibre) : Bool :=
  (s.part p).rrbp.toList.any fun b =>
    b.getLsbD 63 && fieldOf b 45 32 == fid && fieldOf b 62 55 == f.wraps && fieldOf b 31 0 == f.ric.toNat

/-- How many words RIC a is past RIC b; negative before it. -/
abbrev ricPast (a : Nat) (b : BitVec 32) : Int := (BitVec.ofNat 32 a - b).toInt

/-- Whether RIC a comes before RIC b, wraps among them (R34). -/
abbrev ricLt (a b : Nat) : Bool := decide (0 < ricPast b (BitVec.ofNat 32 a))

/-- The store hash of the words of a fibre's chunk before RIC r (R303). -/
def chunkHash (f : Fibre) (r : Nat) : BitVec 16 :=
  f.chItems.foldl (fun h x => if ricPast x.1 f.chFrom < ricPast r f.chFrom then h + x.2 else h) 0

/-- The chunk of a fibre ends at RIC r: the words from r on belong to its next chunk. -/
def cutChunk (f : Fibre) (r : Nat) : Fibre :=
  { f with chFrom := BitVec.ofNat 32 r, chItems := f.chItems.filter fun x => decide (ricPast r f.chFrom ≤ ricPast x.1 f.chFrom) }

/-- Whether an operation is a memory access of its fibre: buffer, uniform, scratchpad, atomic (R157, R169). -/
def OpKind.isMem : OpKind → Bool
  | .load .. => true
  | .uload .. => true
  | .lds .. => true
  | .store .. => true
  | .sts .. => true
  | .atom .. => true
  | .aacc .. => true
  | _ => false

/-- Whether an operation is an atomic, whose store item is known once it is performed (R303). -/
def OpKind.isAtom : OpKind → Bool
  | .atom .. => true
  | _ => false

/-- Whether an atomic of a fibre is in flight: the items of its chunk are not known yet. -/
def atomPending (s : State) (fid : Nat) : Bool := s.ops.any fun o => o.fibre == fid && o.kind.isAtom

/-- In the recording and replay modes a fibre with an atomic in flight issues nothing and takes no fault, so that the items of a chunk are
known when it ends (R302, R303). -/
def atomHolds (s : State) (fid : Nat) : Bool := (s.recording (s.partOf fid) || s.replaying (s.partOf fid)) && atomPending s fid

/-- In replay: the chunk ends where the log says so, at the fibre's present RIC, once every item is known, and its hash is compared
(R314, R316). -/
def replayChunk (s : State) (fid : Nat) : State :=
  match s.fib fid with
  | none => s
  | some f =>
    match f.due with
    | r :: _ =>
      if recKind r = 1 && recRic r = f.ric.toNat && !atomPending s fid then
        let h := chunkHash f f.ric.toNat
        let bp := breaksAt s (s.partOf fid) fid f
        let s1 := (popLog s fid r).modFib fid fun f => { cutChunk f f.ric.toNat with bpHit := bp }
        if fieldOf r 15 0 = h.toNat then s1 else diverge s1 fid 0 h.toNat (fieldOf r 15 0)
      else s
    | [] => s

/-- Ends the chunk of a fibre at its present RIC: in a recording mode writes its CHUNK record (a chunk without words gets one only for
REASON 2 and 3); in replay the log says where chunks end (R302, R314). -/
def chunkEnd (s : State) (fid reason freed : Nat) : State :=
  match s.fib fid with
  | none => s
  | some f =>
    let p := s.partOf fid
    let r := f.ric.toNat
    if s.recording p then
      let d := ricPast r f.chFrom
      if d ≤ 0 ∧ reason < 2 then s else
      let x := mkRec 1 fid r (d.toNat % 2 ^ 16 * 2 ^ 46 + reason * 2 ^ 44 + freed % 2 ^ 32 * 2 ^ 12) (chunkHash f r).toNat
      (emit s p (recorderOf fid) x).modFib fid fun f => cutChunk f r
    else if s.replaying p then replayChunk s fid
    else s

/-- Writes a record of a fibre in a recording mode: its chunk ends first. While an atomic of the fibre is in flight the items of that chunk are
not known, so the record waits for it with the fibre (R302, R303; log entry 107). -/
def noteRec (s : State) (p fid : Nat) (r : BitVec 128) : State :=
  if atomPending s fid then s.modFib fid fun f => { f with log := f.log ++ [r] }
  else emit (chunkEnd s fid 0 0) p (recorderOf fid) r

/-- The records that waited for a fibre's atomic are written after the CHUNK record of the chunk with its items. -/
def noteLate (s : State) (fid : Nat) : State :=
  match s.fib fid with
  | none => s
  | some f =>
    let p := s.partOf fid
    if f.log.isEmpty || !s.recording p then s
    else f.log.foldl (fun s r => emit s p (recorderOf fid) r) ((chunkEnd s fid 0 0).modFib fid fun x => { x with log := [] })

/-- Ends the log of every recorder of a partition: the running chunks end, then an END record (R302, R310). -/
def endLogs (s : State) (p reason : Nat) : State :=
  (List.range 25).foldl (fun s k =>
    if (s.part p).recs.get? k = none then s else
    let s1 := emit s p k (mkRec 0xC 0x3FFF 0 (reason * 2 ^ 58) 0)
    modRecorder s1 p k fun x => { x with ended := true })
    (((s.fibresOf p).foldl (fun s f => chunkEnd s f 3 0) s).modPart p fun t => { t with ended := true })

/-- ANCLOST is set: the grids of the epoch report it, and a new Cairn is due at the next kernel boundary (R310). -/
def markLost (s : State) (p : Nat) : State :=
  let s1 := s.modPart p fun t => { t with anclost := true, cairnDue := true }
  { s1 with grids := s1.grids.mapVals fun _ g => if g.part = p then { g with anclost := true } else g }

/-- The Cairn is lost: ANCLOST, and END records of REASON 2 in every log that has not ended (R300, R310). -/
def cairnLost (s : State) (p : Nat) : State := endLogs (markLost s p) p 2

/-- Whether a partition is the primary of a twin pair (R320). -/
def twinPrimary (s : State) (p : Nat) : Bool :=
  match (s.part p).twin with
  | some (_, t) => !t
  | none => false

/-- Writes one page of 4096 bytes, its unused space filled with padding, at TAIL and advances TAIL; when it overwrites the Cairn's pages the
Cairn is lost (in a twin pair ANCLOST alone is set), and a page that the twin has not consumed stalls the recorder (R304, R307, R310). None
when stalled, as while EN is 0 (R309). -/
def appendPage (s : State) (p : Nat) (bytes : List Byte) : Option State :=
  let t := s.part p
  let full := ringPages s p ≤ t.rrTail - t.rrCairn
  if !t.rrctl.getLsbD 0 || (full && twinPrimary s p && decide (t.twpg + ringPages s p ≤ t.rrTail)) then none else
  let page := bytes ++ List.replicate (4096 - bytes.length) 0
  let s1 := { s with mem := s.mem.writeL (pageAddr s p t.rrTail) page }.modPart p fun t => { t with rrTail := t.rrTail + 1 }
  some (if full then (if twinPrimary s p then markLost s1 p else cairnLost s1 p) else s1)

/-- Appends the oldest page of a recorder: up to 252 records (R304, R307). -/
def appendRecords (s : State) (p k : Nat) : State :=
  let x := recorder s p k
  let now := x.recs.take 252
  if now.isEmpty then s else
  let last := now.any fun r => recKind r.1 == 0xC
  let hdr := pageHeader s p k 0 now.length last x.first ((now.headD (0, 0)).2)
  let body := now.flatMap fun r => natBytes 16 r.1.toNat
  match appendPage s p (hdr ++ body) with
  | some s1 => modRecorder s1 p k fun y => { y with recs := y.recs.drop 252, first := false }
  | none => s

/-- Appends the launch copies gathered by Trailhead as a page of TYPE 1 (R307, R308); the page with Trailhead's ANCHOR record, its first after
the Cairn, goes before them (R311 step 4; log entry 42). -/
def appendLaunches (s : State) (p : Nat) : State :=
  if (s.part p).lpages.isEmpty then s else
  let s := if (recorder s p 24).first then appendRecords s p 24 else s
  let t := s.part p
  let now := t.lpages.take 12
  match appendPage s p (pageHeader s p 24 1 now.length false (t.lfirst && (recorder s p 24).first) s.mgmt.gts ++ now.flatten) with
  | some s1 => s1.modPart p fun t => { t with lpages := t.lpages.drop 12, lfirst := false }
  | none => s

/-- Appends every partial page, as at a Cairn and at the end of recording (R304). -/
def flushRecorders (s : State) (p : Nat) : State :=
  (List.range 25).foldl (fun s k => (List.range ((recorder s p k).recs.length / 252 + 1)).foldl (fun s _ => appendRecords s p k) s)
    ((List.range 4).foldl (fun s _ => appendLaunches s p) s)

/-- A step leaves some recorder of a partition with more records than its page buffers hold and than it had before: its word, or the access
that completes, waits for a buffer (R304). What one engine operation alone produces may exceed both: it waits until a buffer is free. -/
def overRecorded (old s : State) (p : Nat) : Bool :=
  s.recording p && (s.part p).recs.any fun e =>
    let n := (recorder old p e.1).recs.length
    decide (504 < e.2.recs.length ∧ n < e.2.recs.length ∧ 252 ≤ n)

/-- An access of a partition completes only where its records can be stored (R304). -/
def ifRecorded (old : State) (p : Nat) (s : State) : State := if overRecorded old s p then old else s

/-! ### Producing and consuming records (R297, R302, R314, R316) -/

/-- The SUB of a divergence at an event: 2 where a page of the fibre's recorder, or one that tells no recorder, was unreadable (R316). -/
def lostSub (s : State) (fid : Nat) : Nat :=
  if ((s.part (s.partOf fid)).replay.map fun y => y.bad.contains (recorderOf fid) || y.bad.contains 25).getD false then 2 else 1

/-- The fibre meets something other than its next record (R316). -/
def mismatch (s : State) (fid : Nat) : State := diverge s fid (lostSub s fid) 0 0

/-- A record of a fibre that is not a CHUNK: in a recording mode its chunk ends and the record is written; in a replay mode it is checked
against the next logged record of the fibre, which it consumes (R302, R314, R316); a lane stepped alone need not be its bundle's lowest, LEADER
(R319), and uniform writes are ordered by the log, not by their count. Of a record of a line, ln and at_ are the line and the
full sequence number. -/
def produce (s : State) (fid kind ric mid seq : Nat) (ln : Nat := 0) (at_ : Nat := 0) : State :=
  let p := s.partOf fid
  if s.recording p then noteRec s p fid (mkRec kind fid ric mid seq)
  else if s.replaying p then
    let s1 := chunkEnd s fid 0 0
    let part := ((s1.fib fid).map fun f => partStep f (ric % 2 ^ 32)).getD false
    let same := fun (r : BitVec 128) =>
      recKind r = kind && recRic r = ric % 2 ^ 32 && (kind = 5 || fieldOf r 15 0 = seq % 2 ^ 16) &&
        (kind = 7 || fieldOf r 77 16 = mid % 2 ^ 62 ||
          (part && kind = 5 && fieldOf r 77 71 = mid / 2 ^ 55 % 2 ^ 7 && fieldOf r 65 16 = mid % 2 ^ 50))
    if ((s1.fib fid).map fun f => f.stepSeen.any fun x => same x.1).getD false then s1
    else
      match logNext s1 fid with
      | some r => if same r then meetRec s1 fid r ln at_ else mismatch s1 fid
      | none =>
        if ((s.fib fid).map fun f => f.log.isEmpty).getD true && (s.part p).replay = none then s1 else mismatch s1 fid
  else s

/-- A logged read (VALUE, R306): in a recording mode the present value is logged; in replay the logged value is returned (R314). One whose
logged value cannot be reproduced diverges, and its word has no effect (R233). -/
def valueRead (s : State) (fid src idx : Nat) (now : DWord) : DWord × State :=
  match s.fib fid with
  | none => (now, s)
  | some f =>
    let p := s.partOf fid
    if s.recording p then
      (now, produce s fid 8 f.ric.toNat (src * 2 ^ 58 + idx % 1024 * 2 ^ 48 + now.toNat / 2 ^ 16) (now.toNat % 2 ^ 16))
    else if s.replaying p then
      let s1 := chunkEnd s fid 0 0
      let same := fun (r : BitVec 128) => recKind r = 8 && recRic r = f.ric.toNat && fieldOf r 77 74 = src
      let value := fun (r : BitVec 128) => BitVec.ofNat 64 (fieldOf r 63 0)
      match f.stepSeen.find? fun x => same x.1 with
      | some x => (value x.1, s1)
      | none =>
        match logHead s1 fid with
        | some r => if same r then (value r, meetRec s1 fid r 0 0) else (now, mismatch s1 fid)
        | none => (now, mismatch s1 fid)
    else (now, s)

/-- A uniform write: done, and logged as UWRITE when the fibre is diverged (R30, R306). reg 64 names FPSTAT. -/
def logUwrite (s : State) (fid reg leader ric : Nat) (div : Bool) (val : DWord) : State :=
  if !div || !(s.recording (s.partOf fid) || s.replaying (s.partOf fid)) then s else
  let n := ((s.fib fid).map (·.uwrites)).getD 0
  (produce s fid 5 ric (reg * 2 ^ 55 + leader * 2 ^ 50 + val.toNat % 2 ^ 32 * 2 ^ 18) n).modFib fid fun f => { f with uwrites := n + 1 }

/-- Writes uniform register sd of a fibre, logging it when the writing word was issued diverged (R30). -/
def putS (s : State) (fid sd leader ric : Nat) (div : Bool) (val : DWord) : State :=
  if sd = 0 then s else
  (logUwrite s fid sd leader ric div val).modFib fid fun f => f.writeS sd val

/-! ### Epoch states of lines (R299-R301) -/

/-- What an access to a line gives: its next state and, when it is to be logged, its sequence number, OP code and the first
fibre whose core drops the line. Kind 0 reads, 1 writes, 2 is an atomic (R299, R300, R306). -/
def epNext (e : EpLine) (dev f kind : Nat) : EpLine × Option (Nat × Nat × Option Nat) :=
  match e.st with
  | .untouched => ({ e with st := .priv dev f (kind != 0), first := some f }, none)
  | .priv d0 f0 w =>
    if d0 = dev && f0 = f then ({ e with st := .priv dev f (w || kind != 0) }, none)
    else if !w && kind = 0 then ({ e with st := .readShared }, none)
    else if !w then ({ e with st := .writeShared, seq := 1 }, some (0, kind, none))
    else ({ e with st := .writeShared, seq := 1 }, some (0, kind + 4, some f0))
  | .readShared =>
    if kind = 0 then (e, none) else ({ e with st := .writeShared, seq := 1 }, some (0, kind, none))
  | .writeShared => ({ e with seq := e.seq + 1 }, some (e.seq, kind, none))

/-- Whether accesses of a partition to a line are performed at its home slice (R300). -/
def slicePerformed (s : State) (p ln : Nat) : Bool :=
  (s.recording p || s.replaying p) && decide ((s.line ln).ep.st = .writeShared)

/-- The drop point of a fibre: its RIC now, or the last one it had (R300, R301). -/
def dropRic (s : State) (f : Nat) : Nat :=
  match s.fib f with
  | some x => x.ric.toNat
  | none => (s.part (s.partOfCore (coreOf f))).lastRic.getD f 0

/-- A line that enters write-shared in a recording or replay mode is held in no L1: every copy writes back its dirty words and is
dropped (R300). -/
def clearCopies (s : State) (ln : Nat) : State :=
  (s.cores.keys.filter fun c => ((s.core c).l1.get? ln).isSome).foldl (fun s c =>
    (writeBack s c ln).modCore c fun k => { k with l1 := k.l1.del ln }) s

/-- The accessor that stands for a fibre of another device (R299). -/
abbrev farFibre (dev fibre : Nat) : Nat := 65536 * (dev + 1) + fibre % 65536

/-- The first fibre's core writes back and drops a line, and its recorder logs the drop, but in ordered with record (R297, R300); a device
whose fibre it is is told to. -/
def dropLine (s : State) (ln vline f : Nat) : State :=
  if 65536 ≤ f then s.tellTo 1 ln [f / 65536 - 1] else
  let c := coreOf f
  let s1 := (writeBack s c ln).modCore c fun k => { k with l1 := k.l1.del ln }
  let p := s.partOfCore c
  if s.recording p && (s.part p).mode < 4 then
    noteRec s1 p f
      (mkRec 2 f (dropRic s f) (vline % 2 ^ 50 * 2 ^ 12 + homeOf s ln * 2 ^ 3 + 3) 0)
  else s1

/-- The ORDER or SCRATCH records of a logged access: OP 7 first when the sequence number passes 16 bits (R300, R306). -/
def orderRecs (s : State) (fid kind ric mid op seq : Nat) (opShift ln : Nat) : State :=
  let s1 := if 2 ^ 16 ≤ seq then produce s fid kind ric (mid + 7 * 2 ^ opShift) (seq / 2 ^ 16) else s
  produce s1 fid kind ric (mid + op * 2 ^ opShift) (seq % 2 ^ 16) ln seq

/-- In replay: the ORDER or SCRATCH record that names an access of fibre fid at a RIC to a line, if the log holds one: its OP and
full sequence number (R300, R314). -/
def logged (s : State) (fid kind ric key : Nat) : Option (Nat × Nat) :=
  match s.fib fid with
  | none => none
  | some f =>
    let same := fun (r : BitVec 128) => recKind r == kind && recRic r == ric % 2 ^ 32 &&
      (if kind = 2 then fieldOf r 77 28 == key else fieldOf r 77 66 == key)
    let op := fun (r : BitVec 128) => if kind = 2 then fieldOf r 18 16 else fieldOf r 65 63
    match f.log.filter same with
    | r :: rest => if op r = 7 then (rest.head?).map fun q => (op q, fieldOf r 15 0 * 2 ^ 16 + fieldOf q 15 0)
                   else some (op r, fieldOf r 15 0)
    | [] => none

/-- Whether, in replay, an unlogged read by a fibre is one that the recorded run performed before any write reached the line: another fibre
is the line's first, or the line is write-shared already (R315). -/
def unseen (e : EpLine) (fid : Nat) : Bool :=
  e.st == .writeShared || match e.first with
    | some g => g != fid
    | none => false

/-- The epoch state after an access that the log names with sequence number seq (R314); while lanes of its bundle are still to step the number
stays the line's next (R319). -/
def epLogged (e : EpLine) (seq : Nat) (part : Bool) : EpLine := { e with st := .writeShared, seq := if part then seq else seq + 1 }

/-- Whether lanes of the bundle of an access at a RIC are still to step (R319). -/
def partAt (s : State) (fid ric : Nat) : Bool := ((s.fib fid).map fun f => partStep f ric).getD false

/-- One request of a fibre's word to a line of memory: the epoch state advances; in the recording and replay modes a line that enters
write-shared leaves every L1, and an access to a write-shared line is logged, with the first fibre's drop, but in ordered with record
(R297); exhausted sequence numbers lose the Cairn (R299, R300). -/
def lineAccess (s : State) (fid ric ln va kind : Nat) : State :=
  let p := s.partOf fid
  let vl := fun (l : LineInfo) => if l.ep.st = .untouched then va / 128 else l.ep.vline
  let on := s.recording p || s.replaying p
  if s.replaying p && (logged s fid 2 ric (va / 128)).isNone && kind == 0 && unseen (s.line ln).ep fid then s else
  match if s.replaying p then logged s fid 2 ric (va / 128) else none with
  | some (op, seq) =>
    let s1 := if (s.line ln).ep.st = .writeShared then s else clearCopies s ln
    orderRecs ((s1.modLine ln fun l => { l with ep := { epLogged l.ep seq (partAt s fid ric) with vline := vl l } }).pmCount (coreOf fid) none 0x0A 1)
      fid 2 ric (va / 128 % 2 ^ 50 * 2 ^ 12 + homeOf s ln * 2 ^ 3) op seq 0 ln
  | none =>
  let r := epNext (s.line ln).ep s.fabric.device fid kind
  let s1 := s.modLine ln fun l =>
    { l with ep := { r.1 with vline := vl l } }
  match r.2 with
  | none => s1
  | some (seq, op, drop) =>
    if !on then s1 else
    let s2 := match drop with
      | some f => if s.recording p then dropLine s1 ln (va / 128) f else s1
      | none => s1
    let s3 := (if (s.line ln).ep.st = .writeShared then s2 else clearCopies s2 ln).pmCount (coreOf fid) none 0x0A 1
    if 4 ≤ (s.part p).mode then s3
    else
      let s4 := if isRemote ln && s.recording p then s3.modPart p fun t => { t with xdev := true } else s3
      if 2 ^ 32 ≤ seq then cairnLost s4 p
      else orderRecs s4 fid 2 ric (va / 128 % 2 ^ 50 * 2 ^ 12 + homeOf s ln * 2 ^ 3) op seq 0 ln

/-- One request of a fibre's word to a scratchpad line of its core (R301). -/
def scratchAccess (s : State) (fid ric ln kind : Nat) : State :=
  let c := coreOf fid
  let p := s.partOf fid
  let e := (s.core c).sep.getD ln EpLine.init
  if s.replaying p && (logged s fid 4 ric ln).isNone && kind == 0 && unseen e fid then s else
  match if s.replaying p then logged s fid 4 ric ln else none with
  | some (op, seq) =>
    orderRecs (s.modCore c fun k => { k with sep := k.sep.set ln (epLogged e seq (partAt s fid ric)) }) fid 4 ric (ln * 2 ^ 50) op seq 47 ln
  | none =>
  let r := epNext e s.fabric.device fid kind
  let s1 := s.modCore c fun k => { k with sep := k.sep.set ln r.1 }
  match r.2 with
  | none => s1
  | some (seq, op, drop) =>
    if !(s.recording p || s.replaying p) then s1 else
    let s2 := match drop with
      | some f =>
        if s.recording p then noteRec s1 p f (mkRec 4 f (dropRic s f) (ln * 2 ^ 50 + 3 * 2 ^ 47) 0)
        else s1
      | none => s1
    if 2 ^ 32 ≤ seq then cairnLost s2 p else orderRecs s2 fid 4 ric (ln * 2 ^ 50) op seq 47 ln

/-- The last lane of a stepped bundle has issued and its accesses are done: the records its lanes met are consumed, and their lines pass on to
the next sequence number (R319). -/
def stepMet (s : State) (fid : Nat) : State :=
  match s.fib fid with
  | none => s
  | some f =>
    if f.stepSeen.isEmpty || f.stepRest != 0 || (s.ops.any fun o => o.fibre == fid && f.stepSeen.any fun x => recRic x.1 == o.ric.toNat) then s
    else
      let pass := fun (s : State) (x : BitVec 128 × Nat × Nat) =>
        if recKind x.1 = 2 && fieldOf x.1 18 16 != 7 then
          s.modLine x.2.1 fun l => { l with ep := { l.ep with seq := max l.ep.seq (x.2.2 + 1) } }
        else if recKind x.1 = 4 && fieldOf x.1 65 63 != 7 then
          s.modCore (coreOf fid) fun k => { k with sep := k.sep.adj x.2.1 fun e => { e with seq := max e.seq (x.2.2 + 1) } }
        else s
      (f.stepSeen.foldl pass s).modFib fid fun x =>
        { x with log := f.stepSeen.foldl (fun l y => l.erase y.1) x.log, stepSeen := [] }

/-- The ASYNC record of WHAT 1 that a replaying fibre's log holds at its present RIC: cause and subcode (R314). -/
def asyncDue (s : State) (fid : Nat) : Option (Nat × Nat) :=
  match s.fib fid with
  | none => none
  | some f =>
    match logNext s fid with
    | some r =>
      if s.replaying (s.partOf fid) && recKind r = 7 && recRic r = f.ric.toNat && fieldOf r 65 62 = 1 then
        some (fieldOf r 77 70, fieldOf r 69 66)
      else none
    | none => none

/-- Whether an access with OP and sequence number of a logged record has its turn at a line in state e (R314). -/
def turnNow (e : EpLine) (op seq : Nat) : Bool :=
  if 4 ≤ op then e.drop else if seq = 0 then decide (e.st ≠ .writeShared) else decide (e.st = .writeShared ∧ e.seq = seq)

/-- Whether an earlier lane of a stepped bundle has met the record of an access (R319). -/
def seenAt (s : State) (fid kind ric key : Nat) : Bool :=
  ((s.fib fid).map fun f => f.stepSeen.any fun x => recKind x.1 == kind && recRic x.1 == ric % 2 ^ 32 &&
    (if kind = 2 then fieldOf x.1 77 28 == key else fieldOf x.1 77 66 == key)).getD false

/-- In replay: whether an access may be performed now. A logged access waits until its record is the fibre's next, until every
lower sequence number of its line has been performed and, with OP 4 to 6, until the first fibre's drop (R314). -/
def replayTurn (s : State) (fid ric ln va : Nat) : Bool :=
  if !s.replaying (s.partOf fid) then true else
  match logged s fid 2 ric (va / 128) with
  | none => true
  | some (op, seq) =>
    seenAt s fid 2 ric (va / 128) || ((logNext s fid).map fun r => recKind r == 2 && recRic r == ric % 2 ^ 32 && fieldOf r 77 28 == va / 128).getD false &&
      turnNow (s.line ln).ep op seq

/-- As replayTurn, for a scratchpad line (R314). -/
def replayScratch (s : State) (fid ric ln : Nat) : Bool :=
  if !s.replaying (s.partOf fid) then true else
  match logged s fid 4 ric ln with
  | none => true
  | some (op, seq) =>
    seenAt s fid 4 ric ln || ((logNext s fid).map fun r => recKind r == 4 && recRic r == ric % 2 ^ 32 && fieldOf r 77 66 == ln).getD false &&
      turnNow ((s.core (coreOf fid)).sep.getD ln EpLine.init) op seq

/-- Whether a record is that of a drop (R306). -/
def isDrop (r : BitVec 128) : Bool := (recKind r == 2 && fieldOf r 18 16 == 3) || (recKind r == 4 && fieldOf r 65 63 == 3)

/-- The lines an operation touches, as a record of a kind names them: virtual lines, or lines of the scratchpad. -/
def OpKind.keys (kind : Nat) : OpKind → List Nat
  | .load accs _ _ _ _ _ => if kind = 2 then accs.map (·.va / 128) else []
  | .uload a _ _ _ => if kind = 2 then [a.va / 128] else []
  | .store accs _ _ => if kind = 2 then accs.map (·.va / 128) else []
  | .atom _ _ accs _ _ _ => if kind = 2 then accs.map (·.va / 128) else []
  | .aacc _ accs _ => if kind = 2 then accs.map (·.va / 128) else []
  | .lds accs _ _ => if kind = 2 then [] else accs.map (·.pa / 128)
  | .sts accs => if kind = 2 then [] else accs.map (·.pa / 128)
  | _ => []

/-- Whether a log holds an ORDER or SCRATCH record of the word at a RIC. -/
def orders (f : Fibre) (ric : Nat) : Bool := f.log.any fun r => (recKind r == 2 || recKind r == 4) && recRic r == ric && !isDrop r

/-- Whether an access before the drop that a record names is still in flight: one of its fibre's words before the drop's RIC to its line, or an
engine operation, which the log does not name as following the drop (R300). -/
def memBefore (s : State) (fid : Nat) (f : Fibre) (r : BitVec 128) : Bool :=
  let key := if recKind r = 2 then fieldOf r 77 28 else fieldOf r 77 66
  s.ops.any fun o => o.fibre == fid && ricLt o.ric.toNat (recRic r) &&
    match o.kind with
    | .engine _ => !orders f o.ric.toNat
    | k => (k.keys (recKind r)).contains key && (logged s fid (recKind r) o.ric.toNat key).isNone

/-- Performs the drop that a record names: the core of its fibre writes back and drops the line, and the access that follows the drop may go
on (R300, R314). -/
def dropNow (s : State) (fid : Nat) (r : BitVec 128) : State :=
  let c := coreOf fid
  if recKind r = 2 then
    match s.lines.find? fun e => decide (e.2.ep.first = some fid ∧ e.2.ep.vline = fieldOf r 77 28) with
    | some (ln, _) =>
      ((writeBack s c ln).modCore c fun k => { k with l1 := k.l1.del ln }).modLine ln fun l => { l with ep := { l.ep with drop := true } }
    | none => s
  else s.modCore c fun k => { k with sep := k.sep.upd (fieldOf r 77 66) EpLine.init fun e => { e with drop := true } }

/-- In replay: performs the drops of a fibre whose next records are drops at or before its present RIC, once its accesses before them have
been performed (R314). -/
def replayDrops (s : State) (fid : Nat) : Nat → State
  | 0 => s
  | n + 1 =>
    match s.fib fid with
    | none => s
    | some f =>
      match logNext s fid with
      | some r =>
        if !s.replaying (s.partOf fid) || !isDrop r || ricLt f.ric.toNat (recRic r) || memBefore s fid f r then s
        else replayDrops (popLog (dropNow s fid r) fid r) fid n
      | none => s

/-- In replay: performs the drops that come next in the log of a fibre that has been released: every word of it precedes them. -/
def looseDrops (s : State) (p fid : Nat) : Nat → State
  | 0 => s
  | n + 1 =>
    match s.fib fid, (s.part p).replay.bind fun y => (y.logs.getD fid []).head? with
    | none, some r =>
      if !isDrop r then s
      else looseDrops ((dropNow s fid r).modPart p fun t => { t with replay := t.replay.map fun y => { y with logs := y.logs.adj fid (·.drop 1) } }) p fid n
    | _, _ => s

end Sys2Proof.Machine
end

