-- ==== Sys2Proof/Machine/Ops.lean ====
section
/-!
DEFINITION. Sys2Proof/Machine/Ops.lean: the shared operations of the meanings: fault records and their queues, taking a fault
and returning from one, stalls, slot switching, counting a word and moving its lanes (R17-R21, R34, R39-R43, R71, R74, R76,
R248-R252, R264-R274).
-/

namespace Sys2Proof.Machine

/-! ### Fault records (R269-R272, R294, R295) -/

/-- What a fault or event reports (R269); ricAt replaces the fibre's present RIC where an earlier word is the origin. -/
structure Flt where
  cause  : Nat
  sub    : Nat := 0
  kind   : Nat := 0
  fibre  : Nat := 0x3FFF
  part   : Nat := 0
  clause : DWord := 0
  word   : Nat := 0
  rclause : DWord := 0
  rword  : Nat := 0
  ric    : Word := 0
  ricAt  : Option Word := none
  lanes  : LaneMask := 0
  addr   : Nat := 0
  held   : Nat := 0
  info   : Nat := 0
  breg   : Nat := 0
  bidx   : Nat := 0
  hgot   : Nat := 0
  hexp   : Nat := 0
  ctx    : Nat := 0
  deriving DecidableEq, Repr

/-- The 64 bytes of a fault record, SEQ left zero (R269). -/
def faultBits (s : State) (f : Flt) (time : DWord) : BitVec 512 :=
  let d0 := (if s.conf f.ctx then 2 ^ 35 else 0) + f.part % 8 * 2 ^ 32 + f.fibre % 2 ^ 14 * 2 ^ 17 + f.sub % 16 * 2 ^ 12 +
    f.kind % 16 * 2 ^ 8 + f.cause % 256
  let d2 := f.clause.toNat / 64 * 64 + f.word % 16 * 4
  let d3 := f.rclause.toNat / 64 * 64 + f.rword % 16 * 4
  let d4 := f.ric.toNat * 2 ^ 32 + f.lanes.toNat
  let d6 := f.held % 256 * 2 ^ 56 + f.info % 2 ^ 32 * 2 ^ 24 + f.breg % 16 * 2 ^ 20 + f.bidx % 2 ^ 20
  let d7 := f.hgot % 2 ^ 16 * 2 ^ 32 + f.hexp % 2 ^ 16 * 2 ^ 16 + f.ctx % 2 ^ 16
  BitVec.ofNat 512 (d0 + time.toNat * 2 ^ 64 + d2 * 2 ^ 128 + d3 * 2 ^ 192 + d4 * 2 ^ 256 + f.addr % 2 ^ 64 * 2 ^ 320 +
    d6 * 2 ^ 384 + d7 * 2 ^ 448)

/-- Writes a summary entry to the administrator's ring, or counts it lost (R294, R295). -/
def postSummary (s : State) (bits : BitVec 512) : State :=
  let m := s.mgmt.summary
  let log := fieldOf m.cfg 11 8
  if m.cfg.getLsbD 0 && decide ((m.tail - m.head).toNat < 2 ^ log) then
    let hi := fieldOf bits 7 0 * 2 ^ 56 + fieldOf bits 11 8 * 2 ^ 52 + fieldOf bits 34 32 * 2 ^ 49 + fieldOf bits 30 17 * 2 ^ 35
    let a := fieldOf m.cfg 63 12 * 4096 + 16 * (m.tail.toNat % 2 ^ log)
    signal ({ s with hostMem := s.hostMem.writeL a (natBytes 8 (fieldOf bits 127 64) ++ natBytes 8 hi) }.modMgmt fun g =>
      { g with summary := { g.summary with tail := g.summary.tail + 1 } }) 0 m.irq
  else s.modMgmt fun g => { g with summary := { g.summary with lost := g.summary.lost + 1 } }

/-- Posts the oldest held record of an interface's fault queue when it can be posted (R272). -/
def postOne (s : State) (v : Nat) : Option State :=
  let q := s.vi v
  let log := fieldOf q.fqcfg 11 8
  match q.fqHeld with
  | [] => none
  | h :: rest =>
    if !q.fqcfg.getLsbD 0 || decide (2 ^ log ≤ (q.fqTail - q.fqHead).toNat) then none else
    let bits := h.bits.toNat + q.fqTail.toNat * 2 ^ 48
    match writeVirt s v (fieldOf q.fqcfg 63 12 * 4096 + 64 * (q.fqTail.toNat % 2 ^ log)) (natBytes 64 bits) false with
    | some s1 => some (signal (s1.modVi v fun q => { q with fqHeld := rest, fqTail := q.fqTail + 1 }) (v + 1) q.fqirq)
    | none => none

/-- Posts held records in order while it can (R272). -/
def postHeld (s : State) (v : Nat) : Nat → State
  | 0 => s
  | n + 1 => match postOne s v with
    | some s1 => postHeld s1 v n
    | none => s

/-- Hands a record to an interface's fault queue: posted, held, or, for an ENGINE or SYSTEM record beyond 256 held, dropped and
counted in LOST (R272). A confidential context's record is summarised for the administrator (R294). -/
def postRecord (s : State) (v : Nat) (bits : BitVec 512) (soft : Bool) : State :=
  let s0 := if bits.getLsbD 35 then postSummary s bits else s
  let q := s0.vi v
  if soft && decide (256 ≤ (q.fqHeld.filter (·.soft)).length) then s0.modVi v fun q => { q with fqLost := q.fqLost + 1 }
  else
    let s1 := s0.modVi v fun q => { q with fqHeld := q.fqHeld ++ [⟨bits, soft⟩] }
    postHeld s1 v (s1.vi v).fqHeld.length

/-- The queue of a record that names no fibre: that of SYSVI, or of a confidential context whose memory ADDR lies in (R271). -/
def sysQueue (s : State) (p : Nat) (addrCtx : Option Nat) : Nat :=
  match addrCtx with
  | some c => if s.conf c then c else fieldOf (s.part p).cfg 15 10
  | none => fieldOf (s.part p).cfg 15 10

/-- Posts a SYSTEM record of a partition (R265, R271); one that names a fibre goes to that fibre's interface while its partition
is in a slice. -/
def postSystem (s : State) (p : Nat) (f : Flt) (addrCtx : Option Nat) : State :=
  let f := { f with kind := 3, part := p }
  let v := if f.fibre ≠ 0x3FFF && ((s.part p).slices.isEmpty || (s.part p).runVi.isSome) then s.viOf f.fibre else sysQueue s p addrCtx
  postRecord s v (faultBits s f s.mgmt.gts) true

/-! ### Slots (R18, R19, R249-R251) -/

/-- Whether fibre g may be selected: in the admitted set, or the set has room (R251). -/
def admissible (s : State) (g : Nat) : Bool :=
  let k := s.core (coreOf g)
  k.admitted.contains g || decide (k.admitted.length < k.agl)

/-- The fibres of a slot. -/
def slotFibres (s : State) (n : Nat) : List Nat := s.fibres.keys.filter fun f => slotOf f == n

/-- Whether a fibre is Ready and not halted (R20). -/
def isReady (s : State) (f : Nat) : Bool :=
  match s.fib f with
  | some x => decide (x.sched = .ready) && !x.halted
  | none => false

/-- Another fibre of the slot is Ready and admitted (R249). -/
def otherReady (s : State) (f : Nat) : Bool :=
  (slotFibres s (slotOf f)).any fun g => g != f && isReady s g && admissible s g

/-- A fibre leaves the admitted set (R251). -/
def leaveSet (s : State) (f : Nat) : State :=
  s.modCore (coreOf f) fun k => { k with admitted := k.admitted.filter (· != f) }

/-- Whether a slot holds a shared window, so that its switches are logged (R25). -/
def slotShared (s : State) (n : Nat) : Bool := (slotFibres s n).any fun f => ((s.fib f).map (·.shared)).getD 0 != 0

/-- The slot of a fibre hands itself over after this clock; clock + 1 is the hand-over clock (R249). -/
def handOver (s : State) (f why : Nat) : State :=
  let n := slotOf f
  if (s.slot n).cur = some f then
    let ric := ((s.fib f).map (·.ric.toNat)).getD 0
    let s1 := s.modSlot n fun sl => { sl with cur := none, runFrom := s.clock + 2, out := some (f, ric, why) }
    s1.pmCount (coreOf f) (some (n % 4)) 0x11 1
  else s

/-- In replay, whether the log lets the slot of a fibre switch at this point (R314): only where a SWITCH record stands. -/
def maySwitch (s : State) (f : Nat) : Bool :=
  if s.replaying (s.partOf f) && slotShared s (slotOf f) then
    match s.fib f with
    | some x => match x.due.filter (fun r => recKind r != 1) with
      | r :: _ => recKind r == 3 && recRic r == x.ric.toNat
      | [] => true
    | none => true
  else true

/-- The fibre at a stall or full hold becomes Waiting and its slot switches (R19, R249). -/
def goWaiting (s : State) (f why : Nat) : State :=
  if maySwitch s f then
    handOver (leaveSet (s.modFib f fun x => { x with sched := .waiting, waitFrom := s.clock }) f) f why
  else s

/-- The word just issued reached a yield point (R19): what follows is decided at the end of the clock (R249, yieldNow). -/
def yieldPoint (s : State) (f : Nat) : State := s.modFib f fun x => { x with yielded := true }

/-- A fibre enters Ready, unless Frozen (R20, R249). -/
def goReady (s : State) (f : Nat) : State :=
  s.modFib f fun x => if x.sched = .frozen then x else { x with sched := .ready, readyAt := s.clock, wait := none, drowsy := false }

/-! ### Taking a fault and returning from one (R76, R267, R272, R274) -/

/-- Where a fibre is stopped. -/
structure StopAt where
  clause : DWord
  word   : Nat
  resume : Nat
  after  : Nat
  lanes  : LaneMask
  sync   : Bool

/-- The TIME of a fault record just formed for a fibre: logged as VALUE of SRC 4 in the recording modes, the logged one in replay (R272). A
breakpoint, a divergence or a step that replay adds has no record in its log (R316, R318, R319). -/
def recordTime (s : State) (fid : Nat) (f : Flt) : DWord × State :=
  let logged := match logHead s fid, s.fib fid with
    | some r, some x => recKind r == 8 && recRic r == x.ric.toNat && fieldOf r 77 74 == 4
    | _, _ => false
  let added := f.kind = 4 ∨ f.cause = 0x0F ∨ (f.cause = 0x0E ∧ f.sub = 2)
  if s.replaying (s.partOf fid) && !logged && decide added then (s.mgmt.gts, s) else valueRead s fid 4 0 s.mgmt.gts

/-- TAKING A FAULT: freezes fibre fid (R267, R268). It issues nothing more and holds no slot; its lanes keep their resume points
(R76); the chunk ends and an ASYNC record is logged where R297 says so (what: its WHAT); the record is formed now and posted once
the fibre's loads and stores in flight have completed (R267 steps 1 to 3). A stepped fibre's step is over. -/
def freeze (s : State) (fid : Nat) (f : Flt) (at_ : StopAt) (what : Option Nat) : State :=
  match s.fib fid with
  | none => s
  | some x =>
    let s1 := if what.isSome && s.recording (s.partOf fid) then chunkEnd s fid 3 0 else s
    let s2 := match what with
      | some w => produce s1 fid 7 x.ric.toNat (f.cause * 2 ^ 54 + f.sub * 2 ^ 50 + w * 2 ^ 46) 0
      | none => if s1.recording (s1.partOf fid) then chunkEnd s1 fid 3 0 else s1
    let t := recordTime s2 fid f
    let s3 := t.2
    let flt := { f with fibre := fid, part := s.partOf fid, ric := f.ricAt.getD x.ric, ctx := s.viOf fid }
    let bits := faultBits s3 flt t.1
    let s4 := s3.modFib fid fun y =>
      { y with
        sched := .frozen, halted := false, wait := none, run := none, intr := false, yielded := false, wdDue := false, step := none, walkReq := [], walkRes := []
        frozen := some ⟨at_.clause, at_.word, at_.resume, at_.after, at_.lanes, f.cause, at_.sync⟩
        postDue := some bits }
    { handOver (leaveSet s4 fid) fid 4 with issue := none }

/-- The word after the faulting word, 16 standing for the next clause (R274). -/
def afterWord (hdr : Word) (w : Nat) : Nat := if fieldOf hdr 23 20 ≤ w then 16 else w + 1

/-- A word of the issuing bundle raises a SYNC fault: no effect, no count in RIC, the lanes of the bundle resume at the word, or
at its prefix (R76, R83, R150, R266); SKIP continues at word after. -/
def raiseAt (s : State) (c : Issue) (f : Flt) (after : Nat) : State :=
  let s1 := s.modFib c.fibre fun x => x.onLanes c.lanes fun l => { l with pc := c.clause, word := c.first }
  let what := if f.cause = 0x08 || f.cause = 0x09 then some 1 else none
  freeze s1 c.fibre
    { f with kind := 0, clause := c.clause, word := c.word, rclause := c.clause, rword := c.first }
    ⟨c.clause, c.word, c.first, after, c.lanes, true⟩ what

/-- As raiseAt, with SKIP at the word after the faulting word (R274). -/
def raise (s : State) (c : Issue) (f : Flt) : State := raiseAt s c f (afterWord c.hdr c.word)

/-- Raises a cause that names the lanes of the bundle (R269). -/
def raiseCause (s : State) (c : Issue) (cause : Nat) : State := raise s c { cause := cause, lanes := c.lanes }

/-- Raises an illegal-instruction fault (R83). -/
def illegal (s : State) (c : Issue) : State := raiseCause s c 0x01

/-- An ASYNC fault of a fibre, taken at a clause boundary or its held word (R265, R267). -/
def asyncFault (s : State) (fid cause sub : Nat) (what : Option Nat) (hgot hexp : Nat) : State :=
  match s.fib fid with
  | none => s
  | some x =>
    let l := x.lane (lowLane x.liveMask)
    let at_ : DWord × Nat := match x.run with
      | some r => (r.addr, r.word)
      | none => (l.pc, l.word)
    freeze s fid
      { cause := cause, sub := sub, kind := 1, clause := at_.1, word := at_.2, rclause := at_.1, rword := at_.2,
        lanes := x.liveMask, hgot := hgot, hexp := hexp }
      ⟨at_.1, at_.2, at_.2, at_.2, x.liveMask, false⟩ what

/-- RETURNING FROM A FAULT: the fibre becomes Ready at its resume point, Halted over Ready while its partition is halted (R274). -/
def resume (s : State) (fid : Nat) : State :=
  let h := (s.part (s.partOf fid)).halted
  s.modFib fid fun x =>
    { x with sched := .ready, readyAt := s.clock, frozen := none, halted := h, wait := none, drowsy := false }

/-- SKIP: the lanes of the faulting bundle continue at the word after the faulting word, or at the next clause (R274). -/
def skipWord (s : State) (fid : Nat) (z : Frozen) : State :=
  s.modFib fid fun x => x.onLanes z.lanes fun l =>
    if z.after = 16 then { l with pc := z.clause + 64, word := 1, stamp := s.clock } else { l with pc := z.clause, word := z.after }

/-! ### Stalls (R19, R72, R74, R88) -/

/-- The word being issued stalls: the fibre waits for w; with S of the clause or SW of a W prefix the slot switches (R19, R249). -/
def stall (s : State) (c : Issue) (w : Wait) : State :=
  let s1 := s.modFib c.fibre fun x =>
    { x with wait := some w, run := x.run.map fun r => { r with word := c.first } }
  let s2 := { s1 with issue := none }
  if c.sw && ((s.fib c.fibre).bind (·.step)).isNone then goWaiting s2 c.fibre 0 else s2

/-! ### Counting a word (R34, R302, R375) -/

/-- The fibre's RIC passes from 0xFFFF_FFFF to 0: the wrap is counted and, in the recording modes, logged (R34, R306). -/
def ricWrap (s : State) (fid : Nat) : State :=
  let n := ((s.fib fid).map (·.wraps)).getD 0 + 1
  (produce s fid 0xB 0xFFFFFFFF (n * 2 ^ 30) 0).modFib fid fun f => { f with ric := 0, wraps := n }

/-- The chunk limit CHMAX of a partition, in words (R309). -/
def chMax (s : State) (p : Nat) : Nat := fieldOf (s.part p).rrctl 31 16

/-- A chunk that has issued CHMAX words ends (R302). -/
def chunkLimit (s : State) (fid : Nat) : State :=
  match s.fib fid with
  | some f => if s.recording (s.partOf fid) && decide ((chMax s (s.partOf fid) : Int) ≤ ricPast f.ric.toNat f.chFrom) then chunkEnd s fid 1 0 else s
  | none => s

/-- Counts an issued word in RIC and in its chunk (R34, R302). -/
def countWord (s : State) (fid : Nat) : State :=
  match s.fib fid with
  | none => s
  | some f =>
    let s1 := if f.ric = BitVec.allOnes 32 then ricWrap s fid else s.modFib fid fun f => { f with ric := f.ric + 1 }
    chunkLimit s1 fid

/-- The RIC of a fibre has passed that of a logged record, and nothing that the word at that RIC left in flight can still produce it
(R302, R316). -/
def recPassed (s : State) (fid : Nat) (f : Fibre) (r : BitVec 128) : Bool :=
  let open_ := (s.ops.any fun o => o.fibre == fid && o.ric.toNat == recRic r) || (List.finRange 32).any fun l =>
    match (f.lane l).hold with
    | .sync w => w.ric.toNat == recRic r
    | _ => false
  ricLt (recRic r) f.ric.toNat && (recKind r ∈ [1, 3, 6, 8] || !open_) && !isDrop r

/-- In replay, after a word: the drops due at the new RIC, then the chunk that the log ends there (R314). -/
def replayAfter (s : State) (fid : Nat) : State :=
  if !s.replaying (s.partOf fid) then s else
  let s1 := replayDrops s fid 64
  match logHead s1 fid, s1.fib fid with
  | some r, some f =>
    if recKind r = 1 && recRic r = f.ric.toNat && fieldOf r 61 60 != 2 then replayDrops (chunkEnd s1 fid 0 0) fid 64
    else if recPassed s1 fid f r then mismatch s1 fid
    else s1
  | _, _ => s1

/-- The word has issued: it counts in RIC, in the event counters and as the slot's issue of this clock (R18, R34, R376). -/
def countIssue (s : State) (c : Issue) : State :=
  let k := coreOf c.fibre
  let sl := slotOf c.fibre % 4
  let n := laneCount c.lanes
  let rest := ((s.fib c.fibre).map (·.stepRest)).getD 0
  let s1 := if rest == 0 then replayAfter (countWord s c.fibre) c.fibre else countWord s c.fibre
  let s2 := ((s1.pmCount k (some sl) 0x02 1).pmCount k (some sl) 0x03 (if n < 32 then 1 else 0)).pmCount k (some sl) 0x04 n
  { s2 with issued := slotOf c.fibre :: s2.issued, issue := none }

/-- The end of a bundle's clause execution: stamps of the lanes that are live and not held, and Y's yield point (R19, R248). A
stepped fibre only stops. -/
def endRun (s : State) (c : Issue) : State :=
  let s1 := s.modFib c.fibre fun x =>
    { x.onLanes c.lanes (fun l => if l.live && l.hold = .none then { l with stamp := s.clock } else l) with
      run := none }
  if c.hdr.getLsbD 25 && ((s.fib c.fibre).bind (·.step)).isNone then yieldPoint s1 c.fibre else s1

/-- A word has issued for a single step: the lanes stop at the next word, which later issues afresh (R276). -/
def stepDone (s : State) (c : Issue) : State :=
  s.modFib c.fibre fun x => { x with step := x.step.map fun t => { t with issued := true } }

/-- Moves the bundle to the word after the one issued; after the last counted word, to the next clause (R71). -/
def advance (s : State) (c : Issue) : State :=
  if fieldOf c.hdr 23 20 ≤ c.word then
    endRun (s.modFib c.fibre fun x => x.onLanes c.lanes fun l => { l with pc := c.clause + 64, word := 1, hold := .none }) c
  else
    let s1 := s.modFib c.fibre fun x =>
      { x.onLanes c.lanes (fun l => { l with pc := c.clause, word := c.word + 1, hold := .none }) with
        run := x.run.map fun r => { r with word := c.word + 1, lanes := c.lanes, waited := true } }
    if ((s.fib c.fibre).bind (·.step)).isSome then s1.modFib c.fibre fun x => { x with run := none } else s1

/-- The word completes its issue: counted, and its bundle moved on. -/
def retire (s : State) (c : Issue) : State := stepDone (advance (countIssue s c) c) c

/-- Sends every lane of a mask to the first word of its own clause (R75). -/
def sendTo (m : LaneMask) (target : Fin 32 → DWord) (x : Fibre) : Fibre :=
  { x with lanes := Vector.ofFn fun l => if inMask m l then { x.lane l with pc := target l, word := 1, hold := .none } else x.lane l }

/-- A control transfer completes its issue: every lane of the bundle goes to its own clause (R75, R114). -/
def retireTo (s : State) (c : Issue) (target : Fin 32 → DWord) : State :=
  stepDone (endRun ((countIssue s c).modFib c.fibre (sendTo c.lanes target)) c) c

/-- Holds lanes at the word being issued: they leave the clause's execution there (R141, R161, R174). The word has not issued. -/
def holdLanes (s : State) (c : Issue) (h : Hold) : State :=
  let s1 := s.modFib c.fibre fun x =>
    { x.onLanes c.lanes (fun l => { l with pc := c.clause, word := c.first, hold := h }) with run := none }
  { s1 with issue := none }

/-- A synchronisation word has issued and holds its lanes until its phase ends (R174): counted at its issue (log entry 6). -/
def holdSync (s : State) (c : Issue) (h : SyncHold) : State :=
  let s1 := countIssue s c
  let s2 := s1.modFib c.fibre fun x =>
    { x.onLanes c.lanes (fun l => { l with pc := c.clause, word := c.word, hold := .sync h }) with run := none }
  stepDone (if c.hdr.getLsbD 25 && decide (fieldOf c.hdr 23 20 ≤ c.word) && ((s.fib c.fibre).bind (·.step)).isNone
    then yieldPoint s2 c.fibre else s2) c

/-- Lanes freed from a held synchronisation word move past it; their stamps are kept (R71, R248). -/
def passWord (x : Fibre) (m : LaneMask) (last : Bool) : Fibre :=
  x.onLanes m fun l =>
    if last then { l with pc := l.pc + 64, word := 1, hold := .none } else { l with word := l.word + 1, hold := .none }

/-! ### Issuing -/

/-- What a word uses: vector registers it reads, vector registers it only writes, uniform registers, how many registers its fourth
operand names (0 when it takes none), its role. -/
structure Uses where
  v    : List Nat := []
  d    : List Nat := []
  s    : List Nat := []
  vc   : Nat := 0
  role : Option Role := none

/-- The value of guard(l) over all lanes (R86). -/
def guardMask (f : Fibre) (px : Option XPre) : LaneMask :=
  match px with
  | none => BitVec.allOnes 32
  | some x => if x.gn then ~~~ f.readP x.gp.toNat else f.readP x.gp.toNat

/-- The lanes of the bundle whose guard is true (R86). -/
def Issue.active (c : Issue) (f : Fibre) : LaneMask := c.lanes &&& guardMask f c.px

/-- The lanes of the bundle that the zero policy writes (R86). -/
def Issue.zeroed (c : Issue) (f : Fibre) : LaneMask :=
  match c.px with
  | some x => if x.z then c.lanes &&& ~~~ guardMask f c.px else 0
  | none => 0

/-- The fourth operand's register (R84). -/
def Issue.vc (c : Issue) : Nat := (c.px.map (·.vc.toNat)).getD 0

/-- Whether a word's fourth operand is missing or misaligned for its width (R85, R23, R152). -/
def Issue.badVc (c : Issue) (u : Uses) : Bool := u.vc != 0 && (c.px.isNone || c.vc % u.vc != 0)

/-- Every vector register a word reads, its fourth operand among them. -/
def Issue.reads (c : Issue) (u : Uses) : List Nat := u.v ++ regRange c.vc u.vc

/-- Every vector register a word uses. -/
def Issue.vregs (c : Issue) (u : Uses) : List Nat := c.reads u ++ u.d

/-- Window faults (only when some lane's guard is true, R23), then the stall on pending registers, then k: a register read (vs) may be
pending for any fibre, one only written (ds) is waited for only where this fibre's own operation will write it (R25, R74). -/
def regGate (s : State) (c : Issue) (f : Fibre) (vs ds ss : List Nat) (k : State) : State :=
  if c.active f != 0 && (vs ++ ds).any (fun r => !f.hasReg r) then raiseCause s c 0x0B
  else if vs.any (fun r => f.hasReg r && s.vPending c.fibre r) || ds.any (fun r => f.hasReg r && s.vOwn c.fibre r) ||
      ss.any (s.sPending c.fibre) then
    stall s c (.regs (vs.filter fun r => f.hasReg r) (ds.filter fun r => f.hasReg r) ss)
  else k

/-- The common checks of a word in the order of R266: the illegal-instruction check for a missing fourth operand, the role, the
windows, then the stall on pending registers; then the word itself. -/
def gate (s : State) (u : Uses) (k : Issue → Fibre → State) : Host.Outcome State Fault Refusal :=
  match s.issue with
  | none => .fault .noIssue
  | some c =>
    match s.fib c.fibre with
    | none => .fault .noIssue
    | some f =>
      if c.badVc u then .next (illegal s c)
      else if u.role.isSome && u.role != some f.role then .next (raiseCause s c 0x10)
      else .next (regGate s c f (c.reads u) u.d u.s (k c f))

/-- An event of the device always gives a next state. -/
abbrev event (s : State) : Host.Outcome State Fault Refusal := .next s

end Sys2Proof.Machine
end

