-- ==== Sys2Proof/Machine/Operands.lean ====
section
/-!
DEFINITION. Sys2Proof/Machine/Operands.lean: operands after lane modifiers, guarded writes and shape tags, and which fields of
an X prefix a word permits (R27-R29, R84-R87, R100).
-/

namespace Sys2Proof.Machine

/-! ### Reading (R87) -/

/-- The lane a lane modifier reads (R84, R87). -/
def modLane (k : LKind) (n : Nat) (l : Fin 32) : Fin 32 :=
  match k with
  | .none => l
  | .bcast => Fin.ofNat 32 n
  | .rot => Fin.ofNat 32 (l.val + n)
  | .xor => Fin.ofNat 32 (Nat.xor l.val n)

/-- The lane that operand va (isB false) or vb (isB true) is read from in lane l; none when the modifier names a lane outside the
bundle, which gives zero (R87). -/
def Issue.src (c : Issue) (isB : Bool) (l : Fin 32) : Option (Fin 32) :=
  match c.px with
  | none => some l
  | some x =>
    if x.lk = .none ∨ x.ls ≠ isB then some l
    else
      let j := modLane x.lk x.k.toNat l
      if inMask c.lanes j then some j else none

/-- A 32-bit operand of lane l. -/
def Issue.rd (c : Issue) (s : State) (isB : Bool) (r : BitVec 7) (l : Fin 32) : Word :=
  match c.src isB l with
  | some j => readLane s c.fibre r.toNat j
  | none => 0

/-- The 64-bit value of the pair of register r in lane l (R23). -/
def readPair (s : State) (fid r : Nat) (l : Fin 32) : DWord := readLane s fid (r + 1) l ++ readLane s fid r l

/-- A 64-bit operand of lane l: both registers from the same lane (R87). -/
def Issue.rdP (c : Issue) (s : State) (isB : Bool) (r : BitVec 7) (l : Fin 32) : DWord :=
  match c.src isB l with
  | some j => readPair s c.fibre r.toNat j
  | none => 0

/-- The fourth operand of lane l (R84): no lane modifier applies to it. -/
def Issue.rdC (c : Issue) (s : State) (l : Fin 32) : Word := readLane s c.fibre c.vc l

/-- The fourth operand of lane l as a pair. -/
def Issue.rdC64 (c : Issue) (s : State) (l : Fin 32) : DWord := readPair s c.fibre c.vc l

/-- A predicate operand as a mask, after a lane modifier (R87, R107). -/
def Issue.rdPred (c : Issue) (f : Fibre) (isB : Bool) (p : Nat) : LaneMask :=
  maskOf fun l => match c.src isB l with
    | some j => inMask (f.readP p) j
    | none => false

/-- A uniform operand. -/
abbrev rdS (f : Fibre) (n : BitVec 6) : DWord := f.readS n.toNat

/-! ### Writing (R28, R86) -/

/-- A full write: no guard, no lane modifier, every live lane in the bundle (R28). -/
def Issue.full (c : Issue) (f : Fibre) : Bool :=
  (match c.px with
   | none => true
   | some x => x.gp == 7 && !x.gn && x.lk == .none) && f.liveMask &&& ~~~ c.lanes == 0

/-- Writes val to register r in the active lanes and zero where the zero policy writes; a partial write gives tag G (R28, R86). A write
that gives U or A stores one value, or a base and a stride: every lane reads it, those that exited or never were launched too (R27). -/
def Issue.wr (c : Issue) (s : State) (f : Fibre) (r : Nat) (tag : Tag) (val : Fin 32 → Word) : State :=
  let act := c.active f
  let zer := c.zeroed f
  if act ||| zer = 0 then s else
  let old := readReg s c.fibre r
  let t := if c.full f then tag else .g
  writeReg s c.fibre r
    ⟨Vector.ofFn fun l => if inMask act l || t != .g then val l else if inMask zer l then 0 else old.vals[l], t⟩

/-- Writes a pair (R23, R28). -/
def Issue.wrP (c : Issue) (s : State) (f : Fibre) (r : Nat) (tag : Tag) (val : Fin 32 → DWord) : State :=
  c.wr (c.wr s f r tag fun l => (val l).setWidth 32) f (r + 1) tag fun l => ((val l) >>> 32).setWidth 32

/-- Writes predicate p: val in the active lanes, false where the zero policy writes (R29, R86). -/
def Issue.wrPred (c : Issue) (s : State) (f : Fibre) (p : Nat) (val : LaneMask) : State :=
  s.modFib c.fibre fun x => x.writeP p (c.active f ||| c.zeroed f) (val &&& c.active f)

/-- Writes uniform register sd at issue, logging it when the fibre is diverged (R30). -/
def Issue.wrS (c : Issue) (s : State) (f : Fibre) (sd : Nat) (val : DWord) : State :=
  putS s c.fibre sd (lowLane c.lanes).val f.ric.toNat c.div val

/-! ### Shape tags (R28) -/

/-- The tag of register r. -/
abbrev tagOf (s : State) (fid r : Nat) : Tag := (readReg s fid r).tag

/-- Rule 5 alone: U of U sources, else G. -/
def tagU (x y : Tag) : Tag := if x = .u ∧ y = .u then .u else .g

/-- Rules 5 and 6: iadd and isub. -/
def tagAdd (x y : Tag) : Tag := if x = .u ∧ y = .u then .u else if x = .g ∨ y = .g then .g else .a

/-- Rules 5 and 7: imul. -/
def tagMul (x y : Tag) : Tag :=
  if x = .u ∧ y = .u then .u else if (x = .a ∧ y = .u) ∨ (x = .u ∧ y = .a) then .a else .g

/-- Rules 5 and 7: shl by an amount. -/
def tagShl (x y : Tag) (n : Nat) : Tag :=
  if x = .u ∧ y = .u then .u else if x = .a ∧ y = .u ∧ n < 32 then .a else .g

/-! ### Meanings of one shape -/

/-- A short word that writes one 32-bit register (R99, R100). -/
def lane1 (s : State) (d : BitVec 7) (srcs : List Nat) (vc : Nat) (tag : Nat → Tag) (val : Issue → Fibre → Fin 32 → Word) :
    Host.Outcome State Fault Refusal :=
  gate s { v := srcs, d := [d.toNat], vc := vc } fun c f => retire (c.wr s f d.toNat (tag c.fibre) (val c f)) c

/-- A short word that writes a pair (R99, R100). -/
def lane2 (s : State) (d : BitVec 7) (srcs ss : List Nat) (tag : Tag) (val : Issue → Fibre → Fin 32 → DWord) :
    Host.Outcome State Fault Refusal :=
  gate s { v := srcs, d := regRange d.toNat 2, s := ss } fun c f => retire (c.wrP s f d.toNat tag (val c f)) c

/-- A short word that writes a predicate (R105, R107). -/
def lanePred (s : State) (p : BitVec 3) (srcs : List Nat) (val : Issue → Fibre → Fin 32 → Bool) :
    Host.Outcome State Fault Refusal :=
  gate s { v := srcs } fun c f => retire (c.wrPred s f p.toNat (maskOf (val c f))) c

/-- A short word that writes a uniform register (R109). -/
def uniform (s : State) (d : BitVec 6) (srcs : List Nat) (val : Fibre → DWord) : Host.Outcome State Fault Refusal :=
  gate s { s := d.toNat :: srcs } fun c f => retire (c.wrS s f d.toNat (val f)) c

/-- Registers of one 32-bit source. -/
abbrev r1 (a : BitVec 7) : List Nat := [a.toNat]
/-- Registers of one pair. -/
abbrev r2 (a : BitVec 7) : List Nat := regRange a.toNat 2

/-! ### Fields of an X prefix (R85) -/

/-- What an X prefix may modify on a word. -/
structure XUse where
  guard : Bool
  dest  : Bool := false
  round : Bool := false
  vc    : Bool := false
  va    : Bool := false
  vb    : Bool := false
  deriving DecidableEq, Repr

/-- Words that take no X prefix: U-space words, B-format words, prefixes (R85). -/
def XUse.no : XUse := { guard := false }

/-- Two vector or predicate sources, a vector or predicate destination. -/
def XUse.two : XUse := { guard := true, dest := true, va := true, vb := true }
/-- One source. -/
def XUse.one : XUse := { guard := true, dest := true, va := true }
/-- Two sources and rounding. -/
def XUse.twoR : XUse := { guard := true, dest := true, round := true, va := true, vb := true }
/-- One source and rounding. -/
def XUse.oneR : XUse := { guard := true, dest := true, round := true, va := true }
/-- A destination and nothing modifiable. -/
def XUse.load : XUse := { guard := true, dest := true }
/-- No destination. -/
def XUse.store : XUse := { guard := true }
/-- A destination and a fourth operand. -/
def XUse.four : XUse := { guard := true, dest := true, vc := true }

/-- What an X prefix may modify on each word (R85); the steps that no word encodes take none. -/
def xuse (i : Instr) : XUse :=
  match i with
  | .iadd .. | .isub .. | .imul .. | .imulhSg .. | .imulhUs .. | .iminSg .. | .iminUs .. | .imaxSg .. => XUse.two
  | .imaxUs .. | .and .. | .or .. | .xor .. | .andn .. | .shl .. | .shr .. | .sar .. => XUse.two
  | .rot .. | .bfeUs .. | .bfeSg .. | .iadd64 .. | .isub64 .. | .imul64 .. | .shl64 .. | .shr64 .. => XUse.two
  | .sar64 .. | .icmp .. | .icmp64 .. | .sel .. | .pand .. | .por .. | .pxor .. | .idp4Sg .. => XUse.two
  | .idp4Us .. | .idp2Sg .. | .idp2Us .. | .fminF32 .. | .fmaxF32 .. | .fminF64 .. | .fmaxF64 .. | .fcmpF32 .. => XUse.two
  | .fcmpF64 .. | .trmin .. | .trmax .. | .trcmp .. => XUse.two
  | .imad .. | .bfi .. => { XUse.two with vc := true }
  | .iabs .. | .clz .. | .popc .. | .brev .. | .mov .. | .pnot .. | .trdec .. | .fex2F32 .. => XUse.one
  | .flg2F32 .. | .fsinF32 .. | .fcosF32 .. => XUse.one
  | .movFromUniform .. | .movB64 .. | .iaddImm .. | .andImm .. | .shlImm .. | .shrImm .. | .sarImm .. | .rotImm .. => XUse.load
  | .shl64Imm .. | .shr64Imm .. | .sar64Imm .. | .movi .. | .ldB32 .. | .ldB64 .. | .ldB128 .. | .ldExtended .. => XUse.load
  | .ldsB32 .. | .ldsB64 .. | .atomAddB32 .. | .atomMinSgB32 .. | .atomMinUsB32 .. | .atomMaxSgB32 .. | .atomMaxUsB32 .. | .atomAndB32 .. => XUse.load
  | .atomOrB32 .. | .atomXorB32 .. | .atomXchgB32 .. | .atomAddB64 .. | .atomMinSgB64 .. | .atomMinUsB64 .. | .atomMaxSgB64 .. | .atomMaxUsB64 .. => XUse.load
  | .atomAndB64 .. | .atomOrB64 .. | .atomXorB64 .. | .atomXchgB64 .. | .arsv .. => XUse.load
  | .faddF32 .. | .fsubF32 .. | .fmulF32 .. | .faddF64 .. | .fsubF64 .. | .fmulF64 .. | .fdivF32 .. | .fdivF64 .. => XUse.twoR
  | .tradd .. | .trsub .. | .trmul .. => XUse.twoR
  | .ffmaF32 .. | .ffmaF64 .. | .trfma .. => { XUse.twoR with vc := true }
  | .fsqrtF32 .. | .frcpF32 .. | .frsqF32 .. | .fsqrtF64 .. | .frcpF64 .. | .frsqF64 .. | .trenc .. | .cvt .. => XUse.oneR
  | .qmac .. => { XUse.store with va := true, vb := true }
  | .qclr .. | .stB32 .. | .stB64 .. | .stB128 .. | .pf .. | .stExtended .. | .stsB32 .. | .stsB64 .. => XUse.store
  | .aacc .. => XUse.store
  | .qround .. => { XUse.load with round := true }
  | .qadd .. => { XUse.store with va := true }
  | .cvtClamp .. => { XUse.oneR with vc := true }
  | .shflIdx .. | .shflUp .. | .shflDown .. | .shflXor .. | .voteAny .. | .voteAll .. | .voteBallot .. | .voteEq .. => XUse.four
  | .matchB32 .. | .matchB64 .. | .scan .. | .atomCasB32 .. | .atomCasB64 .. | .acasB128 .. => XUse.four
  | .red .. => { XUse.store with vc := true }
  | .bra .. | .call .. | .callr .. | .ret .. | .jmpr .. | .exit .. | .yield .. | .trap .. => XUse.no
  | .bkpt .. | .nop .. | .xPrefix .. | .wPrefix .. | .uadd .. | .usub .. | .umul .. | .uand .. => XUse.no
  | .uor .. | .uxor .. | .ushl .. | .ushr .. | .usar .. | .uminSg .. | .uminUs .. | .umaxSg .. => XUse.no
  | .umaxUs .. | .umov .. | .usel .. | .ucmp .. | .uaddImm .. | .uld .. | .ust .. | .umoviLo .. => XUse.no
  | .umoviHi .. | .ubra .. | .ucall .. | .ubraReg .. | .ucallReg .. | .fence .. | .fenceAcq .. | .fenceRel .. => XUse.no
  | .fenceLrec .. | .barInit .. | .barArrive .. | .barWait .. | .barSync .. | .barInval .. | .fbarSync .. | .ringInit .. => XUse.no
  | .ringArriveFull .. | .ringArriveEmpty .. | .ringWaitFull .. | .ringWaitEmpty .. | .cftest .. | .copy .. | .copySt .. | .copyAcc .. => XUse.no
  | .cvinit .. | .mma .. | .wbload .. | .wbloadMask .. | .accld .. | .accldF64 .. | .accst .. | .accstF64 .. => XUse.no
  | .acczero .. | .opfence .. | .xformCvt .. | .xformRound .. | .xformScale .. | .xformFill .. | .xformZero .. | .msgSend .. => XUse.no
  | .msgRecv .. | .sregRdVector .. | .sregRdUniform .. | .sregWr .. | .temit .. | .ctrRd .. | .ctrCtl .. | .rtag .. => XUse.no
  | .glaunch .. | .clauseFetch .. | .ricWrap .. | .watchdogFault .. | .drowsyRetention .. | .loadDataReturn .. | .storePerformed .. | .atomicPerformed .. => XUse.no
  | .classBComplete .. | .pageWalkComplete .. | .lrecFillComplete .. | .copyLineArrival .. | .engineOperationComplete .. | .fibreRelease .. | .messageArrival .. | .msgAccepted .. => XUse.no
  | .mailboxAdmissionSignal .. | .qdbWrite .. | .packetConsume .. | .clusterPlace .. | .priorityWaitLimit .. | .gridComplete .. | .teamRetire .. | .modeChangeApply .. => XUse.no
  | .throttleSignal .. | .quietInterval .. | .queueCongestion .. | .congestionRepeat .. | .gangSwitchPropose .. | .gangTimeMessage .. | .gangCancellation .. | .gangAckDeadline .. => XUse.no
  | .gangSwitch .. | .bivouacFill .. | .bivouacSpill .. | .cairn .. | .podCairnPropose .. | .podCairnAckTimeout .. | .podCairnTake .. | .chunkLimit .. => XUse.no
  | .sequenceExhausted .. | .replayLogEnd .. | .abortDrained .. | .restoreComplete .. | .epochScrub .. | .l1Eviction .. | .coherenceRead .. | .coherenceOwnership .. => XUse.no
  | .coherenceWriteback .. | .evictionNotice .. | .invalidation .. | .recallLine .. | .lostCopiesNotice .. | .hostMemRead .. | .hostMemWrite .. | .hostCacheOwnership .. => XUse.no
  | .pageRecompress .. | .rmThreshold .. | .rmHoldEnd .. | .periodicRefresh .. | .traceFilter .. | .linkFailure .. | .linkTimeout .. | .ptpTimeUpdate .. => XUse.no
  | .intrFreeze .. | .stepComplete .. | .resume .. | .skip .. | .step .. | .rdreg .. | .wrreg .. | .intr .. => XUse.no
  | .halt .. | .unhalt .. | .terminate .. | .replay .. | .ctrtot .. | .ctrgrant .. | .lanternLoad .. | .lanternRead .. => XUse.no
  | .ctrprog .. | .ctrread .. | .cfgrd .. | .cfgwr .. | .btinval .. | .tlbinval .. | .mrdbWrite .. | .mgmtDatagram .. => XUse.no
  | .info .. | .storeManifest .. | .compareManifest .. | .attest .. | .openSession .. | .remapAdd .. | .powerState .. | .warmReset .. => XUse.no
  | .fwUpdate .. | .cxlHotReset .. | .coldReset .. | .thermalWarning .. | .thermalTrip .. | .fqcfgWrite .. | .fqptrWrite .. | .fqstatRead .. => XUse.no
  | .srstatRead .. | .trstatRead .. | .hbmErrRead .. | .trptrWrite .. | .urstatFailClear .. | .registerWrite .. | .recorderBufferFree .. | .twinPageConsumed .. => XUse.no
  | .powerLoss .. | .linkRetrained .. | .flitCrcRetry .. | .guylineCreditReturn .. | .podCairnInstant .. | .podCairnAcknowledged .. | .h2dSnoop .. => XUse.no

/-- Whether a prefix has only permitted fields on a word (R85). -/
def XPre.ok (x : XPre) (u : XUse) : Bool :=
  u.guard && (!x.z || u.dest) && (x.rm == .dyn || u.round) && (x.vc == 0 || u.vc) &&
    (if x.lk == .none then x.k == 0 && !x.ls else if x.ls then u.vb else u.va)

end Sys2Proof.Machine
end

