-- ==== Sys2Proof/Machine/Flags.lean ====
section
/-!
DEFINITION. Sys2Proof/Machine/Flags.lean: the rounding mode in force and the accrual of sticky flags (R33, R50, R65, R66).
-/

namespace Sys2Proof.Machine

/-- FPSTAT.RM (R33). -/
def Fibre.rm (f : Fibre) : Rnd := rndOf (fieldOf f.fpstat 2 0)

/-- eff_rm(): the mode of the X prefix, or FPSTAT.RM (R50, R84). -/
def Issue.rm (c : Issue) (f : Fibre) : Rnd :=
  match c.px with
  | none => f.rm
  | some x => match x.rm with
    | .rne => .rne
    | .rtz => .rtz
    | .rup => .rup
    | .rdn => .rdn
    | .rna => .rna
    | .dyn => f.rm

/-- ORs flags into FPSTAT (R65). -/
def accrue (s : State) (fid : Nat) (fl : Word) : State := s.modFib fid fun f => { f with fpstat := f.fpstat ||| fl }

/-- The flags of the lanes of a mask (R65). -/
def laneFlags (m : LaneMask) (fl : Fin 32 → Word) : Word := (laneList m).foldl (fun w l => w ||| fl l) 0

/-- Results of the lanes of a mask, each computed once. -/
def perLane {α : Type} (d : α) (m : LaneMask) (g : Fin 32 → α) : Lanes α :=
  Vector.ofFn fun l => if inMask m l then g l else d

/-- A short word that writes one register and accrues flags (R100, R120). -/
def flag1 (s : State) (d : BitVec 7) (srcs : List Nat) (vc : Nat) (val : Issue → Fibre → Fin 32 → Word × Word) :
    Host.Outcome State Fault Refusal :=
  gate s { v := srcs, d := [d.toNat], vc := vc } fun c f =>
    let r := perLane (0, 0) (c.active f) (val c f)
    retire (accrue (c.wr s f d.toNat .g fun l => r[l].1) c.fibre (laneFlags (c.active f) fun l => r[l].2)) c

/-- A short word that writes a pair and accrues flags. -/
def flag2 (s : State) (d : BitVec 7) (srcs : List Nat) (vc : Nat) (val : Issue → Fibre → Fin 32 → DWord × Word) :
    Host.Outcome State Fault Refusal :=
  gate s { v := srcs, d := regRange d.toNat 2, vc := vc } fun c f =>
    let r := perLane (0, 0) (c.active f) (val c f)
    retire (accrue (c.wrP s f d.toNat .g fun l => r[l].1) c.fibre (laneFlags (c.active f) fun l => r[l].2)) c

/-- A short word that writes a predicate and accrues flags. DESIGN CHOICE (log entry 50): flags accrue also where the result is discarded, in
p7 (R29, R65). -/
def flagPred (s : State) (p : BitVec 3) (srcs : List Nat) (val : Issue → Fibre → Fin 32 → Bool × Word) :
    Host.Outcome State Fault Refusal :=
  gate s { v := srcs } fun c f =>
    let r := perLane (false, 0) (c.active f) (val c f)
    retire (accrue (c.wrPred s f p.toNat (maskOf fun l => r[l].1)) c.fibre (laneFlags (c.active f) fun l => r[l].2)) c

/-- The register writes of a class B word that writes one register: guarded lanes get their value now, zeroed lanes zero (R74). -/
def classWrite (c : Issue) (f : Fibre) (r : Nat) (vals : Lanes Word) : RegWrite :=
  .v r (c.active f ||| c.zeroed f) (Vector.ofFn fun l => if inMask (c.active f) l then vals[l] else 0)

/-- Makes one register write of a completing operation: a vector write gives tag G (R28), a uniform one is logged when the issuing
fibre was diverged (R30). -/
def applyWrite (fid leader ric : Nat) (div : Bool) (s : State) (w : RegWrite) : State :=
  match w with
  | .v r mask vals =>
    if mask = 0 then s else
    let old := readReg s fid r
    writeReg s fid r ⟨Vector.ofFn fun l => if inMask mask l then vals[l] else old.vals[l], .g⟩
  | .s r val => putS s fid r leader ric div val

/-- A class B word: its results and flags are formed now and stand in flight until it completes (R66, R73, R124). The flag is
SETB of the clause; with every guard false it completes at once (R73). fp: whether the word produces flags. -/
def issueB (s : State) (c : Issue) (f : Fibre) (ws : List RegWrite) (fl : Word) (fp : Bool := true) : State :=
  let setb := fieldOf c.hdr 19 16
  let o : Op :=
    { id := s.nextOp, fibre := c.fibre, team := f.team, core := coreOf c.fibre, lanes := c.lanes, clause := c.clause, word := c.word,
      ric := f.ric, flag := if setb < 12 then some setb else none, kind := .classB ws fl fp c.div }
  let s1 := s.addOp o
  if c.active f = 0 then
    retire (ws.foldl (applyWrite c.fibre (lowLane c.lanes).val f.ric.toNat c.div) (accrue (s1.endOp o false) c.fibre fl)) c
  else retire s1 c

/-- A class B word of one register. -/
def classB1 (s : State) (d : BitVec 7) (srcs : List Nat) (val : Issue → Fibre → Fin 32 → Word × Word) :
    Host.Outcome State Fault Refusal :=
  gate s { v := srcs, d := [d.toNat] } fun c f =>
    let r := perLane (0, 0) (c.active f) (val c f)
    issueB s c f [classWrite c f d.toNat (Vector.ofFn fun l => r[l].1)] (laneFlags (c.active f) fun l => r[l].2)

/-- A class B word of a pair. -/
def classB2 (s : State) (d : BitVec 7) (srcs : List Nat) (val : Issue → Fibre → Fin 32 → DWord × Word) :
    Host.Outcome State Fault Refusal :=
  gate s { v := srcs, d := regRange d.toNat 2 } fun c f =>
    let r := perLane (0, 0) (c.active f) (val c f)
    issueB s c f
      [classWrite c f d.toNat (Vector.ofFn fun l => (r[l].1).setWidth 32),
       classWrite c f (d.toNat + 1) (Vector.ofFn fun l => ((r[l].1) >>> 32).setWidth 32)]
      (laneFlags (c.active f) fun l => r[l].2)

end Sys2Proof.Machine
end

