-- ==== Sys2Proof/Machine/IntOps.lean ====
section
/-!
DEFINITION. Sys2Proof/Machine/IntOps.lean: V-space majors 0x00 to 0x17: integer register and immediate forms, comparisons,
predicate logic and packed dot products (R99-R108). Every one is of class short; results wrap but for idp4 and idp2.
-/

namespace Sys2Proof.Machine

/-! ### Arithmetic of one lane -/

/-- Shift left by n, 0 from the width on (R102). -/
def shlN {w : Nat} (x : BitVec w) (n : Nat) : BitVec w := if w ≤ n then 0 else x <<< n
/-- Shift right with zero fill (R102). -/
def shrN {w : Nat} (x : BitVec w) (n : Nat) : BitVec w := if w ≤ n then 0 else x >>> n
/-- Shift right with copies of the sign bit (R102). -/
def sarN {w : Nat} (x : BitVec w) (n : Nat) : BitVec w := x.sshiftRight (min n (w - 1))
/-- Rotation left by n mod 32 (R102). -/
def rotN (x : Word) (n : Nat) : Word := x.rotateLeft (n % 32)

/-- High half of a signed product (R101). -/
def mulhSg (x y : Word) : Word := BitVec.ofInt 32 (x.toInt * y.toInt / 4294967296)
/-- High half of an unsigned product (R101). -/
def mulhUs (x y : Word) : Word := BitVec.ofNat 32 (x.toNat * y.toNat / 4294967296)
/-- Signed lesser. -/
def minSg {w : Nat} (x y : BitVec w) : BitVec w := if y.slt x then y else x
/-- Unsigned lesser. -/
def minUs {w : Nat} (x y : BitVec w) : BitVec w := if y.ult x then y else x
/-- Signed greater. -/
def maxSg {w : Nat} (x y : BitVec w) : BitVec w := if x.slt y then y else x
/-- Unsigned greater. -/
def maxUs {w : Nat} (x y : BitVec w) : BitVec w := if x.ult y then y else x
/-- Magnitude of a signed value; the least value gives itself (R101). -/
def absW (x : Word) : Word := if x.getLsbD 31 then -x else x
/-- Leading zero bits, 0 to 32 (R101). -/
def clzW (x : Word) : Word := if x = 0 then 32 else BitVec.ofNat 32 (31 - Nat.log2 x.toNat)
/-- One bits, 0 to 32 (R101). -/
def popcW (x : Word) : Word := BitVec.ofNat 32 ((List.range 32).countP fun i => x.getLsbD i)
/-- Bit i of the result is bit 31 - i (R101). -/
def brevW (x : Word) : Word := maskOf fun i => x.getLsbD (31 - i.val)

/-- pos, the end e and the width w of a bit field given by vb (R103). -/
def bfField (y : Word) : Nat × Nat :=
  let pos := fieldOf y 7 0
  (pos, min (pos + fieldOf y 15 8) 32 - pos)

/-- bfe.us (R103). -/
def bfeUs (x y : Word) : Word :=
  let p := bfField y
  if p.2 = 0 then 0 else BitVec.ofNat 32 (x.toNat / 2 ^ p.1 % 2 ^ p.2)

/-- bfe.sg (R103). -/
def bfeSg (x y : Word) : Word :=
  let p := bfField y
  if p.2 = 0 then 0 else BitVec.ofInt 32 (sgnOf p.2 (x.toNat / 2 ^ p.1))

/-- bfi: the low w bits of x inserted into z (R103). -/
def bfiW (x y z : Word) : Word :=
  let p := bfField y
  if p.2 = 0 then z else
  let m := BitVec.ofNat 32 ((2 ^ p.2 - 1) * 2 ^ p.1)
  (z &&& ~~~ m) ||| (BitVec.ofNat 32 (x.toNat % 2 ^ p.2 * 2 ^ p.1) &&& m)

/-- Integer conditions (R105). -/
def icond {w : Nat} (c : ICond) (x y : BitVec w) : Bool :=
  match c with
  | .eq => x == y
  | .ne => x != y
  | .ltSg => x.slt y
  | .leSg => x.sle y
  | .gtSg => y.slt x
  | .geSg => y.sle x
  | .ltUs => x.ult y
  | .leUs => x.ule y
  | .gtUs => y.ult x
  | .geUs => y.ule x

/-- Field i of width n as a signed or unsigned value. -/
def partVal (n : Nat) (signed : Bool) (x : Word) (i : Nat) : Int :=
  let v := x.toNat / 2 ^ (n * i) % 2 ^ n
  if signed then sgnOf n v else (v : Int)

/-- idp4 and idp2: the exact total, saturated once (R46, R108). -/
def dotW (n k : Nat) (signed : Bool) (acc x y : Word) : Word :=
  let t := (List.range k).foldl (fun (t : Int) i => t + partVal n signed x i * partVal n signed y i)
    (if signed then acc.toInt else (acc.toNat : Int))
  let r := intRange 32 signed
  BitVec.ofInt 32 (if t < r.1 then r.1 else if r.2 < t then r.2 else t)

/-! ### Shapes -/

/-- Two 32-bit sources. -/
def int2 (s : State) (d a b : BitVec 7) (tag : Tag → Tag → Tag) (op : Word → Word → Word) : Host.Outcome State Fault Refusal :=
  lane1 s d (r1 a ++ r1 b) 0 (fun fid => tag (tagOf s fid a.toNat) (tagOf s fid b.toNat))
    fun c _ l => op (c.rd s false a l) (c.rd s true b l)

/-- One 32-bit source. -/
def int1 (s : State) (d a : BitVec 7) (tag : Tag → Tag) (op : Word → Word) : Host.Outcome State Fault Refusal :=
  lane1 s d (r1 a) 0 (fun fid => tag (tagOf s fid a.toNat)) fun c _ l => op (c.rd s false a l)

/-- Two 32-bit sources and the fourth operand. -/
def int3 (s : State) (d a b : BitVec 7) (op : Word → Word → Word → Word) : Host.Outcome State Fault Refusal :=
  lane1 s d (r1 a ++ r1 b) 1 (fun _ => .g) fun c _ l => op (c.rd s false a l) (c.rd s true b l) (c.rdC s l)

/-- Two pairs. -/
def pair2 (s : State) (d a b : BitVec 7) (op : DWord → DWord → DWord) : Host.Outcome State Fault Refusal :=
  lane2 s d (r2 a ++ r2 b) [] .g fun c _ l => op (c.rdP s false a l) (c.rdP s true b l)

/-- A pair shifted by a 32-bit register. -/
def pairShift (s : State) (d a b : BitVec 7) (op : DWord → Nat → DWord) : Host.Outcome State Fault Refusal :=
  lane2 s d (r2 a ++ r1 b) [] .g fun c _ l => op (c.rdP s false a l) (c.rd s true b l).toNat

/-- A pair shifted by an immediate. -/
def pairImm (s : State) (d a : BitVec 7) (op : DWord → DWord) : Host.Outcome State Fault Refusal :=
  lane2 s d (r2 a) [] .g fun c _ l => op (c.rdP s false a l)

/-- Every write that rules 1 to 7 of R28 do not name gives G. -/
abbrev tagG1 (_ : Tag) : Tag := .g
/-- As tagG1, of two sources. -/
abbrev tagG2 (_ _ : Tag) : Tag := .g

/-- Predicate logic (R107). -/
def pred2 (s : State) (d a b : BitVec 3) (op : Bool → Bool → Bool) : Host.Outcome State Fault Refusal :=
  lanePred s d [] fun c f l => op (inMask (c.rdPred f false a.toNat) l) (inMask (c.rdPred f true b.toNat) l)

/-- The accumulating dot products: a lane modifier never applies to vd (R108). -/
def dot (s : State) (d a b : BitVec 7) (op : Word → Word → Word → Word) : Host.Outcome State Fault Refusal :=
  lane1 s d (r1 a ++ r1 b) 0 (fun _ => .g)
    fun c _ l => op (readLane s c.fibre d.toNat l) (c.rd s false a l) (c.rd s true b l)

/-! ### The instructions -/

/-- IADD (R101). -/
def execIadd (d a b : BitVec 7) (s : State) : Host.Outcome State Fault Refusal :=
  int2 s d a b tagAdd fun x y => x + y

/-- ISUB (R101). -/
def execIsub (d a b : BitVec 7) (s : State) : Host.Outcome State Fault Refusal :=
  int2 s d a b tagAdd fun x y => x - y

/-- IMUL (R101). -/
def execImul (d a b : BitVec 7) (s : State) : Host.Outcome State Fault Refusal :=
  int2 s d a b tagMul fun x y => x * y

/-- IMULH_SG (R101). -/
def execImulhSg (d a b : BitVec 7) (s : State) : Host.Outcome State Fault Refusal :=
  int2 s d a b tagG2 mulhSg

/-- IMULH_US (R101). -/
def execImulhUs (d a b : BitVec 7) (s : State) : Host.Outcome State Fault Refusal :=
  int2 s d a b tagG2 mulhUs

/-- IMAD (R101). -/
def execImad (d a b : BitVec 7) (s : State) : Host.Outcome State Fault Refusal :=
  int3 s d a b fun x y z => x * y + z

/-- IMIN_SG (R101). -/
def execIminSg (d a b : BitVec 7) (s : State) : Host.Outcome State Fault Refusal :=
  int2 s d a b tagU minSg

/-- IMIN_US (R101). -/
def execIminUs (d a b : BitVec 7) (s : State) : Host.Outcome State Fault Refusal :=
  int2 s d a b tagU minUs

/-- IMAX_SG (R101). -/
def execImaxSg (d a b : BitVec 7) (s : State) : Host.Outcome State Fault Refusal :=
  int2 s d a b tagU maxSg

/-- IMAX_US (R101). -/
def execImaxUs (d a b : BitVec 7) (s : State) : Host.Outcome State Fault Refusal :=
  int2 s d a b tagU maxUs

/-- IABS (R101). -/
def execIabs (d a : BitVec 7) (s : State) : Host.Outcome State Fault Refusal :=
  int1 s d a tagG1 absW

/-- AND (R101). -/
def execAnd (d a b : BitVec 7) (s : State) : Host.Outcome State Fault Refusal :=
  int2 s d a b tagU fun x y => x &&& y

/-- OR (R101). -/
def execOr (d a b : BitVec 7) (s : State) : Host.Outcome State Fault Refusal :=
  int2 s d a b tagU fun x y => x ||| y

/-- XOR (R101). -/
def execXor (d a b : BitVec 7) (s : State) : Host.Outcome State Fault Refusal :=
  int2 s d a b tagU fun x y => x ^^^ y

/-- ANDN (R101). -/
def execAndn (d a b : BitVec 7) (s : State) : Host.Outcome State Fault Refusal :=
  int2 s d a b tagG2 fun x y => x &&& ~~~ y

/-- SHL (R102): by a U register below 32, an A source stays A (R28, rule 7). -/
def execShl (d a b : BitVec 7) (s : State) : Host.Outcome State Fault Refusal :=
  lane1 s d (r1 a ++ r1 b) 0
    (fun fid => tagShl (tagOf s fid a.toNat) (tagOf s fid b.toNat) (readLane s fid b.toNat (lowLane (s.liveOf fid))).toNat)
    fun c _ l => shlN (c.rd s false a l) (c.rd s true b l).toNat

/-- SHR (R102). -/
def execShr (d a b : BitVec 7) (s : State) : Host.Outcome State Fault Refusal :=
  int2 s d a b tagU fun x y => shrN x y.toNat

/-- SAR (R102). -/
def execSar (d a b : BitVec 7) (s : State) : Host.Outcome State Fault Refusal :=
  int2 s d a b tagU fun x y => sarN x y.toNat

/-- ROT (R102). -/
def execRot (d a b : BitVec 7) (s : State) : Host.Outcome State Fault Refusal :=
  int2 s d a b tagG2 fun x y => rotN x y.toNat

/-- CLZ (R101). -/
def execClz (d a : BitVec 7) (s : State) : Host.Outcome State Fault Refusal :=
  int1 s d a tagG1 clzW

/-- POPC (R101). -/
def execPopc (d a : BitVec 7) (s : State) : Host.Outcome State Fault Refusal :=
  int1 s d a tagG1 popcW

/-- BREV (R101). -/
def execBrev (d a : BitVec 7) (s : State) : Host.Outcome State Fault Refusal :=
  int1 s d a tagG1 brevW

/-- MOV (R101): a full write copies the tag (R28, rule 4). -/
def execMov (d a : BitVec 7) (s : State) : Host.Outcome State Fault Refusal :=
  int1 s d a (fun t => t) fun x => x

/-- MOV_FROM_UNIFORM (R101): tag U (R28, rule 2). -/
def execMovFromUniform (d : BitVec 7) (sa : BitVec 6) (s : State) : Host.Outcome State Fault Refusal :=
  gate s { d := r1 d, s := [sa.toNat] } fun c f =>
    retire (c.wr s f d.toNat .u fun _ => (rdS f sa).setWidth 32) c

/-- MOV_B64 (R101): tag U in each register of the pair (R28, rule 2). -/
def execMovB64 (d : BitVec 7) (sa : BitVec 6) (s : State) : Host.Outcome State Fault Refusal :=
  lane2 s d [] [sa.toNat] .u fun _ f _ => rdS f sa

/-- BFE_US (R103). -/
def execBfeUs (d a b : BitVec 7) (s : State) : Host.Outcome State Fault Refusal :=
  int2 s d a b tagG2 bfeUs

/-- BFE_SG (R103). -/
def execBfeSg (d a b : BitVec 7) (s : State) : Host.Outcome State Fault Refusal :=
  int2 s d a b tagG2 bfeSg

/-- BFI (R103). -/
def execBfi (d a b : BitVec 7) (s : State) : Host.Outcome State Fault Refusal :=
  int3 s d a b bfiW

/-- IADD64 (R101). -/
def execIadd64 (d a b : BitVec 7) (s : State) : Host.Outcome State Fault Refusal :=
  pair2 s d a b fun x y => x + y

/-- ISUB64 (R101). -/
def execIsub64 (d a b : BitVec 7) (s : State) : Host.Outcome State Fault Refusal :=
  pair2 s d a b fun x y => x - y

/-- IMUL64 (R101). -/
def execImul64 (d a b : BitVec 7) (s : State) : Host.Outcome State Fault Refusal :=
  pair2 s d a b fun x y => x * y

/-- SHL64 (R102). -/
def execShl64 (d a b : BitVec 7) (s : State) : Host.Outcome State Fault Refusal :=
  pairShift s d a b shlN

/-- SHR64 (R102). -/
def execShr64 (d a b : BitVec 7) (s : State) : Host.Outcome State Fault Refusal :=
  pairShift s d a b shrN

/-- SAR64 (R102). -/
def execSar64 (d a b : BitVec 7) (s : State) : Host.Outcome State Fault Refusal :=
  pairShift s d a b sarN

/-- IADD_IMM (R104). -/
def execIaddImm (d a : BitVec 7) (i : BitVec 11) (s : State) : Host.Outcome State Fault Refusal :=
  int1 s d a (fun t => tagAdd t .u) fun x => x + i.signExtend 32

/-- AND_IMM (R104). -/
def execAndImm (d a : BitVec 7) (i : BitVec 11) (s : State) : Host.Outcome State Fault Refusal :=
  int1 s d a (fun t => tagU t .u) fun x => x &&& i.signExtend 32

/-- SHL_IMM (R104). -/
def execShlImm (d a : BitVec 7) (n : BitVec 6) (s : State) : Host.Outcome State Fault Refusal :=
  int1 s d a (fun t => tagShl t .u n.toNat) fun x => shlN x n.toNat

/-- SHR_IMM (R104). -/
def execShrImm (d a : BitVec 7) (n : BitVec 6) (s : State) : Host.Outcome State Fault Refusal :=
  int1 s d a (fun t => tagU t .u) fun x => shrN x n.toNat

/-- SAR_IMM (R104). -/
def execSarImm (d a : BitVec 7) (n : BitVec 6) (s : State) : Host.Outcome State Fault Refusal :=
  int1 s d a (fun t => tagU t .u) fun x => sarN x n.toNat

/-- ROT_IMM (R104). -/
def execRotImm (d a : BitVec 7) (n : BitVec 6) (s : State) : Host.Outcome State Fault Refusal :=
  int1 s d a tagG1 fun x => rotN x n.toNat

/-- SHL64_IMM (R104). -/
def execShl64Imm (d a : BitVec 7) (n : BitVec 6) (s : State) : Host.Outcome State Fault Refusal :=
  pairImm s d a fun x => shlN x n.toNat

/-- SHR64_IMM (R104). -/
def execShr64Imm (d a : BitVec 7) (n : BitVec 6) (s : State) : Host.Outcome State Fault Refusal :=
  pairImm s d a fun x => shrN x n.toNat

/-- SAR64_IMM (R104). -/
def execSar64Imm (d a : BitVec 7) (n : BitVec 6) (s : State) : Host.Outcome State Fault Refusal :=
  pairImm s d a fun x => sarN x n.toNat

/-- MOVI (R104): tag U (R28, rule 2). -/
def execMovi (d : BitVec 7) (i : BitVec 18) (s : State) : Host.Outcome State Fault Refusal :=
  lane1 s d [] 0 (fun _ => .u) fun _ _ _ => i.signExtend 32

/-- ICMP (R105). -/
def execIcmp (k : ICond) (p : BitVec 3) (a b : BitVec 7) (s : State) : Host.Outcome State Fault Refusal :=
  lanePred s p (r1 a ++ r1 b) fun c _ l => icond k (c.rd s false a l) (c.rd s true b l)

/-- ICMP64 (R105). -/
def execIcmp64 (k : ICond) (p : BitVec 3) (a b : BitVec 7) (s : State) : Host.Outcome State Fault Refusal :=
  lanePred s p (r2 a ++ r2 b) fun c _ l => icond k (c.rdP s false a l) (c.rdP s true b l)

/-- SEL (R106). -/
def execSel (n : Bool) (p : BitVec 3) (d a b : BitVec 7) (s : State) : Host.Outcome State Fault Refusal :=
  lane1 s d (r1 a ++ r1 b) 0 (fun _ => .g) fun c f l =>
    if inMask (f.readP p.toNat) l != n then c.rd s false a l else c.rd s true b l

/-- PAND (R107). -/
def execPand (d a b : BitVec 3) (s : State) : Host.Outcome State Fault Refusal :=
  pred2 s d a b fun x y => x && y

/-- POR (R107). -/
def execPor (d a b : BitVec 3) (s : State) : Host.Outcome State Fault Refusal :=
  pred2 s d a b fun x y => x || y

/-- PXOR (R107). -/
def execPxor (d a b : BitVec 3) (s : State) : Host.Outcome State Fault Refusal :=
  pred2 s d a b fun x y => x != y

/-- PNOT (R107). -/
def execPnot (d a : BitVec 3) (s : State) : Host.Outcome State Fault Refusal :=
  lanePred s d [] fun c f l => match c.src false l with
    | some j => !inMask (f.readP a.toNat) j
    | none => true

/-- IDP4_SG (R108). -/
def execIdp4Sg (d a b : BitVec 7) (s : State) : Host.Outcome State Fault Refusal :=
  dot s d a b (dotW 8 4 true)

/-- IDP4_US (R108). -/
def execIdp4Us (d a b : BitVec 7) (s : State) : Host.Outcome State Fault Refusal :=
  dot s d a b (dotW 8 4 false)

/-- IDP2_SG (R108). -/
def execIdp2Sg (d a b : BitVec 7) (s : State) : Host.Outcome State Fault Refusal :=
  dot s d a b (dotW 16 2 true)

/-- IDP2_US (R108). -/
def execIdp2Us (d a b : BitVec 7) (s : State) : Host.Outcome State Fault Refusal :=
  dot s d a b (dotW 16 2 false)

end Sys2Proof.Machine
end

