-- ==== Sys2Proof/Machine/Settle.lean ====
section
/-!
DEFINITION. Sys2Proof/Machine/Settle.lean: what follows at once from a step: stalls and holds whose condition has come, fault
records that may now be posted, divergences, fibres with every lane held (R20, R141, R161, R249, R267, R316, R341).
-/

namespace Sys2Proof.Machine

/-- Whether an operation is a load, uld or value-returning atomic (R169, R267). -/
def OpKind.isRead : OpKind → Bool
  | .load .. => true
  | .uload .. => true
  | .lds .. => true
  | .atom .. => true
  | _ => false

/-- Whether an operation is an st, ust or sts (R200, R267). -/
def OpKind.isStore : OpKind → Bool
  | .store .. => true
  | .sts .. => true
  | _ => false

/-- Whether an operation will accrue flags (R66). -/
def OpKind.isFlagging : OpKind → Bool
  | .classB _ _ fp _ => fp
  | _ => false

/-- Whether an operation is an acquire that holds later accesses (R157). -/
def OpKind.isAcquire : OpKind → Bool
  | .load _ _ _ _ _ (some _) => true
  | _ => false

/-- Whether operations of a kind are in flight for a fibre. -/
def opsPending (s : State) (fid : Nat) (w : OpsWait) : Bool :=
  s.ops.any fun o => o.fibre == fid &&
    match w with
    | .mem => o.kind.isMem
    | .reads => o.kind.isRead
    | .stores => o.kind.isStore
    | .flagging => o.kind.isFlagging
    | .acquires => o.kind.isAcquire
    | .atomics => o.kind.isAtom

/-- The lanes of a fibre that a bundle may be formed from: live and not held (R248); in replay, lanes freed by an outside event
wait for the CHUNK record of REASON 2 that frees them while other lanes can go on (R314; log entry 108). -/
def candidates (s : State) (fid : Nat) (f : Fibre) : LaneMask :=
  let c := maskOf fun l => (f.lane l).live && ((f.lane l).hold == .none || (f.lane l).hold == .crossGo)
  if s.replaying (s.partOf fid) then
    match f.due with
    | r :: _ =>
      if recKind r = 1 && fieldOf r 61 60 = 2 && recRic r = f.ric.toNat then
        (if BitVec.ofNat 32 (fieldOf r 59 28) &&& ~~~ f.freed &&& f.liveMask = 0 then c else 0)
      else if c &&& ~~~ f.freed = 0 then c
      else c &&& ~~~ f.freed
    | [] => c
  else c

/-- Whether a work queue holds as many packets as it can (R236). -/
def queueFull (s : State) (q : Nat) (tail : Nat) : Bool :=
  decide (2 ^ fieldOf (s.queue q).cfg 3 0 ≤ (BitVec.ofNat 16 tail - (s.queue q).head).toNat)

/-- The tail word of a queue as memory holds it (R235). -/
def queueTail (s : State) (q : Nat) : Nat :=
  let ctx := fieldOf (s.queue q).cfg 21 16
  let s0 := virtReads s ctx (s.queue q).tailp.toNat 8
  match transNow s0 ctx (s.queue q).tailp.toNat 512 false with
  | .ok pa => s0.mem.readN pa 8
  | _ => 0

/-- Whether a team is the lowest unretired team of its grid (R257, R260). -/
def lowestTeam (s : State) (t : Team) : Bool :=
  match s.grid t.grid with
  | some g => g.nextRet == t.index
  | none => true

/-- Whether what a fibre waits for has come (R20). -/
def waitOver (s : State) (fid : Nat) (f : Fibre) : Wait → Bool
  | .flags m => !s.cfWaits fid m
  | .regs vs ds ss => !(vs.any (s.vPending fid) || ds.any (s.vOwn fid) || ss.any (s.sPending fid))
  | .walk => f.walkReq.isEmpty
  | .ops w => !opsPending s fid w
  | .lrec => f.lrecReq.isNone
  | .msg m => (s.mbox m).tail != (s.mbox m).head || f.recvErr
  | .queue q => !queueFull s q (queueTail s q)
  | .staging => ((s.team f.team).map (lowestTeam s)).getD true
  | .recorder => !recorderFull s (s.partOf fid) (recorderOf fid)
  | .traceFull => decide ((s.core (coreOf fid)).fifo.length < 64)
  | .replay => f.step.isNone
  | .lanes => candidates s fid f != 0
  | .acks => s.lines.all fun e => !(e.2.asked == some (.fibre fid) && acksDue s e.1)

/-- A fibre whose wait is over enters Ready, or clears the stall that held its slot (R20, R249). -/
def wakeOne (s : State) (fid : Nat) : State :=
  match s.fib fid with
  | none => s
  | some f =>
    match f.wait with
    | none => s
    | some w =>
      if !waitOver s fid f w then s
      else if f.sched = .waiting then goReady s fid
      else s.modFib fid fun x => { x with wait := none }

/-- Frees the lanes held on scratchpad lines that are all present now (R161). -/
def freeAbsent (s : State) (fid : Nat) : State :=
  match s.fib fid with
  | none => s
  | some f =>
    let gone := (s.core (coreOf fid)).absent
    let m := maskOf fun l => match (f.lane l).hold with
      | .absent ls => ls.all fun n => !gone.contains n
      | _ => false
    if m = 0 then s else
    s.modFib fid fun x => { x.onLanes m (fun l => { l with hold := .none }) with freed := x.freed ||| m }

/-- The lanes of a fibre held at one cross-lane word. -/
def crossSet (f : Fibre) (pc : DWord) (word : Nat) : LaneMask :=
  maskOf fun l => (f.lane l).live && (f.lane l).pc == pc && (f.lane l).word == word &&
    match (f.lane l).hold with
    | .cross _ => true
    | _ => false

/-- The members that the lanes of a set wait for: the live lanes of their masks (R141). -/
def crossWants (f : Fibre) (set : LaneMask) : LaneMask :=
  ((laneList set).foldl (fun m l => match (f.lane l).hold with
    | .cross w => m ||| w
    | _ => m) 0) &&& f.liveMask

/-- Releases the lanes of a held cross-lane set: they issue together as one bundle (R141). -/
def releaseCross (s : State) (fid : Nat) (set : LaneMask) : State :=
  s.modFib fid fun x => x.onLanes set fun l => { l with hold := .crossGo }

/-- Cross-lane sets that lack no member issue; when every live lane is held at cross-lane words, the set that has waited longest
issues without its missing members (R141, points 4 to 6). -/
def settleCross (s : State) (fid : Nat) : State :=
  match s.fib fid with
  | none => s
  | some f =>
    let held := (List.finRange 32).filter fun l => (f.lane l).live && match (f.lane l).hold with
      | .cross _ => true
      | _ => false
    match held.find? fun l =>
      let set := crossSet f (f.lane l).pc (f.lane l).word
      crossWants f set &&& ~~~ set == 0 with
    | some l => releaseCross s fid (crossSet f (f.lane l).pc (f.lane l).word)
    | none =>
      match held with
      | [] => s
      | l0 :: rest =>
        if f.run.isSome || f.liveMask &&& ~~~ (maskOf fun l => held.contains l) != 0 then s else
        let best := rest.foldl (fun b l => if (f.lane l).stamp < (f.lane b).stamp then l else b) l0
        releaseCross s fid (crossSet f (f.lane best).pc (f.lane best).word)

/-- The loads, stores and atomics of a frozen fibre have completed: its record is posted (R267). -/
def postDue (s : State) (fid : Nat) : State :=
  match (s.fib fid).bind (·.postDue) with
  | none => s
  | some bits =>
    if opsPending s fid .reads || opsPending s fid .stores then s
    else postRecord (s.modFib fid fun x => { x with postDue := none }) (s.viOf fid) bits false

/-- Halts a partition at clause boundaries and held words: every fibre that is not Frozen is Halted; a Running fibre that is not
stalled runs on to the end of its clause (R76, R278); settleHalt and settleQuiet do the rest. -/
def haltMark (s : State) (p : Nat) : State := s.modPart p fun t => { t with halted := true }

/-- A divergence freezes its fibre with cause 0x0F and halts its partition (R316); from then on the log is not followed, and MODE returns at
the next kernel boundary to its value before REPLAY, as at the end of a log (log entry 39). -/
def settleDiverge (s : State) (fid : Nat) : State :=
  match (s.fib fid).bind (·.diverged) with
  | none => s
  | some (sub, got, exp) =>
    let p := s.partOf fid
    let s1 := (s.modFib fid fun x => { x with diverged := none, log := [] }).modPart p fun t =>
      { t with replay := none, nextMode := (t.replay.map (·.prior)).orElse fun _ => t.nextMode }
    haltMark (asyncFault s1 fid 0x0F sub none got exp) p

/-- The chunk named by an armed breakpoint has ended: its fibre is frozen with cause 0x0E and SUB 2, and its partition halts (R318). -/
def settleBreak (s : State) (fid : Nat) : State :=
  if ((s.fib fid).map (·.bpHit)).getD false then
    let p := s.partOf fid
    haltMark (asyncFault (s.modFib fid fun x => { x with bpHit := false }) fid 0x0E 2 none 0 0) p
  else s

/-- Whether a fibre's watchdog fault is due: its count has reached 2^WDLOG (R42); in the replay modes counts fire no fault (R252). -/
def watchDue (s : State) (fid : Nat) (f : Fibre) : Bool :=
  !s.inReplayMode (s.partOf fid) && (f.wdDue || decide (2 ^ (s.part (s.partOf fid)).wdlog ≤ f.wdog))

/-- The record that a replaying fibre is about to meet at its present RIC. -/
def dueRecord (s : State) (fid : Nat) (f : Fibre) (kind : Nat) : Option (BitVec 128) :=
  if s.replaying (s.partOf fid) then
    (logNext s fid).bind fun r => if recKind r = kind && recRic r = f.ric.toNat then some r else none
  else none

/-- WHAT of an ASYNC record. -/
abbrev recWhat (r : BitVec 128) : Nat := fieldOf r 65 62

/-- Delivers the logged fault of an ASYNC record of WHAT 0 (R314). -/
def loggedFault (s : State) (fid : Nat) (r : BitVec 128) : State :=
  asyncFault s fid (fieldOf r 77 70) (fieldOf r 69 66) (some 0) 0 0

/-- The fault of a fibre that falls due where it stands and comes before a yield or a halt (R21): a logged one in replay (R314), an
interrupt (R277), or at a clause boundary the watchdog's (R42). -/
def dueFault (s : State) (fid : Nat) (f : Fibre) : Option State :=
  match dueRecord s fid f 7 with
  | some r => if recWhat r = 0 then some (loggedFault s fid r) else none
  | none =>
    if s.replaying (s.partOf fid) then none
    else if f.intr then some (asyncFault s fid 0x0E 1 (some 0) 0 0)
    else if f.run.isNone && watchDue s fid f then some (asyncFault s fid 0x0C 0 (some 0) 0 0)
    else none

/-- A fibre of a halted partition reaches the point of R76, a clause boundary or the word it stalls at: it is Halted over the state it
returns to, and in the recording modes an ASYNC record of WHAT 3 is logged (R20, R76, R278, R302). -/
def settleHalt (s : State) (fid : Nat) : State :=
  match s.fib fid with
  | none => s
  | some f =>
    let p := s.partOf fid
    if !(s.part p).halted || atomHolds s fid || f.halted || f.sched == .frozen || f.step.isSome || !(f.run.isNone || f.wait.isSome) then s
    else
    match dueFault s fid f with
    | some s1 => s1
    | none =>
      let s1 := if s.recording p then produce (chunkEnd s fid 3 0) fid 7 f.ric.toNat (3 * 2 ^ 46) 0 else s
      let stop := fun (x : Fibre) =>
        { x with halted := true, run := none, yielded := false, wdog := if x.yielded then 0 else x.wdog, wait := if x.sched = .waiting then x.wait else none,
                 walkReq := if x.sched = .waiting then x.walkReq else [] }
      leaveSet (s1.modFib fid stop) fid

/-- Whether an operation in flight lets a halt complete: a pending signature or a message is saved with its context (R213). -/
def OpKind.savable : OpKind → Bool
  | .sign _ m => m == 0
  | .send .. => true
  | _ => false

/-- Whether every fibre of a partition is Halted or Frozen and its operations have drained (R213, R255 step 2). -/
def drained (s : State) (p : Nat) : Bool :=
  ((s.fibresOf p).all fun f => match s.fib f with
    | some x => x.halted || x.sched == .frozen
    | none => true) &&
  s.ops.all fun o => s.partOf o.fibre != p || o.kind.savable

/-- A halt completes: every dirty L1 word of the partition is written back (R231, R255 step 3). -/
def settleQuiet (s : State) (p : Nat) : State :=
  if (s.part p).halted && !(s.part p).quiet && drained s p then
    (s.coresOf p).foldl writeBackAll (s.modPart p fun t => { t with quiet := true })
  else s

/-- A fibre none of whose live lanes is free becomes Waiting whatever S holds (R20, R249); where the word just issued reached a yield
point, that is decided first, at the end of the clock. -/
def settleHeld (s : State) (fid : Nat) : State :=
  match s.fib fid with
  | none => s
  | some f =>
    if f.sched = .running && f.run.isNone && f.wait.isNone && !f.halted && f.step.isNone && !f.yielded && candidates s fid f == 0 then
      let s1 := s.modFib fid fun x => { x with wait := some .lanes }
      goWaiting s1 fid (if f.liveMask = 0 then 5 else 3)
    else s

/-- Whether a partition owns a region on a channel (R341). -/
def ownsOn (s : State) (p chan : Nat) : Bool :=
  s.hbm.regions.any fun r => r.2.getLsbD 63 && fieldOf r.2 61 59 == p &&
    (let cls := fieldOf r.2 8 0
     decide (chan / 32 / setSize cls = bitsOf cls 8 5))

/-- The first physical address of a channel: the lowest granule, or sector of a compressed page, that a region routes to it (R327, R341). -/
def chanFirst (s : State) (chan : Nat) : Nat :=
  let first := fun (r : Nat) =>
    let e := region s r
    let g := if e.getLsbD 62 then 256 else granule (fieldOf e 8 0)
    if e.getLsbD 63 then
      ((List.range (2 ^ 29 / g)).find? fun i => (placeOf s ((r * 2 ^ 29 + i * g) / 128)).chan == chan).map fun i => r * 2 ^ 29 + i * g
    else none
  ((List.range 4096).findSome? first).getD 0

/-- The SYSTEM records of channels fenced in this step; one whose ADDR lies in a confidential context's memory names it (R271, R294, R341). -/
def settleFence (s : State) : State :=
  match s.hbm.fenceDue with
  | [] => s
  | l =>
    l.foldl (fun s ch => (List.range 8).foldl (fun s p =>
      if (s.part p).cfg.getLsbD 8 && ownsOn s p ch then
        let a := chanFirst s ch
        let c := confOf s (a / 128)
        postSystem s p { cause := 0x0A, addr := a, ctx := c.getD 0 } c
      else s) s)
      { s with hbm := { s.hbm with fenceDue := [] } }

/-- Everything that follows at once from a step. -/
def settle (s : State) : State :=
  let s1 := settleFence s
  let s2 := s1.fibres.keys.foldl (fun s f =>
    settleHalt (settleHeld (wakeOne (settleCross (freeAbsent (settleBreak (settleDiverge (postDue s f) f) f) f) f) f) f) f) s1
  (List.range 8).foldl settleQuiet s2

end Sys2Proof.Machine
end

