-- ==== Sys2Proof/Machine/Perform.lean ====
section
/-!
DEFINITION. Sys2Proof/Machine/Perform.lean: performing the memory operations in flight at their points: loads, stores, atomics,
aacc, scratchpad accesses, page walks and class B results (R151, R154-R157, R161-R166, R216-R221, R257-R260, R299, R314, R315).
-/

namespace Sys2Proof.Machine

/-! ### Aborting a grid (R263, R348) -/

/-- Whether a fibre's grid is being aborted. -/
def State.aborting (s : State) (fid : Nat) : Bool := ((s.gridOf fid).bind (·.abort)).isSome

/-- The grid number of a fibre. -/
def State.gridNo (s : State) (fid : Nat) : Option Nat := (s.fib fid).bind fun f => (s.team f.team).map (·.grid)

/-- Discards the arrivals of an engine operation of an aborted grid (R263). -/
def OpKind.discard : OpKind → OpKind
  | .engine e => .engine { e with discard := true }
  | k => k

/-- Begins the abort of a grid with the STATUS its completion will carry: nothing more of it issues at clause boundaries; the
arrivals of its engine operations are discarded; an error consumed in GUARDED enters ABORTING (R263, R348). -/
def abortGrid (s : State) (gid status : Nat) : State :=
  match s.grid gid with
  | none => s
  | some g =>
    if g.abort.isSome then s else
    let s1 := s.modGrid gid fun g => { g with abort := some status }
    let s2 := if (s.part g.part).urState = .guarded && status = 0x31 then s1.modPart g.part fun t => { t with urState := .aborting } else s1
    { s2 with ops := s2.ops.map fun o =>
        if (s2.team o.team).map (·.grid) == some gid then { o with kind := o.kind.discard } else o }

/-- Poisoned data reaches a word's destination or an atomic: fault 0x0A before the fibre's next word, naming the operation's word
as origin (R151); the error is consumed by the grid (R263, R348). A Frozen fibre raises nothing more. -/
def poisonFault (s : State) (o : Op) (lanes : LaneMask) (va breg bidx : Nat) : State :=
  match s.fib o.fibre with
  | none => s
  | some f =>
    if f.sched = .frozen then s else
    let l := f.lane (lowLane (if o.lanes &&& f.liveMask = 0 then f.liveMask else o.lanes &&& f.liveMask))
    let at_ : DWord × Nat := match f.run with
      | some r => (r.addr, r.word)
      | none => (l.pc, l.word)
    let s1 := freeze s o.fibre
      { cause := 0x0A, kind := 0, clause := o.clause, word := o.word, rclause := at_.1, rword := at_.2, ricAt := some o.ric,
        lanes := lanes, addr := va, breg := breg, bidx := bidx }
      ⟨at_.1, at_.2, at_.2, at_.2, f.liveMask, true⟩ none
    match s.gridNo o.fibre with
    | some g => abortGrid s1 g 0x31
    | none => s1

/-! ### Order of operations of one fibre (R155, R157, R222) -/

/-- The memory accesses of an operation. -/
def OpKind.memAccs : OpKind → List Acc
  | .load accs _ _ _ _ _ => accs
  | .uload a _ _ _ => [a]
  | .store accs _ _ => accs
  | .atom _ _ accs _ _ _ => accs
  | .aacc _ accs _ => accs
  | _ => []

/-- The buffer side of an operation. -/
def OpKind.bufInfo : OpKind → Option BufInfo
  | .load _ b _ _ _ _ => some b
  | .uload _ b _ _ => some b
  | .store _ b _ => some b
  | .atom _ _ _ b _ _ => some b
  | .aacc _ _ b => some b
  | _ => none

/-- The lanes that an operation accesses for. -/
def OpKind.accLanes (k : OpKind) : LaneMask := maskOf fun l => k.memAccs.any fun a => a.lane == l.val

/-- The scratchpad accesses of an operation. -/
def OpKind.ldsAccs : OpKind → List Acc
  | .lds accs _ _ => accs
  | .sts accs => accs
  | _ => []

/-- Two accesses overlap. -/
def Acc.overlaps (x y : Acc) : Bool := x.home == y.home && decide (x.pa < y.pa + y.size ∧ y.pa < x.pa + x.size)

/-- An earlier operation of the same fibre to overlapping bytes has not been performed (R155, R222); in the recording and replay modes a
fibre's accesses are performed in the order of its words, so that a drop point parts them (R300). -/
def overtakes (s : State) (o : Op) : Bool :=
  let inOrder := s.recording (s.partOf o.fibre) || s.replaying (s.partOf o.fibre)
  s.ops.any fun q => q.fibre == o.fibre && decide (q.id < o.id) &&
    ((inOrder && q.kind.isMem) || q.kind.memAccs.any (fun x => o.kind.memAccs.any x.overlaps) || q.kind.ldsAccs.any fun x => o.kind.ldsAccs.any x.overlaps)

/-- An earlier memory access of the same fibre is in flight (R157). -/
def earlierMem (s : State) (o : Op) : Bool :=
  s.ops.any fun q => q.fibre == o.fibre && decide (q.id < o.id) && q.kind.isMem

/-- The lines of a list of accesses with the virtual address that touches each first, in lane order (R154). -/
def accLines (s : State) (l : List Acc) : List (Nat × Nat) :=
  l.foldl (fun r a =>
    let ln := lineOf (gaddr s a.home a.pa)
    if r.any (fun e => e.1 == ln) then r else r ++ [(ln, a.va)]) []

/-- A line of another device, in a buffer that this device may cache, is held in the state granted to it: S, or M for a write (R300, R330, R332). -/
def granted (s : State) (b : BufInfo) (ln : Nat) (write : Bool) : State :=
  if !isRemote ln || b.coh = 0 || !(groupDevs s b.sgrp).contains s.fabric.device || (s.line ln).ep.st == .writeShared then s
  else s.modLine ln fun l =>
    { l with inL3 := true, grp := b.sgrp, md := mdMake (mdPoison l.md) 0 s.fabric.device (if write then 4 else max 1 (mdState l.md)) }

/-- Advances the epoch states of an operation's lines and logs what is to be logged (R299, R300). -/
def touchLines (s : State) (o : Op) (kind : Nat) : State :=
  (accLines s o.kind.memAccs).foldl (fun s e =>
    let hit := ((s.l1 o.core e.1).valid ||| (s.l1 o.core e.1).dirty) != 0
    let s1 := (lineAccess s o.fibre o.ric.toNat e.1 e.2 kind).pmCount o.core (some (slotOf o.fibre % 4)) (if hit then 5 else 6) 1
    match o.kind.bufInfo with
    | some b => granted s1 b e.1 (kind != 0)
    | none => s1) s

/-! ### What a read sees -/

/-- The first undo entry of the epoch for a line (R349). -/
def cairnEntry (s : State) (p ln : Nat) : Option Nat :=
  (List.range ((s.part p).urTail - (s.part p).urEpst)).find? fun i =>
    s.mem.readN (undoAddr s p ((s.part p).urEpst + i)) 8 % 2 ^ 34 == ln

/-- Bytes of a line as it stood at the Cairn (R315). -/
def cairnRead (s : State) (p a n : Nat) : Nat :=
  match cairnEntry s p (lineOf a) with
  | some i => s.mem.readN (undoAddr s p ((s.part p).urEpst + i) + 16 + a % 128) n
  | none => s.mem.readN a n

/-- The team of a fibre whose global accesses are staged: its grid runs in an ordered mode (R257). -/
def stagingTeam (s : State) (fid : Nat) : Option Team :=
  if s.ordered (s.partOf fid) then (s.fib fid).bind fun f => s.team f.team else none

/-- The byte that a team of an ordered-mode grid wrote last at an address: staged, or in a word its core owns (R171, R258). -/
def Team.wrote (t : Team) (home pa : Nat) : Option Byte :=
  ((t.staged.find? fun e => e.1 == home && e.2.1 == pa).orElse fun _ => t.near.find? fun e => e.1 == home && e.2.1 == pa).map (·.2.2)

/-- A byte as a team of an ordered-mode grid sees it: its own write, else the pre-kernel image (R171, R258). -/
def imageByte (s : State) (t : Team) (home pa : Nat) : Byte :=
  match t.wrote home pa with
  | some b => b
  | none =>
    match (s.grid t.grid).bind (·.image) with
    | some m => m.read (gaddr s home pa)
    | none => s.mem.read (gaddr s home pa)

/-- n bytes as a team of an ordered-mode grid sees them. -/
def imageRead (s : State) (t : Team) (home pa : Nat) : Nat → Nat
  | 0 => 0
  | n + 1 => (imageByte s t home pa).toNat + 256 * imageRead s t home (pa + 1) n

/-- Whether, in replay, a read returns the line as it stood at the Cairn (R315), judged in the state before the access advances it. -/
def readsCairn (s : State) (o : Op) (ln va : Nat) : Bool :=
  s.replaying (s.partOf o.fibre) && (logged s o.fibre 2 o.ric.toNat (va / 128)).isNone && unseen (s.line ln).ep o.fibre

/-- Reads one access in state s, which its lines' epoch states have entered from state pre: value, poison, state. -/
def readAcc (pre s : State) (o : Op) (a : Acc) (nt : Bool) : Nat × Bool × State :=
  let ga := gaddr s a.home a.pa
  let ln := lineOf ga
  match stagingTeam s o.fibre with
  | some t =>
    let s1 := fetchLine s ln nt
    (imageRead s1 t a.home a.pa a.size, linePoison s1 ln, s1)
  | none =>
    if readsCairn pre o ln a.va then (cairnRead s (s.partOf o.fibre) ga a.size, linePoison s ln, s)
    else l1Read s (coreOf o.fibre) ga a.size nt (slicePerformed s (s.partOf o.fibre) ln)

/-- Reads the accesses of an operation in lane order: values with their poison, and the state. -/
def readAccs (pre s : State) (o : Op) (nt : Bool) : List Acc → List (Acc × Nat × Bool) × State
  | [] => ([], s)
  | a :: r =>
    let x := readAcc pre s o a nt
    let y := readAccs pre x.2.2 o nt r
    ((a, x.1, x.2.1) :: y.1, y.2)

/-! ### What a write does -/

/-- Drops bytes of a line from the L1 of a core. -/
def l1Drop (s : State) (c a n : Nat) : State :=
  let m := byteMask (a % 128) n
  let cut := fun (l : L1Line) => { l with valid := l.valid &&& ~~~ m, dirty := l.dirty &&& ~~~ m }
  s.modCore c fun k => { k with l1 := k.l1.adj (lineOf a) cut }

/-- A write of n bytes performed at the home slice: the words leave every owner record and the writing core's L1 (R216, R220). -/
def slicePut (s : State) (c a n v : Nat) : State :=
  l1Drop (homeWriteN s a n v) c a n

/-- Writes of a team without the one at an address. -/
def unstage (l : Staged) (home pa : Nat) : Staged := l.filter fun e => !(e.1 == home && e.2.1 == pa)

/-- Adds bytes to a team's staged writes, newest first, each over an earlier one (R257). -/
def stageBytes (t : Team) (home pa : Nat) : Nat → Nat → Team
  | 0, _ => t
  | n + 1, v =>
    stageBytes { t with staged := (home, pa, BitVec.ofNat 8 (v % 256)) :: unstage t.staged home pa, near := unstage t.near home pa }
      home (pa + 1) n (v / 256)

/-- Adds bytes to what a team wrote to words its core owns, each over an earlier one of its own (R258). -/
def nearBytes (t : Team) (home pa : Nat) : Nat → Nat → Team
  | 0, _ => t
  | n + 1, v =>
    nearBytes { t with near := (home, pa, BitVec.ofNat 8 (v % 256)) :: unstage t.near home pa, staged := unstage t.staged home pa }
      home (pa + 1) n (v / 256)

/-- Whether a team has needed more than its 64 staging lines, so that its writes go straight to the device (R260). -/
abbrev Team.direct (t : Team) : Bool := 64 < t.stLines.length

/-- Stages a write of an ordered-mode team, or performs it when the team writes directly (R257, R260). -/
def stageWrite (s : State) (tid : Nat) (t : Team) (home pa n v : Nat) : State :=
  let s1 := s.modTeam tid fun t => stageBytes t home pa n v
  if t.direct then homeWriteN s1 (gaddr s home pa) n v else s1

/-- A write of n bytes at an address falls under the engine operations in flight that read memory, but for those that a fibre issued after its own
write (R229). -/
def OpKind.stir (ga n : Nat) : OpKind → OpKind
  | .engine e =>
    match e.form with
    | .copy | .wbload _ => .engine { e with stirred := (ga, n) :: e.stirred }
    | _ => .engine e
  | k => k

/-- The least run of bytes that a byte mask lies in: start and length. -/
def maskSpan (mask : BitVec 128) : Nat × Nat :=
  let l := (List.range 128).filter fun i => mask.getLsbD i
  (l.headD 0, l.getLastD 0 + 1 - l.headD 0)

/-- A write, by an operation when given, of n bytes at an address of memory is made while engine operations are pending (R229). -/
def stir (s : State) (w : Option Op) (ga n : Nat) : State :=
  let after := fun (q : Op) => match w with
    | some o => o.fibre == q.fibre && decide (o.id < q.id)
    | none => false
  { s with ops := s.ops.map fun q => if after q then q else { q with kind := q.kind.stir ga n } }

/-- Writes one access of an operation to a word that the core owns at its L1, unstaged (R258). -/
def nearWrite (s : State) (o : Op) (a : Acc) (v : Nat) : State :=
  (l1Write s o.core (gaddr s a.home a.pa) a.size v).modTeam o.team fun t => nearBytes t a.home a.pa a.size v

/-- Whether core c owns every word of n bytes at an address (R220). -/
def ownsBytes (s : State) (c a n : Nat) : Bool :=
  wordMask (byteMask (a % 128) n) &&& ~~~ ownedWords s c (lineOf a) == 0

/-- Whether a scope is within a team, so that an access of it may be made in an owned word of the L1 (R164, R258). -/
abbrev nearScope (x : Scope) : Bool := x == .fibre || x == .team

/-- The scope of a release store. -/
def OpKind.relScope : OpKind → Option Scope
  | .store _ _ rel => rel
  | _ => none

/-- Writes one access of an operation. -/
def writeAcc (o : Op) (s : State) (a : Acc) : State :=
  let ga := gaddr s a.home a.pa
  let s := stir s (some o) ga a.size
  match stagingTeam s o.fibre with
  | some t =>
    if (o.kind.relScope.any nearScope) && ownsBytes s o.core ga a.size then nearWrite s o a a.data
    else stageWrite s o.team t a.home a.pa a.size a.data
  | none =>
    if slicePerformed s (s.partOf o.fibre) (lineOf ga) then slicePut (writeBack s (coreOf o.fibre) (lineOf ga)) (coreOf o.fibre) ga a.size a.data
    else l1Write s (coreOf o.fibre) ga a.size a.data

/-! ### What an operation asks of home slices (R214, R329) -/

/-- What an operation of core c asks of the home slice of a line; none where the L1, or the team's own view, serves it. -/
def opUse (s : State) (o : Op) (ln : Nat) : Option LineUse :=
  let at_ := slicePerformed s (s.partOf o.fibre) ln
  let mine := o.kind.memAccs.filter fun a => lineOf (gaddr s a.home a.pa) == ln
  let hit := fun (a : Acc) =>
    byteMask (gaddr s a.home a.pa % 128) a.size &&& ~~~ ((s.l1 o.core ln).valid ||| (s.l1 o.core ln).dirty) == 0
  match o.kind with
  | .store .. => if at_ || ((stagingTeam s o.fibre).any fun t => decide (64 < t.stLines.length)) then some (.home true) else none
  | .atom _ sc .. =>
    if nearScope sc && !at_ then
      (if mine.all fun a => ownsBytes s o.core (gaddr s a.home a.pa) a.size then none else some (.home false))
    else some (.home true)
  | .aacc .. => some (.home true)
  | _ => if (stagingTeam s o.fibre).isSome || (!at_ && mine.all hit) then none else some (.home false)

/-- The lines of core c that a release writes back (R157, R220). -/
def dirtyLines (s : State) (c : Nat) : List Nat := (s.core c).l1.keys.filter fun ln => (s.l1 c ln).dirty != 0

/-- Every request that an operation makes to a home slice of this device. -/
def opLines (s : State) (o : Op) : List (Nat × LineUse) :=
  ((accLines s o.kind.memAccs).filterMap fun e => (opUse s o e.1).map fun u => (e.1, u)) ++
    (if o.kind.relScope.any (· != Scope.fibre) then (dirtyLines s o.core).map fun ln => (ln, LineUse.home true) else [])

/-- Every line of an operation is free of a recompression hold and of a full virtual channel, in replay has its turn, and no request for it waits for
acknowledgements (R314, R329, R336, R352). -/
def linesReady (s : State) (o : Op) : Bool :=
  ((accLines s o.kind.memAccs).all fun e =>
    !pageHeld s e.1 && replayTurn s o.fibre o.ric.toNat e.1 e.2 && !(isRemote e.1 && vcFull s (linePort s e.1) 0)) &&
  (opLines s o).all fun e => isRemote e.1 || !lineWaits s e.1 (.op o.id) e.2

/-- An operation that is not ready sends out what its lines ask of copies outside (R329). -/
def askLines (s : State) (o : Op) : State :=
  (opLines s o).foldl (fun s e => if isRemote e.1 then s else askFor s e.1 (.op o.id) e.2) s

/-- Whether an operation has something to send out for its lines. -/
def mayAsk (s : State) (o : Op) : Bool :=
  (opLines s o).any fun e => !isRemote e.1 && (asker s e.1).isNone && !(asks s e.1 e.2).isEmpty

/-- The release side of a scope: dirty words are written back and registered (R157, R169, R220). -/
def releaseAt (s : State) (c : Nat) (x : Scope) : State := if x = .fibre then s else writeBackAll s c

/-- The acquire side of a scope (R157, R169, R221). -/
def acquireAt (s : State) (c : Nat) (x : Scope) : State := if x = .fibre then s else selfInvalidate s c

/-- What a fibre's release does to what is known of a write by sts (R200), or of a matrix operation's dispatch (R194). -/
def PadWrite.release (fid : Nat) (w : PadWrite) : PadWrite := if w.writer = fid || w.seen.contains fid then { w with rel := true } else w
/-- What a fibre's acquire observes of a write by sts (R200). -/
def PadWrite.acquire (fid : Nat) (w : PadWrite) : PadWrite :=
  if w.rel && !w.seen.contains fid then { w with seen := fid :: w.seen } else w
/-- A release by a fibre that knows of an operation's dispatch (R194). -/
def OpKind.noteRel (fid : Nat) : OpKind → OpKind
  | .engine e => if e.seen.contains fid then .engine { e with rel := true } else .engine e
  | k => k
/-- An acquire by a fibre observes an operation's dispatch (R194). -/
def OpKind.noteAcq (fid : Nat) : OpKind → OpKind
  | .engine e => if e.rel && !e.seen.contains fid then .engine { e with seen := fid :: e.seen } else .engine e
  | k => k

/-- A release of .team scope or wider by a fibre: what it knows may be observed (R194, R200). -/
def noteRelease (s : State) (fid : Nat) : State :=
  match s.fib fid with
  | none => s
  | some f =>
    State.modTeam { s with ops := s.ops.map fun (o : Op) => if o.team == f.team then { o with kind := o.kind.noteRel fid } else o } f.team fun t =>
      { t with unfenced := t.unfenced.map (PadWrite.release fid) }

/-- An acquire of .team scope or wider by a fibre: it observes what was released (R194, R200). -/
def noteAcquire (s : State) (fid : Nat) : State :=
  match s.fib fid with
  | none => s
  | some f =>
    State.modTeam { s with ops := s.ops.map fun (o : Op) => if o.team == f.team then { o with kind := o.kind.noteAcq fid } else o } f.team fun t =>
      { t with unfenced := t.unfenced.map (PadWrite.acquire fid) }

/-- The release side of a scope by a fibre. -/
def releaseBy (s : State) (fid : Nat) (x : Scope) : State := if x = .fibre then s else noteRelease (releaseAt s (coreOf fid) x) fid

/-- The acquire side of a scope by a fibre. -/
def acquireBy (s : State) (fid : Nat) (x : Scope) : State := if x = .fibre then s else noteAcquire (acquireAt s (coreOf fid) x) fid

/-! ### Loads -/

/-- The value a load writes, from the bytes read (R154). -/
def loadVal (k : LdKind) (x : Nat) : Nat :=
  match k with
  | .b8sx => wrapTo 32 (sgnOf 8 x)
  | .b16sx => wrapTo 32 (sgnOf 16 x)
  | _ => x

/-- Writes the results of a load-like operation: 32 bits of each lane's value per register, zero where the zero policy writes. -/
def putRegs (s : State) (fid vd : Nat) (z : LaneMask) (res : List (Nat × Nat)) : Nat → State
  | 0 => s
  | n + 1 =>
    let s1 := putRegs s fid vd z res n
    let old := readReg s1 fid (vd + n)
    writeReg s1 fid (vd + n)
      ⟨Vector.ofFn fun l =>
        match res.find? fun e => e.1 == l.val with
        | some e => BitVec.ofNat 32 (e.2 / 2 ^ (32 * n))
        | none => if inMask z l then 0 else old.vals[l], .g⟩

/-- The lanes of accesses whose data is poisoned, and the address of the lowest. -/
def poisonLanes (l : List (Acc × Nat × Bool)) : LaneMask × Nat :=
  let bad := l.filter fun e => e.2.2
  (maskOf fun i => bad.any fun e => e.1.lane == i.val, (bad.head?.map fun e => e.1.va).getD 0)

/-- Completes an operation whose data was poisoned (R151). -/
def endPoisoned (s : State) (o : Op) (bad : LaneMask × Nat) (b : BufInfo) : State :=
  poisonFault (s.endOp o true) o bad.1 bad.2 b.breg b.idx

/-- A buffer load returns (R151, R154, R157). -/
def performLoad (s : State) (o : Op) (accs : List Acc) (b : BufInfo) (k : LdKind) (vd : Nat) (z : LaneMask) (acq : Option Scope) :
    State :=
  let s0 := match acq with
    | some x => acquireAt s o.core x
    | none => s
  let r := readAccs s0 (touchLines s0 o 0) o b.nt accs
  let bad := poisonLanes r.1
  if bad.1 != 0 then endPoisoned r.2 o bad b
  else
    let s1 := (putRegs r.2 o.fibre vd z (r.1.map fun e => (e.1.lane, loadVal k e.2.1)) (ldRegs k)).endOp o false
    match acq with
    | some x => acquireBy s1 o.fibre x
    | none => s1

/-- A uniform load returns (R112). -/
def performUload (s : State) (o : Op) (a : Acc) (b : BufInfo) (sd : Nat) (div : Bool) : State :=
  let r := readAcc s (touchLines s o 0) o a b.nt
  if r.2.1 then endPoisoned r.2.2 o (o.lanes, a.va) b
  else (putS r.2.2 o.fibre sd (lowLane o.lanes).val o.ric.toNat div (BitVec.ofNat 64 r.1)).endOp o false

/-- The scratchpad lines of a list of accesses. -/
def ldsLines (l : List Acc) : List Nat := (l.map fun a => a.pa / 128).dedup

/-- Every scratchpad line of an operation has its turn in replay (R314). -/
def ldsReady (s : State) (o : Op) : Bool := (ldsLines o.kind.ldsAccs).all (replayScratch s o.fibre o.ric.toNat)

/-- Advances the epoch states of an operation's scratchpad lines (R301). -/
def touchScratch (s : State) (o : Op) (kind : Nat) : State :=
  (ldsLines o.kind.ldsAccs).foldl (fun s ln => scratchAccess s o.fibre o.ric.toNat ln kind) s

/-- Whether, in replay, a read of a scratchpad line returns zero (R315). -/
def ldsZero (s : State) (o : Op) (ln : Nat) : Bool :=
  s.replaying (s.partOf o.fibre) && (logged s o.fibre 4 o.ric.toNat ln).isNone &&
    unseen ((s.core (coreOf o.fibre)).sep.getD ln EpLine.init) o.fibre

/-- Reads n bytes of the scratchpad at address a for an operation, judged before its lines advance. -/
def padRead (s : State) (o : Op) (a n : Nat) : Nat := if ldsZero s o (a / 128) then 0 else (s.core o.core).scratch.readN a n

/-- Clocks that bank conflicts add to an access: one for each further distinct word in one bank (R160). -/
def bankClocks (accs : List Acc) : Nat :=
  let words := (accs.flatMap fun a => (List.range ((a.size + 3) / 4)).map fun i => a.pa / 4 + i).dedup
  words.length - (words.map fun w => w % 32).dedup.length

/-- A scratchpad load returns (R159, R162). -/
def performLds (s : State) (o : Op) (accs : List Acc) (vd : Nat) (z : LaneMask) : State :=
  let res := accs.map fun a => (a.lane, padRead s o a.pa a.size)
  let n := if (accs.headD ⟨0, 0, 0, 0, 0, 4, 0, 0⟩).size = 8 then 2 else 1
  (putRegs ((touchScratch s o 0).pmCount o.core none 0x0C (bankClocks accs)) o.fibre vd z res n).endOp o false

/-- LOAD_DATA_RETURN (R156): the data of a load, uld or lds arrives; not before an earlier access of the fibre to the same bytes. -/
def execLoadDataReturn (op : Nat) (s : State) : Host.Outcome State Fault Refusal :=
  event <|
    match s.op op with
    | none => s
    | some o =>
      if overtakes s o || !ldsReady s o then s else
      if !linesReady s o then askLines s o else
      ifRecorded s (s.partOf o.fibre) <|
        match o.kind with
        | .load accs b k vd z acq => performLoad s o accs b k vd z acq
        | .uload a b sd div => performUload s o a b sd div
        | .lds accs vd z => performLds s o accs vd z
        | _ => s

/-! ### Stores -/

/-- A buffer store or ust is performed (R154, R156, R157). -/
def performStore (s : State) (o : Op) (accs : List Acc) (rel : Option Scope) : State :=
  let s0 := match rel with
    | some x => releaseBy s o.fibre x
    | none => s
  let s1 := accs.foldl (writeAcc o) (touchLines s0 o 1)
  let s2 := match rel with
    | some x => releaseAt s1 o.core (if x = Scope.team then Scope.fibre else x)
    | none => s1
  s2.endOp o (accs.any fun a => lineLost s2 (lineOf (gaddr s2 a.home a.pa)))

/-- A dispatched operation that reads scratchpad bytes being written reads undefined values there (R229). -/
def OpKind.loosen (l : List (Nat × Nat)) : OpKind → OpKind
  | .engine e =>
    match e.form with
    | .mma | .accld _ | .copySt | .copyAcc => .engine { e with loose := l ++ e.loose }
    | _ => .engine e
  | k => k

/-- The operations of a core that read its scratchpad, but for those that a fibre issued after its own write, meet writes of some bytes (R229). -/
def loosenAll (s : State) (w : Op) (l : List (Nat × Nat)) : State :=
  { s with ops := s.ops.map fun q =>
      if q.core == w.core && !(q.fibre == w.fibre && decide (w.id < q.id)) then { q with kind := q.kind.loosen l } else q }

/-- A write by sts of n bytes from lo joins those that no opfence covers yet, over earlier ones of the same bytes (R200). -/
def padWrote (fid : Nat) (l : List PadWrite) (x : Nat × Nat) : List PadWrite :=
  ⟨x.1, x.2, fid, false, [], []⟩ :: l.filter fun w => !decide (x.1 ≤ w.lo ∧ w.lo + w.n ≤ x.1 + x.2)

/-- Bytes of a core's scratchpad are written without an opfence yet (R200), and under the operations dispatched there (R229). -/
def wroteScratch (s : State) (o : Op) (l : List (Nat × Nat)) : State :=
  loosenAll (s.modTeam o.team fun t => { t with unfenced := l.foldl (padWrote o.fibre) t.unfenced }) o l

/-- A scratchpad store is written into the array (R156, R162). -/
def performSts (s : State) (o : Op) (accs : List Acc) : State :=
  let s1 := wroteScratch ((touchScratch s o 1).pmCount o.core none 0x0C (bankClocks accs)) o (accs.map fun a => (a.pa, a.size))
  let s2 := s1.modCore o.core fun k => { k with scratch := accs.foldl (fun m a => m.writeN a.pa a.size a.data) k.scratch }
  s2.endOp o false

/-- STORE_PERFORMED (R156): a store is performed at its point; a release store only after every earlier access of the fibre (R157). -/
def execStorePerformed (op : Nat) (s : State) : Host.Outcome State Fault Refusal :=
  event <|
    match s.op op with
    | none => s
    | some o =>
      if overtakes s o || !ldsReady s o then s else
      if !linesReady s o then askLines s o else
      ifRecorded s (s.partOf o.fibre) <|
        match o.kind with
        | .store accs _ rel => if rel.isSome && earlierMem s o then s else performStore s o accs rel
        | .sts accs => performSts s o accs
        | _ => s

/-! ### Atomics (R164-R166) -/

/-- The new value of an atomic of n bytes (R164). -/
def atomNew (op : AtomOp) (n old x y : Nat) : Nat :=
  let w := 8 * n
  let lt := fun (a b : Nat) (sg : Bool) => if sg then decide (sgnOf w a < sgnOf w b) else decide (a < b)
  match op with
  | .add => (old + x) % 2 ^ w
  | .minSg => if lt x old true then x else old
  | .minUs => if lt x old false then x else old
  | .maxSg => if lt old x true then x else old
  | .maxUs => if lt old x false then x else old
  | .and => Nat.land old x
  | .or => Nat.lor old x
  | .xor => Nat.xor old x
  | .xchg => x
  | .cas => if old = x then y else old

/-- The word of an atomic of .fibre or .team scope is obtained in the L1 and owned (R164). -/
def ownWord (s : State) (c a n : Nat) : State :=
  if ownsBytes s c a n then s else registerWords (l1Fill s c (lineOf a) false) c (lineOf a) (wordMask (byteMask (a % 128) n))

/-- n bytes under what a team wrote itself (R258, R259): its own write, else what is given for a byte. -/
def teamBytes (t : Team) (under : Nat → Byte) (home pa : Nat) : Nat → Nat
  | 0 => 0
  | n + 1 => ((t.wrote home pa).getD (under pa)).toNat + 256 * teamBytes t under home (pa + 1) n

/-- Reads the word an atomic acts on, at its point: value, poison, state. -/
def atomRead (s : State) (o : Op) (sc : Scope) (a : Acc) : Nat × Bool × State :=
  let c := o.core
  let ga := gaddr s a.home a.pa
  let near := nearScope sc && !slicePerformed s (s.partOf o.fibre) (lineOf ga)
  match stagingTeam s o.fibre with
  | some t =>
    if near && ownsBytes s c ga a.size then
      let r := l1Read s c ga a.size false false
      (teamBytes t (fun pa => BitVec.ofNat 8 (r.1 / 2 ^ (8 * (pa - a.pa)))) a.home a.pa a.size, r.2)
    else
      let s1 := homeRead s (lineOf ga) false
      (teamBytes t (fun pa => s1.mem.read (gaddr s a.home pa)) a.home a.pa a.size, linePoison s1 (lineOf ga), s1)
  | none =>
    if near then l1Read (ownWord s c ga a.size) c ga a.size false false
    else
      let s1 := homeRead (writeBack s c (lineOf ga)) (lineOf ga) false
      (s1.mem.readN ga a.size, linePoison s1 (lineOf ga), s1)

/-- Writes the word of an atomic at its point. -/
def atomWrite (s : State) (o : Op) (sc : Scope) (a : Acc) (v : Nat) : State :=
  let c := o.core
  let ga := gaddr s a.home a.pa
  let near := nearScope sc && !slicePerformed s (s.partOf o.fibre) (lineOf ga)
  let s := stir s (some o) ga a.size
  match stagingTeam s o.fibre with
  | some t => if near && ownsBytes s c ga a.size then nearWrite s o a v else stageWrite s o.team t a.home a.pa a.size v
  | none => if near then l1Write s c ga a.size v else slicePut s c ga a.size v

/-- The lanes of an atomic in increasing order, each seeing the lanes below it: old and new values, state (R164). -/
def atomLanes (o : Op) (op : AtomOp) (sc : Scope) : List Acc → State → List (Acc × Nat × Nat) × State
  | [], s => ([], s)
  | a :: r, s =>
    let x := atomRead s o sc a
    let new := atomNew op a.size x.1 (if op = .cas then a.cmp else a.data) a.data
    let y := atomLanes o op sc r (atomWrite x.2.2 o sc a new)
    ((a, x.1, new) :: y.1, y.2)

/-- An atomic is performed; poisoned data leaves memory unchanged and faults (R151, R164). The items of its chunk are known before its lines
are logged, and then the records that waited for them are written (R302, R303). -/
def performAtom (s : State) (o : Op) (op : AtomOp) (sc : Scope) (accs : List Acc) (b : BufInfo) (vd : Nat) (z : LaneMask) : State :=
  let s0 := s.setOp { o with kind := .done }
  let t := touchLines s0 o 2
  let bad := accs.filter fun a => (atomRead t o sc a).2.1
  if !bad.isEmpty then
    endPoisoned (touchLines (noteLate s0 o.fibre) o 2) o (maskOf fun i => bad.any fun a => a.lane == i.val, (bad.head?.map (·.va)).getD 0) b
  else
    let items := fun (s : State) (e : Acc × Nat × Nat) => addItemsAt s o.fibre o.ric.toNat e.1.va e.1.size e.2.2
    let r := atomLanes o op sc accs (touchLines (noteLate ((atomLanes o op sc accs t).1.foldl items s0) o.fibre) o 2)
    let s1 := r.2.pmCount o.core (some (slotOf o.fibre % 4)) 0x0B accs.length
    (putRegs s1 o.fibre vd z (r.1.map fun e => (e.1.lane, e.2.1)) ((accs.headD ⟨0, 0, 0, 0, 0, 4, 0, 0⟩).size / 4)).endOp o false

/-- The number an aacc operand stands for (R166). -/
def aaccNum (f : AaccFmt) (x : Nat) : Num :=
  match f with
  | .f32 => decF f32 x
  | .sg => ofInt (sgnOf 32 x)
  | .e16e1 => decTap .e16e1 x
  | .e16e2 => decTap .e16e2 x
  | .e32e2 => decTap .e32e2 x
  | .f64 => decF f64 x

/-- The cores that own some words of a line write back what they hold dirty of it: an access at the home slice that is mutually scoped with
theirs sees it (R228, R333). -/
def ownersBack (s : State) (ln : Nat) (m : BitVec 32) : State :=
  ((s.line ln).own.filter fun r => r.mask &&& m != 0).foldl (fun s r => writeBack s r.core ln) s

/-- One exact addition into a W320 value in memory, at the home slice, with every access (R166, R228). -/
def accAdd (s : State) (o : Op) (ga : Nat) (p : W320) : State :=
  let s0 := ownersBack (writeBack (stir s (some o) ga 40) o.core (lineOf ga)) (lineOf ga) (wordMask (byteMask (ga % 128) 40))
  let s1 := homeRead s0 (lineOf ga) false
  slicePut s1 o.core ga 40 (wAdd (BitVec.ofNat 320 (s1.mem.readN ga 40)) p).1.toNat

/-- The home slices fetch the lines of some accesses: their errors are found (R151, R339). -/
def fetchAccs (s : State) (accs : List Acc) : State := (accLines s accs).foldl (fun s e => homeRead s e.1 false) s

/-- aacc is performed at the home slice of each lane's line (R166). -/
def performAacc (s : State) (o : Op) (f : AaccFmt) (accs : List Acc) (b : BufInfo) : State :=
  let s0 := fetchAccs (touchLines s o 2) accs
  let bad := accs.filter fun a => linePoison s0 (lineOf (gaddr s0 a.home a.pa))
  if !bad.isEmpty then
    endPoisoned s0 o (maskOf fun i => bad.any fun a => a.lane == i.val, (bad.head?.map (·.va)).getD 0) b
  else
    (accs.foldl (fun s a => accAdd s o (gaddr s a.home a.pa) (toW .rne (aaccNum f a.data)).1)
      (s0.pmCount o.core (some (slotOf o.fibre % 4)) 0x0B accs.length)).endOp o false

/-- Whether an atomic of an ordered-mode team must wait for the teams below (R259). -/
def atomHeld (s : State) (o : Op) (sc : Scope) (accs : List Acc) : Bool :=
  match stagingTeam s o.fibre with
  | some t => !lowestTeam s t &&
      !(nearScope sc && accs.all fun a => ownsBytes s o.core (gaddr s a.home a.pa) a.size)
  | none => false

/-- ATOMIC_PERFORMED (R164): an atomic or aacc is performed at its point. -/
def execAtomicPerformed (op : Nat) (s : State) : Host.Outcome State Fault Refusal :=
  event <|
    match s.op op with
    | none => s
    | some o =>
      if overtakes s o then s else
      if !linesReady s o then askLines s o else
      ifRecorded s (s.partOf o.fibre) <|
        match o.kind with
        | .atom k sc accs b vd z => if atomHeld s o sc accs then s else performAtom s o k sc accs b vd z
        | .aacc f accs b => performAacc s o f accs b
        | _ => s

/-! ### Class B results (R66, R74, R124) -/

/-- CLASS_B_COMPLETE (R124): the results are written, the flags accrue, the destinations are no longer pending. -/
def execClassBComplete (op : Nat) (s : State) : Host.Outcome State Fault Refusal :=
  event <|
    match s.op op with
    | none => s
    | some o =>
      match o.kind with
      | .classB ws fl _ div =>
        (ws.foldl (applyWrite o.fibre (lowLane o.lanes).val o.ric.toNat div) (accrue s o.fibre fl)).endOp o false
      | _ => s

/-! ### Page walks (R150, R288, R290) -/

/-- The outcome a walker returns for one page, its entries read as an acquire at .system; a leaf that serves the access enters the TLB (R288,
R290). In replay a failure already serviced without delivery stays with the walker (R314). -/
def walkOne (fid : Nat) (s : State) (r : Nat × Bool × Bool × Nat) : State :=
  let ctx := s.viOf fid
  let s := walkReads ctx r.1 s
  let w := walk s ctx r.1
  let key := r.1 / 2 ^ 16
  let keep := fun (f : Fibre) =>
    { f with walkReq := f.walkReq.filter (· != r), walkRes := (key, w) :: f.walkRes.filter fun x => x.1 != key }
  match w with
  | .ok e big =>
    match finish s w r.1 r.2.2.2 r.2.1 r.2.2.1 with
    | .ok _ => (tlbAdd s (coreOf fid) ctx r.1 e big).modFib fid keep
    | _ => s.modFib fid keep
  | .bad .. =>
    match s.fib fid with
    | some f =>
      if s.replaying (s.partOf fid) && (f.walkRes.any fun x => x.1 == key) && (asyncDue s fid).isNone then s
      else s.modFib fid keep
    | none => s

/-- PAGE_WALK_COMPLETE (R288): the walks a held word asked for return. -/
def execPageWalkComplete (fid : Nat) (s : State) : Host.Outcome State Fault Refusal :=
  event <|
    match s.fib fid with
    | none => s
    | some f => f.walkReq.foldl (walkOne fid) s

end Sys2Proof.Machine
end

