-- ==== Sys2Proof/Machine/MemInstr.lean ====
section
/-!
DEFINITION. Sys2Proof/Machine/MemInstr.lean: issuing buffer, uniform and scratchpad accesses, prefetches, atomics, aacc and
arsv: the checks of R149 in order, then an operation in flight (R112, R149-R167, R260).
-/

namespace Sys2Proof.Machine

/-! ### The checks of a buffer access (R149, R150) -/

/-- The right an access needs. -/
inductive Need where
  | read | write | atomic
  deriving DecidableEq, Repr

/-- Whether an entry grants a right. -/
def BufEntry.grants (e : BufEntry) : Need → Bool
  | .read => e.r
  | .write => e.w
  | .atomic => e.a

/-- What the checks give: a fault, pages to walk, or the accesses with their addresses. -/
inductive Checked where
  | bad (f : Flt)
  | miss (pages : List (Nat × Bool × Bool × Nat))
  | ok (accs : List Acc) (b : BufInfo)
  deriving Repr

/-- One lane of a word to be checked: lane number and offset. -/
abbrev Item := Nat × Nat

/-- The lanes of a list of items; a word that accesses once per bundle names its whole bundle. -/
def itemMask (whole : Option LaneMask) (l : List Item) : LaneMask :=
  match whole with
  | some m => m
  | none => maskOf fun i => l.any fun e => e.1 == i.val

/-- V of a buffer register (R31). -/
abbrev bregV (b : BitVec 24) : Bool := b.getLsbD 23
/-- RDO of a buffer register. -/
abbrev bregRdo (b : BitVec 24) : Bool := b.getLsbD 22
/-- NT of a buffer register. -/
abbrev bregNt (b : BitVec 24) : Bool := b.getLsbD 21
/-- INDEX of a buffer register. -/
abbrev bregIdx (b : BitVec 24) : Nat := fieldOf b 19 0

/-- Check 6 over the lanes that passed the others: the earliest outcome that any lane met (R150). -/
def checkWalk (whole : Option LaneMask) (tr : List (Item × Nat × Trans)) : Option Flt :=
  let bad := tr.filterMap fun e => match e.2.2 with
    | .bad cause sub order => some (e.1, e.2.1, cause, sub, order)
    | _ => none
  match bad with
  | [] => none
  | b0 :: rest =>
    let best := rest.foldl (fun m e => min m e.2.2.2.2) b0.2.2.2.2
    let met := bad.filter fun e => e.2.2.2.2 == best
    let low := met.headD b0
    some { cause := low.2.2.1, sub := low.2.2.2.1, lanes := itemMask whole (met.map (·.1)), addr := low.2.1 }

/-- The checks of R149 in order, for the lanes whose guard holds. -/
def bufCheck (s : State) (fid breg : Nat) (reg : BitVec 24) (whole : Option LaneMask) (items : List Item) (size align : Nat)
    (need : Need) : Checked :=
  let ctx := s.viOf fid
  let idx := bregIdx reg
  let e := bufEntry s (coreOf fid) ctx idx
  let flt := fun (cause sub : Nat) (l : List Item) (addr : Nat) =>
    Checked.bad { cause := cause, sub := sub, lanes := itemMask whole l, addr := addr, breg := breg, bidx := idx }
  match items.filter fun i => i.2 % align != 0 with
  | i :: r => flt 0x04 0 (i :: r) i.2
  | [] =>
    if !bregV reg then flt 0x06 0 items 0
    else
      match items.filter fun i => decide (e.len < i.2 + size) with
      | i :: r => flt 0x05 0 (i :: r) i.2
      | [] =>
        if !e.grants need then flt 0x06 1 items 0
        else if need != .read && bregRdo reg then flt 0x06 2 items 0
        else if e.owner != ctx then flt 0x07 0 items 0
        else
          let write := need != .read
          let tr := items.map fun i => (i, e.base + i.2, transWord s fid ctx (e.base + i.2) e.icl write false)
          match tr.filter fun t => t.2.2 == .miss with
          | t :: r => .miss ((t :: r).map fun t => (t.2.1 / 65536 * 65536, write, false, e.icl)).dedup
          | [] =>
            match checkWalk whole tr with
            | some f => .bad { f with breg := breg, bidx := idx }
            | none =>
              .ok (tr.map fun t => match t.2.2 with
                | .ok pa => ⟨t.1.1, t.1.2, t.2.1, pa, e.home, size, 0, 0⟩
                | _ => ⟨t.1.1, t.1.2, t.2.1, 0, e.home, size, 0, 0⟩) ⟨breg, idx, bregNt reg, e.coh, e.sgrp⟩

/-- A held word asks walkers for its pages (R150). -/
def askWalk (s : State) (c : Issue) (pages : List (Nat × Bool × Bool × Nat)) : State :=
  stall ((s.pmCount (coreOf c.fibre) none 9 pages.length).modFib c.fibre fun f => { f with walkReq := pages }) c .walk

/-- SETA of a clause as a flag (R69, R73). -/
def setA (hdr : Word) : Option Nat := if fieldOf hdr 15 12 < 12 then some (fieldOf hdr 15 12) else none

/-- The error bit of a flag is set (R32). -/
def flagErr (s : State) (fid : Nat) (flag : Option Nat) : State :=
  match flag with
  | some n => s.modFib fid fun f => { f with cfErr := f.cfErr ||| (1#12 <<< n) }
  | none => s

/-- A failed check raises its fault; in replay a translation or residency fault is delivered only where the log has it, else
serviced without delivery (R150, R314). No flag counts the word (R150), and SETA of a uniform word that faults finishes in error (R112;
log entry 41). -/
def checkFail (s : State) (c : Issue) (uni : Bool) (f : Flt) : State :=
  if s.replaying (s.partOf c.fibre) && (f.cause = 0x08 || f.cause = 0x09) && (asyncDue s c.fibre).isNone then
    let ric := ((s.fib c.fibre).map (·.ric)).getD 0
    let g : Flt := { f with fibre := c.fibre, clause := c.clause, word := c.word, rclause := c.clause, rword := c.first, ric := ric }
    let s1 := postSystem s (s.partOf c.fibre) { g with ctx := s.viOf c.fibre } none
    askWalk s1 c [(f.addr / 65536 * 65536, false, false, 512)]
  else
    let s1 := s.modFib c.fibre fun x => { x with walkRes := [] }
    raise (if uni then flagErr s1 c.fibre (setA c.hdr) else s1) c f

/-- The operation of the word being issued. -/
def Issue.op (c : Issue) (s : State) (f : Fibre) (kind : OpKind) : Op :=
  { id := s.nextOp, fibre := c.fibre, team := f.team, core := coreOf c.fibre, lanes := c.lanes, clause := c.clause, word := c.word,
    ric := f.ric, flag := setA c.hdr, kind := kind }

/-- A class A operation goes in flight and the word has issued (R73). -/
def issueA (s : State) (c : Issue) (f : Fibre) (kind : OpKind) : State :=
  retire ((s.addOp (c.op s f kind)).modFib c.fibre fun x => { x with walkRes := [] }) c

/-- A class A operation that completes at its issue: it counts against its flag and is done (R73). -/
def issueDone (s : State) (c : Issue) (f : Fibre) : State :=
  let o := c.op s f (.done)
  retire ((s.addOp o).endOp o false) c

/-- In the ordered modes, a staged write needs a staging line for every line it touches: stalls, or claims them (R260). -/
def claimStaging (s : State) (c : Issue) (accs : List Acc) (k : State → State) : State :=
  match stagingTeam s c.fibre, s.fib c.fibre with
  | some t, some f =>
    let new := ((accLines s accs).map (·.1)).filter fun ln => !t.stLines.contains ln
    if new.isEmpty || decide (t.stLines.length + new.length ≤ 64) then
      k (s.modTeam f.team fun t => { t with stLines := t.stLines ++ new })
    else if lowestTeam s t then
      -- the staged writes are performed and the team writes directly from now on
      let s1 := if t.direct then s else
        t.staged.foldr (fun e s => homeWriteN s (gaddr s e.1 e.2.1) 1 e.2.2.toNat) s
      k (s1.modTeam f.team fun t => { t with stLines := t.stLines ++ new })
    else stall s c .staging
  | _, _ => k s

/-- The memory requests that a core has outstanding: one for each line of each operation. -/
def coreRequests (s : State) (c : Nat) : Nat := ((s.ops.filter fun o => o.core == c).map fun o => (accLines s o.kind.memAccs).length).sum

/-- Whether a core has its 1024 memory requests outstanding (R2). -/
def coreFull (s : State) (c : Nat) : Bool := decide (1024 ≤ coreRequests s c)

/-- A buffer word: acquires of the fibre, and a core without a free request, hold it (R2, R157), then the checks, then its operation; uni marks a uld or ust. -/
def bufWordOf (uni : Bool) (s : State) (c : Issue) (f : Fibre) (breg : Nat) (whole : Option LaneMask) (items : List Item) (size align : Nat)
    (need : Need) (k : State → List Acc → BufInfo → State) : State :=
  if opsPending s c.fibre .acquires then stall s c (.ops .acquires)
  else if coreFull s (coreOf c.fibre) then stall s c (.ops .mem)
  else
    let reg := vget f.b breg 0
    match bufCheck s c.fibre breg reg whole items size align need with
    | .bad flt => checkFail s c uni flt
    | .miss pages => askWalk s c pages
    | .ok accs b => k (cacheEntry s (coreOf c.fibre) (s.viOf c.fibre) (bregIdx reg)) accs b

/-- A buffer word that is no uld or ust. -/
abbrev bufWord (s : State) (c : Issue) (f : Fibre) (breg : Nat) (whole : Option LaneMask) (items : List Item) (size align : Nat)
    (need : Need) (k : State → List Acc → BufInfo → State) : State := bufWordOf false s c f breg whole items size align need k

/-! ### Loads and stores -/

/-- The items of a bundle's active lanes, by each lane's offset. -/
def laneItems (c : Issue) (f : Fibre) (off : Fin 32 → DWord) : List Item :=
  (laneList (c.active f)).map fun l => (l.val, (off l).toNat)

/-- The offset of lane l: the vaddr pair plus imm7 times the size (R152). -/
def bufOff (s : State) (c : Issue) (a : BitVec 7) (imm : BitVec 7) (size : Nat) (l : Fin 32) : DWord :=
  readPair s c.fibre a.toNat l + BitVec.ofInt 64 (imm.toInt * (size : Int))

/-- Writes zero to the zeroed lanes of a load's registers when no lane's guard holds (R73, R86). -/
def zeroRegs (s : State) (c : Issue) (f : Fibre) (vd n : Nat) : State :=
  if c.zeroed f = 0 then s else putRegs s c.fibre vd (c.zeroed f) [] n

/-- The size in bytes of a load (R153). -/
def ldSize : LdKind → Nat
  | .b8zx => 1
  | .b8sx => 1
  | .b16zx => 2
  | .b16sx => 2
  | .b32 => 4
  | .b64 => 8
  | .b128 => 16

/-- A load word (R152-R154). -/
def loadWord (s : State) (d a : BitVec 7) (b : BitVec 4) (imm : BitVec 7) (k : LdKind) (acq : Option Scope) :
    Host.Outcome State Fault Refusal :=
  gate s { v := r2 a, d := regRange d.toNat (ldRegs k) } fun c f =>
    if c.active f = 0 then issueDone (zeroRegs s c f d.toNat (ldRegs k)) c f
    else
      bufWord s c f b.toNat none (laneItems c f (bufOff s c a imm (ldSize k))) (ldSize k) (ldSize k) .read fun s accs bi =>
        issueA s c f (.load accs bi k d.toNat (c.zeroed f) acq)

/-- The size in bytes of a store (R153). -/
def stSize : StKind → Nat
  | .b8 => 1
  | .b16 => 2
  | .b32 => 4
  | .b64 => 8
  | .b128 => 16

/-- The low n bytes of the registers from r up, in lane l. -/
def regBytes (s : State) (fid r n : Nat) (l : Fin 32) : Nat :=
  ((readLane s fid r l).toNat + (if 4 < n then (readLane s fid (r + 1) l).toNat * 2 ^ 32 else 0) +
    (if 8 < n then (readLane s fid (r + 2) l).toNat * 2 ^ 64 + (readLane s fid (r + 3) l).toNat * 2 ^ 96 else 0)) % 2 ^ (8 * n)

/-- Adds the store items of a word's accesses to its chunk's hash (R303). -/
def hashAccs (s : State) (fid : Nat) (accs : List Acc) : State := accs.foldl (fun s a => addItems s fid a.va a.size a.data) s

/-- A store word (R152-R154). -/
def storeWord (s : State) (d a : BitVec 7) (b : BitVec 4) (imm : BitVec 7) (k : StKind) (rel : Option Scope) :
    Host.Outcome State Fault Refusal :=
  let n := stSize k
  gate s { v := regRange d.toNat (max 1 (n / 4)) ++ r2 a } fun c f =>
    if c.active f = 0 then issueDone s c f
    else
      bufWord s c f b.toNat none (laneItems c f (bufOff s c a imm n)) n n .write fun s accs bi =>
        let accs := accs.map fun x => { x with data := regBytes s c.fibre d.toNat n (Fin.ofNat 32 x.lane) }
        claimStaging s c accs fun s => issueA (hashAccs s c.fibre accs) c f (.store accs bi rel)

/-- The offset of a uniform access (R112). -/
def uniOff (f : Fibre) (a : BitVec 6) (o : BitVec 8) : DWord := rdS f a + BitVec.ofInt 64 (o.toInt * 8)

/-! ### Scratchpad (R159-R161) -/

/-- The team address of lane l. -/
def ldsAddr (s : State) (c : Issue) (a : BitVec 7) (imm : BitVec 11) (size : Nat) (l : Fin 32) : Int :=
  ((readLane s c.fibre a.toNat l).toNat : Int) + imm.toInt * (size : Int)

/-- A scratchpad word: acquires hold it; alignment, bounds; absent lines hold its lanes (R157, R159, R161). -/
def ldsWord (s : State) (c : Issue) (f : Fibre) (a : BitVec 7) (imm : BitVec 11) (size : Nat) (k : List Acc → State) : State :=
  if opsPending s c.fibre .acquires then stall s c (.ops .acquires)
  else
    let t := s.team f.team
    let bytes := (t.map (·.slines)).getD 0 * 128
    let base := (t.map (·.sbase)).getD 0 * 128
    let items := (laneList (c.active f)).map fun l => (l, ldsAddr s c a imm size l)
    let flt := fun (cause : Nat) (l : List (Fin 32 × Int)) (x : Int) =>
      raise s c { cause := cause, lanes := maskOf fun i => l.any fun e => e.1 == i, addr := wrapTo 64 x }
    match items.filter fun e => e.2 % (size : Int) != 0 with
    | e :: r => flt 0x04 (e :: r) e.2
    | [] =>
      match items.filter fun e => decide (e.2 < 0 ∨ (bytes : Int) < e.2 + (size : Int)) with
      | e :: r => flt 0x05 (e :: r) e.2
      | [] =>
        let accs : List Acc := items.map fun e => ⟨e.1.val, e.2.toNat, e.2.toNat, base + e.2.toNat, 0, size, 0, 0⟩
        let gone := (s.core (coreOf c.fibre)).absent
        let lines := ldsLines accs
        if lines.any gone.contains then holdLanes s c (.absent lines) else k accs

/-- lds (R159). -/
def ldsLoad (s : State) (d a : BitVec 7) (imm : BitVec 11) (n : Nat) : Host.Outcome State Fault Refusal :=
  gate s { v := r1 a, d := regRange d.toNat n } fun c f =>
    if c.active f = 0 then issueDone (zeroRegs s c f d.toNat n) c f
    else ldsWord s c f a imm (4 * n) fun accs => issueA s c f (.lds accs d.toNat (c.zeroed f))

/-- sts (R159). -/
def stsStore (s : State) (d a : BitVec 7) (imm : BitVec 11) (n : Nat) : Host.Outcome State Fault Refusal :=
  gate s { v := regRange d.toNat n ++ r1 a } fun c f =>
    if c.active f = 0 then issueDone s c f
    else ldsWord s c f a imm (4 * n) fun accs =>
      let accs := accs.map fun x => { x with data := regBytes s c.fibre d.toNat (4 * n) (Fin.ofNat 32 x.lane) }
      issueA (accs.foldl (fun s x => addItems s c.fibre (x.va + 2 ^ 63) x.size x.data) s) c f (.sts accs)

/-! ### Atomics (R163-R167) -/

/-- An atomic word of n registers: vd the operand and the result, vc the new value of a compare-and-swap (R164). -/
def atomWord (s : State) (op : AtomOp) (n : Nat) (d a : BitVec 7) (b : BitVec 4) (sc : Scope) : Host.Outcome State Fault Refusal :=
  gate s { v := regRange d.toNat n ++ r2 a, vc := if op = .cas then n else 0 } fun c f =>
    if c.active f = 0 then issueDone (zeroRegs s c f d.toNat n) c f
    else
      bufWord s c f b.toNat none (laneItems c f (readPair s c.fibre a.toNat)) (4 * n) (4 * n) .atomic fun s accs bi =>
        let accs := accs.map fun x =>
          let l := Fin.ofNat 32 x.lane
          let v := regBytes s c.fibre d.toNat (4 * n) l
          if op = .cas then { x with cmp := v, data := regBytes s c.fibre c.vc (4 * n) l } else { x with data := v }
        claimStaging s c accs fun s => issueA s c f (.atom op sc accs bi d.toNat (c.zeroed f))

/-- The registers of an aacc operand (R166). -/
def aaccRegs : AaccFmt → Nat
  | .f64 => 2
  | .f32 | .sg | .e16e1 | .e16e2 | .e32e2 => 1

/-- The operand of an aacc as the instruction reads it (R166, R303). -/
def aaccVal (f : AaccFmt) (x : Nat) : Nat :=
  match f with
  | .e16e1 => x % 2 ^ 16
  | .e16e2 => x % 2 ^ 16
  | .f32 | .sg | .e32e2 | .f64 => x

/-- The alignment of aacc: the offset modulo 128 is 0, 40 or 80 (R166). -/
def aaccBad (i : Item) : Bool := i.2 % 128 != 0 && i.2 % 128 != 40 && i.2 % 128 != 80

/-! ### Reserved append (R167) -/

/-- The reserved-append entry that a grid's launch gives for a buffer index: its number and W (R238). -/
def appendEntry (g : Grid) (idx : Nat) : Option (Nat × Nat) :=
  (List.range (fieldOf (nth g.kdesc 1 0) 21 19)).findSome? fun j =>
    if fieldOf (nth g.args (16 + 2 * j) 0) 19 0 = idx then some (j, fieldOf (nth g.args (17 + 2 * j) 0) 31 0) else none

/-- The share of a group: its first element and length (R167). -/
def appendShare (groups g w : Nat) : Nat × Nat :=
  let q := w / groups
  (g * q, if g + 1 = groups then w - g * q else q)

/-- Reserves places for the lanes in increasing order: results, count, whether some lane got nothing (R167). -/
def appendLanes (first len : Nat) : List (Nat × Nat) → Nat → Bool → List (Nat × Nat) × Nat × Bool
  | [], n, o => ([], n, o)
  | (l, k) :: r, n, o =>
    if n + k ≤ len then
      let x := appendLanes first len r (n + k) o
      ((l, first + n) :: x.1, x.2)
    else
      let x := appendLanes first len r n true
      ((l, 2 ^ 32 - 1) :: x.1, x.2)

/-! ### The instructions -/

/-- LD_B32 (R152, R154). -/
def execLdB32 (d a : BitVec 7) (b : BitVec 4) (i : BitVec 7) (s : State) : Host.Outcome State Fault Refusal :=
  loadWord s d a b i .b32 none

/-- LD_B64 (R152, R154). -/
def execLdB64 (d a : BitVec 7) (b : BitVec 4) (i : BitVec 7) (s : State) : Host.Outcome State Fault Refusal :=
  loadWord s d a b i .b64 none

/-- LD_B128 (R152, R154). -/
def execLdB128 (d a : BitVec 7) (b : BitVec 4) (i : BitVec 7) (s : State) : Host.Outcome State Fault Refusal :=
  loadWord s d a b i .b128 none

/-- ST_B32 (R152, R154). -/
def execStB32 (d a : BitVec 7) (b : BitVec 4) (i : BitVec 7) (s : State) : Host.Outcome State Fault Refusal :=
  storeWord s d a b i .b32 none

/-- ST_B64 (R152, R154). -/
def execStB64 (d a : BitVec 7) (b : BitVec 4) (i : BitVec 7) (s : State) : Host.Outcome State Fault Refusal :=
  storeWord s d a b i .b64 none

/-- ST_B128 (R152, R154). -/
def execStB128 (d a : BitVec 7) (b : BitVec 4) (i : BitVec 7) (s : State) : Host.Outcome State Fault Refusal :=
  storeWord s d a b i .b128 none

/-- LD_EXTENDED (R153, R157): with ORD an acquire at its scope. -/
def execLdExtended (d a : BitVec 7) (b : BitVec 4) (k : LdKind) (o : Bool) (sc : Scope) (s : State) : Host.Outcome State Fault Refusal :=
  loadWord s d a b 0 k (if o then some sc else none)

/-- PF (R158): lanes that fail a check or a walk are dropped; complete when accepted, at once. DESIGN CHOICE: the checks of R149 are made with
size 1 (log entry 51); through a buffer register with NT = 1 no L3 line is allocated (log entry 52). -/
def execPf (a : BitVec 7) (b : BitVec 4) (lv : PfLevel) (s : State) : Host.Outcome State Fault Refusal :=
  gate s { v := r2 a } fun c f =>
    if opsPending s c.fibre .acquires then stall s c (.ops .acquires)
    else
      let ctx := s.viOf c.fibre
      let reg := vget f.b b.toNat 0
      let one := fun (s : State) (i : Item) =>
        let e := bufEntry s (coreOf c.fibre) ctx (bregIdx reg)
        if !bregV reg || decide (e.len < i.2 + 1) || !e.r || e.owner != ctx then s
        else
          let s1 := fillTlb s (coreOf c.fibre) ctx (e.base + i.2) e.icl false
          match transCore s1 (coreOf c.fibre) ctx (e.base + i.2) e.icl false with
          | .ok pa =>
            let ln := lineOf (gaddr s1 e.home pa)
            if lv = .l1 then l1Fill s1 (coreOf c.fibre) ln (bregNt reg) else homeRead s1 ln (bregNt reg)
          | _ => s1
      issueDone ((laneItems c f (readPair s c.fibre a.toNat)).foldl one s) c f

/-- ST_EXTENDED (R153, R157): with ORD a release at its scope. -/
def execStExtended (d a : BitVec 7) (b : BitVec 4) (k : StKind) (o : Bool) (sc : Scope) (s : State) : Host.Outcome State Fault Refusal :=
  storeWord s d a b 0 k (if o then some sc else none)

/-- LDS_B32 (R159). -/
def execLdsB32 (d a : BitVec 7) (i : BitVec 11) (s : State) : Host.Outcome State Fault Refusal :=
  ldsLoad s d a i 1

/-- LDS_B64 (R159). -/
def execLdsB64 (d a : BitVec 7) (i : BitVec 11) (s : State) : Host.Outcome State Fault Refusal :=
  ldsLoad s d a i 2

/-- STS_B32 (R159). -/
def execStsB32 (d a : BitVec 7) (i : BitVec 11) (s : State) : Host.Outcome State Fault Refusal :=
  stsStore s d a i 1

/-- STS_B64 (R159). -/
def execStsB64 (d a : BitVec 7) (i : BitVec 11) (s : State) : Host.Outcome State Fault Refusal :=
  stsStore s d a i 2

/-- ATOM_ADD_B32 (R164). -/
def execAtomAddB32 (d a : BitVec 7) (b : BitVec 4) (sc : Scope) (s : State) : Host.Outcome State Fault Refusal :=
  atomWord s .add 1 d a b sc

/-- ATOM_MIN_SG_B32 (R164). -/
def execAtomMinSgB32 (d a : BitVec 7) (b : BitVec 4) (sc : Scope) (s : State) : Host.Outcome State Fault Refusal :=
  atomWord s .minSg 1 d a b sc

/-- ATOM_MIN_US_B32 (R164). -/
def execAtomMinUsB32 (d a : BitVec 7) (b : BitVec 4) (sc : Scope) (s : State) : Host.Outcome State Fault Refusal :=
  atomWord s .minUs 1 d a b sc

/-- ATOM_MAX_SG_B32 (R164). -/
def execAtomMaxSgB32 (d a : BitVec 7) (b : BitVec 4) (sc : Scope) (s : State) : Host.Outcome State Fault Refusal :=
  atomWord s .maxSg 1 d a b sc

/-- ATOM_MAX_US_B32 (R164). -/
def execAtomMaxUsB32 (d a : BitVec 7) (b : BitVec 4) (sc : Scope) (s : State) : Host.Outcome State Fault Refusal :=
  atomWord s .maxUs 1 d a b sc

/-- ATOM_AND_B32 (R164). -/
def execAtomAndB32 (d a : BitVec 7) (b : BitVec 4) (sc : Scope) (s : State) : Host.Outcome State Fault Refusal :=
  atomWord s .and 1 d a b sc

/-- ATOM_OR_B32 (R164). -/
def execAtomOrB32 (d a : BitVec 7) (b : BitVec 4) (sc : Scope) (s : State) : Host.Outcome State Fault Refusal :=
  atomWord s .or 1 d a b sc

/-- ATOM_XOR_B32 (R164). -/
def execAtomXorB32 (d a : BitVec 7) (b : BitVec 4) (sc : Scope) (s : State) : Host.Outcome State Fault Refusal :=
  atomWord s .xor 1 d a b sc

/-- ATOM_XCHG_B32 (R164). -/
def execAtomXchgB32 (d a : BitVec 7) (b : BitVec 4) (sc : Scope) (s : State) : Host.Outcome State Fault Refusal :=
  atomWord s .xchg 1 d a b sc

/-- ATOM_CAS_B32 (R164). -/
def execAtomCasB32 (d a : BitVec 7) (b : BitVec 4) (sc : Scope) (s : State) : Host.Outcome State Fault Refusal :=
  atomWord s .cas 1 d a b sc

/-- ATOM_ADD_B64 (R164). -/
def execAtomAddB64 (d a : BitVec 7) (b : BitVec 4) (sc : Scope) (s : State) : Host.Outcome State Fault Refusal :=
  atomWord s .add 2 d a b sc

/-- ATOM_MIN_SG_B64 (R164). -/
def execAtomMinSgB64 (d a : BitVec 7) (b : BitVec 4) (sc : Scope) (s : State) : Host.Outcome State Fault Refusal :=
  atomWord s .minSg 2 d a b sc

/-- ATOM_MIN_US_B64 (R164). -/
def execAtomMinUsB64 (d a : BitVec 7) (b : BitVec 4) (sc : Scope) (s : State) : Host.Outcome State Fault Refusal :=
  atomWord s .minUs 2 d a b sc

/-- ATOM_MAX_SG_B64 (R164). -/
def execAtomMaxSgB64 (d a : BitVec 7) (b : BitVec 4) (sc : Scope) (s : State) : Host.Outcome State Fault Refusal :=
  atomWord s .maxSg 2 d a b sc

/-- ATOM_MAX_US_B64 (R164). -/
def execAtomMaxUsB64 (d a : BitVec 7) (b : BitVec 4) (sc : Scope) (s : State) : Host.Outcome State Fault Refusal :=
  atomWord s .maxUs 2 d a b sc

/-- ATOM_AND_B64 (R164). -/
def execAtomAndB64 (d a : BitVec 7) (b : BitVec 4) (sc : Scope) (s : State) : Host.Outcome State Fault Refusal :=
  atomWord s .and 2 d a b sc

/-- ATOM_OR_B64 (R164). -/
def execAtomOrB64 (d a : BitVec 7) (b : BitVec 4) (sc : Scope) (s : State) : Host.Outcome State Fault Refusal :=
  atomWord s .or 2 d a b sc

/-- ATOM_XOR_B64 (R164). -/
def execAtomXorB64 (d a : BitVec 7) (b : BitVec 4) (sc : Scope) (s : State) : Host.Outcome State Fault Refusal :=
  atomWord s .xor 2 d a b sc

/-- ATOM_XCHG_B64 (R164). -/
def execAtomXchgB64 (d a : BitVec 7) (b : BitVec 4) (sc : Scope) (s : State) : Host.Outcome State Fault Refusal :=
  atomWord s .xchg 2 d a b sc

/-- ATOM_CAS_B64 (R164). -/
def execAtomCasB64 (d a : BitVec 7) (b : BitVec 4) (sc : Scope) (s : State) : Host.Outcome State Fault Refusal :=
  atomWord s .cas 2 d a b sc

/-- ACAS_B128 (R165): one indivisible 16-byte step. -/
def execAcasB128 (d a : BitVec 7) (b : BitVec 4) (sc : Scope) (s : State) : Host.Outcome State Fault Refusal :=
  atomWord s .cas 4 d a b sc

/-- AACC (R166). -/
def execAacc (d a : BitVec 7) (b : BitVec 4) (k : AaccFmt) (s : State) : Host.Outcome State Fault Refusal :=
  gate s { v := regRange d.toNat (aaccRegs k) ++ r2 a } fun c f =>
    if c.active f = 0 then issueDone s c f
    else
      let items := laneItems c f (readPair s c.fibre a.toNat)
      match items.filter aaccBad with
      | i :: r => raise s c { cause := 0x04, lanes := itemMask none (i :: r), addr := i.2, breg := b.toNat, bidx := bregIdx (vget f.b b.toNat 0) }
      | [] =>
        bufWord s c f b.toNat none items 40 1 .atomic fun s accs bi =>
          let accs := accs.map fun x =>
            { x with data := aaccVal k (regBytes s c.fibre d.toNat (4 * aaccRegs k) (Fin.ofNat 32 x.lane)) }
          issueA (accs.foldl (fun s x => addItem s c.fibre x.va x.data) s) c f (.aacc k accs bi)

/-- ARSV (R167): depends only on the issue order of the fibre; touches no memory and completes at once. -/
def execArsv (d : BitVec 7) (b : BitVec 4) (s : State) : Host.Outcome State Fault Refusal :=
  gate s { v := r1 d } fun c f =>
    if c.active f = 0 then issueDone (zeroRegs s c f d.toNat 1) c f
    else
      let reg := vget f.b b.toNat 0
      let flt := fun (sub : Nat) => raise s c { cause := 0x06, sub := sub, lanes := c.active f, breg := b.toNat, bidx := bregIdx reg }
      if !bregV reg then flt 0
      else
        match s.gridOf c.fibre with
        | none => flt 5
        | some g =>
          match appendEntry g (bregIdx reg) with
          | none => flt 5
          | some (j, w) =>
            let sh := appendShare (max 1 (fieldOf (nth g.kdesc 1 0) 5 0)) f.group w
            let want := (laneList (c.active f)).map fun l => (l.val, (readLane s c.fibre d.toNat l).toNat)
            let r := appendLanes sh.1 sh.2 want (vget f.append j 0).toNat false
            let s1 := putRegs s c.fibre d.toNat (c.zeroed f) r.1 1
            issueDone (s1.modFib c.fibre fun x =>
              { x with append := vset x.append j (BitVec.ofNat 32 r.2.1), ovf := vset x.ovf j (vget x.ovf j false || r.2.2) }) c f

/-- ULD (R112). -/
def execUld (d a : BitVec 6) (b : BitVec 4) (o : BitVec 8) (s : State) : Host.Outcome State Fault Refusal :=
  gate s { s := [d.toNat, a.toNat] } fun c f =>
    bufWordOf true s c f b.toNat (some c.lanes) [((lowLane c.lanes).val, (uniOff f a o).toNat)] 8 8 .read fun s accs bi =>
      issueA s c f (.uload (accs.headD ⟨0, 0, 0, 0, 0, 8, 0, 0⟩) bi d.toNat c.div)

/-- UST (R112). -/
def execUst (d a : BitVec 6) (b : BitVec 4) (o : BitVec 8) (s : State) : Host.Outcome State Fault Refusal :=
  gate s { s := [d.toNat, a.toNat] } fun c f =>
    bufWordOf true s c f b.toNat (some c.lanes) [((lowLane c.lanes).val, (uniOff f a o).toNat)] 8 8 .write fun s accs bi =>
      let accs := accs.map fun x => { x with data := (rdS f d).toNat }
      claimStaging s c accs fun s => issueA (hashAccs s c.fibre accs) c f (.store accs bi none)

end Sys2Proof.Machine
end

