-- ==== Sys2Proof/Machine/System.lean ====
section
/-!
DEFINITION. Sys2Proof/Machine/System.lean: fabric messages and mailboxes, device launch, special registers, trace records, counters
and shape tags (R205-R212, R235, R236, R355-R357, R374-R379, R408, R409).
-/

namespace Sys2Proof.Machine

/-! ### Mailboxes (R355-R357, R408, R409) -/

/-- V of a mailbox. -/
abbrev Mailbox.valid (m : Mailbox) : Bool := m.cfg.getLsbD 63
/-- The owning partition of a mailbox. -/
abbrev Mailbox.part (m : Mailbox) : Nat := fieldOf m.cfg 62 60
/-- The owning context of a mailbox. -/
abbrev Mailbox.ctx (m : Mailbox) : Nat := fieldOf m.cfg 45 30
/-- The ring of a mailbox holds 2^LOG slots; values of LOG outside 4 to 20 read back as the nearer end. -/
abbrev Mailbox.size (m : Mailbox) : Nat := 2 ^ min 20 (max 4 (fieldOf m.cfg 28 24))
/-- The buffer-table index of a mailbox. -/
abbrev Mailbox.buf (m : Mailbox) : Nat := fieldOf m.cfg 19 0
/-- The messages in a mailbox's ring, modulo 2^32. -/
abbrev Mailbox.used (m : Mailbox) : Nat := (m.tail + 2 ^ 32 - m.head) % 2 ^ 32

/-- The ARRIVE records a replaying partition still awaits at a mailbox (R314, R409). -/
def arrivesFor (s : State) (p n : Nat) : List (BitVec 128) :=
  match (s.part p).replay with
  | some r => r.arrives.filter fun x => fieldOf x 68 55 == n
  | none => []

/-- Whether a message is the next that a mailbox admits: in replay, the one its log names next (R314, R409); none while a REPLAY waits for
its restore. -/
def admissibleMsg (s : State) (m : Msg) : Bool :=
  let p := (s.mbox m.mbox).part
  if (s.part p).replayDue.isSome then false
  else if !s.replaying p || (s.part p).replay.isNone then true
  else
    match arrivesFor s p m.mbox with
    | r :: _ => fieldOf r 77 69 == m.dev && fieldOf r 54 23 == m.seq && fieldOf r 22 20 == m.part
    | [] => false

/-- The admitted message is taken off the replay's list (R409). -/
def popArrive (s : State) (m : Msg) : State :=
  let p := (s.mbox m.mbox).part
  s.modPart p fun t =>
    { t with replay := t.replay.map fun r =>
        { r with arrives := match r.arrives.find? (fun x => fieldOf x 68 55 == m.mbox) with
            | some x => r.arrives.erase x
            | none => r.arrives } }

/-- The buffer-table entry of a mailbox, as the mailbox unit reads it (R281, R283, R356). -/
def mboxEntry (s : State) (n : Nat) : BufEntry := thEntry s (s.mbox n).ctx (s.mbox n).buf

/-- The offset of a slot of a mailbox's ring (R356). -/
def Mailbox.slotOff (m : Mailbox) (idx : Nat) : Nat := m.ofs.toNat + 64 * (idx % m.size)

/-- The walk for a slot of a mailbox reads its entries as an acquire at .system (R288). -/
def slotReads (s : State) (n idx : Nat) : State := walkReads (s.mbox n).ctx ((mboxEntry s n).base + (s.mbox n).slotOff idx) s

/-- The slot of the next arrival of a mailbox, translated for the mailbox unit: its address, or the cause that holds it, its subcode and
the virtual address or offset it reports (R269, R356). -/
def slotFor (s : State) (n idx : Nat) (write : Bool) : Nat ⊕ (Nat × Nat × Nat) :=
  let m := s.mbox n
  let e := mboxEntry s n
  let off := m.slotOff idx
  if e.len < off + 64 then .inr (0x05, 0, off)
  else if !(if write then e.w else e.r) then .inr (0x06, 1, 0)
  else if e.owner ≠ m.ctx then .inr (0x07, 0, 0)
  else
    match transNow s m.ctx (e.base + off) e.icl write with
    | .ok pa => .inl (gaddr s e.home pa)
    | .bad c sub _ => .inr (c, sub, e.base + off)
    | .miss => .inr (0x08, 0, e.base + off)

/-- The sender of a message learns that its mailbox has accepted it, or has turned it away: the operation of this device that sent it
ends, or an error completion goes to the device that sent it (R205, R355). -/
def endSend (s : State) (m : Msg) (err : Bool) : State :=
  match m.op with
  | some id =>
    match s.op id with
    | some o => s.endOp o err
    | none => s
  | none => if err then s.tellTo 11 m.mbox [m.dev] else s

/-- Admits a message into its mailbox's ring: the slot is written as a write at .domain, then TAIL advances (R356), and its sender has
it accepted (R205). -/
def enterRing (s : State) (m : Msg) (ga : Nat) : State :=
  let s1 := (List.range 8).foldl (fun s i => homeWriteN s (ga + 8 * i) 8 (bitsOf m.payload.toNat (64 * i + 63) (64 * i))) s
  endSend ((popArrive s1 m).modMbox m.mbox fun b =>
    { b with tail := (b.tail + 1) % 2 ^ 32, info := b.info ++ [(m.dev, m.part, m.seq)] }) m false

/-- An arrival whose slot cannot be written is held at the receiving device, with a record of the cause and no fibre posted to the
owning partition's queue; ADDR is the slot's virtual address or offset, as the cause asks (R206, R269, R356). -/
def holdArrival (s : State) (m : Msg) (c : Nat × Nat × Nat) : State :=
  let b := s.mbox m.mbox
  postSystem { s with fabric := { s.fabric with heldPage := s.fabric.heldPage ++ [m] } } b.part
    { cause := c.1, sub := c.2.1, info := m.mbox, addr := c.2.2, bidx := b.buf, ctx := b.ctx } (some b.ctx)

/-- Whether messages of a mailbox already wait at this device. -/
def waiting (s : State) (n : Nat) : Bool := (s.fabric.heldPage ++ s.fabric.overflow).any fun m => m.mbox == n

/-- A message leaves the stores of those that wait at this device. -/
def unhold (s : State) (m : Msg) : State :=
  { s with fabric := { s.fabric with
    heldPage := s.fabric.heldPage.erase m
    overflow := if s.fabric.heldPage.contains m then s.fabric.overflow else s.fabric.overflow.erase m } }

/-- Admits the waiting messages of a mailbox, oldest first, while there is room; one that waited in the overflow store and meets a
slot that cannot be written is held for its page, with its record (R206, R356). -/
def drainMbox (s : State) (n : Nat) : Nat → State
  | 0 => s
  | k + 1 =>
    match (s.fabric.heldPage ++ s.fabric.overflow).find? fun m => m.mbox == n with
    | none => s
    | some m =>
      let b := s.mbox n
      if b.size ≤ b.used then s
      else
        let s0 := slotReads s n b.tail
        match slotFor s0 n b.tail true with
        | .inr c => if s.fabric.heldPage.contains m then s else holdArrival (unhold s0 m) m c
        | .inl ga => drainMbox (enterRing (unhold s0 m) m ga) n k

/-- Admits every waiting message that can be admitted. -/
def drainAll (s : State) : State :=
  ((s.fabric.heldPage ++ s.fabric.overflow).map (·.mbox)).dedup.foldl
    (fun s n => drainMbox s n (s.fabric.heldPage.length + s.fabric.overflow.length)) s

/-- Whether a mailbox takes an arrival in no store at all: its log does not admit it, or the overflow store is full, which stops the
credits of VC 3 for every mailbox (R356, R409). -/
def turnedBack (s : State) (m : Msg) : Bool := !admissibleMsg s m || decide (256 ≤ s.fabric.overflow.length)

/-- An arrival that a mailbox takes: into its ring, behind those that wait, or held for its slot's page (R356). -/
def takeIn (s : State) (m : Msg) : State :=
  let b := s.mbox m.mbox
  if waiting s m.mbox || b.size ≤ b.used then { s with fabric := { s.fabric with overflow := s.fabric.overflow ++ [m] } }
  else
    let s0 := slotReads s m.mbox b.tail
    match slotFor s0 m.mbox b.tail true with
    | .inl ga => enterRing s0 m ga
    | .inr c => holdArrival s0 m c

/-- An arrival from another device (R355, R356, R409): refused where the mailbox is not configured; kept by its sender, with every later
one of that sender to the mailbox, where it is turned back. -/
def arrive (s : State) (m : Msg) : State :=
  if !(s.mbox m.mbox).valid then endSend s m true
  else if (s.fabric.retry.any fun x => x.mbox == m.mbox && x.dev == m.dev) || turnedBack s m then
    { s with fabric := { s.fabric with retry := s.fabric.retry ++ [m] } }
  else takeIn s m

/-- MESSAGE_ARRIVAL (R356, R409). -/
def execMessageArrival (mbox sender spart sseq : Nat) (payload : BitVec 512) (s : State) : Host.Outcome State Fault Refusal :=
  event (arrive s ⟨mbox % 2 ^ 14, sender, spart, sseq % 2 ^ 32, payload, none⟩)

/-- MAILBOX_ADMISSION_SIGNAL (R409): a mailbox of a device has admitted a further message; the messages kept for it are sent again. -/
def execMailboxAdmissionSignal (dev mbox : Nat) (s : State) : Host.Outcome State Fault Refusal :=
  event <|
    if dev ≠ s.fabric.device then s
    else
      let mine := s.fabric.retry.filter fun m => m.mbox == mbox
      mine.foldl arrive { s with fabric := { s.fabric with retry := s.fabric.retry.filter fun m => m.mbox != mbox } }

/-- Whether messages kept at their senders for a mailbox may be sent again: the next that it admits is among them and finds room (R409). -/
def resendable (s : State) (n : Nat) : Bool :=
  let b := s.mbox n
  b.valid && decide (b.used < b.size) && !waiting s n && s.fabric.retry.any fun m => m.mbox == n && !turnedBack s m

/-! ### msg.send (R205, R357) -/

/-- The key of a send count: sending partition, destination device, mailbox (R357). -/
def sendKey (p dev mbox : Nat) : Nat := (p * 512 + dev) * 16384 + mbox

/-- The payload or packet in n uniform registers from a, as one number. -/
def regsNat (f : Fibre) (a n : Nat) : Nat := (List.range n).foldr (fun i x => (f.readS (a + i)).toNat + 2 ^ 64 * x) 0

/-- MSG_SEND (R205): a release at .domain; the message leaves once the fibre's earlier accesses are performed. -/
def execMsgSend (a b : BitVec 6) (s : State) : Host.Outcome State Fault Refusal :=
  gate s { s := b.toNat :: regRange a.toNat 8 } fun c f =>
    let v := rdS f b
    if fieldOf v 63 30 ≠ 0 ∨ fieldOf v 15 9 ≠ 0 then illegal s c
    else
      let dev := fieldOf v 8 0
      let mbox := fieldOf v 29 16
      let key := sendKey (s.partOf c.fibre) dev mbox
      let seq := s.fabric.sends.getD key 0
      let s1 := { s with fabric := { s.fabric with sends := s.fabric.sends.set key ((seq + 1) % 2 ^ 32) } }
      let sum := (((List.range 8).map fun i => (f.readS (a.toNat + i)).toNat).sum + v.toNat) % 2 ^ 64
      issueA (addItem s1 c.fibre (0x31 * 256) sum) c f (.send dev mbox (BitVec.ofNat 512 (regsNat f a.toNat 8)) seq)

/-- Whether an earlier message of this device to the same mailbox has not been accepted (R353). -/
def earlierSend (s : State) (o : Op) (dev mbox : Nat) : Bool :=
  s.ops.any fun q => decide (q.id < o.id) && match q.kind with
    | .send d m _ _ => d == dev && m == mbox
    | _ => false

/-- MSG_ACCEPTED (R205, R353, R355, R356): a message of this device reaches its destination. The device's own mailbox unit takes it under
the rules of any arrival, and the send ends when it is admitted; at another device the event is the acceptance. A destination that
does not exist, or a mailbox of this device not configured, ends the send in error; a port without credits on VC 3 holds it (R352). -/
def execMsgAccepted (op : Nat) (s : State) : Host.Outcome State Fault Refusal :=
  event <|
    match s.op op with
    | none => s
    | some o =>
      match o.kind with
      | .send dev mbox payload seq =>
        if earlierMem s o || earlierSend s o dev mbox then s
        else if dev = s.fabric.device then
          let m : Msg := ⟨mbox, dev, s.partOf o.fibre, seq, payload, some op⟩
          if !(s.mbox mbox).valid then (releaseBy s o.fibre .domain).endOp o true
          else if (s.fabric.heldPage ++ s.fabric.overflow).contains m || turnedBack s m then s
          else takeIn (releaseBy s o.fibre .domain) m
        else if dev < 320 && reachable s dev && vcFull s (mboxPort s dev mbox) 3 then s
        else (releaseBy s o.fibre .domain).endOp o (dev ≥ 320 || !reachable s dev)
      | _ => s

/-- The destination turns a message of this device away: its mailbox is not configured, or was closed while it held the message
(R205, R355). -/
def sendError (s : State) (op : Nat) : State :=
  match s.op op with
  | none => s
  | some o =>
    match o.kind with
    | .send dev _ _ _ => if dev = s.fabric.device || earlierMem s o then s else s.endOp o true
    | _ => s

/-! ### msg.recv (R206, R207) -/

/-- Pops the oldest message of a mailbox: payload and information written, the pop logged; a message of another device makes the epoch need
pod-wide replay (R206, R207, R306, R323, R408). -/
def popMessage (s : State) (c : Issue) (f : Fibre) (d b n : Nat) (ga : Nat) : State :=
  let m := s.mbox n
  let i := m.info.headD (0, 0, 0)
  let s0 := homeRead (acquireBy s c.fibre .domain) (lineOf ga) false
  let data := s0.mem.readN ga 64
  let s1 := s0.modMbox n fun m => { m with head := (m.head + 1) % 2 ^ 32, pops := m.pops + 1, info := m.info.drop 1 }
  let s2 := produce s1 c.fibre 6 f.ric.toNat
    (i.1 % 512 * 2 ^ 53 + n % 2 ^ 14 * 2 ^ 39 + i.2.2 % 2 ^ 32 * 2 ^ 7 + i.2.1 % 8 * 2 ^ 4) m.pops
  let p := s.partOf c.fibre
  let s2 := if s.recording p && i.1 % 512 != s.fabric.device then s2.modPart p fun t => { t with xdev := true } else s2
  let put := fun (s : State) (r : Nat) (x : Nat) => putS s c.fibre r (lowLane c.lanes).val f.ric.toNat c.div (BitVec.ofNat 64 x)
  let s3 := (List.range 8).foldl (fun s j => put s (d + j) (data / 2 ^ (64 * j))) s2
  let s4 := put s3 b (i.1 % 512 + i.2.1 % 8 * 2 ^ 9 + i.2.2 % 2 ^ 32 * 2 ^ 32)
  issueDone s4 c f

/-- In replay, whether the next pop of a mailbox is this fibre's, as its log names it (R207). -/
def popTurn (s : State) (c : Issue) (f : Fibre) (n : Nat) : Bool :=
  if !s.replaying (s.partOf c.fibre) then true else
  match logNext s c.fibre with
  | some r => if recKind r = 6 && recRic r = f.ric.toNat && fieldOf r 68 55 = n then fieldOf r 15 0 == (s.mbox n).pops % 2 ^ 16 else true
  | none => true

/-- MSG_RECV (R206). -/
def execMsgRecv (d a b : BitVec 6) (s : State) : Host.Outcome State Fault Refusal :=
  gate s { s := b.toNat :: a.toNat :: regRange d.toNat 8 } fun c f =>
    let n := fieldOf (rdS f a) 13 0
    let m := s.mbox n
    if f.recvErr then
      let o := c.op s f .done
      retire (((s.addOp o).endOp o true).modFib c.fibre fun x => { x with recvErr := false }) c
    else if !m.valid || m.part != s.partOf c.fibre || m.ctx != s.viOf c.fibre then
      raise s c { cause := 0x06, sub := 4, lanes := c.lanes, bidx := m.buf }
    else if opsPending s c.fibre .acquires then stall s c (.ops .acquires)
    else if m.used = 0 then stall s c (.msg n)
    else if !popTurn s c f n then stall s c .replay
    else
      let reg : BitVec 24 := BitVec.ofNat 24 (2 ^ 23 + m.buf)
      let off := m.ofs.toNat + 64 * (m.head % m.size)
      match bufCheck s c.fibre 0 reg (some c.lanes) [((lowLane c.lanes).val, off)] 64 64 .read with
      | .bad flt => checkFail s c false flt
      | .miss pages => askWalk s c pages
      | .ok accs _ =>
        match accs with
        | x :: _ => popMessage s c f d.toNat b.toNat n (gaddr s x.home x.pa)
        | [] => s

/-! ### Work queues and glaunch (R208, R235, R236) -/

/-- A value v written to QDB.TAIL is taken only when it lies ahead of TAIL within 2^15 of HEAD (R236). -/
def ringBell (s : State) (q v : Nat) : State :=
  let x := s.queue q
  let w : BitVec 16 := BitVec.ofNat 16 v
  if (w - x.head).toNat ≤ 2 ^ 15 ∧ (x.tail - x.head).toNat < (w - x.head).toNat then s.modQueue q fun y => { y with tail := w } else s

/-- QDB_WRITE (R235, R236). -/
def execQdbWrite (q : Nat) (v : BitVec 64) (s : State) : Host.Outcome State Fault Refusal := event (ringBell s q (fieldOf v 15 0))

/-- A place in a queue's memory as the queue's context maps it. -/
def queuePlace (s : State) (q va : Nat) : Option Nat :=
  match transNow s (fieldOf (s.queue q).cfg 21 16) va 512 true with
  | .ok pa => some pa
  | _ => none

/-- Whether a queue is granted to a partition for device launch (R208, R235). -/
def launchable (s : State) (p q : Nat) : Bool :=
  let x := s.queue q
  x.cfg.getLsbD 25 && fieldOf (s.vi (fieldOf x.cfg 21 16)).cfg 2 0 == p

/-- GLAUNCH (R208, R236): a release at .device, then the tail reserved by an atomic, the packet written and the doorbell rung; a full
queue holds the word. A queue not granted, or whose memory is not mapped, ends the launch in error. -/
def execGlaunch (a q : BitVec 6) (s : State) : Host.Outcome State Fault Refusal :=
  gate s { s := q.toNat :: regRange a.toNat 8 } fun c f =>
    let n := fieldOf (rdS f q) 13 0
    let x := s.queue n
    let sum := (((List.range 8).map fun i => (f.readS (a.toNat + i)).toNat).sum + (rdS f q).toNat) % 2 ^ 64
    let k := coreOf c.fibre
    let ric := f.ric.toNat
    let bad := fun (s : State) =>
      let o := c.op s f .done
      retire ((addItem s c.fibre (0x38 * 256) sum).addOp o |>.endOp o true) c
    if opsPending s c.fibre .mem then stall s c (.ops .mem)
    else if !launchable s (s.partOf c.fibre) n then bad s
    else
      let st := releaseAt (virtReads s (fieldOf x.cfg 21 16) x.tailp.toNat 8) k .device
      match queuePlace st n x.tailp.toNat with
      | none => bad st
      | some tp =>
        let s0 := walkReads (fieldOf x.cfg 21 16) (x.base.toNat + 64 * (st.mem.readN tp 8 % 2 ^ fieldOf x.cfg 3 0)) st
        let i := s0.mem.readN tp 8
        if queueFull s0 n i then stall s c (.queue n)
        else
          let slot := x.base.toNat + 64 * (i % 2 ^ fieldOf x.cfg 3 0)
          match queuePlace s0 n slot with
          | none => bad s0
          | some sp =>
            if !replayTurn s c.fibre ric (lineOf tp) x.tailp.toNat || !replayTurn s c.fibre ric (lineOf sp) slot then stall s c .replay
            else
              let s1 := lineAccess s0 c.fibre ric (lineOf tp) x.tailp.toNat 2
              let s2 := lineAccess (slicePut s1 k tp 8 (i + 1)) c.fibre ric (lineOf sp) slot 1
              let s3 := (List.range 8).foldr (fun j s => slicePut s k (sp + 8 * j) 8 (f.readS (a.toNat + j)).toNat) s2
              issueDone (addItem (ringBell s3 n (i + 1)) c.fibre (0x38 * 256) sum) c f

/-! ### Special registers (R36, R209) -/

/-- The team of a fibre and its grid. -/
def placeOfFibre (s : State) (f : Fibre) : Option (Team × Grid) := (s.team f.team).bind fun t => (s.grid t.grid).map fun g => (t, g)

/-- GDIMX, GDIMY, GDIMZ of a packet (R237). -/
def gdims (g : Grid) : Nat × Nat × Nat :=
  let d := nth g.packet 1 0
  (fieldOf d 31 0, fieldOf d 47 32, fieldOf d 63 48)

/-- The special registers that the launch fixes: TEAM, CLUSTER, the coordinates and extents (R36, R242). -/
def launchReg (s : State) (f : Fibre) (i : Nat) : Nat :=
  match placeOfFibre s f with
  | none => 0
  | some (t, g) =>
    let d := gdims g
    let k := nth g.kdesc 1 0
    let x := t.index
    match i with
    | 3 => x
    | 4 => x / max 1 (fieldOf k 10 8 * (fieldOf k 7 6))
    | 6 => x % max 1 d.1
    | 7 => x / max 1 d.1 % max 1 d.2.1
    | 8 => x / max 1 d.1 / max 1 d.2.1
    | 9 => d.1
    | 10 => d.2.1
    | 11 => d.2.2
    | _ => 0

/-- The role's code (R36). -/
def Role.code : Role → Nat
  | .vector => 0
  | .copy => 1
  | .matrix => 2

/-- A special register other than LANE as the fibre reads it; GTS and CYCLE are logged reads (R36, R209). -/
def sregRead (s : State) (c : Issue) (f : Fibre) (i : Nat) : DWord × State :=
  let p := s.partOf c.fibre
  match i with
  | 0x01 => (BitVec.ofNat 64 c.fibre, s)
  | 0x02 => (BitVec.ofNat 64 f.group, s)
  | 0x05 => (BitVec.ofNat 64 (coreOf c.fibre), s)
  | 0x0C => valueRead s c.fibre 0 0 s.mgmt.gts
  | 0x0D => valueRead s c.fibre 1 0 (s.part p).cycle
  | 0x0E => (f.fpstat.setWidth 64, s)
  | 0x0F => (f.ric.setWidth 64, s)
  | 0x10 => (BitVec.ofNat 64 (s.part p).mode, s)
  | 0x11 => (BitVec.ofNat 64 f.role.code, s)
  | n => (BitVec.ofNat 64 (launchReg s f n), s)

/-- A read or write of FPSTAT waits for the fibre's flag-producing operations (R66). -/
def fpstatWait (s : State) (c : Issue) (i : BitVec 6) (k : State) : State :=
  if i = 0x0E && opsPending s c.fibre .flagging then stall s c (.ops .flagging) else k

/-- SREG_RD_VECTOR (R209): every lane of the bundle; a 64-bit register fills a pair. -/
def execSregRdVector (d : BitVec 7) (i : BitVec 6) (s : State) : Host.Outcome State Fault Refusal :=
  let wide := i = 0x0C ∨ i = 0x0D
  gate s { d := regRange d.toNat (if wide then 2 else 1) } fun c f =>
    fpstatWait s c i <|
      if i = 0 then retire (c.wr s f d.toNat .a fun l => BitVec.ofNat 32 l.val) c
      else
        let r := sregRead s c f i.toNat
        retire (if wide then c.wrP r.2 f d.toNat .u fun _ => r.1 else c.wr r.2 f d.toNat .u fun _ => r.1.setWidth 32) c

/-- SREG_RD_UNIFORM (R209): LANE reads the lowest lane of the bundle. -/
def execSregRdUniform (d i : BitVec 6) (s : State) : Host.Outcome State Fault Refusal :=
  gate s { s := [d.toNat] } fun c f =>
    fpstatWait s c i <|
      let r := if i = 0 then (BitVec.ofNat 64 (lowLane c.lanes).val, s) else sregRead s c f i.toNat
      retire (c.wrS r.2 f d.toNat r.1) c

/-- SREG_WR (R33, R209): FPSTAT; an RM of 5 to 7 or a nonzero reserved bit is illegal; logged as UWRITE of REG 64 when diverged (R306). -/
def execSregWr (a i : BitVec 6) (s : State) : Host.Outcome State Fault Refusal :=
  gate s { s := [a.toNat] } fun c f =>
    let v := fieldOf (rdS f a) 31 0
    if v / 2 ^ 12 ≠ 0 ∨ 5 ≤ v % 8 then illegal s c
    else
      fpstatWait s c i <|
        retire ((logUwrite s c.fibre 64 (lowLane c.lanes).val f.ric.toNat c.div (BitVec.ofNat 64 v)).modFib c.fibre fun x =>
          { x with fpstat := BitVec.ofNat 32 v }) c

/-! ### Trace, counters, tags (R210-R212) -/

/-- TEMIT (R210, R379): a record enters the core's FIFO of 64; a full FIFO stalls the word. -/
def execTemit (a : BitVec 6) (ch : BitVec 3) (s : State) : Host.Outcome State Fault Refusal :=
  gate s { s := [a.toNat] } fun c f =>
    let k := coreOf c.fibre
    if 64 ≤ (s.core k).fifo.length then stall s c .traceFull
    else
      let r : TraceRec := ⟨rdS f a, s.mgmt.gts, f.ric, c.fibre, ch.toNat, s.partOf c.fibre, (s.core k).emitted % 4096, s.viOf c.fibre⟩
      let s1 := s.modCore k fun x => { x with fifo := x.fifo ++ [r], emitted := x.emitted + 1 }
      retire (s1.pmCount k (some (slotOf c.fibre % 4)) 0x14 1) c

/-- The counter that ctr.rd reads: events 0 to 3, then the leaves of the core's context (R374). -/
def counterOf (s : State) (core n : Nat) : DWord :=
  if n < 4 then vget (s.core core).pmcnt n 0 else vget (s.core core).leaves (n - 4) 0

/-- CTR_RD (R211, R374): logged as VALUE of SRC 2. -/
def execCtrRd (d n : BitVec 6) (s : State) : Host.Outcome State Fault Refusal :=
  gate s { s := [d.toNat] } fun c f =>
    let r := valueRead s c.fibre 2 n.toNat (counterOf s (coreOf c.fibre) n.toNat)
    retire (c.wrS r.2 f d.toNat r.1) c

/-- Whether a value for PMCTL has a nonzero reserved bit or an unassigned event (R375, R376). -/
def pmctlBad (v : DWord) : Bool := fieldOf v 63 24 != 0 || fieldOf v 15 8 != 0 || fieldOf v 3 2 != 0 || decide (0x17 < fieldOf v 23 16)

/-- CTR_CTL (R211, R375): takes effect from the next clock, in slot order. -/
def execCtrCtl (a n : BitVec 6) (s : State) : Host.Outcome State Fault Refusal :=
  gate s { s := [a.toNat] } fun c f =>
    let v := rdS f a
    if pmctlBad v then illegal s c
    else if !(s.ctx (s.viOf c.fibre)).granted then raiseCause s c 0x06
    else retire (s.modCore (coreOf c.fibre) fun x => { x with pmNext := x.pmNext ++ [(slotOf c.fibre, n.toNat, v)] }) c

/-- The code of a tag (R27). -/
def Tag.code : Tag → Nat
  | .g => 0
  | .u => 1
  | .a => 2

/-- RTAG (R212): waits as a read of the 32 registers would; a register outside the windows reports 3. -/
def execRtag (d : BitVec 6) (g : BitVec 2) (s : State) : Host.Outcome State Fault Refusal :=
  gate s { s := [d.toNat] } fun c f =>
    let rs := regRange (32 * g.toNat) 32
    let mine := rs.filter f.hasReg
    if mine.any (s.vPending c.fibre) then stall s c (.regs mine [] [])
    else
      let code := fun (r : Nat) => if f.hasReg r then (tagOf s c.fibre r).code else 3
      let v := (List.range 32).foldr (fun i x => code (32 * g.toNat + i) + 4 * x) 0
      retire (c.wrS s f d.toNat (BitVec.ofNat 64 v)) c

end Sys2Proof.Machine
end

