-- ==== Sys2Proof/Machine/Cairn.lean ====
section
/-!
DEFINITION. Sys2Proof/Machine/Cairn.lean: kernel boundaries, Cairns and the scrubber, and what a packet at the head of a work queue
waits for (R234-R237, R246, R310-R312, R320, R321, R345-R348, R408).
-/

namespace Sys2Proof.Machine

/-! ### Grids and queues of a partition -/

/-- The grids in progress of a partition. -/
def gridsOf (s : State) (p : Nat) : AMap Grid := s.grids.filter fun e => e.2.part == p

/-- A kernel boundary: no grid of the partition runs (R311). -/
def atBoundary (s : State) (p : Nat) : Bool := (gridsOf s p).isEmpty

/-- The queue's owning virtual interface. -/
abbrev Queue.vi (q : Queue) : Nat := fieldOf q.cfg 21 16
/-- The queue's priority. -/
abbrev Queue.prio (q : Queue) : Nat := fieldOf q.cfg 10 8
/-- The slots of a queue. -/
abbrev Queue.size (q : Queue) : Nat := 2 ^ fieldOf q.cfg 3 0

/-- The partition a virtual interface is assigned to (R359). -/
abbrev Vi.part (v : Vi) : Nat := fieldOf v.cfg 2 0
/-- EN of a virtual interface. -/
abbrev Vi.en (v : Vi) : Bool := v.cfg.getLsbD 7

/-- TYPE of a packet (R237). -/
abbrev pkType (w : List DWord) : Nat := fieldOf (nth w 0 0) 7 0
/-- BAR of a packet. -/
abbrev pkBar (w : List DWord) : Bool := (nth w 0 0).getLsbD 8
/-- GUARD of a packet. -/
abbrev pkGuard (w : List DWord) : Bool := (nth w 0 0).getLsbD 9
/-- CPL of a packet. -/
abbrev pkCpl (w : List DWord) : Bool := (nth w 0 0).getLsbD 10

/-- Whether a launch of a partition is guarded: by its packet, or because the partition is one of a twin pair (R237, R320). -/
def isGuarded (s : State) (p : Nat) (w : List DWord) : Bool := pkGuard w || (s.part p).twin.isSome

/-- The virtual address of the packet at HEAD (R235). -/
def headVa (s : State) (q : Nat) : Nat := (s.queue q).base.toNat + 64 * ((s.queue q).head.toNat % (s.queue q).size)

/-- The packet at HEAD is read as an acquire at .system, and so are the entries of the walk to it (R236, R288). -/
def packetReads (s : State) (q : Nat) : State := virtReads s (s.queue q).vi (headVa s q) 64

/-- The address of the packet at HEAD, when its queue is read and a packet is announced there (R235, R236). -/
def headPlace (s : State) (q : Nat) : Option Nat :=
  let x := s.queue q
  if !x.cfg.getLsbD 24 || x.head == x.tail || !(s.vi x.vi).en then none
  else
    match transNow s x.vi (headVa s q) 512 false with
    | .ok pa => some pa
    | _ => none

/-- Eight dwords at an address. -/
def dwordsAt (s : State) (pa n : Nat) : List DWord := (List.range n).map fun i => BitVec.ofNat 64 (s.mem.readN (pa + 8 * i) 8)

/-- The packet at HEAD of a queue, once its TYPE has been written (R236). -/
def headPacket (s : State) (q : Nat) : Option (List DWord) :=
  let s := packetReads s q
  match headPlace s q with
  | some pa => if pkType (dwordsAt s pa 8) = 0 then none else some (dwordsAt s pa 8)
  | none => none

/-- Whether a virtual interface runs in its partition: in its own slices alone; one that has none waits (R253, R359). -/
def viRuns (s : State) (p v : Nat) : Bool := (s.part p).runVi == some v

/-- Whether a pod Cairn holds a partition's dispatch: its instant T has come (R322). -/
def podHolds (s : State) (p : Nat) : Bool :=
  match (s.part p).podAt with
  | some (t, _) => decide (t ≤ s.mgmt.gts.toNat)
  | none => false

/-- Trailhead places clusters, except in the last 50 us before a gang switch (R255 step 1). -/
def placesNow (s : State) (p : Nat) : Bool :=
  (s.part p).armed.all fun t => decide (s.mgmt.gts.toNat + 50000 < t)

/-- Whether a partition dispatches at all: enabled, running, no mode change pending, no Cairn or restore in hand, its compute dies on
(R234, R255, R277, R369). -/
def dispatches (s : State) (p : Nat) : Bool :=
  let t := s.part p
  decide (s.mgmt.power ≠ .ps3) && t.cfg.getLsbD 8 && !t.halted && placesNow s p && t.nextMode.isNone && t.replayDue.isNone && !podHolds s p &&
    t.urState != .aborting && t.urState != .restoring && t.urState != .failed

/-- Whether the packet at HEAD may begin dispatch but for a Cairn (R246, R311, R313, R347). -/
def mayBegin (s : State) (q : Nat) (w : List DWord) : Bool :=
  let x := s.queue q
  let p := (s.vi x.vi).part
  dispatches s p && !s.replaying p && viRuns s p x.vi && (!pkBar w || x.open_.isEmpty) &&
    (if s.recording p || isGuarded s p w then atBoundary s p
     else (gridsOf s p).all fun e => !isGuarded s p e.2.packet)

/-! ### Mode changes (R234, R311) -/

/-- At a kernel boundary a written MODE, WDLOG and QLOG take effect; leaving a recording mode ends the logs with REASON 0 (R234,
R304, R306). Entering one makes a Cairn due before the next packet. -/
def applyMode (s : State) (p : Nat) : State :=
  let t := s.part p
  let s1 := match t.nextWd with
    | some (w, q) => s.modPart p fun t => { t with wdlog := w, qlog := q, nextWd := none }
    | none => s
  match t.nextMode with
  | none => s1
  | some m =>
    let rec_ := m == 1 || m == 5
    let s2 := if s.recording p && !rec_ then flushRecorders (endLogs s1 p 0) p else s1
    s2.modPart p fun t => { t with mode := m, nextMode := none, cairnDue := t.cairnDue || rec_ }

/-- MODE_CHANGE_APPLY (R234). -/
def execModeChangeApply (part : Nat) (s : State) : Host.Outcome State Fault Refusal :=
  event <| if atBoundary s part then applyMode s part else s

/-! ### Cairns (R311, R312, R321, R345, R346, R408) -/

/-- A Cairn has been taken and no grid has begun since. -/
def freshCairn (s : State) (p : Nat) : Bool := (s.part p).cairnAt.isSome && !(s.part p).begun

/-- Whether the spacing that CSPC sets has passed since the last Cairn (R309, R311). -/
def spacingOver (s : State) (p : Nat) : Bool :=
  match (s.part p).cairnAt with
  | some t => decide (t + fieldOf (s.part p).rrctl 39 32 * 10000000 ≤ s.mgmt.gts.toNat)
  | none => true

/-- Whether a launch needs no further Cairn before it (R311, R347). -/
def cairnDone (s : State) (p : Nat) (guarded : Bool) : Bool :=
  if guarded then freshCairn s p && (s.part p).urState == .guarded
  else !s.recording p || (!(s.part p).cairnDue && (freshCairn s p || !spacingOver s p))

/-- The Cairn that some packet of the partition waits for: whether that packet is guarded. -/
def cairnWanted (s : State) (p : Nat) : Option Bool :=
  s.queues.keys.findSome? fun q =>
    if (s.vi (s.queue q).vi).part ≠ p then none
    else
      match headPacket s q with
      | some w =>
        if pkType w == 1 && mayBegin s q w && !cairnDone s p (isGuarded s p w) then some (isGuarded s p w) else none
      | none => none

/-- Whether a line of this device belongs to a partition: its region's PART (R299, R345). -/
def ownLine (s : State) (p ln : Nat) : Bool := !isRemote ln && lineRegionPart s ln == p

/-- Every line state of R299 returns to untouched, and the slots' switch counts to zero (R311 step 3). The states of other devices' lines go
with the Cairns of their own partitions: of these this device sees the pod Cairns (R322; log entry 9). -/
def clearEpochs (s : State) (p : Nat) (pod : Bool) : State :=
  let lines := s.lines.mapVals fun ln l => if ownLine s p ln || (pod && isRemote ln) then { l with ep := EpLine.init } else l
  let slots := s.slots.mapVals fun n sl => if s.coreIn p (n / 4) then { sl with switches := 0 } else sl
  { s with lines := lines, slots := slots }

/-- Every line of the partition that a host port holds is recalled (R312). -/
def recallHost (s : State) (p : Nat) : State :=
  s.lines.keys.foldl (fun s ln => if ownLine s p ln && mdState (s.md ln) == 5 then homeTakes s ln else s) s

/-- The recorders of a partition: three for each die, and Trailhead as 24 (R4, R304). -/
def recordersOf (s : State) (p : Nat) : List Nat :=
  ((List.range 24).filter fun k => (s.part p).cfg.getLsbD (k / 3)) ++ [24]

/-- HEAD and TAIL of the partition's mailboxes are saved; their pops and the partition's send counts start from zero (R357, R408). -/
def saveMboxes (s : State) (p : Nat) : State :=
  let mine := s.fabric.mboxes.filter fun e => e.2.part == p
  let s1 := s.modPart p fun t => { t with mbSaved := mine.map fun e => (e.1, (⟨e.2.head, e.2.tail, e.2.info⟩ : MbSave)) }
  { s1 with fabric := { s1.fabric with
      mboxes := s1.fabric.mboxes.mapVals fun _ m => if m.part = p then { m with pops := 0 } else m
      sends := s1.fabric.sends.filter fun e => e.1 / (512 * 16384) != p } }

/-- The ANCHOR record that opens each recorder's next page (R306, R311). -/
def anchorAll (s : State) (p : Nat) : State :=
  let r := mkRec 0xA 0x3FFF 0 ((s.part p).cairn % 2 ^ 32 * 2 ^ 30) 0
  (recordersOf s p).foldl (fun s k =>
    modRecorder s p k fun x => { x with recs := x.recs ++ [(r, s.mgmt.gts)], ended := false, first := true })
    (s.modPart p fun t => { t with lfirst := true })

/-- Opens an epoch of one partition with a Cairn number (R311, R345, R348). -/
def openEpoch (s : State) (p : Nat) (guarded : Bool) (number : Nat) : State :=
  let rec_ := s.recording p
  let s1 := (s.coresOf p).foldl writeBackAll s
  let s2 := if rec_ then flushRecorders (recallHost s1 p) p else s1
  let s3 := saveMboxes (clearEpochs s2 p (s.part p).podT2.isSome) p
  let s4 := s3.modPart p fun t =>
    { t with
      urEpoch := t.urEpoch + 1, urEpst := t.urTail, urNow := (t.urbase, t.urctl), scrubbed := false
      urState := if guarded then .guarded else if rec_ then .capture else t.urState
      rrNow := (t.rrbase, t.rrctl), rrCairn := t.rrTail, cairn := number % 2 ^ 32, ended := false, xdev := false
      launchNo := 0, begun := false, cairnAt := some s.mgmt.gts.toNat, cairnDue := false, lastRic := [] }
  if rec_ then anchorAll s4 p else s4

/-- The lines that the ending epoch of a partition wrote, from its undo entries (R321, R349). -/
def epochLines (s : State) (p : Nat) : List Nat :=
  (List.range ((s.part p).urTail - (s.part p).urEpst)).map fun i =>
    s.mem.readN (undoAddr s p ((s.part p).urEpst + i)) 8 % 2 ^ 34

/-- The first line of a TWIN buffer that the epoch wrote and whose two copies differ: its virtual address and buffer (R321). -/
def twinMismatch (s : State) (p q : Nat) : Option (Nat × Nat) :=
  let v := (s.part p).runVi.getD 0
  let w := (s.part q).runVi.getD 0
  let wrote := epochLines s p
  (List.range (2 ^ min 20 (fieldOf (s.ctx v).bt 4 0))).findSome? fun i =>
    let e := parseEntry (entryBits s v i)
    let e' := parseEntry (entryBits s w i)
    if i < 2 || !e.twin then none
    else
      (List.range ((e.len + 127) / 128)).findSome? fun k =>
        match transNow s v (e.base + 128 * k) 512 false, transNow s w (e'.base + 128 * k) 512 false with
        | .ok x, .ok y =>
          if wrote.contains (lineOf x) && memLine (homeRead s (lineOf x) false) (lineOf x) != memLine (homeRead s (lineOf y) false) (lineOf y)
          then some (e.base + 128 * k, i) else none
        | _, _ => none

/-- A twin mismatch: a record for both partitions, each for the context that runs there, both halt, and no Cairn is taken (R321). -/
def twinDiffers (s : State) (p q : Nat) (at_ : Nat × Nat) : State :=
  let post := fun (s : State) (p : Nat) =>
    let v := (s.part p).runVi.getD 0
    postSystem s p { cause := 0x0F, sub := 3, addr := at_.1, bidx := at_.2, ctx := v } (some v)
  haltMark (haltMark (post (post s p) q) p) q

/-- The twin of a primary partition. -/
def twinOf (s : State) (p : Nat) : Option Nat :=
  match (s.part p).twin with
  | some (q, false) => some q
  | _ => none

/-- Whether a partition is the twin of a pair: it takes its Cairns as it reads them in the primary's log (R320). -/
def isTwin (s : State) (p : Nat) : Bool :=
  match (s.part p).twin with
  | some (_, t) => t
  | none => false

/-- Whether a replaying partition has consumed all that it has read of its log. -/
def logsEmpty (s : State) (p : Nat) : Bool :=
  match (s.part p).replay with
  | some r => r.launches.isEmpty && r.places.isEmpty && r.logs.all fun e => e.2.isEmpty
  | none => true

/-- Whether a partition keeps records or launch copies that no page holds yet (R304). -/
def unflushed (s : State) (p : Nat) : Bool := !(s.part p).lpages.isEmpty || (s.part p).recs.any fun e => !e.2.recs.isEmpty

/-- Whether a partition can begin an epoch: at a kernel boundary, the scrub of the present one finished (R311, R346). -/
def epochReady (s : State) (p : Nat) : Bool := atBoundary s p && (s.part p).scrubbed

/-- Whether the twin of a primary has run all that the primary has recorded (R320, R321). -/
def twinThere (s : State) (p : Nat) : Bool :=
  match twinOf s p with
  | some q => !unflushed s p && decide ((s.part p).rrTail ≤ (s.part p).twpg) && atBoundary s q && logsEmpty s q
  | none => true

/-- Whether a Cairn can be taken now: at a kernel boundary, the scrub of the epoch finished (R346), and the twin as far (R321). -/
def cairnReady (s : State) (p : Nat) : Bool := epochReady s p && !isTwin s p && !s.replaying p && twinThere s p

/-- Takes a Cairn of a partition; of a twin pair once the comparator finds no difference (R311, R321). -/
def takeCairn (s : State) (p : Nat) (guarded : Bool) (number : Nat) : State :=
  match twinOf s p with
  | some q =>
    match twinMismatch s p q with
    | some at_ => twinDiffers s p q at_
    | none => openEpoch s p true number
  | none => openEpoch s p guarded number

/-- Before a Cairn of a twin pair the primary closes its pages at the boundary, so that the twin can run what they hold (R304, R320, R321). -/
def closePages (s : State) (p : Nat) : State :=
  if (twinOf s p).isSome && atBoundary s p && unflushed s p then flushRecorders s p else s

/-- The Cairn that a partition is to take at a kernel boundary, guarded or not: a packet that is about to begin dispatch needs it (R311;
log entry 38). -/
def cairnNext (s : State) (p : Nat) : Option Bool :=
  if (s.part p).halted || !(s.part p).cfg.getLsbD 8 then none else cairnWanted s p

/-- CAIRN (R311): at a kernel boundary, the Cairn that a waiting packet needs, or the one that recording takes there. -/
def execCairn (part : Nat) (s : State) : Host.Outcome State Fault Refusal :=
  event <|
    let t := s.part part
    match cairnNext s part with
    | none => s
    | some g =>
      if cairnReady s part then takeCairn s part g (t.cairn + 1)
      else closePages s part

/-- EPOCH_SCRUB (R346): every line of the partition whose EPOCH holds the coming epoch is rewritten to the past one. -/
def execEpochScrub (part : Nat) (s : State) : Host.Outcome State Fault Refusal :=
  event <|
    let e := (s.part part).urEpoch.toNat
    let scrub := fun (ln : Nat) (l : LineInfo) =>
      if !isRemote ln && lineRegionPart s ln == part && mdEpoch l.md == (e + 1) % 4 then
        { l with md := mdMake (mdPoison l.md) (e + 3) (mdOwner l.md) (mdState l.md) }
      else l
    { s with lines := s.lines.mapVals scrub }.modPart part fun t =>
      { t with scrubbed := true, urFresh := if t.urFresh = t.urEpoch + 1 then t.urEpoch + 3 else t.urFresh }

/-- SEQUENCE_EXHAUSTED (R300): a write-shared line whose next sequence number would pass 2^32 - 1 loses the Cairn of its partition. -/
def execSequenceExhausted (line : Nat) (s : State) : Host.Outcome State Fault Refusal :=
  event <|
    let p := lineRegionPart s line
    let e := (s.line line).ep
    if s.recording p && decide (e.st = .writeShared ∧ 2 ^ 32 ≤ e.seq) && !(s.part p).ended then cairnLost s p else s

/-- RECORDER_BUFFER_FREE (R304): a recorder's oldest full page is written to the ring; words stalled on it go on. -/
def execRecorderBufferFree (part rec_ : Nat) (s : State) : Host.Outcome State Fault Refusal :=
  event <|
    let s1 := if rec_ = 24 && decide (12 ≤ (s.part part).lpages.length) then appendLaunches s part else s
    if 252 ≤ (recorder s1 part rec_).recs.length then appendRecords s1 part rec_ else s1

end Sys2Proof.Machine
end

