-- ==== Sys2Proof/Machine/Coherence.lean ====
section
/-!
DEFINITION. Sys2Proof/Machine/Coherence.lean: requests of other devices and of hosts at a line's home slice, and what this device
receives about its copies (R217, R220, R293, R312, R323, R328-R331, R350, R351, R368).
-/

namespace Sys2Proof.Machine

/-! ### The home slice's decisions (R331) -/

/-- L1_EVICTION (R220): the dirty words of an evicted line are written back and registered, and the line leaves the L1. -/
def execL1Eviction (core line : Nat) (s : State) : Host.Outcome State Fault Refusal :=
  event ((writeBack s core line).modCore core fun k => { k with l1 := k.l1.del line })

/-- Whether a remote device's requests are served under R331: at COH 1 and 2, for a device of the sharing group (R330). -/
def cachedFor (s : State) (sgrp coh dev : Nat) : Bool := coh != 0 && (groupDevs s sgrp).contains dev

/-- Whether a partition's log holds another device's access to a line back: the access waits until every lower sequence number of the
line has been performed (R314, R323). order is the OP and sequence number that the requester's log gives the access. -/
def remoteTurn (s : State) (ln : Nat) (order : Option (Nat × Nat)) : Bool :=
  !s.replaying (lineRegionPart s ln) || match order with
    | some (op, seq) => turnNow (s.line ln).ep op seq
    | none => true

/-- A request of a fibre of another device advances the epoch state of a line (R299); a write-shared line leaves every L1 and makes the
epoch need pod-wide replay (R300, R323). In replay the access that a log names takes its sequence number (R314). -/
def remoteTouch (s : State) (dev fibre ln kind : Nat) (order : Option (Nat × Nat)) : State :=
  let p := lineRegionPart s ln
  let e := (s.line ln).ep
  let out := fun (s : State) => if e.st = .writeShared then s else clearCopies s ln
  match if s.replaying p then order else none with
  | some (_, seq) => (out s).modLine ln fun l => { l with ep := epLogged l.ep seq false }
  | none =>
    let r := epNext e dev (farFibre dev fibre) kind
    let s1 := s.modLine ln fun l => { l with ep := r.1 }
    match r.2 with
    | none => s1
    | some (seq, _, drop) =>
      if !(s.recording p || s.replaying p) then s1
      else
        let s2 := match drop with
          | some f => if s.recording p then dropLine s1 ln (s1.line ln).ep.vline f else s1
          | none => s1
        let s3 := (out s2).modPart p fun t => { t with xdev := true }
        if s.recording p && decide (2 ^ 32 ≤ seq) then cairnLost s3 p else s3

/-- Another device or a host takes a line: every owner record of it is dropped (R220 step 5). -/
def dropRecords (s : State) (ln : Nat) : State := s.modLine ln fun l => { l with own := [] }

/-- Device d, of the line's group, reads (R331). -/
def deviceRead (s : State) (d sgrp ln : Nat) : State :=
  let m := s.md ln
  let s1 := (gather s ln (.dev d false)).modLine ln fun l => { l with grp := sgrp }
  match mdState m with
  | 0 => s1.setMd ln d 1
  | 1 => s1.setMd ln (if mdOwner m = d then d else 0x1FF) 1
  | 2 => if mdOwner m = d then s1 else s1.setMd ln 0x1FF 1
  | 4 => if mdOwner m = d then s1 else s1.setMd ln (mdOwner m) 3
  | 5 => (if m.getLsbD 4 then snoopData s1 ln else s1).setMd ln d 1
  | _ => s1

/-- Device d, of the line's group, takes ownership (R331); the owner records of the home device's cores are dropped (R220 step 5). -/
def deviceOwn (s : State) (d sgrp ln : Nat) : State :=
  let m := s.md ln
  let s1 := dropRecords ((gather s ln (.dev d true)).modLine ln fun l => { l with grp := sgrp }) ln
  match mdState m with
  | 3 => (if mdOwner m = d then s1 else recallData s1 ln).setMd ln d 4
  | 4 => if mdOwner m = d then s1 else (recallData s1 ln).setMd ln d 4
  | 5 => (if m.getLsbD 4 then snoopData s1 ln else s1).setMd ln d 4
  | _ => s1.setMd ln d 4

/-- A write from outside the cores of bytes of a line is seen by the engine operations pending on them (R229). -/
def stirMask (s : State) (ln : Nat) (mask : BitVec 128) : State := stir s none (ln * 128 + (maskSpan mask).1) (maskSpan mask).2

/-- Bytes written at the home slice of a line whose copies outside have been settled: captured first (R345), discarded on a fenced
channel (R341), clearing POISON when whole (R339); the words leave every owner record, and engines that read them see it (R216, R229). -/
def settledWrite (s : State) (ln : Nat) (data : BitVec 1024) (mask : BitVec 128) : State :=
  if mask = 0 || fenced s ln then s
  else
    let s1 := undoCapture (stirMask s ln mask) ln
    let s2 := if mask = BitVec.allOnes 128 then s1.setPoison ln false else s1
    dropOwn (lineWrite s2 ln data mask) ln (wordMask mask)

/-- Whether a request of another device to a line of this device waits: for its page, for acknowledgements its decision needs or that an
earlier request awaits (R329, R336), or for its turn in a pod-wide replay (R323). -/
def deviceWaits (s : State) (dev line : Nat) (u : LineUse) (order : Option (Nat × Nat)) : Bool :=
  pageHeld s line || !remoteTurn s line order || lineWaits s line (.dev dev) u

/-- A request of another device is decided, or the messages that it needs go out while it waits (R329). -/
def deviceAsks (s : State) (dev line : Nat) (u : LineUse) (order : Option (Nat × Nat)) (decide_ : State → State) : State :=
  if deviceWaits s dev line u order then (if pageHeld s line || !remoteTurn s line order then s else askFor s line (.dev dev) u)
  else decide_ s

/-- COHERENCE_READ (R329-R331): a device of the group caches the line; any other, and any at COH 0, is served uncached, the metadata
unchanged. -/
def execCoherenceRead (who : Requester) (line : Nat) (via : Sharing) (s : State) : Host.Outcome State Fault Refusal :=
  event <|
    let s0 := fetchLine s line false
    if cachedFor s via.sgrp via.coh who.dev then
      deviceAsks s0 who.dev line (.dev who.dev false) who.order fun s =>
        deviceRead (remoteTouch s who.dev who.fibre line 0 who.order) who.dev via.sgrp line
    else if pageHeld s line || !remoteTurn s line who.order then s
    else remoteTouch s0 who.dev who.fibre line 0 who.order

/-- COHERENCE_OWNERSHIP (R329-R331): granted to a device of the group at COH 1 and 2. -/
def execCoherenceOwnership (who : Requester) (line : Nat) (via : Sharing) (s : State) : Host.Outcome State Fault Refusal :=
  event <|
    if !cachedFor s via.sgrp via.coh who.dev then s
    else
      deviceAsks (fetchLine s line false) who.dev line (.dev who.dev true) who.order fun s =>
        deviceOwn (remoteTouch s who.dev who.fibre line 1 who.order) who.dev via.sgrp line

/-- COHERENCE_WRITEBACK (R331): from an M owner it gives I, from an O owner S with OWNER 0x1FF; from any other device it is an uncached
write, performed at the home slice (R330). -/
def execCoherenceWriteback (who : Requester) (line : Nat) (data : BitVec 1024) (mask : BitVec 128) (s : State) :
    Host.Outcome State Fault Refusal :=
  event <|
    if pageHeld s line then s
    else
      let s1 := fetchLine s line false
      match mdState (s1.md line), mdOwner (s1.md line) == who.dev with
      | 4, true => (settledWrite s1 line data mask).setMd line 0 0
      | 3, true => (settledWrite s1 line data mask).setMd line 0x1FF 1
      | _, _ =>
        deviceAsks s1 who.dev line (.home true) who.order fun s =>
          homeWrite (stirMask (remoteTouch s who.dev who.fibre line 1 who.order) line mask) line data mask

/-- EVICTION_NOTICE (R331): an E owner's notice gives I. -/
def execEvictionNotice (dev line : Nat) (s : State) : Host.Outcome State Fault Refusal :=
  event (if mdState (s.md line) = 2 ∧ mdOwner (s.md line) = dev then s.setMd line 0 0 else s)

/-- This device's copy of a line homed on another device is dropped and acknowledged: the L3 copy with the state it was granted and the
owner records (R220 step 5); its dirty bytes have been written back. -/
def dropCopy (s : State) (home line : Nat) : State :=
  let ln := (home + 1) * 2 ^ 34 + line
  (s.modLine ln fun l => { l with md := 0, own := [], inL3 := false, dirty := false }).tellTo 3 ln [home]

/-- INVALIDATION (R330, R331): the copy is dropped, and the device acknowledges with or without one. -/
def execInvalidation (home line : Nat) (s : State) : Host.Outcome State Fault Refusal := event (dropCopy s home line)

/-- RECALL (R217, R331): the words registered to this device's cores are written back, and the copy is dropped. -/
def execRecallLine (home line : Nat) (s : State) : Host.Outcome State Fault Refusal :=
  event <|
    let ln := (home + 1) * 2 ^ 34 + line
    dropCopy (((s.line ln).own.map (·.core)).foldl (fun s c => writeBack s c ln) s) home line

/-- LOST_COPIES_NOTICE (R368): every line whose OWNER names the reset device is as if written back with nothing: M and O lines become I
with POISON set, E and S copies are removed. -/
def execLostCopiesNotice (dev : Nat) (s : State) : Host.Outcome State Fault Refusal :=
  event <|
    s.lines.keys.foldl (fun s ln =>
      let m := s.md ln
      if isRemote ln || mdOwner m != dev then s
      else if mdState m = 3 || mdState m = 4 then (s.setPoison ln true).setMd ln 0 0
      else if mdState m = 1 || mdState m = 2 then s.setMd ln 0 0
      else s) s

/-- Another device writes bytes of a line homed elsewhere, as this device is to see it: an input, since the home slice is not this
device's (R216, R223, R227; log entry 9). Its owner records for those words go, as its copies are invalidated. -/
def foreignWrite (s : State) (line : Nat) (data : BitVec 1024) (mask : BitVec 128) (poison : Bool) : State :=
  if !isRemote line then s
  else dropOwn ((lineWrite (stirMask s line mask) line data mask).setPoison line poison) line (wordMask mask)

/-- An acknowledgement of a line's messages arrives, from a device or a host port as 512 + port (R329). -/
def lineAcked (s : State) (line who : Nat) : State := s.modLine line fun l => { l with acks := l.acks.filter (· != who) }

/-! ### Hosts (R293, R312, R350, R351) -/

/-- Whether a line lies in backed device memory (R351). -/
def backed (s : State) (ln : Nat) : Bool := decide (ln * 128 < 1536 * 2 ^ 30) && (region s (ln * 128 / 2 ^ 29)).getLsbD 63

/-- A host port reads a line: it then holds it without HX (R331). -/
def hostRead (s : State) (port ln : Nat) : State :=
  let m := s.md ln
  let s1 := gather s ln (.host port false)
  match mdState m with
  | 3 => (recallData s1 ln).setMd ln port 5
  | 4 => (recallData s1 ln).setMd ln port 5
  | 5 => if m.getLsbD 4 && mdOwner m % 2 != port then (snoopData s1 ln).setMd ln port 5 else s1
  | _ => s1.setMd ln port 5

/-- A host port takes ownership of a line: it then holds it with HX (R331). -/
def hostOwn (s : State) (port ln : Nat) : State :=
  let m := s.md ln
  let s1 := gather s ln (.host port true)
  match mdState m with
  | 3 => (recallData s1 ln).setMd ln (port + 2) 5
  | 4 => (recallData s1 ln).setMd ln (port + 2) 5
  | 5 => (if mdOwner m % 2 ≠ port && m.getLsbD 4 then snoopData s1 ln else s1).setMd ln (port + 2) 5
  | _ => s1.setMd ln (port + 2) 5

/-- Whether a host's write or ownership request of a line is held: its partition runs a grid in a recording mode (R312). -/
def hostHolds (s : State) (ln : Nat) : Bool :=
  let p := lineRegionPart s ln
  s.recording p && !atBoundary s p

/-- What a host reads of one line: bytes, poison, state. -/
def hostLine (s : State) (port ln : Nat) : BitVec 1024 × Bool × State :=
  if !backed s ln then (0, true, s)
  else
    let s1 := hostRead (fetchLine s ln false) port ln
    match confOf s ln with
    | some c => (Config.lineCipher c ln (memLine s1 ln), linePoison s1 ln, s1)
    | none => (memLine s1 ln, linePoison s1 ln, s1)

/-- Whether a host's request to a line waits for its page or for acknowledgements (R329, R336). -/
def hostWaits (s : State) (port ln : Nat) (own : Bool) : Bool := backed s ln && (pageHeld s ln || lineWaits s ln (.host port) (.host port own))

/-- A host's request to a line goes on, or the messages that it needs go out while it waits (R329). -/
def hostAsks (s : State) (port ln : Nat) (own : Bool) (go : State → State) : State :=
  if !hostWaits s port ln own then go s
  else if pageHeld s ln then s
  else askFor s ln (.host port) (.host port own)

/-- HOST_MEM_READ (R351): device PA h for h at most one line from its offset; poisoned where nothing backs it, on a fenced channel or in
a poisoned line; ciphertext of a confidential line. -/
def execHostMemRead (port h len : Nat) (s : State) : Host.Outcome State Fault Refusal :=
  event <|
    let ln := lineOf h
    hostAsks s (port % 2) ln false fun s =>
      let r := hostLine s (port % 2) ln
      r.2.2.modMgmt fun m =>
        { m with hostData := (natBytes 128 r.1.toNat).drop (h % 128) |>.take len, hostPoison := r.2.1 }

/-- A host's write of bytes within one line, or its taking of the line (R331, R351): discarded with an error completion where nothing
backs the line or a confidential context's pages map it, discarded without one on a fenced channel. -/
def hostPut (s : State) (x : HeldHost) : State :=
  let ln := lineOf x.addr
  let told := fun (s : State) (bad : Bool) => s.modMgmt fun m => { m with hostError := bad }
  if !backed s ln || (confOf s ln).isSome then told s true
  else
    let s0 := told (fetchLine s ln false) false
    if fenced s0 ln then s0
    else
      let s1 := hostOwn s0 x.port ln
      if x.own then (dropRecords s1 ln).modMgmt fun m => { m with hostOwned := ln :: m.hostOwned.filter (· != ln) }
      else
        let n := min x.data.length (128 - x.addr % 128)
        settledWrite (s1.modMgmt fun m => { m with hostOwned := m.hostOwned.filter (· != ln) }) ln
          (BitVec.ofNat 1024 (bytesNat (x.data.take n) * 2 ^ (8 * (x.addr % 128)))) (byteMask (x.addr % 128) n)

/-- A host request that is held for a recorded grid, or performed once it need not wait (R312, R329). -/
def hostRequest (s : State) (x : HeldHost) : State :=
  let ln := lineOf x.addr
  if backed s ln && hostHolds s ln then s.modMgmt fun m => { m with hostHeld := m.hostHeld ++ [x] }
  else hostAsks s x.port ln true fun s => hostPut s x

/-- HOST_MEM_WRITE (R351). -/
def execHostMemWrite (port h : Nat) (data : List (BitVec 8)) (s : State) : Host.Outcome State Fault Refusal :=
  event (hostRequest s ⟨port % 2, h, data, false⟩)

/-- HOST_CACHE_OWNERSHIP (R312, R331). -/
def execHostCacheOwnership (port line : Nat) (s : State) : Host.Outcome State Fault Refusal :=
  event (hostRequest s ⟨port % 2, line * 128, [], true⟩)

/-- The host requests held for a partition are performed once its grids have completed (R312). -/
def releaseHost (s : State) (p : Nat) : State :=
  if !atBoundary s p then s
  else
    let mine := fun (x : HeldHost) => fieldOf (region s (x.addr / 2 ^ 29)) 61 59 == p
    let now := s.mgmt.hostHeld.filter mine
    now.foldl hostPut (s.modMgmt fun m => { m with hostHeld := m.hostHeld.filter fun x => !mine x })

/-- H2D_SNOOP (R350): a host's snoop of a host line that Trailhead may have cached is answered; Trailhead's accesses of host memory are
performed there at once, so it holds no bytes of its own. -/
def execH2dSnoop (port addr : Nat) (s : State) : Host.Outcome State Fault Refusal := event (s.tell 4 (addr / 64 * 2 + port % 2))

end Sys2Proof.Machine
end

