-- ==== Sys2Proof/Machine/Launch.lean ====
section
/-!
DEFINITION. Sys2Proof/Machine/Launch.lean: consuming packets, placing clusters and binding teams (R22, R24, R37, R235-R247, R308, R314).
-/

namespace Sys2Proof.Machine

/-! ### Kernel descriptors (R239) -/

/-- Dword 1 of a kernel descriptor. -/
abbrev kd1 (k : List DWord) : DWord := nth k 1 0
/-- GROUPS. -/
abbrev kGroups (k : List DWord) : Nat := fieldOf (kd1 k) 5 0
/-- CROWS. -/
abbrev kRows (k : List DWord) : Nat := fieldOf (kd1 k) 7 6
/-- CCOLS. -/
abbrev kCols (k : List DWord) : Nat := fieldOf (kd1 k) 10 8
/-- RINGS. -/
abbrev kRings (k : List DWord) : Nat := fieldOf (kd1 k) 15 11
/-- FBARS. -/
abbrev kFbars (k : List DWord) : Nat := fieldOf (kd1 k) 18 16
/-- NAPPEND. -/
abbrev kAppend (k : List DWord) : Nat := fieldOf (kd1 k) 21 19
/-- STK. -/
abbrev kStk (k : List DWord) : Bool := (kd1 k).getLsbD 22
/-- SLINES. -/
abbrev kLines (k : List DWord) : Nat := fieldOf (kd1 k) 44 32
/-- The entry of group g. -/
def kEntry (k : List DWord) (g : Nat) : Nat := (nth k (8 + g / 4) 0).toNat / 2 ^ (16 * (g % 4)) % 2 ^ 16
/-- PRIV of a group, in granules. -/
abbrev kPriv (k : List DWord) (g : Nat) : Nat := bitsOf (kEntry k g) 6 2
/-- Registers of a group's shared window. -/
def kShared (k : List DWord) (g : Nat) : Nat := nth [0, 8, 16, 32] (bitsOf (kEntry k g) 8 7) 0
/-- REGION of a group. -/
abbrev kRegion (k : List DWord) (g : Nat) : Nat := bitsOf (kEntry k g) 10 9
/-- ROLE of a group. -/
def kRole (k : List DWord) (g : Nat) : Role := nth [Role.vector, .copy, .matrix] (bitsOf (kEntry k g) 1 0) .vector
/-- Whether some group of the kernel has the matrix role. -/
def kMatrix (k : List DWord) : Bool := (List.range (kGroups k)).any fun g => kRole k g == .matrix

/-- The teams of a grid (R242). -/
def gridTeams (w : List DWord) : Nat := fieldOf (nth w 1 0) 31 0 * fieldOf (nth w 1 0) 47 32 * fieldOf (nth w 1 0) 63 48

/-! ### Slot assignment (R243, R244) -/

/-- What a slot of a core has free for a team. -/
structure SlotRoom where
  places  : List Nat
  used    : Nat
  regions : List Nat
  fbars   : List Nat
  touched : Bool
  deriving DecidableEq, Repr

/-- A slot with nothing bound. -/
def SlotRoom.empty : SlotRoom := ⟨List.range 8, 0, List.range 4, List.range 4, false⟩

/-- What slot n has free now. -/
def slotRoom (s : State) (n : Nat) : SlotRoom :=
  let sl := s.slot n
  let fs := slotFibres s n
  { places := (List.range 8).filter fun k => !fs.contains (8 * n + k)
    used := (fs.map fun f => ((s.fib f).map (·.priv / 8)).getD 0).sum + (sl.regions.toList.map fun r => if r.users.isEmpty then 0 else r.size / 8).sum
    regions := (List.range 4).filter fun r => (vget sl.regions r Region.init).users.isEmpty
    fbars := (List.range 4).filter fun b => (vget sl.fbars b FBar.init).team.isNone
    touched := false }

/-- The units of a team: groups naming one region together, every other group alone, by lowest group (R244). -/
def unitsOf (k : List DWord) : List (List Nat) :=
  (List.range (kGroups k)).foldl (fun us g =>
    if kShared k g = 0 then us ++ [[g]]
    else
      let same := fun (u : List Nat) => u.any fun h => kShared k h != 0 && kRegion k h == kRegion k g
      if us.any same then us.map fun u => if same u then u ++ [g] else u else us ++ [[g]]) []

/-- The granules of a unit (R24). -/
def unitGranules (k : List DWord) (u : List Nat) : Nat := (u.map (kPriv k)).sum + kShared k (u.headD 0) / 8

/-- Whether a unit names a shared region. -/
def unitShared (k : List DWord) (u : List Nat) : Bool := kShared k (u.headD 0) != 0

/-- Whether a slot takes a unit (R244). -/
def SlotRoom.takes (r : SlotRoom) (k : List DWord) (u : List Nat) : Bool :=
  decide (u.length ≤ r.places.length) && decide (r.used + unitGranules k u ≤ 128) &&
    (r.touched || decide (kFbars k ≤ r.fbars.length)) && (!unitShared k u || !r.regions.isEmpty)

/-- The binding of one group: group, slot of the core, place, region of the slot. -/
structure Bound where
  group  : Nat
  slot   : Nat
  place  : Nat
  region : Nat
  deriving DecidableEq, Repr

/-- Binds a unit to a slot. -/
def SlotRoom.bind (r : SlotRoom) (k : List DWord) (n : Nat) (u : List Nat) : SlotRoom × List Bound :=
  let rg := r.regions.headD 0
  ({ r with places := r.places.drop u.length, used := r.used + unitGranules k u, touched := true
            regions := if unitShared k u then r.regions.drop 1 else r.regions },
   (u.zip r.places).map fun e => ⟨e.1, n, e.2, rg⟩)

/-- The slot assignment of R244: each unit in the lowest slot that takes it; none when the core does not fit. -/
def assignUnits (k : List DWord) : List (List Nat) → List SlotRoom → Option (List Bound)
  | [], _ => some []
  | u :: us, rooms =>
    match rooms.findIdx? fun r => r.takes k u with
    | none => none
    | some n =>
      let b := (nth rooms n SlotRoom.empty).bind k n u
      (assignUnits k us (rooms.set n b.1)).map fun r => b.2 ++ r

/-- The teams bound on a core. -/
def teamsOn (s : State) (c : Nat) : AMap Team := s.teams.filter fun e => e.2.core == c && !e.2.finished

/-- The lowest contiguous run of n free scratchpad lines of a core (R243). -/
def freeRun (s : State) (c n : Nat) : Option Nat :=
  let runs := (teamsOn s c).map fun e => (e.2.sbase, e.2.slines)
  (0 :: runs.map fun r => r.1 + r.2).mergeSort.find? fun b =>
    decide (b + n ≤ 4096) && runs.all fun r => r.2 == 0 || n == 0 || decide (b + n ≤ r.1 ∨ r.1 + r.2 ≤ b)

/-- The unallocated stage rings of a core. -/
def freeRings (s : State) (c : Nat) : List Nat := (List.range 16).filter fun r => (vget (s.core c).rings r Ring.init).team.isNone

/-- How a team fits a core: its bindings and scratchpad base; none when the core does not fit (R243). -/
def coreFit (s : State) (c : Nat) (k : List DWord) : Option (List Bound × Nat) :=
  if (freeRings s c).length < kRings k || (kMatrix k && (teamsOn s c).any fun e => e.2.matrix) then none
  else
    match freeRun s c (kLines k), assignUnits k (unitsOf k) ((List.range 4).map fun n => slotRoom s (4 * c + n)) with
    | some b, some l => some (l, b)
    | _, _ => none

/-! ### Checking and consuming packets (R236-R241, R308) -/

/-- Reads n bytes at a virtual address in pieces of 64, as Trailhead does. -/
def thRead (s : State) (ctx va : Nat) : Nat → Option (List Byte)
  | 0 => some []
  | n + 1 =>
    match readVirt s ctx va 64, thRead s ctx (va + 64) n with
    | some x, some y => some (x ++ y)
    | _, _ => none

/-- The bytes of a list as dwords. -/
def toDwords (l : List Byte) : List DWord :=
  (List.range (l.length / 8)).map fun i => BitVec.ofNat 64 (bytesNat ((l.drop (8 * i)).take 8))

/-- Check 0x20 on the packet's own fields (R240). -/
def packetBad (w : List DWord) : Bool :=
  let d0 := nth w 0 0
  let t := fieldOf d0 7 0
  let cpla := !(fieldOf (nth w 6 0) 5 0 == 0)
  fieldOf d0 63 32 != 0 || fieldOf d0 31 27 != 0 || fieldOf d0 15 11 != 0 || (t != 1 && t != 2) || cpla ||
    (t == 1 && (fieldOf (nth w 1 0) 31 0 == 0 || fieldOf (nth w 1 0) 47 32 == 0 || fieldOf (nth w 1 0) 63 48 == 0 ||
      fieldOf (nth w 2 0) 5 0 != 0 || fieldOf (nth w 3 0) 5 0 != 0 || fieldOf (nth w 4 0) 15 0 != 0 ||
      fieldOf (nth w 5 0) 63 52 != 0 || fieldOf (nth w 5 0) 11 0 != 0 || nth w 7 0 != 0))

/-- Check 0x21 on a kernel descriptor (R239, R240). -/
def kdescBad (k : List DWord) : Bool :=
  let d := kd1 k
  fieldOf (nth k 0 0) 5 0 != 0 || fieldOf d 63 45 != 0 || fieldOf d 31 23 != 0 || decide (4096 < kLines k) || decide (4 < kAppend k) ||
    decide (4 < kFbars k) || decide (16 < kRings k) || kCols k == 0 || decide (6 < kCols k) || kRows k == 0 || decide (2 < kRows k) ||
    kGroups k == 0 || decide (32 < kGroups k) || ((List.range 6).any fun i => nth k (2 + i) 0 != 0) ||
    (List.range 32).any fun g =>
      if kGroups k ≤ g then kEntry k g != 0
      else bitsOf (kEntry k g) 15 11 != 0 || bitsOf (kEntry k g) 1 0 == 3 || kPriv k g == 0 || decide (16 < kPriv k g)

/-- Check 0x22: the windows of R22, and units that fit a slot (R240). -/
def windowsBad (k : List DWord) : Bool :=
  ((List.range (kGroups k)).any fun g => decide (128 < 8 * kPriv k g + kShared k g)) ||
    (unitsOf k).any fun u => decide (128 < unitGranules k u) || decide (8 < u.length) || u.any fun g => kShared k g != kShared k (u.headD 0)

/-- Check 0x23: the stack and the reserved-append entries (R238, R240). The block's reserved bytes and unused entries are not looked at
(DESIGN CHOICE, log entry 44). -/
def stackBad (s : State) (ctx : Nat) (w k args : List DWord) : Bool :=
  (kStk k && (nth w 4 0 == 0 || decide (2 ^ 20 - 9216 < fieldOf (nth w 5 0) 51 32) || fieldOf (nth w 5 0) 31 0 == 0)) ||
    (List.range (kAppend k)).any fun j =>
      let lo := nth args (16 + 2 * j) 0
      let hi := nth args (17 + 2 * j) 0
      fieldOf lo 63 20 != 0 || fieldOf hi 63 32 != 0 || fieldOf hi 31 0 == 0 || !(thEntry s ctx (fieldOf lo 19 0)).valid ||
        !(thEntry s ctx (fieldOf lo 19 0)).w

/-- Check 0x24: TPT (R240). -/
def tptBad (w k : List DWord) : Bool :=
  let t := fieldOf (nth w 0 0) 26 16
  decide (t ≤ 32 * (kGroups k - 1)) || decide (32 * kGroups k < t)

/-- Check 0x25: the team fits an empty core (R240, R243). -/
def neverFits (k : List DWord) : Bool := (assignUnits k (unitsOf k) (List.replicate 4 SlotRoom.empty)).isNone

/-- Whether a queue may be launched into by device code of a partition (R208, R235). -/
def grantsLaunch (s : State) (p : Nat) : List Nat := s.queues.keys.filter fun q => launchable s p q

/-- Check 0x26 (R240): in the ordered modes, the grid names a queue granted for device launch. What a grid names stands in its code, and the
spec does not say how Trailhead finds it there, so that is a free value of its packet and argument block (log entry 31). -/
def namesGrant (s : State) (p : Nat) (w args : List DWord) : Bool :=
  decide (4 ≤ (s.part p).mode) && (grantsLaunch s p).any fun q => Config.namesQueue (w ++ args) q

/-- What Trailhead reads of a launch packet besides itself is read as acquires: descriptor and argument block (R236, R238, R239). -/
def launchReads (s : State) (ctx : Nat) (w : List DWord) : State :=
  let far := fun (s : State) (va n : Nat) => (List.range n).foldl (fun s i => virtReads s ctx (va + 64 * i) 64) s
  if packetBad w || pkType w ≠ 1 then s else far (far s (nth w 2 0).toNat 2) (nth w 3 0).toNat 4

/-- The argument block of a launch packet (R238); none when it cannot be read. -/
def argsOf (s : State) (ctx : Nat) (w : List DWord) : Option (List DWord) :=
  if packetBad w || pkType w ≠ 1 then none else (thRead s ctx (nth w 3 0).toNat 4).map toDwords

/-- The checks of R240 in order on a launch packet of a partition with its argument block: its code (0 when it passes), argument block
and descriptor. -/
def checkPacket (s : State) (p ctx : Nat) (w : List DWord) (args : Option (List DWord)) : Nat × List DWord × List DWord :=
  if packetBad w then (0x20, [], [])
  else if pkType w = 2 then (0, [], [])
  else
    match thRead s ctx (nth w 2 0).toNat 2, args with
    | some kb, some a =>
      let k := toDwords kb
      (if kdescBad k then 0x21 else if windowsBad k then 0x22 else if stackBad s ctx w k a then 0x23 else if tptBad w k then 0x24
       else if neverFits k then 0x25 else if namesGrant s p w a then 0x26 else 0, a, k)
    | _, _ => (0x20, [], [])

/-- The eight dwords of a completion entry of a packet that ran nothing (R241). -/
def shortEntry (status : Nat) : List DWord := BitVec.ofNat 64 status :: List.replicate 7 0

/-- Writes a completion entry, when CPL = 1 and CPLA is a multiple of 64; a failed translation posts a SYSTEM record, to the context's own
queue where the context is confidential (R241, R271). -/
def writeCompletion (s : State) (p ctx : Nat) (w entry : List DWord) : State :=
  let a := (nth w 6 0).toNat
  if !pkCpl w || a % 64 ≠ 0 then s
  else
    let s0 := walkReads ctx a s
    match transNow s0 ctx a 512 true with
    | .ok pa => (List.range 8).foldl (fun s i => homeWriteN s (pa + 8 * i) 8 (nth entry i 0).toNat) s0
    | .bad cause sub _ => postSystem s0 p { cause := cause, sub := sub, addr := a, ctx := ctx } (some ctx)
    | .miss => s0

/-- Consuming the packet at HEAD: TYPE := 0x00 and HEAD advances (R236). -/
def takePacket (s : State) (q pa : Nat) : State :=
  (homeWriteN s pa 1 0).modQueue q fun x => { x with head := x.head + 1 }

/-- The launch page entry of a consumed packet; without an argument block its bytes are zero (R308). -/
def launchEntry (s : State) (p q : Nat) (w args : List DWord) : List Byte :=
  natBytes 2 (s.part p).launchNo ++ natBytes 2 q ++ natBytes 4 0 ++ natBytes 8 s.mgmt.gts.toNat ++
    (w ++ (args ++ List.replicate 32 0).take 32).flatMap fun d => natBytes 8 d.toNat

/-- Every packet consumed takes a launch number, and in a recording mode a launch page entry (R308). -/
def noteLaunch (s : State) (p q : Nat) (w args : List DWord) : State :=
  s.modPart p fun t =>
    { t with launchNo := t.launchNo + 1, lpages := if s.recording p then t.lpages ++ [launchEntry s p q w args] else t.lpages }

/-- A grid as it begins (R241, R257, R258): in an ordered mode the pre-kernel image is kept. -/
def newGrid (s : State) (q idx p v : Nat) (w args k : List DWord) : Grid :=
  { queue := q, idx := idx, part := p, vi := v, packet := w, args := args, kdesc := k, placed := 0, teamsEnd := 0, nextRet := 0
    tstart := none, tend := 0, used := Vector.replicate 4 0, ovf := Vector.replicate 4 false, relaunch := 0, waitFrom := none
    blocks := false, abort := none, launchNo := (s.part p).launchNo, unprot := false, anclost := false
    image := if s.ordered p then some s.mem else none }

/-- A packet consumed joins those of its queue that have not completed; a copy read by a twin belongs to no queue of the twin (R246, R320). -/
def openPacket (s : State) (p q idx : Nat) : State :=
  if isTwin s p then s else s.modQueue q fun x => { x with open_ := x.open_ ++ [idx] }

/-- Begins dispatch of a launch packet (R246, R308). -/
def beginGrid (s : State) (q idx p v : Nat) (w args k : List DWord) : State :=
  let g := newGrid s q idx p v w args k
  let s1 := openPacket (noteLaunch s p q w args) p q idx
  { s1 with grids := s1.grids.set s1.nextGrid g, nextGrid := s1.nextGrid + 1 }.modPart p fun t => { t with begun := true }

/-- The markers of a queue whose earlier packets have all completed complete themselves, oldest first, each with its entry (R237, R241). -/
def settleMarks (s : State) (q : Nat) : List (Nat × List DWord × List Nat) → State
  | [] => s
  | m :: rest =>
    if (s.queue q).open_.any fun i => m.2.2.contains i then settleMarks s q rest
    else
      let v := (s.queue q).vi
      let s1 := writeCompletion s (s.vi v).part v m.2.1 (shortEntry 0)
      settleMarks (s1.modQueue q fun x => { x with open_ := x.open_.erase m.1, marks := x.marks.erase m }) q rest

/-- A packet of a queue has completed: its place is no longer open, and the markers that waited for it complete (R237). -/
def packetDone (s : State) (q idx : Nat) : State :=
  let s1 := s.modQueue q fun x => { x with open_ := x.open_.erase idx }
  settleMarks s1 q (s1.queue q).marks

/-- A marker consumed: it completes once every earlier packet of its queue has (R237). -/
def takeMarker (s : State) (p q idx : Nat) (w : List DWord) : State :=
  let s1 := noteLaunch s p q w []
  let s2 := (openPacket s1 p q idx).modQueue q fun x => { x with marks := x.marks ++ [(idx, w, (s.queue q).open_)] }
  settleMarks s2 q (s2.queue q).marks

/-- The dwords of a launch page entry: queue, packet, argument block (R308). -/
def parseLaunch (l : List Byte) : Nat × List DWord × List DWord :=
  (bytesNat ((l.drop 2).take 2), toDwords ((l.drop 16).take 64), toDwords ((l.drop 80).take 256))

/-- In replay, the next launch copy of a partition is consumed again: one that passed its checks begins dispatch at a kernel boundary; its
place is none of its queue's (R313 step 4). A twin runs it under its own interface (R320). -/
def replayLaunch (s : State) (p queue : Nat) : State :=
  match (s.part p).replay with
  | some r =>
    match r.launches with
    | l :: rest =>
      let x := parseLaunch l
      let w := x.2.1
      let v := if isTwin s p then (s.part p).runVi.getD 0 else (s.queue x.1).vi
      let s0 := launchReads (s.modPart p fun t => { t with replay := some { r with launches := rest } }) v w
      let ck := checkPacket s0 p v w (some x.2.2)
      let idx := 2 ^ 16 + (s.part p).launchNo
      if x.1 ≠ queue || !dispatches s p then s
      else if ck.1 ≠ 0 then writeCompletion (noteLaunch s0 p queue w ck.2.1) p v w (shortEntry ck.1)
      else if pkType w = 2 then
        (if isTwin s p then writeCompletion (noteLaunch s0 p queue w []) p v w (shortEntry 0) else takeMarker s0 p queue idx w)
      else if atBoundary s p && viRuns s p v then beginGrid s0 queue idx p v w x.2.2 ck.2.2
      else s
    | [] => s
  | none => s

/-- The partition whose packets an event on a queue concerns: that of its interface, or the twin of a pair when the next copy of that queue
can begin there (R320). -/
def packetPart (s : State) (queue : Nat) : Nat :=
  let p := (s.vi (s.queue queue).vi).part
  match twinOf s p with
  | some q =>
    let next := ((s.part q).replay.bind fun r => r.launches.head?).map fun l => (parseLaunch l).1
    if next = some queue && s.replaying q && dispatches s q && atBoundary s q && (s.part q).runVi.isSome then q else p
  | none => p

/-- PACKET_CONSUME (R236): the packet at HEAD of a queue is consumed when the checks refuse it, or when it may begin dispatch; while a log
is replayed, the launch copies take the packets' place (R313). A marker begins with nothing to dispatch, in a slice of its interface;
with BAR = 0 it waits only to complete (R237). -/
def execPacketConsume (queue : Nat) (s : State) : Host.Outcome State Fault Refusal :=
  event <|
    let x := s.queue queue
    let v := x.vi
    let p := (s.vi v).part
    if s.replaying (packetPart s queue) then replayLaunch s (packetPart s queue) queue else
    let st := packetReads s queue
    match headPlace st queue with
    | none => s
    | some pa =>
      let w := dwordsAt st pa 8
      let s0 := launchReads st v w
      let ck := checkPacket s0 p v w (argsOf s0 v w)
      let idx := x.head.toNat
      if pkType w = 0 || !(s.part p).cfg.getLsbD 8 || (gridsOf s p).any fun e => isGuarded s p e.2.packet then s
      else if ck.1 ≠ 0 then
        writeCompletion (noteLaunch (takePacket s0 queue pa) p queue w ck.2.1) p v w (shortEntry ck.1)
      else if pkType w = 2 then
        if (!pkBar w || x.open_.isEmpty) && viRuns s p v && dispatches s p then takeMarker (takePacket s0 queue pa) p queue idx w else s
      else if mayBegin s queue w && cairnDone s p (isGuarded s p w) then
        beginGrid (takePacket s0 queue pa) queue idx p v w ck.2.1 ck.2.2
      else s

/-! ### Binding a team (R37, R176, R193, R195, R245, R247) -/

/-- The state of a fibre at its binding (R37). -/
def newFibre (s : State) (tid : Nat) (g : Grid) (b : Bound) (stk : Option Nat) : Fibre :=
  let k := g.kdesc
  let tpt := fieldOf (nth g.packet 0 0) 26 16
  let pc := nth k 0 0
  { team := tid, group := b.group, role := kRole k b.group, priv := 8 * kPriv k b.group, shared := kShared k b.group, region := b.region
    sched := .ready, halted := false, readyAt := s.clock, waitFrom := s.clock, wait := none
    lanes := Vector.ofFn fun l => if 32 * b.group + l.val < tpt then ⟨true, pc, 1, .none, s.clock⟩ else Lane.dead
    v := [], p := Vector.replicate 8 0, q := Vector.replicate 2 (lanesOf 0)
    s := Vector.ofFn fun i => if 1 ≤ i.val ∧ i.val ≤ 15 then nth g.args (i.val - 1) 0 else 0
    b := Vector.ofFn fun i =>
      if i.val = 0 then 0x800001#24
      else if i.val = 15 then (match stk with
        | some idx => BitVec.ofNat 24 (2 ^ 23 + idx)
        | none => 0)
      else 0
    cfErr := 0, fpstat := 0, ric := 0, wraps := 0, wdog := 0, wdDue := false, yielded := false, append := Vector.replicate 4 0, ovf := Vector.replicate 4 false
    run := none, frozen := none, intr := false, step := none, drowsy := false, walkReq := [], walkRes := [], lrecReq := none
    recvErr := false, postDue := none, freed := 0, chFrom := 0, chItems := [], uwrites := 0, log := [], diverged := none, bpHit := false, stepRest := 0, stepSeen := [] }

/-- Writes the stack's buffer-table entry STKIDX + F0 (R245). -/
def writeStack (s : State) (g : Grid) (f0 : Nat) : State :=
  let idx := fieldOf (nth g.packet 5 0) 51 32 + f0
  let sz := fieldOf (nth g.packet 5 0) 31 0
  let a := fieldOf (s.ctx g.vi).bt 51 12 * 4096 + 32 * idx
  let d2 := g.vi * 2 ^ 48 + 2 ^ 41 + 2 ^ 19 + 2 ^ 18 + 2 ^ 17 + 2 ^ 15 + s.fabric.device % 512
  let s1 := homeWriteN (homeWriteN (homeWriteN (homeWriteN s a 8 ((nth g.packet 4 0).toNat + sz * f0)) (a + 8) 8 sz) (a + 16) 8 d2) (a + 24) 8 0
  { s1 with cores := s1.cores.mapVals fun _ k => { k with btc := k.btc.del (g.vi * 2 ^ 20 + idx) } }

/-- Allocates what a team's fibre uses in its slot: its shared region, and the team's fibre barriers there (R37, R244). -/
def claimSlot (s : State) (tid c : Nat) (k : List DWord) (b : Bound) (f : Nat) : State :=
  let n := 4 * c + b.slot
  let s1 := if kShared k b.group = 0 then s else
    s.modSlot n fun sl =>
      let r := vget sl.regions b.region Region.init
      let r1 : Region := if r.users.isEmpty then ⟨kShared k b.group, [f], []⟩ else { r with users := r.users ++ [f] }
      { sl with regions := vset sl.regions b.region r1 }
  match (s1.team tid).bind fun t => t.fbars.get? n with
  | some _ => s1
  | none =>
    let mine := (slotRoom s1 n).fbars.take (kFbars k)
    (s1.modSlot n fun sl =>
      { sl with fbars := mine.foldl (fun v i => vset v i { FBar.init with team := some tid }) sl.fbars }).modTeam tid fun t =>
      { t with fbars := t.fbars.set n mine }

/-- The PMCTL values that CTRPROG holds for a context take effect on every core of the partition (R398). -/
def applyHeld (s : State) (p v : Nat) : State :=
  match (s.ctx v).held with
  | none => s
  | some l =>
    (s.coresOf p).foldl (fun s c => s.modCore c fun k =>
      { k with pmNext := k.pmNext ++ l.zipIdx.map (fun e => (0, e.2, e.1)), issued := 0 }) (s.modCtx v fun x => { x with held := none })

/-- Binds one team: its fibres, slots, rings, scratchpad run, matrix state and stack entry; the binding acquires at .system on its core
(R221, R231, R245). -/
def bindTeam (s : State) (gid index rank c : Nat) (fit : List Bound × Nat) : State :=
  match s.grid gid with
  | none => s
  | some g =>
    let k := g.kdesc
    let tid := s.nextTeam
    let fidOf := fun (b : Bound) => 32 * c + 8 * b.slot + b.place
    let bs := fit.1.mergeSort fun x y => x.group ≤ y.group
    let f0 := (bs.head?.map fidOf).getD 0
    let fs := bs.map fidOf
    let rings := (freeRings s c).take (kRings k)
    let t : Team :=
      { grid := gid, index := index, rank := rank, core := c, groups := kGroups k, sbase := fit.2, slines := kLines k, rings := rings
        fbars := [], matrix := kMatrix k, fibres := fs, live := fs, bars := Vector.replicate 16 (Barrier.init (kGroups k))
        cvs := Vector.replicate 16 Conv.init, staged := [], near := [], stLines := [], held := [], unfenced := [], finished := false, retired := false }
    let mine := fun (ln : Nat) => decide (fit.2 ≤ ln ∧ ln < fit.2 + kLines k)
    let s1 := { s with teams := s.teams.set tid t, nextTeam := tid + 1 }.modCore c fun x =>
      { x with
        rings := rings.foldl (fun v i => vset v i { Ring.init with team := some tid }) x.rings
        scratch := x.scratch.zero (fit.2 * 128) (kLines k * 128)
        absent := x.absent.filter fun ln => !mine ln
        sep := x.sep.filter fun e => !mine e.1
        acc := if kMatrix k then [] else x.acc, wb := if kMatrix k then [] else x.wb }
    let s2 := selfInvalidate (applyHeld s1 g.part g.vi) c
    let s3 := if kStk k then writeStack s2 g f0 else s2
    let stk := if kStk k then some (fieldOf (nth g.packet 5 0) 51 32 + f0) else none
    let one := fun (s : State) (b : Bound) =>
      let f := fidOf b
      let log := if s.replaying g.part then (((s.part g.part).replay.map fun r => r.logs.getD f []).getD []) else []
      let s4 := claimSlot { s with fibres := s.fibres.set f { newFibre s tid g b stk with log := log } } tid c k b f
      let s5 := if s.recording g.part then emit s4 g.part 24 (mkRec 9 f 0 (index % 2 ^ 32 * 2 ^ 30 + b.group * 2 ^ 25) g.launchNo) else s4
      if s.replaying g.part then
        s5.modPart g.part fun t => { t with replay := t.replay.map fun r =>
          { r with logs := r.logs.del f
                   places := match r.places.find? fun x => recFibre x == f && fieldOf x 15 0 == g.launchNo % 2 ^ 16 &&
                       fieldOf x 77 46 == index % 2 ^ 32 && fieldOf x 45 41 == b.group with
                     | some x => r.places.erase x
                     | none => r.places } }
      else s5
    let vacant := (List.range 4).filter fun i => (slotFibres s3 (4 * c + i)).isEmpty
    let s5 := vacant.foldl (fun s i => s.modSlot (4 * c + i) fun sl => { sl with out := none }) s3
    let s6 := bs.foldl one s5
    s6.modGrid gid fun g => { g with tstart := g.tstart.orElse fun _ => some s.mgmt.gts }

/-! ### Placing clusters (R242, R246, R247) -/

/-- The rectangles of a partition for a cluster shape, lowest block and lowest core first: each a list of cores by rank (R242). -/
def rectangles (s : State) (p rows cols : Nat) : List (List Nat) :=
  ((List.range 24).filter fun b => (s.part p).cfg.getLsbD (b / 3)).flatMap fun b =>
    (List.range (3 - rows)).flatMap fun r => (List.range (7 - cols)).map fun c =>
      (List.range rows).flatMap fun i => (List.range cols).map fun j => 12 * b + 6 * (r + i) + c + j

/-- The rectangle on which the next cluster of a grid goes: empty ones first (R242). -/
def chooseRect (s : State) (g : Grid) : Option (List Nat) :=
  let ok := (rectangles s g.part (kRows g.kdesc) (kCols g.kdesc)).filter fun r => r.all fun c => (coreFit s c g.kdesc).isSome
  (ok.find? fun r => r.all fun c => (teamsOn s c).isEmpty).orElse fun _ => ok.head?

/-- Whether a lower grid is shut out: a grid of higher PRIO of the partition has waited 100 us (R246). -/
def shutOut (s : State) (g : Grid) : Bool :=
  (gridsOf s g.part).any fun e => e.2.blocks && decide ((s.queue g.queue).prio < (s.queue e.2.queue).prio)

/-- Whether a grid still has clusters to place and may place them now. -/
def placing (s : State) (g : Grid) : Bool :=
  let t := s.part g.part
  g.abort.isNone && decide (g.placed < gridTeams g.packet) && t.cfg.getLsbD 8 && !t.halted && placesNow s g.part &&
    t.runVi == some g.vi && !shutOut s g && !recorderFull s g.part 24 && t.urState != .restoring

/-- Whether logged bindings of a team find room in a slot: its granules, its fibre barriers and its shared regions are free (R22, R37, R247). -/
def slotTakes (s : State) (k : List DWord) (n : Nat) (units : List (List Nat)) : Bool :=
  let r := slotRoom s n
  units.isEmpty || (decide (r.used + (units.map (unitGranules k)).sum ≤ 128 ∧ kFbars k ≤ r.fbars.length ∧
    (units.filter (unitShared k)).length ≤ r.regions.length))

/-- In replay, the bindings of a team as its PLACE records give them, once all that they take is free (R247): core, bindings, base. -/
def replayFit (s : State) (g : Grid) (index : Nat) : Option (Nat × List Bound × Nat) :=
  match (s.part g.part).replay with
  | none => none
  | some r =>
    let mine := r.places.filter fun x => fieldOf x 77 46 == index % 2 ^ 32 && fieldOf x 15 0 == g.launchNo % 2 ^ 16
    let k := g.kdesc
    match mine with
    | [] => none
    | x :: _ =>
      let c := coreOf (recFibre x)
      let unitsIn := fun (slot : Nat) => (unitsOf k).filter fun u => mine.any fun y => u.contains (fieldOf y 45 41) && slotOf (recFibre y) == 4 * c + slot
      let region := fun (slot grp : Nat) =>
        nth (slotRoom s (4 * c + slot)).regions (((unitsIn slot).filter (unitShared k)).findIdx fun u => u.contains grp) 0
      let bs := mine.map fun y =>
        let f := recFibre y
        (⟨fieldOf y 45 41, slotOf f % 4, f % 8, region (slotOf f % 4) (fieldOf y 45 41)⟩ : Bound)
      if mine.length = kGroups k && (mine.all fun y => (s.fib (recFibre y)).isNone) && decide (kRings k ≤ (freeRings s c).length) &&
          ((List.range 4).all fun n => slotTakes s k (4 * c + n) (unitsIn n)) &&
          !(kMatrix k && (teamsOn s c).any fun e => e.2.matrix) then
        (freeRun s c (kLines k)).map fun b => (c, bs, b)
      else none

/-- Binds the teams of a cluster on the cores of a rectangle (R242). -/
def bindCluster (s : State) (gid first : Nat) (cores : List Nat) (n : Nat) (k : List DWord) : State :=
  ((List.range n).zip cores).foldl (fun s e =>
    match coreFit s e.2 k with
    | some fit => bindTeam s gid (first + e.1) e.1 e.2 fit
    | none => s) s

/-- Whether the next cluster of a grid can be placed now. -/
def canPlace (s : State) (g : Grid) : Bool :=
  placing s g &&
    if s.replaying g.part then (replayFit s g g.placed).isSome else (chooseRect s g).isSome

/-- CLUSTER_PLACE (R242, R246): the next cluster of a grid is placed when all its teams can be bound at once; in replay its next team
goes where the log places it (R247). One that cannot be placed begins to wait. -/
def execClusterPlace (grid : Nat) (s : State) : Host.Outcome State Fault Refusal :=
  event <|
    match s.grid grid with
    | none => s
    | some g =>
      let done := fun (s : State) (n : Nat) =>
        (s.modGrid grid fun g => { g with placed := g.placed + n, waitFrom := none, blocks := false }).modPart g.part fun t =>
          { t with lastGrid := t.lastGrid.set (s.queue g.queue).prio (grid + 1) }
      if !placing s g then s
      else if s.replaying g.part then
        match replayFit s g g.placed with
        | some (c, bs, b) =>
          done (bindTeam s grid g.placed (g.placed % (kRows g.kdesc * kCols g.kdesc)) c (bs, b)) 1
        | none => s
      else
        match chooseRect s g with
        | some r =>
          let n := min (kRows g.kdesc * kCols g.kdesc) (gridTeams g.packet - g.placed)
          done (bindCluster s grid g.placed r n g.kdesc) n
        | none => s.modGrid grid fun g => { g with waitFrom := g.waitFrom.orElse fun _ => some s.mgmt.gts.toNat }

/-- PRIORITY_WAIT_LIMIT (R246): a grid whose next cluster has waited 100 us shuts out the lower grids of its partition. -/
def execPriorityWaitLimit (grid : Nat) (s : State) : Host.Outcome State Fault Refusal :=
  event <|
    match s.grid grid with
    | some g =>
      match g.waitFrom with
      | some t => if t + 100000 ≤ s.mgmt.gts.toNat then s.modGrid grid fun g => { g with blocks := true } else s
      | none => s
    | none => s

end Sys2Proof.Machine
end

