-- ==== Sys2Proof/Machine/Retire.lean ====
section
/-!
DEFINITION. Sys2Proof/Machine/Retire.lean: releasing fibres, retiring teams, completing grids, aborting, restoring and relaunching them
(R115, R231, R241, R257, R263, R312, R348, R349).
-/

namespace Sys2Proof.Machine

/-! ### Fibres and teams (R17, R115, R257) -/

/-- Frees what a team holds of its core: rings, fibre barriers, scratchpad run (R35). -/
def freeTeam (s : State) (tid : Nat) : State :=
  match s.team tid with
  | none => s
  | some t =>
    let rings := fun (v : Vector Ring 16) => t.rings.foldl (fun v i => vset v i Ring.init) v
    let s1 := s.modCore t.core fun k => { k with rings := rings k.rings }
    t.fbars.foldl (fun s e =>
      s.modSlot e.1 fun sl => { sl with fbars := e.2.foldl (fun v i => vset v i FBar.init) sl.fbars }) s1

/-- A team without fibres is finished; outside the ordered modes it retires at once (R257). -/
def endTeam (s : State) (tid : Nat) : State :=
  match s.team tid with
  | none => s
  | some t =>
    if !t.live.isEmpty then s
    else
      let s1 := freeTeam s tid
      match s.grid t.grid with
      | none => { s1 with teams := s1.teams.del tid }
      | some g =>
        if s.ordered g.part && g.abort.isNone then s1.modTeam tid fun t => { t with finished := true }
        else
          let s2 := { s1 with teams := s1.teams.del tid }
          if g.abort.isSome then s2
          else s2.modGrid t.grid fun g => { g with teamsEnd := g.teamsEnd + 1, tend := s.mgmt.gts }

/-- The append counts of a released fibre join its grid's totals, saturated (R167, R241). -/
def addAppend (f : Fibre) (g : Grid) : Grid :=
  { g with
    used := Vector.ofFn fun (j : Fin 4) => min (2 ^ 32 - 1) (g.used[j] + (f.append[j]).toNat)
    ovf := Vector.ofFn fun (j : Fin 4) => g.ovf[j] || f.ovf[j] }

/-- A fibre leaves its shared region; a region without users is free (R22, R37). -/
def leaveRegion (fid : Nat) (f : Fibre) (sl : Slot) : Slot :=
  if f.shared = 0 then sl else
  let r := vget sl.regions f.region Region.init
  let us := r.users.filter (· != fid)
  { sl with regions := vset sl.regions f.region (if us.isEmpty then Region.init else { r with users := us }) }

/-- Releases a fibre: its chunk ends, its slot is handed over, its place, windows and region are free (R17, R115, R302). -/
def releaseFibre (s : State) (fid : Nat) : State :=
  match s.fib fid with
  | none => s
  | some f =>
    let p := s.partOf fid
    let s1 := handOver (leaveSet (chunkEnd (noteLate s fid) fid 3 0) fid) fid 5
    let rest := ((s1.fib fid).map (·.log)).getD []
    let back := fun (r : Replay) => if rest.isEmpty then r else { r with logs := r.logs.set fid rest }
    let s2 := s1.modPart p fun t =>
      { t with lastRic := t.lastRic.set fid f.ric.toNat, replay := t.replay.map back }
    let gid := ((s.team f.team).map (·.grid)).getD 0
    let s3 := (s2.modGrid gid (addAppend f)).modSlot (slotOf fid) (leaveRegion fid f)
    let s4 := { s3 with fibres := s3.fibres.del fid }.modTeam f.team fun t => { t with live := t.live.filter (· != fid) }
    looseDrops (endTeam s4 f.team) p fid rest.length

/-- Whether a fibre may be released: its last live lane has exited and every operation it issued has completed (R115). -/
def releasable (s : State) (fid : Nat) : Bool :=
  match s.fib fid with
  | some f => f.liveMask == 0 && f.run.isNone && f.sched != .frozen && !s.ops.any fun o => o.fibre == fid
  | none => false

/-- FIBRE_RELEASE (R115). -/
def execFibreRelease (fibre : Nat) (s : State) : Host.Outcome State Fault Refusal :=
  event (if releasable s fibre then releaseFibre s fibre else s)

/-- The team of a grid that the ticket unit retires next, once it is finished (R257). -/
def nextToRetire (s : State) (gid : Nat) : Option Nat :=
  match s.grid gid with
  | some g => (s.teams.find? fun e => e.2.grid == gid && e.2.index == g.nextRet && e.2.finished).map (·.1)
  | none => none

/-- Performs a team's staged writes at .device, in one step; a team that writes directly has performed them already (R257, R260). -/
def performStaged (s : State) (t : Team) : State :=
  if t.direct then s
  else t.staged.foldr (fun e s => homeWriteN s (gaddr s e.1 e.2.1) 1 e.2.2.toNat) s

/-- TEAM_RETIRE (R257): the finished team with the least index not yet retired retires. -/
def execTeamRetire (grid : Nat) (s : State) : Host.Outcome State Fault Refusal :=
  event <|
    match nextToRetire s grid with
    | none => s
    | some tid =>
      match s.team tid with
      | none => s
      | some t =>
        let s1 := performStaged s t
        { s1 with teams := s1.teams.del tid }.modGrid grid fun g =>
          { g with nextRet := g.nextRet + 1, teamsEnd := g.teamsEnd + 1, tend := s.mgmt.gts }

/-! ### Completing a grid (R231, R241, R348) -/

/-- The completion entry of a grid (R241). -/
def completionEntry (s : State) (g : Grid) (status : Nat) : List DWord :=
  let unprot := g.unprot || (s.part g.part).urState == .noprot
  let d0 := g.teamsEnd * 2 ^ 32 + (if g.anclost then 2 ^ 10 else 0) + (if unprot then 2 ^ 9 else 0) +
    (if g.relaunch = 0 then 0 else 2 ^ 8) + status
  [BitVec.ofNat 64 d0, g.tstart.getD 0, g.tend] ++
    ((List.range 4).map fun j => BitVec.ofNat 64 ((if vget g.ovf j false then 2 ^ 32 else 0) + vget g.used j 0)) ++ [0]

/-- Ends a grid with a status: its writes are released at .system, its entry posted, its packet no longer open (R231, R241). -/
def endGrid (s : State) (gid status : Nat) : State :=
  match s.grid gid with
  | none => s
  | some g =>
    let s1 := (s.coresOf g.part).foldl writeBackAll s
    let s2 := writeCompletion s1 g.part g.vi g.packet (completionEntry s g status)
    let s3 := packetDone { s2 with grids := s2.grids.del gid } g.queue g.idx
    let rec_ := s.recording g.part
    let s4 := s3.modPart g.part fun t =>
      { t with urState := if t.urState = .guarded then (if rec_ then .capture else .idle) else t.urState }
    releaseHost s4 g.part

/-- Whether a grid's context holds its partition's cores (R253). -/
def boundHere (s : State) (g : Grid) : Bool := (s.part g.part).runVi == some g.vi

/-- GRID_COMPLETE (R231): every team of the grid has ended. -/
def execGridComplete (grid : Nat) (s : State) : Host.Outcome State Fault Refusal :=
  event <|
    match s.grid grid with
    | some g => if boundHere s g && g.abort.isNone && g.placed == gridTeams g.packet && g.teamsEnd == gridTeams g.packet then endGrid s grid 0 else s
    | none => s

/-! ### Aborting (R263, R348) -/

/-- The teams of a grid. -/
def teamsOf (s : State) (gid : Nat) : AMap Team := s.teams.filter fun e => e.2.grid == gid

/-- Whether an operation of an aborting grid need not complete: a signature of an mma that was never dispatched, which no engine has; and,
of what is no engine operation, one that waits for what the abort itself keeps away: the ticket order of an ordered mode, a log's order, or
a mailbox (R263). -/
def mayDrop (s : State) (o : Op) : Bool :=
  match o.kind with
  | .sign _ m => m == 0
  | .engine _ => false
  | .send .. => true
  | .atom _ sc accs .. => s.replaying (s.partOf o.fibre) || atomHeld s o sc accs
  | _ => s.replaying (s.partOf o.fibre)

/-- Whether the fibres of an aborting grid have stopped and the operations they issued have completed (R263, R348). -/
def abortReady (s : State) (gid : Nat) : Bool :=
  ((teamsOf s gid).all fun e => e.2.live.all fun f =>
    match s.fib f with
    | some x => x.run.isNone || x.wait.isSome || x.halted || x.sched == .frozen
    | none => true) &&
  s.ops.all fun o => !(teamsOf s gid).keys.contains o.team || mayDrop s o

/-- Releases every fibre of an aborted grid and drops its teams, with what they staged (R263). -/
def dropTeams (s : State) (gid : Nat) : State :=
  let ts := teamsOf s gid
  let s1 := { s with ops := s.ops.filter fun o => !ts.keys.contains o.team }
  let s2 := (ts.flatMap fun e => e.2.live).foldl releaseFibre s1
  { s2 with teams := s2.teams.filter fun e => e.2.grid != gid }

/-- Puts aside the context that runs in a partition: its fibres, teams, slots, cores and operations (R213, R255, R278). The L1s, TLBs and
caches of table entries stay with the cores. -/
def stashCtx (s : State) (p u : Nat) : State :=
  let here := fun (c : Nat) => s.coreIn p c
  let fs := s.fibres.filter fun e => here (coreOf e.1)
  let ts := s.teams.filter fun e => here e.2.core
  let sl := s.slots.filter fun e => here (e.1 / 4)
  let os := s.ops.filter fun o => here o.core
  let keep := fun (k : Core) => { k with l1 := [], tlb := [], btc := [], lrec := [], fifo := [] }
  let bare := fun (k : Core) =>
    { Core.init with l1 := k.l1, tlb := k.tlb, btc := k.btc, lrec := k.lrec, fifo := k.fifo, emitted := k.emitted }
  let cs : AMap Core := (s.cores.filter fun e => here e.1).map fun e => (e.1, keep e.2)
  { s with
    fibres := s.fibres.filter fun e => !here (coreOf e.1)
    teams := s.teams.filter fun e => !here e.2.core
    slots := s.slots.filter fun e => !here (e.1 / 4)
    ops := s.ops.filter fun o => !here o.core
    cores := s.cores.mapVals fun c k => if here c then bare k else k }.modPart p fun t =>
    { t with saved := t.saved.set u ⟨u, fs, ts, sl, cs, os, false, none⟩, runVi := none }

/-- Puts the saved context of interface v on the partition's cores; one that never ran has nothing to put there (R255). -/
def loadCtx (s : State) (p v : Nat) : State :=
  match (s.part p).saved.get? v with
  | none => s.modPart p fun t => { t with runVi := some v }
  | some x =>
    let put := fun (live saved : Core) =>
      { saved with l1 := live.l1, tlb := live.tlb, btc := live.btc, lrec := live.lrec, fifo := live.fifo, emitted := live.emitted }
    let s1 := x.cores.foldl (fun s e => s.modCore e.1 fun k => put k e.2) s
    { s1 with
      fibres := x.fibres.foldl (fun (m : AMap Fibre) (e : Nat × Fibre) => m.set e.1 e.2) s1.fibres
      teams := x.teams.foldl (fun (m : AMap Team) (e : Nat × Team) => m.set e.1 e.2) s1.teams
      slots := x.slots.foldl (fun (m : AMap Slot) (e : Nat × Slot) => m.set e.1 e.2) s1.slots
      ops := s1.ops ++ x.ops }.modPart p fun t => { t with saved := t.saved.del v, runVi := some v }

/-- Acts on the context of interface v, wherever it is: on the saved one while it is swapped out (R273). -/
def withVi (s : State) (p v : Nat) (k : State → State) : State :=
  let t := s.part p
  if t.runVi = some v || (t.saved.get? v).isNone then k s
  else
    let flag := ((t.saved.get? v).map (·.staged)).getD false
    let out := match t.runVi with
      | some u => stashCtx s p u
      | none => s
    let s1 := stashCtx (k (loadCtx out p v)) p v
    let s2 := s1.modPart p fun t => { t with saved := t.saved.adj v fun x => { x with staged := flag } }
    match t.runVi with
    | some u => loadCtx s2 p u
    | none => s2

/-- ABORT_DRAINED (R263, R348): the grid's fibres are released; a guarded grid goes on to its restore, any other ends with its status.
In a recording mode the logs end with REASON 1 (R306). -/
def execAbortDrained (grid : Nat) (s : State) : Host.Outcome State Fault Refusal :=
  event <|
    match s.grid grid with
    | none => s
    | some g =>
      match g.abort with
      | none => s
      | some status =>
        withVi s g.part g.vi fun s =>
          if !abortReady s grid || (s.part g.part).urState = .restoring || (s.part g.part).urState = .failed then s
          else
            let s0 := if s.recording g.part && !(s.part g.part).ended then endLogs s g.part 1 else s
            let s1 := dropTeams s0 grid
            if (s.part g.part).urState = .aborting then s1.modPart g.part fun t => { t with urState := .restoring }
            else endGrid s1 grid status

/-! ### Restoring and relaunching (R263, R348, R349) -/

/-- The lines of an undo entry are brought in (R348). -/
def entryRead (s : State) (p k : Nat) : State :=
  fetchLine (fetchLine s (lineOf (undoAddr s p k)) false) (lineOf (undoAddr s p k + 143)) false

/-- Whether an undo entry, brought in, holds an uncorrectable error (R348). -/
def entryBad (s : State) (p k : Nat) : Bool :=
  [lineOf (undoAddr s p k), lineOf (undoAddr s p k + 143)].any fun ln => linePoison s ln

/-- Copies of a line outside its home slice are dropped with no write-back: the devices of its state are told to, and the host port that
holds it (R349 step 1). -/
def dropOutside (s : State) (ln : Nat) : State :=
  let s1 := match mdState (s.md ln) with
    | 0 => s
    | 5 => s.tellTo 2 ln [512 + mdOwner (s.md ln) % 2]
    | 3 => s.tellTo 0 ln (sharers s ln (.home true) ++ [mdOwner (s.md ln)])
    | _ => s.tellTo 0 ln (sharers s ln (.home true))
  s1.modMgmt fun m => { m with hostOwned := m.hostOwned.filter (· != ln) }

/-- Applies one undo entry: copies dropped with no write-back, here, layout records among them (log entry 74), and outside, the line's bytes and metadata as before, in state I (R349). -/
def applyUndo (p : Nat) (s : State) (k : Nat) : State :=
  let a := undoAddr s p k
  let w := s.mem.readN a 8
  let ln := bitsOf w 33 0
  let md := BitVec.ofNat 16 (bitsOf w 49 34)
  let data := s.mem.readN (a + 16) 128
  let s0 := dropOutside s ln
  let s1 := { s0 with
    cores := s0.cores.mapVals fun _ c => { c with l1 := c.l1.del ln, lrec := c.lrec.filter fun e => lineOf e.1 != ln }
    hbm := { s0.hbm with cheld := s0.hbm.cheld.mapVals fun _ l => l.filter fun e => e.1 != ln } }
  let old := fun (l : LineInfo) =>
    { l with md := mdMake (mdPoison md) (mdEpoch md) 0 0, own := [], inL3 := false, dirty := false, asked := none, acks := [] }
  (lineWrite (activate s1 ln) ln (BitVec.ofNat 1024 data) (BitVec.allOnes 128)).modLine ln old

/-- Applies undo entries one at a time, up to the first that holds an uncorrectable error (R348, R349). -/
def applyEntries (p : Nat) : List Nat → State → State × Bool
  | [], s => (s, true)
  | k :: r, s =>
    let s1 := entryRead s p k
    if entryBad s1 p k then (s1, false) else applyEntries p r (applyUndo p s1 k)

/-- The undo entries of the present epoch, newest first (R349). -/
def undoEntries (t : Part) : List Nat := ((List.range (t.urTail - t.urEpst)).map (t.urEpst + ·)).reverse

/-- The restore of a partition's image at the Cairn: entries TAIL - 1 down to EPST; what its L1s hold is lost. Whether every entry was
good; TAIL then returns to EPST (R348, R349). -/
def restoreImage (s : State) (p : Nat) : State × Bool :=
  let s1 := (s.coresOf p).foldl (fun s c => s.modCore c fun k => { k with l1 := [] }) s
  let r := applyEntries p (undoEntries (s.part p)) s1
  if r.2 then (r.1.modPart p fun t => { t with urTail := t.urEpst }, true) else r

/-- A restore that met an uncorrectable error: FAIL is set and the partition halts (R348). -/
def failRestore (s : State) (p : Nat) : State :=
  haltMark (s.modPart p fun t => { t with urState := .failed, urFail := true, replayDue := none }) p

/-- A grid as it is relaunched from its kernel boundary: the argument block is read again (R263). -/
def relaunchGrid (s : State) (gid : Nat) (g : Grid) : State :=
  let s := launchReads s g.vi g.packet
  let args := (argsOf s g.vi g.packet).getD g.args
  let g1 : Grid :=
    { g with args := args, placed := 0, teamsEnd := 0, nextRet := 0, tstart := none, tend := 0, used := Vector.replicate 4 0,
             ovf := Vector.replicate 4 false, relaunch := g.relaunch + 1, waitFrom := none, blocks := false, abort := none,
             image := if s.ordered g.part then some s.mem else none }
  { s with grids := s.grids.set gid g1 }

/-- Ends the aborted grids of a partition with a status. -/
def endAborted (s : State) (p status : Nat) : State :=
  ((gridsOf s p).filter fun e => e.2.abort.isSome).foldl (fun s e => endGrid s e.1 status) s

/-- The end of a restore after an abort (R348): the grid is relaunched while fewer than RMAX relaunches were made, else ends with
STATUS 0x31; an error in an entry fails the restore. -/
def restoreAbort (s : State) (p : Nat) : State :=
  let r := restoreImage s p
  if !r.2 then endAborted (failRestore r.1 p) p 0x31
  else
    let s1 := r.1
    let gs := (gridsOf s1 p).filter fun e => e.2.abort.isSome
    if gs.all fun e => decide (e.2.relaunch < fieldOf (s.part p).urctl 1 0) then
      gs.foldl (fun s e => relaunchGrid s e.1 e.2) (s1.modPart p fun t => { t with urState := .guarded })
    else endAborted (s1.modPart p fun t => { t with urState := .idle }) p 0x31

end Sys2Proof.Machine
end

