-- ==== Sys2Proof/Machine/Replay.lean ====
section
/-!
DEFINITION. Sys2Proof/Machine/Replay.lean: who a command comes from and what it answers; REPLAY, the end of a restore, reading back a
log, its end, and the twin's log (R273, R296, R305-R317, R320, R349, R362, R400, R408).
-/

namespace Sys2Proof.Machine

/-! ### Commands (R273, R296, R361, R362) -/

/-- The response to a command: status, result, result data (R361). -/
def answerData (s : State) (status : Nat) (result : DWord) (data : List Byte) : State :=
  s.modMgmt fun m => { m with status := status, result := result, data := data }

/-- The response to a command without result data. -/
def answer (s : State) (status : Nat) (result : DWord) : State := answerData s status result []

/-- Whether the source of the present command may name a virtual interface or context: PF0 and the management port any, a virtual
function and a session only their own (R362). -/
def srcMay (s : State) (v : Nat) : Bool :=
  match s.mgmt.src with
  | .pf0 => true
  | .mgmt => true
  | .vf u => u == v
  | .session c => c == v

/-- Whether the present command comes from PF0, as which the management port acts (R362). -/
def srcPf0 (s : State) : Bool := s.mgmt.src == .pf0 || s.mgmt.src == .mgmt

/-- Whether a command that reveals data is refused for a confidential context: it does not come through its session (R296). -/
def confRefuses (s : State) (v : Nat) : Bool := s.conf v && s.mgmt.src != .session v

/-- Whether the source may command a partition: PF0 any; a virtual function the one its interface is assigned to, when it is bound there. -/
def srcMayPart (s : State) (p : Nat) : Bool :=
  match s.mgmt.src with
  | .pf0 => true
  | .mgmt => true
  | .vf u => (s.part p).runVi == some u && (s.vi u).part == p
  | .session u => (s.part p).runVi == some u && (s.vi u).part == p

/-! ### Reading a log back (R305-R307, R313) -/

/-- The records of a page, padding left out; none when the page is unreadable (R305, R307). -/
def pageRecords (l : List Byte) : Option (Nat × Nat × List (BitVec 128) × List (List Byte)) :=
  let d0 := bytesNat (l.take 8)
  let type := bitsOf d0 47 40
  let n := bitsOf d0 31 16
  if bitsOf d0 63 48 ≠ 0xCA1E then none
  else if type = 1 then
    if 12 < n then none else some (1, bitsOf d0 36 32, [], (List.range n).map fun i => (l.drop (64 + 336 * i)).take 336)
  else if type = 0 then
    let rs := (List.range (min n 252)).map fun i => BitVec.ofNat 128 (bytesNat ((l.drop (64 + 16 * i)).take 16))
    if 252 < n || rs.any fun r => 0xD ≤ recKind r then none else some (0, bitsOf d0 36 32, rs.filter fun r => recKind r != 0, [])
  else none

/-- One record joins the log of its fibre, the placements or the pops of its mailbox (R313, R409); the ASYNC record of a halt is not
enforced (R314). -/
def addRecord (r : Replay) (x : BitVec 128) : Replay :=
  match recKind x with
  | 9 => { r with places := r.places ++ [x] }
  | 0xA => r
  | 0xC => r
  | 7 => if fieldOf x 65 62 = 3 then r else { r with logs := r.logs.upd (recFibre x) [] fun l => l ++ [x] }
  | k =>
    let r1 := { r with logs := r.logs.upd (recFibre x) [] fun l => l ++ [x] }
    if k = 6 then { r1 with arrives := (r1.arrives ++ [x]).mergeSort fun a b => fieldOf a 15 0 ≤ fieldOf b 15 0 } else r1

/-- The recorder that a page tells: its RECORDER field, or 25 where nothing of it can be trusted (R307). -/
def pageRecorder (l : List Byte) (lost : Bool) : Nat :=
  let d0 := bytesNat (l.take 8)
  if lost || bitsOf d0 63 48 ≠ 0xCA1E then 25 else bitsOf d0 36 32

/-- Records that could be read join a log, with what they tell of their recorder: that it holds records of fibres, and that its log ends with
REASON 1 (R313, R317). -/
def addRecords (r : Replay) (k : Nat) (rs : List (BitVec 128)) (ls : List (List Byte)) : Replay :=
  let with_ := fun (b : Bool) (l : List Nat) => if b && !l.contains k then k :: l else l
  rs.foldl addRecord { r with
    launches := r.launches ++ ls
    used := with_ (decide (k < 24) && rs.any fun x => recFibre x != 0x3FFF) r.used
    ends := with_ (rs.any fun x => recKind x == 0xC && fieldOf x 77 74 == 1) r.ends }

/-- A page of 4096 bytes joins a log being read back; lost: it is poisoned, or not the page that belongs there (R316). -/
def addPage (r : Replay) (l : List Byte) (lost : Bool) : Replay :=
  match if lost then none else pageRecords l with
  | none => { r with bad := pageRecorder l lost :: r.bad }
  | some (_, k, rs, ls) => addRecords r k rs ls

/-- The lines of page k of a partition's ring are brought in. -/
def pageRead (s : State) (p k : Nat) : State :=
  (List.range 32).foldl (fun s i => fetchLine s (lineOf (pageAddr s p k) + i) false) s

/-- The bytes of page k of a partition's ring. -/
def pageBytes (s : State) (p k : Nat) : List Byte := s.mem.readL (pageAddr s p k) 4096

/-- Whether the page at the place of page k cannot be read, or is another page (R307, R316). -/
def pageLost (s : State) (p k : Nat) : Bool :=
  let d1 := bytesNat (((pageBytes s p k).drop 8).take 8)
  ((List.range 32).any fun i => linePoison s (lineOf (pageAddr s p k) + i)) || bitsOf d1 63 32 != k % 2 ^ 32 || bitsOf d1 31 0 != (s.part p).cairn % 2 ^ 32

/-- A log of which nothing has been read. -/
def Replay.init (prior : Nat) : Replay := ⟨[], [], [], [], prior, [], [], []⟩

/-- The pages of a partition's log, from CAIRNPG to TAIL. -/
def logPages (s : State) (p : Nat) : List Nat := (List.range ((s.part p).rrTail - (s.part p).rrCairn)).map ((s.part p).rrCairn + ·)

/-- The log of a partition from CAIRNPG to TAIL, its pages brought in (R313 step 3). -/
def readLog (s : State) (p prior : Nat) : Replay :=
  (logPages s p).foldl (fun r k => addPage r (pageBytes s p k) (pageLost s p k)) (Replay.init prior)

/-! ### REPLAY (R313, R400) -/

/-- REPLAY (R313): refused with status 4 where the log or the undo ring cannot serve it; else the partition's grids are aborted, and the
restore follows. -/
def execReplay (part cairn : Nat) (flags : BitVec 64) (s : State) : Host.Outcome State Fault Refusal :=
  event <|
    let t := s.part part
    let pod := flags.getLsbD 0
    if 8 ≤ part || !srcMayPart s part || fieldOf flags 63 2 ≠ 0 || t.cairnAt.isNone || t.cairn ≠ cairn || t.anclost || (t.xdev && !pod) ||
        !(t.urState == .capture || (t.urState == .guarded && s.recording part)) then answer s 4 0
    else
      let prior := if s.inReplayMode part then (t.replay.map (·.prior)).getD (t.nextMode.getD 0) else t.mode
      let s1 := (gridsOf s part).foldl (fun s e => abortGrid s e.1 0x30) s
      answer (s1.modPart part fun t => { t with replayDue := some (flags.getLsbD 1, prior), podReplay := pod }) 0 0

/-- The step that COLD adds between the restore and the binding: L1s, L3 lines, owner records, remote copies, TLBs and layout-record
caches are emptied (R400). -/
def goCold (s : State) (p : Nat) : State :=
  let s1 := (s.coresOf p).foldl (fun s c => (writeBackAll s c).modCore c fun k => { k with l1 := [], tlb := [], lrec := [] }) s
  s1.lines.keys.foldl (fun s ln =>
    if isRemote ln || !ownLine s p ln then s
    else (homeTakes s ln).modLine ln fun l => { l with own := [], inL3 := false }) s1

/-- HEAD and TAIL of the partition's mailboxes as the Cairn saved them; send counts and pops from zero (R357, R408). -/
def restoreMboxes (s : State) (p : Nat) : State :=
  let s1 := (s.part p).mbSaved.foldl (fun s e =>
    s.modMbox e.1 fun m => { m with head := e.2.head, tail := e.2.tail, info := e.2.info, pops := 0 }) s
  { s1 with fabric := { s1.fabric with sends := s1.fabric.sends.filter fun e => e.1 / (512 * 16384) != p } }

/-- MODE in the header of the first page of the present Cairn's log; d when the ring holds none (R307, R313). -/
def logMode (s : State) (p d : Nat) : Nat :=
  let t := s.part p
  if t.rrTail = t.rrCairn then d else bitsOf (s.mem.readN (pageAddr s p t.rrCairn) 8) 39 37

/-- The pops of messages that were in a ring at the Cairn await no arrival: they are in the ring again (R408, R409). -/
def dropOld (saved : AMap MbSave) (r : Replay) : Replay :=
  saved.foldl (fun r e =>
    let mine := r.arrives.filter fun x => fieldOf x 68 55 == e.1
    { r with arrives := r.arrives.filter fun x => !(mine.take e.2.info.length).contains x }) r

/-- The restore of a REPLAY and the start of its replay (R313, R348): the log ends and is read back, the image is restored. -/
def startReplay (s : State) (p : Nat) (cold : Bool) (prior : Nat) : State :=
  let t := s.part p
  let s0 := if s.recording p then flushRecorders (if t.ended then s else endLogs s p 0) p else s
  let s1 := (logPages s0 p).foldl (fun s k => pageRead s p k) s0
  let i := restoreImage s1 p
  if !i.2 then failRestore i.1 p
  else
    let r := if isTwin s p then Replay.init prior else dropOld t.mbSaved (readLog s1 p prior)
    let s2 := clearEpochs (restoreMboxes i.1 p) p t.podReplay
    let s3 := if cold then goCold s2 p else s2
    s3.modPart p fun t =>
      { t with
        mode := if logMode s0 p prior = 5 then 6 else 2, nextMode := none, replay := some r, replayDue := none, urState := .capture, halted := false,
        quiet := false, launchNo := 0, begun := false, lastRic := [], ended := false }

/-- RESTORE_COMPLETE (R348, R349): the restore of an aborted grid, or of a REPLAY once the partition's grids have ended. A pod-wide replay
begins at its agreed instant instead (R323). -/
def execRestoreComplete (part : Nat) (s : State) : Host.Outcome State Fault Refusal :=
  event <|
    match (s.part part).replayDue with
    | some (cold, prior) => if atBoundary s part && !(s.part part).podReplay then startReplay s part cold prior else s
    | none => if (s.part part).urState = .restoring then restoreAbort s part else s

/-! ### The end of a log (R317) -/

/-- The place of a fibre as a record names it: clause and word. -/
def fibrePlace (f : Fibre) : DWord × Nat :=
  match f.run with
  | some r => (r.addr, r.word)
  | none => let l := f.lane (lowLane f.liveMask); (l.pc, l.word)

/-- A record with cause 0x0E and SUB 5 for a fibre bound at the end of the log; it freezes nothing (R317). -/
def postEnded (p : Nat) (s : State) (fid : Nat) : State :=
  match s.fib fid with
  | none => s
  | some f =>
    let a := fibrePlace f
    postSystem s p
      { cause := 0x0E, sub := 5, fibre := fid, clause := a.1, word := a.2, rclause := a.1, rword := a.2, ric := f.ric, lanes := f.liveMask,
        ctx := s.viOf fid } none

/-- Messages kept at their senders for the mailboxes of a partition are sent again (R409). -/
def resendAll (s : State) (p : Nat) : State :=
  let mine := fun (m : Msg) => (s.mbox m.mbox).part == p
  let now := s.fabric.retry.filter mine
  now.foldl arrive { s with fabric := { s.fabric with retry := s.fabric.retry.filter fun m => !mine m } }

/-- Whether an END record with REASON 1 is reached: a recorder that recorded fibres, and whose log ends so, has no record of them left
(R317; log entry 45). -/
def endReached (s : State) (p : Nat) (r : Replay) : Bool :=
  r.ends.any fun k => r.used.contains k && (r.logs.all fun e => recorderOf e.1 != k || e.2.isEmpty) &&
    (s.fibresOf p).all fun f => recorderOf f != k || (((s.fib f).map fun x => x.log.isEmpty).getD true)

/-- Whether the log that a partition replays can still grow: a twin's, while its primary records or has pages that the twin has not consumed
(R320). -/
def logGrows (s : State) (p : Nat) : Bool :=
  match (s.part p).twin with
  | some (q, true) => (s.recording q && !(s.part q).ended) || unflushed s q || decide ((s.part q).twpg < (s.part q).rrTail)
  | _ => false

/-- Whether a replaying partition has come to the end of its log: nothing is left of it, bound or unbound, and no fibre whose lanes have all
exited is still to be released; or it has reached an END record with REASON 1 (R317). -/
def logOver (s : State) (p : Nat) : Bool :=
  s.replaying p && !logGrows s p &&
    ((((s.part p).replay.map (endReached s p)).getD false) ||
      (logsEmpty s p && (s.fibresOf p).all fun f => match s.fib f with
        | some x => x.log.isEmpty && (x.liveMask != 0 || x.sched == .frozen)
        | none => true))

/-- Whether a partition whose replay a divergence ended still keeps messages at their senders for its log (R316, R409). -/
def strandedMsgs (s : State) (p : Nat) : Bool :=
  s.inReplayMode p && (s.part p).replay.isNone && s.fabric.retry.any fun m => (s.mbox m.mbox).part == p

/-- REPLAY_LOG_END (R317): the partition halts, a record is posted for each fibre bound, and MODE returns at the next kernel boundary. -/
def execReplayLogEnd (part : Nat) (s : State) : Host.Outcome State Fault Refusal :=
  event <|
    if strandedMsgs s part then resendAll s part
    else if !logOver s part then s
    else
      let prior := ((s.part part).replay.map (·.prior)).getD 0
      let s1 := (s.fibresOf part).foldl (postEnded part) (haltMark s part)
      resendAll (s1.modPart part fun t => { t with replay := none, ended := true, nextMode := some prior, podReplay := false }) part

/-! ### Twin partitions (R310, R320) -/

/-- The dies of a partition, in increasing number. -/
def diesOf (s : State) (p : Nat) : List Nat := (List.range 8).filter fun d => (s.part p).cfg.getLsbD d

/-- The die of the twin that a die of the primary maps to (R320). -/
def twinDie (s : State) (p q d : Nat) : Nat := nth (diesOf s q) ((diesOf s p).findIdx fun e => e == d) 0

/-- The fibre of the twin that a fibre of the primary maps to (R320). -/
def twinFibre (s : State) (p q f : Nat) : Nat := (twinDie s p q (dieOf (coreOf f)) * 36 + coreOf f % 36) * 32 + f % 32

/-- The recorder of the twin that a recorder of the primary maps to (R320). -/
def twinRecorder (s : State) (p q k : Nat) : Nat := if k < 24 then twinDie s p q (k / 3) * 3 + k % 3 else k

/-- A record of the primary as the twin reads it: its fibre, and the fibre a SWITCH names, mapped (R320). -/
def twinRec (s : State) (p q : Nat) (x : BitVec 128) : BitVec 128 :=
  if recFibre x = 0x3FFF then x
  else
    let mid := if recKind x = 3 then twinFibre s p q (fieldOf x 77 64) * 2 ^ 48 + fieldOf x 63 16 else fieldOf x 77 16
    mkRec (recKind x) (twinFibre s p q (recFibre x)) (recRic x) mid (fieldOf x 15 0)

/-- Records of a page go to the bound fibres of the twin, or to its log. -/
def twinAdd (s : State) (q : Nat) (x : BitVec 128) : State :=
  match s.fib (recFibre x) with
  | some _ =>
    if recKind x = 9 then s.modPart q fun t => { t with replay := t.replay.map fun r => addRecord r x }
    else s.modFib (recFibre x) fun f => { f with log := f.log ++ [x] }
  | none => s.modPart q fun t => { t with replay := t.replay.map fun r => addRecord r x }

/-- What the twin reads of a page of the primary (R320). -/
def twinPage (s : State) (p q k : Nat) (rs : List (BitVec 128)) (ls : List (List Byte)) : State :=
  let note := fun (r : Replay) => addRecords r (twinRecorder s p q k) (rs.filter fun x => recKind x == 0xC) ls
  let used := fun (r : Replay) =>
    let n := twinRecorder s p q k
    if decide (n < 24) && !r.used.contains n && rs.any (fun x => recFibre x != 0x3FFF) then { r with used := n :: r.used } else r
  (rs.map (twinRec s p q)).foldl (fun s x => twinAdd s q x) (s.modPart q fun t => { t with replay := t.replay.map fun r => used (note r) })

/-- The Cairn number of a page's ANCHOR record, if it begins with one (R306, R311). -/
def anchorOf (rs : List (BitVec 128)) : Option Nat := (rs.find? fun x => recKind x == 0xA).map fun x => fieldOf x 77 46

/-- TWIN_PAGE_CONSUMED (R310, R320): the twin consumes the primary's page TWPG, and TWPG advances. At a page that begins with an ANCHOR record the
twin first takes its own Cairn, once it has run all that came before. -/
def execTwinPageConsumed (part : Nat) (s : State) : Host.Outcome State Fault Refusal :=
  event <|
    match twinOf s part with
    | none => s
    | some q =>
      let t := s.part part
      if t.rrTail ≤ t.twpg || !s.replaying q then s
      else
        let s0 := pageRead s part t.twpg
        let l := pageBytes s0 part t.twpg
        let done := fun (s : State) => s.modPart part fun t => { t with twpg := t.twpg + 1 }
        let lost := (List.range 32).any fun i => linePoison s0 (lineOf (pageAddr s0 part t.twpg) + i)
        match if lost then none else pageRecords l with
        | none => done (s0.modPart q fun t => { t with replay := t.replay.map fun r =>
            { r with bad := twinRecorder s part q (pageRecorder l lost) :: r.bad } })
        | some (_, k, rs, ls) =>
          match anchorOf rs with
          | some n =>
            if n = (s.part q).cairn then done (twinPage s0 part q k rs ls)
            else if epochReady s0 q && logsEmpty s0 q then done (twinPage (openEpoch s0 q true n) part q k rs ls)
            else s0
          | none => done (twinPage s0 part q k rs ls)

end Sys2Proof.Machine
end

