-- ==== Sys2Proof/Machine/Gang.lean ====
section
/-!
DEFINITION. Sys2Proof/Machine/Gang.lean: halts and resumes of a partition, source throttling, gang time slices, Bivouac, and pod Cairns
(R213, R231, R234, R250, R251, R253-R256, R278, R322, R342).
-/

namespace Sys2Proof.Machine

/-! ### Resuming a partition (R231, R255 step 5, R278) -/

/-- A fibre returns to the state it held before the halt (R20). -/
def unhaltFibre (x : Fibre) : Fibre := { x with halted := false }

/-- The fibres that are Running again hold their places in the admitted set (R251). -/
def readmit (s : State) (fid : Nat) : State :=
  match s.fib fid with
  | some x =>
    if x.sched = .running then
      s.modCore (coreOf fid) fun k => { k with admitted := if k.admitted.contains fid then k.admitted else k.admitted ++ [fid] }
    else s
  | none => s

/-- Resumes a partition: its fibres return to their saved states, its L1s self-invalidate, AGL becomes 32, and a written WDLOG and QLOG
take effect (R231, R234, R250, R255 step 5). -/
def unhaltPart (s : State) (p : Nat) : State :=
  let fs := s.fibresOf p
  let s1 := fs.foldl (fun s f => s.modFib f unhaltFibre) s
  let s2 := (s.coresOf p).foldl (fun s c =>
    (selfInvalidate s c).modCore c fun k => { k with agl := 32, halvedAt := none, quietFrom := s.clock }) s1
  let s3 := fs.foldl readmit s2
  s3.modPart p fun t =>
    { t with
      halted := false, quiet := false, wdlog := (t.nextWd.map (·.1)).getD t.wdlog, qlog := (t.nextWd.map (·.2)).getD t.qlog
      nextWd := none }

/-! ### Source throttling (R250, R342) -/

/-- A throttle signal at a core (R250): within 256 clocks of the last halving it has no further effect. -/
def throttle (s : State) (c : Nat) : State :=
  let k := s.core c
  let late := match k.halvedAt with
    | some t => decide (t + 256 ≤ s.clock)
    | none => true
  (s.modCore c fun k =>
    { k with quietFrom := s.clock, agl := if late then max 1 (k.agl / 2) else k.agl
             halvedAt := if late then some s.clock else k.halvedAt }).pmCount c none 0x10 1

/-- THROTTLE_SIGNAL (R250). -/
def execThrottleSignal (core : Nat) (s : State) : Host.Outcome State Fault Refusal := event (throttle s core)

/-- Whether a quiet interval of a core has passed without a signal. -/
def quietOver (s : State) (c : Nat) : Bool :=
  decide ((s.core c).quietFrom + 2 ^ (10 + (s.part (s.partOfCore c)).qlog) ≤ s.clock)

/-- QUIET_INTERVAL (R250): at the end of a quiet interval AGL doubles, to 32 at most. -/
def execQuietInterval (core : Nat) (s : State) : Host.Outcome State Fault Refusal :=
  event <|
    if quietOver s core then s.modCore core fun k => { k with agl := min 32 (2 * k.agl), quietFrom := s.clock } else s

/-- The cores whose operations have a request in a channel's queue: one for each line of this device that is not in its L3 (R342). -/
def chanCores (s : State) (chan : Nat) : List Nat :=
  s.ops.flatMap fun o => (((opLines s o).map (·.1)).dedup.filter fun ln =>
    !isRemote ln && !(s.line ln).inL3 && (placeOf s ln).chan == chan).map fun _ => o.core

/-- The occupancy of a channel's queue: the requests of operations in flight, its banks held for refresh management, and the further requests
of an event, by core: those of engines and walkers, and of other devices as 288 * (device + 1) + core (R342). -/
def chanOcc (s : State) (chan : Nat) (more : List Nat) : Nat :=
  (chanCores s chan).length + (s.hbm.bankHold.filter fun e => e.1 / 32 == chan).length + more.length

/-- The congestion threshold of a channel (R338). -/
def chanTh (s : State) (chan : Nat) : Nat := fieldOf (s.stack (chan / 32)).qth 7 0

/-- A channel signals throttle to every core with a request in its queue, those of other devices through Guyline (R250, R342). -/
def signalChan (s : State) (chan : Nat) (more : List Nat) : State :=
  let here := (chanCores s chan ++ more.filter fun c => decide (c < 288)).dedup
  let far := (more.filter fun c => decide (288 ≤ c)).map fun c => c / 288 - 1
  let s1 := here.foldl throttle { s with hbm := { s.hbm with congested := s.hbm.congested.set chan s.clock } }
  if far.isEmpty then s1 else s1.tellTo 10 chan far.dedup

/-- QUEUE_CONGESTION (R342): the occupancy of a channel's queue rises to HBM.QTH.TH. -/
def execQueueCongestion (channel : Nat) (cores : List Nat) (s : State) : Host.Outcome State Fault Refusal :=
  event <|
    if (s.hbm.congested.get? channel).isSome || decide (chanOcc s channel cores < chanTh s channel) then s else signalChan s channel cores

/-- CONGESTION_REPEAT (R342): 256 clocks after its last signal a channel still at or above TH signals again; below TH it is congested no
more. -/
def execCongestionRepeat (channel : Nat) (cores : List Nat) (s : State) : Host.Outcome State Fault Refusal :=
  event <|
    match s.hbm.congested.get? channel with
    | none => s
    | some t =>
      if chanOcc s channel cores < chanTh s channel then { s with hbm := { s.hbm with congested := s.hbm.congested.del channel } }
      else if t + 256 ≤ s.clock then signalChan s channel cores
      else s

/-! ### Gang time slices (R253, R254) -/

/-- The slice entry that follows an entry, in order and wrapping around; without one, the first (R253). -/
def entryAfter (s : State) (p : Nat) (e : Option Nat) : Option Nat :=
  let valid := ((s.part p).slices.filter fun e => e.2.getLsbD 63).map (·.1)
  match e with
  | none => valid.head?
  | some e => (valid.find? fun k => decide (e < k)).orElse fun _ => valid.head?

/-- The slice entry that runs. -/
def entryNow (s : State) (p : Nat) : Option Nat := (s.part p).runVi.map fun _ => (s.part p).entry

/-- The slice entry after the present one (R253). -/
def nextEntry (s : State) (p : Nat) : Option Nat := entryAfter s p (entryNow s p)

/-- The virtual interface of a slice entry. -/
def entryVi (s : State) (p e : Nat) : Nat := fieldOf ((s.part p).slices.getD e 0) 5 0

/-- The length of a slice entry in nanoseconds (R253). -/
def entryTime (s : State) (p : Nat) (e : Option Nat) : Nat :=
  match e with
  | some e => fieldOf ((s.part p).slices.getD e 0) 52 32 * 1000
  | none => 0

/-- The slice entry that runs once every armed switch has been made, and the instant at which its slice begins. -/
def lastSlice (s : State) (p : Nat) : Option Nat × Nat :=
  (s.part p).armed.mergeSort.foldl (fun x t => (entryAfter s p x.1, t)) (entryNow s p, (s.part p).sliceAt)

/-- When the slice that runs last ends, by its entry's length (R253). -/
def sliceEnd (s : State) (p : Nat) : Nat := (lastSlice s p).2 + entryTime s p (lastSlice s p).1

/-- Whether a switch may be proposed for T: at the end of the last slice by its length, or, where that is less than 1 ms ahead, at any later
instant at least 1 ms ahead (R253, R254; log entry 46). -/
def mayPropose (s : State) (p t : Nat) : Bool :=
  let least := s.mgmt.gts.toNat + 1000000
  (s.part p).leads && (entryAfter s p none).isSome && !(s.part p).armed.contains t && decide (least ≤ t) &&
    (decide (sliceEnd s p < least) || t == sliceEnd s p)

/-- The partitions of this device in the gang of a partition, but for itself. -/
def gangHere (s : State) (p : Nat) : List Nat := ((s.part p).gang.filter fun m => m.1 == s.fabric.device).map (·.2)

/-- The other devices of the gang of a partition. -/
def gangFar (s : State) (p : Nat) : List Nat := (((s.part p).gang.map (·.1)).filter fun d => d != s.fabric.device).dedup

/-- A partition arms its comparison with T (R254). -/
def armAt (t : Nat) (s : State) (p : Nat) : State :=
  s.modPart p fun x => { x with armed := if x.armed.contains t then x.armed else x.armed ++ [t] }

/-- A partition disarms T (R254). -/
def disarm (t : Nat) (s : State) (p : Nat) : State := s.modPart p fun x => { x with armed := x.armed.filter (· != t) }

/-- T is proposed: sent to every member of the gang; those on this device arm and acknowledge at once (R254). -/
def propose (s : State) (p t : Nat) : State :=
  let s1 := if (gangFar s p).isEmpty then s else s.tellTo 5 t (gangFar s p)
  ((p :: gangHere s p).foldl (armAt t) s1).modPart p fun x =>
    { x with proposed := x.proposed ++ [(t, (gangHere s p).map fun q => (s.fabric.device, q))] }

/-- GANG_SWITCH_PROPOSE (R253, R254): the proposer sends T, at least 1 ms ahead, to every member, itself among them. -/
def execGangSwitchPropose (part t : Nat) (s : State) : Host.Outcome State Fault Refusal :=
  event (if mayPropose s part t then propose s part t else s)

/-- GANG_TIME_MESSAGE (R254): a member arms its comparison with T and acknowledges. -/
def execGangTimeMessage (part t : Nat) (s : State) : Host.Outcome State Fault Refusal := event (armAt t (s.tell 7 t) part)

/-- GANG_CANCELLATION (R254): every member disarms T. -/
def execGangCancellation (what : GangInstant) (s : State) : Host.Outcome State Fault Refusal := event (disarm what.t s what.part)

/-- An acknowledgement of T arrives from a member: its device and partition (R254). -/
def gangAcked (s : State) (p t dev mpart : Nat) : State :=
  s.modPart p fun x => { x with proposed := x.proposed.map fun e => if e.1 = t then (t, (dev, mpart) :: e.2) else e }

/-- The proposed instants at most 200 us ahead that some member of the gang has not acknowledged (R254). -/
def unacked (s : State) (p : Nat) : List Nat :=
  let t := s.part p
  ((t.proposed.filter fun e => decide (e.1 ≤ s.mgmt.gts.toNat + 200000) && t.gang.any fun m => !e.2.contains m).map (·.1))

/-- A proposal is cancelled: every member disarms it (R254). -/
def cancel (p : Nat) (s : State) (t : Nat) : State :=
  let s1 := if (gangFar s p).isEmpty then s else s.tellTo 6 t (gangFar s p)
  ((p :: gangHere s p).foldl (disarm t) s1).modPart p fun x => { x with proposed := x.proposed.filter fun e => e.1 != t }

/-- GANG_ACK_DEADLINE (R254): at T - 200 us without every acknowledgement the proposer cancels and proposes a new instant. -/
def execGangAckDeadline (part t : Nat) (s : State) : Host.Outcome State Fault Refusal :=
  event <|
    match unacked s part with
    | [] => s
    | l =>
      let s1 := l.foldl (cancel part) s
      if mayPropose s1 part t then propose s1 part t else s1

/-- A member that switches after losing Guyline to another member reports the loss (R254, R354). -/
def reportLoss (s : State) (p : Nat) : State :=
  if (gangFar s p).any fun d => !reachable s d then postSystem s p { cause := 0x0A } none else s

/-- A switch has been made: the instants that have come are disarmed, and the slice begins at the last of them (R254, R255). -/
def switched (s : State) (p : Nat) : State :=
  let now := s.mgmt.gts.toNat
  s.modPart p fun t =>
    { t with sliceAt := (t.armed.filter fun x => decide (x ≤ now)).foldl max t.sliceAt, armed := t.armed.filter fun x => decide (now < x)
             proposed := t.proposed.filter fun e => decide (now < e.1) }

/-- Steps 3 to 5 of a gang switch, the partition halted and drained: contexts are exchanged once the incoming one is in Bivouac, and the
incoming fibres resume (R255). -/
def switchCtx (s : State) (p : Nat) : State :=
  match nextEntry s p with
  | none => unhaltPart (switched s p) p
  | some e =>
    let v := entryVi s p e
    let t := s.part p
    let s1 :=
      if t.runVi = some v then s
      else
        let out := match t.runVi with
          | some u => stashCtx s p u
          | none => s
        loadCtx out p v
    if t.runVi ≠ some v && ((t.saved.get? v).map (fun x => !x.staged)).getD false then s
    else reportLoss (unhaltPart ((switched s1 p).modPart p fun t => { t with entry := e }) p) p

/-- The first slice of a partition that runs none begins at once (R253; log entry 46). -/
def firstSlice (s : State) (p : Nat) : State :=
  match entryAfter s p none with
  | some e => (loadCtx s p (entryVi s p e)).modPart p fun t => { t with entry := e, sliceAt := s.mgmt.gts.toNat }
  | none => s

/-- GANG_SWITCH (R255): at T the partition halts; drained and written back, its contexts are exchanged. -/
def execGangSwitch (part : Nat) (s : State) : Host.Outcome State Fault Refusal :=
  event <|
    let t := s.part part
    if t.runVi.isNone && t.armed.isEmpty && !t.halted then firstSlice s part
    else if t.armed.all fun x => decide (s.mgmt.gts.toNat < x) then s
    else if !t.halted then haltMark s part
    else if t.quiet then switchCtx s part
    else s

/-! ### Pod Cairns (R322) -/

/-- POD_CAIRN_PROPOSE: a member is told the instant T and the Cairn number. -/
def execPodCairnPropose (part t number : Nat) (s : State) : Host.Outcome State Fault Refusal :=
  event ((s.tell 5 t).modPart part fun x => { x with podAt := some (t, number), podAck := false, podT2 := none })

/-- Whether a partition has no message unaccepted and no access to another device's lines in flight (R322 step 1). -/
def quiescent (s : State) (p : Nat) : Bool :=
  atBoundary s p &&
    s.ops.all fun o => s.partOf o.fibre != p ||
      match o.kind with
      | .send .. => false
      | k => k.memAccs.all fun a => a.home == s.fabric.device

/-- POD_CAIRN_INSTANT (R322 step 1): from T a member holds dispatch, and acknowledges once it is quiescent. -/
def execPodCairnInstant (part : Nat) (s : State) : Host.Outcome State Fault Refusal :=
  event (if podHolds s part && quiescent s part then (s.tell 7 part).modPart part fun x => { x with podAck := true } else s)

/-- POD_CAIRN_ACKNOWLEDGED (R322 step 2): every member has acknowledged, and T2 is named. -/
def execPodCairnAcknowledged (part t2 : Nat) (s : State) : Host.Outcome State Fault Refusal :=
  event (if (s.part part).podAck then s.modPart part fun x => { x with podT2 := some t2 } else s)

/-- POD_CAIRN_ACK_TIMEOUT (R322 step 3): without every acknowledgement within 1 s of T the pod Cairn is cancelled. -/
def execPodCairnAckTimeout (part : Nat) (s : State) : Host.Outcome State Fault Refusal :=
  event <|
    match (s.part part).podAt, (s.part part).podT2 with
    | some (t, _), none =>
      if t + 1000000000 ≤ s.mgmt.gts.toNat then (s.tell 6 t).modPart part fun x => { x with podAt := none, podAck := false } else s
    | _, _ => s

/-- POD_CAIRN_TAKE (R322 step 2): at T2 the member takes the Cairn with the agreed number; a member of a pod-wide replay begins it instead
(R323). -/
def execPodCairnTake (part : Nat) (s : State) : Host.Outcome State Fault Refusal :=
  event <|
    match (s.part part).podAt, (s.part part).podT2 with
    | some (_, number), some t2 =>
      let done := fun (s : State) => s.modPart part fun x => { x with podAt := none, podAck := false, podT2 := none }
      if s.mgmt.gts.toNat < t2 then s
      else
        match (s.part part).replayDue with
        | some (cold, prior) => if (s.part part).podReplay && atBoundary s part then done (startReplay s part cold prior) else s
        | none =>
          if cairnReady s part then done (takeCairn s part ((cairnWanted s part).getD false) number) else closePages s part
    | _, _ => s

end Sys2Proof.Machine
end

