-- ==== Sys2Proof/Machine/Handler.lean ====
section
/-!
DEFINITION. Sys2Proof/Machine/Handler.lean: the commands of handlers and debuggers: RESUME, SKIP, STEP, RDREG, WRREG, INTR, HALT, UNHALT,
TERMINATE, and where their responses go (R273-R277, R296, R319, R362).
-/

namespace Sys2Proof.Machine

/-! ### Responses (R361, R362) -/

/-- Writes the response of a request into its ring slot, result data into its payload area, and advances HEAD (R362). -/
def respondRing (s : State) (fn slot code tag payload : Nat) : State :=
  let m := s.mgmt
  let result := if m.data.isEmpty then m.result.toNat else m.data.length
  let body := natBytes 2 (code + 2 ^ 15) ++ natBytes 2 tag ++ natBytes 4 m.status ++ natBytes 8 result ++ natBytes 48 0
  let h1 := s.hostMem.writeL payload m.data
  let ring := fun (r : ReqRing) => { r with head := r.head + 1 }
  { s with hostMem := h1.writeL slot body, mgmt := { m with rings := m.rings.upd fn ReqRing.init ring } }

/-- Sends the response of a request that came by datagram, its result data appended (R362). -/
def respondPort (s : State) (code tag : Nat) : State :=
  let m := s.mgmt
  let result := if m.data.isEmpty then m.result.toNat else m.data.length
  let body := natBytes 2 (code + 2 ^ 15) ++ natBytes 2 tag ++ natBytes 4 m.status ++ natBytes 8 result ++ natBytes 48 0 ++ m.data
  s.modMgmt fun m => { m with sent := m.sent ++ [body] }

/-- The response to the command last executed goes where its request says. -/
def respond (s : State) : Reply → State
  | .ring fn slot code tag payload => respondRing s fn slot code tag payload
  | .port code tag => respondPort s code tag

/-! ### The fibre of a command (R273, R362) -/

/-- The contexts in which a fibre is bound, by partition and interface: the one bound first, then those that are swapped out. -/
def fibreCtxs (s : State) (fid : Nat) : List (Nat × Nat) :=
  let p := s.partOfCore (coreOf fid)
  let saved := (s.part p).saved.filter fun e => e.2.fibres.keys.contains fid
  (if (s.fib fid).isSome then [(s.partOf fid, s.viOf fid)] else []) ++ saved.map fun e => (p, e.1)

/-- A command for one fibre acts on its context, wherever that is: the source's own; for PF0 the one bound, else one that is swapped out (log
entry 33). A fibre that is not bound is not in the required state; one that does not exist, or is not the source's, is an invalid
argument (R273, R362). -/
def forFibre (s : State) (fid : Nat) (k : State → Fibre → State) : State :=
  match (fibreCtxs s fid).find? fun e => srcMay s e.2 with
  | none => answer s (if fid < 9216 && (fibreCtxs s fid).isEmpty then 1 else 4) 0
  | some (p, v) => withVi s p v fun s =>
    match s.fib fid with
    | some f => k s f
    | none => answer s 1 0

/-- A command that reveals data of a confidential context is refused but through its session (R296). -/
def unlessConf (s : State) (fid : Nat) (k : State) : State := if confRefuses s (s.viOf fid) then answer s 3 0 else k

/-! ### RESUME, SKIP (R274) -/

/-- RESUME (R274). -/
def execResume (fibre : Nat) (s : State) : Host.Outcome State Fault Refusal :=
  event <| forFibre s fibre fun s f => if f.sched = .frozen then answer (resume s fibre) 0 0 else answer s 1 0

/-- SKIP (R274): Frozen with a SYNC record; of a consumed error (0x0A), which froze the fibre before its next word, it is RESUME. -/
def execSkip (fibre : Nat) (s : State) : Host.Outcome State Fault Refusal :=
  event <| forFibre s fibre fun s f =>
    match f.frozen with
    | some z => if f.sched = .frozen && z.sync then answer (resume (if z.cause = 0x0A then s else skipWord s fibre z) fibre) 0 0 else answer s 1 0
    | none => answer s 1 0

/-! ### RDREG, WRREG (R39, R275) -/

/-- The value RDREG returns: a 64-bit result, or the 40 bytes of q; none for a register or lane that does not exist (R275). -/
def readSel (s : State) (fid : Nat) (f : Fibre) (sel : RegSel) (l : Fin 32) : Option (DWord × List Byte) :=
  let n := sel.num
  let word := fun (x : Nat) => some (BitVec.ofNat 64 x, ([] : List Byte))
  match sel.cls with
  | .v => if n < 128 && f.hasReg n then word (readLane s fid n l).toNat else none
  | .p => if n < 8 then word (if inMask (f.readP n) l then 1 else 0) else none
  | .s => if n < 64 then word (f.readS n).toNat else none
  | .b => if n < 16 then word (vget f.b n 0).toNat else none
  | .cf => if n < 12 then word ((if f.cfErr.getLsbD n then 2 else 0) + if s.cfPending fid n then 1 else 0) else none
  | .q => if n < 2 then some (0, natBytes 40 (vget f.q n (lanesOf 0))[l].toNat) else none
  | .fpstat => word f.fpstat.toNat
  | .ric => word f.ric.toNat
  | .pc => word ((f.lane l).pc.toNat + 4 * (f.lane l).word)

/-- RDREG (R275): any bound fibre. -/
def execRdreg (fibre : Nat) (sel : RegSel) (lane : Nat) (s : State) : Host.Outcome State Fault Refusal :=
  event <| forFibre s fibre fun s f =>
    unlessConf s fibre <|
      match if lane < 32 then readSel s fibre f sel (Fin.ofNat 32 lane) else none with
      | some r => answerData s 0 r.1 r.2
      | none => answer s 4 0

/-- Lane l of a vector with one element replaced. -/
def setLane {α : Type} (v : Lanes α) (l : Fin 32) (x : α) : Lanes α := Vector.ofFn fun i => if i = l then x else v[i]

/-- What WRREG does to a register; none for a register or value that does not exist (R275). -/
def writeSel (s : State) (fid : Nat) (f : Fibre) (sel : RegSel) (l : Fin 32) (x : BitVec 320) : Option State :=
  let n := sel.num
  let put := fun (g : Fibre → Fibre) => some (s.modFib fid g)
  match sel.cls with
  | .v =>
    if n < 128 && f.hasReg n then some (writeReg s fid n ⟨setLane (readReg s fid n).vals l (x.setWidth 32), .g⟩) else none
  | .p => if n < 8 then put fun f => f.writeP n (1#32 <<< l.val) (if x.getLsbD 0 then BitVec.allOnes 32 else 0) else none
  | .s => if n < 64 then put fun f => f.writeS n (x.setWidth 64) else none
  | .b => if n < 16 then put fun f => { f with b := vset f.b n (x.setWidth 24 &&& 0xEFFFFF#24) } else none
  | .cf =>
    if n < 12 then put fun f => { f with cfErr := if x.getLsbD 1 then f.cfErr ||| (1#12 <<< n) else f.cfErr &&& ~~~(1#12 <<< n) } else none
  | .q => if n < 2 then put fun f => { f with q := vset f.q n (setLane (vget f.q n (lanesOf 0)) l x) } else none
  | .fpstat => if fieldOf x 319 12 ≠ 0 || 5 ≤ fieldOf x 2 0 then none else put fun f => { f with fpstat := x.setWidth 32 }
  | .ric => some s
  | .pc =>
    if fieldOf x 5 0 ≠ 0 then none
    else put fun f => f.onLanes (1#32 <<< l.val) fun k => { k with pc := x.setWidth 64, word := 1, hold := .none }

/-- WRREG (R275): Frozen or Halted, not in a replay mode. -/
def execWrreg (fibre : Nat) (sel : RegSel) (lane : Nat) (value : BitVec 320) (s : State) : Host.Outcome State Fault Refusal :=
  event <| forFibre s fibre fun s f =>
    unlessConf s fibre <|
      if !(f.sched == .frozen || f.halted) then answer s 1 0
      else if s.inReplayMode (s.partOf fibre) then answer s 2 0
      else
        match if lane < 32 then writeSel s fibre f sel (Fin.ofNat 32 lane) value else none with
        | some s1 => answer s1 0 0
        | none => answer s 4 0

/-! ### INTR, HALT, UNHALT, TERMINATE (R274, R277) -/

/-- The grid that a handle names: its queue in bits 13:0, the index of its packet in bits 31:16 (R362). -/
def handleGrid (s : State) (h : Nat) : Option Nat :=
  (s.grids.find? fun e => e.2.queue == h % 2 ^ 14 && e.2.idx == bitsOf h 31 16).map (·.1)

/-- Whether a fibre may be interrupted: Running, Ready or Waiting (R273). -/
def mayIntr (f : Fibre) : Bool := f.sched != .frozen && !f.halted

/-- Interrupts one fibre. -/
def intrOne (s : State) (fid : Nat) : State := s.modFib fid fun f => if mayIntr f then { f with intr := true } else f

/-- INTR (R277): one fibre, or every fibre of a grid. -/
def execIntr (target : Nat) (wholeGrid : Bool) (s : State) : Host.Outcome State Fault Refusal :=
  event <|
    if wholeGrid then
      match handleGrid s target with
      | none => answer s 4 0
      | some gid =>
        match s.grid gid with
        | none => answer s 4 0
        | some g =>
          if !srcMay s g.vi then answer s 4 0
          else if confRefuses s g.vi then answer s 3 0
          else if s.inReplayMode g.part then answer s 2 0
          else
            withVi s g.part g.vi fun s =>
              let fs := s.fibres.keys.filter fun f => s.gridNo f == some gid
              if fs.any fun f => ((s.fib f).map mayIntr).getD false then answer (fs.foldl intrOne s) 0 0 else answer s 1 0
    else
      forFibre s target fun s f =>
        unlessConf s target <|
          if s.inReplayMode (s.partOf target) then answer s 2 0
          else if mayIntr f then answer (intrOne s target) 0 0
          else answer s 1 0

/-- HALT (R277): steps 2 and 3 of R255. -/
def execHalt (part : Nat) (s : State) : Host.Outcome State Fault Refusal :=
  event (if 8 ≤ part || !srcMayPart s part then answer s 4 0 else answer (haltMark s part) 0 0)

/-- UNHALT (R277): step 5 of R255. -/
def execUnhalt (part : Nat) (s : State) : Host.Outcome State Fault Refusal :=
  event <|
    if 8 ≤ part || !srcMayPart s part then answer s 4 0
    else answer (if (s.part part).halted then unhaltPart s part else s) 0 0

/-- TERMINATE (R274): the grid is aborted with STATUS 0x30. -/
def execTerminate (handle : Nat) (s : State) : Host.Outcome State Fault Refusal :=
  event <|
    match handleGrid s handle with
    | none => answer s 4 0
    | some gid => if srcMay s (((s.grid gid).map (·.vi)).getD 0) then answer (abortGrid s gid 0x30) 0 0 else answer s 4 0

/-! ### STEP (R276, R319) -/

/-- The STEP record of a fibre: SUB 3, or SUB 4 with HELD (R265, R276). -/
def postStep (s : State) (fid : Nat) (l : Fin 32) (sub held : Nat) : State :=
  match s.fib fid with
  | none => s
  | some f =>
    let k := f.lane l
    let flt : Flt :=
      { cause := 0x0E, sub := sub, kind := 4, fibre := fid, part := s.partOf fid, clause := k.pc, word := k.word, rclause := k.pc,
        rword := k.word, ric := f.ric, lanes := f.liveMask, held := held, ctx := s.viOf fid }
    let t := recordTime s fid flt
    postRecord t.2 (s.viOf fid) (faultBits t.2 flt t.1) false

/-- Why a lane cannot issue: the HELD code of its hold; 0 when it is not held (R276). -/
def heldCode (f : Fibre) (l : Fin 32) : Nat :=
  match (f.lane l).hold with
  | .none => 0
  | .crossGo => 0
  | .cross _ => 1
  | .absent _ => 2
  | .sync _ => 3

/-- Why a step's word stalls without end: the HELD code of its wait; 0 for a wait that ends by itself (R276). -/
def waitCode (replaying : Bool) : Option Wait → Nat
  | some (.flags _) => 4
  | some .replay => 5
  | some (.msg _) => if replaying then 5 else 0
  | _ => 0

/-- Begins the step of a lane: its fibre runs for that word alone. -/
def beginStep (s : State) (fid : Nat) (l : Fin 32) : State :=
  let start := fun (x : Fibre) =>
    { x with step := some ⟨l.val, false, s.nextOp, x.halted, x.sched⟩, sched := .running, halted := false, run := none, wait := none
             walkReq := [], walkRes := [] }
  let s1 := s.modFib fid start
  match s1.mgmt.reply with
  | some r => s1.modMgmt fun m => { m with reply := none, stepReplies := m.stepReplies.set fid r }
  | none => s1

/-- STEP (R276): Frozen, or Halted in a halted partition; a lane that is held at its word gives status 5. The response of a step that
begins waits for its end. -/
def execStep (fibre lane : Nat) (s : State) : Host.Outcome State Fault Refusal :=
  event <| forFibre s fibre fun s f =>
    let l := Fin.ofNat 32 lane
    unlessConf s fibre <|
      if !(f.sched == .frozen || (f.halted && (s.part (s.partOf fibre)).halted)) then answer s 1 0
      else if 32 ≤ lane || !(f.lane l).live then answer s 4 0
      else if heldCode f l ≠ 0 then answer (postStep s fibre l 4 (heldCode f l)) 5 0
      else answer (beginStep s fibre l) 0 0

/-- Whether every operation that a step's word issued has completed; a counted signature is one that has (R276 step 3). -/
def stepOpsDone (s : State) (fid : Nat) (t : StepRun) : Bool :=
  s.ops.all fun o => o.fibre != fid || decide (o.id < t.firstOp) ||
    match o.kind with
    | .sign _ m => m == 0
    | _ => false

/-- The HELD code with which a step ends: none while it has not ended, 0 when its word is done. -/
def stepEnds (s : State) (fid : Nat) (f : Fibre) (t : StepRun) : Option Nat :=
  let h := heldCode f (Fin.ofNat 32 t.lane)
  if t.issued then (if stepOpsDone s fid t then some h else none)
  else if h ≠ 0 then some h
  else
    let w := waitCode (s.replaying (s.partOf fid)) f.wait
    if w ≠ 0 then some w else none

/-- A stepped fibre returns to the state it was in; one without live lanes is released (R17, R276 step 4). -/
def endStep (t : StepRun) (x : Fibre) : Fibre :=
  let back : Sched := if x.liveMask = 0 then .ready else if t.wasHalted then (if t.back = .waiting then .ready else t.back) else .frozen
  { x with step := none, run := none, wait := none, walkReq := [], sched := back, halted := t.wasHalted && x.liveMask != 0, drowsy := false
           frozen := if t.wasHalted then x.frozen else x.frozen.map fun z => { z with sync := false } }

/-- Sends the response that a step kept back. -/
def stepReply (s : State) (fid : Nat) : State :=
  match s.mgmt.stepReplies.get? fid with
  | some r => (respond s r).modMgmt fun m => { m with stepReplies := m.stepReplies.del fid }
  | none => s

/-- STEP_COMPLETE (R276 steps 3 and 4): the stepped word and its operations are done, or its lane is held. -/
def execStepComplete (fibre : Nat) (s : State) : Host.Outcome State Fault Refusal :=
  event <|
    match s.fib fibre with
    | none => s
    | some f =>
      match f.step with
      | none => s
      | some t =>
        match stepEnds s fibre f t with
        | none => s
        | some h =>
          let s1 := postStep s fibre (Fin.ofNat 32 t.lane) (if h = 0 then 3 else 4) h
          stepReply (answer (s1.modFib fibre (endStep t)) (if h = 0 then 0 else 5) 0) fibre

/-- The responses of steps that ended by a fault of their word (R276). -/
def settleSteps (s : State) : State :=
  s.mgmt.stepReplies.keys.foldl (fun s f => if ((s.fib f).bind (·.step)).isSome then s else stepReply (answer s 0 0) f) s

end Sys2Proof.Machine
end

