-- ==== Sys2Proof/Machine/Area.lean ====
section
/-!
DEFINITION. Sys2Proof/Machine/Area.lean: Bivouac and the context area: the image of a context that is swapped out, its spill and its
fill (R255, R278-R280).
-/

namespace Sys2Proof.Machine

/-- n bytes in a form private to the firmware: free values (R279, log entry 8). -/
def privBytes (base off n : Nat) : List Byte := (List.range n).map fun i => Config.areaByte (base * 2 ^ 40 + off + i)

/-- A section padded to a 64-byte boundary (R279). -/
def padded (l : List Byte) : List Byte := l ++ List.replicate ((64 - l.length % 64) % 64) 0

/-- Sections one after another, each given the offset at which it begins. -/
def sections (at_ : Nat) : List (Nat → List Byte) → List Byte
  | [] => []
  | f :: r => let x := padded (f at_); x ++ sections (at_ + x.length) r

/-- The value of a register in the compact form of its tag (R280). -/
def tagBytes (x : VReg) : List Byte :=
  match x.tag with
  | .u => natBytes 4 x.vals[0].toNat
  | .a => natBytes 4 x.vals[0].toNat ++ natBytes 4 (x.vals[1] - x.vals[0]).toNat
  | .g => x.vals.toList.flatMap fun w => natBytes 4 w.toNat

/-- A tag map over 128 registers, as rtag reports them; 3 where has does not hold (R280). -/
def tagMap (has : Nat → Bool) (tag : Nat → Tag) : List Byte :=
  natBytes 32 ((List.range 128).foldr (fun r x => (if has r then (tag r).code else 3) + 4 * x) 0)

/-- The entry of one lane: program counter with word index, held and live; then its stamp age (R280). -/
def laneBytes (clock : Nat) (l : Lane) : List Byte :=
  natBytes 8 (l.pc.toNat / 64 * 64 + l.word % 16 * 4 + (if l.hold == .none then 0 else 2) + if l.live then 1 else 0) ++
    natBytes 4 (clock - l.stamp) ++ natBytes 4 0

/-- cf0 to cf11 of a saved fibre: pending bits, then error bits. The order of the two within their word is the model's choice (log entry 47). -/
def flagBytes (ops : List Op) (fid : Nat) (f : Fibre) : List Byte :=
  let pend := (List.range 12).foldr (fun n x => (if ops.any fun o => o.fibre == fid && o.flag == some n then 1 else 0) + 2 * x) 0
  natBytes 4 (pend + f.cfErr.toNat * 2 ^ 12)

/-- A fibre entry (R280). -/
def fibreBytes (base clock off : Nat) (ops : List Op) (fid : Nat) (f : Fibre) : List Byte :=
  privBytes base off 64 ++ f.lanes.toList.flatMap (laneBytes clock) ++ (List.range 64).flatMap (fun n => natBytes 8 (f.readS n).toNat) ++
    f.b.toList.flatMap (fun b => natBytes 4 b.toNat) ++
    flagBytes ops fid f ++ natBytes 4 f.fpstat.toNat ++ natBytes 4 f.ric.toNat ++ f.append.toList.flatMap (fun w => natBytes 4 w.toNat) ++
    (List.range 7).flatMap (fun n => natBytes 4 (f.readP n).toNat) ++ privBytes base (off + 0x4B8) 72 ++
    tagMap f.inPriv (fun r => (f.v.getD r VReg.zero).tag) ++ privBytes base (off + 0x520) 32 ++
    f.q.toList.flatMap (fun q => q.toList.flatMap fun w => natBytes 40 w.toNat) ++
    (List.range f.priv).flatMap fun r => tagBytes (f.v.getD r VReg.zero)

/-- A convergence register (R279). -/
def convBytes (c : Conv) : List Byte :=
  natBytes 2 c.e ++ natBytes 2 c.cnt ++ natBytes 4 0 ++ (List.range 3).flatMap (fun i => natBytes 8 (nth c.desc i 0).toNat) ++
    natBytes 128 c.bitmap.toNat

/-- A team record (R279). -/
def teamArea (base off : Nat) (t : Team) : List Byte :=
  privBytes base off (64 + 256) ++ t.cvs.toList.flatMap convBytes ++ natBytes 192 0

/-- A slot record: its fibre barriers, then the tag map and values of each shared region (R279). -/
def slotBytes (base off : Nat) (x : Slot) : List Byte :=
  privBytes base off 64 ++ x.regions.toList.flatMap fun r =>
    if r.users.isEmpty then []
    else
      let has := fun (n : Nat) => decide (128 - r.size ≤ n ∧ n < 128)
      tagMap has (fun n => (r.v.getD n VReg.zero).tag) ++
        ((List.range 128).filter has).flatMap fun n => tagBytes (r.v.getD n VReg.zero)

/-- The block of core c of a saved context (R279). -/
def coreBytes (base clock c off : Nat) (x : Saved) : List Byte :=
  let k := x.cores.getD c Core.init
  let ts := (x.teams.filter fun e => e.2.core == c).map (·.2)
  let fs := x.fibres.filter fun e => coreOf e.1 == c
  let runs := ts.flatMap fun t => if t.slines = 0 then [] else [fun (_ : Nat) => k.scratch.readL (t.sbase * 128) (t.slines * 128)]
  let mat := if ts.any (·.matrix) then
      [fun (_ : Nat) => (List.range 8192).flatMap fun i => natBytes 40 (k.acc.getD i 0).toNat,
       fun (_ : Nat) => k.wb.readL 0 262144]
    else []
  sections off ([fun o => privBytes base o 256, fun o => privBytes base o 1024] ++ ts.map (fun t o => teamArea base o t) ++
    (List.range 4).map (fun n o => slotBytes base o (x.slots.getD (4 * c + n) Slot.init)) ++ fs.map (fun f o => fibreBytes base clock o x.ops f.1 f.2) ++
    runs ++ mat)

/-- The blocks of a list of cores from an offset on: the offset of each, and their bytes. -/
def coreBlocks (base clock : Nat) (x : Saved) : Nat → List Nat → List (Nat × Nat) × List Byte
  | _, [] => ([], [])
  | off, c :: r =>
    let b := coreBytes base clock c off x
    let y := coreBlocks base clock x (off + b.length) r
    ((c, off) :: y.1, b ++ y.2)

/-- PCTL as it reads: MODE, WDLOG, QLOG (R234). -/
def pctlValue (t : Part) : DWord := BitVec.ofNat 64 (t.qlog % 16 * 2 ^ 16 + t.wdlog % 64 * 2 ^ 8 + t.mode % 8)

/-- The image of a saved context (R279). -/
def areaImage (s : State) (p base clock : Nat) (pctl : DWord) (x : Saved) : List Byte :=
  let cores := s.coresOf p
  let y := coreBlocks base clock x 0x1000 cores
  natBytes 8 1 ++ natBytes 8 pctl.toNat ++ natBytes 8 cores.length ++ natBytes 40 0 ++
    (List.range 288).flatMap (fun c => natBytes 8 (AMap.getD y.1 c 0)) ++ privBytes base 0x940 0x6C0 ++ y.2

/-- The physical address of the context area of an interface (R359). -/
def areaBase (s : State) (v : Nat) : Nat := fieldOf (s.vi v).cfg 63 12 * 4096

/-- Spills one context to its area. -/
def spillOne (p : Nat) (s : State) (e : Nat × Saved) : State :=
  if e.2.staged || e.2.spilled.isSome then s
  else
    let pctl := pctlValue (s.part p)
    let img := areaImage s p s.free s.clock pctl e.2
    { s with mem := s.mem.writeL (areaBase s e.1) img, free := s.free + 1 }.modPart p fun t =>
      { t with saved := t.saved.adj e.1 fun x => { x with spilled := some (s.free, s.clock, pctl) } }

/-- BIVOUAC_SPILL (R255, R278): the arrays and control state of the context that was swapped out reach its context area. -/
def execBivouacSpill (part : Nat) (s : State) : Host.Outcome State Fault Refusal :=
  event ((s.part part).saved.foldl (spillOne part) s)

/-- A vector register of free values. -/
def freeReg (n r : Nat) : VReg := ⟨Vector.ofFn fun l => (Config.freeBits (n + r) >>> (32 * l.val)).setWidth 32, .g⟩

/-- A fibre whose saved area was written: what its entry holds of registers, flags, counts and places is undefined (R280). -/
def unknownFibre (n : Nat) (f : Fibre) : Fibre :=
  let bits := fun (w k : Nat) => ((Config.freeBits (n + k)).setWidth w : BitVec w)
  { f with
    v := (List.range f.priv).map fun r => (r, freeReg n r)
    s := Vector.ofFn fun i => bits 64 (128 + i.val)
    p := Vector.ofFn fun i => bits 32 (192 + i.val)
    q := Vector.ofFn fun i => Vector.ofFn fun l => bits 320 (200 + 32 * i.val + l.val)
    b := Vector.ofFn fun i => bits 24 (264 + i.val)
    fpstat := bits 32 280, ric := bits 32 281, append := Vector.ofFn fun i => bits 32 (282 + i.val), cfErr := bits 12 286
    wdog := (bits 32 287).toNat
    lanes := Vector.ofFn fun l =>
      { f.lanes[l] with pc := bits 64 (288 + l.val), word := 1 + (bits 32 (320 + l.val)).toNat % 15, stamp := (bits 32 (352 + l.val)).toNat } }

/-- A core's arrays whose saved area was written: scratchpad, accumulator store, weight buffer are undefined (R280). -/
def unknownCore (n : Nat) (k : Core) : Core :=
  { k with
    scratch := (List.range 4096).foldl (fun m i => m.writeN (128 * i) 128 (Config.freeBits (n + i)).toNat) k.scratch
    acc := (List.range 8192).map fun i => (i, (Config.freeBits (n + 4096 + i)).setWidth 320)
    wb := (List.range 2048).foldl (fun m i => m.writeN (128 * i) 128 (Config.freeBits (n + 12288 + i)).toNat) k.wb }

/-- A slot whose saved area was written: its shared regions hold undefined values (R280). -/
def unknownSlot (n : Nat) (x : Slot) : Slot :=
  { x with regions := Vector.ofFn fun i =>
      { x.regions[i] with v := (List.range x.regions[i].size).map fun r => (128 - x.regions[i].size + r, freeReg (n + 32 * i.val) r) } }

/-- A team whose saved area was written: its barrier and convergence counts are undefined (R280). -/
def unknownTeam (n : Nat) (t : Team) : Team :=
  { t with
    bars := Vector.ofFn fun i => { t.bars[i] with phase := (Config.freeBits (n + i.val)).setWidth 16 }
    cvs := Vector.ofFn fun i =>
      { t.cvs[i] with desc := (List.range 3).map fun k => ((Config.freeBits (n + 16 + i.val)) >>> (64 * k)).setWidth 64 } }

/-- A context whose saved area was written while it was swapped out (R280), with free values from a count on. -/
def unknownCtx (n : Nat) (x : Saved) : Saved :=
  { x with
    fibres := x.fibres.mapVals fun f y => unknownFibre (n + 1024 * f) y
    cores := x.cores.mapVals fun c k => unknownCore (n + 1024 * 9216 + 16384 * c) k
    slots := x.slots.mapVals fun i y => unknownSlot (n + 1024 * 9216 + 16384 * 288 + 128 * i) y
    teams := x.teams.mapVals fun i y => unknownTeam (n + 1024 * 9216 + 16384 * 288 + 128 * 1152 + 32 * i) y }

/-- Whether the area of a spilled context still holds its image (R280). -/
def areaIntact (s : State) (p v : Nat) (x : Saved) : Bool :=
  match x.spilled with
  | none => true
  | some (base, clock, pctl) =>
    let img := areaImage s p base clock pctl x
    s.mem.readL (areaBase s v) img.length == img

/-- BIVOUAC_FILL (R255): the incoming context is brought into Bivouac, and its control state into the L3. A context whose saved area was
written meanwhile has undefined values (R280). -/
def execBivouacFill (part : Nat) (s : State) : Host.Outcome State Fault Refusal :=
  event <|
    match nextEntry s part with
    | some e =>
      let v := entryVi s part e
      match (s.part part).saved.get? v with
      | none => s
      | some x =>
        let ok := areaIntact s part v x
        let y : Saved := { if ok then x else unknownCtx s.free x with staged := true }
        { s with free := if ok then s.free else s.free + 1024 * 9216 + 16384 * 288 + 128 * 1152 + 32 * s.nextTeam }.modPart part fun t => { t with saved := t.saved.set v y }
    | none => s

end Sys2Proof.Machine
end

