-- ==== Sys2Proof/WellFormed.lean ====
section
/-!
DEFINITION. Sys2Proof/WellFormed.lean: the operand conditions whose breach makes a word an illegal instruction
(cause 0x01) whatever state it meets: odd registers of a pair (R23), quads (R152), register ranges (R180), numbers out of
range (R173, R175, R177, R179, R211), reserved combinations (R127, R153), special-register indices (R36).
-/

namespace Sys2Proof

/-- A 64-bit operand names an even register (R23). -/
def even7 (r : BitVec 7) : Bool := r.toNat % 2 == 0

/-- A 128-bit operand names a register that is a multiple of 4 (R152). -/
def quad7 (r : BitVec 7) : Bool := r.toNat % 4 == 0

/-- A register range s[a]..s[a+n-1] starts at or above its lower limit and ends at or below s63 (R180). -/
def sregs (a : BitVec 6) (lo n : Nat) : Bool := decide (lo ≤ a.toNat) && decide (a.toNat + n ≤ 64)

/-- A conversion format held in a register pair (R126). -/
def CvtFmt.isPair : CvtFmt → Bool
  | .sg64 | .us64 | .f64 => true
  | .sg | .us | .f32 | .e8e0 | .e8e1 | .e8e2 | .e16e1 | .e16e2 | .e32e2 => false

/-- A tapered conversion format (R126). -/
def CvtFmt.isTap : CvtFmt → Bool
  | .e8e0 | .e8e1 | .e8e2 | .e16e1 | .e16e2 | .e32e2 => true
  | .sg | .us | .f32 | .sg64 | .us64 | .f64 => false

/-- The destination register of an extended load has the alignment of its width (R23, R152). -/
def LdKind.regsOk (k : LdKind) (d : BitVec 7) : Bool :=
  match k with
  | .b64 => even7 d
  | .b128 => quad7 d
  | .b8zx | .b8sx | .b16zx | .b16sx | .b32 => true

/-- The source register of an extended store has the alignment of its width (R23, R152). -/
def StKind.regsOk (k : StKind) (d : BitVec 7) : Bool :=
  match k with
  | .b64 => even7 d
  | .b128 => quad7 d
  | .b8 | .b16 | .b32 => true

/-- The static conditions of a word (R83). A step that no word encodes has none. -/
def Instr.wf (i : Instr) : Bool :=
  match i with
  | .iadd _ _ _ => true
  | .isub _ _ _ => true
  | .imul _ _ _ => true
  | .imulhSg _ _ _ => true
  | .imulhUs _ _ _ => true
  | .imad _ _ _ => true
  | .iminSg _ _ _ => true
  | .iminUs _ _ _ => true
  | .imaxSg _ _ _ => true
  | .imaxUs _ _ _ => true
  | .iabs _ _ => true
  | .and _ _ _ => true
  | .or _ _ _ => true
  | .xor _ _ _ => true
  | .andn _ _ _ => true
  | .shl _ _ _ => true
  | .shr _ _ _ => true
  | .sar _ _ _ => true
  | .rot _ _ _ => true
  | .clz _ _ => true
  | .popc _ _ => true
  | .brev _ _ => true
  | .mov _ _ => true
  | .movFromUniform _ _ => true
  | .movB64 d _ => even7 d
  | .bfeUs _ _ _ => true
  | .bfeSg _ _ _ => true
  | .bfi _ _ _ => true
  | .iadd64 d a b => even7 d && even7 a && even7 b
  | .isub64 d a b => even7 d && even7 a && even7 b
  | .imul64 d a b => even7 d && even7 a && even7 b
  | .shl64 d a _ => even7 d && even7 a
  | .shr64 d a _ => even7 d && even7 a
  | .sar64 d a _ => even7 d && even7 a
  | .iaddImm _ _ _ => true
  | .andImm _ _ _ => true
  | .shlImm _ _ _ => true
  | .shrImm _ _ _ => true
  | .sarImm _ _ _ => true
  | .rotImm _ _ _ => true
  | .shl64Imm d a _ => even7 d && even7 a
  | .shr64Imm d a _ => even7 d && even7 a
  | .sar64Imm d a _ => even7 d && even7 a
  | .movi _ _ => true
  | .icmp _ _ _ _ => true
  | .icmp64 _ _ a b => even7 a && even7 b
  | .sel _ _ _ _ _ => true
  | .pand _ _ _ => true
  | .por _ _ _ => true
  | .pxor _ _ _ => true
  | .pnot _ _ => true
  | .idp4Sg _ _ _ => true
  | .idp4Us _ _ _ => true
  | .idp2Sg _ _ _ => true
  | .idp2Us _ _ _ => true
  | .faddF32 _ _ _ => true
  | .fsubF32 _ _ _ => true
  | .fmulF32 _ _ _ => true
  | .ffmaF32 _ _ _ => true
  | .fminF32 _ _ _ => true
  | .fmaxF32 _ _ _ => true
  | .faddF64 d a b => even7 d && even7 a && even7 b
  | .fsubF64 d a b => even7 d && even7 a && even7 b
  | .fmulF64 d a b => even7 d && even7 a && even7 b
  | .ffmaF64 d a b => even7 d && even7 a && even7 b
  | .fminF64 d a b => even7 d && even7 a && even7 b
  | .fmaxF64 d a b => even7 d && even7 a && even7 b
  | .fcmpF32 _ _ _ _ => true
  | .fcmpF64 _ _ a b => even7 a && even7 b
  | .fdivF32 _ _ _ => true
  | .fsqrtF32 _ _ => true
  | .frcpF32 _ _ => true
  | .frsqF32 _ _ => true
  | .fdivF64 d a b => even7 d && even7 a && even7 b
  | .fsqrtF64 d a => even7 d && even7 a
  | .frcpF64 d a => even7 d && even7 a
  | .frsqF64 d a => even7 d && even7 a
  | .tradd _ _ _ _ => true
  | .trsub _ _ _ _ => true
  | .trmul _ _ _ _ => true
  | .trfma _ _ _ _ => true
  | .trmin _ _ _ _ => true
  | .trmax _ _ _ _ => true
  | .trcmp _ _ _ _ _ => true
  | .trdec _ d _ => even7 d
  | .trenc _ _ a => even7 a
  | .qmac _ _ _ _ => true
  | .qclr _ => true
  | .qround d _ t => (t != .f64 || even7 d)
  | .qadd _ _ _ => true
  | .fex2F32 _ _ => true
  | .flg2F32 _ _ => true
  | .fsinF32 _ _ => true
  | .fcosF32 _ _ => true
  | .cvt t d a f => (!t.isPair || even7 d) && (!f.isPair || even7 a) && (t != f || t.isTap)
  | .cvtClamp t _ a f => (!f.isPair || even7 a) && t.isTap
  | .shflIdx w d a _ => (!w || (even7 d && even7 a))
  | .shflUp w d a _ => (!w || (even7 d && even7 a))
  | .shflDown w d a _ => (!w || (even7 d && even7 a))
  | .shflXor w d a _ => (!w || (even7 d && even7 a))
  | .voteAny _ _ => true
  | .voteAll _ _ => true
  | .voteBallot _ _ => true
  | .voteEq _ _ => true
  | .matchB32 _ _ => true
  | .matchB64 _ a => even7 a
  | .red _ _ _ => true
  | .scan _ _ _ _ => true
  | .ldB32 _ a _ _ => even7 a
  | .ldB64 d a _ _ => even7 d && even7 a
  | .ldB128 d a _ _ => quad7 d && even7 a
  | .stB32 _ a _ _ => even7 a
  | .stB64 d a _ _ => even7 d && even7 a
  | .stB128 d a _ _ => quad7 d && even7 a
  | .ldExtended d a _ wc o c => wc.regsOk d && even7 a && (o || c == .fibre)
  | .pf a _ _ => even7 a
  | .stExtended d a _ wc o c => wc.regsOk d && even7 a && (o || c == .fibre)
  | .ldsB32 _ _ _ => true
  | .ldsB64 d _ _ => even7 d
  | .stsB32 _ _ _ => true
  | .stsB64 d _ _ => even7 d
  | .atomAddB32 _ a _ _ => even7 a
  | .atomMinSgB32 _ a _ _ => even7 a
  | .atomMinUsB32 _ a _ _ => even7 a
  | .atomMaxSgB32 _ a _ _ => even7 a
  | .atomMaxUsB32 _ a _ _ => even7 a
  | .atomAndB32 _ a _ _ => even7 a
  | .atomOrB32 _ a _ _ => even7 a
  | .atomXorB32 _ a _ _ => even7 a
  | .atomXchgB32 _ a _ _ => even7 a
  | .atomCasB32 _ a _ _ => even7 a
  | .atomAddB64 d a _ _ => even7 d && even7 a
  | .atomMinSgB64 d a _ _ => even7 d && even7 a
  | .atomMinUsB64 d a _ _ => even7 d && even7 a
  | .atomMaxSgB64 d a _ _ => even7 d && even7 a
  | .atomMaxUsB64 d a _ _ => even7 d && even7 a
  | .atomAndB64 d a _ _ => even7 d && even7 a
  | .atomOrB64 d a _ _ => even7 d && even7 a
  | .atomXorB64 d a _ _ => even7 d && even7 a
  | .atomXchgB64 d a _ _ => even7 d && even7 a
  | .atomCasB64 d a _ _ => even7 d && even7 a
  | .acasB128 d a _ _ => quad7 d && even7 a
  | .aacc d a _ f => even7 a && (f != .f64 || even7 d)
  | .arsv _ _ => true
  | .bra _ _ _ => true
  | .call _ _ _ => true
  | .callr _ _ a => even7 a
  | .ret _ _ => true
  | .jmpr _ _ a => even7 a
  | .exit _ _ => true
  | .yield => true
  | .trap _ _ _ => true
  | .bkpt _ _ _ => true
  | .nop => true
  | .xPrefix _ _ _ _ _ k kk ls => (k != .none || (kk == 0 && !ls))
  | .wPrefix _ _ => true
  | .uadd _ _ _ => true
  | .usub _ _ _ => true
  | .umul _ _ _ => true
  | .uand _ _ _ => true
  | .uor _ _ _ => true
  | .uxor _ _ _ => true
  | .ushl _ _ _ => true
  | .ushr _ _ _ => true
  | .usar _ _ _ => true
  | .uminSg _ _ _ => true
  | .uminUs _ _ _ => true
  | .umaxSg _ _ _ => true
  | .umaxUs _ _ _ => true
  | .umov _ _ => true
  | .usel _ _ _ => true
  | .ucmp _ _ _ _ => true
  | .uaddImm _ _ _ => true
  | .uld _ _ _ _ => true
  | .ust _ _ _ _ => true
  | .umoviLo _ _ => true
  | .umoviHi _ _ => true
  | .ubra _ _ _ => true
  | .ucall _ _ _ => true
  | .ubraReg _ => true
  | .ucallReg _ => true
  | .fence _ => true
  | .fenceAcq _ => true
  | .fenceRel _ => true
  | .fenceLrec => true
  | .barInit _ n => decide (n.toNat < 16)
  | .barArrive _ n => decide (n.toNat < 16)
  | .barWait _ _ n => decide (n.toNat < 16)
  | .barSync _ n => decide (n.toNat < 16)
  | .barInval n => decide (n.toNat < 16)
  | .fbarSync _ n _ => decide (n.toNat < 4)
  | .ringInit _ r => decide (r.toNat < 16)
  | .ringArriveFull _ r => decide (r.toNat < 16)
  | .ringArriveEmpty _ r => decide (r.toNat < 16)
  | .ringWaitFull _ _ r _ => decide (r.toNat < 16)
  | .ringWaitEmpty _ _ r _ => decide (r.toNat < 16)
  | .cftest _ n => decide (n.toNat < 12)
  | .copy a _ _ => sregs a 1 4
  | .copySt a _ _ => sregs a 1 4
  | .copyAcc a _ _ => sregs a 1 4
  | .cvinit _ _ => true
  | .mma a _ => sregs a 1 3
  | .wbload a _ => sregs a 1 3
  | .wbloadMask a _ => sregs a 1 3
  | .accld a => sregs a 1 3
  | .accldF64 a => sregs a 1 3
  | .accst a => sregs a 1 3
  | .accstF64 a => sregs a 1 3
  | .acczero a => sregs a 1 3
  | .opfence => true
  | .xformCvt a _ => sregs a 1 5
  | .xformRound a _ => sregs a 1 5
  | .xformScale a _ => sregs a 1 5
  | .xformFill a _ => sregs a 1 5
  | .xformZero a _ => sregs a 1 5
  | .msgSend a _ => sregs a 0 8
  | .msgRecv d _ _ => sregs d 1 8
  | .sregRdVector d i => decide (i.toNat ≤ 0x11) && (!(i == 0x0C || i == 0x0D) || even7 d)
  | .sregRdUniform _ i => decide (i.toNat ≤ 0x11)
  | .sregWr _ i => i == 0x0E
  | .temit _ _ => true
  | .ctrRd _ n => decide (n.toNat ≤ 15)
  | .ctrCtl _ n => decide (n.toNat ≤ 3)
  | .rtag _ _ => true
  | .glaunch a _ => sregs a 1 8
  | .clauseFetch _ => true
  | .ricWrap _ => true
  | .watchdogFault _ => true
  | .drowsyRetention _ => true
  | .loadDataReturn _ => true
  | .storePerformed _ => true
  | .atomicPerformed _ => true
  | .classBComplete _ => true
  | .pageWalkComplete _ => true
  | .lrecFillComplete _ => true
  | .copyLineArrival _ _ => true
  | .engineOperationComplete _ => true
  | .fibreRelease _ => true
  | .messageArrival _ _ _ _ _ => true
  | .msgAccepted _ => true
  | .mailboxAdmissionSignal _ _ => true
  | .qdbWrite _ _ => true
  | .packetConsume _ => true
  | .clusterPlace _ => true
  | .priorityWaitLimit _ => true
  | .gridComplete _ => true
  | .teamRetire _ => true
  | .modeChangeApply _ => true
  | .throttleSignal _ => true
  | .quietInterval _ => true
  | .queueCongestion _ _ => true
  | .congestionRepeat _ _ => true
  | .gangSwitchPropose _ _ => true
  | .gangTimeMessage _ _ => true
  | .gangCancellation _ => true
  | .gangAckDeadline _ _ => true
  | .gangSwitch _ => true
  | .bivouacFill _ => true
  | .bivouacSpill _ => true
  | .cairn _ => true
  | .podCairnPropose _ _ _ => true
  | .podCairnAckTimeout _ => true
  | .podCairnTake _ => true
  | .chunkLimit _ => true
  | .sequenceExhausted _ => true
  | .replayLogEnd _ => true
  | .abortDrained _ => true
  | .restoreComplete _ => true
  | .epochScrub _ => true
  | .l1Eviction _ _ => true
  | .coherenceRead _ _ _ => true
  | .coherenceOwnership _ _ _ => true
  | .coherenceWriteback _ _ _ _ => true
  | .evictionNotice _ _ => true
  | .invalidation _ _ => true
  | .recallLine _ _ => true
  | .lostCopiesNotice _ => true
  | .hostMemRead _ _ _ => true
  | .hostMemWrite _ _ _ => true
  | .hostCacheOwnership _ _ => true
  | .pageRecompress _ _ => true
  | .rmThreshold _ _ => true
  | .rmHoldEnd _ => true
  | .periodicRefresh _ _ => true
  | .traceFilter _ => true
  | .linkFailure _ => true
  | .linkTimeout _ => true
  | .ptpTimeUpdate _ => true
  | .intrFreeze _ => true
  | .stepComplete _ => true
  | .resume _ => true
  | .skip _ => true
  | .step _ _ => true
  | .rdreg _ _ _ => true
  | .wrreg _ _ _ _ => true
  | .intr _ _ => true
  | .halt _ => true
  | .unhalt _ => true
  | .terminate _ => true
  | .replay _ _ _ => true
  | .ctrtot _ => true
  | .ctrgrant _ _ => true
  | .lanternLoad _ _ _ => true
  | .lanternRead _ => true
  | .ctrprog _ _ _ _ _ => true
  | .ctrread _ _ => true
  | .cfgrd _ _ => true
  | .cfgwr _ _ _ _ => true
  | .btinval _ _ _ => true
  | .tlbinval _ _ _ => true
  | .mrdbWrite _ _ => true
  | .mgmtDatagram _ => true
  | .info => true
  | .storeManifest _ => true
  | .compareManifest _ => true
  | .attest _ _ _ => true
  | .openSession _ _ => true
  | .remapAdd _ _ _ _ => true
  | .powerState _ => true
  | .warmReset => true
  | .fwUpdate _ => true
  | .cxlHotReset _ => true
  | .coldReset => true
  | .thermalWarning => true
  | .thermalTrip => true
  | .fqcfgWrite _ _ => true
  | .fqptrWrite _ _ => true
  | .fqstatRead _ => true
  | .srstatRead => true
  | .trstatRead _ => true
  | .hbmErrRead _ => true
  | .trptrWrite _ _ => true
  | .urstatFailClear _ => true
  | .registerWrite _ _ _ => true
  | .recorderBufferFree _ _ => true
  | .twinPageConsumed _ => true
  | .powerLoss => true
  | .linkRetrained _ => true
  | .flitCrcRetry _ => true
  | .guylineCreditReturn _ _ => true
  | .podCairnInstant _ => true
  | .podCairnAcknowledged _ _ => true
  | .h2dSnoop _ _ => true

/-- A step that some word encodes; the other steps are events of the device. -/
def Instr.isWord (i : Instr) : Bool :=
  match i with
  | .iadd _ _ _ => true
  | .isub _ _ _ => true
  | .imul _ _ _ => true
  | .imulhSg _ _ _ => true
  | .imulhUs _ _ _ => true
  | .imad _ _ _ => true
  | .iminSg _ _ _ => true
  | .iminUs _ _ _ => true
  | .imaxSg _ _ _ => true
  | .imaxUs _ _ _ => true
  | .iabs _ _ => true
  | .and _ _ _ => true
  | .or _ _ _ => true
  | .xor _ _ _ => true
  | .andn _ _ _ => true
  | .shl _ _ _ => true
  | .shr _ _ _ => true
  | .sar _ _ _ => true
  | .rot _ _ _ => true
  | .clz _ _ => true
  | .popc _ _ => true
  | .brev _ _ => true
  | .mov _ _ => true
  | .movFromUniform _ _ => true
  | .movB64 _ _ => true
  | .bfeUs _ _ _ => true
  | .bfeSg _ _ _ => true
  | .bfi _ _ _ => true
  | .iadd64 _ _ _ => true
  | .isub64 _ _ _ => true
  | .imul64 _ _ _ => true
  | .shl64 _ _ _ => true
  | .shr64 _ _ _ => true
  | .sar64 _ _ _ => true
  | .iaddImm _ _ _ => true
  | .andImm _ _ _ => true
  | .shlImm _ _ _ => true
  | .shrImm _ _ _ => true
  | .sarImm _ _ _ => true
  | .rotImm _ _ _ => true
  | .shl64Imm _ _ _ => true
  | .shr64Imm _ _ _ => true
  | .sar64Imm _ _ _ => true
  | .movi _ _ => true
  | .icmp _ _ _ _ => true
  | .icmp64 _ _ _ _ => true
  | .sel _ _ _ _ _ => true
  | .pand _ _ _ => true
  | .por _ _ _ => true
  | .pxor _ _ _ => true
  | .pnot _ _ => true
  | .idp4Sg _ _ _ => true
  | .idp4Us _ _ _ => true
  | .idp2Sg _ _ _ => true
  | .idp2Us _ _ _ => true
  | .faddF32 _ _ _ => true
  | .fsubF32 _ _ _ => true
  | .fmulF32 _ _ _ => true
  | .ffmaF32 _ _ _ => true
  | .fminF32 _ _ _ => true
  | .fmaxF32 _ _ _ => true
  | .faddF64 _ _ _ => true
  | .fsubF64 _ _ _ => true
  | .fmulF64 _ _ _ => true
  | .ffmaF64 _ _ _ => true
  | .fminF64 _ _ _ => true
  | .fmaxF64 _ _ _ => true
  | .fcmpF32 _ _ _ _ => true
  | .fcmpF64 _ _ _ _ => true
  | .fdivF32 _ _ _ => true
  | .fsqrtF32 _ _ => true
  | .frcpF32 _ _ => true
  | .frsqF32 _ _ => true
  | .fdivF64 _ _ _ => true
  | .fsqrtF64 _ _ => true
  | .frcpF64 _ _ => true
  | .frsqF64 _ _ => true
  | .tradd _ _ _ _ => true
  | .trsub _ _ _ _ => true
  | .trmul _ _ _ _ => true
  | .trfma _ _ _ _ => true
  | .trmin _ _ _ _ => true
  | .trmax _ _ _ _ => true
  | .trcmp _ _ _ _ _ => true
  | .trdec _ _ _ => true
  | .trenc _ _ _ => true
  | .qmac _ _ _ _ => true
  | .qclr _ => true
  | .qround _ _ _ => true
  | .qadd _ _ _ => true
  | .fex2F32 _ _ => true
  | .flg2F32 _ _ => true
  | .fsinF32 _ _ => true
  | .fcosF32 _ _ => true
  | .cvt _ _ _ _ => true
  | .cvtClamp _ _ _ _ => true
  | .shflIdx _ _ _ _ => true
  | .shflUp _ _ _ _ => true
  | .shflDown _ _ _ _ => true
  | .shflXor _ _ _ _ => true
  | .voteAny _ _ => true
  | .voteAll _ _ => true
  | .voteBallot _ _ => true
  | .voteEq _ _ => true
  | .matchB32 _ _ => true
  | .matchB64 _ _ => true
  | .red _ _ _ => true
  | .scan _ _ _ _ => true
  | .ldB32 _ _ _ _ => true
  | .ldB64 _ _ _ _ => true
  | .ldB128 _ _ _ _ => true
  | .stB32 _ _ _ _ => true
  | .stB64 _ _ _ _ => true
  | .stB128 _ _ _ _ => true
  | .ldExtended _ _ _ _ _ _ => true
  | .pf _ _ _ => true
  | .stExtended _ _ _ _ _ _ => true
  | .ldsB32 _ _ _ => true
  | .ldsB64 _ _ _ => true
  | .stsB32 _ _ _ => true
  | .stsB64 _ _ _ => true
  | .atomAddB32 _ _ _ _ => true
  | .atomMinSgB32 _ _ _ _ => true
  | .atomMinUsB32 _ _ _ _ => true
  | .atomMaxSgB32 _ _ _ _ => true
  | .atomMaxUsB32 _ _ _ _ => true
  | .atomAndB32 _ _ _ _ => true
  | .atomOrB32 _ _ _ _ => true
  | .atomXorB32 _ _ _ _ => true
  | .atomXchgB32 _ _ _ _ => true
  | .atomCasB32 _ _ _ _ => true
  | .atomAddB64 _ _ _ _ => true
  | .atomMinSgB64 _ _ _ _ => true
  | .atomMinUsB64 _ _ _ _ => true
  | .atomMaxSgB64 _ _ _ _ => true
  | .atomMaxUsB64 _ _ _ _ => true
  | .atomAndB64 _ _ _ _ => true
  | .atomOrB64 _ _ _ _ => true
  | .atomXorB64 _ _ _ _ => true
  | .atomXchgB64 _ _ _ _ => true
  | .atomCasB64 _ _ _ _ => true
  | .acasB128 _ _ _ _ => true
  | .aacc _ _ _ _ => true
  | .arsv _ _ => true
  | .bra _ _ _ => true
  | .call _ _ _ => true
  | .callr _ _ _ => true
  | .ret _ _ => true
  | .jmpr _ _ _ => true
  | .exit _ _ => true
  | .yield => true
  | .trap _ _ _ => true
  | .bkpt _ _ _ => true
  | .nop => true
  | .xPrefix _ _ _ _ _ _ _ _ => true
  | .wPrefix _ _ => true
  | .uadd _ _ _ => true
  | .usub _ _ _ => true
  | .umul _ _ _ => true
  | .uand _ _ _ => true
  | .uor _ _ _ => true
  | .uxor _ _ _ => true
  | .ushl _ _ _ => true
  | .ushr _ _ _ => true
  | .usar _ _ _ => true
  | .uminSg _ _ _ => true
  | .uminUs _ _ _ => true
  | .umaxSg _ _ _ => true
  | .umaxUs _ _ _ => true
  | .umov _ _ => true
  | .usel _ _ _ => true
  | .ucmp _ _ _ _ => true
  | .uaddImm _ _ _ => true
  | .uld _ _ _ _ => true
  | .ust _ _ _ _ => true
  | .umoviLo _ _ => true
  | .umoviHi _ _ => true
  | .ubra _ _ _ => true
  | .ucall _ _ _ => true
  | .ubraReg _ => true
  | .ucallReg _ => true
  | .fence _ => true
  | .fenceAcq _ => true
  | .fenceRel _ => true
  | .fenceLrec => true
  | .barInit _ _ => true
  | .barArrive _ _ => true
  | .barWait _ _ _ => true
  | .barSync _ _ => true
  | .barInval _ => true
  | .fbarSync _ _ _ => true
  | .ringInit _ _ => true
  | .ringArriveFull _ _ => true
  | .ringArriveEmpty _ _ => true
  | .ringWaitFull _ _ _ _ => true
  | .ringWaitEmpty _ _ _ _ => true
  | .cftest _ _ => true
  | .copy _ _ _ => true
  | .copySt _ _ _ => true
  | .copyAcc _ _ _ => true
  | .cvinit _ _ => true
  | .mma _ _ => true
  | .wbload _ _ => true
  | .wbloadMask _ _ => true
  | .accld _ => true
  | .accldF64 _ => true
  | .accst _ => true
  | .accstF64 _ => true
  | .acczero _ => true
  | .opfence => true
  | .xformCvt _ _ => true
  | .xformRound _ _ => true
  | .xformScale _ _ => true
  | .xformFill _ _ => true
  | .xformZero _ _ => true
  | .msgSend _ _ => true
  | .msgRecv _ _ _ => true
  | .sregRdVector _ _ => true
  | .sregRdUniform _ _ => true
  | .sregWr _ _ => true
  | .temit _ _ => true
  | .ctrRd _ _ => true
  | .ctrCtl _ _ => true
  | .rtag _ _ => true
  | .glaunch _ _ => true
  | .clauseFetch _ => false
  | .ricWrap _ => false
  | .watchdogFault _ => false
  | .drowsyRetention _ => false
  | .loadDataReturn _ => false
  | .storePerformed _ => false
  | .atomicPerformed _ => false
  | .classBComplete _ => false
  | .pageWalkComplete _ => false
  | .lrecFillComplete _ => false
  | .copyLineArrival _ _ => false
  | .engineOperationComplete _ => false
  | .fibreRelease _ => false
  | .messageArrival _ _ _ _ _ => false
  | .msgAccepted _ => false
  | .mailboxAdmissionSignal _ _ => false
  | .qdbWrite _ _ => false
  | .packetConsume _ => false
  | .clusterPlace _ => false
  | .priorityWaitLimit _ => false
  | .gridComplete _ => false
  | .teamRetire _ => false
  | .modeChangeApply _ => false
  | .throttleSignal _ => false
  | .quietInterval _ => false
  | .queueCongestion _ _ => false
  | .congestionRepeat _ _ => false
  | .gangSwitchPropose _ _ => false
  | .gangTimeMessage _ _ => false
  | .gangCancellation _ => false
  | .gangAckDeadline _ _ => false
  | .gangSwitch _ => false
  | .bivouacFill _ => false
  | .bivouacSpill _ => false
  | .cairn _ => false
  | .podCairnPropose _ _ _ => false
  | .podCairnAckTimeout _ => false
  | .podCairnTake _ => false
  | .chunkLimit _ => false
  | .sequenceExhausted _ => false
  | .replayLogEnd _ => false
  | .abortDrained _ => false
  | .restoreComplete _ => false
  | .epochScrub _ => false
  | .l1Eviction _ _ => false
  | .coherenceRead _ _ _ => false
  | .coherenceOwnership _ _ _ => false
  | .coherenceWriteback _ _ _ _ => false
  | .evictionNotice _ _ => false
  | .invalidation _ _ => false
  | .recallLine _ _ => false
  | .lostCopiesNotice _ => false
  | .hostMemRead _ _ _ => false
  | .hostMemWrite _ _ _ => false
  | .hostCacheOwnership _ _ => false
  | .pageRecompress _ _ => false
  | .rmThreshold _ _ => false
  | .rmHoldEnd _ => false
  | .periodicRefresh _ _ => false
  | .traceFilter _ => false
  | .linkFailure _ => false
  | .linkTimeout _ => false
  | .ptpTimeUpdate _ => false
  | .intrFreeze _ => false
  | .stepComplete _ => false
  | .resume _ => false
  | .skip _ => false
  | .step _ _ => false
  | .rdreg _ _ _ => false
  | .wrreg _ _ _ _ => false
  | .intr _ _ => false
  | .halt _ => false
  | .unhalt _ => false
  | .terminate _ => false
  | .replay _ _ _ => false
  | .ctrtot _ => false
  | .ctrgrant _ _ => false
  | .lanternLoad _ _ _ => false
  | .lanternRead _ => false
  | .ctrprog _ _ _ _ _ => false
  | .ctrread _ _ => false
  | .cfgrd _ _ => false
  | .cfgwr _ _ _ _ => false
  | .btinval _ _ _ => false
  | .tlbinval _ _ _ => false
  | .mrdbWrite _ _ => false
  | .mgmtDatagram _ => false
  | .info => false
  | .storeManifest _ => false
  | .compareManifest _ => false
  | .attest _ _ _ => false
  | .openSession _ _ => false
  | .remapAdd _ _ _ _ => false
  | .powerState _ => false
  | .warmReset => false
  | .fwUpdate _ => false
  | .cxlHotReset _ => false
  | .coldReset => false
  | .thermalWarning => false
  | .thermalTrip => false
  | .fqcfgWrite _ _ => false
  | .fqptrWrite _ _ => false
  | .fqstatRead _ => false
  | .srstatRead => false
  | .trstatRead _ => false
  | .hbmErrRead _ => false
  | .trptrWrite _ _ => false
  | .urstatFailClear _ => false
  | .registerWrite _ _ _ => false
  | .recorderBufferFree _ _ => false
  | .twinPageConsumed _ => false
  | .powerLoss => false
  | .linkRetrained _ => false
  | .flitCrcRetry _ => false
  | .guylineCreditReturn _ _ => false
  | .podCairnInstant _ => false
  | .podCairnAcknowledged _ _ => false
  | .h2dSnoop _ _ => false

end Sys2Proof
end

