-- ==== Sys2Proof/Decode.lean ====
section
/-!
DEFINITION. Sys2Proof/Decode.lean: from bytes to instructions and back (R8, R69, R77-R82, and the tables of the
instruction chapters). decode is total on any bytes and names what it refuses; encode is written from the same tables.
-/

namespace Sys2Proof

/-- Why bytes are no instruction. -/
inductive DecodeError where
  | truncated      -- fewer than the four bytes of a word
  | notAssigned    -- an unassigned major or fn, a reserved code or a nonzero reserved field (R83)
  deriving DecidableEq, Repr

/-- The code of a ICond in an instruction word. -/
def ICond.code : ICond → Nat
  | .eq => 0
  | .ne => 1
  | .ltSg => 2
  | .leSg => 3
  | .gtSg => 4
  | .geSg => 5
  | .ltUs => 6
  | .leUs => 7
  | .gtUs => 8
  | .geUs => 9

/-- The ICond of a code; reserved codes have none. -/
def ICond.ofCode? (c : Nat) : Option ICond :=
  match c with
  | 0 => some .eq
  | 1 => some .ne
  | 2 => some .ltSg
  | 3 => some .leSg
  | 4 => some .gtSg
  | 5 => some .geSg
  | 6 => some .ltUs
  | 7 => some .leUs
  | 8 => some .gtUs
  | 9 => some .geUs
  | _ => none

/-- The code of a FCond in an instruction word. -/
def FCond.code : FCond → Nat
  | .eq => 0
  | .ne => 1
  | .lt => 2
  | .le => 3
  | .gt => 4
  | .ge => 5
  | .un => 6
  | .or => 7

/-- The FCond of a code; reserved codes have none. -/
def FCond.ofCode? (c : Nat) : Option FCond :=
  match c with
  | 0 => some .eq
  | 1 => some .ne
  | 2 => some .lt
  | 3 => some .le
  | 4 => some .gt
  | 5 => some .ge
  | 6 => some .un
  | 7 => some .or
  | _ => none

/-- The code of a TCond in an instruction word. -/
def TCond.code : TCond → Nat
  | .eq => 0
  | .ne => 1
  | .lt => 2
  | .le => 3
  | .gt => 4
  | .ge => 5

/-- The TCond of a code; reserved codes have none. -/
def TCond.ofCode? (c : Nat) : Option TCond :=
  match c with
  | 0 => some .eq
  | 1 => some .ne
  | 2 => some .lt
  | 3 => some .le
  | 4 => some .gt
  | 5 => some .ge
  | _ => none

/-- The code of a TapFmt in an instruction word. -/
def TapFmt.code : TapFmt → Nat
  | .e8e0 => 0
  | .e8e1 => 1
  | .e8e2 => 2
  | .e16e1 => 3
  | .e16e2 => 4
  | .e32e2 => 5

/-- The TapFmt of a code; reserved codes have none. -/
def TapFmt.ofCode? (c : Nat) : Option TapFmt :=
  match c with
  | 0 => some .e8e0
  | 1 => some .e8e1
  | 2 => some .e8e2
  | 3 => some .e16e1
  | 4 => some .e16e2
  | 5 => some .e32e2
  | _ => none

/-- The code of a QmacFmt in an instruction word. -/
def QmacFmt.code : QmacFmt → Nat
  | .e8e0 => 0
  | .e8e1 => 1
  | .e8e2 => 2
  | .e16e1 => 3
  | .e16e2 => 4

/-- The QmacFmt of a code; reserved codes have none. -/
def QmacFmt.ofCode? (c : Nat) : Option QmacFmt :=
  match c with
  | 0 => some .e8e0
  | 1 => some .e8e1
  | 2 => some .e8e2
  | 3 => some .e16e1
  | 4 => some .e16e2
  | _ => none

/-- The code of a QaddFmt in an instruction word. -/
def QaddFmt.code : QaddFmt → Nat
  | .e8e0 => 0
  | .e8e1 => 1
  | .e8e2 => 2
  | .e16e1 => 3
  | .e16e2 => 4
  | .e32e2 => 5
  | .f32 => 6
  | .sg => 7

/-- The QaddFmt of a code; reserved codes have none. -/
def QaddFmt.ofCode? (c : Nat) : Option QaddFmt :=
  match c with
  | 0 => some .e8e0
  | 1 => some .e8e1
  | 2 => some .e8e2
  | 3 => some .e16e1
  | 4 => some .e16e2
  | 5 => some .e32e2
  | 6 => some .f32
  | 7 => some .sg
  | _ => none

/-- The code of a QTarget in an instruction word. -/
def QTarget.code : QTarget → Nat
  | .e8e0 => 0
  | .e8e1 => 1
  | .e8e2 => 2
  | .e16e1 => 3
  | .e16e2 => 4
  | .e32e2 => 5
  | .f32 => 6
  | .sg => 7
  | .f64 => 8

/-- The QTarget of a code; reserved codes have none. -/
def QTarget.ofCode? (c : Nat) : Option QTarget :=
  match c with
  | 0 => some .e8e0
  | 1 => some .e8e1
  | 2 => some .e8e2
  | 3 => some .e16e1
  | 4 => some .e16e2
  | 5 => some .e32e2
  | 6 => some .f32
  | 7 => some .sg
  | 8 => some .f64
  | _ => none

/-- The code of a CvtFmt in an instruction word. -/
def CvtFmt.code : CvtFmt → Nat
  | .sg => 0
  | .us => 1
  | .sg64 => 2
  | .us64 => 3
  | .f32 => 4
  | .f64 => 5
  | .e8e0 => 6
  | .e8e1 => 7
  | .e8e2 => 8
  | .e16e1 => 9
  | .e16e2 => 10
  | .e32e2 => 11

/-- The CvtFmt of a code; reserved codes have none. -/
def CvtFmt.ofCode? (c : Nat) : Option CvtFmt :=
  match c with
  | 0 => some .sg
  | 1 => some .us
  | 2 => some .sg64
  | 3 => some .us64
  | 4 => some .f32
  | 5 => some .f64
  | 6 => some .e8e0
  | 7 => some .e8e1
  | 8 => some .e8e2
  | 9 => some .e16e1
  | 10 => some .e16e2
  | 11 => some .e32e2
  | _ => none

/-- The code of a RedOp in an instruction word. -/
def RedOp.code : RedOp → Nat
  | .addSg => 0
  | .addUs => 1
  | .addF32 => 2
  | .minSg => 3
  | .minUs => 4
  | .maxSg => 5
  | .maxUs => 6
  | .andB32 => 7
  | .orB32 => 8
  | .xorB32 => 9

/-- The RedOp of a code; reserved codes have none. -/
def RedOp.ofCode? (c : Nat) : Option RedOp :=
  match c with
  | 0 => some .addSg
  | 1 => some .addUs
  | 2 => some .addF32
  | 3 => some .minSg
  | 4 => some .minUs
  | 5 => some .maxSg
  | 6 => some .maxUs
  | 7 => some .andB32
  | 8 => some .orB32
  | 9 => some .xorB32
  | _ => none

/-- The code of a ScanOp in an instruction word. -/
def ScanOp.code : ScanOp → Nat
  | .incSg => 10
  | .incUs => 11
  | .incF32 => 12
  | .excSg => 13
  | .excUs => 14
  | .excF32 => 15

/-- The ScanOp of a code; reserved codes have none. -/
def ScanOp.ofCode? (c : Nat) : Option ScanOp :=
  match c with
  | 10 => some .incSg
  | 11 => some .incUs
  | 12 => some .incF32
  | 13 => some .excSg
  | 14 => some .excUs
  | 15 => some .excF32
  | _ => none

/-- The code of a LdKind in an instruction word. -/
def LdKind.code : LdKind → Nat
  | .b8zx => 0
  | .b8sx => 1
  | .b16zx => 2
  | .b16sx => 3
  | .b32 => 4
  | .b64 => 5
  | .b128 => 6

/-- The LdKind of a code; reserved codes have none. -/
def LdKind.ofCode? (c : Nat) : Option LdKind :=
  match c with
  | 0 => some .b8zx
  | 1 => some .b8sx
  | 2 => some .b16zx
  | 3 => some .b16sx
  | 4 => some .b32
  | 5 => some .b64
  | 6 => some .b128
  | _ => none

/-- The code of a StKind in an instruction word. -/
def StKind.code : StKind → Nat
  | .b8 => 0
  | .b16 => 2
  | .b32 => 4
  | .b64 => 5
  | .b128 => 6

/-- The StKind of a code; reserved codes have none. -/
def StKind.ofCode? (c : Nat) : Option StKind :=
  match c with
  | 0 => some .b8
  | 2 => some .b16
  | 4 => some .b32
  | 5 => some .b64
  | 6 => some .b128
  | _ => none

/-- The code of a PfLevel in an instruction word. -/
def PfLevel.code : PfLevel → Nat
  | .l1 => 0
  | .l3 => 1

/-- The PfLevel of a code; reserved codes have none. -/
def PfLevel.ofCode? (c : Nat) : Option PfLevel :=
  match c with
  | 0 => some .l1
  | 1 => some .l3
  | _ => none

/-- The code of a Scope in an instruction word. -/
def Scope.code : Scope → Nat
  | .fibre => 0
  | .team => 1
  | .cluster => 2
  | .device => 3
  | .domain => 4
  | .system => 5

/-- The Scope of a code; reserved codes have none. -/
def Scope.ofCode? (c : Nat) : Option Scope :=
  match c with
  | 0 => some .fibre
  | 1 => some .team
  | 2 => some .cluster
  | 3 => some .device
  | 4 => some .domain
  | 5 => some .system
  | _ => none

/-- The code of a AaccFmt in an instruction word. -/
def AaccFmt.code : AaccFmt → Nat
  | .f32 => 0
  | .sg => 1
  | .e16e1 => 2
  | .e16e2 => 3
  | .e32e2 => 4
  | .f64 => 5

/-- The AaccFmt of a code; reserved codes have none. -/
def AaccFmt.ofCode? (c : Nat) : Option AaccFmt :=
  match c with
  | 0 => some .f32
  | 1 => some .sg
  | 2 => some .e16e1
  | 3 => some .e16e2
  | 4 => some .e32e2
  | 5 => some .f64
  | _ => none

/-- The code of a UCond in an instruction word. -/
def UCond.code : UCond → Nat
  | .eq => 0
  | .ne => 1
  | .ltSg => 2
  | .leSg => 3
  | .ltUs => 4
  | .leUs => 5

/-- The UCond of a code; reserved codes have none. -/
def UCond.ofCode? (c : Nat) : Option UCond :=
  match c with
  | 0 => some .eq
  | 1 => some .ne
  | 2 => some .ltSg
  | 3 => some .leSg
  | 4 => some .ltUs
  | 5 => some .leUs
  | _ => none

/-- The code of a RMode in an instruction word. -/
def RMode.code : RMode → Nat
  | .rne => 0
  | .rtz => 1
  | .rup => 2
  | .rdn => 3
  | .rna => 4
  | .dyn => 7

/-- The RMode of a code; reserved codes have none. -/
def RMode.ofCode? (c : Nat) : Option RMode :=
  match c with
  | 0 => some .rne
  | 1 => some .rtz
  | 2 => some .rup
  | 3 => some .rdn
  | 4 => some .rna
  | 7 => some .dyn
  | _ => none

/-- The code of a LKind in an instruction word. -/
def LKind.code : LKind → Nat
  | .none => 0
  | .bcast => 1
  | .rot => 2
  | .xor => 3

/-- The LKind of a code; reserved codes have none. -/
def LKind.ofCode? (c : Nat) : Option LKind :=
  match c with
  | 0 => some .none
  | 1 => some .bcast
  | 2 => some .rot
  | 3 => some .xor
  | _ => Option.none

/-- A one-bit field read as a Bool. -/
def bit1 (n : Nat) : Bool := n == 1

/-- The word of IADD (R101). -/
def decIadd (w : Nat) : Option Instr :=
  if bitsOf w 24 21 = 0 then some (.iadd (.ofNat 7 (bitsOf w 20 14)) (.ofNat 7 (bitsOf w 13 7)) (.ofNat 7 (bitsOf w 6 0))) else none

/-- The word of ISUB (R101). -/
def decIsub (w : Nat) : Option Instr :=
  if bitsOf w 24 21 = 1 then some (.isub (.ofNat 7 (bitsOf w 20 14)) (.ofNat 7 (bitsOf w 13 7)) (.ofNat 7 (bitsOf w 6 0))) else none

/-- The word of IMUL (R101). -/
def decImul (w : Nat) : Option Instr :=
  if bitsOf w 24 21 = 2 then some (.imul (.ofNat 7 (bitsOf w 20 14)) (.ofNat 7 (bitsOf w 13 7)) (.ofNat 7 (bitsOf w 6 0))) else none

/-- The word of IMULH_SG (R101). -/
def decImulhSg (w : Nat) : Option Instr :=
  if bitsOf w 24 21 = 3 then some (.imulhSg (.ofNat 7 (bitsOf w 20 14)) (.ofNat 7 (bitsOf w 13 7)) (.ofNat 7 (bitsOf w 6 0))) else none

/-- The word of IMULH_US (R101). -/
def decImulhUs (w : Nat) : Option Instr :=
  if bitsOf w 24 21 = 4 then some (.imulhUs (.ofNat 7 (bitsOf w 20 14)) (.ofNat 7 (bitsOf w 13 7)) (.ofNat 7 (bitsOf w 6 0))) else none

/-- The word of IMAD (R101). -/
def decImad (w : Nat) : Option Instr :=
  if bitsOf w 24 21 = 5 then some (.imad (.ofNat 7 (bitsOf w 20 14)) (.ofNat 7 (bitsOf w 13 7)) (.ofNat 7 (bitsOf w 6 0))) else none

/-- The word of IMIN_SG (R101). -/
def decIminSg (w : Nat) : Option Instr :=
  if bitsOf w 24 21 = 6 then some (.iminSg (.ofNat 7 (bitsOf w 20 14)) (.ofNat 7 (bitsOf w 13 7)) (.ofNat 7 (bitsOf w 6 0))) else none

/-- The word of IMIN_US (R101). -/
def decIminUs (w : Nat) : Option Instr :=
  if bitsOf w 24 21 = 7 then some (.iminUs (.ofNat 7 (bitsOf w 20 14)) (.ofNat 7 (bitsOf w 13 7)) (.ofNat 7 (bitsOf w 6 0))) else none

/-- The word of IMAX_SG (R101). -/
def decImaxSg (w : Nat) : Option Instr :=
  if bitsOf w 24 21 = 8 then some (.imaxSg (.ofNat 7 (bitsOf w 20 14)) (.ofNat 7 (bitsOf w 13 7)) (.ofNat 7 (bitsOf w 6 0))) else none

/-- The word of IMAX_US (R101). -/
def decImaxUs (w : Nat) : Option Instr :=
  if bitsOf w 24 21 = 9 then some (.imaxUs (.ofNat 7 (bitsOf w 20 14)) (.ofNat 7 (bitsOf w 13 7)) (.ofNat 7 (bitsOf w 6 0))) else none

/-- The word of IABS (R101). -/
def decIabs (w : Nat) : Option Instr :=
  if bitsOf w 24 21 = 10 ∧ bitsOf w 6 0 = 0 then some (.iabs (.ofNat 7 (bitsOf w 20 14)) (.ofNat 7 (bitsOf w 13 7))) else none

/-- The word of AND (R101). -/
def decAnd (w : Nat) : Option Instr :=
  if bitsOf w 24 21 = 0 then some (.and (.ofNat 7 (bitsOf w 20 14)) (.ofNat 7 (bitsOf w 13 7)) (.ofNat 7 (bitsOf w 6 0))) else none

/-- The word of OR (R101). -/
def decOr (w : Nat) : Option Instr :=
  if bitsOf w 24 21 = 1 then some (.or (.ofNat 7 (bitsOf w 20 14)) (.ofNat 7 (bitsOf w 13 7)) (.ofNat 7 (bitsOf w 6 0))) else none

/-- The word of XOR (R101). -/
def decXor (w : Nat) : Option Instr :=
  if bitsOf w 24 21 = 2 then some (.xor (.ofNat 7 (bitsOf w 20 14)) (.ofNat 7 (bitsOf w 13 7)) (.ofNat 7 (bitsOf w 6 0))) else none

/-- The word of ANDN (R101). -/
def decAndn (w : Nat) : Option Instr :=
  if bitsOf w 24 21 = 3 then some (.andn (.ofNat 7 (bitsOf w 20 14)) (.ofNat 7 (bitsOf w 13 7)) (.ofNat 7 (bitsOf w 6 0))) else none

/-- The word of SHL (R102). -/
def decShl (w : Nat) : Option Instr :=
  if bitsOf w 24 21 = 4 then some (.shl (.ofNat 7 (bitsOf w 20 14)) (.ofNat 7 (bitsOf w 13 7)) (.ofNat 7 (bitsOf w 6 0))) else none

/-- The word of SHR (R102). -/
def decShr (w : Nat) : Option Instr :=
  if bitsOf w 24 21 = 5 then some (.shr (.ofNat 7 (bitsOf w 20 14)) (.ofNat 7 (bitsOf w 13 7)) (.ofNat 7 (bitsOf w 6 0))) else none

/-- The word of SAR (R102). -/
def decSar (w : Nat) : Option Instr :=
  if bitsOf w 24 21 = 6 then some (.sar (.ofNat 7 (bitsOf w 20 14)) (.ofNat 7 (bitsOf w 13 7)) (.ofNat 7 (bitsOf w 6 0))) else none

/-- The word of ROT (R102). -/
def decRot (w : Nat) : Option Instr :=
  if bitsOf w 24 21 = 7 then some (.rot (.ofNat 7 (bitsOf w 20 14)) (.ofNat 7 (bitsOf w 13 7)) (.ofNat 7 (bitsOf w 6 0))) else none

/-- The word of CLZ (R101). -/
def decClz (w : Nat) : Option Instr :=
  if bitsOf w 24 21 = 8 ∧ bitsOf w 6 0 = 0 then some (.clz (.ofNat 7 (bitsOf w 20 14)) (.ofNat 7 (bitsOf w 13 7))) else none

/-- The word of POPC (R101). -/
def decPopc (w : Nat) : Option Instr :=
  if bitsOf w 24 21 = 9 ∧ bitsOf w 6 0 = 0 then some (.popc (.ofNat 7 (bitsOf w 20 14)) (.ofNat 7 (bitsOf w 13 7))) else none

/-- The word of BREV (R101). -/
def decBrev (w : Nat) : Option Instr :=
  if bitsOf w 24 21 = 10 ∧ bitsOf w 6 0 = 0 then some (.brev (.ofNat 7 (bitsOf w 20 14)) (.ofNat 7 (bitsOf w 13 7))) else none

/-- The word of MOV (R101). -/
def decMov (w : Nat) : Option Instr :=
  if bitsOf w 24 21 = 11 ∧ bitsOf w 6 0 = 0 then some (.mov (.ofNat 7 (bitsOf w 20 14)) (.ofNat 7 (bitsOf w 13 7))) else none

/-- The word of MOV_FROM_UNIFORM (R101). -/
def decMovFromUniform (w : Nat) : Option Instr :=
  if bitsOf w 24 21 = 12 ∧ bitsOf w 13 13 = 0 ∧ bitsOf w 6 0 = 0 then some (.movFromUniform (.ofNat 7 (bitsOf w 20 14)) (.ofNat 6 (bitsOf w 12 7))) else none

/-- The word of MOV_B64 (R101). -/
def decMovB64 (w : Nat) : Option Instr :=
  if bitsOf w 24 21 = 13 ∧ bitsOf w 13 13 = 0 ∧ bitsOf w 6 0 = 0 then some (.movB64 (.ofNat 7 (bitsOf w 20 14)) (.ofNat 6 (bitsOf w 12 7))) else none

/-- The word of BFE_US (R103). -/
def decBfeUs (w : Nat) : Option Instr :=
  if bitsOf w 24 21 = 0 then some (.bfeUs (.ofNat 7 (bitsOf w 20 14)) (.ofNat 7 (bitsOf w 13 7)) (.ofNat 7 (bitsOf w 6 0))) else none

/-- The word of BFE_SG (R103). -/
def decBfeSg (w : Nat) : Option Instr :=
  if bitsOf w 24 21 = 1 then some (.bfeSg (.ofNat 7 (bitsOf w 20 14)) (.ofNat 7 (bitsOf w 13 7)) (.ofNat 7 (bitsOf w 6 0))) else none

/-- The word of BFI (R103). -/
def decBfi (w : Nat) : Option Instr :=
  if bitsOf w 24 21 = 2 then some (.bfi (.ofNat 7 (bitsOf w 20 14)) (.ofNat 7 (bitsOf w 13 7)) (.ofNat 7 (bitsOf w 6 0))) else none

/-- The word of IADD64 (R101). -/
def decIadd64 (w : Nat) : Option Instr :=
  if bitsOf w 24 21 = 0 then some (.iadd64 (.ofNat 7 (bitsOf w 20 14)) (.ofNat 7 (bitsOf w 13 7)) (.ofNat 7 (bitsOf w 6 0))) else none

/-- The word of ISUB64 (R101). -/
def decIsub64 (w : Nat) : Option Instr :=
  if bitsOf w 24 21 = 1 then some (.isub64 (.ofNat 7 (bitsOf w 20 14)) (.ofNat 7 (bitsOf w 13 7)) (.ofNat 7 (bitsOf w 6 0))) else none

/-- The word of IMUL64 (R101). -/
def decImul64 (w : Nat) : Option Instr :=
  if bitsOf w 24 21 = 2 then some (.imul64 (.ofNat 7 (bitsOf w 20 14)) (.ofNat 7 (bitsOf w 13 7)) (.ofNat 7 (bitsOf w 6 0))) else none

/-- The word of SHL64 (R102). -/
def decShl64 (w : Nat) : Option Instr :=
  if bitsOf w 24 21 = 3 then some (.shl64 (.ofNat 7 (bitsOf w 20 14)) (.ofNat 7 (bitsOf w 13 7)) (.ofNat 7 (bitsOf w 6 0))) else none

/-- The word of SHR64 (R102). -/
def decShr64 (w : Nat) : Option Instr :=
  if bitsOf w 24 21 = 4 then some (.shr64 (.ofNat 7 (bitsOf w 20 14)) (.ofNat 7 (bitsOf w 13 7)) (.ofNat 7 (bitsOf w 6 0))) else none

/-- The word of SAR64 (R102). -/
def decSar64 (w : Nat) : Option Instr :=
  if bitsOf w 24 21 = 5 then some (.sar64 (.ofNat 7 (bitsOf w 20 14)) (.ofNat 7 (bitsOf w 13 7)) (.ofNat 7 (bitsOf w 6 0))) else none

/-- The word of IADD_IMM (R104). -/
def decIaddImm (w : Nat) : Option Instr :=
  some (.iaddImm (.ofNat 7 (bitsOf w 24 18)) (.ofNat 7 (bitsOf w 17 11)) (.ofNat 11 (bitsOf w 10 0)))

/-- The word of AND_IMM (R104). -/
def decAndImm (w : Nat) : Option Instr :=
  some (.andImm (.ofNat 7 (bitsOf w 24 18)) (.ofNat 7 (bitsOf w 17 11)) (.ofNat 11 (bitsOf w 10 0)))

/-- The word of SHL_IMM (R104). -/
def decShlImm (w : Nat) : Option Instr :=
  if bitsOf w 10 6 = 0 then some (.shlImm (.ofNat 7 (bitsOf w 24 18)) (.ofNat 7 (bitsOf w 17 11)) (.ofNat 6 (bitsOf w 5 0))) else none

/-- The word of SHR_IMM (R104). -/
def decShrImm (w : Nat) : Option Instr :=
  if bitsOf w 10 6 = 4 then some (.shrImm (.ofNat 7 (bitsOf w 24 18)) (.ofNat 7 (bitsOf w 17 11)) (.ofNat 6 (bitsOf w 5 0))) else none

/-- The word of SAR_IMM (R104). -/
def decSarImm (w : Nat) : Option Instr :=
  if bitsOf w 10 6 = 8 then some (.sarImm (.ofNat 7 (bitsOf w 24 18)) (.ofNat 7 (bitsOf w 17 11)) (.ofNat 6 (bitsOf w 5 0))) else none

/-- The word of ROT_IMM (R104). -/
def decRotImm (w : Nat) : Option Instr :=
  if bitsOf w 10 6 = 12 then some (.rotImm (.ofNat 7 (bitsOf w 24 18)) (.ofNat 7 (bitsOf w 17 11)) (.ofNat 6 (bitsOf w 5 0))) else none

/-- The word of SHL64_IMM (R104). -/
def decShl64Imm (w : Nat) : Option Instr :=
  if bitsOf w 10 6 = 16 then some (.shl64Imm (.ofNat 7 (bitsOf w 24 18)) (.ofNat 7 (bitsOf w 17 11)) (.ofNat 6 (bitsOf w 5 0))) else none

/-- The word of SHR64_IMM (R104). -/
def decShr64Imm (w : Nat) : Option Instr :=
  if bitsOf w 10 6 = 20 then some (.shr64Imm (.ofNat 7 (bitsOf w 24 18)) (.ofNat 7 (bitsOf w 17 11)) (.ofNat 6 (bitsOf w 5 0))) else none

/-- The word of SAR64_IMM (R104). -/
def decSar64Imm (w : Nat) : Option Instr :=
  if bitsOf w 10 6 = 24 then some (.sar64Imm (.ofNat 7 (bitsOf w 24 18)) (.ofNat 7 (bitsOf w 17 11)) (.ofNat 6 (bitsOf w 5 0))) else none

/-- The word of MOVI (R104). -/
def decMovi (w : Nat) : Option Instr :=
  some (.movi (.ofNat 7 (bitsOf w 24 18)) (.ofNat 18 (bitsOf w 17 0)))

/-- The word of ICMP (R105). -/
def decIcmp (w : Nat) : Option Instr :=
  if bitsOf w 20 17 = 0 then (ICond.ofCode? (bitsOf w 24 21)).bind fun c => some (.icmp c (.ofNat 3 (bitsOf w 16 14)) (.ofNat 7 (bitsOf w 13 7)) (.ofNat 7 (bitsOf w 6 0))) else none

/-- The word of ICMP64 (R105). -/
def decIcmp64 (w : Nat) : Option Instr :=
  if bitsOf w 20 17 = 0 then (ICond.ofCode? (bitsOf w 24 21)).bind fun c => some (.icmp64 c (.ofNat 3 (bitsOf w 16 14)) (.ofNat 7 (bitsOf w 13 7)) (.ofNat 7 (bitsOf w 6 0))) else none

/-- The word of SEL (R106). -/
def decSel (w : Nat) : Option Instr :=
  some (.sel (bit1 (bitsOf w 24 24)) (.ofNat 3 (bitsOf w 23 21)) (.ofNat 7 (bitsOf w 20 14)) (.ofNat 7 (bitsOf w 13 7)) (.ofNat 7 (bitsOf w 6 0)))

/-- The word of PAND (R107). -/
def decPand (w : Nat) : Option Instr :=
  if bitsOf w 24 21 = 0 ∧ bitsOf w 20 17 = 0 ∧ bitsOf w 13 10 = 0 ∧ bitsOf w 6 3 = 0 then some (.pand (.ofNat 3 (bitsOf w 16 14)) (.ofNat 3 (bitsOf w 9 7)) (.ofNat 3 (bitsOf w 2 0))) else none

/-- The word of POR (R107). -/
def decPor (w : Nat) : Option Instr :=
  if bitsOf w 24 21 = 1 ∧ bitsOf w 20 17 = 0 ∧ bitsOf w 13 10 = 0 ∧ bitsOf w 6 3 = 0 then some (.por (.ofNat 3 (bitsOf w 16 14)) (.ofNat 3 (bitsOf w 9 7)) (.ofNat 3 (bitsOf w 2 0))) else none

/-- The word of PXOR (R107). -/
def decPxor (w : Nat) : Option Instr :=
  if bitsOf w 24 21 = 2 ∧ bitsOf w 20 17 = 0 ∧ bitsOf w 13 10 = 0 ∧ bitsOf w 6 3 = 0 then some (.pxor (.ofNat 3 (bitsOf w 16 14)) (.ofNat 3 (bitsOf w 9 7)) (.ofNat 3 (bitsOf w 2 0))) else none

/-- The word of PNOT (R107). -/
def decPnot (w : Nat) : Option Instr :=
  if bitsOf w 24 21 = 3 ∧ bitsOf w 20 17 = 0 ∧ bitsOf w 13 10 = 0 ∧ bitsOf w 6 0 = 0 then some (.pnot (.ofNat 3 (bitsOf w 16 14)) (.ofNat 3 (bitsOf w 9 7))) else none

/-- The word of IDP4_SG (R108). -/
def decIdp4Sg (w : Nat) : Option Instr :=
  if bitsOf w 24 21 = 4 then some (.idp4Sg (.ofNat 7 (bitsOf w 20 14)) (.ofNat 7 (bitsOf w 13 7)) (.ofNat 7 (bitsOf w 6 0))) else none

/-- The word of IDP4_US (R108). -/
def decIdp4Us (w : Nat) : Option Instr :=
  if bitsOf w 24 21 = 5 then some (.idp4Us (.ofNat 7 (bitsOf w 20 14)) (.ofNat 7 (bitsOf w 13 7)) (.ofNat 7 (bitsOf w 6 0))) else none

/-- The word of IDP2_SG (R108). -/
def decIdp2Sg (w : Nat) : Option Instr :=
  if bitsOf w 24 21 = 6 then some (.idp2Sg (.ofNat 7 (bitsOf w 20 14)) (.ofNat 7 (bitsOf w 13 7)) (.ofNat 7 (bitsOf w 6 0))) else none

/-- The word of IDP2_US (R108). -/
def decIdp2Us (w : Nat) : Option Instr :=
  if bitsOf w 24 21 = 7 then some (.idp2Us (.ofNat 7 (bitsOf w 20 14)) (.ofNat 7 (bitsOf w 13 7)) (.ofNat 7 (bitsOf w 6 0))) else none

/-- The word of FADD_F32 (R122). -/
def decFaddF32 (w : Nat) : Option Instr :=
  if bitsOf w 24 21 = 0 then some (.faddF32 (.ofNat 7 (bitsOf w 20 14)) (.ofNat 7 (bitsOf w 13 7)) (.ofNat 7 (bitsOf w 6 0))) else none

/-- The word of FSUB_F32 (R122). -/
def decFsubF32 (w : Nat) : Option Instr :=
  if bitsOf w 24 21 = 1 then some (.fsubF32 (.ofNat 7 (bitsOf w 20 14)) (.ofNat 7 (bitsOf w 13 7)) (.ofNat 7 (bitsOf w 6 0))) else none

/-- The word of FMUL_F32 (R122). -/
def decFmulF32 (w : Nat) : Option Instr :=
  if bitsOf w 24 21 = 2 then some (.fmulF32 (.ofNat 7 (bitsOf w 20 14)) (.ofNat 7 (bitsOf w 13 7)) (.ofNat 7 (bitsOf w 6 0))) else none

/-- The word of FFMA_F32 (R122). -/
def decFfmaF32 (w : Nat) : Option Instr :=
  if bitsOf w 24 21 = 3 then some (.ffmaF32 (.ofNat 7 (bitsOf w 20 14)) (.ofNat 7 (bitsOf w 13 7)) (.ofNat 7 (bitsOf w 6 0))) else none

/-- The word of FMIN_F32 (R122). -/
def decFminF32 (w : Nat) : Option Instr :=
  if bitsOf w 24 21 = 4 then some (.fminF32 (.ofNat 7 (bitsOf w 20 14)) (.ofNat 7 (bitsOf w 13 7)) (.ofNat 7 (bitsOf w 6 0))) else none

/-- The word of FMAX_F32 (R122). -/
def decFmaxF32 (w : Nat) : Option Instr :=
  if bitsOf w 24 21 = 5 then some (.fmaxF32 (.ofNat 7 (bitsOf w 20 14)) (.ofNat 7 (bitsOf w 13 7)) (.ofNat 7 (bitsOf w 6 0))) else none

/-- The word of FADD_F64 (R122). -/
def decFaddF64 (w : Nat) : Option Instr :=
  if bitsOf w 24 21 = 0 then some (.faddF64 (.ofNat 7 (bitsOf w 20 14)) (.ofNat 7 (bitsOf w 13 7)) (.ofNat 7 (bitsOf w 6 0))) else none

/-- The word of FSUB_F64 (R122). -/
def decFsubF64 (w : Nat) : Option Instr :=
  if bitsOf w 24 21 = 1 then some (.fsubF64 (.ofNat 7 (bitsOf w 20 14)) (.ofNat 7 (bitsOf w 13 7)) (.ofNat 7 (bitsOf w 6 0))) else none

/-- The word of FMUL_F64 (R122). -/
def decFmulF64 (w : Nat) : Option Instr :=
  if bitsOf w 24 21 = 2 then some (.fmulF64 (.ofNat 7 (bitsOf w 20 14)) (.ofNat 7 (bitsOf w 13 7)) (.ofNat 7 (bitsOf w 6 0))) else none

/-- The word of FFMA_F64 (R122). -/
def decFfmaF64 (w : Nat) : Option Instr :=
  if bitsOf w 24 21 = 3 then some (.ffmaF64 (.ofNat 7 (bitsOf w 20 14)) (.ofNat 7 (bitsOf w 13 7)) (.ofNat 7 (bitsOf w 6 0))) else none

/-- The word of FMIN_F64 (R122). -/
def decFminF64 (w : Nat) : Option Instr :=
  if bitsOf w 24 21 = 4 then some (.fminF64 (.ofNat 7 (bitsOf w 20 14)) (.ofNat 7 (bitsOf w 13 7)) (.ofNat 7 (bitsOf w 6 0))) else none

/-- The word of FMAX_F64 (R122). -/
def decFmaxF64 (w : Nat) : Option Instr :=
  if bitsOf w 24 21 = 5 then some (.fmaxF64 (.ofNat 7 (bitsOf w 20 14)) (.ofNat 7 (bitsOf w 13 7)) (.ofNat 7 (bitsOf w 6 0))) else none

/-- The word of FCMP_F32 (R123). -/
def decFcmpF32 (w : Nat) : Option Instr :=
  if bitsOf w 20 17 = 0 then (FCond.ofCode? (bitsOf w 24 21)).bind fun c => some (.fcmpF32 c (.ofNat 3 (bitsOf w 16 14)) (.ofNat 7 (bitsOf w 13 7)) (.ofNat 7 (bitsOf w 6 0))) else none

/-- The word of FCMP_F64 (R123). -/
def decFcmpF64 (w : Nat) : Option Instr :=
  if bitsOf w 20 17 = 0 then (FCond.ofCode? (bitsOf w 24 21)).bind fun c => some (.fcmpF64 c (.ofNat 3 (bitsOf w 16 14)) (.ofNat 7 (bitsOf w 13 7)) (.ofNat 7 (bitsOf w 6 0))) else none

/-- The word of FDIV_F32 (R124). -/
def decFdivF32 (w : Nat) : Option Instr :=
  if bitsOf w 24 21 = 0 then some (.fdivF32 (.ofNat 7 (bitsOf w 20 14)) (.ofNat 7 (bitsOf w 13 7)) (.ofNat 7 (bitsOf w 6 0))) else none

/-- The word of FSQRT_F32 (R124). -/
def decFsqrtF32 (w : Nat) : Option Instr :=
  if bitsOf w 24 21 = 1 ∧ bitsOf w 6 0 = 0 then some (.fsqrtF32 (.ofNat 7 (bitsOf w 20 14)) (.ofNat 7 (bitsOf w 13 7))) else none

/-- The word of FRCP_F32 (R124). -/
def decFrcpF32 (w : Nat) : Option Instr :=
  if bitsOf w 24 21 = 2 ∧ bitsOf w 6 0 = 0 then some (.frcpF32 (.ofNat 7 (bitsOf w 20 14)) (.ofNat 7 (bitsOf w 13 7))) else none

/-- The word of FRSQ_F32 (R124). -/
def decFrsqF32 (w : Nat) : Option Instr :=
  if bitsOf w 24 21 = 3 ∧ bitsOf w 6 0 = 0 then some (.frsqF32 (.ofNat 7 (bitsOf w 20 14)) (.ofNat 7 (bitsOf w 13 7))) else none

/-- The word of FDIV_F64 (R124). -/
def decFdivF64 (w : Nat) : Option Instr :=
  if bitsOf w 24 21 = 0 then some (.fdivF64 (.ofNat 7 (bitsOf w 20 14)) (.ofNat 7 (bitsOf w 13 7)) (.ofNat 7 (bitsOf w 6 0))) else none

/-- The word of FSQRT_F64 (R124). -/
def decFsqrtF64 (w : Nat) : Option Instr :=
  if bitsOf w 24 21 = 1 ∧ bitsOf w 6 0 = 0 then some (.fsqrtF64 (.ofNat 7 (bitsOf w 20 14)) (.ofNat 7 (bitsOf w 13 7))) else none

/-- The word of FRCP_F64 (R124). -/
def decFrcpF64 (w : Nat) : Option Instr :=
  if bitsOf w 24 21 = 2 ∧ bitsOf w 6 0 = 0 then some (.frcpF64 (.ofNat 7 (bitsOf w 20 14)) (.ofNat 7 (bitsOf w 13 7))) else none

/-- The word of FRSQ_F64 (R124). -/
def decFrsqF64 (w : Nat) : Option Instr :=
  if bitsOf w 24 21 = 3 ∧ bitsOf w 6 0 = 0 then some (.frsqF64 (.ofNat 7 (bitsOf w 20 14)) (.ofNat 7 (bitsOf w 13 7))) else none

/-- The word of TRADD (R132). -/
def decTradd (w : Nat) : Option Instr :=
  if bitsOf w 24 24 = 0 then (TapFmt.ofCode? (bitsOf w 23 21)).bind fun f => some (.tradd f (.ofNat 7 (bitsOf w 20 14)) (.ofNat 7 (bitsOf w 13 7)) (.ofNat 7 (bitsOf w 6 0))) else none

/-- The word of TRSUB (R132). -/
def decTrsub (w : Nat) : Option Instr :=
  if bitsOf w 24 24 = 0 then (TapFmt.ofCode? (bitsOf w 23 21)).bind fun f => some (.trsub f (.ofNat 7 (bitsOf w 20 14)) (.ofNat 7 (bitsOf w 13 7)) (.ofNat 7 (bitsOf w 6 0))) else none

/-- The word of TRMUL (R132). -/
def decTrmul (w : Nat) : Option Instr :=
  if bitsOf w 24 24 = 0 then (TapFmt.ofCode? (bitsOf w 23 21)).bind fun f => some (.trmul f (.ofNat 7 (bitsOf w 20 14)) (.ofNat 7 (bitsOf w 13 7)) (.ofNat 7 (bitsOf w 6 0))) else none

/-- The word of TRFMA (R132). -/
def decTrfma (w : Nat) : Option Instr :=
  if bitsOf w 24 24 = 0 then (TapFmt.ofCode? (bitsOf w 23 21)).bind fun f => some (.trfma f (.ofNat 7 (bitsOf w 20 14)) (.ofNat 7 (bitsOf w 13 7)) (.ofNat 7 (bitsOf w 6 0))) else none

/-- The word of TRMIN (R133). -/
def decTrmin (w : Nat) : Option Instr :=
  if bitsOf w 24 24 = 0 then (TapFmt.ofCode? (bitsOf w 23 21)).bind fun f => some (.trmin f (.ofNat 7 (bitsOf w 20 14)) (.ofNat 7 (bitsOf w 13 7)) (.ofNat 7 (bitsOf w 6 0))) else none

/-- The word of TRMAX (R133). -/
def decTrmax (w : Nat) : Option Instr :=
  if bitsOf w 24 24 = 1 then (TapFmt.ofCode? (bitsOf w 23 21)).bind fun f => some (.trmax f (.ofNat 7 (bitsOf w 20 14)) (.ofNat 7 (bitsOf w 13 7)) (.ofNat 7 (bitsOf w 6 0))) else none

/-- The word of TRCMP (R134). -/
def decTrcmp (w : Nat) : Option Instr :=
  if bitsOf w 24 24 = 0 ∧ bitsOf w 20 20 = 0 then (TapFmt.ofCode? (bitsOf w 23 21)).bind fun f => (TCond.ofCode? (bitsOf w 19 17)).bind fun c => some (.trcmp f c (.ofNat 3 (bitsOf w 16 14)) (.ofNat 7 (bitsOf w 13 7)) (.ofNat 7 (bitsOf w 6 0))) else none

/-- The word of TRDEC (R135). -/
def decTrdec (w : Nat) : Option Instr :=
  if bitsOf w 24 24 = 0 ∧ bitsOf w 6 0 = 0 then (TapFmt.ofCode? (bitsOf w 23 21)).bind fun f => some (.trdec f (.ofNat 7 (bitsOf w 20 14)) (.ofNat 7 (bitsOf w 13 7))) else none

/-- The word of TRENC (R135). -/
def decTrenc (w : Nat) : Option Instr :=
  if bitsOf w 24 24 = 1 ∧ bitsOf w 6 0 = 0 then (TapFmt.ofCode? (bitsOf w 23 21)).bind fun f => some (.trenc f (.ofNat 7 (bitsOf w 20 14)) (.ofNat 7 (bitsOf w 13 7))) else none

/-- The word of QMAC (R137). -/
def decQmac (w : Nat) : Option Instr :=
  if bitsOf w 20 15 = 0 then (QmacFmt.ofCode? (bitsOf w 24 21)).bind fun f => some (.qmac f (.ofNat 1 (bitsOf w 14 14)) (.ofNat 7 (bitsOf w 13 7)) (.ofNat 7 (bitsOf w 6 0))) else none

/-- The word of QCLR (R137). -/
def decQclr (w : Nat) : Option Instr :=
  if bitsOf w 24 21 = 5 ∧ bitsOf w 20 15 = 0 ∧ bitsOf w 13 0 = 0 then some (.qclr (.ofNat 1 (bitsOf w 14 14))) else none

/-- The word of QROUND (R137). -/
def decQround (w : Nat) : Option Instr :=
  if bitsOf w 24 21 = 6 ∧ bitsOf w 13 8 = 0 ∧ bitsOf w 6 4 = 0 then (QTarget.ofCode? (bitsOf w 3 0)).bind fun t => some (.qround (.ofNat 7 (bitsOf w 20 14)) (.ofNat 1 (bitsOf w 7 7)) t) else none

/-- The word of QADD (R137). -/
def decQadd (w : Nat) : Option Instr :=
  if bitsOf w 24 24 = 1 ∧ bitsOf w 20 15 = 0 ∧ bitsOf w 6 0 = 0 then (QaddFmt.ofCode? (bitsOf w 23 21)).bind fun f => some (.qadd f (.ofNat 1 (bitsOf w 14 14)) (.ofNat 7 (bitsOf w 13 7))) else none

/-- The word of FEX2_F32 (R125). -/
def decFex2F32 (w : Nat) : Option Instr :=
  if bitsOf w 24 21 = 0 ∧ bitsOf w 6 0 = 0 then some (.fex2F32 (.ofNat 7 (bitsOf w 20 14)) (.ofNat 7 (bitsOf w 13 7))) else none

/-- The word of FLG2_F32 (R125). -/
def decFlg2F32 (w : Nat) : Option Instr :=
  if bitsOf w 24 21 = 1 ∧ bitsOf w 6 0 = 0 then some (.flg2F32 (.ofNat 7 (bitsOf w 20 14)) (.ofNat 7 (bitsOf w 13 7))) else none

/-- The word of FSIN_F32 (R125). -/
def decFsinF32 (w : Nat) : Option Instr :=
  if bitsOf w 24 21 = 2 ∧ bitsOf w 6 0 = 0 then some (.fsinF32 (.ofNat 7 (bitsOf w 20 14)) (.ofNat 7 (bitsOf w 13 7))) else none

/-- The word of FCOS_F32 (R125). -/
def decFcosF32 (w : Nat) : Option Instr :=
  if bitsOf w 24 21 = 3 ∧ bitsOf w 6 0 = 0 then some (.fcosF32 (.ofNat 7 (bitsOf w 20 14)) (.ofNat 7 (bitsOf w 13 7))) else none

/-- The word of CVT (R128). -/
def decCvt (w : Nat) : Option Instr :=
  if bitsOf w 6 4 = 0 then (CvtFmt.ofCode? (bitsOf w 24 21)).bind fun t => (CvtFmt.ofCode? (bitsOf w 3 0)).bind fun f => some (.cvt t (.ofNat 7 (bitsOf w 20 14)) (.ofNat 7 (bitsOf w 13 7)) f) else none

/-- The word of CVT_CLAMP (R130). -/
def decCvtClamp (w : Nat) : Option Instr :=
  if bitsOf w 6 4 = 0 then (CvtFmt.ofCode? (bitsOf w 24 21)).bind fun t => (CvtFmt.ofCode? (bitsOf w 3 0)).bind fun f => some (.cvtClamp t (.ofNat 7 (bitsOf w 20 14)) (.ofNat 7 (bitsOf w 13 7)) f) else none

/-- The word of SHFL_IDX (R142). -/
def decShflIdx (w : Nat) : Option Instr :=
  if bitsOf w 24 24 = 0 ∧ bitsOf w 22 21 = 0 then some (.shflIdx (bit1 (bitsOf w 23 23)) (.ofNat 7 (bitsOf w 20 14)) (.ofNat 7 (bitsOf w 13 7)) (.ofNat 7 (bitsOf w 6 0))) else none

/-- The word of SHFL_UP (R142). -/
def decShflUp (w : Nat) : Option Instr :=
  if bitsOf w 24 24 = 0 ∧ bitsOf w 22 21 = 1 then some (.shflUp (bit1 (bitsOf w 23 23)) (.ofNat 7 (bitsOf w 20 14)) (.ofNat 7 (bitsOf w 13 7)) (.ofNat 7 (bitsOf w 6 0))) else none

/-- The word of SHFL_DOWN (R142). -/
def decShflDown (w : Nat) : Option Instr :=
  if bitsOf w 24 24 = 0 ∧ bitsOf w 22 21 = 2 then some (.shflDown (bit1 (bitsOf w 23 23)) (.ofNat 7 (bitsOf w 20 14)) (.ofNat 7 (bitsOf w 13 7)) (.ofNat 7 (bitsOf w 6 0))) else none

/-- The word of SHFL_XOR (R142). -/
def decShflXor (w : Nat) : Option Instr :=
  if bitsOf w 24 24 = 0 ∧ bitsOf w 22 21 = 3 then some (.shflXor (bit1 (bitsOf w 23 23)) (.ofNat 7 (bitsOf w 20 14)) (.ofNat 7 (bitsOf w 13 7)) (.ofNat 7 (bitsOf w 6 0))) else none

/-- The word of VOTE_ANY (R143). -/
def decVoteAny (w : Nat) : Option Instr :=
  if bitsOf w 24 21 = 0 ∧ bitsOf w 20 17 = 0 ∧ bitsOf w 13 10 = 0 ∧ bitsOf w 6 0 = 0 then some (.voteAny (.ofNat 3 (bitsOf w 16 14)) (.ofNat 3 (bitsOf w 9 7))) else none

/-- The word of VOTE_ALL (R143). -/
def decVoteAll (w : Nat) : Option Instr :=
  if bitsOf w 24 21 = 1 ∧ bitsOf w 20 17 = 0 ∧ bitsOf w 13 10 = 0 ∧ bitsOf w 6 0 = 0 then some (.voteAll (.ofNat 3 (bitsOf w 16 14)) (.ofNat 3 (bitsOf w 9 7))) else none

/-- The word of VOTE_BALLOT (R143). -/
def decVoteBallot (w : Nat) : Option Instr :=
  if bitsOf w 24 21 = 2 ∧ bitsOf w 13 10 = 0 ∧ bitsOf w 6 0 = 0 then some (.voteBallot (.ofNat 7 (bitsOf w 20 14)) (.ofNat 3 (bitsOf w 9 7))) else none

/-- The word of VOTE_EQ (R143). -/
def decVoteEq (w : Nat) : Option Instr :=
  if bitsOf w 24 21 = 3 ∧ bitsOf w 20 17 = 0 ∧ bitsOf w 6 0 = 0 then some (.voteEq (.ofNat 3 (bitsOf w 16 14)) (.ofNat 7 (bitsOf w 13 7))) else none

/-- The word of MATCH_B32 (R144). -/
def decMatchB32 (w : Nat) : Option Instr :=
  if bitsOf w 24 21 = 0 ∧ bitsOf w 6 0 = 0 then some (.matchB32 (.ofNat 7 (bitsOf w 20 14)) (.ofNat 7 (bitsOf w 13 7))) else none

/-- The word of MATCH_B64 (R144). -/
def decMatchB64 (w : Nat) : Option Instr :=
  if bitsOf w 24 21 = 1 ∧ bitsOf w 6 0 = 0 then some (.matchB64 (.ofNat 7 (bitsOf w 20 14)) (.ofNat 7 (bitsOf w 13 7))) else none

/-- The word of RED (R146). -/
def decRed (w : Nat) : Option Instr :=
  if bitsOf w 20 20 = 0 ∧ bitsOf w 6 0 = 0 then (RedOp.ofCode? (bitsOf w 24 21)).bind fun f => some (.red f (.ofNat 6 (bitsOf w 19 14)) (.ofNat 7 (bitsOf w 13 7))) else none

/-- The word of SCAN (R147). -/
def decScan (w : Nat) : Option Instr :=
  if bitsOf w 6 6 = 0 then (ScanOp.ofCode? (bitsOf w 24 21)).bind fun f => some (.scan f (.ofNat 7 (bitsOf w 20 14)) (.ofNat 7 (bitsOf w 13 7)) (.ofNat 6 (bitsOf w 5 0))) else none

/-- The word of LD_B32 (R154). -/
def decLdB32 (w : Nat) : Option Instr :=
  some (.ldB32 (.ofNat 7 (bitsOf w 24 18)) (.ofNat 7 (bitsOf w 17 11)) (.ofNat 4 (bitsOf w 10 7)) (.ofNat 7 (bitsOf w 6 0)))

/-- The word of LD_B64 (R154). -/
def decLdB64 (w : Nat) : Option Instr :=
  some (.ldB64 (.ofNat 7 (bitsOf w 24 18)) (.ofNat 7 (bitsOf w 17 11)) (.ofNat 4 (bitsOf w 10 7)) (.ofNat 7 (bitsOf w 6 0)))

/-- The word of LD_B128 (R154). -/
def decLdB128 (w : Nat) : Option Instr :=
  some (.ldB128 (.ofNat 7 (bitsOf w 24 18)) (.ofNat 7 (bitsOf w 17 11)) (.ofNat 4 (bitsOf w 10 7)) (.ofNat 7 (bitsOf w 6 0)))

/-- The word of ST_B32 (R154). -/
def decStB32 (w : Nat) : Option Instr :=
  some (.stB32 (.ofNat 7 (bitsOf w 24 18)) (.ofNat 7 (bitsOf w 17 11)) (.ofNat 4 (bitsOf w 10 7)) (.ofNat 7 (bitsOf w 6 0)))

/-- The word of ST_B64 (R154). -/
def decStB64 (w : Nat) : Option Instr :=
  some (.stB64 (.ofNat 7 (bitsOf w 24 18)) (.ofNat 7 (bitsOf w 17 11)) (.ofNat 4 (bitsOf w 10 7)) (.ofNat 7 (bitsOf w 6 0)))

/-- The word of ST_B128 (R154). -/
def decStB128 (w : Nat) : Option Instr :=
  some (.stB128 (.ofNat 7 (bitsOf w 24 18)) (.ofNat 7 (bitsOf w 17 11)) (.ofNat 4 (bitsOf w 10 7)) (.ofNat 7 (bitsOf w 6 0)))

/-- The word of LD_EXTENDED (R153). -/
def decLdExtended (w : Nat) : Option Instr :=
  (LdKind.ofCode? (bitsOf w 6 4)).bind fun wc => (Scope.ofCode? (bitsOf w 2 0)).bind fun c => some (.ldExtended (.ofNat 7 (bitsOf w 24 18)) (.ofNat 7 (bitsOf w 17 11)) (.ofNat 4 (bitsOf w 10 7)) wc (bit1 (bitsOf w 3 3)) c)

/-- The word of PF (R158). -/
def decPf (w : Nat) : Option Instr :=
  if bitsOf w 24 21 = 0 ∧ bitsOf w 20 18 = 0 ∧ bitsOf w 6 4 = 7 then (PfLevel.ofCode? (bitsOf w 3 0)).bind fun l => some (.pf (.ofNat 7 (bitsOf w 17 11)) (.ofNat 4 (bitsOf w 10 7)) l) else none

/-- The word of ST_EXTENDED (R153). -/
def decStExtended (w : Nat) : Option Instr :=
  (StKind.ofCode? (bitsOf w 6 4)).bind fun wc => (Scope.ofCode? (bitsOf w 2 0)).bind fun c => some (.stExtended (.ofNat 7 (bitsOf w 24 18)) (.ofNat 7 (bitsOf w 17 11)) (.ofNat 4 (bitsOf w 10 7)) wc (bit1 (bitsOf w 3 3)) c)

/-- The word of LDS_B32 (R159). -/
def decLdsB32 (w : Nat) : Option Instr :=
  some (.ldsB32 (.ofNat 7 (bitsOf w 24 18)) (.ofNat 7 (bitsOf w 17 11)) (.ofNat 11 (bitsOf w 10 0)))

/-- The word of LDS_B64 (R159). -/
def decLdsB64 (w : Nat) : Option Instr :=
  some (.ldsB64 (.ofNat 7 (bitsOf w 24 18)) (.ofNat 7 (bitsOf w 17 11)) (.ofNat 11 (bitsOf w 10 0)))

/-- The word of STS_B32 (R159). -/
def decStsB32 (w : Nat) : Option Instr :=
  some (.stsB32 (.ofNat 7 (bitsOf w 24 18)) (.ofNat 7 (bitsOf w 17 11)) (.ofNat 11 (bitsOf w 10 0)))

/-- The word of STS_B64 (R159). -/
def decStsB64 (w : Nat) : Option Instr :=
  some (.stsB64 (.ofNat 7 (bitsOf w 24 18)) (.ofNat 7 (bitsOf w 17 11)) (.ofNat 11 (bitsOf w 10 0)))

/-- The word of ATOM_ADD_B32 (R164). -/
def decAtomAddB32 (w : Nat) : Option Instr :=
  if bitsOf w 6 3 = 0 then (Scope.ofCode? (bitsOf w 2 0)).bind fun sc => some (.atomAddB32 (.ofNat 7 (bitsOf w 24 18)) (.ofNat 7 (bitsOf w 17 11)) (.ofNat 4 (bitsOf w 10 7)) sc) else none

/-- The word of ATOM_MIN_SG_B32 (R164). -/
def decAtomMinSgB32 (w : Nat) : Option Instr :=
  if bitsOf w 6 3 = 1 then (Scope.ofCode? (bitsOf w 2 0)).bind fun sc => some (.atomMinSgB32 (.ofNat 7 (bitsOf w 24 18)) (.ofNat 7 (bitsOf w 17 11)) (.ofNat 4 (bitsOf w 10 7)) sc) else none

/-- The word of ATOM_MIN_US_B32 (R164). -/
def decAtomMinUsB32 (w : Nat) : Option Instr :=
  if bitsOf w 6 3 = 2 then (Scope.ofCode? (bitsOf w 2 0)).bind fun sc => some (.atomMinUsB32 (.ofNat 7 (bitsOf w 24 18)) (.ofNat 7 (bitsOf w 17 11)) (.ofNat 4 (bitsOf w 10 7)) sc) else none

/-- The word of ATOM_MAX_SG_B32 (R164). -/
def decAtomMaxSgB32 (w : Nat) : Option Instr :=
  if bitsOf w 6 3 = 3 then (Scope.ofCode? (bitsOf w 2 0)).bind fun sc => some (.atomMaxSgB32 (.ofNat 7 (bitsOf w 24 18)) (.ofNat 7 (bitsOf w 17 11)) (.ofNat 4 (bitsOf w 10 7)) sc) else none

/-- The word of ATOM_MAX_US_B32 (R164). -/
def decAtomMaxUsB32 (w : Nat) : Option Instr :=
  if bitsOf w 6 3 = 4 then (Scope.ofCode? (bitsOf w 2 0)).bind fun sc => some (.atomMaxUsB32 (.ofNat 7 (bitsOf w 24 18)) (.ofNat 7 (bitsOf w 17 11)) (.ofNat 4 (bitsOf w 10 7)) sc) else none

/-- The word of ATOM_AND_B32 (R164). -/
def decAtomAndB32 (w : Nat) : Option Instr :=
  if bitsOf w 6 3 = 5 then (Scope.ofCode? (bitsOf w 2 0)).bind fun sc => some (.atomAndB32 (.ofNat 7 (bitsOf w 24 18)) (.ofNat 7 (bitsOf w 17 11)) (.ofNat 4 (bitsOf w 10 7)) sc) else none

/-- The word of ATOM_OR_B32 (R164). -/
def decAtomOrB32 (w : Nat) : Option Instr :=
  if bitsOf w 6 3 = 6 then (Scope.ofCode? (bitsOf w 2 0)).bind fun sc => some (.atomOrB32 (.ofNat 7 (bitsOf w 24 18)) (.ofNat 7 (bitsOf w 17 11)) (.ofNat 4 (bitsOf w 10 7)) sc) else none

/-- The word of ATOM_XOR_B32 (R164). -/
def decAtomXorB32 (w : Nat) : Option Instr :=
  if bitsOf w 6 3 = 7 then (Scope.ofCode? (bitsOf w 2 0)).bind fun sc => some (.atomXorB32 (.ofNat 7 (bitsOf w 24 18)) (.ofNat 7 (bitsOf w 17 11)) (.ofNat 4 (bitsOf w 10 7)) sc) else none

/-- The word of ATOM_XCHG_B32 (R164). -/
def decAtomXchgB32 (w : Nat) : Option Instr :=
  if bitsOf w 6 3 = 8 then (Scope.ofCode? (bitsOf w 2 0)).bind fun sc => some (.atomXchgB32 (.ofNat 7 (bitsOf w 24 18)) (.ofNat 7 (bitsOf w 17 11)) (.ofNat 4 (bitsOf w 10 7)) sc) else none

/-- The word of ATOM_CAS_B32 (R164). -/
def decAtomCasB32 (w : Nat) : Option Instr :=
  if bitsOf w 6 3 = 9 then (Scope.ofCode? (bitsOf w 2 0)).bind fun sc => some (.atomCasB32 (.ofNat 7 (bitsOf w 24 18)) (.ofNat 7 (bitsOf w 17 11)) (.ofNat 4 (bitsOf w 10 7)) sc) else none

/-- The word of ATOM_ADD_B64 (R164). -/
def decAtomAddB64 (w : Nat) : Option Instr :=
  if bitsOf w 6 3 = 0 then (Scope.ofCode? (bitsOf w 2 0)).bind fun sc => some (.atomAddB64 (.ofNat 7 (bitsOf w 24 18)) (.ofNat 7 (bitsOf w 17 11)) (.ofNat 4 (bitsOf w 10 7)) sc) else none

/-- The word of ATOM_MIN_SG_B64 (R164). -/
def decAtomMinSgB64 (w : Nat) : Option Instr :=
  if bitsOf w 6 3 = 1 then (Scope.ofCode? (bitsOf w 2 0)).bind fun sc => some (.atomMinSgB64 (.ofNat 7 (bitsOf w 24 18)) (.ofNat 7 (bitsOf w 17 11)) (.ofNat 4 (bitsOf w 10 7)) sc) else none

/-- The word of ATOM_MIN_US_B64 (R164). -/
def decAtomMinUsB64 (w : Nat) : Option Instr :=
  if bitsOf w 6 3 = 2 then (Scope.ofCode? (bitsOf w 2 0)).bind fun sc => some (.atomMinUsB64 (.ofNat 7 (bitsOf w 24 18)) (.ofNat 7 (bitsOf w 17 11)) (.ofNat 4 (bitsOf w 10 7)) sc) else none

/-- The word of ATOM_MAX_SG_B64 (R164). -/
def decAtomMaxSgB64 (w : Nat) : Option Instr :=
  if bitsOf w 6 3 = 3 then (Scope.ofCode? (bitsOf w 2 0)).bind fun sc => some (.atomMaxSgB64 (.ofNat 7 (bitsOf w 24 18)) (.ofNat 7 (bitsOf w 17 11)) (.ofNat 4 (bitsOf w 10 7)) sc) else none

/-- The word of ATOM_MAX_US_B64 (R164). -/
def decAtomMaxUsB64 (w : Nat) : Option Instr :=
  if bitsOf w 6 3 = 4 then (Scope.ofCode? (bitsOf w 2 0)).bind fun sc => some (.atomMaxUsB64 (.ofNat 7 (bitsOf w 24 18)) (.ofNat 7 (bitsOf w 17 11)) (.ofNat 4 (bitsOf w 10 7)) sc) else none

/-- The word of ATOM_AND_B64 (R164). -/
def decAtomAndB64 (w : Nat) : Option Instr :=
  if bitsOf w 6 3 = 5 then (Scope.ofCode? (bitsOf w 2 0)).bind fun sc => some (.atomAndB64 (.ofNat 7 (bitsOf w 24 18)) (.ofNat 7 (bitsOf w 17 11)) (.ofNat 4 (bitsOf w 10 7)) sc) else none

/-- The word of ATOM_OR_B64 (R164). -/
def decAtomOrB64 (w : Nat) : Option Instr :=
  if bitsOf w 6 3 = 6 then (Scope.ofCode? (bitsOf w 2 0)).bind fun sc => some (.atomOrB64 (.ofNat 7 (bitsOf w 24 18)) (.ofNat 7 (bitsOf w 17 11)) (.ofNat 4 (bitsOf w 10 7)) sc) else none

/-- The word of ATOM_XOR_B64 (R164). -/
def decAtomXorB64 (w : Nat) : Option Instr :=
  if bitsOf w 6 3 = 7 then (Scope.ofCode? (bitsOf w 2 0)).bind fun sc => some (.atomXorB64 (.ofNat 7 (bitsOf w 24 18)) (.ofNat 7 (bitsOf w 17 11)) (.ofNat 4 (bitsOf w 10 7)) sc) else none

/-- The word of ATOM_XCHG_B64 (R164). -/
def decAtomXchgB64 (w : Nat) : Option Instr :=
  if bitsOf w 6 3 = 8 then (Scope.ofCode? (bitsOf w 2 0)).bind fun sc => some (.atomXchgB64 (.ofNat 7 (bitsOf w 24 18)) (.ofNat 7 (bitsOf w 17 11)) (.ofNat 4 (bitsOf w 10 7)) sc) else none

/-- The word of ATOM_CAS_B64 (R164). -/
def decAtomCasB64 (w : Nat) : Option Instr :=
  if bitsOf w 6 3 = 9 then (Scope.ofCode? (bitsOf w 2 0)).bind fun sc => some (.atomCasB64 (.ofNat 7 (bitsOf w 24 18)) (.ofNat 7 (bitsOf w 17 11)) (.ofNat 4 (bitsOf w 10 7)) sc) else none

/-- The word of ACAS_B128 (R165). -/
def decAcasB128 (w : Nat) : Option Instr :=
  if bitsOf w 6 3 = 10 then (Scope.ofCode? (bitsOf w 2 0)).bind fun sc => some (.acasB128 (.ofNat 7 (bitsOf w 24 18)) (.ofNat 7 (bitsOf w 17 11)) (.ofNat 4 (bitsOf w 10 7)) sc) else none

/-- The word of AACC (R166). -/
def decAacc (w : Nat) : Option Instr :=
  if bitsOf w 6 3 = 11 then (AaccFmt.ofCode? (bitsOf w 2 0)).bind fun f => some (.aacc (.ofNat 7 (bitsOf w 24 18)) (.ofNat 7 (bitsOf w 17 11)) (.ofNat 4 (bitsOf w 10 7)) f) else none

/-- The word of ARSV (R167). -/
def decArsv (w : Nat) : Option Instr :=
  if bitsOf w 17 11 = 0 ∧ bitsOf w 6 0 = 96 then some (.arsv (.ofNat 7 (bitsOf w 24 18)) (.ofNat 4 (bitsOf w 10 7))) else none

/-- The word of BRA (R114). -/
def decBra (w : Nat) : Option Instr :=
  if bitsOf w 24 21 = 0 then some (.bra (.ofNat 3 (bitsOf w 20 18)) (bit1 (bitsOf w 17 17)) (.ofNat 17 (bitsOf w 16 0))) else none

/-- The word of CALL (R114). -/
def decCall (w : Nat) : Option Instr :=
  if bitsOf w 24 21 = 1 then some (.call (.ofNat 3 (bitsOf w 20 18)) (bit1 (bitsOf w 17 17)) (.ofNat 17 (bitsOf w 16 0))) else none

/-- The word of CALLR (R114). -/
def decCallr (w : Nat) : Option Instr :=
  if bitsOf w 24 21 = 2 ∧ bitsOf w 16 7 = 0 then some (.callr (.ofNat 3 (bitsOf w 20 18)) (bit1 (bitsOf w 17 17)) (.ofNat 7 (bitsOf w 6 0))) else none

/-- The word of RET (R114). -/
def decRet (w : Nat) : Option Instr :=
  if bitsOf w 24 21 = 3 ∧ bitsOf w 16 0 = 0 then some (.ret (.ofNat 3 (bitsOf w 20 18)) (bit1 (bitsOf w 17 17))) else none

/-- The word of JMPR (R114). -/
def decJmpr (w : Nat) : Option Instr :=
  if bitsOf w 24 21 = 4 ∧ bitsOf w 16 7 = 0 then some (.jmpr (.ofNat 3 (bitsOf w 20 18)) (bit1 (bitsOf w 17 17)) (.ofNat 7 (bitsOf w 6 0))) else none

/-- The word of EXIT (R115). -/
def decExit (w : Nat) : Option Instr :=
  if bitsOf w 24 21 = 5 ∧ bitsOf w 16 0 = 0 then some (.exit (.ofNat 3 (bitsOf w 20 18)) (bit1 (bitsOf w 17 17))) else none

/-- The word of YIELD (R116). -/
def decYield (w : Nat) : Option Instr :=
  if bitsOf w 24 21 = 6 ∧ bitsOf w 20 0 = 0 then some (.yield) else none

/-- The word of TRAP (R117). -/
def decTrap (w : Nat) : Option Instr :=
  if bitsOf w 24 21 = 7 ∧ bitsOf w 16 16 = 0 then some (.trap (.ofNat 3 (bitsOf w 20 18)) (bit1 (bitsOf w 17 17)) (.ofNat 16 (bitsOf w 15 0))) else none

/-- The word of BKPT (R117). -/
def decBkpt (w : Nat) : Option Instr :=
  if bitsOf w 24 21 = 8 ∧ bitsOf w 16 16 = 0 then some (.bkpt (.ofNat 3 (bitsOf w 20 18)) (bit1 (bitsOf w 17 17)) (.ofNat 16 (bitsOf w 15 0))) else none

/-- The word of NOP (R116). -/
def decNop (w : Nat) : Option Instr :=
  if bitsOf w 24 21 = 9 ∧ bitsOf w 20 0 = 0 then some (.nop) else none

/-- The word of X_PREFIX (R84). -/
def decXPrefix (w : Nat) : Option Instr :=
  if bitsOf w 24 24 = 0 then (RMode.ofCode? (bitsOf w 18 16)).bind fun r => (LKind.ofCode? (bitsOf w 8 6)).bind fun k => some (.xPrefix (.ofNat 3 (bitsOf w 23 21)) (bit1 (bitsOf w 20 20)) (bit1 (bitsOf w 19 19)) r (.ofNat 7 (bitsOf w 15 9)) k (.ofNat 5 (bitsOf w 5 1)) (bit1 (bitsOf w 0 0))) else none

/-- The word of W_PREFIX (R88). -/
def decWPrefix (w : Nat) : Option Instr :=
  if bitsOf w 24 21 = 8 ∧ bitsOf w 20 13 = 0 then some (.wPrefix (bit1 (bitsOf w 12 12)) (.ofNat 12 (bitsOf w 11 0))) else none

/-- The word of UADD (R109). -/
def decUadd (w : Nat) : Option Instr :=
  if bitsOf w 24 21 = 0 ∧ bitsOf w 2 0 = 0 then some (.uadd (.ofNat 6 (bitsOf w 20 15)) (.ofNat 6 (bitsOf w 14 9)) (.ofNat 6 (bitsOf w 8 3))) else none

/-- The word of USUB (R109). -/
def decUsub (w : Nat) : Option Instr :=
  if bitsOf w 24 21 = 1 ∧ bitsOf w 2 0 = 0 then some (.usub (.ofNat 6 (bitsOf w 20 15)) (.ofNat 6 (bitsOf w 14 9)) (.ofNat 6 (bitsOf w 8 3))) else none

/-- The word of UMUL (R109). -/
def decUmul (w : Nat) : Option Instr :=
  if bitsOf w 24 21 = 2 ∧ bitsOf w 2 0 = 0 then some (.umul (.ofNat 6 (bitsOf w 20 15)) (.ofNat 6 (bitsOf w 14 9)) (.ofNat 6 (bitsOf w 8 3))) else none

/-- The word of UAND (R109). -/
def decUand (w : Nat) : Option Instr :=
  if bitsOf w 24 21 = 3 ∧ bitsOf w 2 0 = 0 then some (.uand (.ofNat 6 (bitsOf w 20 15)) (.ofNat 6 (bitsOf w 14 9)) (.ofNat 6 (bitsOf w 8 3))) else none

/-- The word of UOR (R109). -/
def decUor (w : Nat) : Option Instr :=
  if bitsOf w 24 21 = 4 ∧ bitsOf w 2 0 = 0 then some (.uor (.ofNat 6 (bitsOf w 20 15)) (.ofNat 6 (bitsOf w 14 9)) (.ofNat 6 (bitsOf w 8 3))) else none

/-- The word of UXOR (R109). -/
def decUxor (w : Nat) : Option Instr :=
  if bitsOf w 24 21 = 5 ∧ bitsOf w 2 0 = 0 then some (.uxor (.ofNat 6 (bitsOf w 20 15)) (.ofNat 6 (bitsOf w 14 9)) (.ofNat 6 (bitsOf w 8 3))) else none

/-- The word of USHL (R109). -/
def decUshl (w : Nat) : Option Instr :=
  if bitsOf w 24 21 = 6 ∧ bitsOf w 2 0 = 0 then some (.ushl (.ofNat 6 (bitsOf w 20 15)) (.ofNat 6 (bitsOf w 14 9)) (.ofNat 6 (bitsOf w 8 3))) else none

/-- The word of USHR (R109). -/
def decUshr (w : Nat) : Option Instr :=
  if bitsOf w 24 21 = 7 ∧ bitsOf w 2 0 = 0 then some (.ushr (.ofNat 6 (bitsOf w 20 15)) (.ofNat 6 (bitsOf w 14 9)) (.ofNat 6 (bitsOf w 8 3))) else none

/-- The word of USAR (R109). -/
def decUsar (w : Nat) : Option Instr :=
  if bitsOf w 24 21 = 8 ∧ bitsOf w 2 0 = 0 then some (.usar (.ofNat 6 (bitsOf w 20 15)) (.ofNat 6 (bitsOf w 14 9)) (.ofNat 6 (bitsOf w 8 3))) else none

/-- The word of UMIN_SG (R109). -/
def decUminSg (w : Nat) : Option Instr :=
  if bitsOf w 24 21 = 9 ∧ bitsOf w 2 0 = 0 then some (.uminSg (.ofNat 6 (bitsOf w 20 15)) (.ofNat 6 (bitsOf w 14 9)) (.ofNat 6 (bitsOf w 8 3))) else none

/-- The word of UMIN_US (R109). -/
def decUminUs (w : Nat) : Option Instr :=
  if bitsOf w 24 21 = 9 ∧ bitsOf w 2 0 = 1 then some (.uminUs (.ofNat 6 (bitsOf w 20 15)) (.ofNat 6 (bitsOf w 14 9)) (.ofNat 6 (bitsOf w 8 3))) else none

/-- The word of UMAX_SG (R109). -/
def decUmaxSg (w : Nat) : Option Instr :=
  if bitsOf w 24 21 = 10 ∧ bitsOf w 2 0 = 0 then some (.umaxSg (.ofNat 6 (bitsOf w 20 15)) (.ofNat 6 (bitsOf w 14 9)) (.ofNat 6 (bitsOf w 8 3))) else none

/-- The word of UMAX_US (R109). -/
def decUmaxUs (w : Nat) : Option Instr :=
  if bitsOf w 24 21 = 10 ∧ bitsOf w 2 0 = 1 then some (.umaxUs (.ofNat 6 (bitsOf w 20 15)) (.ofNat 6 (bitsOf w 14 9)) (.ofNat 6 (bitsOf w 8 3))) else none

/-- The word of UMOV (R109). -/
def decUmov (w : Nat) : Option Instr :=
  if bitsOf w 24 21 = 11 ∧ bitsOf w 8 0 = 0 then some (.umov (.ofNat 6 (bitsOf w 20 15)) (.ofNat 6 (bitsOf w 14 9))) else none

/-- The word of USEL (R109). -/
def decUsel (w : Nat) : Option Instr :=
  if bitsOf w 24 21 = 12 ∧ bitsOf w 2 0 = 0 then some (.usel (.ofNat 6 (bitsOf w 20 15)) (.ofNat 6 (bitsOf w 14 9)) (.ofNat 6 (bitsOf w 8 3))) else none

/-- The word of UCMP (R109). -/
def decUcmp (w : Nat) : Option Instr :=
  if bitsOf w 24 21 = 13 then (UCond.ofCode? (bitsOf w 2 0)).bind fun c => some (.ucmp (.ofNat 6 (bitsOf w 20 15)) (.ofNat 6 (bitsOf w 14 9)) (.ofNat 6 (bitsOf w 8 3)) c) else none

/-- The word of UADD_IMM (R110). -/
def decUaddImm (w : Nat) : Option Instr :=
  some (.uaddImm (.ofNat 6 (bitsOf w 24 19)) (.ofNat 6 (bitsOf w 18 13)) (.ofNat 13 (bitsOf w 12 0)))

/-- The word of ULD (R112). -/
def decUld (w : Nat) : Option Instr :=
  if bitsOf w 12 12 = 0 then some (.uld (.ofNat 6 (bitsOf w 24 19)) (.ofNat 6 (bitsOf w 18 13)) (.ofNat 4 (bitsOf w 11 8)) (.ofNat 8 (bitsOf w 7 0))) else none

/-- The word of UST (R112). -/
def decUst (w : Nat) : Option Instr :=
  if bitsOf w 12 12 = 1 then some (.ust (.ofNat 6 (bitsOf w 24 19)) (.ofNat 6 (bitsOf w 18 13)) (.ofNat 4 (bitsOf w 11 8)) (.ofNat 8 (bitsOf w 7 0))) else none

/-- The word of UMOVI_LO (R111). -/
def decUmoviLo (w : Nat) : Option Instr :=
  some (.umoviLo (.ofNat 6 (bitsOf w 24 19)) (.ofNat 19 (bitsOf w 18 0)))

/-- The word of UMOVI_HI (R111). -/
def decUmoviHi (w : Nat) : Option Instr :=
  some (.umoviHi (.ofNat 6 (bitsOf w 24 19)) (.ofNat 19 (bitsOf w 18 0)))

/-- The word of UBRA (R118). -/
def decUbra (w : Nat) : Option Instr :=
  if bitsOf w 24 21 = 0 ∧ bitsOf w 20 20 = 0 then some (.ubra (bit1 (bitsOf w 19 19)) (.ofNat 6 (bitsOf w 18 13)) (.ofNat 13 (bitsOf w 12 0))) else none

/-- The word of UCALL (R118). -/
def decUcall (w : Nat) : Option Instr :=
  if bitsOf w 24 21 = 0 ∧ bitsOf w 20 20 = 0 then some (.ucall (bit1 (bitsOf w 19 19)) (.ofNat 6 (bitsOf w 18 13)) (.ofNat 13 (bitsOf w 12 0))) else none

/-- The word of UBRA_REG (R118). -/
def decUbraReg (w : Nat) : Option Instr :=
  if bitsOf w 24 21 = 0 ∧ bitsOf w 20 19 = 0 ∧ bitsOf w 12 0 = 0 then some (.ubraReg (.ofNat 6 (bitsOf w 18 13))) else none

/-- The word of UCALL_REG (R118). -/
def decUcallReg (w : Nat) : Option Instr :=
  if bitsOf w 24 21 = 0 ∧ bitsOf w 20 19 = 0 ∧ bitsOf w 12 0 = 0 then some (.ucallReg (.ofNat 6 (bitsOf w 18 13))) else none

/-- The word of FENCE (R169). -/
def decFence (w : Nat) : Option Instr :=
  if bitsOf w 24 21 = 0 ∧ bitsOf w 20 3 = 0 then (Scope.ofCode? (bitsOf w 2 0)).bind fun sc => some (.fence sc) else none

/-- The word of FENCE_ACQ (R169). -/
def decFenceAcq (w : Nat) : Option Instr :=
  if bitsOf w 24 21 = 1 ∧ bitsOf w 20 3 = 0 then (Scope.ofCode? (bitsOf w 2 0)).bind fun sc => some (.fenceAcq sc) else none

/-- The word of FENCE_REL (R169). -/
def decFenceRel (w : Nat) : Option Instr :=
  if bitsOf w 24 21 = 2 ∧ bitsOf w 20 3 = 0 then (Scope.ofCode? (bitsOf w 2 0)).bind fun sc => some (.fenceRel sc) else none

/-- The word of FENCE_LREC (R170). -/
def decFenceLrec (w : Nat) : Option Instr :=
  if bitsOf w 24 21 = 3 ∧ bitsOf w 20 0 = 0 then some (.fenceLrec) else none

/-- The word of BAR_INIT (R174). -/
def decBarInit (w : Nat) : Option Instr :=
  if bitsOf w 24 21 = 0 ∧ bitsOf w 20 15 = 0 ∧ bitsOf w 2 0 = 0 then some (.barInit (.ofNat 6 (bitsOf w 14 9)) (.ofNat 6 (bitsOf w 8 3))) else none

/-- The word of BAR_ARRIVE (R174). -/
def decBarArrive (w : Nat) : Option Instr :=
  if bitsOf w 24 21 = 1 ∧ bitsOf w 14 9 = 0 ∧ bitsOf w 2 0 = 0 then some (.barArrive (.ofNat 6 (bitsOf w 20 15)) (.ofNat 6 (bitsOf w 8 3))) else none

/-- The word of BAR_WAIT (R174). -/
def decBarWait (w : Nat) : Option Instr :=
  if bitsOf w 24 21 = 2 ∧ bitsOf w 2 0 = 0 then some (.barWait (.ofNat 6 (bitsOf w 20 15)) (.ofNat 6 (bitsOf w 14 9)) (.ofNat 6 (bitsOf w 8 3))) else none

/-- The word of BAR_SYNC (R174). -/
def decBarSync (w : Nat) : Option Instr :=
  if bitsOf w 24 21 = 3 ∧ bitsOf w 14 9 = 0 ∧ bitsOf w 2 0 = 0 then some (.barSync (.ofNat 6 (bitsOf w 20 15)) (.ofNat 6 (bitsOf w 8 3))) else none

/-- The word of BAR_INVAL (R174). -/
def decBarInval (w : Nat) : Option Instr :=
  if bitsOf w 24 21 = 4 ∧ bitsOf w 20 9 = 0 ∧ bitsOf w 2 0 = 0 then some (.barInval (.ofNat 6 (bitsOf w 8 3))) else none

/-- The word of FBAR_SYNC (R175). -/
def decFbarSync (w : Nat) : Option Instr :=
  if bitsOf w 24 21 = 0 ∧ bitsOf w 14 9 = 0 then some (.fbarSync (.ofNat 6 (bitsOf w 20 15)) (.ofNat 6 (bitsOf w 8 3)) (.ofNat 3 (bitsOf w 2 0))) else none

/-- The word of RING_INIT (R178). -/
def decRingInit (w : Nat) : Option Instr :=
  if bitsOf w 24 21 = 0 ∧ bitsOf w 20 15 = 0 ∧ bitsOf w 2 0 = 0 then some (.ringInit (.ofNat 6 (bitsOf w 14 9)) (.ofNat 6 (bitsOf w 8 3))) else none

/-- The word of RING_ARRIVE_FULL (R178). -/
def decRingArriveFull (w : Nat) : Option Instr :=
  if bitsOf w 24 21 = 1 ∧ bitsOf w 20 15 = 0 ∧ bitsOf w 2 0 = 0 then some (.ringArriveFull (.ofNat 6 (bitsOf w 14 9)) (.ofNat 6 (bitsOf w 8 3))) else none

/-- The word of RING_ARRIVE_EMPTY (R178). -/
def decRingArriveEmpty (w : Nat) : Option Instr :=
  if bitsOf w 24 21 = 2 ∧ bitsOf w 20 15 = 0 ∧ bitsOf w 2 0 = 0 then some (.ringArriveEmpty (.ofNat 6 (bitsOf w 14 9)) (.ofNat 6 (bitsOf w 8 3))) else none

/-- The word of RING_WAIT_FULL (R178). -/
def decRingWaitFull (w : Nat) : Option Instr :=
  if bitsOf w 24 21 = 3 ∧ bitsOf w 2 1 = 0 then some (.ringWaitFull (.ofNat 6 (bitsOf w 20 15)) (.ofNat 6 (bitsOf w 14 9)) (.ofNat 6 (bitsOf w 8 3)) (bit1 (bitsOf w 0 0))) else none

/-- The word of RING_WAIT_EMPTY (R178). -/
def decRingWaitEmpty (w : Nat) : Option Instr :=
  if bitsOf w 24 21 = 4 ∧ bitsOf w 2 1 = 0 then some (.ringWaitEmpty (.ofNat 6 (bitsOf w 20 15)) (.ofNat 6 (bitsOf w 14 9)) (.ofNat 6 (bitsOf w 8 3)) (bit1 (bitsOf w 0 0))) else none

/-- The word of CFTEST (R179). -/
def decCftest (w : Nat) : Option Instr :=
  if bitsOf w 24 21 = 0 ∧ bitsOf w 14 9 = 0 ∧ bitsOf w 2 0 = 0 then some (.cftest (.ofNat 6 (bitsOf w 20 15)) (.ofNat 6 (bitsOf w 8 3))) else none

/-- The word of COPY (R190). -/
def decCopy (w : Nat) : Option Instr :=
  if bitsOf w 24 21 = 0 ∧ bitsOf w 20 15 = 0 ∧ bitsOf w 8 7 = 0 then (Scope.ofCode? (bitsOf w 2 0)).bind fun sc => some (.copy (.ofNat 6 (bitsOf w 14 9)) (.ofNat 4 (bitsOf w 6 3)) sc) else none

/-- The word of COPY_ST (R190). -/
def decCopySt (w : Nat) : Option Instr :=
  if bitsOf w 24 21 = 1 ∧ bitsOf w 20 15 = 0 ∧ bitsOf w 8 7 = 0 then (Scope.ofCode? (bitsOf w 2 0)).bind fun sc => some (.copySt (.ofNat 6 (bitsOf w 14 9)) (.ofNat 4 (bitsOf w 6 3)) sc) else none

/-- The word of COPY_ACC (R190). -/
def decCopyAcc (w : Nat) : Option Instr :=
  if bitsOf w 24 21 = 2 ∧ bitsOf w 20 15 = 0 ∧ bitsOf w 8 7 = 0 then (Scope.ofCode? (bitsOf w 2 0)).bind fun sc => some (.copyAcc (.ofNat 6 (bitsOf w 14 9)) (.ofNat 4 (bitsOf w 6 3)) sc) else none

/-- The word of CVINIT (R195). -/
def decCvinit (w : Nat) : Option Instr :=
  if bitsOf w 24 21 = 0 ∧ bitsOf w 20 15 = 0 ∧ bitsOf w 8 7 = 0 ∧ bitsOf w 2 0 = 0 then some (.cvinit (.ofNat 6 (bitsOf w 14 9)) (.ofNat 4 (bitsOf w 6 3))) else none

/-- The word of MMA (R196). -/
def decMma (w : Nat) : Option Instr :=
  if bitsOf w 24 21 = 1 ∧ bitsOf w 20 15 = 0 ∧ bitsOf w 8 7 = 0 ∧ bitsOf w 2 0 = 0 then some (.mma (.ofNat 6 (bitsOf w 14 9)) (.ofNat 4 (bitsOf w 6 3))) else none

/-- The word of WBLOAD (R201). -/
def decWbload (w : Nat) : Option Instr :=
  if bitsOf w 24 21 = 2 ∧ bitsOf w 20 15 = 0 ∧ bitsOf w 8 7 = 0 ∧ bitsOf w 2 0 = 0 then some (.wbload (.ofNat 6 (bitsOf w 14 9)) (.ofNat 4 (bitsOf w 6 3))) else none

/-- The word of WBLOAD_MASK (R201). -/
def decWbloadMask (w : Nat) : Option Instr :=
  if bitsOf w 24 21 = 2 ∧ bitsOf w 20 15 = 0 ∧ bitsOf w 8 7 = 0 ∧ bitsOf w 2 0 = 1 then some (.wbloadMask (.ofNat 6 (bitsOf w 14 9)) (.ofNat 4 (bitsOf w 6 3))) else none

/-- The word of ACCLD (R202). -/
def decAccld (w : Nat) : Option Instr :=
  if bitsOf w 24 21 = 3 ∧ bitsOf w 20 15 = 0 ∧ bitsOf w 8 0 = 0 then some (.accld (.ofNat 6 (bitsOf w 14 9))) else none

/-- The word of ACCLD_F64 (R202). -/
def decAccldF64 (w : Nat) : Option Instr :=
  if bitsOf w 24 21 = 3 ∧ bitsOf w 20 15 = 0 ∧ bitsOf w 8 0 = 1 then some (.accldF64 (.ofNat 6 (bitsOf w 14 9))) else none

/-- The word of ACCST (R202). -/
def decAccst (w : Nat) : Option Instr :=
  if bitsOf w 24 21 = 4 ∧ bitsOf w 20 15 = 0 ∧ bitsOf w 8 0 = 0 then some (.accst (.ofNat 6 (bitsOf w 14 9))) else none

/-- The word of ACCST_F64 (R202). -/
def decAccstF64 (w : Nat) : Option Instr :=
  if bitsOf w 24 21 = 4 ∧ bitsOf w 20 15 = 0 ∧ bitsOf w 8 0 = 1 then some (.accstF64 (.ofNat 6 (bitsOf w 14 9))) else none

/-- The word of ACCZERO (R202). -/
def decAcczero (w : Nat) : Option Instr :=
  if bitsOf w 24 21 = 5 ∧ bitsOf w 20 15 = 0 ∧ bitsOf w 8 0 = 0 then some (.acczero (.ofNat 6 (bitsOf w 14 9))) else none

/-- The word of OPFENCE (R200). -/
def decOpfence (w : Nat) : Option Instr :=
  if bitsOf w 24 21 = 6 ∧ bitsOf w 20 0 = 0 then some (.opfence) else none

/-- The word of XFORM_CVT (R204). -/
def decXformCvt (w : Nat) : Option Instr :=
  if bitsOf w 24 21 = 0 ∧ bitsOf w 20 15 = 0 ∧ bitsOf w 8 7 = 0 ∧ bitsOf w 2 0 = 0 then some (.xformCvt (.ofNat 6 (bitsOf w 14 9)) (.ofNat 4 (bitsOf w 6 3))) else none

/-- The word of XFORM_ROUND (R204). -/
def decXformRound (w : Nat) : Option Instr :=
  if bitsOf w 24 21 = 1 ∧ bitsOf w 20 15 = 0 ∧ bitsOf w 8 7 = 0 ∧ bitsOf w 2 0 = 0 then some (.xformRound (.ofNat 6 (bitsOf w 14 9)) (.ofNat 4 (bitsOf w 6 3))) else none

/-- The word of XFORM_SCALE (R204). -/
def decXformScale (w : Nat) : Option Instr :=
  if bitsOf w 24 21 = 2 ∧ bitsOf w 20 15 = 0 ∧ bitsOf w 8 7 = 0 ∧ bitsOf w 2 0 = 0 then some (.xformScale (.ofNat 6 (bitsOf w 14 9)) (.ofNat 4 (bitsOf w 6 3))) else none

/-- The word of XFORM_FILL (R204). -/
def decXformFill (w : Nat) : Option Instr :=
  if bitsOf w 24 21 = 3 ∧ bitsOf w 20 15 = 0 ∧ bitsOf w 8 7 = 0 ∧ bitsOf w 2 0 = 0 then some (.xformFill (.ofNat 6 (bitsOf w 14 9)) (.ofNat 4 (bitsOf w 6 3))) else none

/-- The word of XFORM_ZERO (R204). -/
def decXformZero (w : Nat) : Option Instr :=
  if bitsOf w 24 21 = 4 ∧ bitsOf w 20 15 = 0 ∧ bitsOf w 8 7 = 0 ∧ bitsOf w 2 0 = 0 then some (.xformZero (.ofNat 6 (bitsOf w 14 9)) (.ofNat 4 (bitsOf w 6 3))) else none

/-- The word of MSG_SEND (R205). -/
def decMsgSend (w : Nat) : Option Instr :=
  if bitsOf w 24 21 = 0 ∧ bitsOf w 20 15 = 0 ∧ bitsOf w 2 0 = 0 then some (.msgSend (.ofNat 6 (bitsOf w 14 9)) (.ofNat 6 (bitsOf w 8 3))) else none

/-- The word of MSG_RECV (R206). -/
def decMsgRecv (w : Nat) : Option Instr :=
  if bitsOf w 24 21 = 1 ∧ bitsOf w 2 0 = 0 then some (.msgRecv (.ofNat 6 (bitsOf w 20 15)) (.ofNat 6 (bitsOf w 14 9)) (.ofNat 6 (bitsOf w 8 3))) else none

/-- The word of SREG_RD_VECTOR (R209). -/
def decSregRdVector (w : Nat) : Option Instr :=
  if bitsOf w 24 21 = 0 ∧ bitsOf w 7 0 = 0 then some (.sregRdVector (.ofNat 7 (bitsOf w 20 14)) (.ofNat 6 (bitsOf w 13 8))) else none

/-- The word of SREG_RD_UNIFORM (R209). -/
def decSregRdUniform (w : Nat) : Option Instr :=
  if bitsOf w 24 21 = 1 ∧ bitsOf w 14 9 = 0 ∧ bitsOf w 2 0 = 0 then some (.sregRdUniform (.ofNat 6 (bitsOf w 20 15)) (.ofNat 6 (bitsOf w 8 3))) else none

/-- The word of SREG_WR (R209). -/
def decSregWr (w : Nat) : Option Instr :=
  if bitsOf w 24 21 = 2 ∧ bitsOf w 20 15 = 0 ∧ bitsOf w 2 0 = 0 then some (.sregWr (.ofNat 6 (bitsOf w 14 9)) (.ofNat 6 (bitsOf w 8 3))) else none

/-- The word of TEMIT (R210). -/
def decTemit (w : Nat) : Option Instr :=
  if bitsOf w 24 21 = 0 ∧ bitsOf w 20 15 = 0 ∧ bitsOf w 8 3 = 0 then some (.temit (.ofNat 6 (bitsOf w 14 9)) (.ofNat 3 (bitsOf w 2 0))) else none

/-- The word of CTR_RD (R211). -/
def decCtrRd (w : Nat) : Option Instr :=
  if bitsOf w 24 21 = 0 ∧ bitsOf w 14 9 = 0 ∧ bitsOf w 2 0 = 0 then some (.ctrRd (.ofNat 6 (bitsOf w 20 15)) (.ofNat 6 (bitsOf w 8 3))) else none

/-- The word of CTR_CTL (R375). -/
def decCtrCtl (w : Nat) : Option Instr :=
  if bitsOf w 24 21 = 1 ∧ bitsOf w 20 15 = 0 ∧ bitsOf w 2 0 = 0 then some (.ctrCtl (.ofNat 6 (bitsOf w 14 9)) (.ofNat 6 (bitsOf w 8 3))) else none

/-- The word of RTAG (R212). -/
def decRtag (w : Nat) : Option Instr :=
  if bitsOf w 24 21 = 2 ∧ bitsOf w 14 2 = 0 then some (.rtag (.ofNat 6 (bitsOf w 20 15)) (.ofNat 2 (bitsOf w 1 0))) else none

/-- The word of GLAUNCH (R208). -/
def decGlaunch (w : Nat) : Option Instr :=
  if bitsOf w 24 21 = 0 ∧ bitsOf w 20 15 = 0 ∧ bitsOf w 2 0 = 0 then some (.glaunch (.ofNat 6 (bitsOf w 14 9)) (.ofNat 6 (bitsOf w 8 3))) else none

/-- The instruction of a word, by its bits 31:25: bit 31 is the space, bits 30:25 the major opcode (R77, R78, R80, R81). -/
def decodeNat (w : Nat) : Option Instr :=
  match bitsOf w 31 25 with
  | 0 => decIadd w <|> decIsub w <|> decImul w <|> decImulhSg w <|> decImulhUs w <|> decImad w <|> decIminSg w <|> decIminUs w <|> decImaxSg w <|> decImaxUs w <|> decIabs w
  | 1 => decAnd w <|> decOr w <|> decXor w <|> decAndn w <|> decShl w <|> decShr w <|> decSar w <|> decRot w <|> decClz w <|> decPopc w <|> decBrev w <|> decMov w <|> decMovFromUniform w <|> decMovB64 w
  | 2 => decBfeUs w <|> decBfeSg w <|> decBfi w
  | 3 => decIadd64 w <|> decIsub64 w <|> decImul64 w <|> decShl64 w <|> decShr64 w <|> decSar64 w
  | 16 => decIaddImm w
  | 17 => decAndImm w
  | 18 => decShlImm w <|> decShrImm w <|> decSarImm w <|> decRotImm w <|> decShl64Imm w <|> decShr64Imm w <|> decSar64Imm w
  | 19 => decMovi w
  | 20 => decIcmp w
  | 21 => decIcmp64 w
  | 22 => decSel w
  | 23 => decPand w <|> decPor w <|> decPxor w <|> decPnot w <|> decIdp4Sg w <|> decIdp4Us w <|> decIdp2Sg w <|> decIdp2Us w
  | 24 => decFaddF32 w <|> decFsubF32 w <|> decFmulF32 w <|> decFfmaF32 w <|> decFminF32 w <|> decFmaxF32 w
  | 25 => decFaddF64 w <|> decFsubF64 w <|> decFmulF64 w <|> decFfmaF64 w <|> decFminF64 w <|> decFmaxF64 w
  | 26 => decFcmpF32 w
  | 27 => decFcmpF64 w
  | 28 => decFdivF32 w <|> decFsqrtF32 w <|> decFrcpF32 w <|> decFrsqF32 w
  | 29 => decFdivF64 w <|> decFsqrtF64 w <|> decFrcpF64 w <|> decFrsqF64 w
  | 32 => decTradd w
  | 33 => decTrsub w
  | 34 => decTrmul w
  | 35 => decTrfma w
  | 36 => decTrmin w <|> decTrmax w
  | 37 => decTrcmp w
  | 38 => decTrdec w <|> decTrenc w
  | 39 => decQmac w <|> decQclr w <|> decQround w <|> decQadd w
  | 40 => decFex2F32 w <|> decFlg2F32 w <|> decFsinF32 w <|> decFcosF32 w
  | 41 => decCvt w
  | 42 => decCvtClamp w
  | 44 => decShflIdx w <|> decShflUp w <|> decShflDown w <|> decShflXor w
  | 45 => decVoteAny w <|> decVoteAll w <|> decVoteBallot w <|> decVoteEq w
  | 46 => decMatchB32 w <|> decMatchB64 w
  | 47 => decRed w <|> decScan w
  | 48 => decLdB32 w
  | 49 => decLdB64 w
  | 50 => decLdB128 w
  | 51 => decStB32 w
  | 52 => decStB64 w
  | 53 => decStB128 w
  | 54 => decLdExtended w <|> decPf w
  | 55 => decStExtended w
  | 56 => decLdsB32 w
  | 57 => decLdsB64 w
  | 58 => decStsB32 w
  | 59 => decStsB64 w
  | 60 => decAtomAddB32 w <|> decAtomMinSgB32 w <|> decAtomMinUsB32 w <|> decAtomMaxSgB32 w <|> decAtomMaxUsB32 w <|> decAtomAndB32 w <|> decAtomOrB32 w <|> decAtomXorB32 w <|> decAtomXchgB32 w <|> decAtomCasB32 w
  | 61 => decAtomAddB64 w <|> decAtomMinSgB64 w <|> decAtomMinUsB64 w <|> decAtomMaxSgB64 w <|> decAtomMaxUsB64 w <|> decAtomAndB64 w <|> decAtomOrB64 w <|> decAtomXorB64 w <|> decAtomXchgB64 w <|> decAtomCasB64 w <|> decAcasB128 w <|> decAacc w <|> decArsv w
  | 62 => decBra w <|> decCall w <|> decCallr w <|> decRet w <|> decJmpr w <|> decExit w <|> decYield w <|> decTrap w <|> decBkpt w <|> decNop w
  | 63 => decXPrefix w <|> decWPrefix w
  | 64 => decUadd w <|> decUsub w <|> decUmul w <|> decUand w <|> decUor w <|> decUxor w <|> decUshl w <|> decUshr w <|> decUsar w <|> decUminSg w <|> decUminUs w <|> decUmaxSg w <|> decUmaxUs w <|> decUmov w <|> decUsel w <|> decUcmp w
  | 80 => decUaddImm w
  | 81 => decUld w <|> decUst w
  | 82 => decUmoviLo w
  | 83 => decUmoviHi w
  | 84 => decUbra w
  | 85 => decUcall w
  | 86 => decUbraReg w
  | 87 => decUcallReg w
  | 88 => decFence w <|> decFenceAcq w <|> decFenceRel w <|> decFenceLrec w
  | 89 => decBarInit w <|> decBarArrive w <|> decBarWait w <|> decBarSync w <|> decBarInval w
  | 90 => decFbarSync w
  | 91 => decRingInit w <|> decRingArriveFull w <|> decRingArriveEmpty w <|> decRingWaitFull w <|> decRingWaitEmpty w
  | 92 => decCftest w
  | 96 => decCopy w <|> decCopySt w <|> decCopyAcc w
  | 104 => decCvinit w <|> decMma w <|> decWbload w <|> decWbloadMask w <|> decAccld w <|> decAccldF64 w <|> decAccst w <|> decAccstF64 w <|> decAcczero w <|> decOpfence w
  | 112 => decXformCvt w <|> decXformRound w <|> decXformScale w <|> decXformFill w <|> decXformZero w
  | 113 => decMsgSend w <|> decMsgRecv w
  | 116 => decSregRdVector w <|> decSregRdUniform w <|> decSregWr w
  | 117 => decTemit w
  | 118 => decCtrRd w <|> decCtrCtl w <|> decRtag w
  | 120 => decGlaunch w
  | _ => none

/-- The instruction of a 32-bit word. -/
def decodeWord (w : Word) : Except DecodeError Instr :=
  match decodeNat w.toNat with
  | some i => .ok i
  | none => .error .notAssigned

/-- The word stored little-endian in four bytes (R8). -/
def wordOfBytes (b0 b1 b2 b3 : Byte) : Word := b3 ++ b2 ++ b1 ++ b0

/-- The four bytes of a word, lowest address first (R8). -/
def bytesOfWord (w : Word) : List Byte :=
  [w.extractLsb' 0 8, w.extractLsb' 8 8, w.extractLsb' 16 8, w.extractLsb' 24 8]

/-- The first instruction of a byte string and the bytes after it. -/
def decode (bs : List Byte) : Except DecodeError (Instr × List Byte) :=
  match bs with
  | b0 :: b1 :: b2 :: b3 :: rest =>
    match decodeWord (wordOfBytes b0 b1 b2 b3) with
    | .ok i => .ok (i, rest)
    | .error e => .error e
  | _ => .error .truncated

/-- The instruction whose table bits are w (every row is one 32-bit word, so nbits is 32). -/
def decodeTableWord (nbits w : Nat) : Option Instr :=
  match decode (bytesOfWord (BitVec.ofNat 32 (w % 2 ^ nbits))) with
  | .ok (i, _) => some i
  | .error _ => none

/-- The word of an instruction as a number; none for the steps that no word encodes. -/
def encodeNat? (i : Instr) : Option Nat :=
  match i with
  | .iadd d a b => some (0 + d.toNat * 16384 + a.toNat * 128 + b.toNat)
  | .isub d a b => some (0x00200000 + d.toNat * 16384 + a.toNat * 128 + b.toNat)
  | .imul d a b => some (0x00400000 + d.toNat * 16384 + a.toNat * 128 + b.toNat)
  | .imulhSg d a b => some (0x00600000 + d.toNat * 16384 + a.toNat * 128 + b.toNat)
  | .imulhUs d a b => some (0x00800000 + d.toNat * 16384 + a.toNat * 128 + b.toNat)
  | .imad d a b => some (0x00a00000 + d.toNat * 16384 + a.toNat * 128 + b.toNat)
  | .iminSg d a b => some (0x00c00000 + d.toNat * 16384 + a.toNat * 128 + b.toNat)
  | .iminUs d a b => some (0x00e00000 + d.toNat * 16384 + a.toNat * 128 + b.toNat)
  | .imaxSg d a b => some (0x01000000 + d.toNat * 16384 + a.toNat * 128 + b.toNat)
  | .imaxUs d a b => some (0x01200000 + d.toNat * 16384 + a.toNat * 128 + b.toNat)
  | .iabs d a => some (0x01400000 + d.toNat * 16384 + a.toNat * 128)
  | .and d a b => some (0x02000000 + d.toNat * 16384 + a.toNat * 128 + b.toNat)
  | .or d a b => some (0x02200000 + d.toNat * 16384 + a.toNat * 128 + b.toNat)
  | .xor d a b => some (0x02400000 + d.toNat * 16384 + a.toNat * 128 + b.toNat)
  | .andn d a b => some (0x02600000 + d.toNat * 16384 + a.toNat * 128 + b.toNat)
  | .shl d a b => some (0x02800000 + d.toNat * 16384 + a.toNat * 128 + b.toNat)
  | .shr d a b => some (0x02a00000 + d.toNat * 16384 + a.toNat * 128 + b.toNat)
  | .sar d a b => some (0x02c00000 + d.toNat * 16384 + a.toNat * 128 + b.toNat)
  | .rot d a b => some (0x02e00000 + d.toNat * 16384 + a.toNat * 128 + b.toNat)
  | .clz d a => some (0x03000000 + d.toNat * 16384 + a.toNat * 128)
  | .popc d a => some (0x03200000 + d.toNat * 16384 + a.toNat * 128)
  | .brev d a => some (0x03400000 + d.toNat * 16384 + a.toNat * 128)
  | .mov d a => some (0x03600000 + d.toNat * 16384 + a.toNat * 128)
  | .movFromUniform d sa => some (0x03800000 + d.toNat * 16384 + sa.toNat * 128)
  | .movB64 d sa => some (0x03a00000 + d.toNat * 16384 + sa.toNat * 128)
  | .bfeUs d a b => some (0x04000000 + d.toNat * 16384 + a.toNat * 128 + b.toNat)
  | .bfeSg d a b => some (0x04200000 + d.toNat * 16384 + a.toNat * 128 + b.toNat)
  | .bfi d a b => some (0x04400000 + d.toNat * 16384 + a.toNat * 128 + b.toNat)
  | .iadd64 d a b => some (0x06000000 + d.toNat * 16384 + a.toNat * 128 + b.toNat)
  | .isub64 d a b => some (0x06200000 + d.toNat * 16384 + a.toNat * 128 + b.toNat)
  | .imul64 d a b => some (0x06400000 + d.toNat * 16384 + a.toNat * 128 + b.toNat)
  | .shl64 d a b => some (0x06600000 + d.toNat * 16384 + a.toNat * 128 + b.toNat)
  | .shr64 d a b => some (0x06800000 + d.toNat * 16384 + a.toNat * 128 + b.toNat)
  | .sar64 d a b => some (0x06a00000 + d.toNat * 16384 + a.toNat * 128 + b.toNat)
  | .iaddImm d a i => some (0x20000000 + d.toNat * 262144 + a.toNat * 2048 + i.toNat)
  | .andImm d a i => some (0x22000000 + d.toNat * 262144 + a.toNat * 2048 + i.toNat)
  | .shlImm d a n => some (0x24000000 + d.toNat * 262144 + a.toNat * 2048 + n.toNat)
  | .shrImm d a n => some (0x24000100 + d.toNat * 262144 + a.toNat * 2048 + n.toNat)
  | .sarImm d a n => some (0x24000200 + d.toNat * 262144 + a.toNat * 2048 + n.toNat)
  | .rotImm d a n => some (0x24000300 + d.toNat * 262144 + a.toNat * 2048 + n.toNat)
  | .shl64Imm d a n => some (0x24000400 + d.toNat * 262144 + a.toNat * 2048 + n.toNat)
  | .shr64Imm d a n => some (0x24000500 + d.toNat * 262144 + a.toNat * 2048 + n.toNat)
  | .sar64Imm d a n => some (0x24000600 + d.toNat * 262144 + a.toNat * 2048 + n.toNat)
  | .movi d i => some (0x26000000 + d.toNat * 262144 + i.toNat)
  | .icmp c p a b => some (0x28000000 + c.code * 2097152 + p.toNat * 16384 + a.toNat * 128 + b.toNat)
  | .icmp64 c p a b => some (0x2a000000 + c.code * 2097152 + p.toNat * 16384 + a.toNat * 128 + b.toNat)
  | .sel n p d a b => some (0x2c000000 + n.toNat * 16777216 + p.toNat * 2097152 + d.toNat * 16384 + a.toNat * 128 + b.toNat)
  | .pand d a b => some (0x2e000000 + d.toNat * 16384 + a.toNat * 128 + b.toNat)
  | .por d a b => some (0x2e200000 + d.toNat * 16384 + a.toNat * 128 + b.toNat)
  | .pxor d a b => some (0x2e400000 + d.toNat * 16384 + a.toNat * 128 + b.toNat)
  | .pnot d a => some (0x2e600000 + d.toNat * 16384 + a.toNat * 128)
  | .idp4Sg d a b => some (0x2e800000 + d.toNat * 16384 + a.toNat * 128 + b.toNat)
  | .idp4Us d a b => some (0x2ea00000 + d.toNat * 16384 + a.toNat * 128 + b.toNat)
  | .idp2Sg d a b => some (0x2ec00000 + d.toNat * 16384 + a.toNat * 128 + b.toNat)
  | .idp2Us d a b => some (0x2ee00000 + d.toNat * 16384 + a.toNat * 128 + b.toNat)
  | .faddF32 d a b => some (0x30000000 + d.toNat * 16384 + a.toNat * 128 + b.toNat)
  | .fsubF32 d a b => some (0x30200000 + d.toNat * 16384 + a.toNat * 128 + b.toNat)
  | .fmulF32 d a b => some (0x30400000 + d.toNat * 16384 + a.toNat * 128 + b.toNat)
  | .ffmaF32 d a b => some (0x30600000 + d.toNat * 16384 + a.toNat * 128 + b.toNat)
  | .fminF32 d a b => some (0x30800000 + d.toNat * 16384 + a.toNat * 128 + b.toNat)
  | .fmaxF32 d a b => some (0x30a00000 + d.toNat * 16384 + a.toNat * 128 + b.toNat)
  | .faddF64 d a b => some (0x32000000 + d.toNat * 16384 + a.toNat * 128 + b.toNat)
  | .fsubF64 d a b => some (0x32200000 + d.toNat * 16384 + a.toNat * 128 + b.toNat)
  | .fmulF64 d a b => some (0x32400000 + d.toNat * 16384 + a.toNat * 128 + b.toNat)
  | .ffmaF64 d a b => some (0x32600000 + d.toNat * 16384 + a.toNat * 128 + b.toNat)
  | .fminF64 d a b => some (0x32800000 + d.toNat * 16384 + a.toNat * 128 + b.toNat)
  | .fmaxF64 d a b => some (0x32a00000 + d.toNat * 16384 + a.toNat * 128 + b.toNat)
  | .fcmpF32 c p a b => some (0x34000000 + c.code * 2097152 + p.toNat * 16384 + a.toNat * 128 + b.toNat)
  | .fcmpF64 c p a b => some (0x36000000 + c.code * 2097152 + p.toNat * 16384 + a.toNat * 128 + b.toNat)
  | .fdivF32 d a b => some (0x38000000 + d.toNat * 16384 + a.toNat * 128 + b.toNat)
  | .fsqrtF32 d a => some (0x38200000 + d.toNat * 16384 + a.toNat * 128)
  | .frcpF32 d a => some (0x38400000 + d.toNat * 16384 + a.toNat * 128)
  | .frsqF32 d a => some (0x38600000 + d.toNat * 16384 + a.toNat * 128)
  | .fdivF64 d a b => some (0x3a000000 + d.toNat * 16384 + a.toNat * 128 + b.toNat)
  | .fsqrtF64 d a => some (0x3a200000 + d.toNat * 16384 + a.toNat * 128)
  | .frcpF64 d a => some (0x3a400000 + d.toNat * 16384 + a.toNat * 128)
  | .frsqF64 d a => some (0x3a600000 + d.toNat * 16384 + a.toNat * 128)
  | .tradd f d a b => some (0x40000000 + f.code * 2097152 + d.toNat * 16384 + a.toNat * 128 + b.toNat)
  | .trsub f d a b => some (0x42000000 + f.code * 2097152 + d.toNat * 16384 + a.toNat * 128 + b.toNat)
  | .trmul f d a b => some (0x44000000 + f.code * 2097152 + d.toNat * 16384 + a.toNat * 128 + b.toNat)
  | .trfma f d a b => some (0x46000000 + f.code * 2097152 + d.toNat * 16384 + a.toNat * 128 + b.toNat)
  | .trmin f d a b => some (0x48000000 + f.code * 2097152 + d.toNat * 16384 + a.toNat * 128 + b.toNat)
  | .trmax f d a b => some (0x49000000 + f.code * 2097152 + d.toNat * 16384 + a.toNat * 128 + b.toNat)
  | .trcmp f c p a b => some (0x4a000000 + f.code * 2097152 + c.code * 131072 + p.toNat * 16384 + a.toNat * 128 + b.toNat)
  | .trdec f d a => some (0x4c000000 + f.code * 2097152 + d.toNat * 16384 + a.toNat * 128)
  | .trenc f d a => some (0x4d000000 + f.code * 2097152 + d.toNat * 16384 + a.toNat * 128)
  | .qmac f q a b => some (0x4e000000 + f.code * 2097152 + q.toNat * 16384 + a.toNat * 128 + b.toNat)
  | .qclr q => some (0x4ea00000 + q.toNat * 16384)
  | .qround d q t => some (0x4ec00000 + d.toNat * 16384 + q.toNat * 128 + t.code)
  | .qadd f q a => some (0x4f000000 + f.code * 2097152 + q.toNat * 16384 + a.toNat * 128)
  | .fex2F32 d a => some (0x50000000 + d.toNat * 16384 + a.toNat * 128)
  | .flg2F32 d a => some (0x50200000 + d.toNat * 16384 + a.toNat * 128)
  | .fsinF32 d a => some (0x50400000 + d.toNat * 16384 + a.toNat * 128)
  | .fcosF32 d a => some (0x50600000 + d.toNat * 16384 + a.toNat * 128)
  | .cvt t d a f => some (0x52000000 + t.code * 2097152 + d.toNat * 16384 + a.toNat * 128 + f.code)
  | .cvtClamp t d a f => some (0x54000000 + t.code * 2097152 + d.toNat * 16384 + a.toNat * 128 + f.code)
  | .shflIdx w d a b => some (0x58000000 + w.toNat * 8388608 + d.toNat * 16384 + a.toNat * 128 + b.toNat)
  | .shflUp w d a b => some (0x58200000 + w.toNat * 8388608 + d.toNat * 16384 + a.toNat * 128 + b.toNat)
  | .shflDown w d a b => some (0x58400000 + w.toNat * 8388608 + d.toNat * 16384 + a.toNat * 128 + b.toNat)
  | .shflXor w d a b => some (0x58600000 + w.toNat * 8388608 + d.toNat * 16384 + a.toNat * 128 + b.toNat)
  | .voteAny d a => some (0x5a000000 + d.toNat * 16384 + a.toNat * 128)
  | .voteAll d a => some (0x5a200000 + d.toNat * 16384 + a.toNat * 128)
  | .voteBallot d a => some (0x5a400000 + d.toNat * 16384 + a.toNat * 128)
  | .voteEq d a => some (0x5a600000 + d.toNat * 16384 + a.toNat * 128)
  | .matchB32 d a => some (0x5c000000 + d.toNat * 16384 + a.toNat * 128)
  | .matchB64 d a => some (0x5c200000 + d.toNat * 16384 + a.toNat * 128)
  | .red f sd a => some (0x5e000000 + f.code * 2097152 + sd.toNat * 16384 + a.toNat * 128)
  | .scan f d a sd => some (0x5e000000 + f.code * 2097152 + d.toNat * 16384 + a.toNat * 128 + sd.toNat)
  | .ldB32 d a b i => some (0x60000000 + d.toNat * 262144 + a.toNat * 2048 + b.toNat * 128 + i.toNat)
  | .ldB64 d a b i => some (0x62000000 + d.toNat * 262144 + a.toNat * 2048 + b.toNat * 128 + i.toNat)
  | .ldB128 d a b i => some (0x64000000 + d.toNat * 262144 + a.toNat * 2048 + b.toNat * 128 + i.toNat)
  | .stB32 d a b i => some (0x66000000 + d.toNat * 262144 + a.toNat * 2048 + b.toNat * 128 + i.toNat)
  | .stB64 d a b i => some (0x68000000 + d.toNat * 262144 + a.toNat * 2048 + b.toNat * 128 + i.toNat)
  | .stB128 d a b i => some (0x6a000000 + d.toNat * 262144 + a.toNat * 2048 + b.toNat * 128 + i.toNat)
  | .ldExtended d a b wc o c => some (0x6c000000 + d.toNat * 262144 + a.toNat * 2048 + b.toNat * 128 + wc.code * 16 + o.toNat * 8 + c.code)
  | .pf a b l => some (0x6c000070 + a.toNat * 2048 + b.toNat * 128 + l.code)
  | .stExtended d a b wc o c => some (0x6e000000 + d.toNat * 262144 + a.toNat * 2048 + b.toNat * 128 + wc.code * 16 + o.toNat * 8 + c.code)
  | .ldsB32 d a i => some (0x70000000 + d.toNat * 262144 + a.toNat * 2048 + i.toNat)
  | .ldsB64 d a i => some (0x72000000 + d.toNat * 262144 + a.toNat * 2048 + i.toNat)
  | .stsB32 d a i => some (0x74000000 + d.toNat * 262144 + a.toNat * 2048 + i.toNat)
  | .stsB64 d a i => some (0x76000000 + d.toNat * 262144 + a.toNat * 2048 + i.toNat)
  | .atomAddB32 d a b sc => some (0x78000000 + d.toNat * 262144 + a.toNat * 2048 + b.toNat * 128 + sc.code)
  | .atomMinSgB32 d a b sc => some (0x78000008 + d.toNat * 262144 + a.toNat * 2048 + b.toNat * 128 + sc.code)
  | .atomMinUsB32 d a b sc => some (0x78000010 + d.toNat * 262144 + a.toNat * 2048 + b.toNat * 128 + sc.code)
  | .atomMaxSgB32 d a b sc => some (0x78000018 + d.toNat * 262144 + a.toNat * 2048 + b.toNat * 128 + sc.code)
  | .atomMaxUsB32 d a b sc => some (0x78000020 + d.toNat * 262144 + a.toNat * 2048 + b.toNat * 128 + sc.code)
  | .atomAndB32 d a b sc => some (0x78000028 + d.toNat * 262144 + a.toNat * 2048 + b.toNat * 128 + sc.code)
  | .atomOrB32 d a b sc => some (0x78000030 + d.toNat * 262144 + a.toNat * 2048 + b.toNat * 128 + sc.code)
  | .atomXorB32 d a b sc => some (0x78000038 + d.toNat * 262144 + a.toNat * 2048 + b.toNat * 128 + sc.code)
  | .atomXchgB32 d a b sc => some (0x78000040 + d.toNat * 262144 + a.toNat * 2048 + b.toNat * 128 + sc.code)
  | .atomCasB32 d a b sc => some (0x78000048 + d.toNat * 262144 + a.toNat * 2048 + b.toNat * 128 + sc.code)
  | .atomAddB64 d a b sc => some (0x7a000000 + d.toNat * 262144 + a.toNat * 2048 + b.toNat * 128 + sc.code)
  | .atomMinSgB64 d a b sc => some (0x7a000008 + d.toNat * 262144 + a.toNat * 2048 + b.toNat * 128 + sc.code)
  | .atomMinUsB64 d a b sc => some (0x7a000010 + d.toNat * 262144 + a.toNat * 2048 + b.toNat * 128 + sc.code)
  | .atomMaxSgB64 d a b sc => some (0x7a000018 + d.toNat * 262144 + a.toNat * 2048 + b.toNat * 128 + sc.code)
  | .atomMaxUsB64 d a b sc => some (0x7a000020 + d.toNat * 262144 + a.toNat * 2048 + b.toNat * 128 + sc.code)
  | .atomAndB64 d a b sc => some (0x7a000028 + d.toNat * 262144 + a.toNat * 2048 + b.toNat * 128 + sc.code)
  | .atomOrB64 d a b sc => some (0x7a000030 + d.toNat * 262144 + a.toNat * 2048 + b.toNat * 128 + sc.code)
  | .atomXorB64 d a b sc => some (0x7a000038 + d.toNat * 262144 + a.toNat * 2048 + b.toNat * 128 + sc.code)
  | .atomXchgB64 d a b sc => some (0x7a000040 + d.toNat * 262144 + a.toNat * 2048 + b.toNat * 128 + sc.code)
  | .atomCasB64 d a b sc => some (0x7a000048 + d.toNat * 262144 + a.toNat * 2048 + b.toNat * 128 + sc.code)
  | .acasB128 d a b sc => some (0x7a000050 + d.toNat * 262144 + a.toNat * 2048 + b.toNat * 128 + sc.code)
  | .aacc d a b f => some (0x7a000058 + d.toNat * 262144 + a.toNat * 2048 + b.toNat * 128 + f.code)
  | .arsv d b => some (0x7a000060 + d.toNat * 262144 + b.toNat * 128)
  | .bra p n o => some (0x7c000000 + p.toNat * 262144 + n.toNat * 131072 + o.toNat)
  | .call p n o => some (0x7c200000 + p.toNat * 262144 + n.toNat * 131072 + o.toNat)
  | .callr p n a => some (0x7c400000 + p.toNat * 262144 + n.toNat * 131072 + a.toNat)
  | .ret p n => some (0x7c600000 + p.toNat * 262144 + n.toNat * 131072)
  | .jmpr p n a => some (0x7c800000 + p.toNat * 262144 + n.toNat * 131072 + a.toNat)
  | .exit p n => some (0x7ca00000 + p.toNat * 262144 + n.toNat * 131072)
  | .yield => some (0x7cc00000)
  | .trap p n c => some (0x7ce00000 + p.toNat * 262144 + n.toNat * 131072 + c.toNat)
  | .bkpt p n c => some (0x7d000000 + p.toNat * 262144 + n.toNat * 131072 + c.toNat)
  | .nop => some (0x7d200000)
  | .xPrefix g z n r v k kk ls => some (0x7e000000 + g.toNat * 2097152 + z.toNat * 1048576 + n.toNat * 524288 + r.code * 65536 + v.toNat * 512 + k.code * 64 + kk.toNat * 2 + ls.toNat)
  | .wPrefix sw p => some (0x7f000000 + sw.toNat * 4096 + p.toNat)
  | .uadd d a b => some (0x80000000 + d.toNat * 32768 + a.toNat * 512 + b.toNat * 8)
  | .usub d a b => some (0x80200000 + d.toNat * 32768 + a.toNat * 512 + b.toNat * 8)
  | .umul d a b => some (0x80400000 + d.toNat * 32768 + a.toNat * 512 + b.toNat * 8)
  | .uand d a b => some (0x80600000 + d.toNat * 32768 + a.toNat * 512 + b.toNat * 8)
  | .uor d a b => some (0x80800000 + d.toNat * 32768 + a.toNat * 512 + b.toNat * 8)
  | .uxor d a b => some (0x80a00000 + d.toNat * 32768 + a.toNat * 512 + b.toNat * 8)
  | .ushl d a b => some (0x80c00000 + d.toNat * 32768 + a.toNat * 512 + b.toNat * 8)
  | .ushr d a b => some (0x80e00000 + d.toNat * 32768 + a.toNat * 512 + b.toNat * 8)
  | .usar d a b => some (0x81000000 + d.toNat * 32768 + a.toNat * 512 + b.toNat * 8)
  | .uminSg d a b => some (0x81200000 + d.toNat * 32768 + a.toNat * 512 + b.toNat * 8)
  | .uminUs d a b => some (0x81200001 + d.toNat * 32768 + a.toNat * 512 + b.toNat * 8)
  | .umaxSg d a b => some (0x81400000 + d.toNat * 32768 + a.toNat * 512 + b.toNat * 8)
  | .umaxUs d a b => some (0x81400001 + d.toNat * 32768 + a.toNat * 512 + b.toNat * 8)
  | .umov d a => some (0x81600000 + d.toNat * 32768 + a.toNat * 512)
  | .usel d a b => some (0x81800000 + d.toNat * 32768 + a.toNat * 512 + b.toNat * 8)
  | .ucmp d a b c => some (0x81a00000 + d.toNat * 32768 + a.toNat * 512 + b.toNat * 8 + c.code)
  | .uaddImm d a i => some (0xa0000000 + d.toNat * 524288 + a.toNat * 8192 + i.toNat)
  | .uld d a b o => some (0xa2000000 + d.toNat * 524288 + a.toNat * 8192 + b.toNat * 256 + o.toNat)
  | .ust d a b o => some (0xa2001000 + d.toNat * 524288 + a.toNat * 8192 + b.toNat * 256 + o.toNat)
  | .umoviLo d i => some (0xa4000000 + d.toNat * 524288 + i.toNat)
  | .umoviHi d i => some (0xa6000000 + d.toNat * 524288 + i.toNat)
  | .ubra n a i => some (0xa8000000 + n.toNat * 524288 + a.toNat * 8192 + i.toNat)
  | .ucall n a i => some (0xaa000000 + n.toNat * 524288 + a.toNat * 8192 + i.toNat)
  | .ubraReg a => some (0xac000000 + a.toNat * 8192)
  | .ucallReg a => some (0xae000000 + a.toNat * 8192)
  | .fence sc => some (0xb0000000 + sc.code)
  | .fenceAcq sc => some (0xb0200000 + sc.code)
  | .fenceRel sc => some (0xb0400000 + sc.code)
  | .fenceLrec => some (0xb0600000)
  | .barInit a n => some (0xb2000000 + a.toNat * 512 + n.toNat * 8)
  | .barArrive d n => some (0xb2200000 + d.toNat * 32768 + n.toNat * 8)
  | .barWait d a n => some (0xb2400000 + d.toNat * 32768 + a.toNat * 512 + n.toNat * 8)
  | .barSync d n => some (0xb2600000 + d.toNat * 32768 + n.toNat * 8)
  | .barInval n => some (0xb2800000 + n.toNat * 8)
  | .fbarSync d n k => some (0xb4000000 + d.toNat * 32768 + n.toNat * 8 + k.toNat)
  | .ringInit a r => some (0xb6000000 + a.toNat * 512 + r.toNat * 8)
  | .ringArriveFull a r => some (0xb6200000 + a.toNat * 512 + r.toNat * 8)
  | .ringArriveEmpty a r => some (0xb6400000 + a.toNat * 512 + r.toNat * 8)
  | .ringWaitFull d a r q => some (0xb6600000 + d.toNat * 32768 + a.toNat * 512 + r.toNat * 8 + q.toNat)
  | .ringWaitEmpty d a r q => some (0xb6800000 + d.toNat * 32768 + a.toNat * 512 + r.toNat * 8 + q.toNat)
  | .cftest d n => some (0xb8000000 + d.toNat * 32768 + n.toNat * 8)
  | .copy a b sc => some (0xc0000000 + a.toNat * 512 + b.toNat * 8 + sc.code)
  | .copySt a b sc => some (0xc0200000 + a.toNat * 512 + b.toNat * 8 + sc.code)
  | .copyAcc a b sc => some (0xc0400000 + a.toNat * 512 + b.toNat * 8 + sc.code)
  | .cvinit a c => some (0xd0000000 + a.toNat * 512 + c.toNat * 8)
  | .mma a c => some (0xd0200000 + a.toNat * 512 + c.toNat * 8)
  | .wbload a b => some (0xd0400000 + a.toNat * 512 + b.toNat * 8)
  | .wbloadMask a b => some (0xd0400001 + a.toNat * 512 + b.toNat * 8)
  | .accld a => some (0xd0600000 + a.toNat * 512)
  | .accldF64 a => some (0xd0600001 + a.toNat * 512)
  | .accst a => some (0xd0800000 + a.toNat * 512)
  | .accstF64 a => some (0xd0800001 + a.toNat * 512)
  | .acczero a => some (0xd0a00000 + a.toNat * 512)
  | .opfence => some (0xd0c00000)
  | .xformCvt a b => some (0xe0000000 + a.toNat * 512 + b.toNat * 8)
  | .xformRound a b => some (0xe0200000 + a.toNat * 512 + b.toNat * 8)
  | .xformScale a b => some (0xe0400000 + a.toNat * 512 + b.toNat * 8)
  | .xformFill a b => some (0xe0600000 + a.toNat * 512 + b.toNat * 8)
  | .xformZero a b => some (0xe0800000 + a.toNat * 512 + b.toNat * 8)
  | .msgSend a b => some (0xe2000000 + a.toNat * 512 + b.toNat * 8)
  | .msgRecv d a b => some (0xe2200000 + d.toNat * 32768 + a.toNat * 512 + b.toNat * 8)
  | .sregRdVector d i => some (0xe8000000 + d.toNat * 16384 + i.toNat * 256)
  | .sregRdUniform d i => some (0xe8200000 + d.toNat * 32768 + i.toNat * 8)
  | .sregWr a i => some (0xe8400000 + a.toNat * 512 + i.toNat * 8)
  | .temit a c => some (0xea000000 + a.toNat * 512 + c.toNat)
  | .ctrRd d n => some (0xec000000 + d.toNat * 32768 + n.toNat * 8)
  | .ctrCtl a n => some (0xec200000 + a.toNat * 512 + n.toNat * 8)
  | .rtag d g => some (0xec400000 + d.toNat * 32768 + g.toNat)
  | .glaunch a q => some (0xf0000000 + a.toNat * 512 + q.toNat * 8)
  | .clauseFetch _ => none
  | .ricWrap _ => none
  | .watchdogFault _ => none
  | .drowsyRetention _ => none
  | .loadDataReturn _ => none
  | .storePerformed _ => none
  | .atomicPerformed _ => none
  | .classBComplete _ => none
  | .pageWalkComplete _ => none
  | .lrecFillComplete _ => none
  | .copyLineArrival _ _ => none
  | .engineOperationComplete _ => none
  | .fibreRelease _ => none
  | .messageArrival _ _ _ _ _ => none
  | .msgAccepted _ => none
  | .mailboxAdmissionSignal _ _ => none
  | .qdbWrite _ _ => none
  | .packetConsume _ => none
  | .clusterPlace _ => none
  | .priorityWaitLimit _ => none
  | .gridComplete _ => none
  | .teamRetire _ => none
  | .modeChangeApply _ => none
  | .throttleSignal _ => none
  | .quietInterval _ => none
  | .queueCongestion _ _ => none
  | .congestionRepeat _ _ => none
  | .gangSwitchPropose _ _ => none
  | .gangTimeMessage _ _ => none
  | .gangCancellation _ => none
  | .gangAckDeadline _ _ => none
  | .gangSwitch _ => none
  | .bivouacFill _ => none
  | .bivouacSpill _ => none
  | .cairn _ => none
  | .podCairnPropose _ _ _ => none
  | .podCairnAckTimeout _ => none
  | .podCairnTake _ => none
  | .chunkLimit _ => none
  | .sequenceExhausted _ => none
  | .replayLogEnd _ => none
  | .abortDrained _ => none
  | .restoreComplete _ => none
  | .epochScrub _ => none
  | .l1Eviction _ _ => none
  | .coherenceRead _ _ _ => none
  | .coherenceOwnership _ _ _ => none
  | .coherenceWriteback _ _ _ _ => none
  | .evictionNotice _ _ => none
  | .invalidation _ _ => none
  | .recallLine _ _ => none
  | .lostCopiesNotice _ => none
  | .hostMemRead _ _ _ => none
  | .hostMemWrite _ _ _ => none
  | .hostCacheOwnership _ _ => none
  | .pageRecompress _ _ => none
  | .rmThreshold _ _ => none
  | .rmHoldEnd _ => none
  | .periodicRefresh _ _ => none
  | .traceFilter _ => none
  | .linkFailure _ => none
  | .linkTimeout _ => none
  | .ptpTimeUpdate _ => none
  | .intrFreeze _ => none
  | .stepComplete _ => none
  | .resume _ => none
  | .skip _ => none
  | .step _ _ => none
  | .rdreg _ _ _ => none
  | .wrreg _ _ _ _ => none
  | .intr _ _ => none
  | .halt _ => none
  | .unhalt _ => none
  | .terminate _ => none
  | .replay _ _ _ => none
  | .ctrtot _ => none
  | .ctrgrant _ _ => none
  | .lanternLoad _ _ _ => none
  | .lanternRead _ => none
  | .ctrprog _ _ _ _ _ => none
  | .ctrread _ _ => none
  | .cfgrd _ _ => none
  | .cfgwr _ _ _ _ => none
  | .btinval _ _ _ => none
  | .tlbinval _ _ _ => none
  | .mrdbWrite _ _ => none
  | .mgmtDatagram _ => none
  | .info => none
  | .storeManifest _ => none
  | .compareManifest _ => none
  | .attest _ _ _ => none
  | .openSession _ _ => none
  | .remapAdd _ _ _ _ => none
  | .powerState _ => none
  | .warmReset => none
  | .fwUpdate _ => none
  | .cxlHotReset _ => none
  | .coldReset => none
  | .thermalWarning => none
  | .thermalTrip => none
  | .fqcfgWrite _ _ => none
  | .fqptrWrite _ _ => none
  | .fqstatRead _ => none
  | .srstatRead => none
  | .trstatRead _ => none
  | .hbmErrRead _ => none
  | .trptrWrite _ _ => none
  | .urstatFailClear _ => none
  | .registerWrite _ _ _ => none
  | .recorderBufferFree _ _ => none
  | .twinPageConsumed _ => none
  | .powerLoss => none
  | .linkRetrained _ => none
  | .flitCrcRetry _ => none
  | .guylineCreditReturn _ _ => none
  | .podCairnInstant _ => none
  | .podCairnAcknowledged _ _ => none
  | .h2dSnoop _ _ => none

/-- The words of a well-formed instruction: one for an instruction word, none for an event. -/
def encode (i : Instr) : List Word :=
  match encodeNat? i with
  | some n => [BitVec.ofNat 32 n]
  | none => []

end Sys2Proof
end

