-- ==== Sys2Proof/Machine/Clause.lean ====
section
/-!
DEFINITION. Sys2Proof/Machine/Clause.lean: forming a bundle, fetching and checking a clause, the two prefixes, and the events
taken at clause boundaries (R18, R34, R39, R42, R69-R72, R84, R85, R88, R89, R248, R277, R289, R302).
-/

namespace Sys2Proof.Machine

/-- The lanes of the next bundle: those that share the place of the lane that has waited longest (R18, R248); a released
cross-lane set issues apart (R141); a stepped fibre issues its named lane alone (R276); in replay the lanes left of a partly stepped
bundle come first (R319). -/
def formBundle (s : State) (fid : Nat) (f : Fibre) : LaneMask :=
  match f.step with
  | some t => 1#32 <<< t.lane &&& f.liveMask
  | none =>
    let rest := candidates s fid f &&& f.stepRest
    match laneList (if rest = 0 then candidates s fid f else rest) with
    | [] => 0
    | l0 :: rest =>
      let b := rest.foldl (fun b l => if (f.lane l).stamp < (f.lane b).stamp then l else b) l0
      let go := (f.lane b).hold == .crossGo
      let from_ := if candidates s fid f &&& f.stepRest = 0 then candidates s fid f else candidates s fid f &&& f.stepRest
      maskOf fun l => inMask from_ l && (f.lane l).pc == (f.lane b).pc && (f.lane l).word == (f.lane b).word &&
        ((f.lane l).hold == .crossGo) == go

/-- Major and fn of a word (R77, R78). -/
abbrev majorOf (w : Word) : Nat := fieldOf w 30 25

/-- Whether a word is a control transfer (R75). -/
def isTransfer (w : Word) : Bool :=
  if w.getLsbD 31 then decide (0x14 ≤ majorOf w ∧ majorOf w ≤ 0x17) else majorOf w == 0x3E && decide (fieldOf w 24 21 ≤ 5)

/-- The header and placement checks of a clause (R70). -/
def clauseBad (ws : List Word) : Bool :=
  let h := nth ws 0 0
  let n := fieldOf h 23 20
  n == 0 || fieldOf h 31 26 != 0 || (12 ≤ fieldOf h 15 12 && fieldOf h 15 12 < 15) ||
    (12 ≤ fieldOf h 19 16 && fieldOf h 19 16 < 15) || ((ws.drop 1).take (n - 1)).any isTransfer

/-- The sixteen words at a physical address (R8, R69). -/
def clauseWords (s : State) (pa : Nat) : List Word :=
  (List.range 16).map fun i => BitVec.ofNat 32 (s.mem.readN (pa + 4 * i) 4)

/-- A fetch fault: it names word 0 and the lanes resume where they stand (R70, R289). -/
def fetchFault (s : State) (fid : Nat) (lanes : LaneMask) (pc : DWord) (word : Nat) (f : Flt) (after : Nat) : State :=
  raiseAt s { fibre := fid, lanes := lanes, clause := pc, first := word, word := 0, px := none, sw := false, hdr := 0, div := false }
    { f with lanes := lanes } after

/-- Starts the execution of a fetched clause by a bundle. -/
def startRun (s : State) (fid : Nat) (lanes : LaneMask) (pc : DWord) (word : Nat) (ws : List Word) : State :=
  s.modFib fid fun x =>
    { x with run := some ⟨pc, ws, lanes, word, word != 1⟩, walkRes := [], wait := none }

/-- In replay a translation or residency fault of a fetch that the log does not have is not delivered: a SYSTEM record names the fibre, which
waits while the page is walked for again (R265, R314). -/
def fetchHeld (s : State) (fid : Nat) (lanes : LaneMask) (pc : DWord) (word : Nat) (f : Flt) : State :=
  let g : Flt :=
    { f with fibre := fid, clause := pc, word := 0, rclause := pc, rword := word, ric := ((s.fib fid).map (·.ric)).getD 0, lanes := lanes
             ctx := s.viOf fid }
  (postSystem s (s.partOf fid) g none).modFib fid fun x => { x with wait := some .walk, walkReq := [(pc.toNat, false, true, 512)] }

/-- Fetches and checks the clause of a bundle through entry 1, the flat buffer (R70, R283, R289). -/
def fetchFor (s : State) (fid : Nat) (lanes : LaneMask) (pc : DWord) (word : Nat) : State :=
  let ctx := s.viOf fid
  if 2 ^ 57 < pc.toNat + 64 then fetchFault s fid lanes pc word { cause := 0x05, addr := pc.toNat, bidx := 1 } word
  else
    match transWord s fid ctx pc.toNat 512 false true with
    | .miss =>
      (s.pmCount (coreOf fid) none 9 1).modFib fid fun x => { x with wait := some .walk, walkReq := [(pc.toNat, false, true, 512)] }
    | .bad cause sub _ =>
      let flt : Flt := { cause := cause, sub := sub, addr := pc.toNat, bidx := 1 }
      if s.replaying (s.partOf fid) && (cause = 0x08 || cause = 0x09) && (asyncDue s fid).isNone then fetchHeld s fid lanes pc word flt
      else fetchFault (s.modFib fid fun x => { x with walkRes := [] }) fid lanes pc word flt word
    | .ok pa =>
      let s1 := homeRead s (lineOf pa) false
      let ws := clauseWords s1 pa
      if clauseBad ws then
        fetchFault s1 fid lanes pc word { cause := 0x02 } (if fieldOf (nth ws 0 0) 23 20 = 0 then 16 else word)
      else startRun s1 fid lanes pc word ws

/-- CLAUSE_FETCH (R70): forms the bundle of a fibre that executes no clause and fetches its clause whole. Lanes freed from a
hold that an outside event ended close a chunk at this bundle formation (R302). -/
def execClauseFetch (fid : Nat) (s : State) : Host.Outcome State Fault Refusal :=
  event <|
    match s.fib fid with
    | none => s
    | some f =>
      let lanes := formBundle s fid f
      if f.run.isSome || lanes = 0 then s else
      let s1 := if f.freed = 0 then s else
        (chunkEnd s fid 2 f.freed.toNat).modFib fid fun x => { x with freed := 0 }
      let l := f.lane (lowLane lanes)
      fetchFor s1 fid lanes l.pc l.word

/-- The word after the one being issued, when the clause counts it. -/
def nextWord (f : Fibre) (c : Issue) : Option Word :=
  if fieldOf c.hdr 23 20 ≤ c.word then none else (f.run.bind fun r => r.words[c.word + 1]?)

/-- A misused prefix: cause 0x01 at the prefix; SKIP passes the prefix and its word (R85, R89, R274). -/
def badPrefix (s : State) (c : Issue) : State := raiseAt s c { cause := 0x01, lanes := c.lanes } (afterWord c.hdr (c.word + 1))

/-- X_PREFIX (R84, R85): the next word issues with the guard, rounding mode, fourth operand and lane modifier given. -/
def execXPrefix (gp : BitVec 3) (z gn : Bool) (rm : RMode) (vc : BitVec 7) (lk : LKind) (k : BitVec 5) (ls : Bool) (s : State) :
    Host.Outcome State Fault Refusal :=
  match s.issue with
  | none => .fault .noIssue
  | some c =>
    match s.fib c.fibre with
    | none => .fault .noIssue
    | some f =>
      let x : XPre := ⟨gp, z, gn, rm, vc, lk, k, ls⟩
      match nextWord f c with
      | none => .next (badPrefix s c)
      | some w =>
        let bad := match decodeWord w with
          | .ok i => !x.ok (xuse i)
          | .error _ => w.getLsbD 31 || decide (0x3E ≤ majorOf w) || !x.ok { guard := true }
        if bad then .next (badPrefix s c)
        else .next { s with issue := some { c with word := c.word + 1, px := some x } }

/-- Whether a word is a prefix (R84, R88). -/
def isPrefix (w : Word) : Bool := !w.getLsbD 31 && majorOf w == 0x3F

/-- W_PREFIX (R88): the next word does not issue until every flag named is done. -/
def execWPrefix (sw : Bool) (p : BitVec 12) (s : State) : Host.Outcome State Fault Refusal :=
  match s.issue with
  | none => .fault .noIssue
  | some c =>
    match s.fib c.fibre with
    | none => .fault .noIssue
    | some f =>
      match nextWord f c with
      | none => .next (badPrefix s c)
      | some w =>
        if isPrefix w then .next (badPrefix s c)
        else if s.cfWaits c.fibre p then .next (stall s { c with sw := c.sw || sw } (.flags p))
        else .next { s with issue := some { c with word := c.word + 1, sw := c.sw || sw } }

/-- RIC_WRAP (R34): the count of a fibre at 0xFFFF_FFFF wraps, logged. -/
def execRicWrap (fid : Nat) (s : State) : Host.Outcome State Fault Refusal :=
  event <|
    match s.fib fid with
    | some f => if f.ric = BitVec.allOnes 32 then ricWrap s fid else s
    | none => s

/-- WATCHDOG_FAULT (R42): the watchdog count of a Running fibre has reached 2^WDLOG; the fault is taken at a clause boundary, in the
replay modes only where the log places it (R252). -/
def execWatchdogFault (fid : Nat) (s : State) : Host.Outcome State Fault Refusal :=
  event <|
    match s.fib fid with
    | some f =>
      if f.sched = .running && f.run.isNone && !atomHolds s fid && watchDue s fid f then asyncFault s fid 0x0C 0 (some 0) 0 0 else s
    | none => s

/-- Whether a shared region of a slot is in drowsy retention: some fibre uses it, and each that does is (R39). -/
def regionDrowsy (s : State) (n r : Nat) : Bool :=
  let us := (vget (s.slot n).regions r Region.init).users
  !us.isEmpty && us.all fun f => ((s.fib f).map (·.drowsy)).getD false

/-- DROWSY_RETENTION (R39): a fibre Waiting for 4096 clocks has its granules in drowsy retention; no value changes. -/
def execDrowsyRetention (fid : Nat) (s : State) : Host.Outcome State Fault Refusal :=
  event <|
    match s.fib fid with
    | some f =>
      if f.sched = .waiting && decide (f.waitFrom + 4096 ≤ s.clock) then s.modFib fid fun x => { x with drowsy := true } else s
    | none => s

/-- CHUNK_LIMIT (R302): a chunk that has issued CHMAX words ends. -/
def execChunkLimit (fid : Nat) (s : State) : Host.Outcome State Fault Refusal := event (chunkLimit s fid)

/-- INTR_FREEZE (R277): an interrupted fibre is frozen at its next clause boundary, or at its held word, with an ASYNC record. -/
def execIntrFreeze (fid : Nat) (s : State) : Host.Outcome State Fault Refusal :=
  event <|
    match s.fib fid with
    | some f =>
      if f.intr && !atomHolds s fid && (f.run.isNone || f.wait.isSome) && f.sched != .frozen then asyncFault s fid 0x0E 1 (some 0) 0 0 else s
    | none => s

end Sys2Proof.Machine
end

