-- ==== Sys2Proof/Machine/Uniform.lean ====
section
/-!
DEFINITION. Sys2Proof/Machine/Uniform.lean: the uniform ALU, uniform immediates and constants (R109-R111).
-/

namespace Sys2Proof.Machine

/-- Conditions of ucmp (R109). -/
def ucond (c : UCond) (x y : DWord) : Bool :=
  match c with
  | .eq => x == y
  | .ne => x != y
  | .ltSg => x.slt y
  | .leSg => x.sle y
  | .ltUs => x.ult y
  | .leUs => x.ule y

/-- Two uniform sources. -/
def uni2 (s : State) (d a b : BitVec 6) (op : DWord → DWord → DWord) : Host.Outcome State Fault Refusal :=
  uniform s d [a.toNat, b.toNat] fun f => op (rdS f a) (rdS f b)

/-- UADD (R109). -/
def execUadd (d a b : BitVec 6) (s : State) : Host.Outcome State Fault Refusal :=
  uni2 s d a b fun x y => x + y

/-- USUB (R109). -/
def execUsub (d a b : BitVec 6) (s : State) : Host.Outcome State Fault Refusal :=
  uni2 s d a b fun x y => x - y

/-- UMUL (R109). -/
def execUmul (d a b : BitVec 6) (s : State) : Host.Outcome State Fault Refusal :=
  uni2 s d a b fun x y => x * y

/-- UAND (R109). -/
def execUand (d a b : BitVec 6) (s : State) : Host.Outcome State Fault Refusal :=
  uni2 s d a b fun x y => x &&& y

/-- UOR (R109). -/
def execUor (d a b : BitVec 6) (s : State) : Host.Outcome State Fault Refusal :=
  uni2 s d a b fun x y => x ||| y

/-- UXOR (R109). -/
def execUxor (d a b : BitVec 6) (s : State) : Host.Outcome State Fault Refusal :=
  uni2 s d a b fun x y => x ^^^ y

/-- USHL (R109). -/
def execUshl (d a b : BitVec 6) (s : State) : Host.Outcome State Fault Refusal :=
  uni2 s d a b fun x y => shlN x y.toNat

/-- USHR (R109). -/
def execUshr (d a b : BitVec 6) (s : State) : Host.Outcome State Fault Refusal :=
  uni2 s d a b fun x y => shrN x y.toNat

/-- USAR (R109). -/
def execUsar (d a b : BitVec 6) (s : State) : Host.Outcome State Fault Refusal :=
  uni2 s d a b fun x y => sarN x y.toNat

/-- UMIN_SG (R109). -/
def execUminSg (d a b : BitVec 6) (s : State) : Host.Outcome State Fault Refusal :=
  uni2 s d a b fun x y => minSg x y

/-- UMIN_US (R109). -/
def execUminUs (d a b : BitVec 6) (s : State) : Host.Outcome State Fault Refusal :=
  uni2 s d a b fun x y => minUs x y

/-- UMAX_SG (R109). -/
def execUmaxSg (d a b : BitVec 6) (s : State) : Host.Outcome State Fault Refusal :=
  uni2 s d a b fun x y => maxSg x y

/-- UMAX_US (R109). -/
def execUmaxUs (d a b : BitVec 6) (s : State) : Host.Outcome State Fault Refusal :=
  uni2 s d a b fun x y => maxUs x y

/-- UMOV (R109). -/
def execUmov (d a : BitVec 6) (s : State) : Host.Outcome State Fault Refusal :=
  uniform s d [a.toNat] fun f => rdS f a

/-- USEL (R109): the old sd is the condition. -/
def execUsel (d a b : BitVec 6) (s : State) : Host.Outcome State Fault Refusal :=
  uniform s d [a.toNat, b.toNat] fun f => if rdS f d = 0 then rdS f b else rdS f a

/-- UCMP (R109). -/
def execUcmp (d a b : BitVec 6) (k : UCond) (s : State) : Host.Outcome State Fault Refusal :=
  uni2 s d a b fun x y => if ucond k x y then 1 else 0

/-- UADD_IMM (R110). -/
def execUaddImm (d a : BitVec 6) (i : BitVec 13) (s : State) : Host.Outcome State Fault Refusal :=
  uniform s d [a.toNat] fun f => rdS f a + i.signExtend 64

/-- UMOVI_LO (R111). -/
def execUmoviLo (d : BitVec 6) (i : BitVec 19) (s : State) : Host.Outcome State Fault Refusal :=
  uniform s d [] fun _ => i.signExtend 64

/-- UMOVI_HI (R111). -/
def execUmoviHi (d : BitVec 6) (i : BitVec 19) (s : State) : Host.Outcome State Fault Refusal :=
  uniform s d [] fun f => (rdS f d <<< 19) ||| i.zeroExtend 64

end Sys2Proof.Machine
end

