-- ==== Sys2Proof/Machine/Control.lean ====
section
/-!
DEFINITION. Sys2Proof/Machine/Control.lean: per-thread and uniform control (R75, R113-R118).
-/

namespace Sys2Proof.Machine

/-- The lanes of the bundle in which the condition holds (R113). -/
def takeMask (c : Issue) (f : Fibre) (p : BitVec 3) (n : Bool) : LaneMask :=
  c.lanes &&& if n then ~~~ f.readP p.toNat else f.readP p.toNat

/-- A target n clauses away (R75). -/
def relTarget {w : Nat} (c : Issue) (o : BitVec w) : DWord := c.clause + (o.signExtend 64 <<< 6)

/-- Lanes of a mask whose target is not a clause address (R75). -/
def badTargets (take : LaneMask) (target : Fin 32 → DWord) : LaneMask :=
  maskOf fun l => inMask take l && (target l) &&& 63#64 != 0

/-- Writes the link pair in the lanes that take a call (R114); it gives tag G. -/
def writeLink (s : State) (fid : Nat) (take : LaneMask) (link : DWord) : State :=
  if take = 0 then s else
  let put := fun (s : State) (r : Nat) (x : Word) =>
    let old := readReg s fid r
    writeReg s fid r ⟨Vector.ofFn fun l => if inMask take l then x else old.vals[l], .g⟩
  put (put s 62 (link.setWidth 32)) 63 ((link >>> 32).setWidth 32)

/-- A per-thread transfer (R114): the registers it uses are checked only where some lane takes it. -/
def transfer (s : State) (p : BitVec 3) (n : Bool) (regs : List Nat) (link : Bool) (target : Issue → Fin 32 → DWord) :
    Host.Outcome State Fault Refusal :=
  gate s {} fun c f =>
    let take := takeMask c f p n
    let vs := if take = 0 then [] else regs
    let ds := if take = 0 || !link then [] else [62, 63]
    regGate s c f vs ds [] <|
      let bad := badTargets take (target c)
      if bad != 0 then raise s c { cause := 0x03, lanes := bad }
      else
        let next := c.clause + 64
        let s1 := if link then writeLink s c.fibre take next else s
        retireTo s1 c fun l => if inMask take l then target c l else next

/-- BRA (R114). -/
def execBra (p : BitVec 3) (n : Bool) (o : BitVec 17) (s : State) : Host.Outcome State Fault Refusal :=
  transfer s p n [] false fun c _ => relTarget c o

/-- CALL (R114). -/
def execCall (p : BitVec 3) (n : Bool) (o : BitVec 17) (s : State) : Host.Outcome State Fault Refusal :=
  transfer s p n [] true fun c _ => relTarget c o

/-- CALLR (R114). -/
def execCallr (p : BitVec 3) (n : Bool) (a : BitVec 7) (s : State) : Host.Outcome State Fault Refusal :=
  transfer s p n (r2 a) true fun c l => readPair s c.fibre a.toNat l

/-- RET (R114). -/
def execRet (p : BitVec 3) (n : Bool) (s : State) : Host.Outcome State Fault Refusal :=
  transfer s p n [62, 63] false fun c l => readPair s c.fibre 62 l

/-- JMPR (R114). -/
def execJmpr (p : BitVec 3) (n : Bool) (a : BitVec 7) (s : State) : Host.Outcome State Fault Refusal :=
  transfer s p n (r2 a) false fun c l => readPair s c.fibre a.toNat l

/-- EXIT (R115): ends the lanes that take it; the others continue at the next clause. -/
def execExit (p : BitVec 3) (n : Bool) (s : State) : Host.Outcome State Fault Refusal :=
  gate s {} fun c f =>
    let take := takeMask c f p n
    let s1 := s.modFib c.fibre fun x => x.onLanes take fun l => { l with live := false }
    retireTo s1 c fun _ => c.clause + 64

/-- YIELD (R116). -/
def execYield (s : State) : Host.Outcome State Fault Refusal :=
  gate s {} fun c f =>
    let s1 := retire s c
    if f.step.isSome then s1 else yieldPoint s1 c.fibre

/-- A trap or breakpoint (R117). -/
def trapWord (s : State) (p : BitVec 3) (n : Bool) (code : BitVec 16) (cause : Nat) : Host.Outcome State Fault Refusal :=
  gate s {} fun c f =>
    let take := takeMask c f p n
    if take = 0 then retire s c else raise s c { cause := cause, lanes := take, info := code.toNat }

/-- TRAP (R117): cause 0x0D. -/
def execTrap (p : BitVec 3) (n : Bool) (code : BitVec 16) (s : State) : Host.Outcome State Fault Refusal := trapWord s p n code 0x0D

/-- BKPT (R117): cause 0x0E. -/
def execBkpt (p : BitVec 3) (n : Bool) (code : BitVec 16) (s : State) : Host.Outcome State Fault Refusal := trapWord s p n code 0x0E

/-- NOP (R116). -/
def execNop (s : State) : Host.Outcome State Fault Refusal := gate s {} fun c _ => retire s c

/-- A uniform transfer: the whole bundle moves together (R118). -/
def uniTransfer (s : State) (taken : Fibre → Bool) (ss : List Nat) (link : Bool) (target : Issue → Fibre → DWord) :
    Host.Outcome State Fault Refusal :=
  gate s { s := ss } fun c f =>
    if !taken f then retireTo s c fun _ => c.clause + 64
    else regGate s c f [] [] (if link then [63] else []) <|
      if target c f &&& 63#64 != 0 then raise s c { cause := 0x03, lanes := c.lanes }
      else retireTo (if link then c.wrS s f 63 (c.clause + 64) else s) c fun _ => target c f

/-- UBRA (R118). -/
def execUbra (n : Bool) (a : BitVec 6) (i : BitVec 13) (s : State) : Host.Outcome State Fault Refusal :=
  uniTransfer s (fun f => (rdS f a != 0) != n) [a.toNat] false fun c _ => relTarget c i

/-- UCALL (R118). -/
def execUcall (n : Bool) (a : BitVec 6) (i : BitVec 13) (s : State) : Host.Outcome State Fault Refusal :=
  uniTransfer s (fun f => (rdS f a != 0) != n) [a.toNat] true fun c _ => relTarget c i

/-- UBRA_REG (R118). -/
def execUbraReg (a : BitVec 6) (s : State) : Host.Outcome State Fault Refusal :=
  uniTransfer s (fun _ => true) [a.toNat] false fun _ f => rdS f a

/-- UCALL_REG (R118): the old s63 is read before the link is written (R14). -/
def execUcallReg (a : BitVec 6) (s : State) : Host.Outcome State Fault Refusal :=
  uniTransfer s (fun _ => true) [a.toNat] true fun _ f => rdS f a

end Sys2Proof.Machine
end

