-- ==== Sys2Proof/Machine/Fp.lean ====
section
/-!
DEFINITION. Sys2Proof/Machine/Fp.lean: binary32 and binary64 arithmetic, comparison, division and square root (R120-R124).
-/

namespace Sys2Proof.Machine

/-- A code of 32 bits with its flags. -/
abbrev code32 (r : Nat × Word) : Word × Word := (BitVec.ofNat 32 r.1, r.2)
/-- A code of 64 bits with its flags. -/
abbrev code64 (r : Nat × Word) : DWord × Word := (BitVec.ofNat 64 r.1, r.2)

/-- Two binary32 operands. -/
def fpF32two (s : State) (d a b : BitVec 7) (g : Rnd → Nat → Nat → Nat × Word) : Host.Outcome State Fault Refusal :=
  flag1 s d (r1 a ++ r1 b) 0 fun c f l => code32 (g (c.rm f) (c.rd s false a l).toNat (c.rd s true b l).toNat)

/-- Three binary32 operands. -/
def fpF32three (s : State) (d a b : BitVec 7) (g : Rnd → Nat → Nat → Nat → Nat × Word) : Host.Outcome State Fault Refusal :=
  flag1 s d (r1 a ++ r1 b) 1 fun c f l =>
    code32 (g (c.rm f) (c.rd s false a l).toNat (c.rd s true b l).toNat (c.rdC s l).toNat)

/-- Two binary64 operands. -/
def fpF64two (s : State) (d a b : BitVec 7) (g : Rnd → Nat → Nat → Nat × Word) : Host.Outcome State Fault Refusal :=
  flag2 s d (r2 a ++ r2 b) 0 fun c f l => code64 (g (c.rm f) (c.rdP s false a l).toNat (c.rdP s true b l).toNat)

/-- Three binary64 operands. -/
def fpF64three (s : State) (d a b : BitVec 7) (g : Rnd → Nat → Nat → Nat → Nat × Word) : Host.Outcome State Fault Refusal :=
  flag2 s d (r2 a ++ r2 b) 2 fun c f l =>
    code64 (g (c.rm f) (c.rdP s false a l).toNat (c.rdP s true b l).toNat (c.rdC64 s l).toNat)

/-- The conditions of fcmp and the flag each raises (R123). -/
def fcond (k : FCond) (x y : Num) : Bool × Word :=
  let r := numCmp x y
  let quiet := sigFlags [x, y]
  let any : Word := if r = none then fNV else 0
  match k with
  | .eq => (r == some 0, quiet)
  | .ne => (r != some 0, quiet)
  | .lt => (r == some (-1), any)
  | .le => (r == some (-1) || r == some 0, any)
  | .gt => (r == some 1, any)
  | .ge => (r == some 1 || r == some 0, any)
  | .un => (r == none, quiet)
  | .or => (r != none, quiet)

/-- FADD_F32 (R122). -/
def execFaddF32 (d a b : BitVec 7) (s : State) : Host.Outcome State Fault Refusal :=
  fpF32two s d a b fun rm => fpAdd f32 rm

/-- FSUB_F32 (R122). -/
def execFsubF32 (d a b : BitVec 7) (s : State) : Host.Outcome State Fault Refusal :=
  fpF32two s d a b fun rm => fpSub f32 rm

/-- FMUL_F32 (R122). -/
def execFmulF32 (d a b : BitVec 7) (s : State) : Host.Outcome State Fault Refusal :=
  fpF32two s d a b fun rm => fpMul f32 rm

/-- FFMA_F32 (R122). -/
def execFfmaF32 (d a b : BitVec 7) (s : State) : Host.Outcome State Fault Refusal :=
  fpF32three s d a b fun rm => fpFma f32 rm

/-- FMIN_F32 (R122). -/
def execFminF32 (d a b : BitVec 7) (s : State) : Host.Outcome State Fault Refusal :=
  fpF32two s d a b fun _ => fpMinMax f32 false

/-- FMAX_F32 (R122). -/
def execFmaxF32 (d a b : BitVec 7) (s : State) : Host.Outcome State Fault Refusal :=
  fpF32two s d a b fun _ => fpMinMax f32 true

/-- FCMP_F32 (R123). -/
def execFcmpF32 (k : FCond) (p : BitVec 3) (a b : BitVec 7) (s : State) : Host.Outcome State Fault Refusal :=
  flagPred s p (r1 a ++ r1 b) fun c _ l =>
    fcond k (decF f32 (c.rd s false a l).toNat) (decF f32 (c.rd s true b l).toNat)

/-- FADD_F64 (R122). -/
def execFaddF64 (d a b : BitVec 7) (s : State) : Host.Outcome State Fault Refusal :=
  fpF64two s d a b fun rm => fpAdd f64 rm

/-- FSUB_F64 (R122). -/
def execFsubF64 (d a b : BitVec 7) (s : State) : Host.Outcome State Fault Refusal :=
  fpF64two s d a b fun rm => fpSub f64 rm

/-- FMUL_F64 (R122). -/
def execFmulF64 (d a b : BitVec 7) (s : State) : Host.Outcome State Fault Refusal :=
  fpF64two s d a b fun rm => fpMul f64 rm

/-- FFMA_F64 (R122). -/
def execFfmaF64 (d a b : BitVec 7) (s : State) : Host.Outcome State Fault Refusal :=
  fpF64three s d a b fun rm => fpFma f64 rm

/-- FMIN_F64 (R122). -/
def execFminF64 (d a b : BitVec 7) (s : State) : Host.Outcome State Fault Refusal :=
  fpF64two s d a b fun _ => fpMinMax f64 false

/-- FMAX_F64 (R122). -/
def execFmaxF64 (d a b : BitVec 7) (s : State) : Host.Outcome State Fault Refusal :=
  fpF64two s d a b fun _ => fpMinMax f64 true

/-- FCMP_F64 (R123). -/
def execFcmpF64 (k : FCond) (p : BitVec 3) (a b : BitVec 7) (s : State) : Host.Outcome State Fault Refusal :=
  flagPred s p (r2 a ++ r2 b) fun c _ l =>
    fcond k (decF f64 (c.rdP s false a l).toNat) (decF f64 (c.rdP s true b l).toNat)

/-- FDIV_F32 (R124). -/
def execFdivF32 (d a b : BitVec 7) (s : State) : Host.Outcome State Fault Refusal :=
  classB1 s d (r1 a ++ r1 b) fun c f l =>
    code32 (fpDiv f32 (c.rm f) (c.rd s false a l).toNat (c.rd s true b l).toNat)

/-- FSQRT_F32 (R124). -/
def execFsqrtF32 (d a : BitVec 7) (s : State) : Host.Outcome State Fault Refusal :=
  classB1 s d (r1 a) fun c f l => code32 (fpSqrt f32 (c.rm f) (c.rd s false a l).toNat)

/-- FRCP_F32 (R124). -/
def execFrcpF32 (d a : BitVec 7) (s : State) : Host.Outcome State Fault Refusal :=
  classB1 s d (r1 a) fun c f l => code32 (fpRcp f32 (c.rm f) (c.rd s false a l).toNat)

/-- FRSQ_F32 (R124). -/
def execFrsqF32 (d a : BitVec 7) (s : State) : Host.Outcome State Fault Refusal :=
  classB1 s d (r1 a) fun c f l => code32 (fpRsq f32 (c.rm f) (c.rd s false a l).toNat)

/-- FDIV_F64 (R124). -/
def execFdivF64 (d a b : BitVec 7) (s : State) : Host.Outcome State Fault Refusal :=
  classB2 s d (r2 a ++ r2 b) fun c f l =>
    code64 (fpDiv f64 (c.rm f) (c.rdP s false a l).toNat (c.rdP s true b l).toNat)

/-- FSQRT_F64 (R124). -/
def execFsqrtF64 (d a : BitVec 7) (s : State) : Host.Outcome State Fault Refusal :=
  classB2 s d (r2 a) fun c f l => code64 (fpSqrt f64 (c.rm f) (c.rdP s false a l).toNat)

/-- FRCP_F64 (R124). -/
def execFrcpF64 (d a : BitVec 7) (s : State) : Host.Outcome State Fault Refusal :=
  classB2 s d (r2 a) fun c f l => code64 (fpRcp f64 (c.rm f) (c.rdP s false a l).toNat)

/-- FRSQ_F64 (R124). -/
def execFrsqF64 (d a : BitVec 7) (s : State) : Host.Outcome State Fault Refusal :=
  classB2 s d (r2 a) fun c f l => code64 (fpRsq f64 (c.rm f) (c.rdP s false a l).toNat)

end Sys2Proof.Machine
end

