-- ==== Sys2Proof/Machine/Convert.lean ====
section
/-!
DEFINITION. Sys2Proof/Machine/Convert.lean: the conversions (R126-R130).
-/

namespace Sys2Proof.Machine

/-- The tapered format of a conversion code, if it is one (R126). -/
def cvtTap : CvtFmt → Option TapFmt
  | .e8e0 => some .e8e0
  | .e8e1 => some .e8e1
  | .e8e2 => some .e8e2
  | .e16e1 => some .e16e1
  | .e16e2 => some .e16e2
  | .e32e2 => some .e32e2
  | .sg | .us | .sg64 | .us64 | .f32 | .f64 => none

/-- The width and sign of an integer format (R126). -/
def cvtInt : CvtFmt → Option (Nat × Bool)
  | .sg => some (32, true)
  | .us => some (32, false)
  | .sg64 => some (64, true)
  | .us64 => some (64, false)
  | .f32 | .f64 | .e8e0 | .e8e1 | .e8e2 | .e16e1 | .e16e2 | .e32e2 => none

/-- The family of a format (R59). -/
def cvtFam (f : CvtFmt) : Fam := if (cvtTap f).isSome then .tap else if (cvtInt f).isSome then .int else .ieee

/-- The number a source code stands for (R128). -/
def cvtNum (f : CvtFmt) (x : Nat) : Num :=
  match cvtTap f, cvtInt f with
  | some t, _ => decTap t x
  | none, some (n, sg) => ofInt (if sg then sgnOf n x else ((x % 2 ^ n : Nat) : Int))
  | none, none => if f = .f64 then decF f64 x else decF f32 x

/-- The source bits of lane l. -/
def cvtRaw (f : CvtFmt) (c : Issue) (s : State) (a : BitVec 7) (l : Fin 32) : Nat :=
  if f.isPair then (c.rdP s false a l).toNat else (c.rd s false a l).toNat

/-- The source number of lane l. -/
def cvtSrc (f : CvtFmt) (c : Issue) (s : State) (a : BitVec 7) (l : Fin 32) : Num := cvtNum f (cvtRaw f c s a l)

/-- The converted code in its register width, and the flags (R128, R129). -/
def cvtTo (t g : CvtFmt) (rm : Rnd) (bound : Nat) (x : Num) (raw : Nat) : DWord × Word :=
  match cvtTap t, cvtInt t with
  | some tf, _ =>
    if t = g then ((tapReg tf (raw % 2 ^ tapN tf)).zeroExtend 64, 0)
    else
      let r := toTap tf rm bound x
      ((tapReg tf r.1).zeroExtend 64, r.2)
  | none, some (n, sg) =>
    let r := toInt n sg rm (cvtFam g) x
    (BitVec.ofNat 64 r.1, if (cvtInt g).isSome then 0 else r.2)
  | none, none => code64 (if t = .f64 then toF f64 rm (cvtFam g) x else toF f32 rm (cvtFam g) x)

/-- The bound of cvt.clamp: a positive code below maxpos, else none (R130). -/
def cvtBound (t : CvtFmt) (v : Nat) : Nat :=
  match cvtTap t with
  | some tf =>
    let b := v % 2 ^ tapN tf
    if b < 2 ^ (tapN tf - 1) - 1 then b else 0
  | none => 0

/-- cvt.clamp in one lane (R130). -/
def cvtClampTo (t : CvtFmt) (rm : Rnd) (bound : Nat) (x : Num) : DWord × Word :=
  match cvtTap t with
  | some tf =>
    let r := toTap tf rm bound x
    ((tapReg tf r.1).zeroExtend 64, r.2)
  | none => (0, 0)

/-- A conversion word of a format pair. -/
def cvtWord (s : State) (t : CvtFmt) (d a : BitVec 7) (g : CvtFmt) (vc : Nat) (val : Issue → Fibre → Fin 32 → DWord × Word) :
    Host.Outcome State Fault Refusal :=
  let src := if g.isPair then r2 a else r1 a
  if t.isPair then flag2 s d src vc val
  else flag1 s d src vc fun c f l => (((val c f l).1).setWidth 32, (val c f l).2)

/-- CVT (R128, R129). -/
def execCvt (t : CvtFmt) (d a : BitVec 7) (g : CvtFmt) (s : State) : Host.Outcome State Fault Refusal :=
  cvtWord s t d a g 0 fun c f l => cvtTo t g (c.rm f) 0 (cvtSrc g c s a l) (cvtRaw g c s a l)

/-- CVT_CLAMP (R130). -/
def execCvtClamp (t : CvtFmt) (d a : BitVec 7) (g : CvtFmt) (s : State) : Host.Outcome State Fault Refusal :=
  cvtWord s t d a g 1 fun c f l => cvtClampTo t (c.rm f) (cvtBound t (c.rdC s l).toNat) (cvtSrc g c s a l)

end Sys2Proof.Machine
end

