-- ==== Sys2Proof/Machine/CrossLane.lean ====
section
/-!
DEFINITION. Sys2Proof/Machine/CrossLane.lean: the cross-lane operations (R139-R148).
-/

namespace Sys2Proof.Machine

/-- The lanes whose masks the participating lanes of a bundle wait for: W of R141. -/
def crossWaits (s : State) (c : Issue) (f : Fibre) : LaneMask :=
  ((laneList (c.active f)).foldl (fun m l => m ||| c.rdC s l) 0) &&& f.liveMask

/-- The effective set of lane l, cut to the lanes that participate (R140). -/
def crossSees (s : State) (c : Issue) (f : Fibre) (l : Fin 32) : LaneMask :=
  ((1#32 <<< l.val) ||| (c.rdC s l &&& f.liveMask)) &&& c.active f

/-- A cross-lane word: the bundle is held until every member has arrived; then all the lanes held here issue as one bundle
(R141). k is given that bundle and, for each lane, the participating lanes of its effective set. -/
def cross (s : State) (vs ds ss : List Nat) (k : Issue → Fibre → (Fin 32 → LaneMask) → State → State) :
    Host.Outcome State Fault Refusal :=
  gate s { v := vs, d := ds, s := ss, vc := 1 } fun c f =>
    let here := crossSet f c.clause c.first
    let all := here ||| c.lanes
    let go := (f.lane (lowLane c.lanes)).hold == .crossGo
    let want := crossWants f here ||| crossWaits s c f
    if !go && want &&& ~~~ all != 0 then holdLanes s c (.cross (crossWaits s c f))
    else
      let c1 := if go then c else { c with lanes := all, div := f.liveMask &&& ~~~ all != 0 }
      k c1 f (crossSees s c1 f) s

/-- The member set of red and scan: that of the lowest participating lane (R140). -/
def members (c : Issue) (f : Fibre) (m : Fin 32 → LaneMask) : LaneMask :=
  if c.active f = 0 then 0 else m (lowLane (c.active f))

/-- shfl of one kind: the source lane by the reader's lane and vb (R142). -/
def shfl (s : State) (w : Bool) (d a b : BitVec 7) (kind : Nat → Nat → Option Nat) : Host.Outcome State Fault Refusal :=
  let n := if w then 2 else 1
  cross s (regRange a.toNat n ++ r1 b) (regRange d.toNat n) [] fun c f m s =>
    let from_ := fun (l : Fin 32) =>
      match kind l.val (readLane s c.fibre b.toNat l).toNat with
      | some j => if inMask (m l) (Fin.ofNat 32 j) then Fin.ofNat 32 j else l
      | none => l
    retire (if w then c.wrP s f d.toNat .g fun l => readPair s c.fibre a.toNat (from_ l)
            else c.wr s f d.toNat .g fun l => readLane s c.fibre a.toNat (from_ l)) c

/-- A vote that writes a predicate from a predicate (R143). -/
def votePred (s : State) (d : BitVec 3) (g : Issue → Fibre → (Fin 32 → LaneMask) → Fin 32 → Bool) :
    Host.Outcome State Fault Refusal :=
  cross s [] [] [] fun c f m s => retire (c.wrPred s f d.toNat (maskOf (g c f m))) c

/-- red.add.f32: the exact sum of the terms, rounded once (R146). -/
def redF32 (rm : Rnd) (l : List Word) : DWord × Word :=
  let ns := l.map fun x => decF f32 x.toNat
  let pos := ns.contains (.inf false)
  let neg := ns.contains (.inf true)
  if ns.any Num.isNan || (pos && neg) then
    (BitVec.ofNat 64 f32.qnan, if ns.contains .snan || (pos && neg) then fNV else 0)
  else if pos || neg then (BitVec.ofNat 64 (infF f32 neg), 0)
  else
    let t := ns.foldl (fun a x => a.add x.val) (Dy.mk 0 0)
    if t.m = 0 then (0, 0) else code64 (roundF f32 rm t)

/-- The least or greatest of the terms, starting from the identity. -/
def redFold (id : Word) (op : Word → Word → Word) (l : List Word) : Word := l.foldl op id

/-- red over the terms in lane order: the 64-bit value and the flags (R145, R146). -/
def redVal (k : RedOp) (rm : Rnd) (l : List Word) : DWord × Word :=
  match k with
  | .addSg => (BitVec.ofInt 64 (l.foldl (fun t x => t + x.toInt) 0), 0)
  | .addUs => (BitVec.ofNat 64 (l.foldl (fun t x => t + x.toNat) 0), 0)
  | .addF32 => redF32 rm l
  | .minSg => ((redFold 0x7FFFFFFF minSg l).signExtend 64, 0)
  | .minUs => ((redFold 0xFFFFFFFF minUs l).zeroExtend 64, 0)
  | .maxSg => ((redFold 0x80000000 maxSg l).signExtend 64, 0)
  | .maxUs => ((redFold 0 maxUs l).zeroExtend 64, 0)
  | .andB32 => ((redFold 0xFFFFFFFF (fun x y => x &&& y) l).zeroExtend 64, 0)
  | .orB32 => ((redFold 0 (fun x y => x ||| y) l).zeroExtend 64, 0)
  | .xorB32 => ((redFold 0 (fun x y => x ^^^ y) l).zeroExtend 64, 0)

/-- The reduction whose sums a scan forms (R145). -/
def scanRed : ScanOp → RedOp
  | .incSg | .excSg => .addSg
  | .incUs | .excUs => .addUs
  | .incF32 | .excF32 => .addF32

/-- Whether a scan is inclusive (R145). -/
def scanInc : ScanOp → Bool
  | .incSg | .incUs | .incF32 => true
  | .excSg | .excUs | .excF32 => false

/-- SHFL_IDX (R142). -/
def execShflIdx (w : Bool) (d a b : BitVec 7) (s : State) : Host.Outcome State Fault Refusal :=
  shfl s w d a b fun l y => some (y % 32)

/-- SHFL_UP (R142). -/
def execShflUp (w : Bool) (d a b : BitVec 7) (s : State) : Host.Outcome State Fault Refusal :=
  shfl s w d a b fun l y => if y ≤ l then some (l - y) else none

/-- SHFL_DOWN (R142). -/
def execShflDown (w : Bool) (d a b : BitVec 7) (s : State) : Host.Outcome State Fault Refusal :=
  shfl s w d a b fun l y => if l + y < 32 then some (l + y) else none

/-- SHFL_XOR (R142). -/
def execShflXor (w : Bool) (d a b : BitVec 7) (s : State) : Host.Outcome State Fault Refusal :=
  shfl s w d a b fun l y => some (Nat.xor l (y % 32))

/-- VOTE_ANY (R143). -/
def execVoteAny (d a : BitVec 3) (s : State) : Host.Outcome State Fault Refusal :=
  votePred s d fun _ f m l => (f.readP a.toNat &&& m l) != 0

/-- VOTE_ALL (R143). -/
def execVoteAll (d a : BitVec 3) (s : State) : Host.Outcome State Fault Refusal :=
  votePred s d fun _ f m l => m l &&& ~~~ f.readP a.toNat == 0

/-- VOTE_BALLOT (R143). -/
def execVoteBallot (d : BitVec 7) (a : BitVec 3) (s : State) : Host.Outcome State Fault Refusal :=
  cross s [] (r1 d) [] fun c f m s => retire (c.wr s f d.toNat .g fun l => f.readP a.toNat &&& m l) c

/-- VOTE_EQ (R143). -/
def execVoteEq (d : BitVec 3) (a : BitVec 7) (s : State) : Host.Outcome State Fault Refusal :=
  cross s (r1 a) [] [] fun c f m s => retire (c.wrPred s f d.toNat (maskOf fun l =>
    (laneList (m l)).all fun j => readLane s c.fibre a.toNat j == readLane s c.fibre a.toNat l)) c

/-- MATCH_B32 (R144). -/
def execMatchB32 (d a : BitVec 7) (s : State) : Host.Outcome State Fault Refusal :=
  cross s (r1 a) (r1 d) [] fun c f m s => retire (c.wr s f d.toNat .g fun l =>
    m l &&& maskOf fun j => readLane s c.fibre a.toNat j == readLane s c.fibre a.toNat l) c

/-- MATCH_B64 (R144). -/
def execMatchB64 (d a : BitVec 7) (s : State) : Host.Outcome State Fault Refusal :=
  cross s (r2 a) (r1 d) [] fun c f m s => retire (c.wr s f d.toNat .g fun l =>
    m l &&& maskOf fun j => readPair s c.fibre a.toNat j == readPair s c.fibre a.toNat l) c

/-- RED (R146, R148). -/
def execRed (k : RedOp) (sd : BitVec 6) (a : BitVec 7) (s : State) : Host.Outcome State Fault Refusal :=
  cross s (r1 a) [] [sd.toNat] fun c f m s =>
    let r := redVal k f.rm ((laneList (members c f m)).map fun j => readLane s c.fibre a.toNat j)
    issueB s c f [.s sd.toNat r.1] r.2 (k == .addF32)

/-- SCAN (R147, R148). -/
def execScan (k : ScanOp) (d a : BitVec 7) (sd : BitVec 6) (s : State) : Host.Outcome State Fault Refusal :=
  cross s (r1 a) (r1 d) [sd.toNat] fun c f m s =>
    let mem := members c f m
    let val := fun (j : Fin 32) => readLane s c.fibre a.toNat j
    let sum := scanRed k
    let r := perLane (0, 0) (c.active f) fun l =>
      if inMask mem l then
        redVal sum f.rm (((laneList mem).filter fun j => if scanInc k then decide (j.val ≤ l.val) else decide (j.val < l.val)).map val)
      else (if scanInc k then (val l).zeroExtend 64 else 0, 0)
    let tot := redVal sum f.rm ((laneList mem).map val)
    issueB s c f [classWrite c f d.toNat (Vector.ofFn fun l => (r[l].1).setWidth 32), .s sd.toNat tot.1]
      (tot.2 ||| laneFlags (c.active f) fun l => r[l].2) (scanRed k == .addF32)

end Sys2Proof.Machine
end

