-- ==== Sys2Proof/Machine/Sync.lean ====
section
/-!
DEFINITION. Sys2Proof/Machine/Sync.lean: fences, team barriers, fibre barriers, stage rings and cftest; the arrivals of engines
(R168-R179, R185, R187).
-/

namespace Sys2Proof.Machine

/-! ### Fences (R168-R170) -/

/-- The lines of this device that a release of a fibre writes back. -/
def relLines (s : State) (fid : Nat) : List Nat := (dirtyLines s (coreOf fid)).filter fun ln => !isRemote ln

/-- Whether a release of a fibre waits for acknowledgements of lines that it writes back (R214, R329). -/
def relWaits (s : State) (fid : Nat) : Bool := (relLines s fid).any fun ln => lineWaits s ln (.fibre fid) (.home true)

/-- The lines that a release of a fibre writes back ask what they need of copies outside (R329). -/
def askRel (s : State) (fid : Nat) : State := (relLines s fid).foldl (fun s ln => askFor s ln (.fibre fid) (.home true)) s

/-- A fence: stalls until the operations it waits for are done, and a release until its lines are acknowledged; then releases and acquires at
its scope (R169, R214). -/
def fenceWord (s : State) (w : OpsWait) (x : Scope) (rel acq : Bool) (after : Nat → State → State) :
    Host.Outcome State Fault Refusal :=
  gate s {} fun c _ =>
    if opsPending s c.fibre w then stall s c (.ops w)
    else if rel && x != .fibre && relWaits s c.fibre then stall (askRel s c.fibre) c .acks
    else
      let s1 := if rel then releaseBy s c.fibre x else s
      let s2 := if acq then acquireBy s1 c.fibre x else s1
      retire (after (coreOf c.fibre) s2) c

/-- FENCE (R169). -/
def execFence (x : Scope) (s : State) : Host.Outcome State Fault Refusal := fenceWord s .mem x true true fun _ s => s

/-- FENCE_ACQ (R169). -/
def execFenceAcq (x : Scope) (s : State) : Host.Outcome State Fault Refusal := fenceWord s .reads x false true fun _ s => s

/-- FENCE_REL (R169). -/
def execFenceRel (x : Scope) (s : State) : Host.Outcome State Fault Refusal := fenceWord s .mem x true false fun _ s => s

/-- FENCE_LREC (R170): a team release, then the core's layout-record cache is emptied. -/
def execFenceLrec (s : State) : Host.Outcome State Fault Refusal :=
  fenceWord s .mem .team true false fun k s => s.modCore k fun x => { x with lrec := [] }

/-! ### Freeing held lanes (R174) -/

/-- Inserts a hold into a list kept in issue order, without repeats. -/
def holdInsert (w : SyncHold) : List SyncHold → List SyncHold
  | [] => [w]
  | x :: r => if x = w then x :: r else if w.ric.toNat < x.ric.toNat then w :: x :: r else x :: holdInsert w r

/-- The holds of a fibre's lanes that wait for what p names, in issue order. -/
def holdsOf (f : Fibre) (p : SyncOn → Bool) : List SyncHold :=
  (List.finRange 32).foldl (fun r l =>
    match (f.lane l).hold with
    | .sync w => if p w.on then holdInsert w r else r
    | _ => r) []

/-- In replay: the UWRITE record of a synchronisation word's status, where the log has other records of the fibre before it (R306). -/
def laterStatus (s : State) (fid sd ric val : Nat) : Option (BitVec 128) :=
  match s.fib fid with
  | none => none
  | some f =>
    let same := fun (r : BitVec 128) =>
      recKind r == 5 && recRic r == ric && fieldOf r 77 71 == sd && fieldOf r 65 34 == val % 2 ^ 32
    if !s.replaying (s.partOf fid) || ((logNext s fid).map same).getD false then none else f.due.find? same

/-- Writes the status of a synchronisation word (R174). DESIGN CHOICE (log entry 108): in replay, where the phase has ended earlier than in the
recorded run, the status is written before the fibre's records that precede it in the log. -/
def putStatusOf (s : State) (fid sd leader ric : Nat) (div : Bool) (status : Nat) : State :=
  match if div then laterStatus s fid sd ric status else none with
  | some r => (popLog s fid r).modFib fid fun f => f.writeS sd (BitVec.ofNat 64 status)
  | none => putS s fid sd leader ric div (BitVec.ofNat 64 status)

/-- Frees the lanes of one hold: the status is written, the lanes move past the word and keep their stamps (R174, R248). -/
def freeOne (fid status : Nat) (s : State) (w : SyncHold) : State :=
  match s.fib fid with
  | none => s
  | some f =>
    let m := maskOf fun l => (f.lane l).hold == .sync w
    let s1 := putStatusOf s fid w.sd (lowLane m).val w.ric.toNat w.div status
    s1.modFib fid fun x => { passWord x m w.last with freed := x.freed ||| m }

/-- Frees every lane of a fibre that waits for what p names. -/
def freeFibre (p : SyncOn → Bool) (status : Nat) (s : State) (fid : Nat) : State :=
  match s.fib fid with
  | none => s
  | some f => (holdsOf f p).foldl (freeOne fid status) s

/-- Frees the lanes of several fibres of a core. Status 0 is an acquire of theirs at .team scope, and the arrivals that ended the phase are a
release of the fibres (R174, R223). -/
def freeHeld (s : State) (core : Nat) (fids : List Nat) (p : SyncOn → Bool) (status : Nat) : State :=
  let s1 := if status = 0 then fids.foldl noteAcquire (acquireAt (fids.foldl noteRelease (releaseAt s core .team)) core .team) else s
  fids.foldl (freeFibre p status) s1

/-- Whether some lane of some fibre waits for what p names. -/
def someHeld (s : State) (fids : List Nat) (p : SyncOn → Bool) : Bool :=
  fids.any fun fid => match s.fib fid with
    | some f => !(holdsOf f p).isEmpty
    | none => false

/-- An arrival that ends a phase is a release: it waits until the fibre's earlier accesses are performed (R174, R222). -/
def releaseWait (s : State) (c : Issue) (ends : Bool) (k : State) : State :=
  if ends && opsPending s c.fibre .mem then stall s c (.ops .mem) else k

/-- Writes the status of a synchronisation word at its issue and moves on; status 0 acquires at .team scope (R174). -/
def statusNow (s : State) (c : Issue) (f : Fibre) (sd : Nat) (status : Nat) : State :=
  let s1 := if status = 0 then acquireBy s c.fibre .team else s
  retire (putStatusOf s1 c.fibre sd (lowLane c.lanes).val f.ric.toNat c.div status) c

/-- Holds the bundle at a synchronisation word (R174). -/
def waitOn (s : State) (c : Issue) (f : Fibre) (on : SyncOn) (sd : Nat) : State :=
  holdSync s c ⟨on, sd, f.ric, c.div, decide (fieldOf c.hdr 23 20 ≤ c.word)⟩

/-! ### Team barriers (R172-R174) -/

/-- Barrier n of a team. -/
def Team.bar (t : Team) (n : Nat) : Barrier := vget t.bars n (Barrier.init t.groups)

/-- Changes barrier n of a team. -/
def modBar (s : State) (tid n : Nat) (g : Barrier → Barrier) : State :=
  s.modTeam tid fun t => { t with bars := vset t.bars n (g (t.bar n)) }

/-- A lane waits for the present phase of barrier n. -/
def onBar (n phase : Nat) : SyncOn → Bool
  | .bar m t => m == n && t == phase
  | _ => false

/-- end(err) of a barrier's phase, with the status the freed lanes receive (R174, R187). -/
def endBar (s : State) (tid n : Nat) (err : Bool) (status : Nat) : State :=
  match s.team tid with
  | none => s
  | some t =>
    let b := t.bar n
    let s1 := modBar s tid n fun b => { b with endErr := err, phase := b.phase + 1, arr := 0, gmask := 0 }
    freeHeld s1 t.core t.live (onBar n b.phase.toNat) status

/-- Whether an arrival of a group would be counted, and would end the phase. -/
def barEnds (b : Barrier) (g : Nat) : Bool := b.valid && !b.gmask.getLsbD g && b.arr + 1 == b.exp

/-- bar.arrive of a group (R174). -/
def arriveBar (s : State) (tid n g : Nat) : State :=
  match s.team tid with
  | none => s
  | some t =>
    let b := t.bar n
    if !b.valid || b.gmask.getLsbD g then s
    else
      let s1 := modBar s tid n fun b => { b with arr := b.arr + 1, gmask := b.gmask ||| (1#32 <<< g) }
      if b.arr + 1 = b.exp then endBar s1 tid n false 0 else s1

/-- bar.wait on a token (R174). -/
def waitBar (s : State) (c : Issue) (f : Fibre) (sd n : Nat) (tok : BitVec 16) : State :=
  match s.team f.team with
  | none => statusNow s c f sd 0x12
  | some t =>
    let b := t.bar n
    if !b.valid then statusNow s c f sd 0x12
    else if tok = b.phase then waitOn s c f (.bar n tok.toNat) sd
    else if tok + 1 = b.phase then statusNow s c f sd (if b.endErr then 0x12 else 0)
    else statusNow s c f sd 0x12

/-- The barrier a word names. -/
def barOf (s : State) (f : Fibre) (n : BitVec 6) : Barrier := ((s.team f.team).map (·.bar n.toNat)).getD (Barrier.init 1)

/-- BAR_INIT (R174). -/
def execBarInit (a n : BitVec 6) (s : State) : Host.Outcome State Fault Refusal :=
  gate s { s := [a.toNat] } fun c f =>
    let k := fieldOf (rdS f a) 9 0
    if k = 0 then raise s c { cause := 0x05, lanes := c.lanes }
    else
      let b := barOf s f n
      let live := ((s.team f.team).map (·.live)).getD []
      let s1 := if b.valid && (decide (0 < b.arr) || someHeld s live (onBar n.toNat b.phase.toNat)) then
        endBar s f.team n.toNat true 0x12 else s
      retire (modBar s1 f.team n.toNat fun b => { b with valid := true, exp := k, arr := 0, gmask := 0 }) c

/-- BAR_ARRIVE (R174): sd receives the phase before the arrival. -/
def execBarArrive (d n : BitVec 6) (s : State) : Host.Outcome State Fault Refusal :=
  gate s { s := [d.toNat] } fun c f =>
    let b := barOf s f n
    releaseWait s c (barEnds b f.group) <|
      retire (c.wrS (arriveBar s f.team n.toNat f.group) f d.toNat (b.phase.zeroExtend 64)) c

/-- BAR_WAIT (R174). -/
def execBarWait (d a n : BitVec 6) (s : State) : Host.Outcome State Fault Refusal :=
  gate s { s := [d.toNat, a.toNat] } fun c f => waitBar s c f d.toNat n.toNat ((rdS f a).setWidth 16)

/-- BAR_SYNC (R174): an arrival into a hidden token, then a wait on it. -/
def execBarSync (d n : BitVec 6) (s : State) : Host.Outcome State Fault Refusal :=
  gate s { s := [d.toNat] } fun c f =>
    let b := barOf s f n
    releaseWait s c (barEnds b f.group) <| waitBar (arriveBar s f.team n.toNat f.group) c f d.toNat n.toNat b.phase

/-- BAR_INVAL (R174). -/
def execBarInval (n : BitVec 6) (s : State) : Host.Outcome State Fault Refusal :=
  gate s {} fun c f =>
    let s1 := if (barOf s f n).valid then endBar s f.team n.toNat true 0x12 else s
    retire (modBar s1 f.team n.toNat fun b => { b with valid := false }) c

/-! ### Fibre barriers (R175) -/

/-- The fibre barrier of the slot that a team's number names; none at or above the team's FBARS. -/
def fbarOf (s : State) (f : Fibre) (slot n : Nat) : Option Nat :=
  ((s.team f.team).bind fun t => t.fbars.get? slot).bind fun l => l[n]?

/-- A lane waits at fibre barrier n of its slot. -/
def onFbar (n : Nat) : SyncOn → Bool
  | .fbar m => m == n
  | _ => false

/-- Ends the phase of a slot's fibre barrier. -/
def endFbar (s : State) (slot n status : Nat) : State :=
  let s1 := s.modSlot slot fun sl =>
    { sl with fbars := vset sl.fbars n { vget sl.fbars n FBar.init with cnt := 0, k := 0, arrived := [] } }
  freeHeld s1 (slot / 4) (slotFibres s slot) (onFbar n) status

/-- FBAR_SYNC (R175). -/
def execFbarSync (d n : BitVec 6) (k : BitVec 3) (s : State) : Host.Outcome State Fault Refusal :=
  gate s { s := [d.toNat] } fun c f =>
    let slot := slotOf c.fibre
    match fbarOf s f slot n.toNat with
    | none => illegal s c
    | some p =>
      let b := vget (s.slot slot).fbars p FBar.init
      let want := k.toNat + 1
      if b.arrived.contains c.fibre then waitOn s c f (.fbar p) d.toNat
      else if b.cnt ≠ 0 && b.k ≠ want then statusNow (endFbar s slot p 0x12) c f d.toNat 0x12
      else if b.cnt + 1 = want then
        releaseWait s c true <| statusNow (endFbar s slot p 0) c f d.toNat 0
      else
        waitOn (s.modSlot slot fun sl =>
          { sl with fbars := vset sl.fbars p { b with cnt := b.cnt + 1, k := want, arrived := c.fibre :: b.arrived } })
          c f (.fbar p) d.toNat

/-! ### Stage rings (R176-R178) -/

/-- The core's ring that a team's number names; none at or above the team's RINGS. -/
def ringOf (s : State) (tid n : Nat) : Option Nat := (s.team tid).bind fun t => t.rings[n]?

/-- Ring r of core c. -/
def State.ring (s : State) (c r : Nat) : Ring := vget (s.core c).rings r Ring.init

/-- Changes ring r of core c. -/
def modRing (s : State) (c r : Nat) (g : Ring → Ring) : State :=
  s.modCore c fun k => { k with rings := vset k.rings r (g (vget k.rings r Ring.init)) }

/-- One side of a stage of a ring. -/
def Ring.side (g : Ring) (full : Bool) (st : Nat) : RingSide := vget (if full then g.full else g.empty) st RingSide.init

/-- Replaces one side of a stage. -/
def Ring.setSide (g : Ring) (full : Bool) (st : Nat) (x : RingSide) : Ring :=
  if full then { g with full := vset g.full st x } else { g with empty := vset g.empty st x }

/-- The arrivals a side expects. -/
def Ring.expects (g : Ring) (full : Bool) : Nat := if full then g.fe else g.ee

/-- A lane waits at one side of a stage of ring r. -/
def onRing (r st : Nat) (full : Bool) : SyncOn → Bool
  | .ring r' st' full' _ => r' == r && st' == st && full' == full
  | _ => false

/-- A lane waits at ring r. -/
def onAnyRing (r : Nat) : SyncOn → Bool
  | .ring r' _ _ _ => r' == r
  | _ => false

/-- The phase bit of a side flips: its count returns to zero and its held lanes are freed with a status (R178, R187). -/
def flipSide (s : State) (tid core r st : Nat) (full : Bool) (status : Nat) : State :=
  let s1 := modRing s core r fun g => g.setSide full st ⟨0, !(g.side full st).phase, []⟩
  freeHeld s1 core (((s.team tid).map (·.live)).getD []) (onRing r st full) status

/-- Whether an arrival of a group would be counted at a side, and would flip it. -/
def sideEnds (g : Ring) (full : Bool) (st : Nat) (grp : Option Nat) : Bool :=
  (match grp with
   | some x => !(g.side full st).groups.contains x
   | none => true) && (g.side full st).cnt + 1 == g.expects full

/-- An arrival on a side: once per group and phase, engine arrivals each time (R178). -/
def arriveSide (s : State) (tid core r st : Nat) (full : Bool) (grp : Option Nat) : State :=
  let g := s.ring core r
  let x := g.side full st
  let counted := match grp with
    | some y => !x.groups.contains y
    | none => true
  if !counted then s
  else if sideEnds g full st grp then flipSide s tid core r st full 0
  else modRing s core r fun g => g.setSide full st { x with cnt := x.cnt + 1, groups := grp.toList ++ x.groups }

/-- The ring, stage and side that a SYNC field names (R185). -/
def syncRing (sync : Nat) : Option (Nat × Nat × Bool) :=
  if bitsOf sync 15 14 < 2 then none else some (bitsOf sync 13 10, bitsOf sync 9 7, bitsOf sync 15 14 == 2)

/-- Marks the engine operations whose target is ring n of a team as re-initialised (R178, R187). -/
def reinitOps (s : State) (tid n : Nat) : State :=
  { s with ops := s.ops.map fun o =>
      match o.kind with
      | .engine e =>
        if o.team == tid && ((syncRing e.sync).map (·.1)) == some n then { o with kind := .engine { e with reinit := true } } else o
      | _ => o }

/-- RING_INIT (R177, R178). -/
def execRingInit (a r : BitVec 6) (s : State) : Host.Outcome State Fault Refusal :=
  gate s { s := [a.toNat] } fun c f =>
    match ringOf s f.team r.toNat with
    | none => illegal s c
    | some p =>
      let v := rdS f a
      let st := fieldOf v 3 0
      let fe := fieldOf v 13 8
      let ee := fieldOf v 21 16
      if st < 2 || 8 < st || fe = 0 || ee = 0 then raise s c { cause := 0x05, lanes := c.lanes }
      else
        let core := coreOf c.fibre
        let s1 := freeHeld s core (((s.team f.team).map (·.live)).getD []) (onAnyRing p) 0x12
        let s2 := modRing s1 core p fun g => { Ring.init with team := g.team, stages := st, fe := fe, ee := ee }
        retire (reinitOps s2 f.team r.toNat) c

/-- A ring word's ring and stage: 0x01 at or above RINGS, 0x05 for a stage not below the stage count (R176, R177). DESIGN CHOICE (log
entry 53): the record of such a stage has the stage index in ADDR. -/
def ringWord (s : State) (c : Issue) (f : Fibre) (a r : BitVec 6) (k : Nat → Nat → State) : State :=
  match ringOf s f.team r.toNat with
  | none => illegal s c
  | some p =>
    let st := (rdS f a).toNat
    if (s.ring (coreOf c.fibre) p).stages ≤ st then raise s c { cause := 0x05, lanes := c.lanes, addr := st } else k p st

/-- An arrival word (R178). -/
def ringArrive (s : State) (a r : BitVec 6) (full : Bool) : Host.Outcome State Fault Refusal :=
  gate s { s := [a.toNat] } fun c f =>
    ringWord s c f a r fun p st =>
      let core := coreOf c.fibre
      releaseWait s c (sideEnds (s.ring core p) full st (some f.group)) <|
        retire (arriveSide s f.team core p st full (some f.group)) c

/-- A wait word (R178). -/
def ringWait (s : State) (d a r : BitVec 6) (full par : Bool) : Host.Outcome State Fault Refusal :=
  gate s { s := [d.toNat, a.toNat] } fun c f =>
    ringWord s c f a r fun p st =>
      if ((s.ring (coreOf c.fibre) p).side full st).phase = par then waitOn s c f (.ring p st full par) d.toNat
      else statusNow s c f d.toNat 0

/-- RING_ARRIVE_FULL (R178). -/
def execRingArriveFull (a r : BitVec 6) (s : State) : Host.Outcome State Fault Refusal := ringArrive s a r true

/-- RING_ARRIVE_EMPTY (R178). -/
def execRingArriveEmpty (a r : BitVec 6) (s : State) : Host.Outcome State Fault Refusal := ringArrive s a r false

/-- RING_WAIT_FULL (R178). -/
def execRingWaitFull (d a r : BitVec 6) (q : Bool) (s : State) : Host.Outcome State Fault Refusal := ringWait s d a r true q

/-- RING_WAIT_EMPTY (R178). -/
def execRingWaitEmpty (d a r : BitVec 6) (q : Bool) (s : State) : Host.Outcome State Fault Refusal := ringWait s d a r false q

/-! ### Engine arrivals (R187) -/

/-- CODE after the SYNC target has been examined: 0x12 for an invalid barrier or a re-initialised ring (R187). -/
def examine (s : State) (tid : Nat) (e : EngOp) (code : Nat) : Nat :=
  if code ≠ 0 then code
  else if e.reinit then 0x12
  else if bitsOf e.sync 15 14 = 1 && !(((s.team tid).map fun t => (t.bar (bitsOf e.sync 13 10)).valid).getD true) then 0x12
  else 0

/-- An engine operation arrives at its SYNC target with CODE (R187). -/
def engineArrive (s : State) (tid core : Nat) (e : EngOp) (code : Nat) : State :=
  if e.discard || e.reinit then s
  else
    let n := bitsOf e.sync 13 10
    match s.team tid with
    | none => s
    | some t =>
      match bitsOf e.sync 15 14 with
      | 0 => s
      | 1 =>
        let b := t.bar n
        if !b.valid then s
        else if code ≠ 0 then endBar s tid n true code
        else
          let s1 := modBar s tid n fun b => { b with arr := b.arr + 1 }
          if b.arr + 1 = b.exp then endBar s1 tid n false 0 else s1
      | k =>
        match t.rings[n]? with
        | none => s
        | some p =>
          let st := bitsOf e.sync 9 7
          if code ≠ 0 then flipSide s tid core p st (k == 2) code else arriveSide s tid core p st (k == 2) none

/-! ### cftest (R179) -/

/-- CFTEST (R179): the pending and error bits, without waiting; logged as VALUE of SRC 3 (R306). -/
def execCftest (d n : BitVec 6) (s : State) : Host.Outcome State Fault Refusal :=
  gate s { s := [d.toNat] } fun c f =>
    let now : DWord := BitVec.ofNat 64 ((if s.cfPending c.fibre n.toNat then 1 else 0) + (if f.cfErr.getLsbD n.toNat then 2 else 0))
    let r := valueRead s c.fibre 3 n.toNat now
    retire (c.wrS r.2 f d.toNat r.1) c

end Sys2Proof.Machine
end

