-- ==== Sys2Proof/Machine/Tapered.lean ====
section
/-!
DEFINITION. Sys2Proof/Machine/Tapered.lean: the tapered operations and the lane exact accumulators (R131-R138).
-/

namespace Sys2Proof.Machine

/-- TO when a code is NaR (R132-R134). -/
def tapTo (f : TapFmt) (l : List Nat) : Word := if l.any (fun x => decTap f x == .nar) then fTO else 0

/-- tradd, trsub, trmul, trfma in one lane (R132). -/
def tapArith (f : TapFmt) (rm : Rnd) (l : List Nat) (g : Dy → Dy → Dy → Dy) : Word × Word :=
  if tapTo f l != 0 then (tapReg f (tapNar f), fTO)
  else
    let v := fun i => (decTap f (nth l i 0)).val
    let t := g (v 0) (v 1) (v 2)
    let r := if t.m = 0 then (0, 0) else encTap f rm 0 t
    (tapReg f r.1, r.2)

/-- A code as a two's-complement integer (R49). -/
def tapInt (f : TapFmt) (x : Nat) : Int := sgnOf (tapN f) x

/-- trmin, or trmax when mx (R133). -/
def tapMinMax (f : TapFmt) (mx : Bool) (x y : Nat) : Word × Word :=
  let lt := decide (tapInt f y < tapInt f x)
  (tapReg f (if lt != mx then y else x), tapTo f [x, y])

/-- The conditions of trcmp (R134). -/
def tcond (k : TCond) (x y : Int) : Bool :=
  match k with
  | .eq => x == y
  | .ne => x != y
  | .lt => decide (x < y)
  | .le => decide (x ≤ y)
  | .gt => decide (y < x)
  | .ge => decide (y ≤ x)

/-- trdec in one lane: E in the even register, CLS, SG and F in the odd one (R135). -/
def tapUnpack (f : TapFmt) (x : Nat) : DWord × Word :=
  match decTap f x with
  | .nar => (0x8000000000000000#64, fTO)
  | .fin d =>
    let m := d.m.natAbs
    let lg := Nat.log2 m
    let hi := 2 ^ 30 + (if d.m < 0 then 2 ^ 29 else 0) + (m * 2 ^ 29 / 2 ^ lg - 2 ^ 29)
    (BitVec.ofNat 64 (hi * 2 ^ 32 + wrapTo 32 (d.e + (lg : Int))), 0)
  | _ => (0, 0)

/-- trenc in one lane (R135). -/
def tapPack (f : TapFmt) (rm : Rnd) (x : DWord) : Word × Word :=
  match fieldOf x 63 62 with
  | 0 => (0, 0)
  | 1 =>
    let m : Int := ((2 ^ 29 + fieldOf x 60 32 : Nat) : Int)
    let r := encTap f rm 0 ⟨if x.getLsbD 61 then -m else m, sgnOf 32 x.toNat - 29⟩
    (tapReg f r.1, r.2)
  | 2 => (tapReg f (tapNar f), 0)
  | _ => (tapReg f (tapNar f), fTN)

/-! ### The exact accumulators (R136-R138) -/

/-- The tapered format of a qmac (R136). -/
def qmacTap : QmacFmt → TapFmt
  | .e8e0 => .e8e0
  | .e8e1 => .e8e1
  | .e8e2 => .e8e2
  | .e16e1 => .e16e1
  | .e16e2 => .e16e2

/-- The exact product of two codes as a W320 value; NaR if either is NaR (R137). -/
def qProd (t : TapFmt) (x y : Nat) : W320 × Word :=
  if tapTo t [x, y] != 0 then (wNar, fTO) else toW .rne (.fin ((decTap t x).val.mul (decTap t y).val))

/-- The number a qadd source stands for (R136). -/
def qaddNum (k : QaddFmt) (x : Word) : Num :=
  match k with
  | .e8e0 => decTap .e8e0 x.toNat
  | .e8e1 => decTap .e8e1 x.toNat
  | .e8e2 => decTap .e8e2 x.toNat
  | .e16e1 => decTap .e16e1 x.toNat
  | .e16e2 => decTap .e16e2 x.toNat
  | .e32e2 => decTap .e32e2 x.toNat
  | .f32 => decF f32 x.toNat
  | .sg => ofInt x.toInt

/-- Adds a converted term to an accumulator: its own flags, TO for a NaR accumulator, TN for an overflow (R55, R137).
DESIGN CHOICE (log entry 49): a term that became NaR in its conversion raises TN and adds no TO of its own; added to a NaR accumulator the
two flags come together. -/
def qAcc (q : W320) (p : W320 × Word) : W320 × Word :=
  if q = wNar then (wNar, p.2 ||| fTO)
  else if p.1 = wNar then (wNar, p.2)
  else
    let r := wAdd q p.1
    (r.1, p.2 ||| r.2)

/-- from_w320 into a qround target, in its register width (R57, R137). -/
def qRound (t : QTarget) (rm : Rnd) (x : W320) : DWord × Word :=
  let v := decW x
  let tap := fun (f : TapFmt) =>
    let r := toTap f rm 0 v
    ((tapReg f r.1).zeroExtend 64, r.2)
  match t with
  | .e8e0 => tap .e8e0
  | .e8e1 => tap .e8e1
  | .e8e2 => tap .e8e2
  | .e16e1 => tap .e16e1
  | .e16e2 => tap .e16e2
  | .e32e2 => tap .e32e2
  | .f32 => code64 (toF f32 rm .tap v)
  | .sg => code64 (toInt 32 true rm .tap v)
  | .f64 => code64 (toF f64 rm .tap v)

/-- A word that writes an accumulator in the active lanes. -/
def qWord (s : State) (q : BitVec 1) (srcs : List Nat) (g : Issue → Fin 32 → W320 → W320 × Word) :
    Host.Outcome State Fault Refusal :=
  gate s { v := srcs } fun c f =>
    let old := vget f.q q.toNat (lanesOf 0)
    let r := perLane (0, 0) (c.active f) fun l => g c l old[l]
    let new : Lanes W320 := Vector.ofFn fun l => if inMask (c.active f) l then r[l].1 else old[l]
    let s1 := s.modFib c.fibre fun x => { x with q := vset x.q q.toNat new }
    retire (accrue s1 c.fibre (laneFlags (c.active f) fun l => r[l].2)) c

/-- TRADD (R132). -/
def execTradd (f : TapFmt) (d a b : BitVec 7) (s : State) : Host.Outcome State Fault Refusal :=
  flag1 s d (r1 a ++ r1 b) 0 fun c g l =>
    tapArith f (c.rm g) [(c.rd s false a l).toNat, (c.rd s true b l).toNat] fun x y _ => x.add y

/-- TRSUB (R132). -/
def execTrsub (f : TapFmt) (d a b : BitVec 7) (s : State) : Host.Outcome State Fault Refusal :=
  flag1 s d (r1 a ++ r1 b) 0 fun c g l =>
    tapArith f (c.rm g) [(c.rd s false a l).toNat, (c.rd s true b l).toNat] fun x y _ => x.add y.neg

/-- TRMUL (R132). -/
def execTrmul (f : TapFmt) (d a b : BitVec 7) (s : State) : Host.Outcome State Fault Refusal :=
  flag1 s d (r1 a ++ r1 b) 0 fun c g l =>
    tapArith f (c.rm g) [(c.rd s false a l).toNat, (c.rd s true b l).toNat] fun x y _ => x.mul y

/-- TRFMA (R132): one rounding. -/
def execTrfma (f : TapFmt) (d a b : BitVec 7) (s : State) : Host.Outcome State Fault Refusal :=
  flag1 s d (r1 a ++ r1 b) 1 fun c g l =>
    tapArith f (c.rm g) [(c.rd s false a l).toNat, (c.rd s true b l).toNat, (c.rdC s l).toNat] fun x y z => (x.mul y).add z

/-- TRMIN (R133). -/
def execTrmin (f : TapFmt) (d a b : BitVec 7) (s : State) : Host.Outcome State Fault Refusal :=
  flag1 s d (r1 a ++ r1 b) 0 fun c _ l => tapMinMax f false (c.rd s false a l).toNat (c.rd s true b l).toNat

/-- TRMAX (R133). -/
def execTrmax (f : TapFmt) (d a b : BitVec 7) (s : State) : Host.Outcome State Fault Refusal :=
  flag1 s d (r1 a ++ r1 b) 0 fun c _ l => tapMinMax f true (c.rd s false a l).toNat (c.rd s true b l).toNat

/-- TRCMP (R134). -/
def execTrcmp (f : TapFmt) (k : TCond) (p : BitVec 3) (a b : BitVec 7) (s : State) : Host.Outcome State Fault Refusal :=
  flagPred s p (r1 a ++ r1 b) fun c _ l =>
    (tcond k (tapInt f (c.rd s false a l).toNat) (tapInt f (c.rd s true b l).toNat),
     tapTo f [(c.rd s false a l).toNat, (c.rd s true b l).toNat])

/-- TRDEC (R135). -/
def execTrdec (f : TapFmt) (d a : BitVec 7) (s : State) : Host.Outcome State Fault Refusal :=
  flag2 s d (r1 a) 0 fun c _ l => tapUnpack f (c.rd s false a l).toNat

/-- TRENC (R135). -/
def execTrenc (f : TapFmt) (d a : BitVec 7) (s : State) : Host.Outcome State Fault Refusal :=
  flag1 s d (r2 a) 0 fun c g l => tapPack f (c.rm g) (c.rdP s false a l)

/-- QMAC (R137). -/
def execQmac (k : QmacFmt) (q : BitVec 1) (a b : BitVec 7) (s : State) : Host.Outcome State Fault Refusal :=
  qWord s q (r1 a ++ r1 b) fun c l x =>
    qAcc x (qProd (qmacTap k) (c.rd s false a l).toNat (c.rd s true b l).toNat)

/-- QCLR (R137). -/
def execQclr (q : BitVec 1) (s : State) : Host.Outcome State Fault Refusal :=
  qWord s q [] fun _ _ _ => (0, 0)

/-- QROUND (R137): the accumulator is unchanged. -/
def execQround (d : BitVec 7) (q : BitVec 1) (t : QTarget) (s : State) : Host.Outcome State Fault Refusal :=
  if t = .f64 then flag2 s d [] 0 fun c f l => qRound t (c.rm f) ((vget f.q q.toNat (lanesOf 0))[l])
  else flag1 s d [] 0 fun c f l =>
    let r := qRound t (c.rm f) ((vget f.q q.toNat (lanesOf 0))[l])
    (r.1.setWidth 32, r.2)

/-- QADD (R137). -/
def execQadd (k : QaddFmt) (q : BitVec 1) (a : BitVec 7) (s : State) : Host.Outcome State Fault Refusal :=
  qWord s q (r1 a) fun c l x => qAcc x (toW .rne (qaddNum k (c.rd s false a l)))

end Sys2Proof.Machine
end

