-- ==== Sys2Proof/Machine/Engine.lean ====
section
/-!
DEFINITION. Sys2Proof/Machine/Engine.lean: layout records, the copy engine, the matrix engine and the bank transforms: their words
and their completion (R180-R204, R213).
-/

namespace Sys2Proof.Machine

/-! ### Layout records (R182-R184) -/

/-- A valid layout record (R182). -/
structure LRec where
  fmt    : Nat
  rm     : Rnd
  scale  : Int
  bound  : Nat
  ext    : Nat × Nat × Nat × Nat
  stride : Nat × Nat × Nat
  pitch  : Nat
  deriving DecidableEq, Repr

/-- The conversion format of a record code 0x0 to 0xB (R126, R182). -/
def fmtOf (c : Nat) : CvtFmt :=
  nth [.sg, .us, .sg64, .us64, .f32, .f64, .e8e0, .e8e1, .e8e2, .e16e1, .e16e2, .e32e2] c .sg

/-- The element size z (R182). -/
def fmtSize (c : Nat) : Nat := nth [4, 4, 8, 8, 4, 8, 1, 1, 1, 2, 2, 4, 40] c 1

/-- The record read from its 64 bytes; none when it is invalid (R183, R52). -/
def parseRec (b : BitVec 512) : Option LRec :=
  let d := fun (i : Nat) => bitsOf b.toNat (64 * i + 63) (64 * i)
  let fmt := bitsOf (d 0) 63 60
  let e := fun (i : Nat) => bitsOf (d 1) (16 * i + 15) (16 * i)
  let z := fmtSize fmt
  let sp := bitsOf (d 5) 15 0
  let bound := bitsOf (d 0) 31 0
  let boundBad := match cvtTap (fmtOf fmt) with
    | some t => decide (6 ≤ fmt ∧ fmt ≤ 11 ∧ 2 ^ (tapN t - 1) - 1 ≤ bound)
    | none => bound != 0
  if 0xD ≤ fmt ∨ 5 ≤ bitsOf (d 0) 59 57 ∨ bitsOf (d 0) 56 56 ≠ 0 ∨ bitsOf (d 0) 47 32 ≠ 0 ∨ bitsOf (d 5) 63 16 ≠ 0 ∨ d 6 ≠ 0 ∨ d 7 ≠ 0
      ∨ e 0 = 0 ∨ e 1 = 0 ∨ e 2 = 0 ∨ e 3 = 0 ∨ (sp ≠ 0 ∧ (sp % 4 ≠ 0 ∨ sp < e 0 * z))
      ∨ (if fmt = 12 then bound ≠ 0 else boundBad = true) then none
  else
    some ⟨fmt, rndOf (bitsOf (d 0) 59 57), sgnOf 8 (bitsOf (d 0) 55 48), bound, (e 0, e 1, e 2, e 3), (d 2, d 3, d 4),
      if sp = 0 then e 0 * z else sp⟩

namespace LRec

/-- The element size of a record. -/
abbrev z (r : LRec) : Nat := fmtSize r.fmt

/-- The number of rows of dimension 0. -/
def rows (r : LRec) : Nat := r.ext.2.1 * r.ext.2.2.1 * r.ext.2.2.2

/-- The number of elements. -/
def count (r : LRec) : Nat := r.ext.1 * r.rows

/-- The scratchpad offset of element e, and T, one past the last byte (R182, R189). -/
def spOff (r : LRec) (e : Nat) : Nat := e / r.ext.1 * r.pitch + e % r.ext.1 * r.z

/-- T of R189. -/
def tile (r : LRec) : Nat := (r.rows - 1) * r.pitch + r.ext.1 * r.z

/-- i0 + i1 STRIDE1 + i2 STRIDE2 + i3 STRIDE3, with i0 counted in units (R190). -/
def strided (r : LRec) (e unit : Nat) : Nat :=
  let i0 := e % r.ext.1
  let i1 := e / r.ext.1 % r.ext.2.1
  let i2 := e / (r.ext.1 * r.ext.2.1) % r.ext.2.2.1
  let i3 := e / (r.ext.1 * r.ext.2.1 * r.ext.2.2.1)
  i0 * unit + i1 * r.stride.1 + i2 * r.stride.2.1 + i3 * r.stride.2.2

end LRec

/-- The offset of value v of an array of W320 values, three to a line (R190, R203). -/
abbrev wOff (v : Nat) : Nat := 128 * (v / 3) + 40 * (v % 3)

/-- The number an element's code stands for (R182). -/
def elemNum (fmt x : Nat) : Num := if fmt = 12 then decW (BitVec.ofNat 320 x) else cvtNum (fmtOf fmt) x

/-- The family of a format (R59). -/
def elemFam (fmt : Nat) : Fam := if fmt = 12 then .tap else cvtFam (fmtOf fmt)

/-- A value as an element of a format, and the flags (R52, R57, R62). -/
def elemCode (fmt : Nat) (rm : Rnd) (bound : Nat) (fam : Fam) (x : Num) : Nat × Word :=
  if fmt = 12 then
    let r := toW rm x
    (r.1.toNat, r.2)
  else
    match cvtTap (fmtOf fmt), cvtInt (fmtOf fmt) with
    | some t, _ => toTap t rm bound x
    | none, some (n, sg) =>
      let r := toInt n sg rm fam x
      (r.1, if fam = .int then 0 else r.2)
    | none, none => if fmt = 5 then toF f64 rm fam x else toF f32 rm fam x

/-- Writes a value as an element of a record (R52). -/
def LRec.write (r : LRec) (fam : Fam) (x : Num) : Nat × Word := elemCode r.fmt r.rm r.bound fam (x.scale (-r.scale))

/-- A placeholder operation of the word being issued or held, for its reads. -/
def heldOp (s : State) (fid : Nat) : Op :=
  let f := s.fib fid
  let run := f.bind (·.run)
  { id := s.nextOp, fibre := fid, team := (f.map (·.team)).getD 0, core := coreOf fid, lanes := (run.map (·.lanes)).getD 0,
    clause := (run.map (·.addr)).getD 0, word := (run.map (·.word)).getD 0, ric := (f.map (·.ric)).getD 0, flag := none, kind := .done }

/-- The record of a word through b0: the checks of a 64-byte read, then the core's record cache, or a fill (R184). -/
def withRecord (s : State) (c : Issue) (f : Fibre) (off : DWord) (k : State → BitVec 512 → State) : State :=
  bufWord s c f 0 (some c.lanes) [((lowLane c.lanes).val, off.toNat)] 64 64 .read fun s accs _ =>
    match accs with
    | a :: _ =>
      let ga := gaddr s a.home a.pa
      match (s.core (coreOf c.fibre)).lrec.find? fun e => e.1 == ga with
      | some e => k s e.2
      | none => stall (s.modFib c.fibre fun x => { x with lrecReq := some (ga, a.va) }) c .lrec
    | [] => s

/-- LREC_FILL_COMPLETE (R184): one indivisible 64-byte read through the L1 enters the core's record cache of 64 entries, and the
stalled word may issue; poisoned data faults the fibre as a load's would (R151). -/
def execLrecFillComplete (fid : Nat) (s : State) : Host.Outcome State Fault Refusal :=
  event <|
    match (s.fib fid).bind (·.lrecReq) with
    | none => s
    | some (ga, va) =>
      let o := heldOp s fid
      if pageHeld s (lineOf ga) || !replayTurn s fid o.ric.toNat (lineOf ga) va then s
      else
        let s0 := (lineAccess s fid o.ric.toNat (lineOf ga) va 0).modFib fid fun x => { x with lrecReq := none }
        let home := homeOf s (lineOf ga)
        let pa := if isRemote (lineOf ga) then ga % 2 ^ 41 else ga
        let r := readAcc s s0 o ⟨0, 0, va, pa, home, 64, 0, 0⟩ false
        ifRecorded s (s.partOf fid) <|
        if r.2.1 then poisonFault r.2.2 o o.lanes va 0 (bregIdx (vget (((s.fib fid).map (·.b)).getD (Vector.replicate 16 0)) 0 0))
        else r.2.2.modCore (coreOf fid) fun k => { k with lrec := ((ga, BitVec.ofNat 512 r.1) :: k.lrec).take 64 }

/-! ### SYNC fields and issue (R185, R303) -/

/-- What is wrong with a SYNC field: the cause, or none (R185). -/
def syncBad (s : State) (f : Fibre) (core sync : Nat) : Option Nat :=
  if bitsOf sync 6 0 ≠ 0 ∨ (bitsOf sync 15 14 < 2 ∧ bitsOf sync 9 7 ≠ 0) then some 0x01
  else
    match syncRing sync with
    | none => none
    | some (n, st, _) =>
      match ringOf s f.team n with
      | none => some 0x05
      | some p => if (s.ring core p).stages ≤ st then some 0x05 else none

/-- The scratchpad bytes of a fibre's team: base and size. -/
def teamPad (s : State) (tid : Nat) : Nat × Nat :=
  match s.team tid with
  | some t => (t.sbase * 128, t.slines * 128)
  | none => (0, 0)

/-- The sum of n uniform registers from a (R303). -/
def sumS (f : Fibre) (a n : Nat) : Nat := ((List.range n).map fun i => (f.readS (a + i)).toNat).sum % 2 ^ 64

/-- The descriptor in n uniform registers from a. -/
def descOf (f : Fibre) (a n : Nat) : List DWord := (List.range n).map fun i => f.readS (a + i)

/-- The lines of a core's scratchpad that n bytes from a touch. -/
def padLines (a n : Nat) : List Nat := if n = 0 then [] else (List.range ((a + n - 1) / 128 + 1 - a / 128)).map (a / 128 + ·)

/-- Whether rows of w bytes, every p bytes from a, n of them, meet the bytes lo to hi - 1. -/
def rowsMeet (a w p n lo hi : Nat) : Bool :=
  (List.range n).any fun r => decide (a + r * p < hi ∧ lo < a + r * p + w)

/-- The scratchpad lines that rows of bytes touch. -/
def rowLines (a w p n : Nat) : List Nat :=
  (padLines a ((n - 1) * p + w)).filter fun ln => rowsMeet a w p n (ln * 128) (ln * 128 + 128)

/-- The scratchpad rows of an engine operation that writes the scratchpad as copy and accst do: base, width, pitch, rows. -/
def EngOp.dstRows (s : State) (tid : Nat) (e : EngOp) : Option (Nat × Nat × Nat × Nat) :=
  match e.form, parseRec e.record with
  | .copy, some r => some ((teamPad s tid).1 + fieldOf (nth e.desc 1 0) 31 0, r.ext.1 * r.z, r.pitch, r.rows)
  | .accst _, some r =>
    let d := nth e.desc 0 0
    some ((teamPad s tid).1 + fieldOf d 31 0, fieldOf d 62 56 * r.z, r.pitch, fieldOf d 55 48)
  | _, _ => none

/-- The bytes that the destinations of a new operation and a pending one share (R191). -/
def sharedBytes (x y : Nat × Nat × Nat × Nat) : List Nat :=
  ((List.range ((x.2.2.2 - 1) * x.2.2.1 + x.2.1)).map (x.1 + ·)).filter fun b =>
    rowsMeet x.1 x.2.1 x.2.2.1 x.2.2.2 b (b + 1) && rowsMeet y.1 y.2.1 y.2.2.1 y.2.2.2 b (b + 1)

/-- The ranges, by start and length, of rows of bytes. -/
def rowRanges (x : Nat × Nat × Nat × Nat) : List (Nat × Nat) := (List.range x.2.2.2).map fun r => (x.1 + r * x.2.2.1, x.2.1)

/-- Whether n bytes from lo meet one of some ranges. -/
def meets (l : List (Nat × Nat)) (lo n : Nat) : Bool := l.any fun x => decide (x.1 < lo + n ∧ lo < x.1 + x.2)

/-- The parts that two lists of ranges share. -/
def sharedRanges (x y : List (Nat × Nat)) : List (Nat × Nat) :=
  x.flatMap fun a => y.filterMap fun b =>
    if max a.1 b.1 < min (a.1 + a.2) (b.1 + b.2) then some (max a.1 b.1, min (a.1 + a.2) (b.1 + b.2) - max a.1 b.1) else none

/-- The bytes of some ranges. -/
def rangeBytes (l : List (Nat × Nat)) : List Nat := l.flatMap fun x => regRange x.1 x.2

/-- The fields of an mma's second descriptor register (R197). -/
structure MmaShape where
  zero : Bool
  acc  : Bool
  bsrc : Bool
  asrc : Bool
  fmt  : Nat
  col0 : Nat
  row0 : Nat
  k    : Nat
  n    : Nat
  m    : Nat

/-- Reads the fields of s[a+1] (R197). -/
def mmaShape (d1 : DWord) : MmaShape :=
  ⟨d1.getLsbD 55, d1.getLsbD 54, d1.getLsbD 53, d1.getLsbD 52, fieldOf d1 51 48, fieldOf d1 45 40, fieldOf d1 38 32,
    fieldOf d1 25 16, fieldOf d1 15 8, fieldOf d1 7 0⟩

/-- The element size of an mma's operands. -/
def MmaShape.z (x : MmaShape) : Nat := fmtSize x.fmt

/-- What a matrix operation touches: the rectangle of accumulator entries (first row, rows, first column, columns) and whether it writes them,
the weight-buffer range and whether it writes it, the scratchpad ranges it reads and writes; whether it is a tapered mma (R194). -/
structure Touch where
  acc    : Option (Nat × Nat × Nat × Nat)
  accW   : Bool
  wb     : Option (Nat × Nat)
  wbW    : Bool
  reads  : List (Nat × Nat)
  writes : List (Nat × Nat)
  tap    : Bool

/-- What a matrix operation touches (R194). -/
def touchOf (s : State) (tid : Nat) (e : EngOp) : Touch :=
  let base := (teamPad s tid).1
  let d0 := nth e.desc 0 0
  let d1 := nth e.desc 1 0
  let rect := some (fieldOf d0 38 32, fieldOf d0 55 48, fieldOf d0 45 40, fieldOf d0 62 56)
  let rows := match parseRec e.record with
    | some r => rowRanges (base + fieldOf d0 31 0, fieldOf d0 62 56 * r.z, r.pitch, fieldOf d0 55 48)
    | none => []
  match e.form with
  | .mma =>
    let x := mmaShape d1
    let b := fieldOf d0 63 32
    { acc := if x.acc then none else some (x.row0, x.m, x.col0, x.n), accW := true
      wb := if x.bsrc then some (b, x.k * x.n * x.z) else none, wbW := false
      reads := (if x.asrc then [] else [(base + fieldOf d0 31 0, x.m * x.k * x.z)]) ++
        (if x.bsrc then [] else [(base + b, x.k * x.n * x.z)])
      writes := [], tap := x.fmt != 5 }
  | .wbload _ => ⟨none, false, some (fieldOf d1 17 0, fieldOf d1 50 32), true, [], [], false⟩
  | .accld _ => ⟨rect, true, none, false, rows, [], false⟩
  | .accst _ => ⟨rect, false, none, false, [], rows, false⟩
  | .acczero => ⟨rect, true, none, false, [], [], false⟩
  | .copy | .copySt | .copyAcc | .xform _ => ⟨none, false, none, false, [], [], false⟩

/-- The entries that two rectangles share. -/
def sharedRect (x y : Option (Nat × Nat × Nat × Nat)) : List (Nat × Nat × Nat × Nat) :=
  match x, y with
  | some a, some b =>
    let r := max a.1 b.1
    let c := max a.2.2.1 b.2.2.1
    let r1 := min (a.1 + a.2.1) (b.1 + b.2.1)
    let c1 := min (a.2.2.1 + a.2.2.2) (b.2.2.1 + b.2.2.2)
    if r < r1 ∧ c < c1 then [(r, r1 - r, c, c1 - c)] else []
  | _, _ => []

/-- Whether a form is an operation of the matrix engine (R194). -/
def EngForm.isMatrix : EngForm → Bool
  | .mma | .wbload _ | .accld _ | .accst _ | .acczero => true
  | .copy | .copySt | .copyAcc | .xform _ => false

/-- Whether software placed a new matrix operation after one in flight: a fibre of the new one knows of the other's dispatch, by program order or
through a release and an acquire (R194). -/
def knownTo (g e : EngOp) : Bool := e.seen.any g.seen.contains

/-- What two unordered matrix operations share, where one of them writes it: accumulator entries but for two tapered mma, weight-buffer
bytes, scratchpad bytes (R194). -/
def hazards (x y : Touch) : List (Nat × Nat × Nat × Nat) × List (Nat × Nat) × List (Nat × Nat) :=
  (if (x.accW || y.accW) && !(x.tap && y.tap) then sharedRect x.acc y.acc else [],
   if x.wbW || y.wbW then sharedRanges x.wb.toList y.wb.toList else [],
   sharedRanges x.writes y.writes ++ sharedRanges x.writes y.reads ++ sharedRanges x.reads y.writes)

/-- What a new operation shares unordered with an operation in flight of its core. -/
def hazardsWith (s : State) (o q : Op) (e : EngOp) : List (Nat × Nat × Nat × Nat) × List (Nat × Nat) × List (Nat × Nat) :=
  match q.kind with
  | .engine g =>
    if q.core = o.core && e.form.isMatrix && g.form.isMatrix && g.early = 0 && !knownTo g e then
      hazards (touchOf s o.team e) (touchOf s q.team g)
    else ([], [], [])
  | _ => ([], [], [])

/-- The destination bytes that a new copy or accst shares with one in flight of its core; two accst are matrix operations, in dispatch
order (R191, R194). -/
def clashWith (s : State) (o q : Op) (e : EngOp) : List Nat :=
  if q.core != o.core then [] else
  match e.dstRows s o.team, q.kind with
  | some x, .engine g =>
    if g.early ≠ 0 || (e.form.isMatrix && g.form.isMatrix) then [] else
    match g.dstRows s q.team with
    | some y => sharedBytes x y
    | none => []
  | _, _ => []

/-- Adds what an operation shares: its undefined destination bytes, and accumulator entries, weight-buffer and scratchpad bytes (R191, R194). -/
def EngOp.mark (e : EngOp) (l : List Nat) (h : List (Nat × Nat × Nat × Nat) × List (Nat × Nat) × List (Nat × Nat)) : EngOp :=
  { e with clash := e.clash ++ l ++ rangeBytes h.2.2, hazAcc := h.1 ++ e.hazAcc, hazWb := h.2.1 ++ e.hazWb, loose := h.2.2 ++ e.loose }

/-- Marks an engine operation in flight. -/
def OpKind.mark (l : List Nat) (h : List (Nat × Nat × Nat × Nat) × List (Nat × Nat) × List (Nat × Nat)) : OpKind → OpKind
  | .engine e => .engine (e.mark l h)
  | k => k

/-- Begins an engine operation that was accepted: what it shares with operations in flight (R191, R194), the presence bits that
copy and accst clear (R161, R189, R202), and a copy's writes under operations already dispatched (R229). -/
def beginEngine (s : State) (o : Op) (e : EngOp) : State :=
  let e := { e with seen := if e.seen.isEmpty then [o.fibre] else e.seen }
  if e.early ≠ 0 then s.addOp { o with kind := .engine e }
  else
    let e1 := s.ops.foldl (fun (g : EngOp) q => g.mark (clashWith s o q e) (hazardsWith s o q e)) e
    let s1 := { s with ops := s.ops.map fun (q : Op) => { q with kind := q.kind.mark (clashWith s o q e) (hazardsWith s o q e) } }
    match e.dstRows s o.team with
    | none => s1.addOp { o with kind := .engine e1 }
    | some x =>
      let lines := rowLines x.1 x.2.1 x.2.2.1 x.2.2.2
      let s2 := if e.form = .copy then loosenAll s1 o (rowRanges x) else s1
      let s3 := s2.modCore o.core fun k => { k with absent := lines.filter (fun n => !k.absent.contains n) ++ k.absent }
      s3.addOp { o with kind := .engine { e1 with cleared := lines } }

/-- An engine word has passed its checks: its chunk-hash item, its operation, its issue (R73, R303). -/
def issueEngine (s : State) (c : Issue) (f : Fibre) (major sum : Nat) (e : EngOp) : State :=
  let s1 := addItem s c.fibre (major * 256 + e.bnum) sum
  retire ((beginEngine s1 (c.op s1 f (.done)) e).modFib c.fibre fun x => { x with walkRes := [] }) c

/-- An engine operation to begin with, without a record. -/
def EngOp.init (form : EngForm) (sc : Scope) (bnum : Nat) (breg : BitVec 24) (desc : List DWord) (sync : Nat) (status : Option Nat)
    (inScratch : Bool) : EngOp :=
  { form := form, scope := sc, bnum := bnum, breg := breg, desc := desc, record := 0, early := 0, sync := sync, status := status,
    inScratch := inScratch, reinit := false, discard := false, cleared := [], arrived := [], signers := [], loose := [], stirred := [],
    clash := [], hazAcc := [], hazWb := [], noted := false, seen := [], rel := false }

/-! ### Copy words (R188, R189) -/

/-- A copy word (R188, R189). DESIGN CHOICE (log entry 54): the SYNC field is checked after the faults that R188
lists, V = 0 the last of them. -/
def copyWord (s : State) (form : EngForm) (a : BitVec 6) (b : BitVec 4) (sc : Scope) : Host.Outcome State Fault Refusal :=
  gate s { s := regRange a.toNat 4, role := some .copy } fun c f =>
    let d := descOf f a.toNat 4
    let gofs := (nth d 0 0).toNat
    let d1 := nth d 1 0
    let d3 := nth d 3 0
    let saddr := fieldOf d1 31 0
    let sync := fieldOf d1 47 32
    let reg := vget f.b b.toNat 0
    let flt := fun (cause addr : Nat) => raise s c { cause := cause, lanes := c.lanes, addr := addr, breg := b.toNat, bidx := bregIdx reg }
    if saddr % 16 ≠ 0 then flt 0x04 saddr
    else if !d3.getLsbD 63 && fieldOf d3 62 0 % 8 != 0 then flt 0x04 (fieldOf d3 62 0)
    else if form = .copyAcc ∧ gofs % 128 ≠ 0 then flt 0x04 gofs
    else if fieldOf d1 63 48 ≠ 0 then flt 0x01 0
    else if !bregV reg then flt 0x06 0
    else
      match syncBad s f (coreOf c.fibre) sync with
      | some x => flt x 0
      | none =>
        withRecord s c f (nth d 2 0) fun s r =>
          let e := { EngOp.init form sc b.toNat reg d sync (if d3.getLsbD 63 then none else some (fieldOf d3 62 0)) false with record := r }
          let early := match parseRec r with
            | none => 0x81
            | some l => if (teamPad s f.team).2 < saddr + l.tile then 0x05 else 0
          issueEngine s c f 0x20 (sumS f a.toNat 4) { e with early := early }

/-- COPY (R188-R191). -/
def execCopy (a : BitVec 6) (b : BitVec 4) (sc : Scope) (s : State) : Host.Outcome State Fault Refusal := copyWord s .copy a b sc

/-- COPY_ST (R188-R191). -/
def execCopySt (a : BitVec 6) (b : BitVec 4) (sc : Scope) (s : State) : Host.Outcome State Fault Refusal := copyWord s .copySt a b sc

/-- COPY_ACC (R188-R191). -/
def execCopyAcc (a : BitVec 6) (b : BitVec 4) (sc : Scope) (s : State) : Host.Outcome State Fault Refusal := copyWord s .copyAcc a b sc

/-! ### Matrix words (R195-R197, R200-R202) -/

/-- STADDR of a matrix descriptor as a target. -/
def staOf (d2 : DWord) : Option Nat := if fieldOf d2 63 32 = 2 ^ 32 - 1 then none else some (fieldOf d2 63 32)

/-- What is wrong with the third descriptor register: its zero bits, STADDR or SYNC (R185, R197, R201, R202). -/
def d2Bad (s : State) (f : Fibre) (core : Nat) (d2 : DWord) : Bool :=
  fieldOf d2 31 16 != 0 || (syncBad s f core (fieldOf d2 15 0)).isSome ||
    match staOf d2 with
    | some x => x % 8 != 0 || decide ((teamPad s f.team).2 < x + 8)
    | none => false

/-- What is wrong with an mma descriptor (R197). DESIGN CHOICE (log entry 56): the bound of ROW0 + M holds for accumulators in the accumulator
array alone, not with ACC = 1. -/
def mmaBad (s : State) (f : Fibre) (core : Nat) (d : List DWord) : Bool :=
  let d1 := nth d 1 0
  let x := mmaShape d1
  let a := fieldOf (nth d 0 0) 31 0
  let b := fieldOf (nth d 0 0) 63 32
  let pad := (teamPad s f.team).2
  let dbl := x.fmt == 5
  let small := dbl && x.m == 8 && x.n == 8
  fieldOf d1 63 56 != 0 || fieldOf d1 47 46 != 0 || d1.getLsbD 39 || fieldOf d1 31 26 != 0 ||
    !(decide (5 ≤ x.fmt ∧ x.fmt ≤ 10)) ||
    (if dbl then x.k % 4 != 0 || decide (x.k < 4 ∨ 512 < x.k) else x.k % 16 != 0 || decide (x.k < 16 ∨ 512 < x.k)) ||
    x.n % 8 != 0 || decide (x.n < 8 ∨ 64 < x.n) || x.m % 8 != 0 || decide (x.m < 8 ∨ 128 < x.m) || b % 128 != 0 ||
    (if x.asrc then bitsOf a 31 7 != 0 || a % 2 != 0 || x.k != 4 || !small || !f.hasReg a || !f.hasReg (a + 1)
     else a % 128 != 0 || decide (pad < a + x.m * x.k * x.z)) ||
    decide ((if x.bsrc then 262144 else pad) < b + x.k * x.n * x.z) ||
    (if x.acc then x.col0 != 0 || x.row0 % 4 != 0 || !small || (regRange x.row0 4).any (fun r => !f.hasReg r)
     else decide (128 < x.row0 + x.m ∨ 64 < x.col0 + x.n)) ||
    d2Bad s f core (nth d 2 0)

/-- Convergence register n of a team. -/
def cvOf (s : State) (tid n : Nat) : Conv := ((s.team tid).map fun t => vget t.cvs n Conv.init).getD Conv.init

/-- Replaces convergence register n of a team. -/
def setCv (s : State) (tid n : Nat) (c : Conv) : State := s.modTeam tid fun t => { t with cvs := vset t.cvs n c }

/-- The bits of a bundle in a convergence register's bitmap (R195). -/
def cvBits (g : Nat) (m : LaneMask) : BitVec 1024 := BitVec.ofNat 1024 (m.toNat * 2 ^ (32 * (g % 32)))

/-- The registers of a bundle's lanes that an mma names, as they are (R197, R199). -/
def snapRegs (s : State) (fid : Nat) (l : List Nat) : List (Nat × Lanes Word) := l.map fun r => (r, (readReg s fid r).vals)

/-- The accumulator registers of a signing bundle hold undefined values until the mma completes (R199). -/
def blurRegs (s : State) (fid : Nat) (m : LaneMask) : List Nat → State
  | [] => s
  | r :: l =>
    let d := s.drawFree
    let old := readReg s fid r
    blurRegs (writeReg d.2 fid r ⟨Vector.ofFn fun i => if inMask m i then BitVec.ofNat 32 (d.1.toNat / 2 ^ (32 * i.val)) else old.vals[i], old.tag⟩)
      fid m l

/-- A register's lanes as a list of registers holds them. -/
def snapOf (l : List (Nat × Lanes Word)) (r : Nat) : Lanes Word := ((l.find? fun e => e.1 == r).map (·.2)).getD (lanesOf 0)

/-- A signature is discarded: its flag in error, its accumulator registers as they were where they still hold what it left there (R195,
R199). -/
def unsign (s : State) (g : Signer) : State :=
  let s1 := match s.op g.op with
    | some o => s.endOp o true
    | none => s
  g.fill.foldl (fun s e =>
    let now := readReg s g.fibre e.1
    writeReg s g.fibre e.1
      ⟨Vector.ofFn fun i => if inMask g.lanes i && now.vals[i] == e.2[i] then (snapOf g.regs e.1)[i] else now.vals[i], now.tag⟩) s1

/-- CVINIT (R195): pending signatures are discarded, their flags in error. -/
def execCvinit (a : BitVec 6) (cv : BitVec 4) (s : State) : Host.Outcome State Fault Refusal :=
  gate s { s := [a.toNat], role := some .matrix } fun c f =>
    let e := fieldOf (rdS f a) 10 0
    if e = 0 ∨ 1024 < e then raise s c { cause := 0x05, lanes := c.lanes }
    else
      let old := cvOf s f.team cv.toNat
      let s1 := old.signers.foldl unsign s
      retire (setCv s1 f.team cv.toNat { Conv.init with e := e }) c

/-- The last signature has come: the operation is dispatched, in the name of the bundle that brought it (R186, R194, R196). The
accumulator registers take tag G (R212). -/
def dispatchMma (s : State) (c : Issue) (f : Fibre) (cv : Nat) (x : Conv) : State :=
  let d := x.desc
  let sh := mmaShape (nth d 1 0)
  let d2 := nth d 2 0
  let who := (x.signers.map (·.fibre)).dedup
  let open_ := (((s.team f.team).map (·.unfenced)).getD []).filter fun w => !who.any w.fenced.contains
  let e := { EngOp.init .mma .team 0 0 d (fieldOf d2 15 0) (staOf d2) true with
    signers := x.signers, loose := open_.map (fun w => (w.lo, w.n)), seen := who }
  let id := s.nextOp
  let s1 := beginEngine (setCv s f.team cv { x with cnt := 0, bitmap := 0, desc := [], signers := [] })
    { c.op s f (.done) with flag := none } e
  let mark := fun (o : Op) => if x.signers.any (fun g => g.op == o.id) then { o with kind := .sign cv (id + 1) } else o
  let s2 := { s1 with ops := s1.ops.map mark }
  let s3 := if sh.acc then
    (regRange sh.row0 4).foldl (fun s r => writeReg s c.fibre r { readReg s c.fibre r with tag := .g }) s2 else s2
  s3.pmCount (coreOf c.fibre) none 0x0E 1

/-- MMA (R196, R197): signs its convergence register; the last signature dispatches the operation. -/
def execMma (a : BitVec 6) (cv : BitVec 4) (s : State) : Host.Outcome State Fault Refusal :=
  gate s { s := regRange a.toNat 3, role := some .matrix } fun c f =>
    let d := descOf f a.toNat 3
    let x := cvOf s f.team cv.toNat
    let n := laneCount c.lanes
    let sh := mmaShape (nth d 1 0)
    if mmaBad s f (coreOf c.fibre) d || (decide (0 < x.cnt) && x.desc != d) ||
        (x.bitmap &&& cvBits f.group c.lanes) != 0 || decide (x.e < x.cnt + n) || ((sh.acc || sh.asrc) && x.signers.any (fun g => g.fibre != c.fibre)) then
      raiseCause s c 0x14
    else
      let s1 := addItem s c.fibre (0x28 * 256) (sumS f a.toNat 3)
      let accs := if sh.acc then regRange sh.row0 4 else []
      let opnds := if sh.asrc then regRange (fieldOf (nth d 0 0) 31 0) 2 else []
      let s0 := blurRegs s1 c.fibre c.lanes accs
      let y := { x with
        desc := d, cnt := x.cnt + n, bitmap := x.bitmap ||| cvBits f.group c.lanes
        signers := x.signers ++
          [⟨c.fibre, f.group, c.lanes, s1.nextOp, snapRegs s1 c.fibre (opnds ++ accs), snapRegs s0 c.fibre accs⟩] }
      let s2 := (setCv s0 f.team cv.toNat y).addOp (c.op s0 f (.sign cv.toNat 0))
      retire (if y.cnt = y.e then dispatchMma s2 c f cv.toNat y else s2) c

/-- wbload and wbload.mask (R201). -/
def wbloadWord (s : State) (mask : Bool) (a : BitVec 6) (b : BitVec 4) : Host.Outcome State Fault Refusal :=
  gate s { s := regRange a.toNat 3, role := some .matrix } fun c f =>
    let d := descOf f a.toNat 3
    let d1 := nth d 1 0
    let len := fieldOf d1 50 32
    let wofs := fieldOf d1 17 0
    let d2 := nth d 2 0
    let reg := vget f.b b.toNat 0
    if fieldOf d1 63 51 != 0 || fieldOf d1 31 18 != 0 || (nth d 0 0).toNat % 64 != 0 || len % 64 != 0 || decide (len < 64 ∨ 262144 < len) ||
        wofs % 64 != 0 || decide (262144 < wofs + len) || d2Bad s f (coreOf c.fibre) d2 then raiseCause s c 0x14
    else issueEngine s c f 0x28 (sumS f a.toNat 3) (EngOp.init (.wbload mask) .device b.toNat reg d (fieldOf d2 15 0) (staOf d2) true)

/-- WBLOAD (R201). -/
def execWbload (a : BitVec 6) (b : BitVec 4) (s : State) : Host.Outcome State Fault Refusal := wbloadWord s false a b

/-- WBLOAD_MASK (R201). -/
def execWbloadMask (a : BitVec 6) (b : BitVec 4) (s : State) : Host.Outcome State Fault Refusal := wbloadWord s true a b

/-- What is wrong with an accumulator-transfer descriptor (R202). -/
def accBad (s : State) (f : Fibre) (core : Nat) (zero : Bool) (d : List DWord) : Bool :=
  let d0 := nth d 0 0
  let cols := fieldOf d0 62 56
  let rows := fieldOf d0 55 48
  d0.getLsbD 63 || fieldOf d0 47 46 != 0 || d0.getLsbD 39 || decide (cols < 1 ∨ 64 < cols) || decide (rows < 1 ∨ 128 < rows) ||
    decide (64 < fieldOf d0 45 40 + cols) || decide (128 < fieldOf d0 38 32 + rows) || (!zero && fieldOf d0 31 0 % 16 != 0) ||
    d2Bad s f core (nth d 2 0)

/-- One past the last byte of a transfer's tile, from SADDR (R202). -/
def accTile (d0 : DWord) (r : LRec) : Nat := (fieldOf d0 55 48 - 1) * r.pitch + fieldOf d0 62 56 * r.z

/-- accld, accst and acczero (R202). -/
def accWord (s : State) (form : EngForm) (a : BitVec 6) : Host.Outcome State Fault Refusal :=
  gate s { s := regRange a.toNat 3, role := some .matrix } fun c f =>
    let d := descOf f a.toNat 3
    let d2 := nth d 2 0
    let e := EngOp.init form .team 0 0 d (fieldOf d2 15 0) (staOf d2) true
    if accBad s f (coreOf c.fibre) (form == .acczero) d then raiseCause s c 0x14
    else if form = .acczero then issueEngine s c f 0x28 (sumS f a.toNat 3) e
    else
      withRecord s c f (nth d 1 0) fun s r =>
        let early := match parseRec r with
          | none => 0x81
          | some l => if (teamPad s f.team).2 < fieldOf (nth d 0 0) 31 0 + accTile (nth d 0 0) l then 0x05 else 0
        issueEngine s c f 0x28 (sumS f a.toNat 3) { e with record := r, early := early }

/-- ACCLD (R202). -/
def execAccld (a : BitVec 6) (s : State) : Host.Outcome State Fault Refusal := accWord s (.accld false) a

/-- ACCLD_F64 (R202). -/
def execAccldF64 (a : BitVec 6) (s : State) : Host.Outcome State Fault Refusal := accWord s (.accld true) a

/-- ACCST (R202). -/
def execAccst (a : BitVec 6) (s : State) : Host.Outcome State Fault Refusal := accWord s (.accst false) a

/-- ACCST_F64 (R202). -/
def execAccstF64 (a : BitVec 6) (s : State) : Host.Outcome State Fault Refusal := accWord s (.accst true) a

/-- ACCZERO (R202). -/
def execAcczero (a : BitVec 6) (s : State) : Host.Outcome State Fault Refusal := accWord s .acczero a

/-- An opfence of a fibre covers its own writes by sts and those it observed through an acquire, for every mma that it signs later (R200). -/
def PadWrite.cover (fid : Nat) (w : PadWrite) : PadWrite :=
  if w.writer = fid || w.seen.contains fid then { w with fenced := fid :: w.fenced } else w

/-- OPFENCE (R200): holds until the fibre's earlier sts and st are complete; the scratchpad writes that the fibre knows of are covered. -/
def execOpfence (s : State) : Host.Outcome State Fault Refusal :=
  gate s { role := some .matrix } fun c f =>
    if opsPending s c.fibre .stores then stall s c (.ops .stores)
    else retire (s.modTeam f.team fun t => { t with unfenced := t.unfenced.map (PadWrite.cover c.fibre) }) c

/-! ### Transform words (R203) -/

/-- An xform word (R203): its descriptor has no SYNC field, and its reserved bits raise cause 0x01. DESIGN CHOICE (log entry 57): so do a
COUNT of 0 or above 2^24 and the SFMT values 0xD to 0xF. -/
def xformWord (s : State) (k : XForm) (a : BitVec 6) (b : BitVec 4) : Host.Outcome State Fault Refusal :=
  gate s { s := regRange a.toNat 5 } fun c f =>
    let d := descOf f a.toNat 5
    let d2 := nth d 2 0
    let d4 := nth d 4 0
    let reg := vget f.b b.toNat 0
    let flt := fun (cause addr : Nat) => raise s c { cause := cause, lanes := c.lanes, addr := addr, breg := b.toNat, bidx := bregIdx reg }
    if !d4.getLsbD 63 && fieldOf d4 62 0 % 8 != 0 then flt 0x04 (fieldOf d4 62 0)
    else if fieldOf d2 63 48 ≠ 0 ∨ fieldOf d2 39 36 ≠ 0 ∨ fieldOf d2 31 0 = 0 ∨ 2 ^ 24 < fieldOf d2 31 0 ∨ (k = .cvt ∧ 12 < fieldOf d2 35 32) then flt 0x01 0
    else if !bregV reg then flt 0x06 0
    else
      withRecord s c f (nth d 3 0) fun s r =>
        let e := { EngOp.init (.xform k) .device b.toNat reg d 0 (if d4.getLsbD 63 then none else some (fieldOf d4 62 0)) false with
          record := r }
        let early := match parseRec r with
          | none => 0x81
          | some l => if k = .fill ∧ l.fmt = 12 then 0x81 else 0
        issueEngine s c f 0x30 (sumS f a.toNat 5) { e with early := early }

/-- XFORM_CVT (R203, R204). -/
def execXformCvt (a : BitVec 6) (b : BitVec 4) (s : State) : Host.Outcome State Fault Refusal := xformWord s .cvt a b

/-- XFORM_ROUND (R203, R204). -/
def execXformRound (a : BitVec 6) (b : BitVec 4) (s : State) : Host.Outcome State Fault Refusal := xformWord s .round a b

/-- XFORM_SCALE (R203, R204). -/
def execXformScale (a : BitVec 6) (b : BitVec 4) (s : State) : Host.Outcome State Fault Refusal := xformWord s .scale a b

/-- XFORM_FILL (R203, R204). -/
def execXformFill (a : BitVec 6) (b : BitVec 4) (s : State) : Host.Outcome State Fault Refusal := xformWord s .fill a b

/-- XFORM_ZERO (R203, R204). -/
def execXformZero (a : BitVec 6) (b : BitVec 4) (s : State) : Host.Outcome State Fault Refusal := xformWord s .zero a b

end Sys2Proof.Machine
end

