-- ==== Sys2Proof/Machine/EngineDone.lean ====
section
/-!
DEFINITION. Sys2Proof/Machine/EngineDone.lean: the effects of engine operations on data and their completion: copies, weight loads,
mma, accumulator transfers, bank transforms, status words, arrivals (R185-R204, R213, R314).
-/

namespace Sys2Proof.Machine

/-! ### Checking elements (R149, R190, R192) -/

/-- What the checks of an element give: its place, or the cause, subcode, virtual address and page size of its failure. -/
inductive ElemRes where
  | ok (home pa : Nat)
  | bad (cause sub va : Nat) (big : Bool)
  deriving DecidableEq, Repr

/-- One access of an engine operation: element, offset, virtual address, size, result. -/
structure ElemAcc where
  idx  : Nat
  off  : Nat
  va   : Nat
  size : Nat
  res  : ElemRes
  deriving DecidableEq, Repr

/-- Whether a walk reaches a 512 MiB leaf (R285): otherwise the page of a failure is a 64 KiB page (R192). -/
def leafBig (s : State) (va : Nat) : Nat → Nat → Bool
  | 0, _ => false
  | lvl + 1, table =>
    let e := BitVec.ofNat 64 (s.mem.readN (table + 8 * walkIdx lvl va) 8)
    if !e.getLsbD 0 then false
    else if e.getLsbD 1 then lvl == 1
    else leafBig s va lvl (fieldOf e 51 16 * 65536)

/-- The checks of R149 for one element: alignment, bounds, rights, owner, translation. -/
def checkElem (s : State) (o : Op) (e : EngOp) (idx off size : Nat) (aligned : Bool) (need : Need) : ElemAcc :=
  let ctx := s.viOf o.fibre
  let ent := bufEntry s o.core ctx (bregIdx e.breg)
  let va := ent.base + off
  let out := fun (r : ElemRes) => (⟨idx, off, va, size, r⟩ : ElemAcc)
  if !aligned then out (.bad 0x04 0 off false)
  else if ent.len < off + size then out (.bad 0x05 0 off false)
  else if !ent.grants need then out (.bad 0x06 1 0 false)
  else if need != .read && bregRdo e.breg then out (.bad 0x06 2 0 false)
  else if ent.owner ≠ ctx then out (.bad 0x07 0 0 false)
  else
    match transCore s o.core ctx va ent.icl (need != .read) with
    | .ok pa => out (.ok ent.home pa)
    | .bad c sub _ =>
      out (.bad c sub va (((tlbFind s o.core ctx va).map (·.big)).getD (leafBig s va 4 (fieldOf (s.ctx ctx).pt 51 6 * 64))))
    | .miss => out (.bad 0x08 0 va false)

/-- The page of an address, of one of the two sizes. -/
abbrev pageOf (big : Bool) (va : Nat) : Nat := if big then va / 2 ^ 29 else va / 2 ^ 16

/-- In replay: the failures of an engine operation that its fibre's log holds: cause, subcode, element, page size (R314). -/
def loggedFails (s : State) (o : Op) : List (Nat × Nat × Nat × Bool) :=
  if !s.replaying (s.partOf o.fibre) then [] else
  (((s.fib o.fibre).map (·.log)).getD []).filterMap fun r =>
    if recKind r = 7 && recRic r = o.ric.toNat && fieldOf r 65 62 = 2 then
      some (fieldOf r 77 70, fieldOf r 69 66, fieldOf r 61 30, r.getLsbD 29)
    else none

/-- In replay, an element on a logged page fails with the logged cause (R192, R314). -/
def applyLogged (l : List (Nat × Nat × Nat × Bool)) (vaOf : Nat → Nat) (a : ElemAcc) : ElemAcc :=
  match l.find? fun x => x.2.2.1 != 2 ^ 32 - 1 && pageOf x.2.2.2 (vaOf x.2.2.1) == pageOf x.2.2.2 a.va with
  | some x => { a with res := .bad x.1 x.2.1 a.va x.2.2.2 }
  | none => a

/-- The accesses of a list of elements that passed. -/
def goodAccs (l : List ElemAcc) : List Acc :=
  l.filterMap fun a => match a.res with
    | .ok home pa => some ⟨a.idx, a.off, a.va, pa, home, a.size, 0, 0⟩
    | .bad .. => none

/-- A failure: element, cause, subcode, virtual address, page size. -/
abbrev Fail := Nat × Nat × Nat × Nat × Bool

/-- The failures of a list of elements, in element order. -/
def failsOf (l : List ElemAcc) : List Fail :=
  l.filterMap fun a => match a.res with
    | .ok _ _ => none
    | .bad c sub va big => some (a.idx, c, sub, va, big)

/-- Failures with the poisoned elements among them, in element order (log entry 14). -/
def withPoison (fs : List Fail) (p : List Nat) : List Fail :=
  (fs ++ p.map fun i => (i, 0x0A, 0, 0, false)).mergeSort fun x y => decide (x.1 ≤ y.1)

/-- CODE and ELEM of a list of failures (R186). -/
def firstFail (fs : List Fail) : Nat × Nat :=
  match fs with
  | [] => (0, 2 ^ 32 - 1)
  | f :: _ => (f.2.1, f.1)

/-- Whether a cause is a failed translation or residency. -/
abbrev isWalkCause (c : Nat) : Bool := c == 0x08 || c == 0x09

/-- Posts an engine fault record (R192, R265, R269). -/
def postEngine (s : State) (o : Op) (e : EngOp) (f : Fail) : State :=
  let v := s.viOf o.fibre
  postRecord s v (faultBits s
    { cause := f.2.1, sub := f.2.2.1, kind := 2, fibre := o.fibre, part := s.partOf o.fibre, clause := o.clause, word := o.word,
      ric := o.ric, lanes := o.lanes, addr := f.2.2.2.1, info := f.1, breg := e.bnum, bidx := bregIdx e.breg, ctx := v } s.mgmt.gts) true

/-- Logs one ASYNC record of WHAT 2 (R192, R306). -/
def logFail (s : State) (o : Op) (f : Fail) : State :=
  produce s o.fibre 7 o.ric.toNat
    (f.2.1 * 2 ^ 54 + f.2.2.1 * 2 ^ 50 + 2 * 2 ^ 46 + f.1 % 2 ^ 32 * 2 ^ 14 + (if f.2.2.2.2 then 2 ^ 13 else 0)) 0

/-- The first failure of each page, in element order. -/
def pageFirsts (fs : List Fail) : List Fail :=
  fs.foldl (fun r f =>
    if !isWalkCause f.2.1 || r.any (fun g => g.2.2.2.2 == f.2.2.2.2 && pageOf f.2.2.2.2 g.2.2.2.1 == pageOf f.2.2.2.2 f.2.2.2.1)
    then r else r ++ [f]) []

/-- Reports the failures of an operation: one record posted for the first that a walk gave, one logged for each page (R192). -/
def reportFails (s : State) (o : Op) (e : EngOp) (fs : List Fail) : State :=
  let s1 := match fs.find? fun f => isWalkCause f.2.1 || f.2.1 == 0x11 with
    | some f => postEngine s o e f
    | none => s
  (pageFirsts fs).foldl (fun s f => logFail s o f) s1

/-! ### Lines and order (R191, R300, R314) -/

/-- Advances the epoch states of the lines of some accesses (R191, R299). -/
def touchAccs (s : State) (o : Op) (accs : List Acc) (kind : Nat) : State :=
  (accLines s accs).foldl (fun s x => lineAccess s o.fibre o.ric.toNat x.1 x.2 kind) s

/-- Advances the epoch states of scratchpad lines (R191, R301). -/
def touchPad (s : State) (o : Op) (lines : List Nat) (kind : Nat) : State :=
  lines.foldl (fun s ln => scratchAccess s o.fibre o.ric.toNat ln kind) s

/-- Whether, in replay, the fibre's next record is one of this operation's own, when its log holds any (R314). -/
def ownTurn (s : State) (o : Op) : Bool :=
  if !s.replaying (s.partOf o.fibre) then true else
  let mine := fun (r : BitVec 128) => recRic r == o.ric.toNat && (recKind r == 2 || recKind r == 4 || (recKind r == 7 && fieldOf r 65 62 == 2))
  if (((s.fib o.fibre).map (·.log)).getD []).any mine then ((logNext s o.fibre).map mine).getD false else true

/-- Whether, in replay, every line an operation requests has its turn (R314). -/
def linesTurn (s : State) (o : Op) (accs : List Acc) (pad : List Nat) : Bool :=
  ownTurn s o &&
    (accLines s accs).all (fun x => !pageHeld s x.1 &&
      (!s.replaying (s.partOf o.fibre) ||
        match logged s o.fibre 2 o.ric.toNat (x.2 / 128) with
        | some (op, seq) => turnNow (s.line x.1).ep op seq
        | none => true)) &&
    pad.all fun ln =>
      !s.replaying (s.partOf o.fibre) ||
        match logged s o.fibre 4 o.ric.toNat ln with
        | some (op, seq) => turnNow ((s.core o.core).sep.getD ln EpLine.init) op seq
        | none => true

/-- In replay, whether some element fails a walk that the log does not hold: the operation waits (R314). -/
def unlogged (s : State) (o : Op) (l : List (Nat × Nat × Nat × Bool)) (vaOf : Nat → Nat) (fs : List Fail) : Option Fail :=
  if !s.replaying (s.partOf o.fibre) then none else
  fs.find? fun f => isWalkCause f.2.1 &&
    !l.any fun x => x.2.2.1 != 2 ^ 32 - 1 && pageOf x.2.2.2 (vaOf x.2.2.1) == pageOf x.2.2.2 f.2.2.2.1

/-- An undelivered fault of a held engine operation is reported once, as SYSTEM (R314). -/
def noteHeld (s : State) (o : Op) (e : EngOp) (f : Fail) : State :=
  if e.noted then s else
  let s1 := postSystem s (s.partOf o.fibre)
    { cause := f.2.1, sub := f.2.2.1, fibre := o.fibre, clause := o.clause, word := o.word, ric := o.ric, lanes := o.lanes,
      addr := f.2.2.2.1, breg := e.bnum, bidx := bregIdx e.breg, ctx := s.viOf o.fibre } none
  s1.setOp { o with kind := .engine { e with noted := true } }

/-! ### Writing the scratchpad -/

/-- Writes bytes into the scratchpad of a core; a byte shared with another pending destination gets a free value (R191). -/
def padPut (s : State) (core a : Nat) (clash : List Nat) (keep : Nat → Bool) : List Byte → State
  | [] => s
  | b :: r =>
    let s1 :=
      if !keep (a / 128) then s
      else if clash.contains a then
        let d := s.drawFree
        d.2.modCore core fun k => { k with scratch := k.scratch.write a (d.1.setWidth 8) }
      else s.modCore core fun k => { k with scratch := k.scratch.write a b }
    padPut s1 core (a + 1) clash keep r

/-- The presence bits of lines are set (R161). -/
def setPresent (s : State) (core : Nat) (lines : List Nat) : State :=
  s.modCore core fun k => { k with absent := k.absent.filter fun n => !lines.contains n }

/-- Whether a line's presence was cleared for an operation dispatched after o, and for none before it: what o reads there is still whole (R194,
R202). -/
def clearedLater (s : State) (o : Op) (n : Nat) : Bool :=
  let clears := fun (q : Op) => q.core == o.core && q.id != o.id && match q.kind with
    | .engine g => g.cleared.contains n
    | _ => false
  s.ops.any clears && s.ops.all fun q => !clears q || decide (o.id < q.id)

/-- Whether every line that an operation reads is present. -/
def allPresent (s : State) (o : Op) (lines : List Nat) : Bool :=
  lines.all fun n => !(s.core o.core).absent.contains n || clearedLater s o n

/-- A free value for place k of what an operation reads or writes (log entry 8). -/
def freeAt (s : State) (k bits : Nat) : Nat := (Config.freeBits (s.free + k)).toNat % 2 ^ bits

/-- The places that freeAt uses for one operation. -/
abbrev freeSpan : Nat := 2 ^ 26

/-- The free values of an operation are used up. -/
def EngOp.spend (e : EngOp) (s : State) : State :=
  if e.loose.isEmpty && e.stirred.isEmpty && e.hazAcc.isEmpty && e.hazWb.isEmpty && e.signers.all (·.regs.isEmpty) then s
  else { s with free := s.free + freeSpan }

/-- Whether entry (r, c) lies in one of some rectangles. -/
def inRects (l : List (Nat × Nat × Nat × Nat)) (r c : Nat) : Bool :=
  l.any fun x => decide (x.1 ≤ r ∧ r < x.1 + x.2.1 ∧ x.2.2.1 ≤ c ∧ c < x.2.2.1 + x.2.2.2)

/-! ### Copies (R190, R191) -/

/-- The scratchpad base of an operation's tile. -/
def tileBase (s : State) (o : Op) (saddr : Nat) : Nat := (teamPad s o.team).1 + saddr

/-- The offset in the buffer of element i of a copy (R190). -/
def copyOff (e : EngOp) (l : LRec) (i : Nat) : Nat :=
  let g := (nth e.desc 0 0).toNat
  (if e.form = .copyAcc then g + wOff (l.strided i 1) else g + l.strided i l.z) % 2 ^ 64

/-- The parts of n bytes at an offset that lie in one line each (R190, R191): offset and size. -/
def lineParts (off n : Nat) : List (Nat × Nat) :=
  if off % 128 + n ≤ 128 then [(off, n)] else [(off, 128 - off % 128), (off + (128 - off % 128), n - (128 - off % 128))]

/-- The elements of a copy with their checks, one for each line that an element touches (R190). -/
def copyElems (s : State) (o : Op) (e : EngOp) (l : LRec) : List ElemAcc :=
  let base := (bufEntry s o.core (s.viOf o.fibre) (bregIdx e.breg)).base
  let lg := loggedFails s o
  (List.range l.count).flatMap fun i =>
    let m := copyOff e l i
    (match e.form with
      | .copyAcc => [checkElem s o e i m 40 (m % 128 % 40 == 0 && decide (m % 128 ≤ 80)) .atomic]
      | .copySt => (lineParts m l.z).map fun (x : Nat × Nat) => checkElem s o e i x.1 x.2 (m % l.z == 0) .write
      | _ => (lineParts m l.z).map fun (x : Nat × Nat) => checkElem s o e i x.1 x.2 (m % l.z == 0) .read).map
      (applyLogged lg fun j => base + copyOff e l j)

/-- The accesses of the elements none of whose parts failed. -/
def wholeAccs (es : List ElemAcc) : List Acc :=
  let bad := (failsOf es).map (·.1)
  if bad.isEmpty then goodAccs es else goodAccs (es.filter fun a => !bad.contains a.idx)

/-- A failure of a copy that replay must not deliver (R314). -/
def copyHeld (s : State) (o : Op) (e : EngOp) (l : LRec) (es : List ElemAcc) : Option Fail :=
  let base := (bufEntry s o.core (s.viOf o.fibre) (bregIdx e.breg)).base
  unlogged s o (loggedFails s o) (fun j => base + copyOff e l j) (failsOf es)

/-- The bytes of element i as the parts read give them: zero where a part is missing or poisoned, a free value where a source byte was
written while the copy was pending (R190, R229). -/
def copyVal (s : State) (e : EngOp) (l : LRec) (vals : List (Acc × Nat × Bool)) (i : Nat) : Nat :=
  let ps := vals.filter fun x => x.1.lane == i
  if ps.isEmpty || ps.any (·.2.2) then 0
  else if ps.any fun x => meets e.stirred (gaddr s x.1.home x.1.pa) x.1.size then freeAt s i (8 * l.z)
  else ps.foldl (fun v x => v + x.2.1 * 2 ^ (8 * (x.1.off - copyOff e l i))) 0

/-- Writes the elements of a copy into the lines of the scratchpad chosen by keep: the data read, zero where an element failed (R190). -/
def copyIn (s : State) (o : Op) (e : EngOp) (l : LRec) (es : List ElemAcc) (vals : List (Acc × Nat × Bool)) (keep : Nat → Bool) : State :=
  let base := tileBase s o (fieldOf (nth e.desc 1 0) 31 0)
  e.spend ((es.map (·.idx)).dedup.foldl (fun t i => padPut t o.core (base + l.spOff i) e.clash keep (natBytes l.z (copyVal s e l vals i))) s)

/-- What a copy out of the scratchpad reads for element i: a free value where a byte was written while the copy was pending (R229). -/
def copyOut (s : State) (o : Op) (e : EngOp) (l : LRec) (base i : Nat) : Nat :=
  if meets e.loose (base + l.spOff i) l.z then freeAt s i (8 * l.z) else padRead s o (base + l.spOff i) l.z

/-- The data effects of a copy: state, failures (R190). DESIGN CHOICE (log entry 55): elements that overlap in memory are written in element
order, in one step. -/
def runCopy (s : State) (o : Op) (e : EngOp) (l : LRec) (es : List ElemAcc) : State × List Fail :=
  let base := tileBase s o (fieldOf (nth e.desc 1 0) 31 0)
  let lines := rowLines base (l.ext.1 * l.z) l.pitch l.rows
  let s0 := releaseAt s o.core e.scope
  let fails := failsOf es
  match e.form with
  | .copy =>
    -- elements whose bytes lie only in lines that arrived already are not read again
    let left := fun (ln : Nat) => !e.arrived.contains ln
    let todo := es.filter fun a => (padLines (base + l.spOff a.idx) l.z).any left
    let accs := wholeAccs todo
    let r := readAccs s0 (touchAccs s0 o accs 0) o (bregNt e.breg) accs
    let s1 := copyIn (touchPad r.2 o (lines.filter left) 1) o e l todo r.1 left
    (s1, withPoison fails ((r.1.filter (·.2.2)).map (·.1.lane)).dedup)
  | .copySt =>
    let accs := (wholeAccs es).map fun a =>
      { a with data := copyOut s0 o e l base a.lane / 2 ^ (8 * (a.off - copyOff e l a.lane)) % 2 ^ (8 * a.size) }
    let s1 := e.spend (touchAccs (touchPad s0 o lines 0) o accs 1)
    let lost := accs.filter fun a => lineLost s1 (lineOf (gaddr s1 a.home a.pa))
    (accs.foldl (writeAcc o) s1, withPoison fails (lost.map (·.lane)).dedup)
  | _ =>
    let accs := (goodAccs es).map fun a => { a with data := copyOut s0 o e l base a.lane }
    let s1 := fetchAccs (e.spend (touchAccs (touchPad s0 o lines 0) o accs 2)) accs
    let bad := accs.filter fun a => linePoison s1 (lineOf (gaddr s1 a.home a.pa))
    let ok := accs.filter fun a => !linePoison s1 (lineOf (gaddr s1 a.home a.pa))
    (ok.foldl (fun s a => accAdd s o (gaddr s a.home a.pa) (toW .rne (elemNum l.fmt a.data)).1) s1,
      withPoison fails (bad.map (·.lane)))

/-- Whether the checks of an element reached its translation. -/
def ElemAcc.translated (a : ElemAcc) : Bool :=
  match a.res with
  | .ok .. => true
  | .bad c .. => c == 0x08 || c == 0x09 || c == 0x11

/-- The pages of the elements of an engine operation, each a write or not, are walked where the core's TLB does not hold them (R190, R290). -/
def walkElems (s : State) (o : Op) (e : EngOp) (as : List (ElemAcc × Bool)) : State :=
  let ctx := s.viOf o.fibre
  let icl := (bufEntry s o.core ctx (bregIdx e.breg)).icl
  let pages := (as.filter fun a => a.1.translated).map fun a => (a.1.va / 65536, a.2)
  pages.dedup.foldl (fun s p => fillTlb s o.core ctx (p.1 * 65536) icl p.2) s

/-! ### Weight buffer (R201) -/

/-- One byte of a weight stream: its number and its check, V of the buffer register first (R149 order 2, R201). -/
def wbByte (s : State) (o : Op) (e : EngOp) (i : Nat) : ElemAcc :=
  let base := (bufEntry s o.core (s.viOf o.fibre) (bregIdx e.breg)).base
  let m := fun (j : Nat) => ((nth e.desc 0 0).toNat + j) % 2 ^ 64
  if !bregV e.breg then ⟨i, m i, base + m i, 1, .bad 0x06 0 0 false⟩
  else applyLogged (loggedFails s o) (fun j => base + m j) (checkElem s o e i (m i) 1 true .read)

/-- The value of a byte that passed, without effect on the state. -/
def wbPeek (s : State) (o : Op) (a : ElemAcc) : Nat :=
  match a.res with
  | .ok home pa => (readAcc s s o ⟨a.idx, a.off, a.va, pa, home, 1, 0, 0⟩ false).1
  | .bad .. => 0

/-- The stream bytes of n blocks of a masked load from stream position i, and the output bytes (R201): a failing byte ends the stream. -/
def maskBlocks (s : State) (o : Op) (e : EngOp) : Nat → Nat → List ElemAcc × List Nat
  | 0, _ => ([], [])
  | n + 1, i =>
    let hdr := (List.range 8).map fun j => wbByte s o e (i + j)
    if !(failsOf hdr).isEmpty then (hdr, [])
    else
      let mask := (hdr.map (wbPeek s o)).foldr (fun b x => b + 256 * x) 0
      let cnt := ((List.range 64).filter fun j => mask.testBit j).length
      let body := (List.range cnt).map fun j => wbByte s o e (i + 8 + j)
      if !(failsOf body).isEmpty then (hdr ++ body, [])
      else
        let out := (List.range 64).map fun j =>
          if mask.testBit j then
            match body[((List.range j).filter fun q => mask.testBit q).length]? with
            | some a => wbPeek s o a
            | none => 0
          else 0
        let rest := maskBlocks s o e n (i + 8 + cnt)
        (hdr ++ body ++ rest.1, out ++ rest.2)

/-- The stream of a weight load and the bytes it gives (R201). -/
def wbStream (s : State) (o : Op) (e : EngOp) (mask : Bool) : List ElemAcc × List Nat :=
  let len := fieldOf (nth e.desc 1 0) 50 32
  if mask then maskBlocks s o e (len / 64) 0
  else
    let l := (List.range len).map (wbByte s o e)
    (l, l.map (wbPeek s o))

/-- The data effects of a weight load: on any failure the whole range is zero (R201); the bytes that a source byte written while it was pending
concerns are free, in a masked load all of them (R229), and so are bytes shared with an unordered operation (R194). -/
def runWbload (s : State) (o : Op) (e : EngOp) (st : List ElemAcc × List Nat) : State × List Fail :=
  let d1 := nth e.desc 1 0
  let accs := goodAccs st.1
  let r := readAccs s (touchAccs (releaseAt s o.core .device) o accs 0) o (bregNt e.breg) accs
  let fails := withPoison (failsOf st.1) ((r.1.filter (·.2.2)).map (·.1.lane))
  let wofs := fieldOf d1 17 0
  let hit := accs.filter fun a => meets e.stirred (gaddr s a.home a.pa) 1
  let loose := fun (i : Nat) => meets e.hazWb (wofs + i) 1 ||
    (!hit.isEmpty && (e.form == .wbload true || hit.any fun a => a.lane == i))
  let bytes := if fails.isEmpty then st.2.zipIdx.map fun x => BitVec.ofNat 8 (if loose x.2 then freeAt s x.2 8 else x.1)
    else List.replicate (fieldOf d1 50 32) 0
  (e.spend (r.2.modCore o.core fun k => { k with wb := k.wb.writeL wofs bytes }), fails)

/-! ### mma (R198) -/

/-- A code of n bytes at scratchpad address a; a free value where a byte of it is undefined (R194, R200, R229). -/
def padCode (s : State) (o : Op) (e : EngOp) (a n : Nat) : Nat :=
  if meets e.loose a n then freeAt s a (8 * n) else (s.core o.core).scratch.readN a n

/-- The signature of a lane in the register form. -/
def signerOf (e : EngOp) (fid : Nat) (l : Fin 32) : Option Signer := e.signers.find? fun g => g.fibre == fid && inMask g.lanes l

/-- Lane l of registers r and r + 1 in a list of registers. -/
def snapPair (x : List (Nat × Lanes Word)) (r : Nat) (l : Fin 32) : Nat := ((snapOf x r)[l]).toNat + ((snapOf x (r + 1))[l]).toNat * 2 ^ 32

/-- The code of A[r][k] (R197, R198): of a register operand as its bundle signed it, a free value where the register was written since (R199). -/
def mmaA (s : State) (o : Op) (e : EngOp) (x : MmaShape) (r k : Nat) : Nat :=
  let a := fieldOf (nth e.desc 0 0) 31 0
  if x.asrc then
    let l := Fin.ofNat 32 (4 * r + k)
    match signerOf e o.fibre l with
    | some g =>
      if (readPair s o.fibre a l).toNat = snapPair g.regs a l then snapPair g.regs a l else freeAt s (2 ^ 20 + 32 * a + l.val) 64
    | none => 0
  else padCode s o e (tileBase s o a + (r * x.k + k) * x.z) x.z

/-- The code of B[k][c] (R197). -/
def mmaB (s : State) (o : Op) (e : EngOp) (x : MmaShape) (k c : Nat) : Nat :=
  let b := fieldOf (nth e.desc 0 0) 63 32
  let i := (k * x.n + c) * x.z
  if x.bsrc then (if meets e.hazWb (b + i) x.z then freeAt s (2 ^ 21 + b + i) (8 * x.z) else (s.core o.core).wb.readN (b + i) x.z)
  else padCode s o e (tileBase s o b + i) x.z

/-- The tapered format of an operand code (R126). -/
def mmaTap (fmt : Nat) : TapFmt := (cvtTap (fmtOf fmt)).getD .e8e0

/-- The exact sum of the products of an output element: t of R198. -/
def mmaSum (s : State) (o : Op) (e : EngOp) (x : MmaShape) (r c : Nat) : W320 × Word :=
  (List.range x.k).foldl (fun (q : W320 × Word) k =>
    let y := qAcc q.1 (qProd (mmaTap x.fmt) (mmaA s o e x r k) (mmaB s o e x k c))
    (y.1, q.2 ||| y.2)) (0, 0)

/-- A tapered output element: the new entry and TO, TN (R198). -/
def mmaTapered (s : State) (o : Op) (e : EngOp) (x : MmaShape) (r c : Nat) (old : W320) : W320 × Word :=
  let t := mmaSum s o e x r c
  let y := qAcc (if x.zero then 0 else old) t
  (y.1, y.2 &&& (fTO ||| fTN))

/-- A binary64 output element by the chunk order of R63: the new code and its flags (R198). -/
def mmaDouble (s : State) (o : Op) (e : EngOp) (x : MmaShape) (r c old : Nat) : Nat × Word :=
  let leaves := (List.range x.k).map fun k => mulNum (decF f64 (mmaA s o e x r k)) (decF f64 (mmaB s o e x k c))
  let y := f64Sum x.k leaves (decF f64 (if x.zero then 0 else old), 0)
  ((roundNum f64 .rne y.1).1, y.2)

/-- The lane and register of C[r][c] in the register form (R198). -/
def mmaPlace (x : MmaShape) (r c : Nat) : Fin 32 × Nat := (Fin.ofNat 32 (4 * r + c / 2), x.row0 + 2 * (c % 2))

/-- Writes one lane of a pair of an accumulator register, tag G. -/
def putLane (s : State) (fid r : Nat) (l : Fin 32) (v : Nat) : State :=
  let one := fun (s : State) (r v : Nat) =>
    let old := readReg s fid r
    writeReg s fid r ⟨Vector.ofFn fun i => if i = l then BitVec.ofNat 32 v else old.vals[i], .g⟩
  one (one s r v) (r + 1) (v / 2 ^ 32)

/-- Computes one output element from the state before the operation, into the state and the flags so far; an accumulator register touched since its
bundle signed (R199), and an entry shared with an unordered operation (R194), get free values. -/
def mmaElem (s0 : State) (o : Op) (e : EngOp) (x : MmaShape) (st : State × Word) (r c : Nat) : State × Word :=
  if x.acc then
    let p := mmaPlace x r c
    match signerOf e o.fibre p.1 with
    | some g =>
      let y := mmaDouble s0 o e x r c (snapPair g.regs p.2 p.1)
      let whole := (readPair s0 o.fibre p.2 p.1).toNat = snapPair g.fill p.2 p.1
      (putLane st.1 o.fibre p.2 p.1 (if whole then y.1 else freeAt s0 (2 ^ 22 + 32 * p.2 + p.1.val) 64), st.2 ||| y.2)
    | none => st
  else
    let i := (x.row0 + r) * 64 + x.col0 + c
    let old := (s0.core o.core).acc.getD i 0
    let y : W320 × Word :=
      if x.fmt = 5 then
        let d := mmaDouble s0 o e x r c (old.toNat % 2 ^ 64)
        (BitVec.ofNat 320 d.1, d.2)
      else mmaTapered s0 o e x r c old
    let v := if inRects e.hazAcc (x.row0 + r) (x.col0 + c) then BitVec.ofNat 320 (freeAt s0 (2 ^ 23 + i) 320) else y.1
    (st.1.modCore o.core fun k => { k with acc := k.acc.set i v }, st.2 ||| y.2)

/-- The data effects of an mma: state and FLAGS (R198). -/
def runMma (s : State) (o : Op) (e : EngOp) : State × Word :=
  let x := mmaShape (nth e.desc 1 0)
  let r := (List.range x.m).foldl (fun st r => (List.range x.n).foldl (fun st c => mmaElem s o e x st r c) st) (s, 0)
  (e.spend r.1, r.2)

/-- The scratchpad lines that an mma reads (R198). -/
def mmaReads (s : State) (o : Op) (e : EngOp) : List Nat :=
  let x := mmaShape (nth e.desc 1 0)
  let d := nth e.desc 0 0
  (if x.asrc then [] else padLines (tileBase s o (fieldOf d 31 0)) (x.m * x.k * x.z)) ++
    (if x.bsrc then [] else padLines (tileBase s o (fieldOf d 63 32)) (x.k * x.n * x.z))

/-! ### Accumulator transfers (R202) -/

/-- The entries of a transfer: row, column, entry number, scratchpad address. -/
def accCells (s : State) (o : Op) (e : EngOp) (l : LRec) : List (Nat × Nat) :=
  let d := nth e.desc 0 0
  (List.range (fieldOf d 55 48)).flatMap fun r => (List.range (fieldOf d 62 56)).map fun c =>
    ((fieldOf d 38 32 + r) * 64 + fieldOf d 45 40 + c, tileBase s o (fieldOf d 31 0) + r * l.pitch + c * l.z)

/-- The scratchpad lines of a transfer's tile. -/
def accLinesOf (s : State) (o : Op) (e : EngOp) (l : LRec) : List Nat :=
  let d := nth e.desc 0 0
  rowLines (tileBase s o (fieldOf d 31 0)) (fieldOf d 62 56 * l.z) l.pitch (fieldOf d 55 48)

/-- Whether entry i of the accumulator store is shared with an unordered operation (R194). -/
def accLoose (e : EngOp) (i : Nat) : Bool := inRects e.hazAcc (i / 64) (i % 64)

/-- The data effects of acczero (R202). -/
def runAcczero (s : State) (o : Op) (e : EngOp) : State :=
  let l : LRec := ⟨0, .rne, 0, 0, (1, 1, 1, 1), (0, 0, 0), 0⟩
  e.spend ((accCells s o e l).foldl (fun t x => t.modCore o.core fun k =>
    { k with acc := k.acc.set x.1 (if accLoose e x.1 then BitVec.ofNat 320 (freeAt s x.1 320) else 0) }) s)

/-- The data effects of accld: state and FLAGS (R202). -/
def runAccld (s : State) (o : Op) (e : EngOp) (l : LRec) (dbl : Bool) : State × Word :=
  let s0 := touchPad s o (accLinesOf s o e l) 0
  let r := (accCells s o e l).foldl (fun (st : State × Word) x =>
    let v := (elemNum l.fmt (padRead s o x.2 l.z)).scale l.scale
    let y : Nat × Word := if dbl then toF f64 l.rm (elemFam l.fmt) v else
      let w := toW .rne v
      (w.1.toNat, w.2)
    let n := if meets e.loose x.2 l.z || accLoose e x.1 then freeAt s x.1 320 else y.1
    (st.1.modCore o.core fun k => { k with acc := k.acc.set x.1 (BitVec.ofNat 320 n) }, st.2 ||| y.2)) (s0, 0)
  (e.spend r.1, r.2)

/-- The data effects of accst: state and FLAGS (R202). -/
def runAccst (s : State) (o : Op) (e : EngOp) (l : LRec) (dbl : Bool) : State × Word :=
  let s0 := touchPad s o (accLinesOf s o e l) 1
  let r := (accCells s o e l).foldl (fun (st : State × Word) x =>
    let a := if accLoose e x.1 then BitVec.ofNat 320 (freeAt s x.1 320) else (st.1.core o.core).acc.getD x.1 0
    let v := if dbl then decF f64 (a.toNat % 2 ^ 64) else decW a
    let y := l.write (if dbl then .ieee else .tap) v
    (padPut st.1 o.core x.2 e.clash (fun _ => true) (natBytes l.z y.1), st.2 ||| y.2)) (s0, 0)
  (e.spend r.1, r.2)

/-! ### Bank transforms (R204) -/

/-- The offset of element i of an array of a format (R203). -/
def xOff (base fmt i : Nat) : Nat := (base + if fmt = 12 then wOff i else i * fmtSize fmt) % 2 ^ 64

/-- Whether an element of a format at an offset passes R149's alignment check (R149, R166). -/
def xAligned (fmt off : Nat) : Bool := if fmt = 12 then off % 128 == 0 || off % 128 == 40 || off % 128 == 80 else off % fmtSize fmt == 0

/-- The source format of a transform, when it has one (R204). -/
def xSource (e : EngOp) (k : XForm) : Option Nat :=
  match k with
  | .cvt => some (fieldOf (nth e.desc 2 0) 35 32)
  | .round => some 12
  | .scale | .fill | .zero => none

/-- The source and destination checks of element i of a transform (R204). -/
def xElem (s : State) (o : Op) (e : EngOp) (l : LRec) (k : XForm) (i : Nat) : List ElemAcc :=
  let base := (bufEntry s o.core (s.viOf o.fibre) (bregIdx e.breg)).base
  let lg := loggedFails s o
  let dOff := fun (j : Nat) => xOff (nth e.desc 0 0).toNat l.fmt j
  let lgd := fun (a : ElemAcc) => applyLogged lg (fun j => base + dOff j) a
  let dst := fun (n : Need) => lgd (checkElem s o e i (dOff i) l.z (xAligned l.fmt (dOff i)) n)
  match xSource e k with
  | some f =>
    let m := xOff (nth e.desc 1 0).toNat f i
    [lgd (checkElem s o e i m (fmtSize f) (xAligned f m) .read), dst .write]
  | none => if k = .scale then [dst .read, dst .write] else [dst .write]

/-- Reads n bytes at a bank: the team's view in the ordered modes, the Cairn's line where replay says so, else the home slice. -/
def bankRead (pre s : State) (o : Op) (a : Acc) : Nat × Bool × State :=
  let ga := gaddr s a.home a.pa
  match stagingTeam s o.fibre with
  | some t =>
    let s1 := fetchLine s (lineOf ga) false
    (imageRead s1 t a.home a.pa a.size, linePoison s1 (lineOf ga), s1)
  | none =>
    if readsCairn pre o (lineOf ga) a.va then (cairnRead s (s.partOf o.fibre) ga a.size, linePoison s (lineOf ga), s)
    else
      let s1 := homeRead s (lineOf ga) false
      (s1.mem.readN ga a.size, linePoison s1 (lineOf ga), s1)

/-- Writes n bytes at a bank: staged in the ordered modes, else at the home slice, where the words leave every owner record (R220). -/
def bankWrite (s : State) (o : Op) (a : Acc) (v : Nat) : State :=
  let ga := gaddr s a.home a.pa
  let s := stir s (some o) ga a.size
  match stagingTeam s o.fibre with
  | some t => stageWrite s o.team t a.home a.pa a.size v
  | none => homeWriteN s ga a.size v

/-- Whether a .cvt with different element sizes overlaps its own source in the bytes of destination element i (R204). -/
def xOverlaps (e : EngOp) (l : LRec) (k : XForm) (i : Nat) : Bool :=
  match xSource e k with
  | some f =>
    k == .cvt && fmtSize f != l.z &&
      (let d := xOff (nth e.desc 0 0).toNat l.fmt i
       let src := (nth e.desc 1 0).toNat
       let n := fieldOf (nth e.desc 2 0) 31 0
       (List.range l.z).any fun b =>
         let x := d + b - src
         decide (src ≤ d + b) &&
           (if f = 12 then decide (x % 128 < 120 ∧ x / 128 * 3 + x % 128 / 40 < n) else decide (x < n * fmtSize f)))
  | none => false

/-- The new code of an element, and its flags (R204). -/
def xValue (e : EngOp) (l : LRec) (k : XForm) (src : Nat) : Nat × Word :=
  let sscale := sgnOf 8 (fieldOf (nth e.desc 2 0) 47 40)
  match k with
  | .cvt => let f := fieldOf (nth e.desc 2 0) 35 32; l.write (elemFam f) ((elemNum f src).scale sscale)
  | .round => l.write .tap ((elemNum 12 src).scale sscale)
  | .scale => l.write (elemFam l.fmt) (((elemNum l.fmt src).scale l.scale).scale (sgnOf 8 (fieldOf (nth e.desc 1 0) 7 0)))
  | .fill => ((nth e.desc 1 0).toNat % 2 ^ (8 * l.z), 0)
  | .zero => (0, 0)

/-- Performs one element of a transform: state, flags, poisoned elements (R204). -/
def xRun (pre : State) (o : Op) (e : EngOp) (l : LRec) (k : XForm) (st : State × Word × List Nat) (as : List ElemAcc) : State × Word × List Nat :=
  if !(failsOf as).isEmpty then st
  else
    let accs := goodAccs as
    let src := accs.head?
    match accs.getLast?, src with
    | some d, some a =>
      let r : Nat × Bool × State := if accs.length = 2 then bankRead pre st.1 o a else (0, false, st.1)
      if r.2.1 || lineLost st.1 (lineOf (gaddr st.1 d.home d.pa)) then (r.2.2, st.2.1, st.2.2 ++ [a.lane])
      else
        let v := xValue e l k r.1
        if xOverlaps e l k d.lane then
          let f := r.2.2.drawFree
          (bankWrite f.2 o d (f.1.toNat % 2 ^ (8 * l.z)), st.2.1 ||| v.2, st.2.2)
        else (bankWrite r.2.2 o d v.1, st.2.1 ||| v.2, st.2.2)
    | _, _ => st

/-- The elements of a transform. -/
def xElems (s : State) (o : Op) (e : EngOp) (l : LRec) (k : XForm) : List (List ElemAcc) :=
  (List.range (fieldOf (nth e.desc 2 0) 31 0)).map (xElem s o e l k)

/-- The first failing check of each element. -/
def xFails (es : List (List ElemAcc)) : List Fail := es.filterMap fun as => (failsOf as).head?

/-- The data effects of a transform: state, failures, FLAGS (R204). DESIGN CHOICE (log entry 58): elements of an overlapping transform are
performed in element order, in one step. -/
def runXform (s : State) (o : Op) (e : EngOp) (l : LRec) (k : XForm) (es : List (List ElemAcc)) : State × List Fail × Word :=
  let good := es.filter fun as => (failsOf as).isEmpty
  let dst := good.flatMap fun as => (goodAccs as).drop ((goodAccs as).length - 1)
  let src := good.flatMap fun as => (goodAccs as).take ((goodAccs as).length - 1)
  let lines := (accLines s dst).map (·.1)
  let only := src.filter fun a => !lines.contains (lineOf (gaddr s a.home a.pa))
  let s1 := touchAccs (touchAccs s o only 0) o dst 1
  let r := good.foldl (xRun s o e l k) (s1, 0, [])
  (r.1, withPoison (xFails es) r.2.2, r.2.1)

/-! ### Completion (R186, R187) -/

/-- A status word (R186). -/
def statusWord (elem leader code : Nat) (flags : Word) : Nat :=
  elem % 2 ^ 32 * 2 ^ 32 + leader % 32 * 2 ^ 20 + code % 256 * 2 ^ 12 + flags.toNat % 2 ^ 12

/-- A logged failure of the status write (R187, R314). -/
def statusLogged (s : State) (o : Op) : Option (Nat × Nat) :=
  ((loggedFails s o).find? fun x => x.2.2.1 == 2 ^ 32 - 1).map fun x => (x.1, x.2.1)

/-- The check of a status write in memory (R187). -/
def statusCheck (s : State) (o : Op) (e : EngOp) (off : Nat) : ElemAcc :=
  let a := checkElem s o e (2 ^ 32 - 1) off 8 true .write
  match statusLogged s o with
  | some (c, sub) => { a with res := .bad c sub a.va false }
  | none => a

/-- Whether, in replay, the status write fails a walk that the log does not hold. -/
def statusHeld (s : State) (o : Op) (e : EngOp) : Option Fail :=
  match e.inScratch, e.status with
  | false, some off =>
    if s.replaying (s.partOf o.fibre) && (statusLogged s o).isNone then
      (failsOf [statusCheck s o e off]).find? fun f => isWalkCause f.2.1
    else none
  | _, _ => none

/-- Writes the status word: the final CODE and the state (R187). -/
def putStatus (s : State) (o : Op) (e : EngOp) (code elem : Nat) (flags : Word) : Nat × State :=
  let w := statusWord elem (lowLane o.lanes).val code flags
  match e.status with
  | none => (code, s)
  | some off =>
    if e.inScratch then
      let a := tileBase s o off
      let s1 := if e.form = .mma then s else touchPad s o (padLines a 8) 1
      (code, s1.modCore o.core fun k => { k with scratch := k.scratch.writeN a 8 w })
    else
      let x := statusCheck s o e off
      let s := walkElems s o e [(x, true)]
      match x.res with
      | .ok home pa =>
        let a : Acc := ⟨0, off, x.va, pa, home, 8, w, 0⟩
        let s1 := writeAcc o (touchAccs s o [a] 1) a
        (code, releaseAt s1 o.core (if e.scope = Scope.team then Scope.fibre else e.scope))
      | .bad c sub va _ =>
        let f : Fail := (2 ^ 32 - 1, c, sub, va, false)
        let s1 := if isWalkCause c || c == 0x11 then postEngine s o e f else s
        (if code = 0 then c else code, logFail s1 o f)

/-- The signers of a dispatched mma complete with it: their flags settle (R196). -/
def endSigners (s : State) (mma : Nat) (err : Bool) : State :=
  s.ops.foldl (fun s q => match q.kind with
    | .sign _ m => if m = mma + 1 then s.endOp q err else s
    | _ => s) s

/-- Completion of an engine operation, its data effects done: the target examined, the status written, the arrival made, the flag
settled (R187). -/
def finishEngine (s : State) (o : Op) (e : EngOp) (code elem : Nat) (flags : Word) : State :=
  let s1 := setPresent s o.core e.cleared
  let s2 := match e.form with
    | .copy | .copySt | .copyAcc | .xform _ => releaseAt s1 o.core e.scope
    | _ => s1
  let r := putStatus s2 o e (examine s2 o.team e code) elem flags
  let s3 := engineArrive r.2 o.team o.core e r.1
  (endSigners s3 o.id (r.1 != 0)).endOp o (r.1 != 0)

/-- An earlier matrix operation of the core is in flight: they take effect one at a time, in dispatch order (R194). -/
def matrixBusy (s : State) (o : Op) : Bool :=
  s.ops.any fun q => q.core == o.core && decide (q.id < o.id) && match q.kind with
    | .engine g => g.form.isMatrix
    | _ => false

/-- Whether an operation may take effect now: its order, the presence of what it reads (R189, R191, R194, R198, R201, R202). -/
def engineReady (s : State) (o : Op) (e : EngOp) (l : LRec) : Bool :=
  match e.form with
  | .copy => !earlierMem s o
  | .copySt | .copyAcc =>
    !earlierMem s o && allPresent s o (rowLines (tileBase s o (fieldOf (nth e.desc 1 0) 31 0)) (l.ext.1 * l.z) l.pitch l.rows)
  | .wbload _ => !earlierMem s o && !matrixBusy s o
  | .mma => !matrixBusy s o && allPresent s o (mmaReads s o e)
  | .accld _ => !matrixBusy s o && allPresent s o (accLinesOf s o e l)
  | .accst _ | .acczero => !matrixBusy s o
  | .xform _ => true

/-- A record for the forms that read none. -/
def LRec.none_ : LRec := ⟨0, .rne, 0, 0, (1, 1, 1, 1), (0, 0, 0), 0⟩

/-- The staging lines that an ordered-mode write needs (R260); none available means the operation waits for its turn. -/
def stagingReady (s : State) (o : Op) (accs : List Acc) : Bool :=
  match stagingTeam s o.fibre with
  | some t =>
    let new := ((accLines s accs).map (·.1)).filter fun ln => !t.stLines.contains ln
    decide (t.stLines.length + new.length ≤ 64) || lowestTeam s t
  | none => true

/-- Claims the staging lines of an engine's writes, or turns the team to direct writing (R260). -/
def stagingClaim (s : State) (o : Op) (accs : List Acc) : State :=
  match stagingTeam s o.fibre with
  | some t =>
    let new := ((accLines s accs).map (·.1)).filter fun ln => !t.stLines.contains ln
    let s1 := if t.direct || decide (t.stLines.length + new.length ≤ 64) then s else
      t.staged.foldr (fun e s => homeWriteN s (gaddr s e.1 e.2.1) 1 e.2.2.toNat) s
    s1.modTeam o.team fun t => { t with stLines := t.stLines ++ new }
  | none => s

/-- The access of a status write in memory, when its checks pass (R187). -/
def statusAccs (s : State) (o : Op) (e : EngOp) : List Acc :=
  match e.inScratch, e.status with
  | false, some off => goodAccs [statusCheck s o e off]
  | _, _ => []

/-- Completes an operation with the failures of its elements reported. -/
def finishFails (s : State) (o : Op) (e : EngOp) (fs : List Fail) (flags : Word) : State :=
  let c := firstFail fs
  finishEngine (reportFails s o e fs) o e c.1 c.2 flags

/-- Completes a copy, when its lines and staging allow (R189-R192). -/
def completeCopy (s : State) (o : Op) (e : EngOp) (l : LRec) : State :=
  let es := copyElems s o e l
  let base := tileBase s o (fieldOf (nth e.desc 1 0) 31 0)
  let writes := (if e.form = .copySt then wholeAccs es else []) ++ statusAccs s o e
  match (copyHeld s o e l es).orElse (fun _ => statusHeld s o e) with
  | some f => noteHeld s o e f
  | none =>
    if !linesTurn s o (goodAccs es) (rowLines base (l.ext.1 * l.z) l.pitch l.rows) || !stagingReady s o writes then s
    else
      let r := runCopy (stagingClaim (walkElems s o e (es.map fun a => (a, e.form != .copy))) o writes) o e l es
      let s1 := r.1.pmCount o.core none 0x0D ((l.tile + 127) / 128)
      finishFails s1 o e r.2 0

/-- Completes a weight load (R201). -/
def completeWbload (s : State) (o : Op) (e : EngOp) (mask : Bool) : State :=
  let st := wbStream s o e mask
  let base := (bufEntry s o.core (s.viOf o.fibre) (bregIdx e.breg)).base
  match unlogged s o (loggedFails s o) (fun j => base + ((nth e.desc 0 0).toNat + j) % 2 ^ 64) (failsOf st.1) with
  | some f => noteHeld s o e f
  | none =>
    if !linesTurn s o (goodAccs st.1) [] then s
    else
      let r := runWbload (walkElems s o e (st.1.map fun a => (a, false))) o e st
      finishFails r.1 o e r.2 0

/-- Completes a transform (R204). -/
def completeXform (s : State) (o : Op) (e : EngOp) (l : LRec) (k : XForm) : State :=
  let es := xElems s o e l k
  let base := (bufEntry s o.core (s.viOf o.fibre) (bregIdx e.breg)).base
  let good := es.filter fun as => (failsOf as).isEmpty
  let accs := good.flatMap goodAccs
  let writes := (good.flatMap fun as => (goodAccs as).drop ((goodAccs as).length - 1)) ++ statusAccs s o e
  match (unlogged s o (loggedFails s o) (fun j => base + xOff (nth e.desc 0 0).toNat l.fmt j) (xFails es)).orElse
      (fun _ => statusHeld s o e) with
  | some f => noteHeld s o e f
  | none =>
    if !linesTurn s o accs [] || !stagingReady s o writes then s
    else
      let walks := es.flatMap fun as => as.zipIdx.map fun a => (a.1, a.2 + 1 == as.length)
      let r := runXform (stagingClaim (walkElems s o e walks) o writes) o e l k es
      finishFails r.1 o e r.2.1 r.2.2

/-- Completes a matrix operation that reads no memory (R198, R202). -/
def completeMatrix (s : State) (o : Op) (e : EngOp) (l : LRec) : State :=
  match e.form with
  | .mma =>
    let r := runMma s o e
    finishEngine r.1 o e 0 (2 ^ 32 - 1) r.2
  | .accld dbl =>
    if !linesTurn s o [] (accLinesOf s o e l) then s else
    let r := runAccld s o e l dbl
    finishEngine r.1 o e 0 (2 ^ 32 - 1) r.2
  | .accst dbl =>
    if !linesTurn s o [] (accLinesOf s o e l) then s else
    let r := runAccst s o e l dbl
    finishEngine r.1 o e 0 (2 ^ 32 - 1) r.2
  | .acczero => finishEngine (runAcczero s o e) o e 0 (2 ^ 32 - 1) 0
  | .copy | .copySt | .copyAcc | .wbload _ | .xform _ => s

/-- Completes an engine operation that is ready. -/
def completeEngine (s : State) (o : Op) (e : EngOp) (l : LRec) : State :=
  match e.form with
  | .copy | .copySt | .copyAcc => completeCopy s o e l
  | .wbload mask => completeWbload s o e mask
  | .xform k => completeXform s o e l k
  | .mma | .accld _ | .accst _ | .acczero => completeMatrix s o e l

/-- ENGINE_OPERATION_COMPLETE (R187): the effects of an engine operation are done and it completes: at once with CODE 0x81 or 0x05
when its record is invalid or its tile lies outside (R183, R189, R202). -/
def execEngineOperationComplete (op : Nat) (s : State) : Host.Outcome State Fault Refusal :=
  event <|
    match s.op op with
    | none => s
    | some o =>
      match o.kind with
      | .engine e =>
        let l := (parseRec e.record).getD LRec.none_
        if e.early ≠ 0 then
          if e.form.isMatrix && matrixBusy s o then s else
          match statusHeld s o e with
          | some f => noteHeld s o e f
          | none =>
            if !stagingReady s o (statusAccs s o e) then s
            else finishEngine (stagingClaim s o (statusAccs s o e)) o e e.early (2 ^ 32 - 1) 0
        else if engineReady s o e l then ifRecorded s (s.partOf o.fibre) (completeEngine s o e l) else s
      | _ => s

/-- COPY_LINE_ARRIVAL (R189, R190): the data of one scratchpad line of a copy arrives, and its presence bit is set; a line with a
failing element is written at completion. -/
def execCopyLineArrival (op line : Nat) (s : State) : Host.Outcome State Fault Refusal :=
  event <|
    match s.op op with
    | none => s
    | some o =>
      match o.kind with
      | .engine e =>
        match parseRec e.record with
        | none => s
        | some l =>
          let base := tileBase s o (fieldOf (nth e.desc 1 0) 31 0)
          let es := (copyElems s o e l).filter fun a => (padLines (base + l.spOff a.idx) l.z).contains line
          if e.form ≠ .copy ∨ e.early ≠ 0 ∨ !e.cleared.contains line ∨ e.arrived.contains line ∨ earlierMem s o ∨ !(failsOf es).isEmpty
              ∨ !linesTurn s o (goodAccs es) [line] then s
          else
            let accs := wholeAccs es
            let s0 := releaseAt s o.core e.scope
            let r := readAccs s0 (touchAccs s0 o accs 0) o (bregNt e.breg) accs
            if r.1.any (·.2.2) then s
            else
              let s1 := copyIn (touchPad r.2 o [line] 1) o e l es r.1 (· == line)
              ifRecorded s (s.partOf o.fibre) <| setPresent (s1.setOp { o with kind := .engine { e with arrived := line :: e.arrived } }) o.core [line]
      | _ => s

end Sys2Proof.Machine
end

