-- ==== Sys2Proof/Machine/Hbm.lean ====
section
/-!
DEFINITION. Sys2Proof/Machine/Hbm.lean: main memory's own events: recompression of a page, row refresh, the remap table and the error
counts (R325, R335-R341).
-/

namespace Sys2Proof.Machine

/-! ### Compressed pages (R335, R336) -/

/-- Memory with the held writes of a page performed, oldest first. -/
def heldApplied (m : Mem) (l : List (Nat × BitVec 1024 × BitVec 128)) : Mem :=
  l.foldl (fun m e => m.writeMask (e.1 * 128) 128 e.2.1.toNat e.2.2.toNat) m

/-- The dense directory of a page: spill units in sector order; none when they pass the 240 units (R336). -/
def denseDir : List Nat → Nat → Option (List (Nat × Nat))
  | [], _ => some []
  | len :: r, st =>
    if 240 < st + spillUnits len then none
    else (denseDir r (st + spillUnits len)).map fun d => (len, if spillUnits len = 0 then 0 else st) :: d

/-- The virtual address and the context at which a page of main memory is mapped: the first context whose tables map it (R265, R336). -/
def pageVa (s : State) (page : Nat) : Option (Nat × Nat) :=
  s.ctxs.keys.findSome? fun c => (vaOfPage s page 4 (fieldOf (s.ctx c).pt 51 6 * 64) 0).map fun va => (va, c)

/-- PAGE_RECOMPRESS (R336): the page is written densely and its held writes are performed; one that still does not fit gives a record with
cause 0x13 for the partition that owns the page's region, and its writes stay held. -/
def execPageRecompress (part page : Nat) (s : State) : Host.Outcome State Fault Refusal :=
  event <|
    match s.hbm.cheld.get? page with
    | none => s
    | some l =>
      if (s.hbm.cstuck.get? page).isSome || part != lineRegionPart s (page * 512) then s
      else
        let m := heldApplied s.mem l
        let lens := (List.range 256).map fun i => sectorLen (BitVec.ofNat 2048 (m.readN (page * 65536 + 256 * i) 256))
        match denseDir lens 0 with
        | some d => { s with mem := m, hbm := { s.hbm with cdir := s.hbm.cdir.set page d, cheld := s.hbm.cheld.del page } }
        | none =>
          let v := pageVa s page
          let a := v.getD (page * 65536, 0)
          postSystem { s with hbm := { s.hbm with cstuck := s.hbm.cstuck.set page v } } part
            { cause := 0x13, addr := a.1, ctx := a.2 } (v.map (·.2))

/-! ### Row activation and refresh (R337) -/

/-- RM_THRESHOLD (R337): the row of a bank is activated once more; where its count reaches TH refresh management acts. -/
def execRmThreshold (bank row : Nat) (s : State) : Host.Outcome State Fault Refusal :=
  event <|
    let n := s.hbm.acts.getD (bank * 2 ^ 17 + row) 0 + 1
    let s1 := { s with hbm := { s.hbm with acts := s.hbm.acts.set (bank * 2 ^ 17 + row) n, openRow := s.hbm.openRow.set bank row } }
    if 16384 ≤ bank || 98304 ≤ row then s
    else if n < fieldOf (s.stack (bank / 1024)).rmth 15 0 then s1 else rmThreshold s1 bank row

/-- RM_HOLD_END (R337): INT clocks after the command the bank is released. -/
def execRmHoldEnd (bank : Nat) (s : State) : Host.Outcome State Fault Refusal :=
  event <|
    match s.hbm.bankHold.get? bank with
    | some t => if t ≤ s.clock then { s with hbm := { s.hbm with bankHold := s.hbm.bankHold.del bank } } else s
    | none => s

/-- PERIODIC_REFRESH (R337): the count of the refreshed row is cleared. -/
def execPeriodicRefresh (bank row : Nat) (s : State) : Host.Outcome State Fault Refusal :=
  event { s with hbm := { s.hbm with acts := s.hbm.acts.del (bank * 2 ^ 17 + row) } }

/-! ### The remap table and the error counts (R338, R340, R361) -/

/-- A row of a channel is moved: what main memory holds of its lines is read again through ECC (R340). -/
def rowMoved (s : State) (channel pc bank row : Nat) : State :=
  let here := fun (ln : Nat) => !isRemote ln && !(s.line ln).inL3 &&
    (let p := placeOf s ln; p.chan == channel && p.pc == pc && p.bank == bank && p.row == row)
  ((s.hbm.errs.keys ++ s.lines.keys).dedup.filter here).foldl eccRead s

/-- REMAP_ADD (R340, R361): a row moves to a spare row, which the entry names; at most 64 rows of a channel. Which spare row is used the spec
does not say, so it is a free value (log entry 8). -/
def execRemapAdd (channel pc bank row : Nat) (s : State) : Host.Outcome State Fault Refusal :=
  event <|
    let st := channel / 32
    let mine := (s.stack st).remap.filter fun e => e.1 == channel
    if !srcPf0 s then answer s 2 0
    else if 512 ≤ channel || 2 ≤ pc || 16 ≤ bank || 98304 ≤ row then answer s 4 0
    else if 64 ≤ mine.length then answer s 2 0
    else
      let f := s.drawFree
      let spare := fieldOf f.1 16 0
      answer (rowMoved (f.2.modStack st fun k => { k with remap := k.remap ++ [(channel, pc, bank, row, spare)] }) channel pc bank row) 0
        (BitVec.ofNat 64 spare)

/-- HBM.ERR as it reads (R338). -/
def errValue (k : Stack) : DWord :=
  BitVec.ofNat 64 (k.ce % 2 ^ 32 * 2 ^ 32 + k.ue % 2 ^ 16 * 2 ^ 16 + if k.rmbad then 2 else 0)

/-- HBM_ERR_READ (R338): a read of HBM.ERR clears CE and UE. -/
def execHbmErrRead (stack : Nat) (s : State) : Host.Outcome State Fault Refusal :=
  event ((answer s 0 (errValue (s.stack stack))).modStack stack fun k => { k with ce := 0, ue := 0 })

end Sys2Proof.Machine
end

