-- ==== Sys2Proof/Machine/Fabric.lean ====
section
/-!
DEFINITION. Sys2Proof/Machine/Fabric.lean: the Guyline links and the time of the management port (R352-R354, R360).
-/

namespace Sys2Proof.Machine

/-- Changes a port. -/
def modPort (s : State) (n : Nat) (g : Port → Port) : State :=
  { s with fabric := { s.fabric with ports := s.fabric.ports.upd n Port.init g } }

/-- LINK_FAILURE (R354): the link goes down and retrains; LINKTO counts from its first failure. -/
def execLinkFailure (port : Nat) (s : State) : Host.Outcome State Fault Refusal :=
  event (modPort s port fun p => { p with up := false, failed := true, downAt := if p.failed then p.downAt else s.mgmt.gts.toNat })

/-- LINK_RETRAINED (R354): the link is up again; its unacknowledged flits have been resent in order. -/
def execLinkRetrained (port : Nat) (s : State) : Host.Outcome State Fault Refusal :=
  event (modPort s port fun p => if p.failed then { p with up := true, failed := false, resend := 0 } else p)

/-- Whether an enabled interface of a partition has a valid buffer homed at a device (R282, R354). -/
def homedAt (s : State) (p dev : Nat) : Bool :=
  s.vis.any fun e => e.2.en && e.2.part == p &&
    (List.range (2 ^ min 20 (fieldOf (s.ctx e.1).bt 4 0))).any fun i =>
      decide (2 ≤ i) && (let b := parseEntry (entryBits s e.1 i); b.valid && b.home == dev)

/-- A device has become unreachable: a SYSTEM record for every partition with a buffer homed there (R354). -/
def lostDevice (s : State) (dev : Nat) : State :=
  (List.range 8).foldl (fun s p =>
    if (s.part p).cfg.getLsbD 8 && homedAt s p dev then postSystem s p { cause := 0x0A } none else s) s

/-- A route-table entry that lists some ports (R363). -/
def routeOf (l : List Nat) : DWord :=
  BitVec.ofNat 64 (l.length + (l.zipIdx.map fun e => e.1 % 16 * 2 ^ (4 + 4 * e.2)).sum)

/-- LINK_TIMEOUT (R354): a link not up again within LINKTO milliseconds leaves every route entry. -/
def execLinkTimeout (port : Nat) (s : State) : Host.Outcome State Fault Refusal :=
  event <|
    let p := s.fabric.ports.getD port Port.init
    if p.up || decide (s.mgmt.gts.toNat < p.downAt + s.fabric.linkTo * 10 ^ 6) then s
    else
      let gone := (s.fabric.routes.filter fun e => (routePorts e.2).contains port && (routePorts e.2).all fun q => q == port).map (·.1)
      let cut := fun (_ : Nat) (x : DWord) => if (routePorts x).contains port then routeOf ((routePorts x).filter fun q => q != port) else x
      gone.foldl lostDevice { s with fabric := { s.fabric with routes := s.fabric.routes.mapVals cut } }

/-- FLIT_CRC_RETRY (R352): a flit whose CRC fails is sent again; until it is acknowledged it counts among those to resend. -/
def execFlitCrcRetry (port : Nat) (s : State) : Host.Outcome State Fault Refusal :=
  event (modPort s port fun p => { p with resend := p.resend + 1 })

/-- The last credit of a virtual channel of a port is taken: the channel is full and stalls its own traffic until a credit returns (R352). -/
def creditsOut (port vc : Nat) (s : State) : State :=
  modPort s port fun p => if p.stalled.contains vc || 5 ≤ vc then p else { p with stalled := p.stalled ++ [vc] }

/-- GUYLINE_CREDIT_RETURN (R352): traffic of the virtual channel goes on; with VC 3, messages kept for the overflow store are sent again
(R356). -/
def execGuylineCreditReturn (port vc : Nat) (s : State) : Host.Outcome State Fault Refusal :=
  event <|
    let s1 := modPort s port fun p => { p with stalled := p.stalled.filter (· != vc) }
    if vc = 3 then s1.fabric.retry.foldl arrive { s1 with fabric := { s1.fabric with retry := [] } } else s1

/-- PTP_TIME_UPDATE (R360): GTS follows the grandmaster by slewing; a correction above 1 ms is marked, and slewed only in clocks in which
no partition runs a recording mode. -/
def execPtpTimeUpdate (time : Nat) (s : State) : Host.Outcome State Fault Refusal :=
  event <|
    let d : Int := (time : Int) - (s.mgmt.gts.toNat : Int)
    s.modMgmt fun m => { m with slew := 9500 * d, slewBig := decide (1000000 < d.natAbs) }

end Sys2Proof.Machine
end

