-- ==== Sys2Proof/Machine/Mgmt.lean ====
section
/-!
DEFINITION. Sys2Proof/Machine/Mgmt.lean: configuration registers, invalidations, the CXL.io registers, manifests, attestation, sessions and
the request rings (R9, R234, R235, R253, R271, R272, R281, R284, R291, R295, R309, R325, R330, R338, R343, R348, R353, R355, R358,
R359, R361-R366, R380).
-/

namespace Sys2Proof.Machine

/-! ### Reading configuration registers (R363) -/

/-- STATE of a partition's undo ring as URSTAT shows it: RESTORING also while a REPLAY restores (R348). -/
def urCode (s : State) (p : Nat) : Nat :=
  if (s.part p).replayDue.isSome && atBoundary s p then 5
  else
    match (s.part p).urState with
    | .idle => 0
    | .capture => 1
    | .guarded => 2
    | .noprot => 3
    | .aborting => 4
    | .restoring => 5
    | .failed => 6

/-- A sharing-group word (R363). -/
def groupWord (g : Nat × List DWord) (w : Nat) : DWord := if w = 0 then BitVec.ofNat 64 g.1 else nth g.2 (w - 1) 0

/-- The value that CFGRD of a register returns; none for a space or instance that does not exist (R363). -/
def cfgValue (s : State) (space i : Nat) : Option DWord :=
  let t := s.part i
  let q := s.queue (i / 4)
  let m := s.mbox (i / 4)
  let part := fun (x : DWord) => if i < 8 then some x else none
  let ctx := fun (x : DWord) => if i < 65536 then some x else none
  match space with
  | 0x00 => part (pctlValue t)
  | 0x01 => part t.cfg
  | 0x02 => if i < 4096 then some (region s i) else none
  | 0x03 => part t.rrctl
  | 0x04 => part t.urctl
  | 0x05 => if i < 4 then some (vget s.mgmt.fwWords i 0) else none
  | 0x06 => if i < 16 then some (s.stack i).rmth else none
  | 0x07 => part t.rrbase
  | 0x08 => part t.urbase
  | 0x09 => if i < 64 then some (vget (s.part (i / 8)).rrbp (i % 8) 0) else none
  | 0x0A => part (BitVec.ofNat 64 (t.rrTail % 2 ^ 32 * 2 ^ 32 + t.rrCairn % 2 ^ 32))
  | 0x0B => part (BitVec.ofNat 64 (t.twpg % 2 ^ 32))
  | 0x0C => part (BitVec.ofNat 64 (t.cairn % 2 ^ 32 * 2 ^ 32 + (if t.xdev then 4 else 0) + (if t.ended then 2 else 0) + if t.anclost then 1 else 0))
  | 0x0D => part (BitVec.ofNat 64 (t.urTail % 2 ^ 32 * 2 ^ 32 + t.urEpst % 2 ^ 32))
  | 0x0E => part (BitVec.ofNat 64 (urCode s i * 2 ^ 5 + t.urEpoch.toNat * 2 ^ 3 + (if t.urFail then 4 else 0) + if t.unprot then 2 else 0))
  | 0x10 => ctx (s.ctx i).bt
  | 0x11 => ctx (s.ctx i).pt
  | 0x12 => ctx (s.ctx i).cf
  | 0x13 => if i < 65536 && i % 4 < 3 then some (nth [q.base, q.cfg, q.tailp] (i % 4) 0) else none
  | 0x14 => if i < 65536 then some (nth [m.cfg, m.ofs, BitVec.ofNat 64 (m.tail * 2 ^ 32 + m.head), 0] (i % 4) 0) else none
  | 0x15 => if i < 8 * 65536 && i % 8 < 6 then some (groupWord (s.fabric.groups.getD (i / 8) (0, [])) (i % 8)) else none
  | 0x16 => if i < 320 then some (s.fabric.routes.getD i 0) else none
  | 0x17 => if i < 512 then some ((s.part (i / 64)).slices.getD (i % 64) 0) else none
  | 0x18 => if i < 64 then some (s.vi i).cfg else none
  | _ => none

/-- Whether a virtual function may read a register: one of its own partition, context, queues and mailboxes (R363). -/
def cfgOwn (s : State) (u space i : Nat) : Bool :=
  let p := (s.vi u).part
  if space ≤ 0x01 || (0x03 ≤ space && space ≤ 0x04) || (0x07 ≤ space && space ≤ 0x08) || (0x0A ≤ space && space ≤ 0x0E) then i == p
  else if space = 0x09 then i / 8 == p
  else if space = 0x02 then fieldOf (region s i) 61 59 == p
  else if 0x10 ≤ space && space ≤ 0x12 then i == u
  else if space = 0x13 then (s.queue (i / 4)).vi == u
  else if space = 0x14 then (s.mbox (i / 4)).ctx == u
  else if space = 0x17 then i / 64 == p
  else false

/-- Whether the source may read a register (R362, R363). -/
def cfgMay (s : State) (space i : Nat) : Bool :=
  match s.mgmt.src with
  | .pf0 => true
  | .mgmt => true
  | .vf u => cfgOwn s u space i
  | .session u => cfgOwn s u space i

/-- CFGRD (R363). -/
def execCfgrd (space inst : Nat) (s : State) : Host.Outcome State Fault Refusal :=
  event <|
    match cfgValue s space inst with
    | some x => if cfgMay s space inst then answer s 0 x else answer s 4 0
    | none => answer s 4 0

/-! ### Writing configuration registers (R363) -/

/-- What a write gives: the state, or the status of a refusal. -/
abbrev CfgWrite := State ⊕ Nat

/-- Whether a context has anything bound on a partition: a grid, a fibre, or a saved context with fibres. -/
def partBound (s : State) (p : Nat) : Bool :=
  !atBoundary s p || !(s.fibresOf p).isEmpty || (s.part p).saved.any fun e => !e.2.fibres.isEmpty

/-- Whether the context of an interface is bound. -/
def viBound (s : State) (v : Nat) : Bool :=
  (s.grids.any fun e => e.2.vi == v) || s.parts.any fun e => match e.2.saved.get? v with
    | some x => !x.fibres.isEmpty
    | none => false

/-- PCTL (R5, R234): a refused value leaves every field; otherwise the fields that the mask selects wait for their moment, and one that it does
not select keeps a change that waits. DESIGN CHOICE (log entry 48): a write that carries the replay mode already in effect changes no MODE
and is accepted, and it leaves the return from that mode, which waits for the boundary, as it is. -/
def writePctl (s : State) (p : Nat) (x mask : DWord) : CfgWrite :=
  let t := s.part p
  let m := fieldOf x 2 0
  let w := fieldOf x 13 8
  let q := fieldOf x 19 16
  if (m ≠ t.mode && (m % 4 == 3 || m % 4 == 2 || s.inReplayMode p)) || w < 16 || 40 < w then .inr 2
  else
    let mode := if fieldOf mask 2 0 = 0 || s.inReplayMode p then t.nextMode else if m = t.mode then none else some m
    let now := t.nextWd.getD (t.wdlog, t.qlog)
    let wq := (if fieldOf mask 13 8 = 0 then now.1 else w, if fieldOf mask 19 16 = 0 then now.2 else q)
    let s1 := s.modPart p fun t => { t with nextMode := mode, nextWd := if wq = (t.wdlog, t.qlog) then none else some wq }
    .inl (if atBoundary s p then applyMode s1 p else s1)

/-- Partition configuration (R36, R358). -/
def writePart (s : State) (p : Nat) (x : DWord) : CfgWrite :=
  let new := x &&& 0xFDFF#64
  let die := fun (q : Nat) => fieldOf (if q = p then new else (s.part q).cfg) 7 0
  let en := fun (q : Nat) => (if q = p then new else (s.part q).cfg).getLsbD 8
  let ok := (List.range 8).all fun q => !en q || (die q != 0 && (List.range 8).all fun r => r == q || !en r || Nat.land (die q) (die r) == 0)
  if !ok || (new != (s.part p).cfg && partBound s p) then .inr 2
  else .inl (s.modPart p fun t => { t with cfg := new, cycle := if !t.cfg.getLsbD 8 && new.getLsbD 8 then 0 else t.cycle })

/-- The DRAM that a region takes of each stack, in bytes of a channel (R325). -/
def extentSize (r : DWord) : Nat := (if r.getLsbD 62 then 320 else 512) * 2 ^ 20 / setSize (fieldOf r 8 0) / 32

/-- The extents taken of a stack: start and size of each. -/
def extentsOf (s : State) (st : Nat) : List (Nat × Nat) :=
  (s.hbm.extents.filter fun e => e.1 % 16 == st).map fun e => (e.2, extentSize (region s (e.1 / 16)))

/-- The lowest free extent of a stack of a given size; rows 0 to 98,303 of each bank, 96 MiB a channel times 32 (R325, R327). -/
def freeExtent (s : State) (st n : Nat) : Option Nat :=
  let used := extentsOf s st
  (0 :: used.map fun e => e.1 + e.2).mergeSort.find? fun b =>
    decide (b + n ≤ 3 * 2 ^ 30) && used.all fun e => decide (b + n ≤ e.1 ∨ e.1 + e.2 ≤ b)

/-- The stacks of a class's set (R287). -/
def setStacks (cls : Nat) : List Nat := (List.range (setSize cls)).map (bitsOf cls 8 5 * setSize cls + ·)

/-- Whether a page-table leaf maps some page of a region, or a core, another device or a host port holds a dirty copy of one of its lines
(R325). -/
def regionInUse (s : State) (n : Nat) : Bool :=
  (s.cores.any fun e => e.2.l1.any fun l => l.1 / 2 ^ 22 == n && l.2.dirty != 0) ||
    (s.lines.any fun l => l.1 / 2 ^ 22 == n && (mdState l.2.md == 3 || mdState l.2.md == 4 || (mdState l.2.md == 5 && l.2.md.getLsbD 4))) ||
    s.ctxs.any fun e => (List.range 8192).any fun i => mapsPa s (n * 2 ^ 29 + i * 65536) 4 (fieldOf e.2.pt 51 6 * 64)

/-- Every line of a region becomes a free value, and no core keeps a copy of one, as after a change while the region is in use (R325). -/
def freeRegion (s : State) (n : Nat) : State :=
  (List.range (2 ^ 22)).foldl (fun s i =>
    let d := s.drawFree
    { d.2 with mem := d.2.mem.writeN ((n * 2 ^ 22 + i) * 128) 128 d.1.toNat })
    { s with cores := s.cores.mapVals fun _ (k : Core) => { k with l1 := k.l1.filter fun l => l.1 / 2 ^ 22 != n } }

/-- MEMRGN (R325): V written to 1 takes the region's DRAM. -/
def writeRegion (s : State) (n : Nat) (x : DWord) : CfgWrite :=
  let old := region s n
  let new := x &&& 0xF8000000000001FF#64
  if new = old then .inl s
  else
    let s0 := if old.getLsbD 63 && regionInUse s n then freeRegion s n else s
    let put := fun (s : State) (r : DWord) => { s with hbm := { s.hbm with regions := s.hbm.regions.set n r } }
    let give := fun (s : State) => { s with hbm := { s.hbm with extents := s.hbm.extents.filter fun e => e.1 / 16 != n } }
    if !new.getLsbD 63 then .inl (put (give s0) new)
    else if old.getLsbD 63 && fieldOf old 62 62 == fieldOf new 62 62 && fieldOf old 8 0 == fieldOf new 8 0 then .inl (put s0 new)
    else
      let cls := fieldOf new 8 0
      let s1 := give s0
      let got := if classValid cls then (setStacks cls).map fun st => (st, freeExtent s1 st (extentSize new)) else [(0, none)]
      if got.any fun e => e.2.isNone then .inr 4
      else
        let take := fun (m : AMap Nat) (e : Nat × Option Nat) => m.set (n * 16 + e.1) (e.2.getD 0)
        .inl (put { s1 with hbm := { s1.hbm with extents := got.foldl take s1.hbm.extents } } new)

/-- A field clamped to a default outside its range. -/
def orElseIn (x lo hi d : Nat) : Nat := if lo ≤ x ∧ x ≤ hi then x else d

/-- RRCTL (R309). -/
def normRrctl (x : DWord) : DWord :=
  BitVec.ofNat 64 (orElseIn (fieldOf x 47 40) 1 128 16 * 2 ^ 40 + fieldOf x 39 32 * 2 ^ 32 + max 256 (fieldOf x 31 16) * 2 ^ 16 + fieldOf x 0 0)

/-- URCTL (R343). -/
def normUrctl (x : DWord) : DWord := BitVec.ofNat 64 (orElseIn (fieldOf x 15 8) 1 128 16 * 2 ^ 8 + fieldOf x 1 0)

/-- FAIL cleared: FAILED goes to IDLE (R348). -/
def clearFail (t : Part) : Part := { t with urFail := false, urState := if t.urState = .failed then .idle else t.urState }

/-- CTXCF (R281, R292): a confidential context gets a key; one that ceases to be loses it and its session. -/
def writeConf (s : State) (c : Nat) (x : DWord) : State :=
  let on := x.getLsbD 0
  let s1 := s.modCtx c fun k =>
    { k with cf := x &&& 1#64, key := on, session := if on then k.session else none, granted := k.granted && !on }
  if on then s1 else s1.modMgmt fun m => { m with sessions := m.sessions.filter fun e => e.2 != c }

/-- A work-queue dword (R235). -/
def writeQueue (s : State) (i : Nat) (x : DWord) : State :=
  s.modQueue (i / 4) fun q =>
    match i % 4 with
    | 0 => { q with base := x }
    | 1 => { q with cfg := BitVec.ofNat 64 (fieldOf x 25 24 * 2 ^ 24 + fieldOf x 21 16 * 2 ^ 16 + fieldOf x 10 8 * 2 ^ 8 + max 4 (fieldOf x 3 0)) }
    | _ => { q with tailp := x }

/-- Clearing V of a mailbox ends its held arrivals in error at their senders, and its waiting msg.recv, of bound and of swapped-out
contexts, in error (R355). -/
def closeMbox (s : State) (n : Nat) : State :=
  let keep := fun (l : List Msg) => l.filter fun m => m.mbox != n
  let stop := fun (_ : Nat) (f : Fibre) => if f.wait = some (.msg n) then { f with recvErr := true } else f
  let out := (s.fabric.heldPage ++ s.fabric.overflow ++ s.fabric.retry).filter fun m => m.mbox == n
  out.foldl (fun s m => endSend s m true)
    { s with
      fabric := { s.fabric with overflow := keep s.fabric.overflow, heldPage := keep s.fabric.heldPage, retry := keep s.fabric.retry }
      fibres := s.fibres.mapVals stop
      parts := s.parts.mapVals fun _ (t : Part) =>
        { t with saved := t.saved.mapVals fun _ (v : Saved) => { v with fibres := v.fibres.mapVals stop } } }

/-- A mailbox dword (R355). That an entry is written only while V = 0 is the driver's rule: the table refuses no write. -/
def writeMbox (s : State) (i : Nat) (x : DWord) : CfgWrite :=
  let n := i / 4
  let m := s.mbox n
  let lg := min 20 (max 4 (fieldOf x 28 24))
  let cfg := BitVec.ofNat 64 (fieldOf x 63 60 * 2 ^ 60 + fieldOf x 45 30 * 2 ^ 30 + lg * 2 ^ 24 + fieldOf x 19 0)
  if 2 ≤ i % 4 then .inl s
  else if i % 4 = 0 then
    let s1 := s.modMbox n fun m => { m with cfg := cfg }
    .inl (if m.valid && !cfg.getLsbD 63 then closeMbox s1 n else s1)
  else .inl (s.modMbox n fun m => { m with ofs := x })

/-- A sharing-group word (R330, R363). -/
def writeGroup (s : State) (i : Nat) (x : DWord) : CfgWrite :=
  let g := s.fabric.groups.getD (i / 8) (0, List.replicate 5 0)
  let ws := if g.2.length = 5 then g.2 else List.replicate 5 0
  let put := fun (g : Nat × List DWord) => (Sum.inl : State → CfgWrite) { s with fabric := { s.fabric with groups := s.fabric.groups.set (i / 8) g } }
  if i % 8 = 0 then put (fieldOf x 5 0, ws)
  else put (g.1, ws.set (i % 8 - 1) (x &&& 0x7FFFFFFFFFFFFFFF#64))

/-- A route-table entry (R353, R363). -/
def writeRoute (s : State) (i : Nat) (x : DWord) : CfgWrite :=
  .inl { s with fabric := { s.fabric with routes := s.fabric.routes.set i (x &&& 0xFFFF7#64) } }

/-- A slice-table entry (R253, R363): a valid one is 200 us to 2^20 us long. -/
def writeSlice (s : State) (i : Nat) (x : DWord) : CfgWrite :=
  let new := x &&& 0x801FFFFF0000003F#64
  let len := fieldOf new 52 32
  if new.getLsbD 63 && (len < 200 || 2 ^ 20 < len) then .inr 2
  else .inl (s.modPart (i / 64) fun t => { t with slices := if new = 0 then t.slices.del (i % 64) else t.slices.set (i % 64) new })

/-- The virtual-interface configuration (R359): CTXAREA and PART stand while the interface's context is bound. -/
def writeVi (s : State) (n : Nat) (x : DWord) : CfgWrite :=
  let new := x &&& 0xFFFFFFFFFFFFF087#64
  let old := (s.vi n).cfg
  if viBound s n && (fieldOf new 63 12 != fieldOf old 63 12 || fieldOf new 2 0 != fieldOf old 2 0) then .inr 2
  else .inl (s.modVi n fun v => { v with cfg := new })

/-- Writes a register: x is the merged value, ones the bits written as 1 under the mask, for W1C fields, mask the bits that the write selects
(R9, R363). -/
def cfgPut (s : State) (space i : Nat) (x ones mask : DWord) : CfgWrite :=
  let part := fun (g : Part → Part) => (Sum.inl : State → CfgWrite) (s.modPart i g)
  let base := x &&& 0x000FFFFFC0000000#64
  match space with
  | 0x00 => writePctl s i x mask
  | 0x01 => writePart s i x
  | 0x02 => writeRegion s i x
  | 0x03 => part fun t => { t with rrctl := normRrctl x }
  | 0x04 => part fun t => { t with urctl := normUrctl x }
  | 0x06 => .inl (s.modStack i fun k => { k with rmth := BitVec.ofNat 64 (max 16 (fieldOf x 15 0)) })
  | 0x07 => part fun t => { t with rrbase := base }
  | 0x08 => part fun t => { t with urbase := base }
  | 0x09 => .inl (s.modPart (i / 8) fun t => { t with rrbp := vset t.rrbp (i % 8) (x &&& 0xFF803FFFFFFFFFFF#64) })
  | 0x0C => part fun t => { t with anclost := t.anclost && !ones.getLsbD 0 }
  | 0x0E => part fun t =>
      let t1 := if ones.getLsbD 2 then clearFail t else t
      { t1 with unprot := t1.unprot && !ones.getLsbD 1 }
  | 0x10 => .inl (s.modCtx i fun k => { k with bt := x &&& 0x000FFFFFFFFFF01F#64 })
  | 0x11 => .inl (s.modCtx i fun k => { k with pt := x &&& 0x000FFFFFFFFFFFC0#64 })
  | 0x12 => .inl (writeConf s i x)
  | 0x13 => .inl (writeQueue s i x)
  | 0x14 => writeMbox s i x
  | 0x15 => writeGroup s i x
  | 0x16 => writeRoute s i x
  | 0x17 => writeSlice s i x
  | 0x18 => writeVi s i x
  | _ => .inl s

/-- CFGWR (R363): (old AND NOT mask) OR (value AND mask), as one write; only from PF0. -/
def execCfgwr (space inst : Nat) (value mask : BitVec 64) (s : State) : Host.Outcome State Fault Refusal :=
  event <|
    match cfgValue s space inst with
    | none => answer s 4 0
    | some old =>
      if !srcPf0 s then answer s 2 0
      else
        match cfgPut s space inst ((old &&& ~~~mask) ||| (value &&& mask)) (value &&& mask) mask with
        | .inl s1 => answer s1 0 0
        | .inr st => answer s st 0

/-! ### Invalidations (R284, R291, R336) -/

/-- The buffer-table index through which an operation in flight accesses memory. -/
def OpKind.bufIdx : OpKind → Option Nat
  | .load _ b _ _ _ _ => some b.idx
  | .uload _ b _ _ => some b.idx
  | .store _ b _ => some b.idx
  | .atom _ _ _ b _ _ => some b.idx
  | .aacc _ _ b => some b.idx
  | _ => none

/-- Whether an access that used an entry of the range is still in flight: BTINVAL completes only after it (R284). -/
def btBusy (s : State) (ctx first count : Nat) : Bool :=
  s.ops.any fun o => s.viOf o.fibre == ctx && match o.kind.bufIdx with
    | some i => decide (first ≤ i ∧ i < first + count)
    | none => false

/-- BTINVAL (R284): every core drops the entries. It waits while an access that used one is in flight. -/
def execBtinval (ctx first count : Nat) (s : State) : Host.Outcome State Fault Refusal :=
  event <|
    if !srcMay s ctx || 65536 ≤ ctx then answer s 4 0
    else if btBusy s ctx first count then s
    else
      let mine := fun (k : Nat) => decide (ctx * 2 ^ 20 + first ≤ k ∧ k < ctx * 2 ^ 20 + min (first + count) (2 ^ 20))
      let cut := fun (_ : Nat) (c : Core) => { c with btc := c.btc.filter fun e => !mine e.1 }
      answer { s with cores := s.cores.mapVals cut } 0 0

/-- Whether a page of a context meets a range of addresses; length 0 is every address (R363). -/
def inRange (va len page size : Nat) : Bool := len == 0 || decide (page * size < va + len ∧ va < page * size + size)

/-- A held write of a compressed page is performed at the page's new location (R336). -/
def releasePage (s : State) (page new : Nat) : State :=
  let l := s.hbm.cheld.getD page []
  let s1 := { s with hbm := { s.hbm with cheld := s.hbm.cheld.del page, cstuck := s.hbm.cstuck.del page } }
  l.foldl (fun s e => homeWrite s (new * 512 + e.1 % 512) e.2.1 e.2.2) s1

/-- A stuck page whose address a context's translation has led elsewhere, to an uncompressed region: its held writes go there (R336). -/
def movePage (s : State) (page ctx va : Nat) : State :=
  match walk s ctx va with
  | .ok e big =>
    let new := leafPa e big va / 65536
    if new ≠ page && !(region s (new / 2 ^ 13)).getLsbD 62 then releasePage s page new else s
  | .bad .. => s

/-- The stuck pages whose addresses an invalidation covers are looked up again (R336). -/
def movePages (s : State) (ctx va len : Nat) : State :=
  s.hbm.cstuck.foldl (fun s e =>
    match e.2 with
    | some (at_, c) => if c = ctx && inRange va len (at_ / 65536) 65536 then movePage s e.1 c at_ else s
    | none => s) s

/-- TLBINVAL (R291): every TLB drops the matching entries, and words that hold the result of a walk ask again. -/
def execTlbinval (ctx va len : Nat) (s : State) : Host.Outcome State Fault Refusal :=
  event <|
    if !srcMay s ctx || 65536 ≤ ctx then answer s 4 0
    else
      let hit := fun (t : TlbEntry) => t.ctx == ctx && inRange va len t.page (if t.big then 2 ^ 29 else 2 ^ 16)
      let cut := fun (_ : Nat) (c : Core) => { c with tlb := c.tlb.filter fun t => !hit t }
      let again := fun (k : Nat) (f : Fibre) =>
        if s.viOf k = ctx then { f with walkRes := f.walkRes.filter fun r => !inRange va len r.1 (2 ^ 16) } else f
      let s1 := { s with cores := s.cores.mapVals cut, fibres := s.fibres.mapVals again }
      answer (movePages s1 ctx va len) 0 0

/-! ### CXL.io registers (R9, R271, R295, R338, R348, R380) -/

/-- A ring register's low half: BASE, LOG within its range or its default, and the bits below that are RW. -/
def normRing (x : DWord) (lo hi d bits : Nat) : DWord :=
  BitVec.ofNat 64 (fieldOf x 63 12 * 2 ^ 12 + orElseIn (fieldOf x 11 8) lo hi d * 2 ^ 8 + x.toNat % 2 ^ bits)

/-- FQCFG_WRITE (R271, R272): held records are tried again. -/
def execFqcfgWrite (vi : Nat) (value : BitVec 64) (s : State) : Host.Outcome State Fault Refusal :=
  event <|
    let s1 := s.modVi vi fun v => { v with fqcfg := normRing value 6 15 6 1 }
    postHeld s1 vi (s1.vi vi).fqHeld.length

/-- FQPTR_WRITE (R271, R272): HEAD moves, and held records are tried again. -/
def execFqptrWrite (vi : Nat) (value : BitVec 64) (s : State) : Host.Outcome State Fault Refusal :=
  event <|
    let s1 := s.modVi vi fun v => { v with fqHead := value.setWidth 16 }
    postHeld s1 vi (s1.vi vi).fqHeld.length

/-- FQSTAT_READ (R271): LOST and HELD; LOST becomes zero. -/
def execFqstatRead (vi : Nat) (s : State) : Host.Outcome State Fault Refusal :=
  event <|
    let v := s.vi vi
    (answer s 0 (BitVec.ofNat 64 (v.fqLost % 2 ^ 32 * 2 ^ 32 + v.fqHeld.length % 2 ^ 16 * 2 ^ 16))).modVi vi fun v => { v with fqLost := 0 }

/-- SRSTAT_READ (R295): LOST, which becomes zero. -/
def execSrstatRead (s : State) : Host.Outcome State Fault Refusal :=
  event ((answer s 0 (BitVec.ofNat 64 (s.mgmt.summary.lost % 2 ^ 32 * 2 ^ 32))).modMgmt fun m =>
    { m with summary := { m.summary with lost := 0 } })

/-- TRSTAT_READ (R380): LOST, which becomes zero, and TRIG. -/
def execTrstatRead (vi : Nat) (s : State) : Host.Outcome State Fault Refusal :=
  event <|
    let v := s.vi vi
    (answer s 0 (BitVec.ofNat 64 (v.trLost % 2 ^ 32 * 2 ^ 32 + v.trTrig.toNat))).modVi vi fun v => { v with trLost := 0 }

/-- TRPTR_WRITE (R380): software has consumed records; a Lantern that waits goes on. -/
def execTrptrWrite (vi : Nat) (value : BitVec 64) (s : State) : Host.Outcome State Fault Refusal :=
  event (s.modVi vi fun v => { v with trHead := value.setWidth 32 })

/-- URSTAT_FAIL_CLEAR (R348). -/
def execUrstatFailClear (part : Nat) (s : State) : Host.Outcome State Fault Refusal := event (s.modPart part clearFail)

/-- REGISTER_WRITE (R9): a register without a row of its own, by its access codes. -/
def execRegisterWrite (reg : IoReg) (inst : Nat) (value : BitVec 64) (s : State) : Host.Outcome State Fault Refusal :=
  event <|
    let irq := value &&& 0x1FFFF#64
    let sum := fun (g : Summary → Summary) => s.modMgmt fun m => { m with summary := g m.summary }
    let ring := fun (g : ReqRing → ReqRing) => s.modMgmt fun m => { m with rings := m.rings.upd inst ReqRing.init g }
    match reg with
    | .fqirq => s.modVi inst fun v => { v with fqirq := irq }
    | .srcfg => sum fun x => { x with cfg := normRing value 8 15 8 1 }
    | .srptr => sum fun x => { x with head := value.setWidth 16 }
    | .srirq => sum fun x => { x with irq := irq }
    | .trcfg => s.modVi inst fun v => { v with trcfg := normRing value 3 15 7 2 }
    | .trstat => s.modVi inst fun v => { v with trTrig := v.trTrig &&& ~~~(value.setWidth 16) }
    | .trirq => s.modVi inst fun v => { v with trirq := irq }
    | .mrcfg => ring fun r => { r with cfg := normRing value 4 10 4 1 }
    | .hbmRmth => s.modStack inst fun k => { k with rmth := BitVec.ofNat 64 (max 16 (fieldOf value 15 0)) }
    | .hbmRmint => s.modStack inst fun k => { k with rmint := BitVec.ofNat 64 (max 64 (fieldOf value 11 0)) }
    | .hbmRmctl => s.modStack inst fun k => { k with rmctl := irq }
    | .hbmAlert => s.modStack inst fun k => { k with alert := k.alert &&& ~~~(value &&& 0xC000000000000000#64) }
    | .hbmQth => s.modStack inst fun k => { k with qth := BitVec.ofNat 64 (min 128 (max 8 (fieldOf value 7 0))) }
    | .hbmErr => s.modStack inst fun k => { k with rmbad := k.rmbad && !value.getLsbD 1 }

/-! ### Identity (R361, R364-R366) -/

/-- INFO (R361): the packing of the result is not given. -/
def execInfo (s : State) : Host.Outcome State Fault Refusal :=
  event (answer s 0 (Config.infoWord (s.fabric.device + 320 * s.mgmt.fwVersion)))

/-- STORE_MANIFEST (R361, R364): the signature stands in the last 5716 bytes; at most 16 manifests of at most 1024 entries. -/
def execStoreManifest (bytes : List (BitVec 8)) (s : State) : Host.Outcome State Fault Refusal :=
  event <|
    let n := bytes.length - 5716
    if !srcPf0 s then answer s 2 0
    else if bytes.length < 5716 || n % 24 ≠ 0 || 1024 * 24 < n || 16 ≤ s.mgmt.manifests.length then answer s 4 0
    else if !s.mgmt.ownerKey || !Config.signatureValid 1 bytes then answer s 6 0
    else
      (answer s 0 (BitVec.ofNat 64 s.mgmt.manifests.length)).modMgmt fun m => { m with manifests := m.manifests ++ [bytes.take n] }

/-- The field a manifest entry names; none for an unknown space or instance (R364). -/
def manifestField (s : State) (ident : Nat) : Option DWord :=
  if bitsOf ident 63 56 ≤ 6 && bitsOf ident 55 16 == 0 then cfgValue s (bitsOf ident 63 56) (bitsOf ident 15 0) else none

/-- Whether entry i of a manifest differs from the device (R364). -/
def entryDiffers (s : State) (m : List Byte) (i : Nat) : Bool :=
  let d := fun (k : Nat) => bytesNat ((m.drop (24 * i + 8 * k)).take 8)
  match manifestField s (d 0) with
  | some x => Nat.land x.toNat (d 1) != d 2
  | none => true

/-- The COMPARE-MANIFEST result of a manifest (R364). -/
def compareResult (s : State) (m : List Byte) : Nat :=
  ((List.range (m.length / 24)).find? (entryDiffers s m)).getD 0xFFFFFFFF

/-- COMPARE_MANIFEST (R364). -/
def execCompareManifest (index : Nat) (s : State) : Host.Outcome State Fault Refusal :=
  event <|
    match s.mgmt.manifests[index]? with
    | some m => answer s 0 (BitVec.ofNat 64 (compareResult s m))
    | none => answer s 4 0

/-- The 256 bytes of a report (R366). -/
def reportBytes (s : State) (nonce : BitVec 256) (p : Nat) : List Byte :=
  let m := s.mgmt
  natBytes 4 0x00010001 ++ natBytes 32 nonce.toNat ++ natBytes 2 s.fabric.device ++ natBytes 2 p ++
    m.fwWords.toList.flatMap (fun w => natBytes 8 w.toNat) ++ natBytes 32 (Config.sha256 m.manifests.flatten).toNat ++
    natBytes 4 (match m.manifests.head? with
      | some x => compareResult s x
      | none => 0xFFFFFFFF) ++
    natBytes 4 (pctlValue (s.part p)).toNat ++ natBytes 4 (s.part p).cfg.toNat ++ natBytes 32 (Config.sha256 Config.kemKey).toNat ++
    natBytes 5 m.hssCount ++ natBytes 103 0

/-- ATTEST (R365, R366): the counter advances and is committed, then the report is signed with the index it held. -/
def execAttest (nonce : BitVec 256) (part addr : Nat) (s : State) : Host.Outcome State Fault Refusal :=
  event <|
    if 8 ≤ part then answer s 4 0
    else if 2 ^ 40 ≤ s.mgmt.hssCount then answer s 7 0
    else
      let r := reportBytes s nonce part
      let data := r ++ Config.hssSign s.mgmt.hssCount r ++ Config.kemKey
      let host := match s.mgmt.reply with
        | some (.port ..) => s.hostMem
        | _ => s.hostMem.writeL addr data
      answerData ({ s with hostMem := host }.modMgmt fun m => { m with hssCount := m.hssCount + 1 }) 0 0 data

/-- OPEN_SESSION (R361, R366): a session bound to one confidential context. -/
def execOpenSession (ctx : Nat) (ct : List (BitVec 8)) (s : State) : Host.Outcome State Fault Refusal :=
  event <|
    if !srcMay s ctx || !s.conf ctx || !Config.kemAccepts ct then answer s 4 0
    else
      let n := s.mgmt.nextSess
      ((answer s 0 (BitVec.ofNat 64 n)).modMgmt fun m => { m with sessions := m.sessions.set n ctx, nextSess := n + 1 }).modCtx ctx fun k =>
        { k with session := some n }

/-! ### Requests (R361, R362) -/

/-- A register selector as the argument of RDREG and WRREG: class in bits 15:8, number in bits 7:0 (log entry 34). -/
def selOf (x : Nat) : RegSel :=
  ⟨nth [RegClass.v, .p, .s, .b, .cf, .q, .fpstat, .ric, .pc] (bitsOf x 15 8) .v, bitsOf x 7 0⟩

/-- Fields of the 64 bytes of a request: code, tag, payload length, payload address. -/
def requestHead (l : List Byte) : Nat × Nat × Nat × Nat :=
  (bytesNat (l.take 2), bytesNat ((l.drop 2).take 2), bytesNat ((l.drop 4).take 4), bytesNat ((l.drop 8).take 8))

/-- Whether a step of a request ring's function has not ended: commands are executed one at a time per source (R361). -/
def ringBusy (s : State) (fn : Nat) : Bool :=
  s.mgmt.stepReplies.any fun e => match e.2 with
    | .ring n .. => n == fn
    | .port .. => false

/-- The next announced request of a ring, as a turn: its source, code, payload, payload address and the place of its response (R362). -/
def ringRequest (s : State) (fn : Nat) : Option Turn :=
  let r := s.mgmt.rings.getD fn ReqRing.init
  if !r.cfg.getLsbD 0 || r.head == r.tail || ringBusy s fn then none
  else
    let slot := fieldOf r.cfg 63 12 * 4096 + 64 * (r.head.toNat % 2 ^ fieldOf r.cfg 11 8)
    let h := requestHead (s.hostMem.readL slot 64)
    some (.request (if fn = 0 then .pf0 else .vf (fn - 1)) h.1 (s.hostMem.readL h.2.2.2 h.2.2.1) h.2.2.2
      (.ring fn slot h.1 h.2.1 h.2.2.2))

/-- The next request of some ring. -/
def nextRequest (s : State) : Option Turn := s.mgmt.rings.keys.findSome? (ringRequest s)

/-- Argument i of a payload of little-endian 64-bit values (R362). -/
abbrev payArg (pay : List Byte) (i : Nat) : Nat := bytesNat ((pay.drop (8 * i)).take 8)

/-- Whether a step of the management port's has not ended (R361). -/
def portBusy (s : State) : Bool :=
  s.mgmt.stepReplies.any fun e => match e.2 with
    | .ring .. => false
    | .port .. => true

/-- Whether a request must wait: for accesses in flight (R284), or, from the management port, for a step that it commanded (R361). -/
def requestWaits (s : State) (code : Nat) (pay : List Byte) (rep : Reply) : Bool :=
  (code == 0x1052 && btBusy s (payArg pay 0) (payArg pay 1) (payArg pay 2)) ||
    match rep with
    | .ring .. => false
    | .port .. => portBusy s

/-- MRDB_WRITE (R362): TAIL announces requests, which are then executed one after another. -/
def execMrdbWrite (fn : Nat) (value : BitVec 64) (s : State) : Host.Outcome State Fault Refusal :=
  event (s.modMgmt fun m => { m with rings := m.rings.upd fn ReqRing.init fun r => { r with tail := value.setWidth 16 } })

/-- MGMT_DATAGRAM (R362): a request with its payload appended; the fragments of a longer payload are gathered by offset. -/
def execMgmtDatagram (bytes : List (BitVec 8)) (s : State) : Host.Outcome State Fault Refusal :=
  event <|
    if bytes.length < 64 || 64 + 8192 < bytes.length then s
    else
      let h := requestHead bytes
      let off := bytesNat ((bytes.drop 16).take 8)
      let pay := s.mgmt.frags.take off ++ bytes.drop 64
      if pay.length < h.2.2.1 then s.modMgmt fun m => { m with frags := pay }
      else
        let s1 := s.modMgmt fun m => { m with frags := [] }
        { s1 with agenda := s1.agenda ++ [.request .mgmt h.1 (pay.take h.2.2.1) 0 (.port h.1 h.2.1)] }

end Sys2Proof.Machine
end

