-- ==== Sys2Proof/Machine/Monitor.lean ====
section
/-!
DEFINITION. Sys2Proof/Machine/Monitor.lean: Lantern's filter, and the counter commands (R294, R373-R382, R398, R399).
-/

namespace Sys2Proof.Machine

/-! ### The filter bytecode (R381) -/

/-- What a filter works on: its record, working registers, counters, the tag it sets, the trigger bits it sets. -/
structure Filter where
  r    : TraceRec
  w    : Vector DWord 8
  k    : Vector DWord 16
  tag  : DWord
  trig : BitVec 16
  deriving DecidableEq, Repr

/-- Record field f (R381). -/
def Filter.field (x : Filter) : Nat → DWord
  | 0 => x.r.payload
  | 1 => x.r.gts
  | 2 => x.r.ric.setWidth 64
  | 3 => BitVec.ofNat 64 x.r.fibre
  | 4 => BitVec.ofNat 64 x.r.ch
  | 5 => BitVec.ofNat 64 x.r.part
  | 6 => x.tag
  | _ => BitVec.ofNat 64 x.r.seq

/-- One word of a filter that is neither a jump nor END (R381). -/
def filterWord (x : Filter) (i : Word) : Filter :=
  let d := fieldOf i 27 25
  let wa := vget x.w (fieldOf i 24 22) 0
  let wb := vget x.w (fieldOf i 21 19) 0
  let imm := fieldOf i 18 0
  let set := fun (v : DWord) => { x with w := vset x.w d v }
  match fieldOf i 31 28 with
  | 0x0 => set (x.field (imm % 8))
  | 0x1 => set (BitVec.ofInt 64 (sgnOf 19 imm))
  | 0x2 => set (wa + wb)
  | 0x3 => set (wa - wb)
  | 0x4 => set (wa &&& wb)
  | 0x5 => set (wa ||| wb)
  | 0x6 => set (wa ^^^ wb)
  | 0x7 => set (wa >>> (imm % 64))
  | 0x8 => set (wa <<< (imm % 64))
  | 0xB => set (vget x.k (imm % 16) 0)
  | 0xC => { x with k := vset x.k (imm % 16) (vget x.k (imm % 16) 0 + wa) }
  | 0xD => { x with tag := wa }
  | 0xE => { x with trig := x.trig ||| (1#16 <<< (imm % 16)) }
  | _ => x

/-- Runs a filter from its word pc; every jump goes forward, so 64 words are enough (R381, R382). -/
def runFilter (prog : List Word) : Nat → Nat → Filter → Filter × Bool
  | 0, _, x => (x, false)
  | n + 1, pc, x =>
    match prog[pc]? with
    | none => (x, false)
    | some i =>
      let wa := vget x.w (fieldOf i 24 22) 0
      let wb := vget x.w (fieldOf i 21 19) 0
      let jump := fun (take : Bool) => runFilter prog n (if take then pc + 1 + fieldOf i 18 0 else pc + 1) x
      match fieldOf i 31 28 with
      | 0xF => (x, i.getLsbD 0)
      | 0x9 => jump (wa == wb)
      | 0xA => jump (decide (wa.toNat < wb.toNat))
      | _ => runFilter prog n (pc + 1) (filterWord x i)

/-- The bits of a filter word that must be zero (R381). -/
def filterSpare (i : Word) : Nat :=
  let d := fieldOf i 27 25
  let a := fieldOf i 24 22
  let b := fieldOf i 21 19
  let imm := fieldOf i 18 0
  match fieldOf i 31 28 with
  | 0x0 => a + b + imm / 8
  | 0x1 => a + b
  | 0x7 => b + imm / 64
  | 0x8 => b + imm / 64
  | 0x9 => d
  | 0xA => d
  | 0xB => a + b + imm / 16
  | 0xC => d + b + imm / 16
  | 0xD => d + b + imm
  | 0xE => d + a + b + imm / 16
  | 0xF => d + a + b + imm / 2
  | _ => imm

/-- Whether LANTERN-LOAD accepts a program (R382). -/
def filterOk (prog : List Word) : Bool :=
  1 ≤ prog.length && prog.length ≤ 64 && fieldOf (prog.getLastD 0) 31 28 == 0xF &&
    prog.zipIdx.all fun e => filterSpare e.1 == 0 &&
      (!(fieldOf e.1 31 28 == 9 || fieldOf e.1 31 28 == 0xA) || decide (e.2 + 1 + fieldOf e.1 18 0 < prog.length))

/-! ### Trace rings (R379, R380) -/

/-- The 32 bytes of a record (R379). -/
def traceBytes (r : TraceRec) (tag : DWord) : List Byte :=
  natBytes 8 r.payload.toNat ++ natBytes 8 r.gts.toNat ++
    natBytes 8 (r.ric.toNat * 2 ^ 32 + r.fibre % 2 ^ 14 * 2 ^ 18 + r.ch % 8 * 2 ^ 15 + r.part % 8 * 2 ^ 12 + r.seq % 4096) ++ natBytes 8 tag.toNat

/-- The state after a kept record was written at TAIL; none when its ring is full or the slot cannot be written (log entry 35). -/
def traceWrite (s : State) (r : TraceRec) (tag : DWord) : Option State :=
  let v := s.vi r.vi
  let n := 2 ^ (fieldOf v.trcfg 11 8 + 4)
  if n ≤ (v.trTail - v.trHead).toNat then none
  else
    (writeVirt s r.vi (fieldOf v.trcfg 63 12 * 4096 + 32 * (v.trTail.toNat % n)) (traceBytes r tag) false).map fun s1 =>
      s1.modVi r.vi fun v => { v with trTail := v.trTail + 1 }

/-- The counters and triggers that a filter leaves; a TRIG bit that sets signals (R380, R381). -/
def filterLeft (s : State) (v : Nat) (x : Filter) : State :=
  let old := (s.vi v).trTrig
  let s1 := s.modVi v fun y => { y with k := x.k, trTrig := y.trTrig ||| x.trig }
  if x.trig &&& ~~~old == 0 then s1 else signal s1 (v + 1) (s.vi v).trirq

/-- TRACE_FILTER (R380): Lantern takes the oldest record of a core, filters it and keeps or drops it; with BLOCK it waits for room. -/
def execTraceFilter (core : Nat) (s : State) : Host.Outcome State Fault Refusal :=
  event <|
    match (s.core core).fifo with
    | [] => s
    | r :: rest =>
      let v := s.vi r.vi
      let took := s.modCore core fun k => { k with fifo := rest }
      if !v.trcfg.getLsbD 0 then took
      else
        let x : Filter × Bool :=
          if v.prog.isEmpty then (⟨r, Vector.replicate 8 0, v.k, 0, 0⟩, true)
          else runFilter v.prog 64 0 ⟨r, Vector.replicate 8 0, v.k, 0, 0⟩
        if !x.2 then filterLeft took r.vi x.1
        else
          match traceWrite took r x.1.tag with
          | some s1 => filterLeft s1 r.vi x.1
          | none =>
            if v.trcfg.getLsbD 1 then s
            else filterLeft (took.modVi r.vi fun y => { y with trLost := y.trLost + 1 }) r.vi x.1

/-! ### Commands (R378, R382, R398, R399) -/

/-- LANTERN_LOAD (R382): the program's words stand in host memory. -/
def execLanternLoad (vi addr len : Nat) (s : State) : Host.Outcome State Fault Refusal :=
  event <|
    let prog := (List.range (min len 65)).map fun i => BitVec.ofNat 32 (s.hostMem.readN (addr + 4 * i) 4)
    if 64 ≤ vi || !srcMay s vi then answer s 4 0
    else if confRefuses s vi then answer s 3 0
    else if !filterOk prog then answer s 4 0
    else answer (s.modVi vi fun v => { v with prog := prog, k := Vector.replicate 16 0 }) 0 0

/-- LANTERN_READ (R378): k0 to k15. -/
def execLanternRead (vi : Nat) (s : State) : Host.Outcome State Fault Refusal :=
  event <|
    if 64 ≤ vi || !srcMay s vi then answer s 4 0
    else if confRefuses s vi then answer s 3 0
    else answerData s 0 0 ((s.vi vi).k.toList.flatMap fun x => natBytes 8 x.toNat)

/-- The cores of an interface's partition as its context has them: the live ones while it is bound there, else the saved ones (R373). -/
def ctxCores (s : State) (v : Nat) : List (Nat × Core) :=
  let p := (s.vi v).part
  (s.coresOf p).map fun c =>
    (c, if (s.part p).runVi = some v then s.core c
        else (((s.part p).saved.get? v).bind fun x => x.cores.get? c).getD Core.init)

/-- CTRTOT (R378): the twelve leaf totals of a context over its cores. -/
def execCtrtot (vi : Nat) (s : State) : Host.Outcome State Fault Refusal :=
  event <|
    if 64 ≤ vi || !srcMay s vi then answer s 4 0
    else
      let total := fun (n : Nat) => ((ctxCores s vi).map fun e => (vget e.2.leaves n 0).toNat).sum
      answerData s 0 0 ((List.range 12).flatMap fun n => natBytes 8 (total n))

/-- CTRGRANT (R378): refused for a confidential context. -/
def execCtrgrant (vi : Nat) (grant : Bool) (s : State) : Host.Outcome State Fault Refusal :=
  event <|
    if 64 ≤ vi || !srcMay s vi then answer s 4 0
    else if s.conf vi then answer s 3 0
    else answer (s.modCtx vi fun c => { c with granted := grant }) 0 0

/-- CTRPROG (R398): the values are held until the context next binds a team. -/
def execCtrprog (vi : Nat) (c0 c1 c2 c3 : BitVec 64) (s : State) : Host.Outcome State Fault Refusal :=
  event <|
    if 64 ≤ vi || !srcMay s vi then answer s 4 0
    else if confRefuses s vi then answer s 3 0
    else if [c0, c1, c2, c3].any pmctlBad then answer s 4 0
    else answer (s.modCtx vi fun c => { c with held := some [c0, c1, c2, c3] }) 0 0

/-- The 64-byte entry of a core (R399). -/
def counterEntry (e : Nat × Core) : List Byte :=
  natBytes 8 e.1 ++ e.2.pmcnt.toList.flatMap (fun x => natBytes 8 x.toNat) ++ natBytes 8 e.2.issued.toNat ++
    natBytes 8 ((List.range 4).foldr (fun n x => fieldOf (vget e.2.pmctl n 0) 23 16 + 256 * x) 0) ++ natBytes 8 0

/-- CTRREAD (R399): one entry per core, to the payload area. -/
def execCtrread (vi addr : Nat) (s : State) : Host.Outcome State Fault Refusal :=
  event <|
    if 64 ≤ vi || !srcMay s vi then answer s 4 0
    else if confRefuses s vi then answer s 3 0
    else
      let data := (ctxCores s vi).flatMap counterEntry
      let host := match s.mgmt.reply with
        | some (.port ..) => s.hostMem
        | _ => s.hostMem.writeL addr data
      answerData { s with hostMem := host } 0 0 data

end Sys2Proof.Machine
end

