-- ==== Sys2Proof/Machine/Power.lean ====
section
/-!
DEFINITION. Sys2Proof/Machine/Power.lean: resets, power states, thermal events and firmware updates (R365, R367-R370).
-/

namespace Sys2Proof.Machine

/-! ### Warm reset (R368) -/

/-- A line after warm reset: its metadata and its group stay in main memory; owner records, epoch state and the L3 copy are lost. -/
def warmLine (l : LineInfo) : LineInfo := { LineInfo.init with md := l.md, grp := l.grp }

/-- The interface registers that survive: configuration; records held, pointers, filter and counters are lost. -/
def warmVi (v : Vi) : Vi := { Vi.init with cfg := v.cfg, fqcfg := v.fqcfg, fqirq := v.fqirq, trcfg := v.trcfg, trirq := v.trirq }

/-- The rings of a partition survive with their registers; everything else of it returns to its Reset value. -/
def warmPart (p : Nat) (t : Part) : Part :=
  { Part.init p with
    rrbase := t.rrbase, rrctl := t.rrctl, rrNow := t.rrNow, rrTail := t.rrTail, rrCairn := t.rrCairn, twpg := t.twpg, cairn := t.cairn
    xdev := t.xdev, ended := t.ended, anclost := t.anclost, rrbp := t.rrbp, urbase := t.urbase, urctl := t.urctl, urNow := t.urNow
    urTail := t.urTail, urEpst := t.urEpst, urState := t.urState, urEpoch := t.urEpoch, urFresh := t.urFresh, urFail := t.urFail, unprot := t.unprot
    scrubbed := t.scrubbed, cairnAt := t.cairnAt, launchNo := t.launchNo, mbSaved := t.mbSaved }

/-- A queue's entry survives. -/
def warmQueue (q : Queue) : Queue := { Queue.init with base := q.base, cfg := q.cfg, tailp := q.tailp }

/-- A mailbox's configuration survives. -/
def warmMbox (m : Mailbox) : Mailbox := { Mailbox.init with cfg := m.cfg, ofs := m.ofs }

/-- A stack's remap table, its fences and its count of commands since cold reset survive (R338, R341). -/
def warmStack (k : Stack) : Stack := { Stack.init with remap := k.remap, fence := k.fence, rmcnt := k.rmcnt }

/-- What survives of main memory's control. -/
def warmHbm (h : Hbm) : Hbm :=
  { Hbm.init with
    regions := h.regions, stk := h.stk.mapVals fun _ => warmStack, extents := h.extents, cdir := h.cdir, errs := h.errs
    remapErr := h.remapErr }

/-- What survives of management in any reset: fuses and non-volatile storage, and what has gone out. -/
def nvMgmt (m : Mgmt) : Mgmt :=
  { Mgmt.init with
    manifests := m.manifests, ownerKey := m.ownerKey, fwVersion := m.fwVersion, fwWords := m.fwWords, fwImage := m.fwImage
    fwBad := m.fwBad, hssCount := m.hssCount, msix := m.msix, sent := m.sent, remoteOut := m.remoteOut, nextSess := m.nextSess }

/-- A line that the L3 held newer than main memory, or of another device: what main memory holds of it is not known, since the L3 is lost; a
free value (log entry 36). -/
def loseL3 (s : State) : State :=
  (s.lines.filter fun e => e.2.inL3 && (e.2.dirty || isRemote e.1)).foldl (fun s e =>
    let d := s.drawFree
    { d.2 with mem := d.2.mem.writeN (e.1 * 128) 128 d.1.toNat }) s

/-- The scrub check after a warm reset: reserved states are handled as uncorrectable errors (R328, R368). -/
def scrubCheck (s : State) : State :=
  s.lines.keys.foldl (fun s ln =>
    if 6 ≤ mdState (s.md ln) || (s.md ln).getLsbD 15 then badMeta s ln else s) s

/-- The warm reset of the device (R368): a lost-copies notice goes out first; confidential memory is filled with zero. -/
def warm (s : State) : State :=
  let s0 := loseL3 (s.tell 8 s.fabric.device)
  let mem := s0.mem.filter fun c => isRemote (lineOf c.1) || (confOf s (lineOf c.1)).isNone
  let m := s0.mgmt
  scrubCheck
    { State.reset with
      agenda := s0.agenda, clock := s0.clock, nextOp := s0.nextOp, nextTeam := s0.nextTeam, nextGrid := s0.nextGrid, free := s0.free
      mem := mem, lines := s0.lines.mapVals fun _ => warmLine, hostMem := s0.hostMem
      vis := s0.vis.mapVals fun _ => warmVi, parts := s0.parts.mapVals warmPart, queues := s0.queues.mapVals fun _ => warmQueue
      fabric := { Fabric.init with device := s0.fabric.device, mboxes := s0.fabric.mboxes.mapVals fun _ => warmMbox }
      hbm := warmHbm s0.hbm
      mgmt := { nvMgmt m with gts := m.gts, gtsFrac := m.gtsFrac, slew := m.slew, slewBig := m.slewBig } }

/-- WARM_RESET (R368): from PF0 or the management port (R361). -/
def execWarmReset (s : State) : Host.Outcome State Fault Refusal := event (if srcPf0 s then answer (warm s) 0 0 else answer s 2 0)

/-- CXL_HOT_RESET (R368): a hot reset of either port enters warm reset. -/
def execCxlHotReset (port : Nat) (s : State) : Host.Outcome State Fault Refusal := event (if port < 2 then warm s else s)

/-! ### Cold reset and power (R365, R367, R369, R370) -/

/-- The device with its supply gone or off: fuses and non-volatile storage only (R369). -/
def offState (s : State) : State :=
  { State.reset with
    agenda := s.agenda, clock := s.clock, free := s.free, hostMem := s.hostMem, fabric := { Fabric.init with device := s.fabric.device }
    mgmt := { nvMgmt s.mgmt with power := .ps4 } }

/-- The measurement of an image in four words (R366). -/
def imageWords (l : List Byte) : Vector DWord 4 := Vector.ofFn fun i => (Config.sha256 l >>> (64 * i.val)).setWidth 64

/-- The cold reset of the device (R367): images that fail verification halt it; else it starts at its Reset values, with a new image
measured. -/
def cold (s : State) : State :=
  let o := offState s
  let boot := fun (m : Mgmt) =>
    match m.fwImage with
    | some l => { m with fwWords := imageWords l, fwVersion := m.fwVersion + 1, fwImage := none }
    | none => m
  o.modMgmt fun m => { (if m.fwBad then m else boot m) with power := .ps0, bootErr := m.fwBad }

/-- COLD_RESET (R367). -/
def execColdReset (s : State) : Host.Outcome State Fault Refusal := event (cold s)

/-- The power state of a number. -/
def powerOf : Nat → Power
  | 0 => .ps0
  | 1 => .ps1
  | 2 => .ps2
  | 3 => .ps3
  | _ => .ps4

/-- POWER_STATE (R361, R369): PS3 and PS4 are refused while a grid is bound; leaving PS3 runs the warm-reset sequence, leaving PS4 cold
reset. The result is the state reached. -/
def execPowerState (target : Nat) (s : State) : Host.Outcome State Fault Refusal :=
  event <|
    let goal := powerOf target
    let reach := fun (s : State) => (answer s 0 (BitVec.ofNat 64 target)).modMgmt fun m => { m with power := goal }
    if !srcPf0 s then answer s 2 0
    else if 4 < target then answer s 4 0
    else if s.mgmt.power = .ps4 then (if target = 4 then answer s 0 4 else reach (cold s))
    else if 3 ≤ target && !s.grids.isEmpty then answer s 2 0
    else if target = 4 then reach (offState s)
    else if target = 3 || s.mgmt.power = .ps3 then reach (warm s)
    else reach s

/-- THERMAL_WARNING (R370): an MSI-X message of PF0; its vector is not given, so it is a free value (log entry 8). -/
def execThermalWarning (s : State) : Host.Outcome State Fault Refusal :=
  event <|
    let d := s.drawFree
    d.2.modMgmt fun m => { m with msix := m.msix ++ [(0, (d.1.setWidth 16).toNat)] }

/-- THERMAL_TRIP (R370): the device enters PS4 without a further message; HBM contents are lost. -/
def execThermalTrip (s : State) : Host.Outcome State Fault Refusal := event (offState s)

/-- POWER_LOSS (R365): everything but fuses and non-volatile storage is lost; an index committed for a signature in hand is skipped, or
none is: a free bit. -/
def execPowerLoss (s : State) : Host.Outcome State Fault Refusal :=
  event <|
    let d := s.drawFree
    (offState d.2).modMgmt fun m => { m with hssCount := if d.1.getLsbD 0 then min (2 ^ 40) (m.hssCount + 1) else m.hssCount }

/-- FW_UPDATE (R361, R364, R367): an image whose signature fails is refused with status 6 and the running firmware stays; else it is
installed, with the owner key, and booted at the next cold reset. -/
def execFwUpdate (bytes : List (BitVec 8)) (s : State) : Host.Outcome State Fault Refusal :=
  event <|
    if !srcPf0 s then answer s 2 0
    else if bytes.length < 5716 then answer s 4 0
    else if !Config.signatureValid 0 bytes then answer s 6 0
    else (answer s 0 0).modMgmt fun m => { m with fwImage := some (bytes.take (bytes.length - 5716)), ownerKey := true }

end Sys2Proof.Machine
end

