-- ==== Sys2Proof/Machine/Special.lean ====
section
/-!
DEFINITION. Sys2Proof/Machine/Special.lean: the binary32 special functions, correctly rounded to nearest (R125). Each value is
formed to some 200 bits in integer fixed point with a sticky last bit and rounded once (log entry 10).
-/

namespace Sys2Proof.Machine

/-- floor of ln 2 times 2^256. -/
def ln2Fix : Nat := 0xb17217f7d1cf79abc9e3b39803f2f6af40f343267298b62d8a0d175b8baafa2b
/-- floor of pi times 2^400. -/
def piFix : Nat := 0x3243f6a8885a308d313198a2e03707344a4093822299f31d0082efa98ec4e6c89452821e638d01377be5466cf34e90c6cc0ac

/-- The series of e^y, y in units of 2^-256: the terms from the k-th on, t the k-th. -/
def expSeries (y : Nat) : Nat → Nat → Nat → Nat
  | 0, _, _ => 0
  | n + 1, k, t => t + expSeries y n (k + 1) (t * y / 2 ^ 256 / (k + 1))

/-- 2^f for f in [0, 1), both in units of 2^-256. -/
def exp2Frac (f : Nat) : Nat := expSeries (f * ln2Fix / 2 ^ 256) 64 0 (2 ^ 256)

/-- 2^v, rounded. -/
def exp2Dy (v : Dy) : Dy :=
  let lim : Dy := ⟨200, 0⟩
  if lim.lt v then ⟨1, 200⟩
  else if v.lt lim.neg then ⟨1, -200⟩
  else
    let x := v.scaleTo (-256)
    let n := x / 2 ^ 256
    let f := (x - n * 2 ^ 256).toNat
    if f = 0 then ⟨1, n⟩ else ⟨2 * (exp2Frac f : Int) + 1, n - 257⟩

/-- The series of atanh z, z in units of 2^-256: terms z^(2k+1) / (2k+1) from the k-th on, p the power. -/
def atanhSeries (z2 : Nat) : Nat → Nat → Nat → Nat
  | 0, _, _ => 0
  | n + 1, k, p => p / (2 * k + 1) + atanhSeries z2 n (k + 1) (p * z2 / 2 ^ 256)

/-- log2 of a positive value. -/
def log2Dy (v : Dy) : Dy :=
  let m := v.m.natAbs
  let lg := Nat.log2 m
  let e : Int := v.e + (lg : Int)
  if m = 2 ^ lg then ⟨e, 0⟩
  else
    let z := (m - 2 ^ lg) * 2 ^ 256 / (m + 2 ^ lg)
    let ln := 2 * atanhSeries (z * z / 2 ^ 256) 90 0 z
    let t : Int := e * 2 ^ 256 + (ln * 2 ^ 256 / ln2Fix : Nat)
    ⟨2 * t + 1, -257⟩

/-- The alternating series whose k-th term is t and whose next is -t * r2 / (d (d + 1)), d rising by two. -/
def trigSeries (r2 : Int) : Nat → Int → Int → Int
  | 0, _, _ => 0
  | n + 1, d, t => t + trigSeries r2 n (d + 2) (-(t * r2 / 2 ^ 256) / (d * (d + 1)))

/-- sin (turn 0) or cos (turn 1) of an exact value. -/
def trigDy (turn : Int) (v : Dy) : Dy :=
  let x := v.scaleTo (-256)
  let half : Int := piFix
  -- k is the nearest integer to x / (pi / 2)
  let k := (x * 2 ^ 146 + half) / (2 * half)
  let r := x - k * half / 2 ^ 145
  let q := (k + turn) % 4
  let r2 := r * r / 2 ^ 256
  let t := if q % 2 = 0 then trigSeries r2 36 2 r else trigSeries r2 36 1 (2 ^ 256)
  ⟨2 * (if q < 2 then t else -t) + 1, -257⟩

/-- fex2 (R125). -/
def fex2 (a : Nat) : Nat × Word :=
  match decF f32 a with
  | .zero _ => roundF f32 .rne ⟨1, 0⟩
  | .inf n => (if n then 0 else infF f32 false, 0)
  | .fin d => roundF f32 .rne (exp2Dy d)
  | x => (f32.qnan, sigFlags [x])

/-- flg2 (R125). -/
def flg2 (a : Nat) : Nat × Word :=
  match decF f32 a with
  | .zero _ => (infF f32 true, fDZ)
  | .inf n => if n then (f32.qnan, fNV) else (infF f32 false, 0)
  | .fin d =>
    if d.m < 0 then (f32.qnan, fNV)
    else
      let v := log2Dy d
      if v.m = 0 then (0, 0) else roundF f32 .rne v
  | x => (f32.qnan, sigFlags [x])

/-- fsin and fcos (R125). -/
def fTrig (cos : Bool) (a : Nat) : Nat × Word :=
  match decF f32 a with
  | .zero n => if cos then roundF f32 .rne ⟨1, 0⟩ else (zeroF f32 n, 0)
  | .inf _ => (f32.qnan, fNV)
  | .fin d => roundF f32 .rne (trigDy (if cos then 1 else 0) d)
  | x => (f32.qnan, sigFlags [x])

/-- A special function of one register (R125). -/
def special (s : State) (d a : BitVec 7) (g : Nat → Nat × Word) : Host.Outcome State Fault Refusal :=
  classB1 s d (r1 a) fun c _ l =>
    let r := g (c.rd s false a l).toNat
    (BitVec.ofNat 32 r.1, r.2)

/-- FEX2_F32 (R125). -/
def execFex2F32 (d a : BitVec 7) (s : State) : Host.Outcome State Fault Refusal := special s d a fex2

/-- FLG2_F32 (R125). -/
def execFlg2F32 (d a : BitVec 7) (s : State) : Host.Outcome State Fault Refusal := special s d a flg2

/-- FSIN_F32 (R125). -/
def execFsinF32 (d a : BitVec 7) (s : State) : Host.Outcome State Fault Refusal := special s d a (fTrig false)

/-- FCOS_F32 (R125). -/
def execFcosF32 (d a : BitVec 7) (s : State) : Host.Outcome State Fault Refusal := special s d a (fTrig true)

end Sys2Proof.Machine
end

