-- ==== Sys2Proof/Machine/Dispatch.lean ====
section
/-!
DEFINITION. Sys2Proof/Machine/Dispatch.lean: one arm per instruction, each a call of its meaning.
-/

namespace Sys2Proof.Machine

/-- The meaning of an instruction in a state. -/
def exec (i : Instr) (s : State) : Host.Outcome State Fault Refusal :=
  match i with
  | .iadd d a b => Sys2Proof.Machine.execIadd d a b s
  | .isub d a b => Sys2Proof.Machine.execIsub d a b s
  | .imul d a b => Sys2Proof.Machine.execImul d a b s
  | .imulhSg d a b => Sys2Proof.Machine.execImulhSg d a b s
  | .imulhUs d a b => Sys2Proof.Machine.execImulhUs d a b s
  | .imad d a b => Sys2Proof.Machine.execImad d a b s
  | .iminSg d a b => Sys2Proof.Machine.execIminSg d a b s
  | .iminUs d a b => Sys2Proof.Machine.execIminUs d a b s
  | .imaxSg d a b => Sys2Proof.Machine.execImaxSg d a b s
  | .imaxUs d a b => Sys2Proof.Machine.execImaxUs d a b s
  | .iabs d a => Sys2Proof.Machine.execIabs d a s
  | .and d a b => Sys2Proof.Machine.execAnd d a b s
  | .or d a b => Sys2Proof.Machine.execOr d a b s
  | .xor d a b => Sys2Proof.Machine.execXor d a b s
  | .andn d a b => Sys2Proof.Machine.execAndn d a b s
  | .shl d a b => Sys2Proof.Machine.execShl d a b s
  | .shr d a b => Sys2Proof.Machine.execShr d a b s
  | .sar d a b => Sys2Proof.Machine.execSar d a b s
  | .rot d a b => Sys2Proof.Machine.execRot d a b s
  | .clz d a => Sys2Proof.Machine.execClz d a s
  | .popc d a => Sys2Proof.Machine.execPopc d a s
  | .brev d a => Sys2Proof.Machine.execBrev d a s
  | .mov d a => Sys2Proof.Machine.execMov d a s
  | .movFromUniform d sa => Sys2Proof.Machine.execMovFromUniform d sa s
  | .movB64 d sa => Sys2Proof.Machine.execMovB64 d sa s
  | .bfeUs d a b => Sys2Proof.Machine.execBfeUs d a b s
  | .bfeSg d a b => Sys2Proof.Machine.execBfeSg d a b s
  | .bfi d a b => Sys2Proof.Machine.execBfi d a b s
  | .iadd64 d a b => Sys2Proof.Machine.execIadd64 d a b s
  | .isub64 d a b => Sys2Proof.Machine.execIsub64 d a b s
  | .imul64 d a b => Sys2Proof.Machine.execImul64 d a b s
  | .shl64 d a b => Sys2Proof.Machine.execShl64 d a b s
  | .shr64 d a b => Sys2Proof.Machine.execShr64 d a b s
  | .sar64 d a b => Sys2Proof.Machine.execSar64 d a b s
  | .iaddImm d a imm => Sys2Proof.Machine.execIaddImm d a imm s
  | .andImm d a imm => Sys2Proof.Machine.execAndImm d a imm s
  | .shlImm d a n => Sys2Proof.Machine.execShlImm d a n s
  | .shrImm d a n => Sys2Proof.Machine.execShrImm d a n s
  | .sarImm d a n => Sys2Proof.Machine.execSarImm d a n s
  | .rotImm d a n => Sys2Proof.Machine.execRotImm d a n s
  | .shl64Imm d a n => Sys2Proof.Machine.execShl64Imm d a n s
  | .shr64Imm d a n => Sys2Proof.Machine.execShr64Imm d a n s
  | .sar64Imm d a n => Sys2Proof.Machine.execSar64Imm d a n s
  | .movi d imm => Sys2Proof.Machine.execMovi d imm s
  | .icmp c p a b => Sys2Proof.Machine.execIcmp c p a b s
  | .icmp64 c p a b => Sys2Proof.Machine.execIcmp64 c p a b s
  | .sel n p d a b => Sys2Proof.Machine.execSel n p d a b s
  | .pand d a b => Sys2Proof.Machine.execPand d a b s
  | .por d a b => Sys2Proof.Machine.execPor d a b s
  | .pxor d a b => Sys2Proof.Machine.execPxor d a b s
  | .pnot d a => Sys2Proof.Machine.execPnot d a s
  | .idp4Sg d a b => Sys2Proof.Machine.execIdp4Sg d a b s
  | .idp4Us d a b => Sys2Proof.Machine.execIdp4Us d a b s
  | .idp2Sg d a b => Sys2Proof.Machine.execIdp2Sg d a b s
  | .idp2Us d a b => Sys2Proof.Machine.execIdp2Us d a b s
  | .faddF32 d a b => Sys2Proof.Machine.execFaddF32 d a b s
  | .fsubF32 d a b => Sys2Proof.Machine.execFsubF32 d a b s
  | .fmulF32 d a b => Sys2Proof.Machine.execFmulF32 d a b s
  | .ffmaF32 d a b => Sys2Proof.Machine.execFfmaF32 d a b s
  | .fminF32 d a b => Sys2Proof.Machine.execFminF32 d a b s
  | .fmaxF32 d a b => Sys2Proof.Machine.execFmaxF32 d a b s
  | .faddF64 d a b => Sys2Proof.Machine.execFaddF64 d a b s
  | .fsubF64 d a b => Sys2Proof.Machine.execFsubF64 d a b s
  | .fmulF64 d a b => Sys2Proof.Machine.execFmulF64 d a b s
  | .ffmaF64 d a b => Sys2Proof.Machine.execFfmaF64 d a b s
  | .fminF64 d a b => Sys2Proof.Machine.execFminF64 d a b s
  | .fmaxF64 d a b => Sys2Proof.Machine.execFmaxF64 d a b s
  | .fcmpF32 c p a b => Sys2Proof.Machine.execFcmpF32 c p a b s
  | .fcmpF64 c p a b => Sys2Proof.Machine.execFcmpF64 c p a b s
  | .fdivF32 d a b => Sys2Proof.Machine.execFdivF32 d a b s
  | .fsqrtF32 d a => Sys2Proof.Machine.execFsqrtF32 d a s
  | .frcpF32 d a => Sys2Proof.Machine.execFrcpF32 d a s
  | .frsqF32 d a => Sys2Proof.Machine.execFrsqF32 d a s
  | .fdivF64 d a b => Sys2Proof.Machine.execFdivF64 d a b s
  | .fsqrtF64 d a => Sys2Proof.Machine.execFsqrtF64 d a s
  | .frcpF64 d a => Sys2Proof.Machine.execFrcpF64 d a s
  | .frsqF64 d a => Sys2Proof.Machine.execFrsqF64 d a s
  | .tradd f d a b => Sys2Proof.Machine.execTradd f d a b s
  | .trsub f d a b => Sys2Proof.Machine.execTrsub f d a b s
  | .trmul f d a b => Sys2Proof.Machine.execTrmul f d a b s
  | .trfma f d a b => Sys2Proof.Machine.execTrfma f d a b s
  | .trmin f d a b => Sys2Proof.Machine.execTrmin f d a b s
  | .trmax f d a b => Sys2Proof.Machine.execTrmax f d a b s
  | .trcmp f c p a b => Sys2Proof.Machine.execTrcmp f c p a b s
  | .trdec f d a => Sys2Proof.Machine.execTrdec f d a s
  | .trenc f d a => Sys2Proof.Machine.execTrenc f d a s
  | .qmac f q a b => Sys2Proof.Machine.execQmac f q a b s
  | .qclr q => Sys2Proof.Machine.execQclr q s
  | .qround d q t => Sys2Proof.Machine.execQround d q t s
  | .qadd f q a => Sys2Proof.Machine.execQadd f q a s
  | .fex2F32 d a => Sys2Proof.Machine.execFex2F32 d a s
  | .flg2F32 d a => Sys2Proof.Machine.execFlg2F32 d a s
  | .fsinF32 d a => Sys2Proof.Machine.execFsinF32 d a s
  | .fcosF32 d a => Sys2Proof.Machine.execFcosF32 d a s
  | .cvt t d a f => Sys2Proof.Machine.execCvt t d a f s
  | .cvtClamp t d a f => Sys2Proof.Machine.execCvtClamp t d a f s
  | .shflIdx w d a b => Sys2Proof.Machine.execShflIdx w d a b s
  | .shflUp w d a b => Sys2Proof.Machine.execShflUp w d a b s
  | .shflDown w d a b => Sys2Proof.Machine.execShflDown w d a b s
  | .shflXor w d a b => Sys2Proof.Machine.execShflXor w d a b s
  | .voteAny d a => Sys2Proof.Machine.execVoteAny d a s
  | .voteAll d a => Sys2Proof.Machine.execVoteAll d a s
  | .voteBallot d a => Sys2Proof.Machine.execVoteBallot d a s
  | .voteEq d a => Sys2Proof.Machine.execVoteEq d a s
  | .matchB32 d a => Sys2Proof.Machine.execMatchB32 d a s
  | .matchB64 d a => Sys2Proof.Machine.execMatchB64 d a s
  | .red f sd a => Sys2Proof.Machine.execRed f sd a s
  | .scan f d a sd => Sys2Proof.Machine.execScan f d a sd s
  | .ldB32 d a b imm => Sys2Proof.Machine.execLdB32 d a b imm s
  | .ldB64 d a b imm => Sys2Proof.Machine.execLdB64 d a b imm s
  | .ldB128 d a b imm => Sys2Proof.Machine.execLdB128 d a b imm s
  | .stB32 d a b imm => Sys2Proof.Machine.execStB32 d a b imm s
  | .stB64 d a b imm => Sys2Proof.Machine.execStB64 d a b imm s
  | .stB128 d a b imm => Sys2Proof.Machine.execStB128 d a b imm s
  | .ldExtended d a b wc o c => Sys2Proof.Machine.execLdExtended d a b wc o c s
  | .pf a b l => Sys2Proof.Machine.execPf a b l s
  | .stExtended d a b wc o c => Sys2Proof.Machine.execStExtended d a b wc o c s
  | .ldsB32 d a imm => Sys2Proof.Machine.execLdsB32 d a imm s
  | .ldsB64 d a imm => Sys2Proof.Machine.execLdsB64 d a imm s
  | .stsB32 d a imm => Sys2Proof.Machine.execStsB32 d a imm s
  | .stsB64 d a imm => Sys2Proof.Machine.execStsB64 d a imm s
  | .atomAddB32 d a b sc => Sys2Proof.Machine.execAtomAddB32 d a b sc s
  | .atomMinSgB32 d a b sc => Sys2Proof.Machine.execAtomMinSgB32 d a b sc s
  | .atomMinUsB32 d a b sc => Sys2Proof.Machine.execAtomMinUsB32 d a b sc s
  | .atomMaxSgB32 d a b sc => Sys2Proof.Machine.execAtomMaxSgB32 d a b sc s
  | .atomMaxUsB32 d a b sc => Sys2Proof.Machine.execAtomMaxUsB32 d a b sc s
  | .atomAndB32 d a b sc => Sys2Proof.Machine.execAtomAndB32 d a b sc s
  | .atomOrB32 d a b sc => Sys2Proof.Machine.execAtomOrB32 d a b sc s
  | .atomXorB32 d a b sc => Sys2Proof.Machine.execAtomXorB32 d a b sc s
  | .atomXchgB32 d a b sc => Sys2Proof.Machine.execAtomXchgB32 d a b sc s
  | .atomCasB32 d a b sc => Sys2Proof.Machine.execAtomCasB32 d a b sc s
  | .atomAddB64 d a b sc => Sys2Proof.Machine.execAtomAddB64 d a b sc s
  | .atomMinSgB64 d a b sc => Sys2Proof.Machine.execAtomMinSgB64 d a b sc s
  | .atomMinUsB64 d a b sc => Sys2Proof.Machine.execAtomMinUsB64 d a b sc s
  | .atomMaxSgB64 d a b sc => Sys2Proof.Machine.execAtomMaxSgB64 d a b sc s
  | .atomMaxUsB64 d a b sc => Sys2Proof.Machine.execAtomMaxUsB64 d a b sc s
  | .atomAndB64 d a b sc => Sys2Proof.Machine.execAtomAndB64 d a b sc s
  | .atomOrB64 d a b sc => Sys2Proof.Machine.execAtomOrB64 d a b sc s
  | .atomXorB64 d a b sc => Sys2Proof.Machine.execAtomXorB64 d a b sc s
  | .atomXchgB64 d a b sc => Sys2Proof.Machine.execAtomXchgB64 d a b sc s
  | .atomCasB64 d a b sc => Sys2Proof.Machine.execAtomCasB64 d a b sc s
  | .acasB128 d a b sc => Sys2Proof.Machine.execAcasB128 d a b sc s
  | .aacc d a b f => Sys2Proof.Machine.execAacc d a b f s
  | .arsv d b => Sys2Proof.Machine.execArsv d b s
  | .bra p n o => Sys2Proof.Machine.execBra p n o s
  | .call p n o => Sys2Proof.Machine.execCall p n o s
  | .callr p n a => Sys2Proof.Machine.execCallr p n a s
  | .ret p n => Sys2Proof.Machine.execRet p n s
  | .jmpr p n a => Sys2Proof.Machine.execJmpr p n a s
  | .exit p n => Sys2Proof.Machine.execExit p n s
  | .yield => Sys2Proof.Machine.execYield s
  | .trap p n c => Sys2Proof.Machine.execTrap p n c s
  | .bkpt p n c => Sys2Proof.Machine.execBkpt p n c s
  | .nop => Sys2Proof.Machine.execNop s
  | .xPrefix g z n r v k kk ls => Sys2Proof.Machine.execXPrefix g z n r v k kk ls s
  | .wPrefix sw p => Sys2Proof.Machine.execWPrefix sw p s
  | .uadd d a b => Sys2Proof.Machine.execUadd d a b s
  | .usub d a b => Sys2Proof.Machine.execUsub d a b s
  | .umul d a b => Sys2Proof.Machine.execUmul d a b s
  | .uand d a b => Sys2Proof.Machine.execUand d a b s
  | .uor d a b => Sys2Proof.Machine.execUor d a b s
  | .uxor d a b => Sys2Proof.Machine.execUxor d a b s
  | .ushl d a b => Sys2Proof.Machine.execUshl d a b s
  | .ushr d a b => Sys2Proof.Machine.execUshr d a b s
  | .usar d a b => Sys2Proof.Machine.execUsar d a b s
  | .uminSg d a b => Sys2Proof.Machine.execUminSg d a b s
  | .uminUs d a b => Sys2Proof.Machine.execUminUs d a b s
  | .umaxSg d a b => Sys2Proof.Machine.execUmaxSg d a b s
  | .umaxUs d a b => Sys2Proof.Machine.execUmaxUs d a b s
  | .umov d a => Sys2Proof.Machine.execUmov d a s
  | .usel d a b => Sys2Proof.Machine.execUsel d a b s
  | .ucmp d a b c => Sys2Proof.Machine.execUcmp d a b c s
  | .uaddImm d a imm => Sys2Proof.Machine.execUaddImm d a imm s
  | .uld d a b o => Sys2Proof.Machine.execUld d a b o s
  | .ust d a b o => Sys2Proof.Machine.execUst d a b o s
  | .umoviLo d imm => Sys2Proof.Machine.execUmoviLo d imm s
  | .umoviHi d imm => Sys2Proof.Machine.execUmoviHi d imm s
  | .ubra n a imm => Sys2Proof.Machine.execUbra n a imm s
  | .ucall n a imm => Sys2Proof.Machine.execUcall n a imm s
  | .ubraReg a => Sys2Proof.Machine.execUbraReg a s
  | .ucallReg a => Sys2Proof.Machine.execUcallReg a s
  | .fence sc => Sys2Proof.Machine.execFence sc s
  | .fenceAcq sc => Sys2Proof.Machine.execFenceAcq sc s
  | .fenceRel sc => Sys2Proof.Machine.execFenceRel sc s
  | .fenceLrec => Sys2Proof.Machine.execFenceLrec s
  | .barInit a n => Sys2Proof.Machine.execBarInit a n s
  | .barArrive d n => Sys2Proof.Machine.execBarArrive d n s
  | .barWait d a n => Sys2Proof.Machine.execBarWait d a n s
  | .barSync d n => Sys2Proof.Machine.execBarSync d n s
  | .barInval n => Sys2Proof.Machine.execBarInval n s
  | .fbarSync d n k => Sys2Proof.Machine.execFbarSync d n k s
  | .ringInit a r => Sys2Proof.Machine.execRingInit a r s
  | .ringArriveFull a r => Sys2Proof.Machine.execRingArriveFull a r s
  | .ringArriveEmpty a r => Sys2Proof.Machine.execRingArriveEmpty a r s
  | .ringWaitFull d a r q => Sys2Proof.Machine.execRingWaitFull d a r q s
  | .ringWaitEmpty d a r q => Sys2Proof.Machine.execRingWaitEmpty d a r q s
  | .cftest d n => Sys2Proof.Machine.execCftest d n s
  | .copy a b sc => Sys2Proof.Machine.execCopy a b sc s
  | .copySt a b sc => Sys2Proof.Machine.execCopySt a b sc s
  | .copyAcc a b sc => Sys2Proof.Machine.execCopyAcc a b sc s
  | .cvinit a c => Sys2Proof.Machine.execCvinit a c s
  | .mma a c => Sys2Proof.Machine.execMma a c s
  | .wbload a b => Sys2Proof.Machine.execWbload a b s
  | .wbloadMask a b => Sys2Proof.Machine.execWbloadMask a b s
  | .accld a => Sys2Proof.Machine.execAccld a s
  | .accldF64 a => Sys2Proof.Machine.execAccldF64 a s
  | .accst a => Sys2Proof.Machine.execAccst a s
  | .accstF64 a => Sys2Proof.Machine.execAccstF64 a s
  | .acczero a => Sys2Proof.Machine.execAcczero a s
  | .opfence => Sys2Proof.Machine.execOpfence s
  | .xformCvt a b => Sys2Proof.Machine.execXformCvt a b s
  | .xformRound a b => Sys2Proof.Machine.execXformRound a b s
  | .xformScale a b => Sys2Proof.Machine.execXformScale a b s
  | .xformFill a b => Sys2Proof.Machine.execXformFill a b s
  | .xformZero a b => Sys2Proof.Machine.execXformZero a b s
  | .msgSend a b => Sys2Proof.Machine.execMsgSend a b s
  | .msgRecv d a b => Sys2Proof.Machine.execMsgRecv d a b s
  | .sregRdVector d imm => Sys2Proof.Machine.execSregRdVector d imm s
  | .sregRdUniform d imm => Sys2Proof.Machine.execSregRdUniform d imm s
  | .sregWr a imm => Sys2Proof.Machine.execSregWr a imm s
  | .temit a c => Sys2Proof.Machine.execTemit a c s
  | .ctrRd d n => Sys2Proof.Machine.execCtrRd d n s
  | .ctrCtl a n => Sys2Proof.Machine.execCtrCtl a n s
  | .rtag d g => Sys2Proof.Machine.execRtag d g s
  | .glaunch a q => Sys2Proof.Machine.execGlaunch a q s
  | .clauseFetch fibre => Sys2Proof.Machine.execClauseFetch fibre s
  | .ricWrap fibre => Sys2Proof.Machine.execRicWrap fibre s
  | .watchdogFault fibre => Sys2Proof.Machine.execWatchdogFault fibre s
  | .drowsyRetention fibre => Sys2Proof.Machine.execDrowsyRetention fibre s
  | .loadDataReturn op => Sys2Proof.Machine.execLoadDataReturn op s
  | .storePerformed op => Sys2Proof.Machine.execStorePerformed op s
  | .atomicPerformed op => Sys2Proof.Machine.execAtomicPerformed op s
  | .classBComplete op => Sys2Proof.Machine.execClassBComplete op s
  | .pageWalkComplete fibre => Sys2Proof.Machine.execPageWalkComplete fibre s
  | .lrecFillComplete fibre => Sys2Proof.Machine.execLrecFillComplete fibre s
  | .copyLineArrival op line => Sys2Proof.Machine.execCopyLineArrival op line s
  | .engineOperationComplete op => Sys2Proof.Machine.execEngineOperationComplete op s
  | .fibreRelease fibre => Sys2Proof.Machine.execFibreRelease fibre s
  | .messageArrival mbox sender spart sseq payload => Sys2Proof.Machine.execMessageArrival mbox sender spart sseq payload s
  | .msgAccepted op => Sys2Proof.Machine.execMsgAccepted op s
  | .mailboxAdmissionSignal dev mbox => Sys2Proof.Machine.execMailboxAdmissionSignal dev mbox s
  | .qdbWrite queue value => Sys2Proof.Machine.execQdbWrite queue value s
  | .packetConsume queue => Sys2Proof.Machine.execPacketConsume queue s
  | .clusterPlace grid => Sys2Proof.Machine.execClusterPlace grid s
  | .priorityWaitLimit grid => Sys2Proof.Machine.execPriorityWaitLimit grid s
  | .gridComplete grid => Sys2Proof.Machine.execGridComplete grid s
  | .teamRetire grid => Sys2Proof.Machine.execTeamRetire grid s
  | .modeChangeApply part => Sys2Proof.Machine.execModeChangeApply part s
  | .throttleSignal core => Sys2Proof.Machine.execThrottleSignal core s
  | .quietInterval core => Sys2Proof.Machine.execQuietInterval core s
  | .queueCongestion channel cores => Sys2Proof.Machine.execQueueCongestion channel cores s
  | .congestionRepeat channel cores => Sys2Proof.Machine.execCongestionRepeat channel cores s
  | .gangSwitchPropose part t => Sys2Proof.Machine.execGangSwitchPropose part t s
  | .gangTimeMessage part t => Sys2Proof.Machine.execGangTimeMessage part t s
  | .gangCancellation what => Sys2Proof.Machine.execGangCancellation what s
  | .gangAckDeadline part t => Sys2Proof.Machine.execGangAckDeadline part t s
  | .gangSwitch part => Sys2Proof.Machine.execGangSwitch part s
  | .bivouacFill part => Sys2Proof.Machine.execBivouacFill part s
  | .bivouacSpill part => Sys2Proof.Machine.execBivouacSpill part s
  | .cairn part => Sys2Proof.Machine.execCairn part s
  | .podCairnPropose part t number => Sys2Proof.Machine.execPodCairnPropose part t number s
  | .podCairnAckTimeout part => Sys2Proof.Machine.execPodCairnAckTimeout part s
  | .podCairnTake part => Sys2Proof.Machine.execPodCairnTake part s
  | .chunkLimit fibre => Sys2Proof.Machine.execChunkLimit fibre s
  | .sequenceExhausted line => Sys2Proof.Machine.execSequenceExhausted line s
  | .replayLogEnd part => Sys2Proof.Machine.execReplayLogEnd part s
  | .abortDrained grid => Sys2Proof.Machine.execAbortDrained grid s
  | .restoreComplete part => Sys2Proof.Machine.execRestoreComplete part s
  | .epochScrub part => Sys2Proof.Machine.execEpochScrub part s
  | .l1Eviction core line => Sys2Proof.Machine.execL1Eviction core line s
  | .coherenceRead who line via => Sys2Proof.Machine.execCoherenceRead who line via s
  | .coherenceOwnership who line via => Sys2Proof.Machine.execCoherenceOwnership who line via s
  | .coherenceWriteback who line data mask => Sys2Proof.Machine.execCoherenceWriteback who line data mask s
  | .evictionNotice dev line => Sys2Proof.Machine.execEvictionNotice dev line s
  | .invalidation home line => Sys2Proof.Machine.execInvalidation home line s
  | .recallLine home line => Sys2Proof.Machine.execRecallLine home line s
  | .lostCopiesNotice dev => Sys2Proof.Machine.execLostCopiesNotice dev s
  | .hostMemRead port h len => Sys2Proof.Machine.execHostMemRead port h len s
  | .hostMemWrite port h data => Sys2Proof.Machine.execHostMemWrite port h data s
  | .hostCacheOwnership port line => Sys2Proof.Machine.execHostCacheOwnership port line s
  | .pageRecompress part page => Sys2Proof.Machine.execPageRecompress part page s
  | .rmThreshold bank row => Sys2Proof.Machine.execRmThreshold bank row s
  | .rmHoldEnd bank => Sys2Proof.Machine.execRmHoldEnd bank s
  | .periodicRefresh bank row => Sys2Proof.Machine.execPeriodicRefresh bank row s
  | .traceFilter core => Sys2Proof.Machine.execTraceFilter core s
  | .linkFailure port => Sys2Proof.Machine.execLinkFailure port s
  | .linkTimeout port => Sys2Proof.Machine.execLinkTimeout port s
  | .ptpTimeUpdate time => Sys2Proof.Machine.execPtpTimeUpdate time s
  | .intrFreeze fibre => Sys2Proof.Machine.execIntrFreeze fibre s
  | .stepComplete fibre => Sys2Proof.Machine.execStepComplete fibre s
  | .resume fibre => Sys2Proof.Machine.execResume fibre s
  | .skip fibre => Sys2Proof.Machine.execSkip fibre s
  | .step fibre lane => Sys2Proof.Machine.execStep fibre lane s
  | .rdreg fibre sel lane => Sys2Proof.Machine.execRdreg fibre sel lane s
  | .wrreg fibre sel lane value => Sys2Proof.Machine.execWrreg fibre sel lane value s
  | .intr target wholeGrid => Sys2Proof.Machine.execIntr target wholeGrid s
  | .halt part => Sys2Proof.Machine.execHalt part s
  | .unhalt part => Sys2Proof.Machine.execUnhalt part s
  | .terminate handle => Sys2Proof.Machine.execTerminate handle s
  | .replay part cairn flags => Sys2Proof.Machine.execReplay part cairn flags s
  | .ctrtot vi => Sys2Proof.Machine.execCtrtot vi s
  | .ctrgrant vi grant => Sys2Proof.Machine.execCtrgrant vi grant s
  | .lanternLoad vi addr len => Sys2Proof.Machine.execLanternLoad vi addr len s
  | .lanternRead vi => Sys2Proof.Machine.execLanternRead vi s
  | .ctrprog vi c0 c1 c2 c3 => Sys2Proof.Machine.execCtrprog vi c0 c1 c2 c3 s
  | .ctrread vi addr => Sys2Proof.Machine.execCtrread vi addr s
  | .cfgrd space inst => Sys2Proof.Machine.execCfgrd space inst s
  | .cfgwr space inst value mask => Sys2Proof.Machine.execCfgwr space inst value mask s
  | .btinval ctx first count => Sys2Proof.Machine.execBtinval ctx first count s
  | .tlbinval ctx va len => Sys2Proof.Machine.execTlbinval ctx va len s
  | .mrdbWrite fn value => Sys2Proof.Machine.execMrdbWrite fn value s
  | .mgmtDatagram bytes => Sys2Proof.Machine.execMgmtDatagram bytes s
  | .info => Sys2Proof.Machine.execInfo s
  | .storeManifest bytes => Sys2Proof.Machine.execStoreManifest bytes s
  | .compareManifest index => Sys2Proof.Machine.execCompareManifest index s
  | .attest nonce part addr => Sys2Proof.Machine.execAttest nonce part addr s
  | .openSession ctx ct => Sys2Proof.Machine.execOpenSession ctx ct s
  | .remapAdd channel pc bank row => Sys2Proof.Machine.execRemapAdd channel pc bank row s
  | .powerState target => Sys2Proof.Machine.execPowerState target s
  | .warmReset => Sys2Proof.Machine.execWarmReset s
  | .fwUpdate bytes => Sys2Proof.Machine.execFwUpdate bytes s
  | .cxlHotReset port => Sys2Proof.Machine.execCxlHotReset port s
  | .coldReset => Sys2Proof.Machine.execColdReset s
  | .thermalWarning => Sys2Proof.Machine.execThermalWarning s
  | .thermalTrip => Sys2Proof.Machine.execThermalTrip s
  | .fqcfgWrite vi value => Sys2Proof.Machine.execFqcfgWrite vi value s
  | .fqptrWrite vi value => Sys2Proof.Machine.execFqptrWrite vi value s
  | .fqstatRead vi => Sys2Proof.Machine.execFqstatRead vi s
  | .srstatRead => Sys2Proof.Machine.execSrstatRead s
  | .trstatRead vi => Sys2Proof.Machine.execTrstatRead vi s
  | .hbmErrRead stack => Sys2Proof.Machine.execHbmErrRead stack s
  | .trptrWrite vi value => Sys2Proof.Machine.execTrptrWrite vi value s
  | .urstatFailClear part => Sys2Proof.Machine.execUrstatFailClear part s
  | .registerWrite reg inst value => Sys2Proof.Machine.execRegisterWrite reg inst value s
  | .recorderBufferFree part rec => Sys2Proof.Machine.execRecorderBufferFree part rec s
  | .twinPageConsumed part => Sys2Proof.Machine.execTwinPageConsumed part s
  | .powerLoss => Sys2Proof.Machine.execPowerLoss s
  | .linkRetrained port => Sys2Proof.Machine.execLinkRetrained port s
  | .flitCrcRetry port => Sys2Proof.Machine.execFlitCrcRetry port s
  | .guylineCreditReturn port vc => Sys2Proof.Machine.execGuylineCreditReturn port vc s
  | .podCairnInstant part => Sys2Proof.Machine.execPodCairnInstant part s
  | .podCairnAcknowledged part t2 => Sys2Proof.Machine.execPodCairnAcknowledged part t2 s
  | .h2dSnoop port addr => Sys2Proof.Machine.execH2dSnoop port addr s

end Sys2Proof.Machine
end

