-- ==== Sys2Proof/Machine/Policy.lean ====
section
/-!
DEFINITION. Sys2Proof/Machine/Policy.lean: issuing a word from a fibre, the end of a clock, management requests, and what happens next when
the agenda names nothing (R18-R20, R41, R42, R69-R76, R246, R249-R252, R302-R319, R361, R362, R369-R376; log entries 3 and 4).
-/

namespace Sys2Proof.Machine

/-! ### Commands of management requests (R273, R361-R363, R378, R398, R399) -/

/-- The command that a request code names, run with the arguments of its payload; a code or a payload that names none gives status 4. -/
def runCode (code : Nat) (pay : List Byte) (addr : Nat) (s : State) : Host.Outcome State Fault Refusal :=
  let a := payArg pay
  let w := fun (i : Nat) => BitVec.ofNat 64 (a i)
  let need := fun (n : Nat) (k : State → Host.Outcome State Fault Refusal) =>
    if 8 * n ≤ pay.length then k s else Host.Outcome.next (answer s 4 0)
  match code with
  | 0x0001 => execInfo s
  | 0x0010 => execStoreManifest pay s
  | 0x0011 => need 1 (execCompareManifest (a 0))
  | 0x0020 => need 5 (execAttest (BitVec.ofNat 256 (bytesNat (pay.take 32))) (a 4) addr)
  | 0x0021 => need 1 (execOpenSession (a 0) (pay.drop 8))
  | 0x0030 => need 4 (execRemapAdd (a 0) (a 1) (a 2) (a 3))
  | 0x0040 => need 1 (execPowerState (a 0))
  | 0x0041 => execWarmReset s
  | 0x0050 => execFwUpdate pay s
  | 0x1040 => need 1 (execResume (a 0))
  | 0x1041 => need 1 (execSkip (a 0))
  | 0x1042 => need 2 (execStep (a 0) (a 1))
  | 0x1043 => need 3 (execRdreg (a 0) (selOf (a 1)) (a 2))
  | 0x1044 => need 4 (execWrreg (a 0) (selOf (a 1)) (a 2) (BitVec.ofNat 320 (bytesNat ((pay.drop 24).take 40))))
  | 0x1045 => need 1 (execIntr (a 0) (a 1 != 0))
  | 0x1046 => need 1 (execHalt (a 0))
  | 0x1047 => need 1 (execUnhalt (a 0))
  | 0x1048 => need 1 (execTerminate (a 0))
  | 0x1049 => need 3 (execReplay (a 0) (a 1) (w 2))
  | 0x104A => need 1 (execCtrtot (a 0))
  | 0x104B => need 2 (execCtrgrant (a 0) (a 1 != 0))
  | 0x104C => need 3 (execLanternLoad (a 0) (a 1) (a 2))
  | 0x104D => need 1 (execLanternRead (a 0))
  | 0x104E => need 5 (execCtrprog (a 0) (w 1) (w 2) (w 3) (w 4))
  | 0x104F => need 1 (execCtrread (a 0) addr)
  | 0x1050 => need 2 (execCfgrd (a 0) (a 1))
  | 0x1051 => need 4 (execCfgwr (a 0) (a 1) (w 2) (w 3))
  | 0x1052 => need 3 (execBtinval (a 0) (a 1) (a 2))
  | 0x1053 => need 3 (execTlbinval (a 0) (a 1) (a 2))
  | _ => .next (answer s 4 0)

/-- Executes a request; its response follows at once, except that of a step that began (R276, R362). -/
def runRequest (src : Src) (code : Nat) (pay : List Byte) (addr : Nat) (rep : Reply) (s : State) :
    Host.Outcome State Fault Refusal :=
  match runCode code pay addr (s.modMgmt fun m => { m with src := src, reply := some rep }) with
  | .next s1 =>
    match s1.mgmt.reply with
    | some r => .next ((respond s1 r).modMgmt fun m => { m with reply := none })
    | none => .next s1
  | o => o

/-! ### Issuing a word (R18, R69-R72, R83-R89) -/

/-- The word that a running bundle issues next (R30, R69). Lanes that step through the rest of a replayed bundle (R319) make no
divergence of their own. -/
def issueOf (fid : Nat) (f : Fibre) (r : ClauseRun) : Issue :=
  let hdr := nth r.words 0 0
  { fibre := fid, lanes := r.lanes, clause := r.addr, first := r.word, word := r.word, px := none, sw := hdr.getLsbD 24, hdr := hdr
    div := f.liveMask &&& ~~~ (r.lanes ||| f.stepRest) != 0 && r.lanes &&& f.stepRest == 0 }

/-- A word that is no instruction (R83): SKIP passes a word of the prefixes' form with the word after it (R274). -/
def noWord (s : State) (c : Issue) (w : Word) : State := if isPrefix w then badPrefix s c else illegal s c

/-- Issues one word: an unassigned word or one whose operands are not allowed is illegal (R83). -/
def issueWord (c : Issue) (w : Word) (s : State) : Host.Outcome State Fault Refusal :=
  let s1 := { s with issue := some c }
  match decodeWord w with
  | .ok i => if i.wf then exec i s1 else .next (noWord s1 c w)
  | .error _ => .next (noWord s1 c w)

/-- After a word: a prefix is followed at once by the word it modifies (R84, R88). -/
def issueNext (c : Issue) (ws : List Word) : Host.Outcome State Fault Refusal → Host.Outcome State Fault Refusal
  | .next s =>
    match s.issue with
    | some d => if d.word = c.word then .next { s with issue := none } else issueWord d (nth ws d.word 0) s
    | none => .next s
  | o => o

/-- Issues the next word of a running bundle, with the prefixes before it; two prefixes may not follow each other (R89). -/
def issueBundle (c : Issue) (ws : List Word) (s : State) : Host.Outcome State Fault Refusal :=
  issueNext c ws (issueWord c (nth ws c.word 0) s)

/-! ### Replay (R314, R316, R319) -/

/-- Whether a word left in flight, or an access, still has to produce records that precede one due now, or a drop is still to be performed: the
fibre waits (R314), as it does for the logged status of a hold that has not ended. rest: the word is that of a partly stepped bundle, which counts no more (R319). -/
def logHolds (f : Fibre) (rest : Bool) : Bool :=
  let now := if rest then (f.ric - 1).toNat else f.ric.toNat
  let late := fun (r : BitVec 128) => recKind r ∈ [2, 4, 5, 7] && ricLt (recRic r) now
  match f.due with
  | [] => f.stepSeen.isEmpty
  | x :: _ =>
    (isDrop x && !ricLt now (recRic x)) ||
      (late x && recKind x == 5 && (List.finRange 32).any fun l => match (f.lane l).hold with
        | .sync w => w.ric.toNat == recRic x
        | _ => false) ||
      (late x && match f.due.dropWhile late with
        | r :: _ => recRic r == now && (!(recKind r ∈ [2, 4, 7]) || isDrop r)
        | [] => false)

/-- The slot switches where the log says so, whether or not the fibre stalls (R314). -/
def loggedSwitch (s : State) (fid : Nat) (r : BitVec 128) : State :=
  handOver ((chunkEnd s fid 0 0).modFib fid fun x => { x with sched := .ready, readyAt := s.clock + 1 }) fid (fieldOf r 63 60)

/-- The lanes that share a stepped lane's place: they are stepped, or run, through the same word without counting it again (R319). -/
def stepMates (s : State) (fid : Nat) (f : Fibre) (l : Fin 32) : LaneMask :=
  let c := candidates s fid f
  maskOf fun i => i != l && inMask c i && (f.lane i).pc == (f.lane l).pc && (f.lane i).word == (f.lane l).word

/-- The lanes of a bundle that are still to issue its word after the lanes of a run: those that share the place of the first lane to step,
or what an earlier step left (R319). -/
def restOf (s : State) (fid : Nat) (f : Fibre) (lanes : LaneMask) : LaneMask :=
  if !s.replaying (s.partOf fid) || lanes &&& f.stepRest != 0 then f.stepRest
  else
    match f.step with
    | some t => stepMates s fid f (Fin.ofNat 32 t.lane)
    | none => f.stepRest

/-- Prepares a word of a partly stepped bundle (R319): the first lane to step leaves the others to come; a later one is not counted. -/
def restBefore (s : State) (fid : Nat) (f : Fibre) (c : Issue) : State :=
  if !s.replaying (s.partOf fid) then s
  else if c.lanes &&& f.stepRest != 0 then
    s.modFib fid fun x => { x with ric := x.ric - 1, stepRest := x.stepRest &&& ~~~ c.lanes }
  else if f.step.isSome then s.modFib fid fun x => { x with stepRest := restOf s fid f c.lanes }
  else s

/-- Undoes restBefore where the word has not issued. -/
def restAfter (old : State) (fid : Nat) (f : Fibre) (c : Issue) (s : State) : State :=
  if !old.replaying (old.partOf fid) || (c.lanes &&& f.stepRest == 0 && f.step.isNone) then s
  else
    let before := if c.lanes &&& f.stepRest != 0 then f.ric - 1 else f.ric
    s.modFib fid fun x =>
      if x.ric = before then { x with ric := f.ric, stepRest := f.stepRest } else x

/-- Whether the word of a bundle has issued: its fibre's RIC has advanced, or its lanes are held at it. -/
def hasIssued (f : Fibre) (s : State) (fid : Nat) : Bool :=
  match s.fib fid with
  | some x => x.ric != f.ric
  | none => true

/-- Whether a word is a uniform access, uld or ust (R112). -/
abbrev isUniAccess (w : Word) : Bool := w.getLsbD 31 && majorOf w == 0x11

/-- The translation fault that the log places at a word which the walk let issue (R314): it names the access that the word issued. -/
def loggedWalk (old s : State) (c : Issue) (words : List Word) (r : BitVec 128) : State :=
  let f : Flt := { cause := fieldOf r 77 70, sub := fieldOf r 69 66, lanes := c.lanes }
  let s1 := { old with issue := some c }
  match s.ops.find? fun o => o.id == old.nextOp && o.kind.isMem with
  | none => raise s1 c f
  | some o =>
    let c1 := { c with word := o.word }
    let b := o.kind.bufInfo.getD ⟨0, 0, false, 0, 0⟩
    let uni := isUniAccess (nth words o.word 0)
    raise (if uni then flagErr s1 c.fibre o.flag else s1) c1
      { f with lanes := if uni then c.lanes else o.kind.accLanes, addr := (o.kind.memAccs.head?.map (·.va)).getD 0, breg := b.breg, bidx := b.idx }

/-- In replay: whether the accesses of an operation have their logged turns (R314). -/
def hasTurn (s : State) (o : Op) : Bool :=
  ((accLines s o.kind.memAccs).all fun e => replayTurn s o.fibre o.ric.toNat e.1 e.2) &&
    (ldsLines o.kind.ldsAccs).all fun ln => replayScratch s o.fibre o.ric.toNat ln

/-- Whether a stepped word issued an access whose logged turn has not come: its lane stays held at the word (R276, R314, R319). -/
def stepEarly (old s : State) (fid : Nat) (f : Fibre) : Bool :=
  f.step.isSome && old.replaying (old.partOf fid) && s.ops.any fun o => o.fibre == fid && decide (old.nextOp ≤ o.id) && !hasTurn s o

/-- The next CHUNK record of REASON 2 in a fibre's log: its RIC and the lanes it frees (R302, R306). -/
def nextFreeing (f : Fibre) : Option (Nat × LaneMask) :=
  (f.due.find? fun r => recKind r == 1 && fieldOf r 61 60 == 2).map fun r => (recRic r, BitVec.ofNat 32 (fieldOf r 59 28))

/-- Lanes leave the clause they execute, with the stamps they had before, and wait for the CHUNK record that frees them (R314). -/
def parkLanes (s : State) (fid : Nat) (f : Fibre) (m : LaneMask) : State :=
  s.modFib fid fun x =>
    { x with
      lanes := Vector.ofFn fun l => if inMask m l then { x.lane l with stamp := (f.lane l).stamp } else x.lane l
      freed := x.freed ||| m, run := none }

/-- Whether a word is one that waits for a phase (R174, R175, R178). -/
def waitsPhase (w : Word) : Bool :=
  match decodeWord w with
  | .ok (.barWait ..) => true
  | .ok (.barSync ..) => true
  | .ok (.fbarSync ..) => true
  | .ok (.ringWaitFull ..) => true
  | .ok (.ringWaitEmpty ..) => true
  | _ => false

/-- In replay: lanes that found the phase of a wait ended, where the log holds and frees them while other lanes go on, stay until it does
(R314; log entry 108). -/
def holdPassed (old : State) (fid : Nat) (f : Fibre) (c : Issue) (w : Word) (s : State) : State :=
  if !old.replaying (old.partOf fid) || !waitsPhase w then s else
  match s.fib fid, nextFreeing f with
  | some x, some (_, m) =>
    let passed := maskOf fun l => inMask (c.lanes &&& m) l && (x.lane l).live && (x.lane l).hold == .none
    if x.ric = f.ric || passed = 0 || candidates s fid x &&& ~~~ passed = 0 then s else parkLanes s fid f passed
  | _, _ => s

/-- In replay: a running bundle with lanes that the log frees at the fibre's RIC is formed anew there (R302, R314). -/
def parkFreed (s : State) (fid : Nat) (f : Fibre) : State :=
  match f.run, nextFreeing f with
  | some r, some (ric, m) =>
    if s.replaying (s.partOf fid) && ric == f.ric.toNat && ((logHead s fid).map recKind == some 1) && r.lanes &&& m != 0 && f.step.isNone
    then parkLanes s fid f (r.lanes &&& m) else s
  | _, _ => s

/-- What becomes of a word's step: it stalls when a recorder is full (R304); in replay a word that diverges has no effect (R233, R316), a
stepped access waits for its turn, and a translation fault that the log places at the word is delivered although the walk gives none
(R314). -/
def afterIssue (old : State) (fid : Nat) (f : Fibre) (c : Issue) (words : List Word) : Host.Outcome State Fault Refusal → Host.Outcome State Fault Refusal
  | .next s =>
    let wrong := if f.diverged.isSome then none else ((s.fib fid).bind (·.diverged)).filter fun d => d.1 != 0
    if overRecorded old s (old.partOf fid) then .next (stall { old with issue := some c } c .recorder)
    else if wrong.isSome then .next (old.modFib fid fun x => { x with diverged := wrong })
    else if stepEarly old s fid f then .next (stall { old with issue := some c } c .replay)
    else
      match dueRecord old fid f 7 with
      | some r =>
        if recWhat r = 1 && hasIssued f s fid then .next (loggedWalk old s c words r)
        else .next (restAfter old fid f c s)
      | none => .next (holdPassed old fid f c (nth words c.word 0) (restAfter old fid f c s))
  | o => o

/-- Runs the next word of the bundle that a fibre executes: WAIT is met before word 1 (R72), and a replayed log may hold it (R314). -/
def runWord (s : State) (fid : Nat) (f : Fibre) (r : ClauseRun) : Host.Outcome State Fault Refusal :=
  let c := issueOf fid { f with stepRest := restOf s fid f r.lanes } r
  let m : BitVec 12 := (c.hdr.setWidth 12)
  if !r.waited && s.cfWaits fid m then .next (stall s c (.flags m))
  else if s.replaying (s.partOf fid) && f.log.isEmpty && lostSub s fid == 2 then .next (mismatch s fid)
  else if s.replaying (s.partOf fid) && logHolds f (c.lanes &&& f.stepRest != 0) then .next (stall s c .replay)
  else afterIssue s fid f c r.words (issueBundle c r.words (restBefore s fid f c))

/-- What stands before a word at a clause boundary or a held word: a logged fault or switch in replay (R314), an interrupt (R277), the
watchdog (R42). -/
def boundary (s : State) (fid : Nat) (f : Fibre) : Option State :=
  match dueRecord s fid f 7, dueRecord s fid f 3 with
  | some _, _ => dueFault s fid f
  | none, some r => if slotShared s (slotOf fid) && f.step.isNone then some (loggedSwitch s fid r) else none
  | none, none => if f.run.isSome || f.step.isSome then none else dueFault s fid f

/-- A fibre issues: at a clause boundary it forms its bundle and fetches the clause first (R18, R69, R70); a chunk that ended there at a
breakpoint, or with another hash, freezes it before its word (R316, R318). A bundle with lanes that a replayed log frees here is formed anew. -/
def stepFibre (fid : Nat) (s0 : State) : Host.Outcome State Fault Refusal :=
  let s := match s0.fib fid with
    | some f => parkFreed s0 fid f
    | none => s0
  match s.fib fid with
  | none => .next s
  | some f =>
    if atomHolds s fid then .next (s.modFib fid fun x => { x with wait := some (.ops .atomics) }) else
    match boundary s fid f with
    | some s1 => .next s1
    | none =>
      match f.run with
      | some r => runWord s fid f r
      | none =>
        match execClauseFetch fid s with
        | .next s1 =>
          match s1.fib fid with
          | some g =>
            match g.run with
            | some r => if g.bpHit || g.diverged.isSome then .next s1 else runWord s1 fid g r
            | none => .next s1
          | none => .next s1
        | o => o

/-! ### Which fibres may issue (R18, R249, R263, R276, R278, R369) -/

/-- Whether the power state lets fibres begin clauses (R369). -/
def powered (s : State) : Bool := s.mgmt.power == .ps0 || s.mgmt.power == .ps1

/-- Whether a step waits for its word to issue (R276). -/
def stepDue (f : Fibre) : Bool :=
  f.wait.isNone && match f.step with
    | some t => !t.issued
    | none => false

/-- Whether a fibre is its slot's current one and neither halted nor stalled; at a clause boundary its partition, its grid and the power
state must let it go on. -/
def mayRun (s : State) (fid : Nat) (f : Fibre) : Bool :=
  let n := s.slot (slotOf fid)
  f.step.isNone && f.sched == .running && !f.halted && f.wait.isNone && n.cur == some fid && decide (n.runFrom ≤ s.clock) &&
    (f.run.isSome || (powered s && !(s.part (s.partOf fid)).halted && !s.aborting fid))

/-- Whether a fibre may issue in the present clock: a slot issues once (R18). -/
def mayIssue (s : State) (fid : Nat) : Bool :=
  match s.fib fid with
  | some f => !s.issued.contains (slotOf fid) && (stepDue f || mayRun s fid f)
  | none => false

/-- The next fibre to be offered its slot in this clock. -/
def nextFibre (s : State) : Option Nat := s.fibres.keys.find? fun f => !s.tried.contains (slotOf f) && mayIssue s f

/-! ### The leaves of a slot's clock (R371-R373) -/

/-- The leaf of a stall. -/
def Wait.leaf : Wait → Nat
  | .flags _ => 3
  | .regs _ _ _ => 4
  | .ops .flagging => 10
  | .ops _ => 7
  | .staging => 7
  | .acks => 7
  | .recorder => 7
  | .replay => 7
  | .msg _ => 8
  | .queue _ => 8
  | _ => 10

/-- The leaf of a hold. -/
def Hold.leaf : Hold → Nat
  | .absent _ => 5
  | .cross _ => 6
  | .sync _ => 6
  | _ => 10

/-- The first leaf whose reason is among a fibre's (R372). -/
def Fibre.leaf (f : Fibre) : Nat :=
  if f.sched = .frozen || f.halted then 10 else
  (laneList f.liveMask).foldl (fun n l => min n (f.lane l).hold.leaf) ((f.wait.map Wait.leaf).getD 10)

/-- The leaf of some fibres together. -/
def leafOf (s : State) (fs : List Nat) : Nat := fs.foldl (fun n f => min n (((s.fib f).map Fibre.leaf).getD 10)) 10

/-- Whether every fibre of a list is Frozen or Halted. -/
def allStopped (s : State) (fs : List Nat) : Bool := fs.all fun f => ((s.fib f).map fun x => x.sched == .frozen || x.halted).getD true

/-- The leaf of a slot in the clock that ends: by number as R374 lists them, less 4. -/
def slotLeaf (s : State) (n : Nat) : Nat :=
  let sl := s.slot n
  let fs := slotFibres s n
  if s.issued.contains n then 0
  else if fs.isEmpty then 1
  else if sl.cur.isNone && sl.out.isSome && sl.runFrom == s.clock + 1 then 11
  else if sl.cur.isNone && (fs.any fun f => isReady s f && !admissible s f) && !(sl.runFrom == s.clock + 2) then 2
  else
    let who := match sl.cur, sl.out with
      | some f, _ => [f]
      | none, some (f, _, _) => if sl.runFrom = s.clock + 2 then [f] else fs
      | none, none => fs
    let n := leafOf s who
    if n = 10 && allStopped s fs then 9 else n

/-- The counters of a core that a clock advances: leaves, words issued, clocks, matrix engine clocks (R371, R376, R399). -/
def coreClock (s : State) (c : Nat) (k : Core) : Core :=
  let ls := (List.range 4).map fun i => slotLeaf s (4 * c + i)
  let busy := s.ops.any fun o => o.core == c && match o.kind with
    | .engine e => e.form == .mma
    | _ => false
  ({ k with
      leaves := Vector.ofFn fun (i : Fin 12) => k.leaves[i] + BitVec.ofNat 64 (ls.count i.val)
      issued := k.issued + BitVec.ofNat 64 (ls.count 0) }.pmCount none 0x01 1).pmCount none 0x0F (if busy then 1 else 0)

/-- The cores of a table with an entry for each of some cores. -/
def withCores (m : AMap Core) (cs : List Nat) : AMap Core := cs.foldl (fun m c => if (m.get? c).isSome then m else m.set c Core.init) m

/-- The partitions whose cores a context holds in this clock. -/
def boundParts (s : State) : List Nat := (s.parts.filter fun e => e.2.runVi.isSome && e.2.cfg.getLsbD 8).map (·.1)

/-- Writes of PMCTL take effect from the next clock, in slot order (R375). -/
def applyPmctl (k : Core) : Core :=
  (k.pmNext.mergeSort fun x y => x.1 ≤ y.1).foldl (fun k e =>
    { k with
      pmctl := vset k.pmctl e.2.1 (e.2.2 &&& ~~~ 2#64)
      pmcnt := if e.2.2.getLsbD 1 then vset k.pmcnt e.2.1 0 else k.pmcnt }) { k with pmNext := [] }

/-! ### The end of a clock (R42, R249, R252, R306, R314, R360) -/

/-- The watchdog of a slot's current fibre advances while another fibre of the slot is Ready; outside the replay modes the fault falls
due where the count reaches 2^WDLOG (R42, R252). -/
def watch (s : State) (n : Nat) : State :=
  match (s.slot n).cur with
  | some f =>
    match s.fib f with
    | some x =>
      let p := s.part (s.partOf f)
      if x.sched == .running && !x.halted && !p.halted && decide ((s.slot n).runFrom ≤ s.clock) && (s.core (coreOf f)).admitted.contains f &&
          (slotFibres s n).any fun g => g != f && isReady s g then
        s.modFib f fun x =>
          { x with wdog := x.wdog + 1,
                   wdDue := x.wdDue || (!s.inReplayMode (s.partOf f) && decide (2 ^ p.wdlog ≤ x.wdog + 1)) }
      else s
    | none => s
  | none => s

/-- What a yield point of fibre f gives at the end of the clock (R19, R21, R42, R249, R251): a fault that is due comes first; else the
watchdog count returns to zero, f leaves the admitted set where a Ready fibre of its slot finds it full, and where another fibre is Ready
and admitted f becomes Ready and its slot switches. -/
def yieldNow (s : State) (f : Nat) (x : Fibre) : State :=
  match if x.run.isNone then dueFault s f x else none with
  | some s1 => s1
  | none =>
    let s1 := s.modFib f fun x => { x with yielded := false, wdog := 0 }
    let shut := (slotFibres s1 (slotOf f)).any fun g => g != f && isReady s1 g && !admissible s1 g
    let s2 := if shut then leaveSet s1 f else s1
    if otherReady s2 f && maySwitch s2 f then
      handOver (s2.modFib f fun x => { x with sched := .ready, readyAt := s.clock + 1 }) f 2
    else s2

/-- The yield points that slot n's current fibre reached in the clock that ends, then a fibre whose every lane is held (R249). -/
def yieldSlot (s : State) (n : Nat) : State :=
  match (s.slot n).cur with
  | none => s
  | some f =>
    match s.fib f with
    | some x => if x.yielded then settleHeld (yieldNow s f x) f else s
    | none => s

/-- The log of a fibre, bound or not, in a replaying partition. -/
def anyLog (s : State) (p f : Nat) : List (BitVec 128) :=
  match s.fib f with
  | some x => x.log
  | none => ((s.part p).replay.map fun r => r.logs.getD f []).getD []

/-- Takes a record off the log of a fibre, bound or not. -/
def dropRecord (s : State) (p f : Nat) (r : BitVec 128) : State :=
  match s.fib f with
  | some _ => s.modFib f fun x => { x with log := x.log.erase r }
  | none =>
    let s1 := s.modPart p fun t => { t with replay := t.replay.map fun y => { y with logs := y.logs.adj f fun l => l.erase r } }
    looseDrops s1 p f (anyLog s1 p f).length

/-- The SWITCH record that a hand-over under way awaits in replay (R314). -/
def switchRecord (s : State) (p : Nat) (out : Nat × Nat × Nat) : Option (BitVec 128) :=
  match (anyLog s p out.1).filter fun r => recKind r != 1 with
  | r :: _ => if recKind r = 3 && recRic r = out.2.1 then some r else none
  | [] => none

/-- The admitted Ready fibre with the earliest ready time; ties to the lowest place (R249). -/
def oldestReady (s : State) (n : Nat) : Option Nat :=
  let at_ := fun (f : Nat) => ((s.fib f).map (·.readyAt)).getD 0
  match (slotFibres s n).filter fun f => isReady s f && admissible s f with
  | [] => none
  | f :: fs => some (fs.foldl (fun b g => if at_ g < at_ b then g else b) f)

/-- Fibre g takes slot n from the next clock on (R249, R251, R252). -/
def takeSlot (s : State) (n g : Nat) : State :=
  let sl := s.slot n
  let charged := sl.out.isSome && sl.runFrom == s.clock + 1 && (slotFibres s n).any fun h => h != g && isReady s h
  let shared := slotShared s n && sl.out.isSome
  ((s.modFib g fun x => { x with sched := .running, wdog := if charged then 1 else 0 }).modSlot n fun sl =>
    { sl with cur := some g, runFrom := s.clock + 1, out := none, switches := if shared then sl.switches + 1 else sl.switches }).modCore
      (coreOf g) fun k => { k with admitted := if k.admitted.contains g then k.admitted else k.admitted ++ [g] }

/-- Slot n chooses its next fibre; a slot that holds a shared window logs the switch, or in replay follows its log (R25, R249, R306,
R314). -/
def chooseFibre (s : State) (n : Nat) : State :=
  let sl := s.slot n
  let p := s.partOfCore (n / 4)
  if sl.cur.isSome || s.clock + 1 < sl.runFrom || (s.part p).halted then s
  else
    match if slotShared s n then sl.out else none with
    | none => match oldestReady s n with
      | some g => takeSlot s n g
      | none => s
    | some out =>
      if s.replaying p then
        match switchRecord s p out with
        | some r =>
          let g := fieldOf r 77 64
          if isReady s g && slotOf g == n && admissible s g then takeSlot (dropRecord s p out.1 r) n g else s
        | none => s
      else
        match oldestReady s n with
        | some g =>
          if s.recording p then
            if recorderFull s p (blockOf (n / 4)) then s
            else takeSlot (produce s out.1 3 out.2.1 (g * 2 ^ 48 + out.2.2 * 2 ^ 44) sl.switches.toNat) n g
          else takeSlot s n g
        | none => s

/-- GTS advances by the clock's length, 10/19 ns in PS0 and 2/3 ns in PS1, and slews by up to 200 ppm; a correction above 1 ms rests while
some partition runs a recording mode (R36, R360). -/
def gtsClock (recording : Bool) (m : Mgmt) : Mgmt :=
  let d : Int := if m.slewBig && recording then 0 else if 0 < m.slew then 1 else if m.slew < 0 then -1 else 0
  let base : Int := if m.power = .ps1 then 19000 else 15000
  let x := ((m.gtsFrac : Int) + base + 3 * d).toNat
  { m with gts := m.gts + BitVec.ofNat 64 (x / 28500), gtsFrac := x % 28500, slew := m.slew - d }

/-- Ends the present clock (log entry 4). -/
def tick (s : State) : State :=
  let held := boundParts s
  let on := fun (c : Nat) => held.contains (s.partOfCore c)
  let s1 := { s with cores := (withCores s.cores (held.flatMap s.coresOf)).mapVals fun c k => if on c then coreClock s c k else k }
  let s2 := s1.slots.keys.foldl yieldSlot (s1.slots.keys.foldl watch s1)
  let on := powered s
  let cyc := fun (_ : Nat) (t : Part) => if on && t.cfg.getLsbD 8 && !t.halted then { t with cycle := t.cycle + 1 } else t
  let s3 := { s2 with cores := s2.cores.mapVals (fun _ k => applyPmctl k), parts := s2.parts.mapVals cyc }
  let s4 := (s3.fibres.keys.map slotOf).dedup.foldl chooseFibre s3
  let s4 := if s4.hbm.congested.isEmpty then s4
    else { s4 with hbm := { s4.hbm with congested := s4.hbm.congested.filter fun e => decide (chanTh s4 e.1 ≤ chanOcc s4 e.1 []) } }
  let s5 := { s4 with clock := s4.clock + 1, issued := [], tried := [], served := false }.modMgmt (gtsClock ((List.range 8).any s4.recording))
  if s5.fabric.overflow.isEmpty && s5.fabric.heldPage.isEmpty then s5 else drainAll s5

/-! ### What else can happen (log entry 3) -/

/-- The completion of an operation in flight (R73, R156). -/
def completeOp (o : Op) : State → Host.Outcome State Fault Refusal :=
  match o.kind with
  | .load .. => execLoadDataReturn o.id
  | .uload .. => execLoadDataReturn o.id
  | .lds .. => execLoadDataReturn o.id
  | .store .. => execStorePerformed o.id
  | .sts .. => execStorePerformed o.id
  | .atom .. => execAtomicPerformed o.id
  | .aacc .. => execAtomicPerformed o.id
  | .classB .. => execClassBComplete o.id
  | .engine _ => execEngineOperationComplete o.id
  | .send .. => execMsgAccepted o.id
  | .sign .. => .next
  | .done => .next

/-- Whether an operation's completion need not wait for anything that is plain to see. -/
def opDue (s : State) (o : Op) : Bool :=
  match o.kind with
  | .classB .. => true
  | .engine e => decide (e.early ≠ 0) || engineReady s o e ((parseRec e.record).getD LRec.none_)
  | .send .. => !earlierMem s o
  | .sign .. | .done => false
  | _ => !overtakes s o && (linesReady s o || mayAsk s o)

/-- The first of a list of events that changes the state. -/
def firstChange (s : State) : List (State → Host.Outcome State Fault Refusal) → Option State
  | [] => none
  | e :: r =>
    match e s with
    | .next s1 => if s1 = s then firstChange s r else some s1
    | _ => firstChange s r

/-- An event for each key of a table that passes a test. -/
def forEach {α : Type} (m : AMap α) (p : Nat → α → Bool) (e : Nat → State → Host.Outcome State Fault Refusal) :
    List (State → Host.Outcome State Fault Refusal) := (m.filter fun x => p x.1 x.2).map fun x => e x.1

/-- What the fibres' own units may do: walks, layout records, releases, ends of steps, interrupts at held words, retention. -/
def fibreEvents (s : State) : List (State → Host.Outcome State Fault Refusal) :=
  forEach s.fibres (fun _ f => !f.walkReq.isEmpty) execPageWalkComplete ++
  forEach s.fibres (fun _ f => f.lrecReq.isSome) execLrecFillComplete ++
  forEach s.fibres (fun n _ => releasable s n) execFibreRelease ++
  forEach s.fibres (fun _ f => f.step.isSome) execStepComplete ++
  forEach s.fibres (fun n f => f.intr && f.sched != .frozen && !s.replaying (s.partOf n)) execIntrFreeze ++
  forEach s.fibres (fun _ f => f.sched == .waiting && !f.drowsy && decide (f.waitFrom + 4096 ≤ s.clock)) execDrowsyRetention

/-- The instant at which a partition would switch next: when its slice ends, at least 1 ms ahead (R253, R254). -/
def nextInstant (s : State) (p : Nat) : Nat := max (sliceEnd s p) (s.mgmt.gts.toNat + 1000000)

/-- What a partition's units may do: aborts, restores, gang switches, recorders, twins, modes, scrubs, Bivouac, pod Cairns. -/
def partEvents (s : State) : List (State → Host.Outcome State Fault Refusal) :=
  forEach s.grids (fun _ g => g.abort.isSome) execAbortDrained ++
  forEach s.parts (fun _ t => t.replayDue.isSome || t.urState == .restoring) execRestoreComplete ++
  forEach s.parts (fun _ t => !t.armed.isEmpty || !t.slices.isEmpty) execGangSwitch ++
  forEach s.parts (fun _ t => t.leads && !t.slices.isEmpty && t.armed.isEmpty && t.runVi.isSome) (fun p => execGangSwitchPropose p (nextInstant s p)) ++
  forEach s.parts (fun p _ => !(unacked s p).isEmpty) (fun p => execGangAckDeadline p (nextInstant s p)) ++
  forEach s.parts (fun p _ => logOver s p || strandedMsgs s p) execReplayLogEnd ++
  (s.parts.flatMap fun e => forEach e.2.recs (fun _ r => decide (252 ≤ r.recs.length)) fun k => execRecorderBufferFree e.1 k) ++
  (s.parts.filter fun e => decide (12 ≤ e.2.lpages.length)).map (fun e => execRecorderBufferFree e.1 24) ++
  forEach s.parts (fun _ t => t.twin.isSome) execTwinPageConsumed ++
  forEach s.parts (fun p t => (t.nextMode.isSome || t.nextWd.isSome) && atBoundary s p) execModeChangeApply ++
  forEach s.parts (fun _ t => !t.scrubbed) execEpochScrub ++
  forEach s.parts (fun _ t => !t.slices.isEmpty) execBivouacSpill ++
  forEach s.parts (fun _ t => !t.slices.isEmpty) execBivouacFill ++
  forEach s.parts (fun _ t => t.podAt.isSome && !t.podAck) execPodCairnInstant ++
  forEach s.parts (fun _ t => t.podT2.isSome) execPodCairnTake

/-- The channels whose queues hold as many requests as their threshold and are not congested yet (R342). -/
def congesting (s : State) : List Nat :=
  let chans := s.ops.flatMap fun o => ((opLines s o).map (·.1)).dedup.filterMap fun ln =>
    if isRemote ln || (s.line ln).inL3 then none else some (placeOf s ln).chan
  chans.dedup.filter fun ch => (s.hbm.congested.get? ch).isNone && decide (chanTh s ch ≤ chanOcc s ch [])

/-- What cores and main memory may do: trace filters, quiet intervals, recompression, ends of refresh holds, messages
sent again. -/
def deviceEvents (s : State) : List (State → Host.Outcome State Fault Refusal) :=
  forEach s.cores (fun _ k => !k.fifo.isEmpty) execTraceFilter ++
  forEach s.cores (fun c k => decide (k.agl < 32) && quietOver s c) execQuietInterval ++
  (s.hbm.cheld.filter fun e => (s.hbm.cstuck.get? e.1).isNone).map (fun e => execPageRecompress (lineRegionPart s (e.1 * 512)) e.1) ++
  (congesting s).map (fun ch => execQueueCongestion ch []) ++
  forEach s.hbm.congested (fun _ t => decide (t + 256 ≤ s.clock)) (fun ch => execCongestionRepeat ch []) ++
  forEach s.hbm.bankHold (fun _ t => decide (t ≤ s.clock)) execRmHoldEnd ++
  (((s.fabric.retry.map (·.mbox)).dedup.filter (resendable s)).map fun n => execMailboxAdmissionSignal s.fabric.device n)

/-- The grids with clusters to place, highest PRIO first, round robin among equals from the one after the last placed (R246). -/
def placeOrder (s : State) : List Nat :=
  let key := fun (e : Nat × Grid) =>
    ((s.queue e.2.queue).prio, if (s.part e.2.part).lastGrid.getD (s.queue e.2.queue).prio 0 ≤ e.1 then 0 else 1, e.1)
  (s.grids.mergeSort fun x y =>
    let a := key x
    let b := key y
    decide (b.1 < a.1) || (a.1 == b.1 && (decide (a.2.1 < b.2.1) || (a.2.1 == b.2.1 && decide (a.2.2 ≤ b.2.2))))).map (·.1)

/-- Trailhead's own work: retiring teams, completing grids, Cairns, packets by PRIO, clusters (R231, R236, R246, R257, R311). -/
def trailheadEvents (s : State) : List (State → Host.Outcome State Fault Refusal) :=
  forEach s.grids (fun g _ => (nextToRetire s g).isSome) execTeamRetire ++
  forEach s.grids (fun _ g => g.teamsEnd == gridTeams g.packet) execGridComplete ++
  (if s.queues.isEmpty && s.parts.isEmpty then [] else ((List.range 8).filter fun p =>
      (cairnNext s p).isSome && (cairnReady s p || (twinOf s p).isSome)).map fun p => execCairn p) ++
  (((s.queues.filter fun e => e.2.head != e.2.tail || s.replaying (packetPart s e.1)).mergeSort fun x y =>
    decide (y.2.prio ≤ x.2.prio)).map fun e => execPacketConsume e.1) ++
  ((placeOrder s).filter fun g => ((s.grid g).map (placing s)).getD false).map (fun g => execClusterPlace g) ++
  forEach s.grids (fun _ g => g.waitFrom.isSome && !g.blocks) execPriorityWaitLimit

/-- The next request of a ring, executed unless it must wait (R284, R362). -/
def requestEvent (s : State) : Host.Outcome State Fault Refusal :=
  match nextRequest s with
  | some (.request src code pay addr rep) => if requestWaits s code pay rep then .next s else runRequest src code pay addr rep s
  | _ => .next s

/-- One event of the device by itself, if any can happen: operations in flight, oldest first, and everything else, in turn by clocks. -/
def serve (s : State) : Option State :=
  let ops := (s.ops.filter (opDue s)).map completeOp
  let rest := fibreEvents s ++ (if (nextRequest s).isSome then [requestEvent] else []) ++ partEvents s ++ deviceEvents s
  firstChange s (if s.clock % 2 = 0 then ops ++ rest ++ trailheadEvents s else rest.rotateLeft (s.clock / 2) ++ trailheadEvents s ++ ops)

/-! ### Steps -/

/-- In replay: a fibre at a held word, or at a clause boundary without a slot, meets the logged fault of WHAT 0 at its RIC (R277, R314). -/
def replayFault (s : State) (fid : Nat) : State :=
  match s.fib fid with
  | some f =>
    match dueRecord s fid f 7 with
    | some r => if recWhat r = 0 && f.sched != .frozen && (f.wait.isSome || (f.run.isNone && f.sched != .running)) then loggedFault s fid r else s
    | none => s
  | none => s

/-- What follows every step at once: replayed drops and chunk ends, settling, and the responses of steps that ended. -/
def settleAll (s : State) : State :=
  let rep := fun (s : State) (f : Nat) =>
    if !s.replaying (s.partOf f) then s
    else if ((s.fib f).map fun x => x.stepRest == 0).getD false then replayFault (replayAfter (stepMet s f) f) f
    else s
  settleSteps (settle (s.fibres.keys.foldl rep { s with issue := none }))

/-- settleAll after a step that gives a next state. -/
def thenSettle : Host.Outcome State Fault Refusal → Host.Outcome State Fault Refusal
  | .next s => .next (settleAll s)
  | o => o

/-- With no agenda: once in a clock the device serves one event, then each slot may issue, and a clock in which a slot issued ends; when
no slot can issue the device serves what it can, and time passes when it can do nothing. -/
def byItself (s : State) : Host.Outcome State Fault Refusal :=
  match if s.served then none else serve s with
  | some s1 => thenSettle (.next { s1 with served := true })
  | none =>
    match nextFibre s with
    | some f => thenSettle (stepFibre f { s with served := true, tried := slotOf f :: s.tried })
    | none =>
      if !s.issued.isEmpty then thenSettle (.next (tick s))
      else
        match serve s with
        | some s1 => thenSettle (.next s1)
        | none => thenSettle (.next (tick s))

/-- An event of the agenda comes from outside: what it commands, PF0 commands, and no response is written. -/
def outside (i : Instr) (s : State) : Host.Outcome State Fault Refusal :=
  exec i (s.modMgmt fun m => { m with src := .pf0, reply := none })

/-- What comes from outside and is no event of the opcode table. -/
def takeInput : Input → State → State
  | .lineAck line who, s => lineAcked s line who
  | .foreign line data mask poison, s => foreignWrite s line data mask poison
  | .gangAck p t dev mpart, s => gangAcked s p t dev mpart
  | .creditsOut port vc, s => creditsOut port vc s
  | .sendError op, s => sendError s op

/-- Whether a request of another device or of a host to a line waits, and if so whether it still has messages to send out (R329, R336). -/
def lineHolds (s : State) (line : Nat) (waits : Bool) : Option Bool :=
  if waits then some (!pageHeld s line && (asker s line).isNone) else none

/-- Whether an event of the agenda must wait: for a line (R329, R336), for its turn in a pod-wide replay (R323), or for accesses in flight
(R284); and if so whether it still has messages to send out. -/
def eventHolds (s : State) : Instr → Option Bool
  | .coherenceRead who line via =>
    let s0 := fetchLine s line false
    if !remoteTurn s line who.order then some false
    else if cachedFor s via.sgrp via.coh who.dev then lineHolds s0 line (deviceWaits s0 who.dev line (.dev who.dev false) who.order)
    else lineHolds s line (pageHeld s line)
  | .coherenceOwnership who line via =>
    let s0 := fetchLine s line false
    if !cachedFor s via.sgrp via.coh who.dev then none
    else if !remoteTurn s line who.order then some false
    else lineHolds s0 line (deviceWaits s0 who.dev line (.dev who.dev true) who.order)
  | .coherenceWriteback who line _ _ =>
    let s0 := fetchLine s line false
    if pageHeld s line then some false
    else if (mdState (s0.md line) = 3 ∨ mdState (s0.md line) = 4) ∧ mdOwner (s0.md line) = who.dev then none
    else if !remoteTurn s line who.order then some false
    else lineHolds s0 line (deviceWaits s0 who.dev line (.home true) who.order)
  | .hostMemRead port h _ => lineHolds s (lineOf h) (hostWaits s (port % 2) (lineOf h) false)
  | .hostMemWrite port h _ =>
    if backed s (lineOf h) && hostHolds s (lineOf h) then none else lineHolds s (lineOf h) (hostWaits s (port % 2) (lineOf h) true)
  | .hostCacheOwnership port line =>
    if backed s line && hostHolds s line then none else lineHolds s line (hostWaits s (port % 2) line true)
  | .btinval ctx first count => if btBusy s ctx first count then some false else none
  | _ => none

/-- A turn goes back to the head of the agenda. -/
def keepTurn (t : Turn) : Host.Outcome State Fault Refusal → Host.Outcome State Fault Refusal
  | .next s => .next { s with agenda := t :: s.agenda }
  | o => o

/-- Whether a turn must wait with nothing to do. -/
def turnIdle (s : State) : Turn → Bool
  | .request _ code pay _ rep => requestWaits s code pay rep
  | .event i => eventHolds s i == some false
  | _ => false

/-- The first turn of an agenda that need not wait, and what is left; the requests of one source keep their order (R361). -/
def pickTurn (s : State) : List Turn → List Src → Option (Turn × List Turn)
  | [], _ => none
  | t :: rest, held =>
    let src : List Src := match t with
      | .request x _ _ _ _ => [x]
      | _ => []
    if turnIdle s t || src.any held.contains then (pickTurn s rest (src ++ held)).map fun x => (x.1, t :: x.2)
    else some (t, rest)

/-- One turn of the agenda; an event that only sends out what it waits for leaves its turn in place. -/
def runTurn (t : Turn) (s : State) : Host.Outcome State Fault Refusal :=
  match t with
  | .issue f => thenSettle (if mayIssue s f then stepFibre f { s with tried := slotOf f :: s.tried } else .next s)
  | .tick => thenSettle (.next (tick s))
  | .event i => thenSettle (if (eventHolds s i).isSome then keepTurn t (outside i s) else outside i s)
  | .input x => thenSettle (.next (takeInput x s))
  | .request src code pay addr rep => thenSettle (runRequest src code pay addr rep s)

/-- Whether the device takes part in anything: not in PS4, and not after a failed boot (R367, R369). -/
def alive (s : State) : Bool := s.mgmt.power != .ps4 && !s.mgmt.bootErr

/-- What a device that is off still takes: a cold reset, or a command for its power state (R367, R369). -/
def wakes : Turn → Bool
  | .event .coldReset => true
  | .event (.powerState _) => true
  | .request _ code _ _ _ => code == 0x0040
  | _ => false

/-- One step of the device: the first turn of the agenda that need not wait, else by itself. -/
def stepOnce (s : State) : Host.Outcome State Fault Refusal :=
  match s.agenda with
  | [] => if alive s then byItself s else .next s
  | t :: rest =>
    if !alive s && !wakes t then .next { s with agenda := rest }
    else
      match pickTurn s (t :: rest) [] with
      | some x => runTurn x.1 { s with agenda := x.2 }
      | none => byItself s

/-! ### A word placed for the next step -/

/-- The role in which a word runs (R180, R193). -/
def roleFor : Instr → Role
  | .copy .. | .copySt .. | .copyAcc .. => .copy
  | .cvinit .. | .mma .. | .wbload .. | .wbloadMask .. | .accld .. | .accldF64 .. | .accst .. | .accstF64 .. | .acczero .. | .opfence => .matrix
  | _ => .vector

/-- The words of a clause that holds one word: after the header, a prefix where the word needs a fourth operand; after a prefix, a word
that it may modify. -/
def clauseFor (w : Word) : List Word :=
  let ws := match decodeWord w with
    | .ok (.xPrefix ..) => [w, 0x30000000#32]
    | .ok (.wPrefix ..) => [w, 0x7D200000#32]
    | .ok i => if (xuse i).vc then [0x7EE70000#32, w] else [w]
    | .error _ => [w]
  BitVec.ofNat 32 (ws.length * 2 ^ 20) :: ws

/-- A fibre of one full group of 32 lanes, alone in its team, that executes a clause from its first word. -/
def soleFibre (role : Role) (ws : List Word) : Fibre :=
  { team := 0, group := 0, role := role, priv := 128, shared := 0, region := 0, sched := .running, halted := false, readyAt := 0
    waitFrom := 0, wait := none, lanes := Vector.replicate 32 ⟨true, 0, 1, .none, 0⟩, v := [], p := Vector.replicate 8 0
    q := Vector.replicate 2 (lanesOf 0), s := Vector.replicate 64 0
    b := Vector.ofFn fun (i : Fin 16) => if i.val = 0 then 0x800001#24 else 0
    cfErr := 0, fpstat := 0, ric := 0, wraps := 0, wdog := 0, wdDue := false, yielded := false, append := Vector.replicate 4 0, ovf := Vector.replicate 4 false
    run := some ⟨0, ws, BitVec.allOnes 32, 1, true⟩, frozen := none, intr := false, step := none, drowsy := false, walkReq := []
    walkRes := [], lrecReq := none, recvErr := false, postDue := none, freed := 0, chFrom := 0, chItems := [], uwrites := 0, log := []
    diverged := none, bpHit := false, stepRest := 0, stepSeen := [] }

/-- The team of that fibre. -/
def soleTeam (matrix : Bool) : Team :=
  { grid := 0, index := 0, rank := 0, core := 0, groups := 1, sbase := 0, slines := 0, rings := [], fbars := [], matrix := matrix
    fibres := [0], live := [0], bars := Vector.replicate 16 (Barrier.init 1), cvs := Vector.replicate 16 Conv.init, staged := [], near := []
    stLines := [], held := [], unfenced := [], finished := false, retired := false }

/-- Places the 32-bit word w so that the next step issues it (log entry 37). -/
def placeWord (s : State) (w : Word) : State :=
  let role := match decodeWord w with
    | .ok i => roleFor i
    | .error _ => .vector
  let g : Grid := { newGrid s 0 0 0 0 [0x200001#64, 0x0001000100000001#64] [] [0, 0x0000000000000141#64] with placed := 1 }
  { s with
    agenda := [.issue 0], issued := [], tried := [], clock := s.clock
    grids := s.grids.set 0 g
    teams := s.teams.set 0 (soleTeam (role == Role.matrix))
    fibres := s.fibres.set 0 (soleFibre role (clauseFor w)) }.modSlot 0 fun sl => { sl with cur := some 0, runFrom := s.clock }

end Sys2Proof.Machine
end

