-- ==== Sys2Proof/Safety.lean ====
section
/-!
DEFINITION. Sys2Proof/Safety.lean: the terms in which claims about the machine are made: what is kept between two states, which registers
one register stands for, when a word may issue, and what holds between steps.
-/

namespace Sys2Proof.Machine

/-! ### What is kept -/

/-- The registers of a fibre (R29 to R33) with what fixes its windows and role (R22, R26). -/
structure Regs where
  team   : Nat
  group  : Nat
  role   : Role
  priv   : Nat
  shared : Nat
  region : Nat
  v      : AMap VReg
  p      : Vector LaneMask 8
  q      : Vector (Lanes W320) 2
  s      : Vector DWord 64
  b      : Vector (BitVec 24) 16
  cfErr  : BitVec 12
  fpstat : Word
  append : Vector Word 4
  ovf    : Vector Bool 4

/-- The registers of a fibre. -/
def Fibre.regs (f : Fibre) : Regs :=
  ⟨f.team, f.group, f.role, f.priv, f.shared, f.region, f.v, f.p, f.q, f.s, f.b, f.cfErr, f.fpstat, f.append, f.ovf⟩

/-- The storage of a core that programs name: scratchpad with its presence bits, accumulator store, weight buffer, rings (R159, R176, R193). -/
structure Pads where
  scratch : Mem
  absent  : List Nat
  acc     : AMap W320
  wb      : Mem
  rings   : Vector Ring 16

/-- The storage of a core. -/
def Core.pads (k : Core) : Pads := ⟨k.scratch, k.absent, k.acc, k.wb, k.rings⟩

/-- No register, pad, barrier, operation in flight, context, interface or queue differs between two states, nor does host memory. -/
structure Kept (s t : State) : Prop where
  regs    : ∀ f, (t.fib f).map Fibre.regs = (s.fib f).map Fibre.regs
  regions : ∀ n, (t.slot n).regions = (s.slot n).regions
  fbars   : ∀ n, (t.slot n).fbars = (s.slot n).fbars
  pads    : ∀ k, (t.core k).pads = (s.core k).pads
  teams   : t.teams = s.teams
  ops     : t.ops = s.ops
  ctxs    : t.ctxs = s.ctxs
  vis     : t.vis = s.vis
  queues  : t.queues = s.queues
  hostMem : t.hostMem = s.hostMem

/-- No byte of device memory, no line's state at its home and no line of an L1 differs between two states, nor what says which partition runs
in which mode. -/
structure SameMem (s t : State) : Prop where
  mem   : t.mem = s.mem
  lines : t.lines = s.lines
  l1    : ∀ k, (t.core k).l1 = (s.core k).l1
  parts : ∀ p, (t.part p).cfg = (s.part p).cfg ∧ (t.part p).mode = (s.part p).mode ∧ (t.part p).replay = (s.part p).replay
  grids : t.grids = s.grids

/-- Registers (g, r') and (f, r) name one storage: the same fibre and register, or the same register of the same shared region (R22, R25). -/
def sameReg (s : State) (f r g r' : Nat) : Prop :=
  r' = r ∧ (g = f ∨ (slotOf g = slotOf f ∧
    match s.fib f, s.fib g with
    | some x, some y => x.inPriv r = false ∧ y.inPriv r = false ∧ x.region = y.region
    | _, _ => False))

/-- What a word may write, beside the places of its lanes and its count: registers of the fibre that issues it by kind and number, its FPSTAT,
the errors of its flags, its append counts; the operations in flight, the core's storage, teams, fibre barriers and memory; freed: fibres whose
held lanes it frees, whose status registers are written (R174); queues: the work queues. -/
structure Writes where
  v : List Nat := []
  p : List Nat := []
  s : List Nat := []
  q : List Nat := []
  fpstat : Bool := false
  flags  : Bool := false
  append : Bool := false
  ops    : Bool := false
  pads   : Bool := false
  teams  : Bool := false
  fbars  : Bool := false
  mem    : Bool := false
  freed  : List Nat := []
  queues : Bool := false

/-- An engine operation without what the model notes beside it: what it shares with others, which of its bytes are undefined for that, and who
knows of its dispatch (R191, R194, R200, R229). -/
def EngOp.bare (e : EngOp) : EngOp :=
  { e with loose := [], stirred := [], clash := [], hazAcc := [], hazWb := [], noted := false, seen := [], rel := false }

/-- An operation without the notes beside it. -/
def Op.bare (o : Op) : Op := { o with kind := match o.kind with
  | .engine e => .engine e.bare
  | k => k }

/-- A team without what the model notes of releases and acquires after its scratchpad writes (R200). -/
def Team.bare (t : Team) : Team := { t with unfenced := t.unfenced.map fun w => { w with rel := false, seen := [] } }

/-- The frame of a word of fibre f: between states s and t nothing differs that a program can name but what w lists, the places of lanes, RIC and
what schedules fibres; a word that may release or acquire is also noted beside the engine operations and scratchpad writes that it covers. The memory is that of R149: with no log replayed, no byte, line or cached line differs; in a replay the end of a
word may perform a logged drop (R314). -/
structure Only (s t : State) (f : Nat) (w : Writes) : Prop where
  vreg   : ∀ g r, (∀ r' ∈ w.v, ¬ sameReg s f r' g r) → readReg t g r = readReg s g r
  pred   : ∀ g n, ¬ (g = f ∧ n ∈ w.p) → (t.fib g).map (·.readP n) = (s.fib g).map (·.readP n)
  unif   : ∀ g n, ¬ (g = f ∧ n ∈ w.s) → g ∉ w.freed → (t.fib g).map (·.readS n) = (s.fib g).map (·.readS n)
  accum  : ∀ g n, ¬ (g = f ∧ n ∈ w.q) → (t.fib g).map (fun x => vget x.q n (lanesOf 0)) = (s.fib g).map (fun x => vget x.q n (lanesOf 0))
  fpstat : ∀ g, ¬ (g = f ∧ w.fpstat = true) → (t.fib g).map (·.fpstat) = (s.fib g).map (·.fpstat)
  flags  : ∀ g, ¬ (g = f ∧ w.flags = true) → (t.fib g).map (·.cfErr) = (s.fib g).map (·.cfErr)
  append : ∀ g, ¬ (g = f ∧ w.append = true) → (t.fib g).map (fun x => (x.append, x.ovf)) = (s.fib g).map (fun x => (x.append, x.ovf))
  bound  : ∀ g, (t.fib g).map (fun x => (x.team, x.group, x.role, x.priv, x.shared, x.region, x.b)) =
    (s.fib g).map (fun x => (x.team, x.group, x.role, x.priv, x.shared, x.region, x.b))
  ops    : w.ops = false → t.ops.map Op.bare = s.ops.map Op.bare ∧ (w.mem = false → t.ops = s.ops)
  pads   : w.pads = false → ∀ k, (t.core k).pads = (s.core k).pads
  teams  : w.teams = false → (∀ n, (t.team n).map Team.bare = (s.team n).map Team.bare) ∧ (w.mem = false → t.teams = s.teams)
  fbars  : w.fbars = false → ∀ n, (t.slot n).fbars = (s.slot n).fbars
  outer  : t.ctxs = s.ctxs ∧ t.vis = s.vis ∧ (w.queues = false → t.queues = s.queues) ∧ t.hostMem = s.hostMem
  mem    : w.mem = false → s.replaying (s.partOf f) = false →
    (∀ a, t.mem.read a = s.mem.read a) ∧ t.lines = s.lines ∧ ∀ k, (t.core k).l1 = (s.core k).l1

/-! ### When a word issues -/

/-- The word of issue c is being issued by fibre f, and none of the checks before its own meaning stops it: the fourth operand is there, the
role fits, the registers lie in the windows, none that it reads is pending and none that it writes will be written by an operation of its own
fibre in flight (R23, R25, R26, R74, R84, R266). The shared window is one of the slot's four areas (R25). -/
structure Ready (s : State) (c : Issue) (f : Fibre) (u : Uses) : Prop where
  issue : s.issue = some c
  fibre : s.fib c.fibre = some f
  area  : f.region < 4
  vc    : c.badVc u = false
  role  : u.role = none ∨ u.role = some f.role
  regs  : c.active f = 0 ∨ ∀ r ∈ c.vregs u, f.hasReg r = true
  vfree : ∀ r ∈ c.reads u, s.vPending c.fibre r = false
  dfree : ∀ r ∈ u.d, s.vOwn c.fibre r = false
  sfree : ∀ r ∈ u.s, s.sPending c.fibre r = false

/-- A word is being issued by a bound fibre. -/
def Issuing (s : State) : Prop := ∃ c f, s.issue = some c ∧ s.fib c.fibre = some f

/-- Whenever i may issue it runs: exec answers a next state, of which post holds. -/
def Runs (i : Instr) (u : Uses) (post : State → Issue → Fibre → State → Prop) : Prop :=
  ∀ s c f, Ready s c f u → ∃ t, exec i s = .next t ∧ post s c f t

/-! ### What a word leaves in registers (R28, R86) -/

/-- A full write left register d with a tag other than G: one value, or a base and a stride, which every lane reads (R27, R28). -/
abbrev Spread (c : Issue) (f : Fibre) (t : State) (d : Nat) : Prop := c.active f ≠ 0 ∧ c.full f = true ∧ tagOf t c.fibre d ≠ .g

/-- Register d of the issuing fibre holds val in the lanes whose guard is true, and in every lane where it is stored as one value or as a base
and a stride; else zero in those the zero policy writes, its old value in the others. -/
def Holds1 (s : State) (c : Issue) (f : Fibre) (t : State) (d : Nat) (val : Fin 32 → Word) : Prop :=
  ∀ l, readLane t c.fibre d l =
    if inMask (c.active f) l = true ∨ Spread c f t d then val l else if inMask (c.zeroed f) l then 0 else readLane s c.fibre d l

/-- As Holds1, of the pair of registers d and d + 1. -/
def Holds2 (s : State) (c : Issue) (f : Fibre) (t : State) (d : Nat) (val : Fin 32 → DWord) : Prop :=
  ∀ l, readPair t c.fibre d l =
    if inMask (c.active f) l = true ∨ Spread c f t d then val l else if inMask (c.zeroed f) l then 0 else readPair s c.fibre d l

/-- Predicate p of the issuing fibre holds val in the lanes whose guard is true, false in those the zero policy writes, its old value in the
others; p7 stays true (R29). -/
def HoldsP (c : Issue) (f : Fibre) (t : State) (p : Nat) (val : Fin 32 → Bool) : Prop :=
  ∃ x, t.fib c.fibre = some x ∧ ∀ l, inMask (x.readP p) l =
    (p == 7 || if inMask (c.active f) l then val l else !inMask (c.zeroed f) l && inMask (f.readP p) l)

/-- Uniform register d of the issuing fibre holds val; s0 stays zero (R30). -/
def HoldsS (c : Issue) (t : State) (d : Nat) (val : DWord) : Prop :=
  ∃ x, t.fib c.fibre = some x ∧ x.readS d = if d = 0 then 0 else val

/-- FPSTAT of the issuing fibre has gained the flags that the lanes with a true guard raise, and nothing else (R65). -/
def HoldsF (c : Issue) (f : Fibre) (t : State) (fl : Fin 32 → Word) : Prop :=
  ∃ x, t.fib c.fibre = some x ∧
    x.fpstat = f.fpstat ||| ((List.finRange 32).map fun l => if inMask (c.active f) l then fl l else 0).foldl (· ||| ·) 0

/-- Accumulator n of the issuing fibre holds val in the lanes whose guard is true, its old value in the others (R136). -/
def HoldsQ (c : Issue) (f : Fibre) (t : State) (n : Nat) (val : Fin 32 → W320 → W320) : Prop :=
  ∃ x, t.fib c.fibre = some x ∧ ∀ l : Fin 32, (vget x.q n (lanesOf 0))[l] =
    if inMask (c.active f) l then val l (vget f.q n (lanesOf 0))[l] else (vget f.q n (lanesOf 0))[l]

/-! ### Where a word leaves its lanes (R71, R75) -/

/-- A lane that stands at a clause: its stamp is the end of the clause execution it comes from (R248). -/
def Lane.at_ (x : Lane) (clause : DWord) (now : Nat) : Lane :=
  { x with pc := clause, word := 1, hold := .none, stamp := if x.live then now else x.stamp }

/-- The word has counted once in RIC, every lane of its bundle stands at its own clause, and no other lane has moved. -/
def Goes (s : State) (c : Issue) (f : Fibre) (t : State) (target : Fin 32 → DWord) : Prop :=
  ∃ x, t.fib c.fibre = some x ∧ x.ric = f.ric + 1 ∧
    ∀ l, x.lane l = if inMask c.lanes l then (f.lane l).at_ (target l) s.clock else f.lane l

/-- The word has counted once in RIC and its bundle stands at the next word, after the last counted word at the clause 64 bytes higher; no other
lane has moved. -/
def Passes (s : State) (c : Issue) (f : Fibre) (t : State) : Prop :=
  ∃ x, t.fib c.fibre = some x ∧ x.ric = f.ric + 1 ∧
    ∀ l, x.lane l = if inMask c.lanes l then
        if fieldOf c.hdr 23 20 ≤ c.word then (f.lane l).at_ (c.clause + 64) s.clock
        else { f.lane l with pc := c.clause, word := c.word + 1, hold := .none }
      else f.lane l

/-- The word has counted once in RIC and its bundle stands at the next word; other lanes may have been freed. -/
def PassesIn (s : State) (c : Issue) (f : Fibre) (t : State) : Prop :=
  ∃ x, t.fib c.fibre = some x ∧ x.ric = f.ric + 1 ∧
    ∀ l, inMask c.lanes l = true → x.lane l = if fieldOf c.hdr 23 20 ≤ c.word then (f.lane l).at_ (c.clause + 64) s.clock
      else { f.lane l with pc := c.clause, word := c.word + 1, hold := .none }

/-- The word has not issued: the fibre waits for w, counts nothing, and no lane has moved (R72, R74). -/
def Waits (c : Issue) (f : Fibre) (t : State) (w : Wait) : Prop :=
  t.issue = none ∧ ∃ x, t.fib c.fibre = some x ∧ x.wait = some w ∧ x.ric = f.ric ∧ ∀ l, x.lane l = f.lane l

/-- The word has counted once in RIC and its bundle is held at it until what it waits for ends (R174). -/
def HeldSync (c : Issue) (f : Fibre) (t : State) (on : SyncOn) (sd : Nat) : Prop :=
  ∃ x, t.fib c.fibre = some x ∧ x.ric = f.ric + 1 ∧ ∀ l, x.lane l = if inMask c.lanes l then
      { f.lane l with pc := c.clause, word := c.word, hold := .sync ⟨on, sd, f.ric, c.div, decide (fieldOf c.hdr 23 20 ≤ c.word)⟩ }
    else f.lane l

/-- The lanes of these fibres, outside the bundle that issues, that were held for what on names stand past their words with their stamps kept; where
they are all of one held word, its status register holds status (R71, R174, R248). -/
def Frees (s : State) (c : Issue) (t : State) (fids : List Nat) (on : SyncOn → Bool) (status : Nat) : Prop :=
  ∀ g ∈ fids, ∀ y, s.fib g = some y → ∃ x, t.fib g = some x ∧
    (∀ l w, ¬ (g = c.fibre ∧ inMask c.lanes l = true) → (y.lane l).hold = .sync w → on w.on = true →
      x.lane l = { y.lane l with
        pc := if w.last then (y.lane l).pc + 64 else (y.lane l).pc, word := if w.last then 1 else (y.lane l).word + 1, hold := .none }) ∧
    (∀ w, g ≠ c.fibre → w.sd ≠ 0 → w.sd < 64 → holdsOf y on = [w] → x.readS w.sd = BitVec.ofNat 64 status)

/-- The fibre is Frozen at the word, which has not counted: its lanes stand at the word or its prefix, RIC is as it was, and the record that will be
posted carries the cause and sub-cause, the lanes, the address, the code, the buffer register with its index, and RIC (R34, R76, R267, R269). SKIP
would go on at after (R274). -/
def Faults (c : Issue) (f : Fibre) (t : State) (cause : Nat) (lanes : LaneMask) (addr info : Nat) (sub breg bidx : Nat := 0)
    (after : Nat := afterWord c.hdr c.word) : Prop :=
  t.issue = none ∧ ∃ x rec_, t.fib c.fibre = some x ∧ x.sched = .frozen ∧ x.run = none ∧ x.ric = f.ric ∧
    x.frozen = some ⟨c.clause, c.word, c.first, after, c.lanes, cause, true⟩ ∧
    x.postDue = some rec_ ∧ fieldOf rec_ 7 0 = cause ∧ fieldOf rec_ 11 8 = 0 ∧ fieldOf rec_ 15 12 = sub ∧
    fieldOf rec_ 30 17 = c.fibre % 2 ^ 14 ∧ fieldOf rec_ 287 256 = lanes.toNat ∧ fieldOf rec_ 319 288 = f.ric.toNat ∧
    fieldOf rec_ 383 320 = addr ∧ fieldOf rec_ 403 384 = bidx ∧ fieldOf rec_ 407 404 = breg ∧ fieldOf rec_ 439 408 = info ∧
    ∀ l, x.lane l = if inMask c.lanes l then { f.lane l with pc := c.clause, word := c.first } else f.lane l

/-! ### Operations in flight (R73) -/

/-- The operation that a word becomes: its fibre, bundle and place, the flag that counts it, and what it does. -/
def opOf (s : State) (c : Issue) (f : Fibre) (flag : Option Nat) (kind : OpKind) : Op :=
  { id := s.nextOp, fibre := c.fibre, team := f.team, core := coreOf c.fibre, lanes := c.lanes, clause := c.clause, word := c.word,
    ric := f.ric, flag := flag, kind := kind }

/-- The flag that a field of the clause header names; 12 to 15 name none (R69, R73). -/
def flagOf (n : Nat) : Option Nat := if n < 12 then some n else none

/-- The word has issued and stands in flight, counted against its flag; a flag that was not pending has lost its error (R32, R73). Beside what w
lists nothing changes. -/
structure InFlight (s : State) (c : Issue) (f : Fibre) (t : State) (flag : Option Nat) (kind : OpKind)
    (w : Writes := { ops := true, flags := true }) : Prop where
  ops   : t.ops = s.ops ++ [opOf s c f flag kind]
  clear : ∀ n, flag = some n → s.cfPending c.fibre n = false → ∃ x, t.fib c.fibre = some x ∧ x.cfErr.getLsbD n = false
  frame : Only s t c.fibre w

/-- The word has issued and its operation was complete at once: none is left under its number, and a flag that was not pending has lost its error
(R32, R73). Beside what w lists nothing changes. -/
structure Done (s : State) (c : Issue) (t : State) (flag : Option Nat) (w : Writes) : Prop where
  ops   : t.ops.map Op.bare = (s.ops.filter fun o => o.id != s.nextOp).map Op.bare ∧
    (w.mem = false → t.ops = s.ops.filter fun o => o.id != s.nextOp)
  clear : ∀ n, flag = some n → s.cfPending c.fibre n = false → ∃ x, t.fib c.fibre = some x ∧ x.cfErr.getLsbD n = false
  frame : Only s t c.fibre { w with ops := true, flags := true }

/-- The flag that SETA of the clause names (R69, R73). -/
def Issue.setA (c : Issue) : Option Nat := flagOf (fieldOf c.hdr 15 12)

/-! ### Buffer accesses (R149, R150, R159) -/

/-- The entry that buffer register n of the issuing fibre names (R31, R282). -/
def bufOf (s : State) (c : Issue) (f : Fibre) (n : Nat) : BufEntry :=
  bufEntry s (coreOf c.fibre) (s.viOf c.fibre) (bregIdx (vget f.b n 0))

/-- What an operation keeps of its buffer register. -/
def infoOf (s : State) (c : Issue) (f : Fibre) (n : Nat) : BufInfo :=
  ⟨n, bregIdx (vget f.b n 0), bregNt (vget f.b n 0), (bufOf s c f n).coh, (bufOf s c f n).sgrp⟩

/-- The accesses of a list of lanes at their offsets, with their data and compare values. -/
def accsOf (e : BufEntry) (lanes : List (Fin 32)) (off : Fin 32 → DWord) (size : Nat) (pa data cmp : Fin 32 → Nat) : List Acc :=
  lanes.map fun l => ⟨l.val, (off l).toNat, e.base + (off l).toNat, pa l, e.home, size, data l, cmp l⟩

/-- No acquire of the fibre is in flight, its core has a request to spare and every lane passes every check of R149: its offset is a multiple of al and within the entry, whose
rights and owner fit, and its page is mapped at pa. -/
structure Reaches (s : State) (c : Issue) (f : Fibre) (n : Nat) (lanes : List (Fin 32)) (off : Fin 32 → DWord) (size al : Nat)
    (need : Need) (pa : Fin 32 → Nat) : Prop where
  acq   : opsPending s c.fibre .acquires = false
  room  : coreFull s (coreOf c.fibre) = false
  align : ∀ l ∈ lanes, (off l).toNat % al = 0
  valid : bregV (vget f.b n 0) = true
  bound : ∀ l ∈ lanes, (off l).toNat + size ≤ (bufOf s c f n).len
  right : (bufOf s c f n).grants need = true
  rdo   : need = .read ∨ bregRdo (vget f.b n 0) = false
  owner : (bufOf s c f n).owner = s.viOf c.fibre
  page  : ∀ l ∈ lanes, transWord s c.fibre (s.viOf c.fibre) ((bufOf s c f n).base + (off l).toNat) (bufOf s c f n).icl (need != .read) false =
    .ok (pa l)

/-- A write of the line at its home puts its bytes into memory: it lies in this device, its channel is not fenced, its page is not compressed, and no
pre-image is taken (R331, R336, R341, R345). -/
structure Plain (s : State) (ln : Nat) : Prop where
  wf     : s.mem.wf = true
  near   : isRemote ln = false
  fenced : fenced s ln = false
  errs   : ∀ n, s.hbm.remapErr.get? n = none
  comp   : (region s (ln * 128 / 2 ^ 29)).getLsbD 62 = false
  undo   : ∀ p, capturing s p = false

/-- The low size bytes of the registers from r up in lane l, as one number. -/
def bytesAt (s : State) (c : Issue) (r size : Nat) (l : Fin 32) : Nat :=
  ((List.range ((size + 3) / 4)).map fun i => (readLane s c.fibre (r + i) l).toNat * 2 ^ (32 * i)).sum % 2 ^ (8 * size)

/-- The lanes of the bundle whose guard is true. -/
def Issue.takers (c : Issue) (f : Fibre) : List (Fin 32) := (List.finRange 32).filter fun l => inMask (c.active f) l

/-- The staging lines of the fibre's team have room for the lines of these accesses (R260). -/
def StagingRoom (s : State) (c : Issue) (accs : List Acc) : Prop :=
  ∃ tm, stagingTeam s c.fibre = some tm ∧
    tm.stLines.length + (((accLines s accs).map (·.1)).filter fun ln => !tm.stLines.contains ln).length ≤ 64

/-- An engine operation has begun: it stands in flight with the lines whose presence bits it cleared, lines; notes of what operations share aside, the
other operations are the same, and of the core's storage only those bits change (R73, R161, R189, R191, R194, R202). -/
structure Begins (s : State) (c : Issue) (f : Fibre) (t : State) (e : EngOp) (lines : List Nat) : Prop where
  ops    : t.ops.map Op.bare = s.ops.map Op.bare ++ [(opOf s c f c.setA (.engine { e with cleared := lines })).bare]
  clear  : ∀ n, c.setA = some n → s.cfPending c.fibre n = false → ∃ x, t.fib c.fibre = some x ∧ x.cfErr.getLsbD n = false
  absent : ∀ n, (t.core (coreOf c.fibre)).absent.contains n = (lines.contains n || (s.core (coreOf c.fibre)).absent.contains n)
  pads   : ∀ k, { (t.core k).pads with absent := [] } = { (s.core k).pads with absent := [] } ∧
    (k ≠ coreOf c.fibre → (t.core k).pads = (s.core k).pads)
  frame  : Only s t c.fibre { ops := true, flags := true, pads := true }

/-! ### Events -/

/-- The event gives a next state, of which post holds. -/
def Gives (i : Instr) (s : State) (post : State → Prop) : Prop := ∃ t, exec i s = .next t ∧ post t

/-- The fibre is Frozen by an ASYNC record of this cause: no lane has moved, and the record that will be posted carries the cause and sub-cause, the
live lanes and RIC (R267, R269). -/
def FaultsAsync (fid : Nat) (f : Fibre) (t : State) (cause sub : Nat) : Prop :=
  t.issue = none ∧ ∃ x z rec_, t.fib fid = some x ∧ x.sched = .frozen ∧ x.run = none ∧ x.ric = f.ric ∧ x.lanes = f.lanes ∧
    x.frozen = some z ∧ z.cause = cause ∧ z.lanes = f.liveMask ∧ z.sync = false ∧
    x.postDue = some rec_ ∧ fieldOf rec_ 7 0 = cause ∧ fieldOf rec_ 11 8 = 1 ∧ fieldOf rec_ 15 12 = sub ∧
    fieldOf rec_ 30 17 = fid % 2 ^ 14 ∧ fieldOf rec_ 287 256 = f.liveMask.toNat ∧ fieldOf rec_ 319 288 = f.ric.toNat

/-- The record of a recorder's last append, beside which the recorder is as it was (R304). -/
def Appends (s t : State) (p k : Nat) (r : BitVec 128) : Prop :=
  recorder t p k = { recorder s p k with recs := (recorder s p k).recs ++ [(r, s.mgmt.gts)] }

/-- The partition neither records, replays nor runs in an ordered mode (R297, R313, R257). -/
def PlainMode (s : State) (p : Nat) : Prop := s.recording p = false ∧ s.replaying p = false ∧ s.ordered p = false

/-- A byte as core k reads it: its own where its L1 holds the byte, else that of the home (R220). -/
def seenByte (s : State) (k a : Nat) : Byte :=
  if ((s.l1 k (a / 128)).valid ||| (s.l1 k (a / 128)).dirty).getLsbD (a % 128) then (s.l1 k (a / 128)).data.extractLsb' (8 * (a % 128)) 8
  else s.mem.read a

/-- n bytes of a function of addresses, little-endian (R8). -/
def bytesOf (g : Nat → Byte) (a n : Nat) : Nat := ((List.range n).map fun i => (g (a + i)).toNat * 256 ^ i).sum

/-- n bytes as core k reads them. -/
def seenN (s : State) (k a n : Nat) : Nat := bytesOf (seenByte s k) a n

/-- The bytes after accesses at their addresses, each in turn putting new of itself and of what it finds, and what each found. -/
def runAccs (addr : Acc → Nat) (new : Acc → Nat → Nat) : List Acc → (Nat → Byte) → List Nat × (Nat → Byte)
  | [], g => ([], g)
  | a :: r, g =>
    let old := bytesOf g (addr a) a.size
    let v := new a old
    let y := runAccs addr new r fun x => if addr a ≤ x ∧ x < addr a + a.size then BitVec.ofNat 8 (v / 256 ^ (x - addr a)) else g x
    (old :: y.1, y.2)

/-- Nothing but the bytes of a line decides what a read of it gives core k: no error is present, no other holder has newer bytes, nothing is poisoned,
no request to it or to its page waits, its port takes requests, and the clean bytes of the L1 are those of the home (R221, R329, R331, R336, R339,
R341, R352). -/
structure Sees (s : State) (k ln : Nat) : Prop where
  held   : pageHeld s ln = false
  quiet  : asker s ln = none ∧ (isRemote ln = true → vcFull s (linePort s ln) 0 = false)
  home   : mdState (s.md ln) < 3
  good   : (s.md ln).getLsbD 15 = false ∧ s.hbm.errs.get? ln = none ∧ ∀ n, s.hbm.remapErr.get? n = none
  poison : linePoison s ln = false ∧ (s.l1 k ln).poison = false
  fresh  : ∀ i < 128, (s.l1 k ln).valid.getLsbD i = true → (s.l1 k ln).dirty.getLsbD i = false →
    (s.l1 k ln).data.extractLsb' (8 * i) 8 = s.mem.read (ln * 128 + i)

/-- The operation numbered id stands in flight, issued by fibre f, which has its registers in its windows; nothing holds it back: its partition neither
logs nor orders accesses and no earlier access of the fibre to its bytes is in flight; the L1 has room for its lines (R2, R74, R155, R157). -/
structure Due (s : State) (id : Nat) (o : Op) (f : Fibre) (regs : List Nat) : Prop where
  op    : s.op id = some o
  fibre : s.fib o.fibre = some f
  core  : o.core = coreOf o.fibre
  area  : f.region < 4
  regs  : ∀ r ∈ regs, f.hasReg r = true
  mode  : PlainMode s (s.partOf o.fibre)
  order : overtakes s o = false
  room  : (s.core o.core).l1.length + o.kind.memAccs.length ≤ 1024

/-- The home of a line, of which no copy is outside, takes a write of core k's bytes as it is, and no other core holds bytes that its home has not. -/
def Takes (s : State) (k ln : Nat) : Prop :=
  s.mem.wf = true ∧ Sees s k ln ∧ (isRemote ln = true ∨ (Plain s ln ∧ mdState (s.md ln) = 0)) ∧ ∀ j, j ≠ k → (s.l1 j ln).dirty = 0

/-- Register by register, what the lanes of accesses found, and zero where the zero policy writes (R28, R154). -/
def Returns (s t : State) (fid vd : Nat) (z : LaneMask) (n : Nat) (found : List (Nat × Nat)) : Prop :=
  ∀ i < n, ∀ l : Fin 32, readLane t fid (vd + i) l = match found.find? fun e => e.1 == l.val with
    | some e => BitVec.ofNat 32 (e.2 / 2 ^ (32 * i))
    | none => if inMask z l then 0 else readLane s fid (vd + i) l

/-- An engine operation stands in flight that arrives nowhere and whose status word, if it has one, stands in the scratchpad; its partition neither
logs nor orders accesses, no earlier operation of its engine is in flight, a copy or transform finds no dirty byte to release, no line is held outside
its home device, and nothing that the operation reads or writes is undefined (R187, R191, R194, R200, R229). -/
structure EngineDue (s : State) (id : Nat) (o : Op) (e : EngOp) : Prop where
  op     : s.op id = some o
  kind   : o.kind = .engine e
  fibre  : (s.fib o.fibre).isSome = true
  core   : o.core = coreOf o.fibre
  ids    : (s.ops.map (·.id)).Nodup
  sync   : bitsOf e.sync 15 14 = 0 ∧ e.reinit = false
  place  : e.status = none ∨ e.inScratch = true
  mode   : PlainMode s (s.partOf o.fibre)
  turn   : e.form.isMatrix = true → matrixBusy s o = false
  clean  : e.form.isMatrix = true ∨ e.scope = .fibre ∨ ∀ ln, (s.l1 o.core ln).dirty = 0
  home   : ∀ ln, mdState (s.md ln) < 3
  whole  : e.early ≠ 0 ∨ (e.clash = [] ∧ e.loose = [] ∧ e.stirred = [] ∧ e.hazAcc = [] ∧ e.hazWb = [])
  wf     : (s.core o.core).scratch.wf = true

/-- The operation has completed with this CODE and these FLAGS: it and the signatures it answered are no longer in flight, its flag is in error when
CODE is not 0, the lines whose presence bits it cleared are present, its status word follows pad in the scratchpad, the accumulator entries are
acc, and nothing else of the core's storage differs (R161, R186, R187, R196). -/
def EngineEnds (s t : State) (o : Op) (e : EngOp) (code : Nat) (flags : Word) (pad : Nat → Byte) (acc : Nat → Option W320) : Prop :=
  let base := ((s.team o.team).map (·.sbase)).getD 0 * 128
  let word := (2 ^ 32 - 1) * 2 ^ 32 + (lowLane o.lanes).val * 2 ^ 20 + code * 2 ^ 12 + flags.toNat % 2 ^ 12
  let stays := fun (q : Op) => q.id != o.id && match q.kind with
    | .sign _ m => m != o.id + 1
    | _ => true
  t.ops.map Op.bare = (s.ops.filter stays).map Op.bare ∧
  (code ≠ 0 → ∀ k < 12, o.flag = some k → ∃ x, t.fib o.fibre = some x ∧ x.cfErr.getLsbD k = true) ∧
  (t.core o.core).absent = (s.core o.core).absent.filter (fun n => !e.cleared.contains n) ∧
  (∀ x, (t.core o.core).scratch.read x = match e.status with
    | some off => if base + off ≤ x ∧ x < base + off + 8 then BitVec.ofNat 8 (word / 256 ^ (x - (base + off))) else pad x
    | none => pad x) ∧
  (∀ i, (t.core o.core).acc.get? i = acc i) ∧ (t.core o.core).rings = (s.core o.core).rings ∧
  (∀ j, j ≠ o.core → (t.core j).pads = (s.core j).pads)

/-- Element accesses that pass every check of R149: their offsets, aligned, within the entry, granted, owned, and mapped at pa (R190). -/
structure ElemsOk (s : State) (o : Op) (e : EngOp) (n : Nat) (off : Nat → Nat) (size : Nat) (need : Need) (pa : Nat → Nat) : Prop where
  align : ∀ i < n, off i % size = 0
  bound : ∀ i < n, off i + size ≤ (bufEntry s o.core (s.viOf o.fibre) (bregIdx e.breg)).len
  right : (bufEntry s o.core (s.viOf o.fibre) (bregIdx e.breg)).grants need = true
  rdo   : need = .read ∨ bregRdo e.breg = false
  owner : (bufEntry s o.core (s.viOf o.fibre) (bregIdx e.breg)).owner = s.viOf o.fibre
  page  : ∀ i < n, transNow s (s.viOf o.fibre) ((bufEntry s o.core (s.viOf o.fibre) (bregIdx e.breg)).base + off i)
    (bufEntry s o.core (s.viOf o.fibre) (bregIdx e.breg)).icl (need != .read) = .ok (pa i)

/-- An eight-dword completion entry stands at cp: its first dwords (R241). -/
def EntryAt (t : State) (cp : Nat) (ds : List DWord) : Prop := ∀ i d, ds[i]? = some d → t.mem.readN (cp + 8 * i) 8 = d.toNat

/-- A fibre as its binding leaves it: its place in the team and grid, its lanes at the first word of the kernel, arguments in s1 to s15, the flat
buffer in b0, everything else zero (R37, R245). -/
def Fresh (x : Fibre) (tid grp : Nat) (g : Grid) : Prop :=
  let tpt := fieldOf (nth g.packet 0 0) 26 16
  x.team = tid ∧ x.group = grp ∧ x.role = kRole g.kdesc grp ∧ x.priv = 8 * kPriv g.kdesc grp ∧ x.shared = kShared g.kdesc grp ∧
  x.sched = .ready ∧ x.run = none ∧ x.ric = 0 ∧ x.fpstat = 0 ∧ x.cfErr = 0 ∧ x.v = [] ∧
  (∀ l : Fin 32, (x.lane l).live = decide (32 * grp + l.val < tpt) ∧ ((x.lane l).live = true → (x.lane l).pc = nth g.kdesc 0 0 ∧ (x.lane l).word = 1)) ∧
  (∀ n < 7, x.readP n = 0) ∧ (∀ n < 64, x.readS n = if 1 ≤ n ∧ n ≤ 15 then nth g.args (n - 1) 0 else 0) ∧ vget x.b 0 0 = 0x800001#24

/-- A message stands in the slot at ga of its mailbox, whose TAIL has advanced (R206, R356). -/
def Entered (s t : State) (m : Msg) (ga : Nat) : Prop :=
  t.mbox m.mbox = { s.mbox m.mbox with tail := ((s.mbox m.mbox).tail + 1) % 2 ^ 32, info := (s.mbox m.mbox).info ++ [(m.dev, m.part, m.seq)] } ∧
  (∀ n, n ≠ m.mbox → t.mbox n = s.mbox n) ∧ (Plain s (lineOf ga) → ga % 64 = 0 → t.mem.readN ga 64 = m.payload.toNat)

/-- What reaches the home slice of a line: a read or ownership request of a device of its group, a host port's read or taking, a write performed at
the slice (R331). -/
inductive DirReq where
  | devRead (d : Nat)
  | devOwn (d : Nat)
  | hostRead (p : Nat)
  | hostTake (p : Nat)
  | homeWrite
  deriving DecidableEq, Repr

/-- The table of R331: the state and owner that follow. -/
def dirNext (st ow : Nat) : DirReq → Nat × Nat
  | .devRead d => match st with
    | 0 => (1, d)
    | 1 => (1, if ow = d then d else 0x1FF)
    | 2 => if ow = d then (2, d) else (1, 0x1FF)
    | 4 => (if ow = d then 4 else 3, ow)
    | 5 => (1, d)
    | _ => (st, ow)
  | .devOwn d => (4, d)
  | .hostRead p => if st = 5 ∧ ¬ (ow / 2 % 2 = 1 ∧ ow % 2 ≠ p) then (5, ow) else (5, p)
  | .hostTake p => (5, p + 2)
  | .homeWrite => (0, if st = 0 then ow else 0)

/-- What a request needs acknowledged by the table of R331, each with its addressees: 0 to invalidate, 1 to recall, 2 to snoop a host port (512 +
port), 9 to supply the data. Inv-all goes to the owner by name, to the group of a multi S or an O line by broadcast, but not to the requester. -/
def dirAsks (st ow : Nat) (group : List Nat) (r : DirReq) : List (Nat × List Nat) :=
  let all := if st = 3 ∨ ow = 0x1FF then group else [ow]
  let inv := fun (d : Option Nat) => (0, all.filter fun x => some x != d)
  match r with
  | .devRead d => match st with
    | 3 => if ow = d then [] else [(9, [ow])]
    | 4 => if ow = d then [] else [(9, [ow])]
    | 5 => [(2, [512 + ow % 2])]
    | _ => []
  | .devOwn d => match st with
    | 1 => [inv (some d)]
    | 2 => if ow = d then [] else [inv (some d)]
    | 3 => if ow = d then [inv (some d)] else [(1, [ow]), inv (some d)]
    | 4 => if ow = d then [] else [(1, [ow])]
    | 5 => [(2, [512 + ow % 2])]
    | _ => []
  | .hostRead p => match st with
    | 1 => [inv none]
    | 2 => [inv none]
    | 3 => [(1, [ow]), inv none]
    | 4 => [(1, [ow])]
    | 5 => if ow / 2 % 2 = 1 ∧ ow % 2 ≠ p then [(2, [512 + ow % 2])] else []
    | _ => []
  | .hostTake p => match st with
    | 1 => [inv none]
    | 2 => [inv none]
    | 3 => [(1, [ow]), inv none]
    | 4 => [(1, [ow])]
    | 5 => if ow % 2 = p then [] else [(2, [512 + ow % 2])]
    | _ => []
  | .homeWrite => match st with
    | 1 => [inv none]
    | 2 => [inv none]
    | 3 => [(1, [ow]), inv none]
    | 4 => [(1, [ow])]
    | 5 => [(2, [512 + ow % 2])]
    | _ => []

/-- A line of this device whose metadata and channel show no error; no request to its page waits, and nothing is captured (R328, R336, R345). -/
structure AtHome (s : State) (ln : Nat) : Prop where
  near : isRemote ln = false
  held : pageHeld s ln = false
  good : mdState (s.md ln) < 6 ∧ (s.md ln).getLsbD 15 = false ∧ s.hbm.errs.get? ln = none ∧ ∀ n, s.hbm.remapErr.get? n = none
  undo : ∀ p, capturing s p = false
  wf   : s.mem.wf = true

/-- The home slice has sent out what a request needs acknowledged, and the request waits: no line's state, no byte and no other part of the machine
has changed but main memory's control (R329, R331). -/
structure Asks (s t : State) (ln : Nat) (who : LineReq) (r : DirReq) : Prop where
  sent  : t.mgmt.remoteOut = s.mgmt.remoteOut ++
    (dirAsks (mdState (s.md ln)) (mdOwner (s.md ln)) (groupDevs s (s.line ln).grp) r).map fun e => (e.1, ln, e.2)
  asked : (t.line ln).asked = some who ∧
    (t.line ln).acks = ((dirAsks (mdState (s.md ln)) (mdOwner (s.md ln)) (groupDevs s (s.line ln).grp) r).flatMap (·.2)).dedup
  md    : ∀ n, t.md n = s.md n
  mem   : t.mem = s.mem
  frame : { t with lines := s.lines, free := s.free, hbm := s.hbm, mgmt := s.mgmt } = s

/-- The home slice decided a request that awaits nothing more, as the table says: the line's state and owner, and nothing else but memory's
control and the bytes of the line; nothing more is sent out (R329, R331). -/
structure Decides (s t : State) (ln : Nat) (r : DirReq) : Prop where
  state  : mdState (t.md ln) = (dirNext (mdState (s.md ln)) (mdOwner (s.md ln)) r).1
  owner  : mdOwner (t.md ln) = (dirNext (mdState (s.md ln)) (mdOwner (s.md ln)) r).2
  sent   : t.mgmt.remoteOut = s.mgmt.remoteOut
  others : ∀ n, n ≠ ln → t.md n = s.md n
  mem    : ∀ a, a / 128 ≠ ln → t.mem.read a = s.mem.read a
  frame  : { t with lines := s.lines, mem := s.mem, free := s.free, hbm := s.hbm, mgmt := s.mgmt } = s
/-- A command for a bound fibre whose context is in place: its source may name it, and nothing it reveals is confidential (R273, R296, R362). -/
structure Commands (s : State) (fid : Nat) (f : Fibre) : Prop where
  fibre : s.fib fid = some f
  area  : f.region < 4
  src   : srcMay s (s.viOf fid) = true
  place : (s.part (s.partOf fid)).runVi = some (s.viOf fid)
  open_ : confRefuses s (s.viOf fid) = false

/-- The response of a command: its status, result and result data (R361). -/
def Answered (t : State) (status : Nat) (result : DWord := 0) (data : List Byte := []) : State :=
  { t with mgmt := { t.mgmt with status := status, result := result, data := data } }
/-- What a warm reset leaves: nothing bound, no core's storage, no context, nothing in flight; metadata, configuration, rings and what is in
non-volatile storage; with no line in an L3 and no confidential context, main memory too; a lost-copies notice has gone out (R368). -/
structure Warmed (s t : State) : Prop where
  lost  : t.fibres = [] ∧ t.teams = [] ∧ t.grids = [] ∧ t.slots = [] ∧ t.cores = [] ∧ t.ops = [] ∧ t.ctxs = [] ∧ t.issue = none ∧ t.mgmt.sessions = []
  mem   : (∀ e ∈ s.lines, e.2.inL3 = false) → (∀ n, confOf s n = none) → t.mem = s.mem
  lines : ∀ n, (t.line n).inL3 = false ∧ (t.line n).own = [] ∧ (mdState (s.md n) < 6 → (s.md n).getLsbD 15 = false → t.md n = s.md n)
  hbm   : (∀ n, region t n = region s n) ∧ ∀ n, (t.stack n).remap = (s.stack n).remap ∧ (t.stack n).rmcnt = (s.stack n).rmcnt
  vis   : ∀ n, (t.vi n).cfg = (s.vi n).cfg
  queue : ∀ n, (t.queue n).base = (s.queue n).base ∧ (t.queue n).cfg = (s.queue n).cfg
  mbox  : ∀ n, (t.mbox n).cfg = (s.mbox n).cfg ∧ (t.mbox n).ofs = (s.mbox n).ofs
  rings : ∀ p, ((t.part p).rrbase, (t.part p).rrctl, (t.part p).rrTail, (t.part p).urbase, (t.part p).urctl, (t.part p).urTail, (t.part p).urEpst) =
    ((s.part p).rrbase, (s.part p).rrctl, (s.part p).rrTail, (s.part p).urbase, (s.part p).urctl, (s.part p).urTail, (s.part p).urEpst)
  fuses : (t.mgmt.hssCount, t.mgmt.manifests, t.mgmt.fwWords) = (s.mgmt.hssCount, s.mgmt.manifests, s.mgmt.fwWords)
  sent  : ∃ l, t.mgmt.remoteOut = s.mgmt.remoteOut ++ (8, s.fabric.device, []) :: l ∧
    ((∀ e ∈ s.lines, mdState e.2.md < 6 ∧ e.2.md.getLsbD 15 = false) → l = [])

/-- What a loss of supply leaves: every register and memory as at reset but fuses and non-volatile storage, what lies outside the device and the model's
own counters (R369). -/
structure Emptied (s t : State) : Prop where
  reset : { t with agenda := [], clock := 0, free := 0, hostMem := [], fabric := { t.fabric with device := Fabric.init.device }, mgmt := Mgmt.init } =
    State.reset
  host  : t.hostMem = s.hostMem ∧ t.fabric.device = s.fabric.device
  fuses : (t.mgmt.manifests, t.mgmt.ownerKey) = (s.mgmt.manifests, s.mgmt.ownerKey)
  gone  : t.mgmt.sessions = [] ∧ t.mgmt.gts = Mgmt.init.gts ∧ t.mgmt.summary = Mgmt.init.summary ∧ t.mgmt.rings = Mgmt.init.rings

/-! ### Between steps -/

/-- No word is left half issued. -/
def Settled (s : State) : Prop := s.issue = none

/-- The memories of the device and of the host are in their canonical form. -/
def MemOk (s : State) : Prop := s.mem.wf = true ∧ s.hostMem.wf = true

end Sys2Proof.Machine
end

