-- ==== Sys2Proof/Certificates/Slice0/Obligations.lean ====
section
/-!
DEFINITION. Sys2Proof/Certificates/Slice0/Obligations.lean: the statements about the machine. The terms they are written in stand in
Sys2Proof/Safety.lean: Runs (an instruction that may issue gives a next state), Holds1, Holds2, HoldsP, HoldsS, HoldsQ and HoldsF (what a word
leaves in its destination), Only (the frame), InFlight (an operation that goes in flight).
-/

open Sys2Proof Sys2Proof.Machine

/-! ### Integer words (R101-R108) -/

/-- R101, major 0x00: wherever one of these words may issue, its destination receives the sum, difference, product, half product, lesser, greater
or magnitude of its operands in the lanes whose guard is true, and nothing else a program names changes. -/
def Obligations.IntegerArithmetic : Prop := ∀ d a b : BitVec 7,
  let word := fun (i : Instr) (vc : Nat) (val : Word → Word → Word → Word) =>
    Runs i { v := [a.toNat, b.toNat], d := [d.toNat], vc := vc } fun s c f t =>
      Holds1 s c f t d.toNat (fun l => val (c.rd s false a l) (c.rd s true b l) (c.rdC s l)) ∧ Only s t c.fibre { v := [d.toNat] }
  word (.iadd d a b) 0 (fun x y _ => x + y) ∧
  word (.isub d a b) 0 (fun x y _ => x - y) ∧
  word (.imul d a b) 0 (fun x y _ => x * y) ∧
  word (.imulhSg d a b) 0 (fun x y _ => ((x.signExtend 64 * y.signExtend 64) >>> 32).setWidth 32) ∧
  word (.imulhUs d a b) 0 (fun x y _ => ((x.zeroExtend 64 * y.zeroExtend 64) >>> 32).setWidth 32) ∧
  word (.imad d a b) 1 (fun x y z => x * y + z) ∧
  word (.iminSg d a b) 0 (fun x y _ => if x.toInt ≤ y.toInt then x else y) ∧
  word (.iminUs d a b) 0 (fun x y _ => if x.toNat ≤ y.toNat then x else y) ∧
  word (.imaxSg d a b) 0 (fun x y _ => if x.toInt ≤ y.toInt then y else x) ∧
  word (.imaxUs d a b) 0 (fun x y _ => if x.toNat ≤ y.toNat then y else x) ∧
  Runs (.iabs d a) { v := [a.toNat], d := [d.toNat] } fun s c f t =>
    Holds1 s c f t d.toNat (fun l => BitVec.ofNat 32 (c.rd s false a l).toInt.natAbs) ∧ Only s t c.fibre { v := [d.toNat] }

/-- R101, majors 0x01 and 0x03: bitwise words, counts, moves and pair arithmetic; nothing but the destination changes. -/
def Obligations.LogicMovesAndPairs : Prop := ∀ (d a b : BitVec 7) (n : BitVec 6),
  let word := fun (i : Instr) (val : Word → Word → Word) =>
    Runs i { v := [a.toNat, b.toNat], d := [d.toNat] } fun s c f t =>
      Holds1 s c f t d.toNat (fun l => val (c.rd s false a l) (c.rd s true b l)) ∧ Only s t c.fibre { v := [d.toNat] }
  let one := fun (i : Instr) (val : Word → Word) =>
    Runs i { v := [a.toNat], d := [d.toNat] } fun s c f t =>
      Holds1 s c f t d.toNat (fun l => val (c.rd s false a l)) ∧ Only s t c.fibre { v := [d.toNat] }
  let pair := fun (i : Instr) (val : DWord → DWord → DWord) =>
    Runs i { v := [a.toNat, a.toNat + 1, b.toNat, b.toNat + 1], d := [d.toNat, d.toNat + 1] } fun s c f t =>
      Holds2 s c f t d.toNat (fun l => val (c.rdP s false a l) (c.rdP s true b l)) ∧ Only s t c.fibre { v := [d.toNat, d.toNat + 1] }
  word (.and d a b) (fun x y => x &&& y) ∧
  word (.or d a b) (fun x y => x ||| y) ∧
  word (.xor d a b) (fun x y => x ^^^ y) ∧
  word (.andn d a b) (fun x y => x &&& ~~~ y) ∧
  one (.clz d a) (fun x => BitVec.ofNat 32 (((List.range 33).reverse.find? fun n => x >>> (32 - n) == 0).getD 0)) ∧
  one (.popc d a) (fun x => BitVec.ofNat 32 (((List.range 32).map fun i => (x.getLsbD i).toNat).sum)) ∧
  one (.brev d a) (fun x => x.reverse) ∧
  one (.mov d a) (fun x => x) ∧
  Runs (.movFromUniform d n) { d := [d.toNat], s := [n.toNat] } (fun s c f t =>
    Holds1 s c f t d.toNat (fun _ => (f.readS n.toNat).setWidth 32) ∧ Only s t c.fibre { v := [d.toNat] }) ∧
  Runs (.movB64 d n) { d := [d.toNat, d.toNat + 1], s := [n.toNat] } (fun s c f t =>
    Holds2 s c f t d.toNat (fun _ => f.readS n.toNat) ∧ Only s t c.fibre { v := [d.toNat, d.toNat + 1] }) ∧
  pair (.iadd64 d a b) (fun x y => x + y) ∧
  pair (.isub64 d a b) (fun x y => x - y) ∧
  pair (.imul64 d a b) (fun x y => x * y)

/-- R102: the shifts in every form: by the whole value of vb or by the immediate, on 32 bits and on pairs; from the width on a shift gives zero,
or copies of the sign bit. -/
def Obligations.Shifts : Prop := ∀ (d a b : BitVec 7) (n : BitVec 6),
  let reg := fun (i : Instr) (val : Word → Nat → Word) =>
    Runs i { v := [a.toNat, b.toNat], d := [d.toNat] } fun s c f t =>
      Holds1 s c f t d.toNat (fun l => val (c.rd s false a l) (c.rd s true b l).toNat) ∧ Only s t c.fibre { v := [d.toNat] }
  let imm := fun (i : Instr) (val : Word → Nat → Word) =>
    Runs i { v := [a.toNat], d := [d.toNat] } fun s c f t =>
      Holds1 s c f t d.toNat (fun l => val (c.rd s false a l) n.toNat) ∧ Only s t c.fibre { v := [d.toNat] }
  let reg64 := fun (i : Instr) (val : DWord → Nat → DWord) =>
    Runs i { v := [a.toNat, a.toNat + 1, b.toNat], d := [d.toNat, d.toNat + 1] } fun s c f t =>
      Holds2 s c f t d.toNat (fun l => val (c.rdP s false a l) (c.rd s true b l).toNat) ∧ Only s t c.fibre { v := [d.toNat, d.toNat + 1] }
  let imm64 := fun (i : Instr) (val : DWord → Nat → DWord) =>
    Runs i { v := [a.toNat, a.toNat + 1], d := [d.toNat, d.toNat + 1] } fun s c f t =>
      Holds2 s c f t d.toNat (fun l => val (c.rdP s false a l) n.toNat) ∧ Only s t c.fibre { v := [d.toNat, d.toNat + 1] }
  reg (.shl d a b) (fun x k => if k < 32 then x <<< k else 0) ∧
  reg (.shr d a b) (fun x k => if k < 32 then x >>> k else 0) ∧
  reg (.sar d a b) (fun x k => if k < 32 then x.sshiftRight k else if x.getLsbD 31 then BitVec.allOnes 32 else 0) ∧
  reg (.rot d a b) (fun x k => (x <<< (k % 32)) ||| (x >>> (32 - k % 32))) ∧
  imm (.shlImm d a n) (fun x k => if k < 32 then x <<< k else 0) ∧
  imm (.shrImm d a n) (fun x k => if k < 32 then x >>> k else 0) ∧
  imm (.sarImm d a n) (fun x k => if k < 32 then x.sshiftRight k else if x.getLsbD 31 then BitVec.allOnes 32 else 0) ∧
  imm (.rotImm d a n) (fun x k => (x <<< (k % 32)) ||| (x >>> (32 - k % 32))) ∧
  reg64 (.shl64 d a b) (fun x k => if k < 64 then x <<< k else 0) ∧
  reg64 (.shr64 d a b) (fun x k => if k < 64 then x >>> k else 0) ∧
  reg64 (.sar64 d a b) (fun x k => if k < 64 then x.sshiftRight k else if x.getLsbD 63 then BitVec.allOnes 64 else 0) ∧
  imm64 (.shl64Imm d a n) (fun x k => x <<< k) ∧
  imm64 (.shr64Imm d a n) (fun x k => x >>> k) ∧
  imm64 (.sar64Imm d a n) (fun x k => x.sshiftRight k)

/-- R103, R104: bit fields, cut off at bit 31: extraction with zeros or with the sign of the field, and insertion into the fourth operand. The immediate
forms of iadd and and, and movi: imm11 and imm18 sign-extended. -/
def Obligations.BitFieldsAndImmediates : Prop :=
  (∀ d a b : BitVec 7,
  let word := fun (i : Instr) (vc : Nat) (val : Nat → Nat → Word → Word → Word) =>
    Runs i { v := [a.toNat, b.toNat], d := [d.toNat], vc := vc } fun s c f t =>
      Holds1 s c f t d.toNat (fun l =>
        let y := (c.rd s true b l).toNat
        let pos := y % 256
        let e := min (pos + y / 256 % 256) 32
        val pos (e - pos) (c.rd s false a l) (c.rdC s l)) ∧ Only s t c.fibre { v := [d.toNat] }
  word (.bfeUs d a b) 0 (fun pos w x _ => if w = 0 then 0 else (x >>> pos) &&& BitVec.ofNat 32 (2 ^ w - 1)) ∧
  word (.bfeSg d a b) 0 (fun pos w x _ => if w = 0 then 0 else (x <<< (32 - w - pos)).sshiftRight (32 - w)) ∧
  word (.bfi d a b) 1 (fun pos w x z => maskOf fun i =>
    if pos ≤ i.val ∧ i.val < pos + w then x.getLsbD (i.val - pos) else z.getLsbD i.val)) ∧
  (∀ (d a : BitVec 7) (i : BitVec 11) (k : BitVec 18),
  Runs (.iaddImm d a i) { v := [a.toNat], d := [d.toNat] } (fun s c f t =>
    Holds1 s c f t d.toNat (fun l => c.rd s false a l + BitVec.ofInt 32 i.toInt) ∧ Only s t c.fibre { v := [d.toNat] }) ∧
  Runs (.andImm d a i) { v := [a.toNat], d := [d.toNat] } (fun s c f t =>
    Holds1 s c f t d.toNat (fun l => c.rd s false a l &&& BitVec.ofInt 32 i.toInt) ∧ Only s t c.fibre { v := [d.toNat] }) ∧
  Runs (.movi d k) { d := [d.toNat] } (fun s c f t =>
    Holds1 s c f t d.toNat (fun _ => BitVec.ofInt 32 k.toInt) ∧ Only s t c.fibre { v := [d.toNat] }))

/-- R105, R106, R107: comparisons of 32-bit registers and of pairs under every condition, selection by a predicate, and predicate logic; a lane
modifier gives a predicate operand false where its lane is not in the bundle; p7 stays true. -/
def Obligations.ComparesAndPredicates : Prop := ∀ (k : ICond) (p : BitVec 3) (n : Bool) (d a b : BitVec 7) (x y : BitVec 3),
  let holds := fun (w : Nat) (u v : BitVec w) => match k with
    | .eq => decide (u = v)
    | .ne => decide (u ≠ v)
    | .ltSg => decide (u.toInt < v.toInt)
    | .leSg => decide (u.toInt ≤ v.toInt)
    | .gtSg => decide (u.toInt > v.toInt)
    | .geSg => decide (u.toInt ≥ v.toInt)
    | .ltUs => decide (u.toNat < v.toNat)
    | .leUs => decide (u.toNat ≤ v.toNat)
    | .gtUs => decide (u.toNat > v.toNat)
    | .geUs => decide (u.toNat ≥ v.toNat)
  let lane := fun (c : Issue) (f : Fibre) (isB : Bool) (q : BitVec 3) (l : Fin 32) => match c.src isB l with
    | some j => inMask (f.readP q.toNat) j
    | none => false
  let logic := fun (i : Instr) (op : Bool → Bool → Bool) => Runs i {} fun s c f t =>
    HoldsP c f t p.toNat (fun l => op (lane c f false x l) (lane c f true y l)) ∧ Only s t c.fibre { p := [p.toNat] }
  Runs (.icmp k p a b) { v := [a.toNat, b.toNat] } (fun s c f t =>
    HoldsP c f t p.toNat (fun l => holds 32 (c.rd s false a l) (c.rd s true b l)) ∧ Only s t c.fibre { p := [p.toNat] }) ∧
  Runs (.icmp64 k p a b) { v := [a.toNat, a.toNat + 1, b.toNat, b.toNat + 1] } (fun s c f t =>
    HoldsP c f t p.toNat (fun l => holds 64 (c.rdP s false a l) (c.rdP s true b l)) ∧ Only s t c.fibre { p := [p.toNat] }) ∧
  Runs (.sel n p d a b) { v := [a.toNat, b.toNat], d := [d.toNat] } (fun s c f t =>
    Holds1 s c f t d.toNat (fun l => if Bool.xor (inMask (f.readP p.toNat) l) n then c.rd s false a l else c.rd s true b l) ∧
      Only s t c.fibre { v := [d.toNat] }) ∧
  logic (.pand p x y) (fun u v => u && v) ∧
  logic (.por p x y) (fun u v => u || v) ∧
  logic (.pxor p x y) Bool.xor ∧
  logic (.pnot p x) (fun u _ => !u)

/-- R108: the packed dot products add every product of fields exactly to vd and saturate the total once. -/
def Obligations.PackedDotProducts : Prop := ∀ d a b : BitVec 7,
  let sg := fun (w : Nat) (x : Word) (i : Nat) => (x.extractLsb' (w * i) w).toInt
  let us := fun (w : Nat) (x : Word) (i : Nat) => ((x.extractLsb' (w * i) w).toNat : Int)
  let sum := fun (k : Nat) (g : Nat → Int) => ((List.range k).map g).sum
  let word := fun (i : Instr) (val : Word → Word → Word → Word) =>
    Runs i { v := [d.toNat, a.toNat, b.toNat], d := [d.toNat] } fun s c f t =>
      Holds1 s c f t d.toNat (fun l => val (readLane s c.fibre d.toNat l) (c.rd s false a l) (c.rd s true b l)) ∧
        Only s t c.fibre { v := [d.toNat] }
  let satSg := fun (t : Int) => BitVec.ofInt 32 (max (-2147483648) (min 2147483647 t))
  let satUs := fun (t : Int) => BitVec.ofInt 32 (max 0 (min 4294967295 t))
  word (.idp4Sg d a b) (fun z x y => satSg (z.toInt + sum 4 fun i => sg 8 x i * sg 8 y i)) ∧
  word (.idp4Us d a b) (fun z x y => satUs (z.toNat + sum 4 fun i => us 8 x i * us 8 y i)) ∧
  word (.idp2Sg d a b) (fun z x y => satSg (z.toInt + sum 2 fun i => sg 16 x i * sg 16 y i)) ∧
  word (.idp2Us d a b) (fun z x y => satUs (z.toNat + sum 2 fun i => us 16 x i * us 16 y i))

/-! ### Floating-point words (R65, R120-R130) -/

/-- R122, R123: binary32 and binary64 arithmetic and comparison: the result is rounded once under the mode of the X prefix or of FPSTAT, and the
flags of the lanes whose guard is true, and of no other, join FPSTAT. -/
def Obligations.BinaryArithmetic : Prop := ∀ (k : FCond) (p : BitVec 3) (d a b : BitVec 7),
  let two := fun (i : Instr) (val : Rnd → Nat → Nat → Nat × Word) =>
    Runs i { v := [a.toNat, b.toNat], d := [d.toNat] } fun s c f t =>
      let r := fun (l : Fin 32) => val (c.rm f) (c.rd s false a l).toNat (c.rd s true b l).toNat
      Holds1 s c f t d.toNat (fun l => BitVec.ofNat 32 (r l).1) ∧ HoldsF c f t (fun l => (r l).2) ∧
        Only s t c.fibre { v := [d.toNat], fpstat := true }
  let two64 := fun (i : Instr) (val : Rnd → Nat → Nat → Nat × Word) =>
    Runs i { v := [a.toNat, a.toNat + 1, b.toNat, b.toNat + 1], d := [d.toNat, d.toNat + 1] } fun s c f t =>
      let r := fun (l : Fin 32) => val (c.rm f) (c.rdP s false a l).toNat (c.rdP s true b l).toNat
      Holds2 s c f t d.toNat (fun l => BitVec.ofNat 64 (r l).1) ∧ HoldsF c f t (fun l => (r l).2) ∧
        Only s t c.fibre { v := [d.toNat, d.toNat + 1], fpstat := true }
  let holds := fun (x y : Machine.Num) => match numCmp x y, k with
    | some o, .eq => decide (o = 0)
    | some o, .ne => decide (o ≠ 0)
    | some o, .lt => decide (o < 0)
    | some o, .le => decide (o ≤ 0)
    | some o, .gt => decide (o > 0)
    | some o, .ge => decide (o ≥ 0)
    | some _, .un => false
    | some _, .or => true
    | none, .ne => true
    | none, .un => true
    | none, _ => false
  let flag := fun (x y : Machine.Num) =>
    let loud := match k with
      | .lt | .le | .gt | .ge => x.isNan || y.isNan
      | .eq | .ne | .un | .or => x == .snan || y == .snan
    if loud = true then fNV else (0 : Word)
  two (.faddF32 d a b) (fun rm x y => fpAdd f32 rm x y) ∧
  two (.fsubF32 d a b) (fun rm x y => fpSub f32 rm x y) ∧
  two (.fmulF32 d a b) (fun rm x y => fpMul f32 rm x y) ∧
  two (.fminF32 d a b) (fun _ x y => fpMinMax f32 false x y) ∧
  two (.fmaxF32 d a b) (fun _ x y => fpMinMax f32 true x y) ∧
  two64 (.faddF64 d a b) (fun rm x y => fpAdd f64 rm x y) ∧
  two64 (.fsubF64 d a b) (fun rm x y => fpSub f64 rm x y) ∧
  two64 (.fmulF64 d a b) (fun rm x y => fpMul f64 rm x y) ∧
  two64 (.fminF64 d a b) (fun _ x y => fpMinMax f64 false x y) ∧
  two64 (.fmaxF64 d a b) (fun _ x y => fpMinMax f64 true x y) ∧
  Runs (.ffmaF32 d a b) { v := [a.toNat, b.toNat], d := [d.toNat], vc := 1 } (fun s c f t =>
    let r := fun (l : Fin 32) => fpFma f32 (c.rm f) (c.rd s false a l).toNat (c.rd s true b l).toNat (c.rdC s l).toNat
    Holds1 s c f t d.toNat (fun l => BitVec.ofNat 32 (r l).1) ∧ HoldsF c f t (fun l => (r l).2) ∧
      Only s t c.fibre { v := [d.toNat], fpstat := true }) ∧
  Runs (.ffmaF64 d a b) { v := [a.toNat, a.toNat + 1, b.toNat, b.toNat + 1], d := [d.toNat, d.toNat + 1], vc := 2 } (fun s c f t =>
    let r := fun (l : Fin 32) => fpFma f64 (c.rm f) (c.rdP s false a l).toNat (c.rdP s true b l).toNat (c.rdC64 s l).toNat
    Holds2 s c f t d.toNat (fun l => BitVec.ofNat 64 (r l).1) ∧ HoldsF c f t (fun l => (r l).2) ∧
      Only s t c.fibre { v := [d.toNat, d.toNat + 1], fpstat := true }) ∧
  Runs (.fcmpF32 k p a b) { v := [a.toNat, b.toNat] } (fun s c f t =>
    let x := fun (l : Fin 32) => decF f32 (c.rd s false a l).toNat
    let y := fun (l : Fin 32) => decF f32 (c.rd s true b l).toNat
    HoldsP c f t p.toNat (fun l => holds (x l) (y l)) ∧ HoldsF c f t (fun l => flag (x l) (y l)) ∧
      Only s t c.fibre { p := [p.toNat], fpstat := true }) ∧
  Runs (.fcmpF64 k p a b) { v := [a.toNat, a.toNat + 1, b.toNat, b.toNat + 1] } (fun s c f t =>
    let x := fun (l : Fin 32) => decF f64 (c.rdP s false a l).toNat
    let y := fun (l : Fin 32) => decF f64 (c.rdP s true b l).toNat
    HoldsP c f t p.toNat (fun l => holds (x l) (y l)) ∧ HoldsF c f t (fun l => flag (x l) (y l)) ∧
      Only s t c.fibre { p := [p.toNat], fpstat := true })

/-- R73, R74, R124, R125: the division group and the special functions are of class B: with a lane to serve they go in flight, counted against SETB
of the clause, with the results and flags that class_b_complete will write, and whether the word produces flags at all; no register changes yet. R146 to R148: so do red and scan, with the value
for the uniform register, formed over the participating lanes of the member set of the lowest participating lane, and scan with its running sums. -/
def Obligations.LateResultsGoInFlight : Prop :=
  (∀ d a b : BitVec 7,
  let flight := fun (s : State) (c : Issue) (f : Fibre) (t : State) (ws : List RegWrite) (fl : Fin 32 → Word) =>
    c.active f ≠ 0 → InFlight s c f t (flagOf (fieldOf c.hdr 19 16)) (.classB ws (laneFlags (c.active f) fl) true c.div)
  let one := fun (c : Issue) (f : Fibre) (val : Fin 32 → Word) =>
    [RegWrite.v d.toNat (c.active f ||| c.zeroed f) (Vector.ofFn fun l => if inMask (c.active f) l then val l else 0)]
  let pair := fun (c : Issue) (f : Fibre) (val : Fin 32 → Nat) =>
    [RegWrite.v d.toNat (c.active f ||| c.zeroed f) (Vector.ofFn fun l => if inMask (c.active f) l then BitVec.ofNat 32 (val l) else 0),
     RegWrite.v (d.toNat + 1) (c.active f ||| c.zeroed f)
       (Vector.ofFn fun l => if inMask (c.active f) l then BitVec.ofNat 32 (val l / 2 ^ 32) else 0)]
  let f1 := fun (i : Instr) (val : Rnd → Nat → Nat × Word) => Runs i { v := [a.toNat], d := [d.toNat] } fun s c f t =>
    let r := fun (l : Fin 32) => val (c.rm f) (c.rd s false a l).toNat
    flight s c f t (one c f fun l => BitVec.ofNat 32 (r l).1) fun l => (r l).2
  let f2 := fun (i : Instr) (val : Rnd → Nat → Nat × Word) => Runs i { v := [a.toNat, a.toNat + 1], d := [d.toNat, d.toNat + 1] } fun s c f t =>
    let r := fun (l : Fin 32) => val (c.rm f) (c.rdP s false a l).toNat
    flight s c f t (pair c f fun l => (r l).1 % 2 ^ 64) fun l => (r l).2
  Runs (.fdivF32 d a b) { v := [a.toNat, b.toNat], d := [d.toNat] } (fun s c f t =>
    let r := fun (l : Fin 32) => fpDiv f32 (c.rm f) (c.rd s false a l).toNat (c.rd s true b l).toNat
    flight s c f t (one c f fun l => BitVec.ofNat 32 (r l).1) fun l => (r l).2) ∧
  Runs (.fdivF64 d a b) { v := [a.toNat, a.toNat + 1, b.toNat, b.toNat + 1], d := [d.toNat, d.toNat + 1] } (fun s c f t =>
    let r := fun (l : Fin 32) => fpDiv f64 (c.rm f) (c.rdP s false a l).toNat (c.rdP s true b l).toNat
    flight s c f t (pair c f fun l => (r l).1 % 2 ^ 64) fun l => (r l).2) ∧
  f1 (.fsqrtF32 d a) (fun rm x => fpSqrt f32 rm x) ∧
  f1 (.frcpF32 d a) (fun rm x => fpRcp f32 rm x) ∧
  f1 (.frsqF32 d a) (fun rm x => fpRsq f32 rm x) ∧
  f2 (.fsqrtF64 d a) (fun rm x => fpSqrt f64 rm x) ∧
  f2 (.frcpF64 d a) (fun rm x => fpRcp f64 rm x) ∧
  f2 (.frsqF64 d a) (fun rm x => fpRsq f64 rm x) ∧
  f1 (.fex2F32 d a) (fun _ x => fex2 x) ∧
  f1 (.flg2F32 d a) (fun _ x => flg2 x) ∧
  f1 (.fsinF32 d a) (fun _ x => fTrig false x) ∧
  f1 (.fcosF32 d a) (fun _ x => fTrig true x)) ∧
  (∀ (d a : BitVec 7) (sd : BitVec 6) (k : RedOp) (j : ScanOp),
  let all := fun (c : Issue) (f : Fibre) => crossSet f c.clause c.first ||| c.lanes
  let go := fun (c : Issue) (f : Fibre) => (f.lane (lowLane c.lanes)).hold = .crossGo
  let word := fun (i : Instr) (dst : List Nat) (fp : Bool) (ws : State → Issue → Fibre → List (Fin 32) → List RegWrite × Word) =>
    ∀ s c f, Ready s c f { v := [a.toNat], d := dst, s := [sd.toNat], vc := 1 } →
      (go c f ∨ (crossWants f (crossSet f c.clause c.first) ||| crossWaits s c f) &&& ~~~ all c f = 0) →
      ∃ t, exec i s = .next t ∧
        let e : Issue := if go c f then c else { c with lanes := all c f, div := f.liveMask &&& ~~~ all c f != 0 }
        let low := lowLane (e.active f)
        let m := (List.finRange 32).filter fun j => inMask (e.active f) j && (j == low || (inMask (c.rdC s low) j && inMask f.liveMask j))
        e.active f ≠ 0 →
          InFlight s e f t (flagOf (fieldOf c.hdr 19 16)) (.classB (ws s e f m).1 (ws s e f m).2 fp e.div)
  let val := fun (s : State) (c : Issue) (l : Fin 32) => readLane s c.fibre a.toNat l
  let op := match j with
    | .incSg | .excSg => RedOp.addSg
    | .incUs | .excUs => RedOp.addUs
    | .incF32 | .excF32 => RedOp.addF32
  let inc := match j with
    | .incSg | .incUs | .incF32 => true
    | .excSg | .excUs | .excF32 => false
  word (.red k sd a) [] (decide (k = .addF32)) (fun s c f m =>
    ([.s sd.toNat (redVal k f.rm (m.map (val s c))).1], (redVal k f.rm (m.map (val s c))).2)) ∧
  word (.scan j d a sd) [d.toNat] (decide (op = .addF32)) (fun s c f m =>
    let run := fun (l : Fin 32) =>
      if m.contains l then redVal op f.rm ((m.filter fun i => if inc then i.val ≤ l.val else i.val < l.val).map (val s c))
      else (if inc then (val s c l).zeroExtend 64 else 0, 0)
    let total := redVal op f.rm (m.map (val s c))
    ([.v d.toNat (c.active f ||| c.zeroed f) (Vector.ofFn fun l => if inMask (c.active f) l then ((run l).1).setWidth 32 else 0),
      .s sd.toNat total.1], total.2 ||| laneFlags (c.active f) fun l => (run l).2)))

/-- R128, R129, R130: the conversions between every pair of formats, with and without a bound. -/
def Obligations.Conversions : Prop := ∀ (tgt src : CvtFmt) (d a : BitVec 7),
  let regs := if src.isPair then [a.toNat, a.toNat + 1] else [a.toNat]
  let dst := if tgt.isPair then [d.toNat, d.toNat + 1] else [d.toNat]
  let holds := fun (s : State) (c : Issue) (f : Fibre) (t : State) (r : Fin 32 → DWord × Word) =>
    (if tgt.isPair then Holds2 s c f t d.toNat (fun l => (r l).1) else Holds1 s c f t d.toNat (fun l => ((r l).1).setWidth 32)) ∧
      HoldsF c f t (fun l => (r l).2) ∧ Only s t c.fibre { v := dst, fpstat := true }
  Runs (.cvt tgt d a src) { v := regs, d := dst } (fun s c f t =>
    holds s c f t fun l => cvtTo tgt src (c.rm f) 0 (cvtNum src (cvtRaw src c s a l)) (cvtRaw src c s a l)) ∧
  Runs (.cvtClamp tgt d a src) { v := regs, d := dst, vc := 1 } (fun s c f t =>
    holds s c f t fun l => cvtClampTo tgt (c.rm f) (cvtBound tgt (c.rdC s l).toNat) (cvtNum src (cvtRaw src c s a l)))

/-- R132 to R135: the tapered words in every format, with the flags TO, TN, TC and TI they raise. -/
def Obligations.TaperedWords : Prop := ∀ (g : TapFmt) (k : TCond) (p : BitVec 3) (d a b : BitVec 7),
  let res := fun (s : State) (c : Issue) (f : Fibre) (t : State) (r : Fin 32 → Word × Word) =>
    Holds1 s c f t d.toNat (fun l => (r l).1) ∧ HoldsF c f t (fun l => (r l).2) ∧ Only s t c.fibre { v := [d.toNat], fpstat := true }
  let nar := fun (l : List Word) => l.any fun x => decTap g x.toNat == .nar
  let value := fun (x : Word) => (decTap g x.toNat).val
  let arith := fun (rm : Rnd) (isNar : Bool) (v : Dy) =>
    if isNar then (tapReg g (tapNar g), fTO)
    else if v.m = 0 then (0, 0) else (tapReg g (encTap g rm 0 v).1, (encTap g rm 0 v).2)
  let two := fun (i : Instr) (val : Rnd → Word → Word → Word × Word) => Runs i { v := [a.toNat, b.toNat], d := [d.toNat] } fun s c f t =>
    res s c f t fun l => val (c.rm f) (c.rd s false a l) (c.rd s true b l)
  let code := fun (x : Word) => sgnOf (tapN g) x.toNat
  two (.tradd g d a b) (fun rm x y => arith rm (nar [x, y]) ((value x).add (value y))) ∧
  two (.trsub g d a b) (fun rm x y => arith rm (nar [x, y]) ((value x).add (value y).neg)) ∧
  two (.trmul g d a b) (fun rm x y => arith rm (nar [x, y]) ((value x).mul (value y))) ∧
  Runs (.trfma g d a b) { v := [a.toNat, b.toNat], d := [d.toNat], vc := 1 } (fun s c f t => res s c f t fun l =>
    arith (c.rm f) (nar [c.rd s false a l, c.rd s true b l, c.rdC s l])
      (((value (c.rd s false a l)).mul (value (c.rd s true b l))).add (value (c.rdC s l)))) ∧
  two (.trmin g d a b) (fun _ x y => (tapReg g (if code y < code x then y else x).toNat, if nar [x, y] then fTO else 0)) ∧
  two (.trmax g d a b) (fun _ x y => (tapReg g (if code y < code x then x else y).toNat, if nar [x, y] then fTO else 0)) ∧
  Runs (.trcmp g k p a b) { v := [a.toNat, b.toNat] } (fun s c f t =>
    let x := fun (l : Fin 32) => code (c.rd s false a l)
    let y := fun (l : Fin 32) => code (c.rd s true b l)
    HoldsP c f t p.toNat (fun l => match k with
      | .eq => decide (x l = y l)
      | .ne => decide (x l ≠ y l)
      | .lt => decide (x l < y l)
      | .le => decide (x l ≤ y l)
      | .gt => decide (x l > y l)
      | .ge => decide (x l ≥ y l)) ∧
    HoldsF c f t (fun l => if nar [c.rd s false a l, c.rd s true b l] then fTO else 0) ∧
    Only s t c.fibre { p := [p.toNat], fpstat := true }) ∧
  Runs (.trdec g d a) { v := [a.toNat], d := [d.toNat, d.toNat + 1] } (fun s c f t =>
    Holds2 s c f t d.toNat (fun l => (tapUnpack g (c.rd s false a l).toNat).1) ∧
    HoldsF c f t (fun l => if nar [c.rd s false a l] then fTO else 0) ∧ Only s t c.fibre { v := [d.toNat, d.toNat + 1], fpstat := true }) ∧
  Runs (.trenc g d a) { v := [a.toNat, a.toNat + 1], d := [d.toNat] } (fun s c f t =>
    res s c f t fun l => tapPack g (c.rm f) (c.rdP s false a l))

/-- R135: for every code c of every tapered format and under every rounding mode, trenc of trdec of c gives c again, and raises no flag. -/
def Obligations.UnpackThenPack : Prop := ∀ (g : TapFmt) (rm : Rnd) (c : Nat), c < 2 ^ tapN g →
  tapPack g rm (tapUnpack g c).1 = (tapReg g c, 0)

/-- R137: the exact accumulators: qclr clears, qmac and qadd add one exactly converted term, qround rounds without changing the accumulator; a
lane whose guard is false keeps its accumulator. -/
def Obligations.ExactAccumulators : Prop := ∀ (k : QmacFmt) (j : QaddFmt) (tgt : QTarget) (q : BitVec 1) (d a b : BitVec 7),
  let acc := fun (f : Fibre) (l : Fin 32) => (vget f.q q.toNat (lanesOf (0 : W320)))[l]
  let only := fun (s : State) (c : Issue) (t : State) => Only s t c.fibre { q := [q.toNat], fpstat := true }
  let add := fun (x : W320) (p : W320 × Word) =>
    if x = wNar then (wNar, p.2 ||| fTO) else if p.1 = wNar then (wNar, p.2) else ((wAdd x p.1).1, p.2 ||| (wAdd x p.1).2)
  let term := fun (x y : Word) =>
    let g := qmacTap k
    if decTap g x.toNat = .nar ∨ decTap g y.toNat = .nar then (wNar, fTO)
    else toW .rne (.fin ((decTap g x.toNat).val.mul (decTap g y.toNat).val))
  Runs (.qclr q) {} (fun s c f t => HoldsQ c f t q.toNat (fun _ _ => 0) ∧ HoldsF c f t (fun _ => 0) ∧ only s c t) ∧
  Runs (.qmac k q a b) { v := [a.toNat, b.toNat] } (fun s c f t =>
    let p := fun (l : Fin 32) => term (c.rd s false a l) (c.rd s true b l)
    HoldsQ c f t q.toNat (fun l x => (add x (p l)).1) ∧ HoldsF c f t (fun l => (add (acc f l) (p l)).2) ∧ only s c t) ∧
  Runs (.qadd j q a) { v := [a.toNat] } (fun s c f t =>
    let p := fun (l : Fin 32) => toW .rne (qaddNum j (c.rd s false a l))
    HoldsQ c f t q.toNat (fun l x => (add x (p l)).1) ∧ HoldsF c f t (fun l => (add (acc f l) (p l)).2) ∧ only s c t) ∧
  Runs (.qround d q tgt) { d := if tgt = .f64 then [d.toNat, d.toNat + 1] else [d.toNat] } (fun s c f t =>
    let r := fun (l : Fin 32) => qRound tgt (c.rm f) (acc f l)
    (if tgt = .f64 then Holds2 s c f t d.toNat (fun l => (r l).1) else Holds1 s c f t d.toNat (fun l => ((r l).1).setWidth 32)) ∧
      HoldsF c f t (fun l => (r l).2) ∧
      Only s t c.fibre { v := if tgt = .f64 then [d.toNat, d.toNat + 1] else [d.toNat], fpstat := true })

/-! ### Cross-lane words (R140-R148) -/

/-- R140 to R144: once every lane of W is held at the word or stands in the bundle, all of them issue as one bundle, as a set that was released does:
shuffles, votes and matches, each lane by the participating lanes of its own set. -/
def Obligations.CrossLaneWords : Prop := ∀ (w : Bool) (p : BitVec 3) (d a b : BitVec 7) (pa : BitVec 3),
  let all := fun (c : Issue) (f : Fibre) => crossSet f c.clause c.first ||| c.lanes
  let go := fun (c : Issue) (f : Fibre) => (f.lane (lowLane c.lanes)).hold = .crossGo
  let word := fun (i : Instr) (dst regs : List Nat) (post : State → Issue → Fibre → State → (Fin 32 → Fin 32 → Bool) → Prop) =>
    ∀ s c f, Ready s c f { v := regs, d := dst, vc := 1 } →
      (go c f ∨ (crossWants f (crossSet f c.clause c.first) ||| crossWaits s c f) &&& ~~~ all c f = 0) →
      ∃ t, exec i s = .next t ∧
        let e : Issue := if go c f then c else { c with lanes := all c f, div := f.liveMask &&& ~~~ all c f != 0 }
        post s e f t fun l j => inMask (e.active f) j && (j == l || (inMask (c.rdC s l) j && inMask f.liveMask j))
  let two := fun (r : Nat) => if w then [r, r + 1] else [r]
  let shuffle := fun (i : Instr) (src : Nat → Nat → Int) => word i (two d.toNat) (two a.toNat ++ [b.toNat]) fun s c f t sees =>
    let from_ := fun (l : Fin 32) =>
      let j := src l.val (readLane s c.fibre b.toNat l).toNat
      if 0 ≤ j ∧ j < 32 ∧ sees l (Fin.ofNat 32 j.toNat) then Fin.ofNat 32 j.toNat else l
    (if w then Holds2 s c f t d.toNat (fun l => readPair s c.fibre a.toNat (from_ l))
     else Holds1 s c f t d.toNat (fun l => readLane s c.fibre a.toNat (from_ l))) ∧
      Only s t c.fibre { v := two d.toNat }
  let lanes := List.finRange 32
  shuffle (.shflIdx w d a b) (fun _ y => y % 32) ∧
  shuffle (.shflUp w d a b) (fun l y => if y < 32 then l - y else -1) ∧
  shuffle (.shflDown w d a b) (fun l y => if y < 32 then l + y else 32) ∧
  shuffle (.shflXor w d a b) (fun l y => Nat.xor l (y % 32)) ∧
  word (.voteAny p pa) [] [] (fun s c f t sees =>
    HoldsP c f t p.toNat (fun l => lanes.any fun j => sees l j && inMask (f.readP pa.toNat) j) ∧ Only s t c.fibre { p := [p.toNat] }) ∧
  word (.voteAll p pa) [] [] (fun s c f t sees =>
    HoldsP c f t p.toNat (fun l => lanes.all fun j => !sees l j || inMask (f.readP pa.toNat) j) ∧ Only s t c.fibre { p := [p.toNat] }) ∧
  word (.voteBallot d pa) [d.toNat] [] (fun s c f t sees =>
    Holds1 s c f t d.toNat (fun l => maskOf fun j => sees l j && inMask (f.readP pa.toNat) j) ∧ Only s t c.fibre { v := [d.toNat] }) ∧
  word (.voteEq p a) [] [a.toNat] (fun s c f t sees =>
    HoldsP c f t p.toNat (fun l => lanes.all fun j => !sees l j || readLane s c.fibre a.toNat j == readLane s c.fibre a.toNat l) ∧
      Only s t c.fibre { p := [p.toNat] }) ∧
  word (.matchB32 d a) [d.toNat] [a.toNat] (fun s c f t sees =>
    Holds1 s c f t d.toNat (fun l => maskOf fun j => sees l j && readLane s c.fibre a.toNat j == readLane s c.fibre a.toNat l) ∧
      Only s t c.fibre { v := [d.toNat] }) ∧
  word (.matchB64 d a) [d.toNat] [a.toNat, a.toNat + 1] (fun s c f t sees =>
    Holds1 s c f t d.toNat (fun l => maskOf fun j => sees l j && readPair s c.fibre a.toNat j == readPair s c.fibre a.toNat l) ∧
      Only s t c.fibre { v := [d.toNat] })

/-- R141: while a lane of W has not arrived, the lanes of the bundle are held at the word: nothing is written, nothing is counted, and they wait for
the lanes their masks name. -/
def Obligations.CrossLaneHolds : Prop := ∀ (w : Bool) (p : BitVec 3) (d a b : BitVec 7) (pa : BitVec 3) (sd : BitVec 6) (k : RedOp) (j : ScanOp),
  let two := fun (r : Nat) => if w then [r, r + 1] else [r]
  let word := fun (i : Instr) (dst regs ss : List Nat) =>
    ∀ s c f, Ready s c f { v := regs, d := dst, s := ss, vc := 1 } →
      (crossWants f (crossSet f c.clause c.first) ||| crossWaits s c f) &&& ~~~ (crossSet f c.clause c.first ||| c.lanes) ≠ 0 →
      (f.lane (lowLane c.lanes)).hold ≠ .crossGo →
      ∃ t, exec i s = .next t ∧ Only s t c.fibre {} ∧
        ∃ x, t.fib c.fibre = some x ∧ x.ric = f.ric ∧ x.run = none ∧
          ∀ l, x.lane l = if inMask c.lanes l then { f.lane l with pc := c.clause, word := c.first, hold := .cross (crossWaits s c f) } else f.lane l
  let src := two a.toNat ++ [b.toNat]
  word (.shflIdx w d a b) (two d.toNat) src [] ∧ word (.shflUp w d a b) (two d.toNat) src [] ∧
  word (.shflDown w d a b) (two d.toNat) src [] ∧ word (.shflXor w d a b) (two d.toNat) src [] ∧
  word (.voteAny p pa) [] [] [] ∧ word (.voteAll p pa) [] [] [] ∧ word (.voteBallot d pa) [d.toNat] [] [] ∧ word (.voteEq p a) [] [a.toNat] [] ∧
  word (.matchB32 d a) [d.toNat] [a.toNat] [] ∧ word (.matchB64 d a) [d.toNat] [a.toNat, a.toNat + 1] [] ∧
  word (.red k sd a) [] [a.toNat] [sd.toNat] ∧ word (.scan j d a sd) [d.toNat] [a.toNat] [sd.toNat]

/-! ### Uniform words (R30, R109-R111) -/

/-- R109, R110, R111: every form of the uniform ALU: its one destination receives the value, s0 stays zero, nothing else changes. -/
def Obligations.UniformWords : Prop := ∀ (d a b : BitVec 6) (k : UCond) (i : BitVec 13) (m : BitVec 19),
  let word := fun (i : Instr) (regs : List Nat) (val : DWord → DWord → DWord → DWord) => Runs i { s := d.toNat :: regs } fun s c f t =>
    HoldsS c t d.toNat (val (f.readS a.toNat) (f.readS b.toNat) (f.readS d.toNat)) ∧ Only s t c.fibre { s := [d.toNat] }
  let two := fun (i : Instr) (val : DWord → DWord → DWord) => word i [a.toNat, b.toNat] fun x y _ => val x y
  two (.uadd d a b) (fun x y => x + y) ∧
  two (.usub d a b) (fun x y => x - y) ∧
  two (.umul d a b) (fun x y => x * y) ∧
  two (.uand d a b) (fun x y => x &&& y) ∧
  two (.uor d a b) (fun x y => x ||| y) ∧
  two (.uxor d a b) (fun x y => x ^^^ y) ∧
  two (.ushl d a b) (fun x y => if y.toNat < 64 then x <<< y.toNat else 0) ∧
  two (.ushr d a b) (fun x y => if y.toNat < 64 then x >>> y.toNat else 0) ∧
  two (.usar d a b) (fun x y => if y.toNat < 64 then x.sshiftRight y.toNat else if x.getLsbD 63 then BitVec.allOnes 64 else 0) ∧
  two (.uminSg d a b) (fun x y => if x.toInt ≤ y.toInt then x else y) ∧
  two (.uminUs d a b) (fun x y => if x.toNat ≤ y.toNat then x else y) ∧
  two (.umaxSg d a b) (fun x y => if x.toInt ≤ y.toInt then y else x) ∧
  two (.umaxUs d a b) (fun x y => if x.toNat ≤ y.toNat then y else x) ∧
  word (.umov d a) [a.toNat] (fun x _ _ => x) ∧
  word (.usel d a b) [a.toNat, b.toNat] (fun x y z => if z ≠ 0 then x else y) ∧
  two (.ucmp d a b k) (fun x y =>
    let yes := match k with
      | .eq => decide (x = y)
      | .ne => decide (x ≠ y)
      | .ltSg => decide (x.toInt < y.toInt)
      | .leSg => decide (x.toInt ≤ y.toInt)
      | .ltUs => decide (x.toNat < y.toNat)
      | .leUs => decide (x.toNat ≤ y.toNat)
    if yes then 1 else 0) ∧
  word (.uaddImm d a i) [a.toNat] (fun x _ _ => x + BitVec.ofInt 64 i.toInt) ∧
  word (.umoviLo d m) [] (fun _ _ _ => BitVec.ofInt 64 m.toInt) ∧
  word (.umoviHi d m) [] (fun _ _ z => BitVec.ofNat 64 (z.toNat * 2 ^ 19 + m.toNat))

/-! ### Control (R71, R75, R113-R118) -/

/-- R71, R75, R114 to R116: the per-thread transfers move each lane of the bundle that takes them to its own target and the others to the next
clause, with the link in the lanes that take a call; exit ends the lanes that take it; yield and nop change no register, and yield leaves the fibre
at a yield point, where the end of the clock decides (R249). -/
def Obligations.PerThreadControl : Prop := ∀ (p : BitVec 3) (n : Bool) (o : BitVec 17) (a : BitVec 7),
  let take := fun (c : Issue) (f : Fibre) (l : Fin 32) => inMask c.lanes l && Bool.xor (inMask (f.readP p.toNat) l) n
  let jump := fun (i : Instr) (regs : List Nat) (link : Bool) (target : State → Issue → Fin 32 → DWord) =>
    ∀ s c f, Ready s c f {} →
      let links := if link then [62, 63] else []
      ((∀ l, take c f l = false) ∨ ((c.active f = 0 ∨ ∀ r ∈ regs ++ links, f.hasReg r = true) ∧
        (∀ r ∈ regs, s.vPending c.fibre r = false) ∧ ∀ r ∈ links, s.vOwn c.fibre r = false)) →
      (∀ l, take c f l = true → (target s c l) &&& 63#64 = 0) →
      ∃ t, exec i s = .next t ∧
        Goes s c f t (fun l => if take c f l then target s c l else c.clause + 64) ∧
        Only s t c.fibre { v := if link then [62, 63] else [] } ∧
        (link = true → f.hasReg 62 = true → f.hasReg 63 = true →
          ∀ l, readPair t c.fibre 62 l = if take c f l then c.clause + 64 else readPair s c.fibre 62 l)
  let rel := fun (_ : State) (c : Issue) (_ : Fin 32) => c.clause + BitVec.ofInt 64 (64 * o.toInt)
  jump (.bra p n o) [] false rel ∧
  jump (.call p n o) [] true rel ∧
  jump (.callr p n a) [a.toNat, a.toNat + 1] true (fun s c l => readPair s c.fibre a.toNat l) ∧
  jump (.jmpr p n a) [a.toNat, a.toNat + 1] false (fun s c l => readPair s c.fibre a.toNat l) ∧
  jump (.ret p n) [62, 63] false (fun s c l => readPair s c.fibre 62 l) ∧
  Runs (.exit p n) {} (fun s c f t => Only s t c.fibre {} ∧
    ∃ x, t.fib c.fibre = some x ∧ x.ric = f.ric + 1 ∧ ∀ l, x.lane l =
      if take c f l then { (f.lane l).at_ (c.clause + 64) s.clock with live := false, stamp := (f.lane l).stamp }
      else if inMask c.lanes l then (f.lane l).at_ (c.clause + 64) s.clock else f.lane l) ∧
  Runs .nop {} (fun s c f t => Passes s c f t ∧ Only s t c.fibre {}) ∧
  Runs .yield {} (fun s c f t => Passes s c f t ∧ Only s t c.fibre {} ∧ (f.step = none → ∃ x, t.fib c.fibre = some x ∧ x.yielded = true))

/-- R75: a transfer that some lane takes to an address whose bits 5:0 are not zero raises cause 0x03 at its word, and no lane moves and no link is
written. R117, R267, R269: trap and bkpt freeze the fibre at their word when some lane takes them: cause 0x0D and 0x0E, the lanes that took them and the
code stand in the record, the word does not count; when no lane takes them they act as nop. -/
def Obligations.ControlFaults : Prop :=
  (∀ (p : BitVec 3) (n : Bool) (a : BitVec 7) (u : BitVec 6),
  let take := fun (c : Issue) (f : Fibre) (l : Fin 32) => inMask c.lanes l && Bool.xor (inMask (f.readP p.toNat) l) n
  let bad := fun (s : State) (c : Issue) (f : Fibre) (r : Nat) (l : Fin 32) => take c f l && (readPair s c.fibre r l) &&& 63#64 != 0
  let jump := fun (i : Instr) (r : Nat) (link : Bool) =>
    ∀ s c f, Ready s c f {} → (∀ q ∈ [r, r + 1], f.hasReg q = true ∧ s.vPending c.fibre q = false) →
      (link = true → ∀ q ∈ [62, 63], f.hasReg q = true ∧ s.vOwn c.fibre q = false) → (∃ l, bad s c f r l = true) →
      ∃ t, exec i s = .next t ∧ Faults c f t 0x03 (maskOf (bad s c f r)) 0 0 ∧ Only s t c.fibre {}
  jump (.callr p n a) a.toNat true ∧
  jump (.jmpr p n a) a.toNat false ∧
  jump (.ret p n) 62 false ∧
  (∀ s c f, Ready s c f { s := [u.toNat] } → (f.readS u.toNat) &&& 63#64 ≠ 0 →
    (∃ t, exec (.ubraReg u) s = .next t ∧ Faults c f t 0x03 c.lanes 0 0 ∧ Only s t c.fibre {}) ∧
    (s.sPending c.fibre 63 = false → ∃ t, exec (.ucallReg u) s = .next t ∧ Faults c f t 0x03 c.lanes 0 0 ∧ Only s t c.fibre {}))) ∧
  (∀ (p : BitVec 3) (n : Bool) (k : BitVec 16),
  let take := fun (c : Issue) (f : Fibre) => maskOf fun l => inMask c.lanes l && Bool.xor (inMask (f.readP p.toNat) l) n
  let word := fun (i : Instr) (cause : Nat) => Runs i {} fun s c f t => Only s t c.fibre {} ∧
    if take c f = 0 then Passes s c f t else Faults c f t cause (take c f) 0 k.toNat
  word (.trap p n k) 0x0D ∧ word (.bkpt p n k) 0x0E)

/-- R118: the uniform transfers move the whole bundle together; a ucall that is taken writes s63, one that is not taken writes nothing. -/
def Obligations.UniformControl : Prop := ∀ (n : Bool) (a : BitVec 6) (i : BitVec 13),
  let rel := fun (c : Issue) => c.clause + BitVec.ofInt 64 (64 * i.toInt)
  let taken := fun (f : Fibre) => if n then decide (f.readS a.toNat = 0) else decide (f.readS a.toNat ≠ 0)
  Runs (.ubra n a i) { s := [a.toNat] } (fun s c f t =>
    (rel c) &&& 63#64 = 0 → Goes s c f t (fun _ => if taken f then rel c else c.clause + 64) ∧ Only s t c.fibre {}) ∧
  Runs (.ucall n a i) { s := [a.toNat] } (fun s c f t =>
    (rel c) &&& 63#64 = 0 → s.sPending c.fibre 63 = false →
      Goes s c f t (fun _ => if taken f then rel c else c.clause + 64) ∧ Only s t c.fibre { s := if taken f then [63] else [] } ∧
      (taken f = true → HoldsS c t 63 (c.clause + 64))) ∧
  Runs (.ubraReg a) { s := [a.toNat] } (fun s c f t =>
    (f.readS a.toNat) &&& 63#64 = 0 → Goes s c f t (fun _ => f.readS a.toNat) ∧ Only s t c.fibre {}) ∧
  Runs (.ucallReg a) { s := [a.toNat] } (fun s c f t =>
    (f.readS a.toNat) &&& 63#64 = 0 → s.sPending c.fibre 63 = false →
      Goes s c f t (fun _ => f.readS a.toNat) ∧ Only s t c.fibre { s := [63] } ∧ HoldsS c t 63 (c.clause + 64))


/-! ### Memory words (R112, R149-R167) -/

/-- R73, R149, R152 to R154, R157: a load in every form goes in flight, counted against SETA, with one access for each lane whose guard is true, once
they all pass the checks; with no such lane it is complete at once, and only the zero policy writes. -/
def Obligations.Loads : Prop := ∀ (d a : BitVec 7) (b : BitVec 4) (i : BitVec 7) (k : LdKind) (ord : Bool) (sc : Scope),
  let word := fun (w : Instr) (k : LdKind) (i : Int) (acq : Option Scope) =>
    let size := match k with
      | .b8zx | .b8sx => 1
      | .b16zx | .b16sx => 2
      | .b32 => 4
      | .b64 => 8
      | .b128 => 16
    let regs := (List.range ((size + 3) / 4)).map (d.toNat + ·)
    Runs w { v := [a.toNat, a.toNat + 1], d := regs } fun s c f t =>
      let off := fun (l : Fin 32) => readPair s c.fibre a.toNat l + BitVec.ofInt 64 (i * (size : Int))
      (c.active f = 0 → Done s c t c.setA { v := regs } ∧ ∀ r ∈ regs, Holds1 s c f t r fun _ => 0) ∧
      ∀ pa, c.active f ≠ 0 → Reaches s c f b.toNat (c.takers f) off size size .read pa →
        InFlight s c f t c.setA (.load (accsOf (bufOf s c f b.toNat) (c.takers f) off size pa (fun _ => 0) fun _ => 0)
          (infoOf s c f b.toNat) k d.toNat (c.zeroed f) acq)
  word (.ldB32 d a b i) .b32 i.toInt none ∧
  word (.ldB64 d a b i) .b64 i.toInt none ∧
  word (.ldB128 d a b i) .b128 i.toInt none ∧
  word (.ldExtended d a b k ord sc) k 0 (if ord then some sc else none)

/-- R73, R149, R152 to R154, R157, R260: a store in every form goes in flight with the low bytes of its data registers, lane by lane; in the ordered
modes it claims staging lines of its team. No byte of memory changes at the issue. -/
def Obligations.Stores : Prop := ∀ (d a : BitVec 7) (b : BitVec 4) (i : BitVec 7) (k : StKind) (ord : Bool) (sc : Scope),
  let word := fun (w : Instr) (size : Nat) (i : Int) (rel : Option Scope) =>
    let regs := (List.range ((size + 3) / 4)).map (d.toNat + ·)
    Runs w { v := regs ++ [a.toNat, a.toNat + 1] } fun s c f t =>
      let off := fun (l : Fin 32) => readPair s c.fibre a.toNat l + BitVec.ofInt 64 (i * (size : Int))
      (c.active f = 0 → Done s c t c.setA {}) ∧
      ∀ pa, c.active f ≠ 0 → Reaches s c f b.toNat (c.takers f) off size size .write pa →
        let accs := accsOf (bufOf s c f b.toNat) (c.takers f) off size pa (bytesAt s c d.toNat size) fun _ => 0
        let kind := OpKind.store accs (infoOf s c f b.toNat) rel
        (s.ordered (s.partOf c.fibre) = false → InFlight s c f t c.setA kind) ∧
        (StagingRoom s c accs → InFlight s c f t c.setA kind { ops := true, flags := true, teams := true })
  word (.stB32 d a b i) 4 i.toInt none ∧
  word (.stB64 d a b i) 8 i.toInt none ∧
  word (.stB128 d a b i) 16 i.toInt none ∧
  word (.stExtended d a b k ord sc) (match k with
    | .b8 => 1
    | .b16 => 2
    | .b32 => 4
    | .b64 => 8
    | .b128 => 16) 0 (if ord then some sc else none)

/-- R112: uld and ust make one access of 8 bytes at the offset that their uniform register gives, for the whole bundle. -/
def Obligations.UniformAccesses : Prop := ∀ (d a : BitVec 6) (b : BitVec 4) (o : BitVec 8),
  let off := fun (f : Fibre) => f.readS a.toNat + BitVec.ofInt 64 (o.toInt * 8)
  let one := fun (s : State) (c : Issue) (f : Fibre) (pa : Nat) (data : Nat) =>
    (⟨(lowLane c.lanes).val, (off f).toNat, (bufOf s c f b.toNat).base + (off f).toNat, pa, (bufOf s c f b.toNat).home, 8, data, 0⟩ : Acc)
  Runs (.uld d a b o) { s := [d.toNat, a.toNat] } (fun s c f t =>
    ∀ pa, Reaches s c f b.toNat [lowLane c.lanes] (fun _ => off f) 8 8 .read pa →
      InFlight s c f t c.setA (.uload (one s c f (pa (lowLane c.lanes)) 0) (infoOf s c f b.toNat) d.toNat c.div)) ∧
  Runs (.ust d a b o) { s := [d.toNat, a.toNat] } (fun s c f t =>
    ∀ pa, Reaches s c f b.toNat [lowLane c.lanes] (fun _ => off f) 8 8 .write pa →
      let accs := [one s c f (pa (lowLane c.lanes)) (f.readS d.toNat).toNat]
      let kind := OpKind.store accs (infoOf s c f b.toNat) none
      (s.ordered (s.partOf c.fibre) = false → InFlight s c f t c.setA kind) ∧
      (StagingRoom s c accs → InFlight s c f t c.setA kind { ops := true, flags := true, teams := true }))

/-- R163 to R166: every atomic, the 16-byte compare-and-swap and aacc go in flight at their scope, with the operand, and for a compare-and-swap the
new value of the fourth operand, of each lane whose guard is true. -/
def Obligations.Atomics : Prop := ∀ (d a : BitVec 7) (b : BitVec 4) (sc : Scope) (k : AaccFmt),
  let word := fun (w : Instr) (op : AtomOp) (size : Nat) =>
    let regs := (List.range (size / 4)).map (d.toNat + ·)
    Runs w { v := regs ++ [a.toNat, a.toNat + 1], vc := if op = .cas then size / 4 else 0 } fun s c f t =>
      let off := fun (l : Fin 32) => readPair s c.fibre a.toNat l
      (c.active f = 0 → Done s c t c.setA { v := regs } ∧ ∀ r ∈ regs, Holds1 s c f t r fun _ => 0) ∧
      ∀ pa, c.active f ≠ 0 → Reaches s c f b.toNat (c.takers f) off size size .atomic pa →
        let operand := bytesAt s c d.toNat size
        let accs := accsOf (bufOf s c f b.toNat) (c.takers f) off size pa (if op = .cas then bytesAt s c c.vc size else operand)
          (if op = .cas then operand else fun _ => 0)
        let kind := OpKind.atom op sc accs (infoOf s c f b.toNat) d.toNat (c.zeroed f)
        (s.ordered (s.partOf c.fibre) = false → InFlight s c f t c.setA kind) ∧
        (StagingRoom s c accs → InFlight s c f t c.setA kind { ops := true, flags := true, teams := true })
  word (.atomAddB32 d a b sc) .add 4 ∧ word (.atomAddB64 d a b sc) .add 8 ∧
  word (.atomMinSgB32 d a b sc) .minSg 4 ∧ word (.atomMinSgB64 d a b sc) .minSg 8 ∧
  word (.atomMinUsB32 d a b sc) .minUs 4 ∧ word (.atomMinUsB64 d a b sc) .minUs 8 ∧
  word (.atomMaxSgB32 d a b sc) .maxSg 4 ∧ word (.atomMaxSgB64 d a b sc) .maxSg 8 ∧
  word (.atomMaxUsB32 d a b sc) .maxUs 4 ∧ word (.atomMaxUsB64 d a b sc) .maxUs 8 ∧
  word (.atomAndB32 d a b sc) .and 4 ∧ word (.atomAndB64 d a b sc) .and 8 ∧
  word (.atomOrB32 d a b sc) .or 4 ∧ word (.atomOrB64 d a b sc) .or 8 ∧
  word (.atomXorB32 d a b sc) .xor 4 ∧ word (.atomXorB64 d a b sc) .xor 8 ∧
  word (.atomXchgB32 d a b sc) .xchg 4 ∧ word (.atomXchgB64 d a b sc) .xchg 8 ∧
  word (.atomCasB32 d a b sc) .cas 4 ∧ word (.atomCasB64 d a b sc) .cas 8 ∧
  word (.acasB128 d a b sc) .cas 16 ∧
  (let size := if k = .f64 then 8 else if k = .e16e1 ∨ k = .e16e2 then 2 else 4
   let regs := if k = .f64 then [d.toNat, d.toNat + 1] else [d.toNat]
   Runs (.aacc d a b k) { v := regs ++ [a.toNat, a.toNat + 1] } fun s c f t =>
    let off := fun (l : Fin 32) => readPair s c.fibre a.toNat l
    (c.active f = 0 → Done s c t c.setA {}) ∧
    ∀ pa, c.active f ≠ 0 → Reaches s c f b.toNat (c.takers f) off 40 1 .atomic pa →
      (∀ l ∈ c.takers f, (off l).toNat % 128 ∈ [0, 40, 80]) →
      InFlight s c f t c.setA (.aacc k (accsOf (bufOf s c f b.toNat) (c.takers f) off 40 pa (bytesAt s c d.toNat size) fun _ => 0)
        (infoOf s c f b.toNat)))

/-- R149, R150: the first check, in order, that any lane fails freezes the fibre at its word with the cause of that check, the lanes that failed it,
the offset or virtual address of the lowest, and the buffer register with its index; the word has no effect. Of translations, the earliest
outcome of R288 that any lane met is reported. A uld or ust that faults leaves the flag that SETA names in error (R112; the rule of R150 that no flag
counts a word that faults leaves that error in place: log entry 41). -/
def Obligations.BufferChecks : Prop := ∀ (d a : BitVec 7) (u v : BitVec 6) (b : BitVec 4) (i : BitVec 7) (o : BitVec 8) (sc : Scope),
  let word := fun (w : Instr) (uses : Uses) (once : Bool) (size : Nat) (need : Need) (off : State → Issue → Fibre → Fin 32 → DWord) =>
    ∀ s c f, Ready s c f uses → (once = true ∨ c.active f ≠ 0) → opsPending s c.fibre .acquires = false →
      coreFull s (coreOf c.fibre) = false →
      let takers := if once then [lowLane c.lanes] else c.takers f
      let at_ := fun (l : Fin 32) => (off s c f l).toNat
      let reg := vget f.b b.toNat 0
      let e := bufOf s c f b.toNat
      let low := fun (bad : Fin 32 → Bool) => (takers.find? bad).getD 0
      let mask := fun (bad : Fin 32 → Bool) => if once then c.lanes else maskOf fun l => takers.contains l && bad l
      let page := fun (l : Fin 32) => transWord s c.fibre (s.viOf c.fibre) (e.base + at_ l) e.icl (need != .read) false
      let stops := fun (cause sub : Nat) (bad : Fin 32 → Bool) (addr : Fin 32 → Nat) =>
        ∃ t, exec w s = .next t ∧ Faults c f t cause (mask bad) (addr (low bad)) 0 sub b.toNat (bregIdx reg) ∧ Only s t c.fibre { flags := once } ∧
          (once = true → ∀ n, c.setA = some n → ∃ x, t.fib c.fibre = some x ∧ x.cfErr.getLsbD n = true)
      let odd := fun (l : Fin 32) => at_ l % size != 0
      let out := fun (l : Fin 32) => decide (e.len < at_ l + size)
      if takers.any odd then stops 0x04 0 odd at_
      else if bregV reg = false then stops 0x06 0 (fun _ => true) fun _ => 0
      else if takers.any out then stops 0x05 0 out at_
      else if e.grants need = false then stops 0x06 1 (fun _ => true) fun _ => 0
      else if need ≠ .read ∧ bregRdo reg = true then stops 0x06 2 (fun _ => true) fun _ => 0
      else if e.owner ≠ s.viOf c.fibre then stops 0x07 0 (fun _ => true) fun _ => 0
      else ∀ l0 ∈ takers, ∀ cause sub order, s.replaying (s.partOf c.fibre) = false → (∀ l ∈ takers, page l ≠ .miss) →
        page l0 = .bad cause sub order → cause < 256 → sub < 16 →
        let same := fun (l : Fin 32) => match page l with
          | .bad _ _ n => n == order
          | _ => false
        (∀ l ∈ takers, ∀ x y n, page l = .bad x y n → order ≤ n) → (∀ l ∈ takers, same l = true → l0 ≤ l) →
        stops cause sub same fun l => (e.base + at_ l) % 2 ^ 64
  let pair := [a.toNat, a.toNat + 1]
  let near := fun (size : Nat) (s : State) (c : Issue) (_ : Fibre) (l : Fin 32) =>
    readPair s c.fibre a.toNat l + BitVec.ofInt 64 (i.toInt * (size : Int))
  let bare := fun (s : State) (c : Issue) (_ : Fibre) (l : Fin 32) => readPair s c.fibre a.toNat l
  let uni := fun (_ : State) (_ : Issue) (f : Fibre) (_ : Fin 32) => f.readS v.toNat + BitVec.ofInt 64 (o.toInt * 8)
  word (.ldB32 d a b i) { v := pair, d := [d.toNat] } false 4 .read (near 4) ∧
  word (.ldB64 d a b i) { v := pair, d := [d.toNat, d.toNat + 1] } false 8 .read (near 8) ∧
  word (.stB32 d a b i) { v := d.toNat :: pair } false 4 .write (near 4) ∧
  word (.stB64 d a b i) { v := d.toNat :: (d.toNat + 1) :: pair } false 8 .write (near 8) ∧
  word (.atomAddB32 d a b sc) { v := d.toNat :: pair } false 4 .atomic bare ∧
  word (.atomAddB64 d a b sc) { v := d.toNat :: (d.toNat + 1) :: pair } false 8 .atomic bare ∧
  word (.uld u v b o) { s := [u.toNat, v.toNat] } true 8 .read uni ∧
  word (.ust u v b o) { s := [u.toNat, v.toNat] } true 8 .write uni

/-- R159, R161: scratchpad words make one access per lane in the team's scratchpad; a misaligned address raises 0x04, one outside the team's bytes
0x05; while a line a lane addresses is absent, the lanes are held at the word and nothing else happens. -/
def Obligations.ScratchpadWords : Prop := ∀ (d a : BitVec 7) (i : BitVec 11),
  let word := fun (w : Instr) (size : Nat) (regs : List Nat) (zero : Bool) (kind : State → Issue → Fibre → List Acc → OpKind) =>
    Runs w (if zero then { v := [a.toNat], d := regs } else { v := regs ++ [a.toNat] }) fun s c f t =>
      let at_ := fun (l : Fin 32) => ((readLane s c.fibre a.toNat l).toNat : Int) + i.toInt * (size : Int)
      let base := ((s.team f.team).map (·.sbase)).getD 0 * 128
      let bytes := ((s.team f.team).map (·.slines)).getD 0 * 128
      let odd := fun (l : Fin 32) => at_ l % (size : Int) != 0
      let out := fun (l : Fin 32) => decide (at_ l < 0 ∨ (bytes : Int) < at_ l + (size : Int))
      let gone := fun (l : Fin 32) => (s.core (coreOf c.fibre)).absent.contains ((base + (at_ l).toNat) / 128)
      let mask := fun (bad : Fin 32 → Bool) => maskOf fun l => inMask (c.active f) l && bad l
      let addr := fun (bad : Fin 32 → Bool) => (BitVec.ofInt 64 (at_ (lowLane (mask bad)))).toNat
      if c.active f = 0 then Done s c t c.setA { v := if zero then regs else [] } ∧ (zero = true → ∀ r ∈ regs, Holds1 s c f t r fun _ => 0)
      else opsPending s c.fibre .acquires = false →
        if mask odd ≠ 0 then Faults c f t 0x04 (mask odd) (addr odd) 0 ∧ Only s t c.fibre {}
        else if mask out ≠ 0 then Faults c f t 0x05 (mask out) (addr out) 0 ∧ Only s t c.fibre {}
        else if mask gone ≠ 0 then Only s t c.fibre {} ∧ ∃ x, t.fib c.fibre = some x ∧ x.ric = f.ric ∧
          ∀ l, inMask c.lanes l = true → (x.lane l).pc = c.clause ∧ (x.lane l).word = c.first ∧ ∃ ls, (x.lane l).hold = .absent ls
        else
          InFlight s c f t c.setA (kind s c f ((c.takers f).map fun l => ⟨l.val, (at_ l).toNat, (at_ l).toNat, base + (at_ l).toNat, 0, size,
            if zero then 0 else bytesAt s c d.toNat size l, 0⟩))
  word (.ldsB32 d a i) 4 [d.toNat] true (fun _ c f l => .lds l d.toNat (c.zeroed f)) ∧
  word (.ldsB64 d a i) 8 [d.toNat, d.toNat + 1] true (fun _ c f l => .lds l d.toNat (c.zeroed f)) ∧
  word (.stsB32 d a i) 4 [d.toNat] false (fun _ _ _ l => .sts l) ∧
  word (.stsB64 d a i) 8 [d.toNat, d.toNat + 1] false (fun _ _ _ l => .sts l)

/-- R158: pf writes no register, is complete when it is accepted and, while no line is held outside its home device and the L1 has no dirty byte to evict, changes no byte of memory. R167: arsv
reserves places for the lanes whose guard is true, in order, in the share of the fibre's group; a lane that gets none receives all ones; the count
and the overflow flag of that buffer change, and nothing else. A buffer register that names no reserved-append buffer of the launch raises 0x06. -/
def Obligations.PrefetchAndAppend : Prop :=
  (∀ (a : BitVec 7) (b : BitVec 4) (v : PfLevel),
  Runs (.pf a b v) { v := [a.toNat, a.toNat + 1] } fun s c _ t =>
    opsPending s c.fibre .acquires = false → Done s c t c.setA { mem := true } ∧
      ((∀ n, mdState (s.md n) < 3) → (∀ n, (s.l1 (coreOf c.fibre) n).dirty = 0) → s.replaying (s.partOf c.fibre) = false → ∀ x, t.mem.read x = s.mem.read x)) ∧
  (∀ (d : BitVec 7) (b : BitVec 4),
  Runs (.arsv d b) { v := [d.toNat] } fun s c f t =>
    let reg := vget f.b b.toNat 0
    (c.active f = 0 → Done s c t c.setA { v := [d.toNat] } ∧ Holds1 s c f t d.toNat fun _ => 0) ∧
    (c.active f ≠ 0 → bregV reg = false → Faults c f t 0x06 (c.active f) 0 0 0 b.toNat (bregIdx reg) ∧ Only s t c.fibre {}) ∧
    (c.active f ≠ 0 → bregV reg = true → (s.gridOf c.fibre).bind (appendEntry · (bregIdx reg)) = none →
      Faults c f t 0x06 (c.active f) 0 0 5 b.toNat (bregIdx reg) ∧ Only s t c.fibre {}) ∧
    ∀ g j w, c.active f ≠ 0 → bregV reg = true → s.gridOf c.fibre = some g → appendEntry g (bregIdx reg) = some (j, w) →
      let groups := max 1 (fieldOf (nth g.kdesc 1 0) 5 0)
      let first := f.group * (w / groups)
      let len := if f.group + 1 = groups then w - first else w / groups
      let go := (c.takers f).foldl (fun (x : Nat × Bool × (Fin 32 → Word)) (l : Fin 32) =>
          let k := (readLane s c.fibre d.toNat l).toNat
          if x.1 + k ≤ len then (x.1 + k, x.2.1, fun i => if i = l then BitVec.ofNat 32 (first + x.1) else x.2.2 i)
          else (x.1, true, fun i => if i = l then BitVec.allOnes 32 else x.2.2 i))
        ((vget f.append j 0).toNat, false, fun _ => 0)
      Done s c t c.setA { v := [d.toNat], append := true } ∧ Holds1 s c f t d.toNat go.2.2 ∧
      ∃ x, t.fib c.fibre = some x ∧ ∀ i < 4,
        vget x.append i 0 = (if i = j then BitVec.ofNat 32 go.1 else vget f.append i 0) ∧
        vget x.ovf i false = (if i = j then vget f.ovf j false || go.2.1 else vget f.ovf i false))

/-! ### The checks that words share (R23, R74, R85, R266) -/

/-- R23, R74, R85, R266: before its own meaning a word raises 0x01 when its fourth operand is missing or misaligned, 0x10 when the role of the fibre
does not fit, 0x0B when a register lies outside the windows and some lane's guard is true; then it stalls on pending registers that it reads, and on
those it writes that an operation of its own fibre will write (R25). It counts in
none of these cases and nothing a program names changes. -/
def Obligations.SharedChecks : Prop := ∀ (d a b : BitVec 7) (u v : BitVec 6) (n : BitVec 4) (i : BitVec 7) (sc : Scope) (k : RedOp),
  let word := fun (w : Instr) (uses : Uses) => ∀ s c f, s.issue = some c → s.fib c.fibre = some f →
    ∃ t, exec w s = .next t ∧
      let regs := c.vregs uses
      if c.badVc uses = true then Faults c f t 0x01 c.lanes 0 0 ∧ Only s t c.fibre {}
      else if uses.role ≠ none ∧ uses.role ≠ some f.role then Faults c f t 0x10 c.lanes 0 0 ∧ Only s t c.fibre {}
      else if c.active f ≠ 0 ∧ ∃ r ∈ regs, f.hasReg r = false then Faults c f t 0x0B c.lanes 0 0 ∧ Only s t c.fibre {}
      else if (∃ r ∈ c.reads uses, f.hasReg r = true ∧ s.vPending c.fibre r = true) ∨ (∃ r ∈ uses.d, f.hasReg r = true ∧ s.vOwn c.fibre r = true) ∨
          ∃ r ∈ uses.s, s.sPending c.fibre r = true then
        Waits c f t (.regs ((c.reads uses).filter fun r => f.hasReg r) (uses.d.filter fun r => f.hasReg r) uses.s) ∧ Only s t c.fibre {}
      else True
  word (.iadd d a b) { v := [a.toNat, b.toNat], d := [d.toNat] } ∧
  word (.imad d a b) { v := [a.toNat, b.toNat], d := [d.toNat], vc := 1 } ∧
  word (.ffmaF64 d a b) { v := [a.toNat, a.toNat + 1, b.toNat, b.toNat + 1], d := [d.toNat, d.toNat + 1], vc := 2 } ∧
  word (.fdivF32 d a b) { v := [a.toNat, b.toNat], d := [d.toNat] } ∧
  word (.uadd u v u) { s := [u.toNat, v.toNat, u.toNat] } ∧
  word (.ldB64 d a n i) { v := [a.toNat, a.toNat + 1], d := [d.toNat, d.toNat + 1] } ∧
  word (.acasB128 d a n sc) { v := [d.toNat, d.toNat + 1, d.toNat + 2, d.toNat + 3, a.toNat, a.toNat + 1], vc := 4 } ∧
  word (.red k u a) { v := [a.toNat], s := [u.toNat], vc := 1 } ∧
  word (.copy u n sc) { s := [u.toNat, u.toNat + 1, u.toNat + 2, u.toNat + 3], role := some .copy } ∧
  word (.mma u n) { s := [u.toNat, u.toNat + 1, u.toNat + 2], role := some .matrix } ∧
  word .opfence { role := some .matrix }

/-! ### Fences (R168-R170, R200, R220, R221) -/

/-- R169, R170, R200, R214, R220, R221: a fence waits for the operations it names, and a release for the acknowledgements of the lines it writes back. A
release at .team or wider leaves no dirty byte in the L1 of the core, and each has reached its home where nothing takes the write from it; an
acquire leaves only bytes of words the core owns, and of words with dirty bytes what equals memory (log entry 43), and changes no byte of memory;
fence.lrec also empties the record cache; an opfence covers the scratchpad writes that its fibre made or observed. -/
def Obligations.Fences : Prop := ∀ x : Scope,
  let word := fun (w : Instr) (u : Uses) (for_ : OpsWait) (rel : Bool) (wr : Writes) (post : State → Issue → Fibre → State → Prop) =>
    Runs w u fun s c f t =>
      if opsPending s c.fibre for_ = true then Waits c f t (.ops for_) ∧ Only s t c.fibre {}
      else if rel = true ∧ relWaits s c.fibre = true then
        Waits c f t .acks ∧ Only s t c.fibre { mem := true } ∧ ∀ y, t.mem.read y = s.mem.read y
      else Passes s c f t ∧ Only s t c.fibre wr ∧ (s.replaying (s.partOf c.fibre) = false → post s c f t)
  let released := fun (s : State) (c : Issue) (t : State) => (∀ ln, (t.l1 (coreOf c.fibre) ln).dirty = 0) ∧
    (∀ ln, Plain s ln → (∀ k, k ≠ coreOf c.fibre → (s.l1 k ln).dirty = 0) →
      ∀ i < 128, (s.l1 (coreOf c.fibre) ln).dirty.getLsbD i = true →
        t.mem.read (ln * 128 + i) = (s.l1 (coreOf c.fibre) ln).data.extractLsb' (8 * i) 8)
  let acquired := fun (c : Issue) (t : State) => ∀ ln, ∀ i < 128, (t.l1 (coreOf c.fibre) ln).valid.getLsbD i = true →
    ((t.line ln).own.any fun r => r.core == coreOf c.fibre && r.mask.getLsbD (i / 4)) = true ∨
      ((∃ j < 128, j / 4 = i / 4 ∧ (t.l1 (coreOf c.fibre) ln).dirty.getLsbD j = true) ∧
        (t.l1 (coreOf c.fibre) ln).data.extractLsb' (8 * i) 8 = t.mem.read (ln * 128 + i))
  let wide := { mem := decide (x ≠ .fibre) }
  word (.fence x) {} .mem (decide (x ≠ .fibre)) wide (fun s c _ t => x ≠ .fibre → released s c t ∧ acquired c t) ∧
  word (.fenceAcq x) {} .reads false wide (fun s c _ t => x ≠ .fibre → acquired c t ∧ (∀ y, t.mem.read y = s.mem.read y) ∧
    ∀ ln, (t.l1 (coreOf c.fibre) ln).dirty = (s.l1 (coreOf c.fibre) ln).dirty ∧ (t.l1 (coreOf c.fibre) ln).data = (s.l1 (coreOf c.fibre) ln).data) ∧
  word (.fenceRel x) {} .mem (decide (x ≠ .fibre)) wide (fun s c _ t => x ≠ .fibre → released s c t) ∧
  word .fenceLrec {} .mem true { mem := true } (fun s c _ t => released s c t ∧ (t.core (coreOf c.fibre)).lrec = []) ∧
  word .opfence { role := some .matrix } .stores false { teams := true } (fun s c f t =>
    ∀ n, t.team n = (s.team n).map fun y => if n = f.team then { y with unfenced := y.unfenced.map fun w =>
      if w.writer = c.fibre ∨ c.fibre ∈ w.seen then { w with fenced := c.fibre :: w.fenced } else w } else y)

/-! ### Barriers and rings (R172-R178) -/

/-- R174: the words of team barriers. b is the barrier as the word finds it; an arrival that ends the phase waits for the fibre's earlier accesses,
frees the held lanes with status 0 and starts the next phase; bar.init and bar.inval end a phase that is in use in error, with status 0x12. -/
def Obligations.TeamBarriers : Prop := ∀ (d a n : BitVec 6),
  let word := fun (w : Instr) (regs : List Nat) (post : State → Issue → Fibre → State → Team → Barrier → Prop) =>
    ∀ s c f tm, Ready s c f { s := regs } → n.toNat < 16 → s.team f.team = some tm →
      ∃ t, exec w s = .next t ∧ post s c f t tm (tm.bar n.toNat)
  let becomes := fun (s : State) (f : Fibre) (t : State) (b : Barrier) =>
    ∀ k, (t.team k).map Team.bare = (s.team k).map fun y => (if k = f.team then { y with bars := vset y.bars n.toNat b } else y).bare
  let status := fun (s : State) (c : Issue) (f : Fibre) (t : State) (x : Nat) (w : Writes) =>
    Passes s c f t ∧ HoldsS c t d.toNat (BitVec.ofNat 64 x) ∧ Only s t c.fibre { w with s := [d.toNat], mem := w.mem || x == 0 }
  let held := fun (s : State) (c : Issue) (f : Fibre) (t : State) (b : Barrier) (w : Writes) =>
    HeldSync c f t (.bar n.toNat b.phase.toNat) d.toNat ∧ Only s t c.fibre w
  let ends := fun (s : State) (c : Issue) (f : Fibre) (t : State) (tm : Team) (b nb : Barrier) (code : Nat) (regs : List Nat) =>
    PassesIn s c f t ∧ becomes s f t nb ∧ Frees s c t tm.live (onBar n.toNat b.phase.toNat) code ∧
      Only s t c.fibre { s := regs, teams := true, freed := tm.live, mem := code == 0 }
  let closed := fun (b : Barrier) (err : Bool) => { b with endErr := err, phase := b.phase + 1, arr := 0, gmask := 0 }
  let more := fun (f : Fibre) (b : Barrier) => { b with arr := b.arr + 1, gmask := b.gmask ||| (1#32 <<< f.group) }
  let used := fun (s : State) (tm : Team) (b : Barrier) => b.valid && (decide (0 < b.arr) || someHeld s tm.live (onBar n.toNat b.phase.toNat))
  let inUse : Nat := 0x12
  word (.barInit a n) [a.toNat] (fun s c f t tm b =>
    let k := fieldOf (f.readS a.toNat) 9 0
    if k = 0 then Faults c f t 0x05 c.lanes 0 0 ∧ Only s t c.fibre {}
    else if used s tm b then ends s c f t tm b { closed b true with valid := true, exp := k } inUse []
    else Passes s c f t ∧ becomes s f t { b with valid := true, exp := k, arr := 0, gmask := 0 } ∧ Only s t c.fibre { teams := true }) ∧
  word (.barArrive d n) [d.toNat] (fun s c f t tm b =>
    if b.valid = false ∨ b.gmask.getLsbD f.group = true then
      Passes s c f t ∧ HoldsS c t d.toNat (b.phase.zeroExtend 64) ∧ Only s t c.fibre { s := [d.toNat] }
    else if b.arr + 1 ≠ b.exp then
      Passes s c f t ∧ HoldsS c t d.toNat (b.phase.zeroExtend 64) ∧ becomes s f t (more f b) ∧ Only s t c.fibre { s := [d.toNat], teams := true }
    else if opsPending s c.fibre .mem then Waits c f t (.ops .mem) ∧ Only s t c.fibre {}
    else HoldsS c t d.toNat (b.phase.zeroExtend 64) ∧ ends s c f t tm b (closed b false) 0 [d.toNat]) ∧
  word (.barWait d a n) [d.toNat, a.toNat] (fun s c f t _ b =>
    let tok := (f.readS a.toNat).setWidth 16
    if b.valid = true ∧ tok = b.phase then held s c f t b {}
    else status s c f t (if b.valid = true ∧ tok + 1 = b.phase ∧ b.endErr = false then 0 else 0x12) {}) ∧
  word (.barSync d n) [d.toNat] (fun s c f t tm b =>
    if b.valid = false then status s c f t 0x12 {}
    else if b.gmask.getLsbD f.group = true then held s c f t b {}
    else if b.arr + 1 ≠ b.exp then becomes s f t (more f b) ∧ held s c f t b { teams := true }
    else if opsPending s c.fibre .mem then Waits c f t (.ops .mem) ∧ Only s t c.fibre {}
    else HoldsS c t d.toNat 0 ∧ ends s c f t tm b (closed b false) 0 [d.toNat]) ∧
  word (.barInval n) [] (fun s c f t tm b =>
    if b.valid then ends s c f t tm b { closed b true with valid := false } inUse []
    else Passes s c f t ∧ becomes s f t b ∧ Only s t c.fibre { teams := true })

/-- R175: fbar.sync. The first arrival of a phase fixes how many fibres it takes; one that asks for another number ends the phase with status 0x12,
the last one with status 0, and the others are held; a barrier the team has not is illegal. -/
def Obligations.FibreBarriers : Prop := ∀ (d n : BitVec 6) (k : BitVec 3),
  Runs (.fbarSync d n k) { s := [d.toNat] } fun s c f t =>
    let slot := slotOf c.fibre
    (fbarOf s f slot n.toNat = none → Faults c f t 0x01 c.lanes 0 0 ∧ Only s t c.fibre {}) ∧
    ∀ p, fbarOf s f slot n.toNat = some p → p < 4 →
      let b := vget (s.slot slot).fbars p FBar.init
      let want := k.toNat + 1
      let becomes := fun (nb : FBar) => ∀ i, (t.slot i).fbars = if i = slot then vset (s.slot i).fbars p nb else (s.slot i).fbars
      let ends := fun (code : Nat) => PassesIn s c f t ∧ HoldsS c t d.toNat (BitVec.ofNat 64 code) ∧
        becomes { b with cnt := 0, k := 0, arrived := [] } ∧ Frees s c t (slotFibres s slot) (onFbar p) code ∧
        Only s t c.fibre { s := [d.toNat], fbars := true, freed := slotFibres s slot, mem := code == 0 }
      if b.arrived.contains c.fibre then HeldSync c f t (.fbar p) d.toNat ∧ Only s t c.fibre {}
      else if b.cnt ≠ 0 ∧ b.k ≠ want then ends 0x12
      else if b.cnt + 1 ≠ want then HeldSync c f t (.fbar p) d.toNat ∧
        becomes { b with cnt := b.cnt + 1, k := want, arrived := c.fibre :: b.arrived } ∧ Only s t c.fibre { fbars := true }
      else if opsPending s c.fibre .mem then Waits c f t (.ops .mem) ∧ Only s t c.fibre {}
      else ends 0

/-- R176, R177, R178: the words of stage rings: initialisation frees every waiting lane with status 0x12; an arrival counts once per group and phase and
the last one flips the phase bit of its side; a wait holds the bundle while the phase bit is the one it names. A ring above RINGS is illegal, a
stage outside the ring raises 0x05. -/
def Obligations.StageRings : Prop := ∀ (d a r : BitVec 6) (q : Bool),
  let word := fun (w : Instr) (regs : List Nat) (post : State → Issue → Fibre → State → Team → Nat → Prop) =>
    ∀ s c f tm, Ready s c f { s := regs } → s.team f.team = some tm → ∃ t, exec w s = .next t ∧
      (tm.rings[r.toNat]? = none → Faults c f t 0x01 c.lanes 0 0 ∧ Only s t c.fibre {}) ∧
      ∀ p, tm.rings[r.toNat]? = some p → p < 16 → post s c f t tm p
  let becomes := fun (s : State) (c : Issue) (t : State) (p : Nat) (x : Ring) => ∀ k, (t.core k).pads =
    if k = coreOf c.fibre then { (s.core k).pads with rings := vset (s.core k).pads.rings p x } else (s.core k).pads
  let ringAt := fun (s : State) (c : Issue) (p : Nat) => s.ring (coreOf c.fibre) p
  let inside := fun (s : State) (c : Issue) (f : Fibre) (t : State) (p : Nat) (post : Nat → Prop) =>
    let st := (f.readS a.toNat).toNat
    if (ringAt s c p).stages ≤ st then Faults c f t 0x05 c.lanes st 0 ∧ Only s t c.fibre {} else post st
  let arrive := fun (w : Instr) (full : Bool) => word w [a.toNat] fun s c f t tm p => inside s c f t p fun st =>
    let g := ringAt s c p
    let x := g.side full st
    if x.groups.contains f.group then Passes s c f t ∧ Only s t c.fibre {}
    else if x.cnt + 1 ≠ (if full then g.fe else g.ee) then
      Passes s c f t ∧ becomes s c t p (g.setSide full st { x with cnt := x.cnt + 1, groups := f.group :: x.groups }) ∧
        Only s t c.fibre { pads := true }
    else if opsPending s c.fibre .mem then Waits c f t (.ops .mem) ∧ Only s t c.fibre {}
    else PassesIn s c f t ∧ becomes s c t p (g.setSide full st ⟨0, !x.phase, []⟩) ∧ Frees s c t tm.live (onRing p st full) 0 ∧
      Only s t c.fibre { pads := true, freed := tm.live, mem := true }
  let wait := fun (w : Instr) (full : Bool) => word w [d.toNat, a.toNat] fun s c f t _ p => inside s c f t p fun st =>
    if ((ringAt s c p).side full st).phase = q then HeldSync c f t (.ring p st full q) d.toNat ∧ Only s t c.fibre {}
    else Passes s c f t ∧ HoldsS c t d.toNat 0 ∧ Only s t c.fibre { s := [d.toNat], mem := true }
  word (.ringInit a r) [a.toNat] (fun s c f t tm p =>
    let v := f.readS a.toNat
    let stages := fieldOf v 3 0
    let fe := fieldOf v 13 8
    let ee := fieldOf v 21 16
    if stages < 2 ∨ 8 < stages ∨ fe = 0 ∨ ee = 0 then Faults c f t 0x05 c.lanes 0 0 ∧ Only s t c.fibre {}
    else
      let empty := Vector.replicate 8 (RingSide.mk 0 false [])
      PassesIn s c f t ∧ becomes s c t p ⟨(ringAt s c p).team, stages, fe, ee, true, empty, empty⟩ ∧ Frees s c t tm.live (onAnyRing p) 0x12 ∧
        t.ops = (reinitOps s f.team r.toNat).ops ∧ Only s t c.fibre { ops := true, pads := true, freed := tm.live }) ∧
  arrive (.ringArriveFull a r) true ∧ arrive (.ringArriveEmpty a r) false ∧
  wait (.ringWaitFull d a r q) true ∧ wait (.ringWaitEmpty d a r q) false

/-! ### Engine words (R184-R204) -/

/-- R184, R185, R188, R189, R191: the copy words: alignments, zero bits, V and SYNC are checked in this order; then the layout record is read through
b0, from the core's record cache or after a fill the word waits for; then the operation goes in flight, in error at once for an invalid record or a
tile outside the team's bytes; a copy clears the presence bits of the lines it will write. -/
def Obligations.CopyWords : Prop := ∀ (a : BitVec 6) (b : BitVec 4) (sc : Scope),
  let word := fun (w : Instr) (form : EngForm) =>
    Runs w { s := [a.toNat, a.toNat + 1, a.toNat + 2, a.toNat + 3], role := some .copy } fun s c f t =>
      let d := fun (i : Nat) => f.readS (a.toNat + i)
      let saddr := fieldOf (d 1) 31 0
      let stofs := fieldOf (d 3) 62 0
      let reg := vget f.b b.toNat 0
      let stops := fun (cause addr : Nat) => Faults c f t cause c.lanes addr 0 0 b.toNat (bregIdx reg) ∧ Only s t c.fibre {}
      if saddr % 16 ≠ 0 then stops 0x04 saddr
      else if (d 3).getLsbD 63 = false ∧ stofs % 8 ≠ 0 then stops 0x04 stofs
      else if form = .copyAcc ∧ (d 0).toNat % 128 ≠ 0 then stops 0x04 (d 0).toNat
      else if fieldOf (d 1) 63 48 ≠ 0 then stops 0x01 0
      else if bregV reg = false then stops 0x06 0
      else match syncBad s f (coreOf c.fibre) (fieldOf (d 1) 47 32) with
        | some cause => stops cause 0
        | none => ∀ pa, Reaches s c f 0 [lowLane c.lanes] (fun _ => d 2) 64 64 .read pa →
          let ga := gaddr s (bufOf s c f 0).home (pa (lowLane c.lanes))
          match (s.core (coreOf c.fibre)).lrec.find? fun e => e.1 == ga with
          | none => Waits c f t .lrec ∧ Only s t c.fibre {} ∧
            ∃ x, t.fib c.fibre = some x ∧ x.lrecReq = some (ga, (bufOf s c f 0).base + (d 2).toNat)
          | some r =>
            let early := match parseRec r.2 with
              | none => 0x81
              | some l => if ((s.team f.team).map (·.slines)).getD 0 * 128 < saddr + l.tile then 0x05 else 0
            let e := { EngOp.init form sc b.toNat reg [d 0, d 1, d 2, d 3] (fieldOf (d 1) 47 32)
              (if (d 3).getLsbD 63 then none else some stofs) false with record := r.2, early := early }
            (form ≠ .copy ∨ early ≠ 0 → Begins s c f t e []) ∧
            ∀ l, parseRec r.2 = some l → early = 0 → form = .copy → Begins s c f t e
              (rowLines (((s.team f.team).map (·.sbase)).getD 0 * 128 + saddr) (l.ext.1 * l.z) l.pitch l.rows)
  word (.copy a b sc) .copy ∧ word (.copySt a b sc) .copySt ∧ word (.copyAcc a b sc) .copyAcc

/-- R201, R202: the weight-buffer and accumulator transfers: a bad descriptor raises 0x14; otherwise the operation goes in flight, accld and accst with
their layout record, and accst clears the presence bits of its tile. -/
def Obligations.MatrixTransfers : Prop := ∀ (a : BitVec 6) (b : BitVec 4),
  let word := fun (w : Instr) (post : State → Issue → Fibre → State → (Nat → DWord) → (EngForm → Nat → BitVec 24 → Scope → EngOp) → Prop) =>
    Runs w { s := [a.toNat, a.toNat + 1, a.toNat + 2], role := some .matrix } fun s c f t =>
      let d := fun (i : Nat) => f.readS (a.toNat + i)
      post s c f t d fun form bn reg sc => EngOp.init form sc bn reg [d 0, d 1, d 2] (fieldOf (d 2) 15 0)
        (if fieldOf (d 2) 63 32 = 2 ^ 32 - 1 then none else some (fieldOf (d 2) 63 32)) true
  let bad := fun (s : State) (c : Issue) (f : Fibre) (t : State) => Faults c f t 0x14 c.lanes 0 0 ∧ Only s t c.fibre {}
  let weights := fun (w : Instr) (mask : Bool) => word w fun s c f t d e =>
    let len := fieldOf (d 1) 50 32
    let wofs := fieldOf (d 1) 17 0
    if fieldOf (d 1) 63 51 ≠ 0 ∨ fieldOf (d 1) 31 18 ≠ 0 ∨ (d 0).toNat % 64 ≠ 0 ∨ len % 64 ≠ 0 ∨ len < 64 ∨ 2 ^ 18 < len ∨ wofs % 64 ≠ 0 ∨
        2 ^ 18 < wofs + len ∨ d2Bad s f (coreOf c.fibre) (d 2) = true then bad s c f t
    else Begins s c f t (e (.wbload mask) b.toNat (vget f.b b.toNat 0) .device) []
  let tile := fun (w : Instr) (form : EngForm) => word w fun s c f t d e =>
    if accBad s f (coreOf c.fibre) false [d 0, d 1, d 2] = true then bad s c f t
    else ∀ pa, Reaches s c f 0 [lowLane c.lanes] (fun _ => d 1) 64 64 .read pa →
      let ga := gaddr s (bufOf s c f 0).home (pa (lowLane c.lanes))
      match (s.core (coreOf c.fibre)).lrec.find? fun x => x.1 == ga with
      | none => Waits c f t .lrec ∧ Only s t c.fibre {}
      | some r =>
        let saddr := fieldOf (d 0) 31 0
        let rows := fieldOf (d 0) 55 48
        let cols := fieldOf (d 0) 62 56
        let early := match parseRec r.2 with
          | none => 0x81
          | some l => if ((s.team f.team).map (·.slines)).getD 0 * 128 < saddr + ((rows - 1) * l.pitch + cols * l.z) then 0x05 else 0
        let x := { e form 0 0 .team with record := r.2, early := early }
        let stores := form = .accst false ∨ form = .accst true
        (¬ stores ∨ early ≠ 0 → Begins s c f t x []) ∧
        ∀ l, parseRec r.2 = some l → early = 0 → stores → Begins s c f t x
          (rowLines (((s.team f.team).map (·.sbase)).getD 0 * 128 + saddr) (cols * l.z) l.pitch rows)
  weights (.wbload a b) false ∧ weights (.wbloadMask a b) true ∧
  tile (.accld a) (.accld false) ∧ tile (.accldF64 a) (.accld true) ∧ tile (.accst a) (.accst false) ∧ tile (.accstF64 a) (.accst true) ∧
  word (.acczero a) (fun s c f t d e =>
    if accBad s f (coreOf c.fibre) true [d 0, d 1, d 2] = true then bad s c f t
    else Begins s c f t (e .acczero 0 0 .team) [])

/-- R195, R196, R197: cvinit sets the lanes a convergence register expects and discards pending signatures, their flags in error; an mma signs: its
lanes are counted, its operation pends, the operand registers it names are taken as they are and its accumulator registers become undefined (R199);
the signature that completes the count dispatches the operation, with the scratchpad writes that no signer's opfence covers (R200), and clears the register. A bad
descriptor, one that differs, a second signature or too many lanes raise 0x14. -/
def Obligations.ConvergenceWords : Prop := ∀ (a : BitVec 6) (n : BitVec 4),
  let becomes := fun (s : State) (f : Fibre) (t : State) (x : Conv) =>
    ∀ k, t.team k = (s.team k).map fun y => if k = f.team then { y with cvs := vset y.cvs n.toNat x } else y
  Runs (.cvinit a n) { s := [a.toNat], role := some .matrix } (fun s c f t =>
    let e := fieldOf (f.readS a.toNat) 10 0
    let old := cvOf s f.team n.toNat
    if e = 0 ∨ 1024 < e then Faults c f t 0x05 c.lanes 0 0 ∧ Only s t c.fibre {}
    else Passes s c f t ∧ becomes s f t { Conv.init with e := e } ∧
      t.ops = s.ops.filter (fun o => !(old.signers.any fun g => g.op == o.id)) ∧
      (old.signers = [] → Only s t c.fibre { teams := true }) ∧
      ∀ g ∈ old.signers, ∀ o, s.op g.op = some o → ∀ k < 12, o.flag = some k → ∀ y, s.fib o.fibre = some y →
        ∃ x, t.fib o.fibre = some x ∧ x.cfErr.getLsbD k = true) ∧
  ∀ s c f tm, Ready s c f { s := [a.toNat, a.toNat + 1, a.toNat + 2], role := some .matrix } → s.team f.team = some tm →
    ∃ t, exec (.mma a n) s = .next t ∧
      let d := [f.readS a.toNat, f.readS (a.toNat + 1), f.readS (a.toNat + 2)]
      let x := vget tm.cvs n.toNat Conv.init
      let lanes := ((List.finRange 32).filter fun l => inMask c.lanes l).length
      let sh := mmaShape (nth d 1 0)
      let mine := BitVec.ofNat 1024 (c.lanes.toNat * 2 ^ (32 * (f.group % 32)))
      if mmaBad s f (coreOf c.fibre) d = true ∨ (0 < x.cnt ∧ x.desc ≠ d) ∨ x.bitmap &&& mine ≠ 0 ∨ x.e < x.cnt + lanes ∨
          ((sh.acc = true ∨ sh.asrc = true) ∧ ∃ g ∈ x.signers, g.fibre ≠ c.fibre) then
        Faults c f t 0x14 c.lanes 0 0 ∧ Only s t c.fibre {}
      else
        let accs := if sh.acc then regRange sh.row0 4 else []
        let named := (if sh.asrc then regRange (fieldOf (nth d 0 0) 31 0) 2 else []) ++ accs
        let signers := x.signers ++ [⟨c.fibre, f.group, c.lanes, s.nextOp, named.map fun r => (r, (readReg s c.fibre r).vals),
          accs.map fun r => (r, (readReg t c.fibre r).vals)⟩]
        if x.cnt + lanes ≠ x.e then
          InFlight s c f t c.setA (.sign n.toNat 0) { v := accs, ops := true, flags := true, teams := true } ∧
            becomes s f t { x with desc := d, cnt := x.cnt + lanes, bitmap := x.bitmap ||| mine, signers := signers }
        else
          Passes s c f t ∧ becomes s f t { x with desc := [], cnt := 0, bitmap := 0, signers := [] } ∧
            t.ops.map (·.id) = s.ops.map (·.id) ++ [s.nextOp, s.nextOp + 1] ∧
            (∀ o ∈ t.ops, o.id = s.nextOp + 1 → (∀ q ∈ s.ops, q.id ≠ s.nextOp + 1) → (∀ g ∈ x.signers, g.op ≠ s.nextOp + 1) →
              o.flag = none ∧ o.fibre = c.fibre ∧ ∃ e, o.kind = .engine e ∧
              e.bare = { EngOp.init .mma .team 0 0 d (fieldOf (nth d 2 0) 15 0) (staOf (nth d 2 0)) true with signers := signers } ∧
              ∀ w ∈ tm.unfenced, (∀ g ∈ signers, g.fibre ∉ w.fenced) → (w.lo, w.n) ∈ e.loose) ∧
            Only s t c.fibre { v := accs, ops := true, flags := true, teams := true }

/-- R184, R203: the bank transforms: the status offset, the descriptor's zero bits and fields and V are checked in this order, then the record is read
through b0 and the operation goes in flight. -/
def Obligations.TransformWords : Prop := ∀ (a : BitVec 6) (b : BitVec 4),
  let word := fun (w : Instr) (k : XForm) =>
    Runs w { s := [a.toNat, a.toNat + 1, a.toNat + 2, a.toNat + 3, a.toNat + 4] } fun s c f t =>
      let d := fun (i : Nat) => f.readS (a.toNat + i)
      let stofs := fieldOf (d 4) 62 0
      let count := fieldOf (d 2) 31 0
      let reg := vget f.b b.toNat 0
      let stops := fun (cause addr : Nat) => Faults c f t cause c.lanes addr 0 0 b.toNat (bregIdx reg) ∧ Only s t c.fibre {}
      if (d 4).getLsbD 63 = false ∧ stofs % 8 ≠ 0 then stops 0x04 stofs
      else if fieldOf (d 2) 63 48 ≠ 0 ∨ fieldOf (d 2) 39 36 ≠ 0 ∨ count = 0 ∨ 2 ^ 24 < count ∨ (k = .cvt ∧ 12 < fieldOf (d 2) 35 32) then
        stops 0x01 0
      else if bregV reg = false then stops 0x06 0
      else ∀ pa, Reaches s c f 0 [lowLane c.lanes] (fun _ => d 3) 64 64 .read pa →
        let ga := gaddr s (bufOf s c f 0).home (pa (lowLane c.lanes))
        match (s.core (coreOf c.fibre)).lrec.find? fun e => e.1 == ga with
        | none => Waits c f t .lrec ∧ Only s t c.fibre {}
        | some r => Begins s c f t
          { EngOp.init (.xform k) .device b.toNat reg [d 0, d 1, d 2, d 3, d 4] 0 (if (d 4).getLsbD 63 then none else some stofs) false with
            record := r.2
            early := match parseRec r.2 with
              | none => 0x81
              | some l => if k = .fill ∧ l.fmt = 12 then 0x81 else 0 } []
  word (.xformCvt a b) .cvt ∧ word (.xformRound a b) .round ∧ word (.xformScale a b) .scale ∧ word (.xformFill a b) .fill ∧
    word (.xformZero a b) .zero

/-! ### Messages, launches, special registers, traces and counters (R179, R205-R212, R236) -/

/-- R205, R357: msg.send goes in flight with the payload of eight uniform registers, its destination and the sending partition's count for it, which
then advances; nonzero reserved bits of the destination raise 0x01. R206, R207: msg.recv raises 0x06 for a mailbox that is not the fibre's, waits while it
is empty, and else pops its oldest message: the payload enters eight uniform registers, the sender and its sequence the ninth. -/
def Obligations.MessageWords : Prop :=
  (∀ a b : BitVec 6,
  Runs (.msgSend a b) { s := b.toNat :: (List.range 8).map (a.toNat + ·) } fun s c f t =>
    let v := f.readS b.toNat
    if fieldOf v 63 30 ≠ 0 ∨ fieldOf v 15 9 ≠ 0 then Faults c f t 0x01 c.lanes 0 0 ∧ Only s t c.fibre {}
    else
      let dev := fieldOf v 8 0
      let mbox := fieldOf v 29 16
      let key := (s.partOf c.fibre * 512 + dev) * 16384 + mbox
      let seq := s.fabric.sends.getD key 0
      let payload := ((List.range 8).map fun i => (f.readS (a.toNat + i)).toNat * 2 ^ (64 * i)).sum
      InFlight s c f t c.setA (.send dev mbox (BitVec.ofNat 512 payload) seq) ∧ t.fabric.sends.getD key 0 = (seq + 1) % 2 ^ 32) ∧
  (∀ d a b : BitVec 6,
  let regs := (List.range 8).map (d.toNat + ·)
  Runs (.msgRecv d a b) { s := b.toNat :: a.toNat :: regs } fun s c f t =>
    let n := fieldOf (f.readS a.toNat) 13 0
    let m := s.mbox n
    let e := bufEntry s (coreOf c.fibre) (s.viOf c.fibre) (m.buf % 2 ^ 20)
    let off := m.ofs.toNat + 64 * (m.head % m.size)
    let failed := Passes s c f t ∧ (t.ops = s.ops.filter fun o => o.id != s.nextOp) ∧ Only s t c.fibre { ops := true, flags := true } ∧
      ∀ k < 12, c.setA = some k → ∃ y, t.fib c.fibre = some y ∧ y.cfErr.getLsbD k = true
    if f.recvErr = true then failed
      else if m.valid = false ∨ m.part ≠ s.partOf c.fibre ∨ m.ctx ≠ s.viOf c.fibre then
        Faults c f t 0x06 c.lanes 0 0 4 0 m.buf ∧ Only s t c.fibre {}
      else if opsPending s c.fibre .acquires = true then Waits c f t (.ops .acquires) ∧ Only s t c.fibre {}
      else if m.used = 0 then Waits c f t (.msg n) ∧ Only s t c.fibre {}
      else ∀ pa, s.replaying (s.partOf c.fibre) = false → d.toNat + 7 < 64 → off % 64 = 0 → off + 64 ≤ e.len → e.grants .read = true →
        e.owner = s.viOf c.fibre → transWord s c.fibre (s.viOf c.fibre) (e.base + off) e.icl false false = .ok pa →
        let i := m.info.headD (0, 0, 0)
        Passes s c f t ∧ Done s c t c.setA { s := b.toNat :: regs, mem := true } ∧
          (∀ j < 8, d.toNat + j ≠ b.toNat → (∀ k, mdState (s.md k) < 3) →
            HoldsS c t (d.toNat + j) (BitVec.ofNat 64 (s.mem.readN (gaddr s e.home pa) 64 / 2 ^ (64 * j)))) ∧
          HoldsS c t b.toNat (BitVec.ofNat 64 (i.1 % 512 + i.2.1 % 8 * 2 ^ 9 + i.2.2 % 2 ^ 32 * 2 ^ 32)) ∧
          (t.mbox n).head = (m.head + 1) % 2 ^ 32 ∧ (t.mbox n).tail = m.tail)

/-- R208, R236: glaunch waits for the fibre's earlier accesses and for a place in the queue; a queue that is not granted or not mapped ends it in
error; else the reserved index and the packet stand in the queue's memory, the doorbell has been taken by the queue's rule, and the word is
complete. -/
def Obligations.DeviceLaunch : Prop := ∀ a q : BitVec 6,
  let failed := fun (s : State) (c : Issue) (f : Fibre) (t : State) (w : Writes) =>
    Passes s c f t ∧ (t.ops = s.ops.filter fun o => o.id != s.nextOp) ∧ Only s t c.fibre { w with ops := true, flags := true } ∧
      ∀ k < 12, c.setA = some k → ∃ y, t.fib c.fibre = some y ∧ y.cfErr.getLsbD k = true
  Runs (.glaunch a q) { s := q.toNat :: (List.range 8).map (a.toNat + ·) } fun s c f t =>
    let n := fieldOf (f.readS q.toNat) 13 0
    let x := s.queue n
    let v := fieldOf x.cfg 21 16
    let s1 := releaseAt (virtReads s v x.tailp.toNat 8) (coreOf c.fibre) .device
    if opsPending s c.fibre .mem = true then Waits c f t (.ops .mem) ∧ Only s t c.fibre {}
    else if launchable s (s.partOf c.fibre) n = false then failed s c f t {}
    else if queuePlace s1 n x.tailp.toNat = none then failed s c f t { mem := true }
    else ∀ tp, queuePlace s1 n x.tailp.toNat = some tp →
      let s0 := walkReads v (x.base.toNat + 64 * (s1.mem.readN tp 8 % 2 ^ fieldOf x.cfg 3 0)) s1
      let i := s0.mem.readN tp 8
      let slot := queuePlace s0 n (x.base.toNat + 64 * (i % 2 ^ fieldOf x.cfg 3 0))
      if 2 ^ fieldOf x.cfg 3 0 ≤ (BitVec.ofNat 16 i - x.head).toNat then Waits c f t (.queue n) ∧ Only s t c.fibre { mem := true }
      else if slot = none then failed s c f t { mem := true }
      else ∀ sp, slot = some sp → s.replaying (s.partOf c.fibre) = false →
        let v : BitVec 16 := BitVec.ofNat 16 (i + 1)
        let taken := (v - x.head).toNat ≤ 2 ^ 15 ∧ (x.tail - x.head).toNat < (v - x.head).toNat
        Passes s c f t ∧ Done s c t c.setA { mem := true, queues := true } ∧
          (∀ k, t.queue k = if k = n ∧ taken then { s.queue k with tail := v } else s.queue k) ∧
          (Plain s (lineOf tp) → Plain s (lineOf sp) → lineOf tp ≠ lineOf sp → tp % 8 = 0 → sp % 64 = 0 →
            t.mem.readN tp 8 = (i + 1) % 2 ^ 64 ∧ ∀ j < 8, t.mem.readN (sp + 8 * j) 8 = (f.readS (a.toNat + j)).toNat)

/-- R36, R66, R209: sreg.rd gives the special registers: LANE to each lane its number, the others one value; GTS and CYCLE fill a pair; FPSTAT waits
for the operations that raise flags, and sreg.wr replaces it or raises 0x01 for a reserved rounding mode or bit. -/
def Obligations.SpecialRegisters : Prop := ∀ (d : BitVec 7) (u a i : BitVec 6),
  let val := fun (s : State) (c : Issue) (f : Fibre) (tm : Team) (g : Grid) =>
    let k := nth g.kdesc 1 0
    let dims := nth g.packet 1 0
    let gx := fieldOf dims 31 0
    let gy := fieldOf dims 47 32
    let n : Nat := match i.toNat with
      | 0x01 => c.fibre
      | 0x02 => f.group
      | 0x03 => tm.index
      | 0x04 => tm.index / max 1 (fieldOf k 10 8 * fieldOf k 7 6)
      | 0x05 => c.fibre / 32
      | 0x06 => tm.index % max 1 gx
      | 0x07 => tm.index / max 1 gx % max 1 gy
      | 0x08 => tm.index / max 1 gx / max 1 gy
      | 0x09 => gx
      | 0x0A => gy
      | 0x0B => fieldOf dims 63 48
      | 0x0C => s.mgmt.gts.toNat
      | 0x0D => (s.part (s.partOf c.fibre)).cycle.toNat
      | 0x0E => f.fpstat.toNat
      | 0x0F => f.ric.toNat
      | 0x10 => (s.part (s.partOf c.fibre)).mode
      | _ => match f.role with
        | .vector => 0
        | .copy => 1
        | .matrix => 2
    (BitVec.ofNat 64 n : DWord)
  let wide := decide (i = 0x0C ∨ i = 0x0D)
  let logged := fun (s : State) (c : Issue) => wide = true ∧ s.replaying (s.partOf c.fibre) = true
  let late := fun (s : State) (c : Issue) => i = 0x0E ∧ opsPending s c.fibre .flagging = true
  (∀ s c f tm g, Ready s c f { d := if wide then [d.toNat, d.toNat + 1] else [d.toNat] } → s.team f.team = some tm →
    s.grid tm.grid = some g → i.toNat ≤ 0x11 → ∃ t, exec (.sregRdVector d i) s = .next t ∧
      if late s c then Waits c f t (.ops .flagging) ∧ Only s t c.fibre {}
      else Only s t c.fibre { v := if wide then [d.toNat, d.toNat + 1] else [d.toNat] } ∧ (¬ logged s c → Passes s c f t ∧
        if i = 0 then Holds1 s c f t d.toNat fun l => BitVec.ofNat 32 l.val
        else if wide then Holds2 s c f t d.toNat fun _ => val s c f tm g
        else Holds1 s c f t d.toNat fun _ => (val s c f tm g).setWidth 32)) ∧
  (∀ s c f tm g, Ready s c f { s := [u.toNat] } → s.team f.team = some tm → s.grid tm.grid = some g → i.toNat ≤ 0x11 →
    ∃ t, exec (.sregRdUniform u i) s = .next t ∧
      if late s c then Waits c f t (.ops .flagging) ∧ Only s t c.fibre {}
      else Only s t c.fibre { s := [u.toNat] } ∧ (¬ logged s c → Passes s c f t ∧
        HoldsS c t u.toNat (if i = 0 then BitVec.ofNat 64 (lowLane c.lanes).val else val s c f tm g))) ∧
  Runs (.sregWr a i) { s := [a.toNat] } (fun s c f t =>
    let v := fieldOf (f.readS a.toNat) 31 0
    if v / 2 ^ 12 ≠ 0 ∨ 5 ≤ v % 8 then Faults c f t 0x01 c.lanes 0 0 ∧ Only s t c.fibre {}
    else if late s c then Waits c f t (.ops .flagging) ∧ Only s t c.fibre {}
    else Passes s c f t ∧ Only s t c.fibre { fpstat := true } ∧ ∃ x, t.fib c.fibre = some x ∧ x.fpstat = BitVec.ofNat 32 v)

/-- R179, R210, R211, R212, R374, R375: cftest gives the pending and error bits of a flag; ctr.rd a counter; ctr.ctl hands a control value to the next
clock, or raises 0x01 or 0x06; temit appends a record to the core's FIFO or waits while it holds 64; rtag waits for its 32 registers and gives their
tags. -/
def Obligations.TracesCountersTags : Prop := ∀ (d a : BitVec 6) (ch : BitVec 3) (n : BitVec 6) (g : BitVec 2),
  let others := fun (s t : State) (k : Nat) => ∀ i, i ≠ k → (t.core i).fifo = (s.core i).fifo ∧ (t.core i).pmNext = (s.core i).pmNext
  Runs (.cftest d n) { s := [d.toNat] } (fun s c f t => Only s t c.fibre { s := [d.toNat] } ∧
    (s.replaying (s.partOf c.fibre) = false → Passes s c f t ∧ HoldsS c t d.toNat (BitVec.ofNat 64
      ((s.cfPending c.fibre n.toNat).toNat + 2 * (f.cfErr.getLsbD n.toNat).toNat)))) ∧
  Runs (.ctrRd d n) { s := [d.toNat] } (fun s c f t => Only s t c.fibre { s := [d.toNat] } ∧
    (s.replaying (s.partOf c.fibre) = false → Passes s c f t ∧ HoldsS c t d.toNat
      (if n.toNat < 4 then vget (s.core (coreOf c.fibre)).pmcnt n.toNat 0 else vget (s.core (coreOf c.fibre)).leaves (n.toNat - 4) 0))) ∧
  Runs (.ctrCtl a n) { s := [a.toNat] } (fun s c f t =>
    let v := f.readS a.toNat
    let k := coreOf c.fibre
    if fieldOf v 63 24 ≠ 0 ∨ fieldOf v 15 8 ≠ 0 ∨ fieldOf v 3 2 ≠ 0 ∨ 0x17 < fieldOf v 23 16 then
      Faults c f t 0x01 c.lanes 0 0 ∧ Only s t c.fibre {}
    else if (s.ctx (s.viOf c.fibre)).granted = false then Faults c f t 0x06 c.lanes 0 0 ∧ Only s t c.fibre {}
    else Passes s c f t ∧ Only s t c.fibre {} ∧ (t.core k).pmNext = (s.core k).pmNext ++ [(slotOf c.fibre, n.toNat, v)] ∧ others s t k) ∧
  Runs (.temit a ch) { s := [a.toNat] } (fun s c f t =>
    let k := coreOf c.fibre
    if 64 ≤ (s.core k).fifo.length then Waits c f t .traceFull ∧ Only s t c.fibre {}
    else Passes s c f t ∧ Only s t c.fibre {} ∧ others s t k ∧ ∃ r, (t.core k).fifo = (s.core k).fifo ++ [r] ∧
      r.payload = f.readS a.toNat ∧ r.ch = ch.toNat ∧ r.fibre = c.fibre ∧ r.ric = f.ric ∧ r.gts = s.mgmt.gts) ∧
  Runs (.rtag d g) { s := [d.toNat] } (fun s c f t =>
    let mine := (regRange (32 * g.toNat) 32).filter f.hasReg
    if ∃ r ∈ mine, s.vPending c.fibre r = true then Waits c f t (.regs mine [] []) ∧ Only s t c.fibre {}
    else Passes s c f t ∧ Only s t c.fibre { s := [d.toNat] } ∧ HoldsS c t d.toNat (BitVec.ofNat 64 (((List.range 32).map fun i =>
      4 ^ i * if f.hasReg (32 * g.toNat + i) then (match (readReg s c.fibre (32 * g.toNat + i)).tag with
        | .g => 0
        | .u => 1
        | .a => 2) else 3).sum)))

/-! ### Prefixes (R84, R85, R88, R89) -/

/-- R84, R85, R88, R89: an X prefix hands its guard, rounding mode, fourth operand and lane modifier to the next counted word; a W prefix waits for
the flags it names and then lets the next word issue. Neither counts. A prefix without a counted word after it, an X prefix on a word that does not
take what it gives, and a W prefix before a prefix raise 0x01; SKIP then passes both. -/
def Obligations.Prefixes : Prop := ∀ (gp : BitVec 3) (z gn : Bool) (rm : RMode) (vc : BitVec 7) (lk : LKind) (k : BitVec 5) (ls sw : Bool)
    (p : BitVec 12),
  let word := fun (i : Instr) (allowed : Word → Bool) (post : State → Issue → Fibre → State → Prop) =>
    ∀ s c f, s.issue = some c → s.fib c.fibre = some f → ∃ t, exec i s = .next t ∧
      let next := if fieldOf c.hdr 23 20 ≤ c.word then none else f.run.bind fun r => r.words[c.word + 1]?
      if (next.map allowed).getD false then post s c f t
      else Faults c f t 0x01 c.lanes 0 0 0 0 0 (afterWord c.hdr (c.word + 1)) ∧ Only s t c.fibre {}
  let x : XPre := ⟨gp, z, gn, rm, vc, lk, k, ls⟩
  word (.xPrefix gp z gn rm vc lk k ls) (fun w => match decodeWord w with
      | .ok i => x.ok (xuse i)
      | .error _ => !(w.getLsbD 31 || decide (0x3E ≤ fieldOf w 30 25)) && x.ok { guard := true })
    (fun s c _ t => t = { s with issue := some { c with word := c.word + 1, px := some x } }) ∧
  word (.wPrefix sw p) (fun w => !(w.getLsbD 31 == false && fieldOf w 30 25 == 0x3F)) (fun s c f t =>
    if s.cfWaits c.fibre p then Waits c f t (.flags p) ∧ Only s t c.fibre {}
    else t = { s with issue := some { c with word := c.word + 1, sw := c.sw || sw } })

/-! ### What fibres go through (R18, R34, R39, R42, R70, R184, R248, R277, R288, R302) -/

/-- R18, R34, R39, R42, R70, R184, R248, R277, R288, R302: what befalls a fibre between its words. Its next bundle is empty only when no lane is live
and free; else it holds every such lane at the place of the one that has waited longest, the lowest of them where several have waited as long.
The fetch of its clause starts its execution or faults; a fetch that misses waits for a walk, whose result the next translation uses; a layout record enters the cache; the count wraps; the watchdog and an
interrupt freeze the fibre; a fibre long Waiting is drowsy; a full chunk ends with its record. -/
def Obligations.FibreEvents : Prop := ∀ s fid f, s.fib fid = some f →
  (f.step = none → f.stepRest = 0 → s.replaying (s.partOf fid) = false →
    let may := fun (l : Fin 32) => (f.lane l).live = true ∧ ((f.lane l).hold = .none ∨ (f.lane l).hold = .crossGo)
    let lanes := formBundle s fid f
    (lanes = 0 ↔ ∀ l, ¬ may l) ∧
    (lanes ≠ 0 → ∃ b, may b ∧ (∀ l, may l → (f.lane b).stamp < (f.lane l).stamp ∨ ((f.lane b).stamp = (f.lane l).stamp ∧ b ≤ l)) ∧
      ∀ l, inMask lanes l = true ↔ may l ∧ (f.lane l).pc = (f.lane b).pc ∧ (f.lane l).word = (f.lane b).word ∧
        ((f.lane l).hold = .crossGo ↔ (f.lane b).hold = .crossGo))) ∧
  (f.run = none → f.freed = 0 → formBundle s fid f ≠ 0 → Gives (.clauseFetch fid) s fun t =>
    let lanes := formBundle s fid f
    let pc := (f.lane (lowLane lanes)).pc
    let word := (f.lane (lowLane lanes)).word
    let c : Issue := ⟨fid, lanes, pc, word, 0, none, false, 0, false⟩
    if 2 ^ 57 < pc.toNat + 64 then Faults c f t 0x05 lanes pc.toNat 0 0 0 1 word ∧ Only s t fid {}
    else match transWord s fid (s.viOf fid) pc.toNat 512 false true with
      | .miss => Only s t fid {} ∧ ∃ x, t.fib fid = some x ∧ x.wait = some .walk ∧ x.walkReq = [(pc.toNat, false, true, 512)] ∧
          x.lanes = f.lanes ∧ x.ric = f.ric
      | .bad cause sub _ => cause < 256 → sub < 16 → s.replaying (s.partOf fid) = false →
          Faults c f t cause lanes pc.toNat 0 sub 0 1 word ∧ Only s t fid {}
      | .ok pa => mdState (s.md (lineOf pa)) < 3 →
          let ws := (List.range 16).map fun i => BitVec.ofNat 32 (s.mem.readN (pa + 4 * i) 4)
          let h := ws.headD 0
          let n := fieldOf h 23 20
          let flagBad := fun (k : Nat) => k = 12 ∨ k = 13 ∨ k = 14
          let transfer := fun (w : Word) => decide ((w.getLsbD 31 = true ∧ 0x14 ≤ fieldOf w 30 25 ∧ fieldOf w 30 25 ≤ 0x17) ∨
            (w.getLsbD 31 = false ∧ fieldOf w 30 25 = 0x3E ∧ fieldOf w 24 21 ≤ 5))
          Only s t fid { mem := true } ∧ (∀ a, t.mem.read a = s.mem.read a) ∧
          if n = 0 ∨ fieldOf h 31 26 ≠ 0 ∨ flagBad (fieldOf h 15 12) ∨ flagBad (fieldOf h 19 16) ∨
              ((ws.take n).drop 1).any transfer = true then
            Faults c f t 0x02 lanes 0 0 0 0 0 (if n = 0 then 16 else word)
          else ∃ x, t.fib fid = some x ∧ x.run = some ⟨pc, ws, lanes, word, decide (word ≠ 1)⟩ ∧ x.wait = none ∧ x.lanes = f.lanes ∧ x.ric = f.ric) ∧
  (∀ va w e il, f.walkReq = [(va, w, e, il)] → s.replaying (s.partOf fid) = false → tlbFind s (coreOf fid) (s.viOf fid) va = none →
    (∀ n, mdState (s.md n) < 3) → Gives (.pageWalkComplete fid) s fun t => Only s t fid { mem := true } ∧ (∀ a, t.mem.read a = s.mem.read a) ∧
      (∃ x, t.fib fid = some x ∧ x.walkReq = [] ∧ x.lanes = f.lanes ∧ x.ric = f.ric) ∧
      ∀ icl wr fe, transWord t fid (s.viOf fid) va icl wr fe = finish s (walk s (s.viOf fid) va) va icl wr fe) ∧
  (∀ ga va, f.lrecReq = some (ga, va) → PlainMode s (s.partOf fid) → ga % 64 = 0 → ga < 2 ^ 41 → Sees s (coreOf fid) (lineOf ga) →
    (s.core (coreOf fid)).l1.length < 1024 → Gives (.lrecFillComplete fid) s fun t =>
      Only s t fid { mem := true } ∧ (∀ a, t.mem.read a = s.mem.read a) ∧
      (t.core (coreOf fid)).lrec = ((ga, BitVec.ofNat 512 (seenN s (coreOf fid) ga 64)) :: (s.core (coreOf fid)).lrec).take 64 ∧
      ∃ x, t.fib fid = some x ∧ x.lrecReq = none ∧ x.lanes = f.lanes ∧ x.ric = f.ric) ∧
  (f.ric = BitVec.allOnes 32 → Gives (.ricWrap fid) s fun t => Only s t fid {} ∧
    ∃ x, t.fib fid = some x ∧ x.ric = 0 ∧ x.wraps = f.wraps + 1 ∧ x.lanes = f.lanes) ∧
  (f.sched = .running → f.run = none → atomHolds s fid = false → s.inReplayMode (s.partOf fid) = false → 2 ^ (s.part (s.partOf fid)).wdlog ≤ f.wdog →
    Gives (.watchdogFault fid) s fun t => FaultsAsync fid f t 0x0C 0 ∧ Only s t fid {}) ∧
  (f.intr = true → atomHolds s fid = false → (f.run = none ∨ f.wait.isSome = true) → f.sched ≠ .frozen →
    Gives (.intrFreeze fid) s fun t => FaultsAsync fid f t 0x0E 1 ∧ Only s t fid {}) ∧
  (f.sched = .waiting → f.waitFrom + 4096 ≤ s.clock →
    exec (.drowsyRetention fid) s = .next (s.modFib fid fun x => { x with drowsy := true })) ∧
  (let p := s.partOf fid
   let d := ricPast f.ric.toNat f.chFrom
   s.recording p = true → (recorder s p (recorderOf fid)).ended = false → 0 < d → (fieldOf (s.part p).rrctl 31 16 : Int) ≤ d →
   Gives (.chunkLimit fid) s fun t => Only s t fid {} ∧ (∃ x, t.fib fid = some x ∧ x.chFrom = f.ric ∧ x.lanes = f.lanes ∧ x.ric = f.ric) ∧
     ∃ r, Appends s t p (recorderOf fid) r ∧ recKind r = 1 ∧ recFibre r = fid % 2 ^ 14 ∧ recRic r = f.ric.toNat ∧
       fieldOf r 77 62 = d.toNat % 2 ^ 16 ∧ fieldOf r 61 60 = 1 ∧ fieldOf r 59 28 = 0 ∧ fieldOf r 15 0 = (chunkHash f f.ric.toNat).toNat)

/-! ### What operations do when they complete (R154-R166, R200, R220) -/

/-- R66, R73, R112, R124, R146, R154, R157, R159, R220, R221: results that come later. A class B operation writes its results in the lanes of their masks,
its flags join FPSTAT. The data of loads: each lane receives the bytes its core reads, extended as the load says; a lane without an
access receives zero where the zero policy writes and keeps its value elsewhere; no byte changes, and the operation is no longer in flight. -/
def Obligations.ResultsReturn : Prop := ∀ s id o f,
  let k := o.core
  let ga := fun (a : Acc) => gaddr s a.home a.pa
  let near := fun (accs : List Acc) => ∀ a ∈ accs, a.pa % 128 + a.size ≤ 128 ∧ Sees s k (lineOf (ga a))
  let ends := fun (t : State) (w : Writes) => Only s t o.fibre { w with ops := true } ∧
    t.ops.map Op.bare = (s.ops.filter fun q => q.id != id).map Op.bare ∧ ∀ x, t.mem.read x = s.mem.read x
  (∀ accs b kd vd z acq, o.kind = .load accs b kd vd z acq → Due s id o f (regRange vd (ldRegs kd)) → near accs →
    Gives (.loadDataReturn id) s fun t =>
      let val := fun (x : Nat) => match kd with
        | .b8sx => ((BitVec.ofNat 8 x).signExtend 32).toNat
        | .b16sx => ((BitVec.ofNat 16 x).signExtend 32).toNat
        | _ => x
      ends t { v := regRange vd (ldRegs kd), mem := true } ∧
      ((kd = .b8sx → ∀ a ∈ accs, a.size = 1) → (kd = .b16sx → ∀ a ∈ accs, a.size = 2) →
        Returns s t o.fibre vd z (ldRegs kd) (accs.map fun a => (a.lane, val (seenN s k (ga a) a.size))))) ∧
  (∀ a b sd div, o.kind = .uload a b sd div → Due s id o f [] → near [a] → sd < 64 → Gives (.loadDataReturn id) s fun t =>
    ends t { s := [sd], mem := true } ∧
      ∃ x, t.fib o.fibre = some x ∧ x.readS sd = if sd = 0 then 0 else BitVec.ofNat 64 (seenN s k (ga a) a.size)) ∧
  (∀ accs vd z n, o.kind = .lds accs vd z → n = 1 ∨ n = 2 → accs ≠ [] → (∀ a ∈ accs, a.size = 4 * n) → Due s id o f (regRange vd n) →
    Gives (.loadDataReturn id) s fun t => ends t { v := regRange vd n } ∧
      Returns s t o.fibre vd z n (accs.map fun a => (a.lane, (s.core k).scratch.readN a.pa a.size))) ∧
  (∀ ws fl fp div, s.op id = some o → s.fib o.fibre = some f → f.region < 4 → o.kind = .classB ws fl fp div →
    (ws.flatMap RegWrite.vregs).Nodup → (ws.flatMap RegWrite.sregs).Nodup → Gives (.classBComplete id) s fun t =>
      Only s t o.fibre { v := ws.flatMap RegWrite.vregs, s := ws.flatMap RegWrite.sregs, fpstat := true, ops := true } ∧
      (t.ops = s.ops.filter fun q => q.id != id) ∧ (∃ x, t.fib o.fibre = some x ∧ x.fpstat = f.fpstat ||| fl) ∧
      (∀ r mask vals, RegWrite.v r mask vals ∈ ws → f.hasReg r = true →
        ∀ l : Fin 32, readLane t o.fibre r l = if inMask mask l then vals[l] else readLane s o.fibre r l) ∧
      ∀ r val, RegWrite.s r val ∈ ws → r < 64 → ∃ x, t.fib o.fibre = some x ∧ x.readS r = if r = 0 then 0 else val)

/-- R154, R157, R159, R200, R220: stores: the bytes that the core reads are the stored ones, the highest lane's where lanes overlap, and no others
differ; a plain store changes no byte of memory; one that releases puts the earlier dirty bytes there first and, beyond .team, its own. A
scratchpad store changes its bytes of the scratchpad, which then await an opfence. -/
def Obligations.StoresPerformed : Prop := ∀ s id o f,
  let k := o.core
  let ga := fun (a : Acc) => gaddr s a.home a.pa
  let ends := fun (t : State) (w : Writes) => Only s t o.fibre { w with ops := true } ∧
    t.ops.map Op.bare = (s.ops.filter fun q => q.id != id).map Op.bare
  (∀ accs b rel, o.kind = .store accs b rel → Due s id o f [] → (rel ≠ none → earlierMem s o = false) →
    (∀ a ∈ accs, a.pa % 128 + a.size ≤ 128 ∧ pageHeld s (lineOf (ga a)) = false ∧ lineLost s (lineOf (ga a)) = false ∧
      (isRemote (lineOf (ga a)) = true → vcFull s (linePort s (lineOf (ga a))) 0 = false)) →
    (∀ x, rel = some x → x ≠ .fibre → ∀ ln, (s.l1 k ln).dirty ≠ 0 ∨ (∃ a ∈ accs, lineOf (ga a) = ln) → Takes s k ln) →
    Gives (.storePerformed id) s fun t =>
      let put := (runAccs ga (fun a _ => a.data) accs (seenByte s k)).2
      let stored := fun (x : Nat) => accs.any fun a => decide (ga a ≤ x ∧ x < ga a + a.size)
      let dirty := fun (x : Nat) => (s.l1 k (x / 128)).dirty.getLsbD (x % 128)
      ends t { mem := true } ∧ (∀ x, seenByte t k x = put x) ∧
      ∀ x, t.mem.read x = match rel with
        | none => s.mem.read x
        | some .fibre => s.mem.read x
        | some .team => if dirty x then seenByte s k x else s.mem.read x
        | some _ => if stored x || dirty x then put x else s.mem.read x) ∧
  (∀ accs, o.kind = .sts accs → Due s id o f [] → (s.core k).scratch.wf = true → Gives (.storePerformed id) s fun t =>
    ends t { pads := true, teams := true } ∧
    (∀ x, (t.core k).scratch.read x = (runAccs (·.pa) (fun a _ => a.data) accs (s.core k).scratch.read).2 x) ∧
    (∀ j, { (t.core j).pads with scratch := [] } = { (s.core j).pads with scratch := [] } ∧ (j ≠ k → (t.core j).pads = (s.core j).pads)) ∧
    ∀ n, t.team n = (s.team n).map fun y => if n = o.team then { y with unfenced := accs.foldl (fun l a =>
      ⟨a.pa, a.size, o.fibre, false, [], []⟩ :: l.filter fun w => !decide (a.pa ≤ w.lo ∧ w.lo + w.n ≤ a.pa + a.size)) y.unfenced } else y)

/-- R164, R165, R166: atomics act lane by lane in order, each seeing the lanes before it: the old values return, the core reads the new ones, and at
a scope beyond .team the home has them; aacc adds its operand exactly to a 320-bit value at the home. -/
def Obligations.AtomicsPerformed : Prop := ∀ s id o f,
  let k := o.core
  let ga := fun (a : Acc) => gaddr s a.home a.pa
  let acts := fun (accs : List Acc) (regs : List Nat) => Due s id o f regs ∧
    ∀ a ∈ accs, a.pa % 128 + a.size ≤ 128 ∧ a.data < 256 ^ a.size ∧ a.cmp < 256 ^ a.size ∧ Takes s k (lineOf (ga a))
  let ends := fun (t : State) (regs : List Nat) => Only s t o.fibre { v := regs, ops := true, mem := true } ∧
    t.ops.map Op.bare = (s.ops.filter fun q => q.id != id).map Op.bare
  let atHome := fun (accs : List Acc) (t : State) (new : Nat → Byte) => ∀ x,
    ((∃ a ∈ accs, ga a ≤ x ∧ x < ga a + a.size) → t.mem.read x = new x) ∧
      ((∀ a ∈ accs, lineOf (ga a) ≠ lineOf x) → t.mem.read x = s.mem.read x)
  (∀ op sc accs b vd z n, o.kind = .atom op sc accs b vd z → accs ≠ [] → n = 1 ∨ n = 2 ∨ n = 4 → (∀ a ∈ accs, a.size = 4 * n) →
    acts accs (regRange vd n) → Gives (.atomicPerformed id) s fun t =>
      let new := fun (a : Acc) (old : Nat) =>
        let x := BitVec.ofNat (32 * n) a.data
        let y := BitVec.ofNat (32 * n) old
        (match op with
          | .add => x + y
          | .minSg => if x.toInt < y.toInt then x else y
          | .minUs => if x.toNat < y.toNat then x else y
          | .maxSg => if y.toInt < x.toInt then x else y
          | .maxUs => if y.toNat < x.toNat then x else y
          | .and => x &&& y
          | .or => x ||| y
          | .xor => x ^^^ y
          | .xchg => x
          | .cas => if old = a.cmp then x else y).toNat
      let r := runAccs ga new accs (seenByte s k)
      ends t (regRange vd n) ∧ Returns s t o.fibre vd z n ((accs.map (·.lane)).zip r.1) ∧ (∀ x, seenByte t k x = r.2 x) ∧
      (if sc = .fibre ∨ sc = .team then ∀ x, t.mem.read x = s.mem.read x else atHome accs t r.2)) ∧
  (∀ fmt accs b, o.kind = .aacc fmt accs b → (∀ a ∈ accs, a.size = 40) → acts accs [] → Gives (.atomicPerformed id) s fun t =>
    let r := runAccs ga (fun a old => (wAdd (BitVec.ofNat 320 old) (toW .rne (aaccNum fmt a.data)).1).1.toNat) accs (seenByte s k)
    ends t [] ∧ (∀ x, seenByte t k x = r.2 x) ∧ atHome accs t r.2)

/-! ### Engines (R182-R202) -/

/-- R183, R186, R187, R189, R190, R191, R196, R198, R201, R202: what engine operations do when they complete: one whose record is invalid or whose
tile lies outside has no effect on data and ends with that code; a copy puts its elements, in order, at their places in the scratchpad, line by
line as they arrive; copy.st puts them into memory as its core reads it; wbload fills the weight buffer; accld and acczero write accumulator
entries; a tapered mma adds to each output entry the exact sum of its products. -/
def Obligations.EngineCompletes : Prop := ∀ s id o e, EngineDue s id o e →
  let k := o.core
  let base := ((s.team o.team).map (·.sbase)).getD 0 * 128
  let home := (bufEntry s k (s.viOf o.fibre) (bregIdx e.breg)).home
  let d := fun (i : Nat) => (nth e.desc i 0).toNat
  let old := (s.core k).scratch.read
  let entries := (s.core k).acc.get?
  let saddr := bitsOf (d 1) 31 0
  let ends := fun (t : State) (code : Nat) (flags : Word) (pad : Nat → Byte) (acc : Nat → Option W320) =>
    Only s t o.fibre { ops := true, flags := decide (code ≠ 0), pads := true, mem := !e.form.isMatrix || e.form == .wbload false } ∧
      EngineEnds s t o e code flags pad acc
  let same := fun (t : State) => (∀ x, t.mem.read x = s.mem.read x) ∧ (t.core k).wb = (s.core k).wb
  let place := fun (l : LRec) (i : Nat) => base + saddr + i / l.ext.1 * l.pitch + i % l.ext.1 * l.z
  let offset := fun (l : LRec) (i : Nat) => (d 0 + i % l.ext.1 * l.z + i / l.ext.1 % l.ext.2.1 * l.stride.1 +
    i / (l.ext.1 * l.ext.2.1) % l.ext.2.2.1 * l.stride.2.1 + i / (l.ext.1 * l.ext.2.1 * l.ext.2.2.1) * l.stride.2.2) % 2 ^ 64
  let into := fun (l : LRec) (is : List Nat) (pa : Nat → Nat) => (runAccs (·.pa) (fun a _ => a.data)
    (is.map fun i => ⟨i, 0, 0, place l i, 0, l.z, seenN s k (gaddr s home (pa i)) l.z, 0⟩) old).2
  let sees := fun (pa : Nat → Nat) (n z : Nat) => ∀ i < n, pa i % 128 + z ≤ 128 ∧ Sees s k (lineOf (gaddr s home (pa i)))
  let inLine := fun (l : LRec) => ∀ i < l.count, offset l i % 128 + l.z ≤ 128
  let roomy := fun (n : Nat) => (∀ ln, (s.l1 k ln).dirty = 0) ∨ (s.core k).l1.length + n ≤ 1024
  (e.early ≠ 0 → e.early < 256 → e.form ≠ .mma → Gives (.engineOperationComplete id) s fun t => ends t e.early 0 old entries ∧ same t) ∧
  (∀ l pa, e.early = 0 → parseRec e.record = some l → e.form = .copy → e.arrived = [] → earlierMem s o = false →
    ElemsOk s o e l.count (offset l) l.z .read pa → sees pa l.count l.z → inLine l → roomy l.count →
    Gives (.engineOperationComplete id) s (fun t => ends t 0 0 (into l (List.range l.count) pa) entries ∧ same t) ∧
    ∀ ln, e.cleared.contains ln = true → Gives (.copyLineArrival id ln) s fun t =>
      let new := into l (List.range l.count) pa
      Only s t o.fibre { ops := true, pads := true, mem := true } ∧ same t ∧
      t.ops.map Op.bare = (s.ops.map fun q => if q.id = id then { o with kind := .engine { e with arrived := [ln] } } else q).map Op.bare ∧
      (t.core k).absent = (s.core k).absent.filter (fun n => n != ln) ∧ (∀ j, j ≠ k → (t.core j).pads = (s.core j).pads) ∧
      ∀ x, (t.core k).scratch.read x = if x / 128 = ln then new x else old x) ∧
  (∀ l pa, e.early = 0 → parseRec e.record = some l → e.form = .copySt → e.scope = .fibre → earlierMem s o = false →
    allPresent s o (rowLines (base + saddr) (l.ext.1 * l.z) l.pitch l.rows) = true →
    ElemsOk s o e l.count (offset l) l.z .write pa → inLine l → (s.core k).l1.length + l.count ≤ 1024 →
    (∀ i < l.count, pa i % 128 + l.z ≤ 128 ∧ pageHeld s (lineOf (gaddr s home (pa i))) = false ∧ lineLost s (lineOf (gaddr s home (pa i))) = false) →
    Gives (.engineOperationComplete id) s fun t => ends t 0 0 old entries ∧ same t ∧
      ∀ x, seenByte t k x = (runAccs (·.pa) (fun a _ => a.data)
        ((List.range l.count).map fun i => ⟨i, 0, 0, gaddr s home (pa i), 0, l.z, bytesOf old (place l i) l.z, 0⟩) (seenByte s k)).2 x) ∧
  (∀ pa, e.early = 0 → e.form = .wbload false → bregV e.breg = true → earlierMem s o = false →
    (∀ ln, (s.l1 k ln).dirty = 0) → (s.core k).wb.wf = true →
    let len := bitsOf (d 1) 50 32
    let wofs := bitsOf (d 1) 17 0
    ElemsOk s o e len (fun i => (d 0 + i) % 2 ^ 64) 1 .read pa → sees pa len 1 →
    Gives (.engineOperationComplete id) s fun t => ends t 0 0 old entries ∧ (∀ x, t.mem.read x = s.mem.read x) ∧
      ∀ x, (t.core k).wb.read x =
        if wofs ≤ x ∧ x < wofs + len then seenByte s k (gaddr s home (pa (x - wofs))) else (s.core k).wb.read x) ∧
  (let rows := bitsOf (d 0) 55 48
   let cols := bitsOf (d 0) 62 56
   let cell := fun (r c : Nat) => (bitsOf (d 0) 38 32 + r) * 64 + bitsOf (d 0) 45 40 + c
   let sets := fun (val : Nat → Nat → W320) (i : Nat) (x : Option W320) =>
     (∀ r c, r < rows → c < cols → cols ≤ 64 - bitsOf (d 0) 45 40 → i = cell r c → x = some (val r c)) ∧
     ((∀ r c, r < rows → c < cols → i ≠ cell r c) → x = entries i)
   (e.early = 0 → e.form = .acczero → Gives (.engineOperationComplete id) s fun t =>
     ∃ acc, ends t 0 0 old acc ∧ same t ∧ ∀ i, sets (fun _ _ => 0) i (acc i)) ∧
   ∀ l dbl, e.early = 0 → parseRec e.record = some l → e.form = .accld dbl →
     allPresent s o (rowLines (base + bitsOf (d 0) 31 0) (cols * l.z) l.pitch rows) = true →
     Gives (.engineOperationComplete id) s fun t =>
       let x := fun (r c : Nat) => (elemNum l.fmt (bytesOf old (base + bitsOf (d 0) 31 0 + r * l.pitch + c * l.z) l.z)).scale l.scale
       ∃ acc flags, ends t 0 flags old acc ∧ same t ∧ ∀ i, sets (fun r c =>
         if dbl then BitVec.ofNat 320 (toF f64 l.rm (elemFam l.fmt) (x r c)).1 else (toW .rne (x r c)).1) i (acc i)) ∧
  (let x := mmaShape (nth e.desc 1 0)
   let code := fun (inWb : Bool) (at_ i : Nat) => if inWb then (s.core k).wb.readN (at_ + i * x.z) x.z else bytesOf old (base + at_ + i * x.z) x.z
   e.early = 0 → e.form = .mma → x.fmt ≠ 5 → x.acc = false → x.asrc = false → x.col0 + x.n ≤ 64 →
   allPresent s o (mmaReads s o e) = true → Gives (.engineOperationComplete id) s fun t =>
     let add := fun (p q : W320) => if p = wNar ∨ q = wNar then wNar else (wAdd p q).1
     let prod := fun (a b : Nat) => (qProd (mmaTap x.fmt) a b).1
     let val := fun (r c : Nat) => add (if x.zero then 0 else (entries ((x.row0 + r) * 64 + x.col0 + c)).getD 0)
       ((List.range x.k).foldl (fun q j => add q (prod (code false (bitsOf (d 0) 31 0) (r * x.k + j)) (code x.bsrc (bitsOf (d 0) 63 32) (j * x.n + c)))) 0)
     ∃ acc flags, ends t 0 flags old acc ∧ same t ∧ ∀ i,
       (∀ r c, r < x.m → c < x.n → i = (x.row0 + r) * 64 + x.col0 + c → acc i = some (val r c)) ∧
       ((∀ r c, r < x.m → c < x.n → i ≠ (x.row0 + r) * 64 + x.col0 + c) → acc i = entries i))

/-! ### Packets, grids and messages (R235-R247, R257, R263, R356) -/

/-- R17, R115, R167, R231, R235, R236, R237, R240 to R242, R246, R257, R263: packets and grids. A doorbell value ahead of TAIL within 2^15 of HEAD is taken,
any other is not. A packet that the checks refuse is consumed and its completion entry carries the code; a marker is consumed once it may begin and
completes once the packets before it have; a launch that may begin becomes a grid. A cluster is placed with every team bound at once and every fibre as R37 says, or begins to wait, and after
100 us shuts the lower grids out. A fibre whose lanes have exited is released with its append counts; the last one ends its team; in the ordered
modes teams retire in order with their writes. A grid ends with its entry, an aborted one with all it had. -/
def Obligations.GridEvents : Prop :=
  (∀ s q v, Gives (.qdbWrite q v) s fun t =>
    let x := s.queue q
    let w : BitVec 16 := v.setWidth 16
    let taken := (w - x.head).toNat ≤ 2 ^ 15 ∧ (x.tail - x.head).toNat < (w - x.head).toNat
    (∀ k, t.queue k = if k = q ∧ taken then { s.queue k with tail := w } else s.queue k) ∧ { t with queues := s.queues } = s) ∧
  (∀ s q pa, headPlace (packetReads s q) q = some pa →
    let x := s.queue q
    let v := x.vi
    let p := (s.vi v).part
    let w := dwordsAt (packetReads s q) pa 8
    let s0 := launchReads (packetReads s q) v w
    let ck := checkPacket s0 p v w (argsOf s0 v w)
    let took := takePacket s0 q pa
    let gone := fun (t : State) (quiet : Prop) => (∀ k, (t.queue k).head = if k = q then x.head + 1 else (s.queue k).head) ∧
      (t.part p).launchNo = (s.part p).launchNo + 1 ∧
      (t.part p).lpages = (if s.recording p then (s.part p).lpages ++ [launchEntry s0 p q w ck.2.1] else (s.part p).lpages) ∧
      (Plain s0 (lineOf pa) → mdState (s0.md (lineOf pa)) < 3 → quiet → t.mem.read pa = 0 ∧ ∀ y, y ≠ pa → t.mem.read y = s0.mem.read y)
    let entry := fun (t : State) (status : Nat) => ∀ cp, pkCpl w = true → (nth w 6 0).toNat % 64 = 0 →
      transNow (walkReads v (nth w 6 0).toNat took) v (nth w 6 0).toNat 512 true = .ok cp → Plain took (lineOf cp) →
      EntryAt t cp (BitVec.ofNat 64 status :: List.replicate 7 0)
    s.replaying (packetPart s q) = false → pkType w ≠ 0 → (s.part p).cfg.getLsbD 8 = true →
    ((gridsOf s p).any fun e => isGuarded s p e.2.packet) = false →
    (ck.1 ≠ 0 → Gives (.packetConsume q) s fun t => gone t (pkCpl w = false) ∧ entry t ck.1 ∧ t.grids = s.grids) ∧
    (ck.1 = 0 → pkType w = 2 → (pkBar w = true → x.open_ = []) → viRuns s p v = true → dispatches s p = true → x.marks = [] →
      Gives (.packetConsume q) s fun t => gone t (pkCpl w = false ∨ x.open_ ≠ []) ∧ (x.open_ = [] → entry t 0) ∧ t.grids = s.grids ∧
        (x.open_ ≠ [] → isTwin s p = false →
          (t.queue q).open_ = x.open_ ++ [x.head.toNat] ∧ (t.queue q).marks = [(x.head.toNat, w, x.open_)])) ∧
    (ck.1 = 0 → pkType w ≠ 2 → mayBegin s q w = true → cairnDone s p (isGuarded s p w) = true →
      Gives (.packetConsume q) s fun t => gone t True ∧
        (t.queue q).open_ = (if isTwin s p then x.open_ else x.open_ ++ [x.head.toNat]) ∧
        t.nextGrid = s.nextGrid + 1 ∧ (∀ n, n ≠ s.nextGrid → t.grid n = s.grid n) ∧
        ∃ g, t.grid s.nextGrid = some g ∧ g.queue = q ∧ g.idx = x.head.toNat ∧ g.part = p ∧ g.vi = v ∧ g.packet = w ∧ g.args = ck.2.1 ∧
          g.kdesc = ck.2.2 ∧ g.placed = 0 ∧ g.teamsEnd = 0 ∧ g.abort = none)) ∧
  (∀ s gid g, s.grid gid = some g →
    let rows := fieldOf (nth g.kdesc 1 0) 7 6
    let cols := fieldOf (nth g.kdesc 1 0) 10 8
    let groups := fieldOf (nth g.kdesc 1 0) 5 0
    let teams := fieldOf (nth g.packet 1 0) 31 0 * fieldOf (nth g.packet 1 0) 47 32 * fieldOf (nth g.packet 1 0) 63 48
    (placing s g = true → s.replaying g.part = false → (∀ i, s.team (s.nextTeam + i) = none) →
      (chooseRect s g = none → exec (.clusterPlace gid) s =
        .next (s.modGrid gid fun g => { g with waitFrom := g.waitFrom.orElse fun _ => some s.mgmt.gts.toNat })) ∧
      ∀ r, chooseRect s g = some r → Gives (.clusterPlace gid) s fun t =>
        let n := min (rows * cols) (teams - g.placed)
        (∃ g1, t.grid gid = some g1 ∧ g1.placed = g.placed + n ∧ g1.waitFrom = none ∧ g1.blocks = false ∧ g1.teamsEnd = g.teamsEnd) ∧
        ∀ i < n, ∃ c tm, r[i]? = some c ∧ t.team (s.nextTeam + i) = some tm ∧ tm.grid = gid ∧ tm.index = g.placed + i ∧ tm.rank = i ∧
          tm.core = c ∧ tm.groups = groups ∧ tm.live = tm.fibres ∧ tm.fibres.length = groups ∧
          (∀ a < tm.slines * 128, (t.core c).scratch.read (tm.sbase * 128 + a) = 0) ∧
          ∀ grp < groups, ∃ f ∈ tm.fibres, coreOf f = c ∧ ∃ x, t.fib f = some x ∧ Fresh x (s.nextTeam + i) grp g) ∧
    (∀ t0, g.waitFrom = some t0 → t0 + 100000 ≤ s.mgmt.gts.toNat →
      exec (.priorityWaitLimit gid) s = .next (s.modGrid gid fun g => { g with blocks := true })) ∧
    (∀ tid tm, nextToRetire s gid = some tid → s.team tid = some tm → Gives (.teamRetire gid) s fun t => t.team tid = none ∧
      t.grid gid = some { g with nextRet := g.nextRet + 1, teamsEnd := g.teamsEnd + 1, tend := s.mgmt.gts } ∧
      (tm.stLines.length ≤ 64 → s.mem.wf = true →
        (∀ e ∈ tm.staged, e.1 = s.fabric.device ∧ e.2.1 < 2 ^ 41 ∧ Plain s (lineOf e.2.1) ∧ mdState (s.md (lineOf e.2.1)) < 3) →
        ∀ y, t.mem.read y = match tm.staged.find? fun e => e.2.1 == y with
          | some e => e.2.2
          | none => s.mem.read y)) ∧
    (boundHere s g = true → g.abort = none → g.placed = teams → g.teamsEnd = teams → Gives (.gridComplete gid) s fun t =>
      t.grid gid = none ∧ ((s.queue g.queue).marks = [] → (t.queue g.queue).open_ = (s.queue g.queue).open_.erase g.idx) ∧
      (∀ k ∈ s.coresOf g.part, ∀ ln, (t.l1 k ln).dirty = 0) ∧
      ∀ cp, (∀ k ln, (s.l1 k ln).dirty = 0) → s.mgmt.hostHeld = [] → (s.queue g.queue).marks = [] → pkCpl g.packet = true →
        (nth g.packet 6 0).toNat % 64 = 0 → transNow (walkReads g.vi (nth g.packet 6 0).toNat s) g.vi (nth g.packet 6 0).toNat 512 true = .ok cp → Plain s (lineOf cp) →
        EntryAt t cp [BitVec.ofNat 64 (teams * 2 ^ 32 + (if g.anclost then 2 ^ 10 else 0) +
          (if g.unprot || (s.part g.part).urState == .noprot then 2 ^ 9 else 0) + (if g.relaunch = 0 then 0 else 2 ^ 8)), g.tstart.getD 0, g.tend]) ∧
    (∀ status, g.abort = some status → (s.part g.part).runVi = some g.vi → abortReady s gid = true → Gives (.abortDrained gid) s fun t =>
      let u := (s.part g.part).urState
      if u = .restoring ∨ u = .failed then t = s
      else (∀ n tm, t.team n = some tm → tm.grid ≠ gid) ∧
        (∀ n tm, s.team n = some tm → tm.grid = gid → ∀ f ∈ tm.live, t.fib f = none) ∧
        if u = .aborting then (t.part g.part).urState = .restoring ∧ (t.grid gid).isSome = true else t.grid gid = none)) ∧
  (∀ s fid f, s.fib fid = some f → f.liveMask = 0 → f.run = none → f.sched ≠ .frozen → (∀ o ∈ s.ops, o.fibre ≠ fid) →
    Gives (.fibreRelease fid) s fun t => t.fib fid = none ∧ (∀ h, h ≠ fid → (t.fib h).map Fibre.regs = (s.fib h).map Fibre.regs) ∧
      ∀ tm g, s.team f.team = some tm → s.grid tm.grid = some g →
        let rest := tm.live.filter fun h => h != fid
        let ends := rest.isEmpty && !s.ordered g.part && g.abort.isNone
        (∃ g1, t.grid tm.grid = some g1 ∧ g1.teamsEnd = g.teamsEnd + ends.toNat ∧ g1.tend = (if ends then s.mgmt.gts else g.tend) ∧
          ∀ j < 4, vget g1.used j 0 = min (2 ^ 32 - 1) (vget g.used j 0 + (vget f.append j 0).toNat) ∧
            vget g1.ovf j false = (vget g.ovf j false || vget f.ovf j false)) ∧
        (ends = true → t.team f.team = none) ∧ (rest ≠ [] → t.team f.team = some { tm with live := rest }))

/-- R205, R206, R353, R355, R356, R409: messages. An arrival for a mailbox that is not configured is refused with an error completion; one that the
mailbox may admit enters its ring, or is held for its slot's page; while the ring is full it waits here; where its log does not admit it, or 256
messages wait here, it stays with its sender, which sends it again when the mailbox has admitted another. A message sent to another device ends its
send, in error when no such device is reached, once its port has credits; one sent to a mailbox here ends it when the mailbox admits it. -/
def Obligations.MessageEvents : Prop := ∀ s (n dev part seq : Nat) (pay : BitVec 512),
  let m : Msg := ⟨n, dev, part, seq, pay, none⟩
  let b := s.mbox n
  let room := waiting s n = false ∧ b.used < b.size
  let read := slotReads s n b.tail
  (n < 2 ^ 14 → seq < 2 ^ 32 →
    let mine := (s.fabric.retry.any fun x => x.mbox == n && x.dev == dev) = false ∧ admissibleMsg s m = true ∧ s.fabric.overflow.length < 256
    (b.valid = false → exec (.messageArrival n dev part seq pay) s =
      .next { s with mgmt := { s.mgmt with remoteOut := s.mgmt.remoteOut ++ [(11, n, [dev])] } }) ∧
    (b.valid = true → ¬ mine →
      exec (.messageArrival n dev part seq pay) s = .next { s with fabric := { s.fabric with retry := s.fabric.retry ++ [m] } }) ∧
    (b.valid = true → mine → ¬ room →
      exec (.messageArrival n dev part seq pay) s = .next { s with fabric := { s.fabric with overflow := s.fabric.overflow ++ [m] } }) ∧
    (∀ ga, b.valid = true → mine → room → slotFor read n b.tail true = .inl ga → Gives (.messageArrival n dev part seq pay) s fun t =>
      Entered s t m ga ∧ Kept s t) ∧
    (∀ c, b.valid = true → mine → room → slotFor read n b.tail true = .inr c → Gives (.messageArrival n dev part seq pay) s fun t =>
      t.fabric.heldPage = s.fabric.heldPage ++ [m] ∧ ∀ k, t.mbox k = s.mbox k) ∧
    (dev = s.fabric.device → (s.fabric.retry.filter fun x => x.mbox == n) = [m] →
      Gives (.mailboxAdmissionSignal dev n) s fun t => exec (.messageArrival n dev part seq pay)
        { s with fabric := { s.fabric with retry := s.fabric.retry.filter fun x => x.mbox != n } } = .next t)) ∧
  ∀ id o f, s.op id = some o → o.kind = .send dev n pay seq → s.fib o.fibre = some f → earlierMem s o = false → earlierSend s o dev n = false →
    (∀ ln, (s.l1 (coreOf o.fibre) ln).dirty = 0) →
    let mine : Msg := ⟨n, dev, s.partOf o.fibre, seq, pay, some id⟩
    let kept := (s.fabric.heldPage ++ s.fabric.overflow).contains mine || turnedBack s mine
    let ended := fun (t : State) (w : Writes) => Only s t o.fibre w ∧ t.ops.map Op.bare = (s.ops.filter fun q => q.id != id).map Op.bare
    let failed := fun (t : State) => ended t { ops := true, flags := true, mem := true } ∧ SameMem s t ∧
      ∀ k < 12, o.flag = some k → ∃ x, t.fib o.fibre = some x ∧ x.cfErr.getLsbD k = true
    (dev ≠ s.fabric.device → 320 ≤ dev ∨ reachable s dev = false → Gives (.msgAccepted id) s failed) ∧
    (dev ≠ s.fabric.device → dev < 320 → reachable s dev = true →
      if vcFull s (mboxPort s dev n) 3 then exec (.msgAccepted id) s = .next s
      else Gives (.msgAccepted id) s fun t => ended t { ops := true, mem := true } ∧ SameMem s t) ∧
    (dev = s.fabric.device → b.valid = false → Gives (.msgAccepted id) s failed) ∧
    (dev = s.fabric.device → b.valid = true → kept = true → exec (.msgAccepted id) s = .next s) ∧
    (dev = s.fabric.device → b.valid = true → kept = false → ¬ room → Gives (.msgAccepted id) s fun t =>
      t.fabric.overflow = s.fabric.overflow ++ [mine] ∧ t.ops.map Op.bare = s.ops.map Op.bare) ∧
    ∀ ga, dev = s.fabric.device → b.valid = true → kept = false → room → slotFor read n b.tail true = .inl ga →
      Gives (.msgAccepted id) s fun t => Entered s t mine ga ∧ ended t { ops := true, mem := true }

/-! ### Partitions (R213, R234, R250, R253-R256, R278, R322, R342) -/

/-- R234, R250, R253 to R255, R278, R342: what befalls a partition and its cores. At a kernel boundary a written MODE, WDLOG and QLOG take effect; a
throttle signal halves AGL unless it was halved within 256 clocks, a quiet interval doubles it; a congested channel signals each core once. The
messages of a gang arm and disarm its members; at the instant the partition halts, and, drained, its contexts are exchanged with every register
kept. The context brought in stands in Bivouac first; the one put out reaches its context area. -/
def Obligations.PartitionEvents : Prop := ∀ s p,
  let x := s.part p
  let gts := s.mgmt.gts.toNat
  let quarter := fun (k : Core) =>
    let late := match k.halvedAt with
      | some t0 => decide (t0 + 256 ≤ s.clock)
      | none => true
    (if late then max 1 (k.agl / 2) else k.agl, if late then some s.clock else k.halvedAt)
  let throttled := fun (t : State) (cs : List Nat) => ∀ c,
    if cs.contains c then ((t.core c).agl, (t.core c).halvedAt) = quarter (s.core c) ∧ (t.core c).quietFrom = s.clock
    else t.core c = s.core c
  let tells := fun (t : State) (l : List (Nat × Nat × List Nat)) (g : Part → Part) =>
    t = { s with mgmt := { s.mgmt with remoteOut := s.mgmt.remoteOut ++ l } }.modPart p g
  let here := gangHere s p
  let far := gangFar s p
  let told := fun (t : State) (what t0 : Nat) =>
    t.mgmt = { s.mgmt with remoteOut := s.mgmt.remoteOut ++ if far = [] then [] else [(what, t0, far)] } ∧
    { t with parts := s.parts, mgmt := s.mgmt } = s
  let arm := fun (t0 : Nat) (y : Part) => { y with armed := if y.armed.contains t0 then y.armed else y.armed ++ [t0] }
  let disarm := fun (t0 : Nat) (y : Part) => { y with armed := y.armed.filter (· != t0) }
  let cancelled := fun (t : State) (t0 : Nat) => told t 6 t0 ∧ ∀ q, t.part q =
    if q = p then { disarm t0 x with proposed := x.proposed.filter fun e => e.1 != t0 }
    else if here.contains q then disarm t0 (s.part q) else s.part q
  let signals := fun (t : State) (ch : Nat) (more : List Nat) =>
    let away := (more.filter fun c => decide (288 ≤ c)).map fun c => c / 288 - 1
    throttled t (chanCores s ch ++ more.filter fun c => decide (c < 288)) ∧
    t.hbm = { s.hbm with congested := s.hbm.congested.set ch s.clock } ∧
    t.mgmt = { s.mgmt with remoteOut := s.mgmt.remoteOut ++ if away = [] then [] else [(10, ch, away.dedup)] } ∧
    { t with cores := s.cores, hbm := s.hbm, mgmt := s.mgmt } = s
  (atBoundary s p = true → Gives (.modeChangeApply p) s fun t =>
    let m := x.nextMode.getD x.mode
    let begins := x.nextMode.isSome && (m == 1 || m == 5)
    (t.part p).mode = m ∧ (t.part p).nextMode = none ∧ (t.part p).wdlog = ((x.nextWd.map (·.1)).getD x.wdlog) ∧
    (t.part p).qlog = ((x.nextWd.map (·.2)).getD x.qlog) ∧
    (s.recording p = false ∨ x.nextMode = none → (t.part p).cairnDue = (x.cairnDue || begins) ∧ { t with parts := s.parts } = s) ∧
    (s.recording p = true → x.nextMode.isSome = true → begins = false → (t.part p).ended = true)) ∧
  (∀ c, Gives (.throttleSignal c) s fun t => throttled t [c] ∧ { t with cores := s.cores } = s) ∧
  (∀ c, (s.core c).quietFrom + 2 ^ (10 + (s.part (s.partOfCore c)).qlog) ≤ s.clock →
    exec (.quietInterval c) s = .next (s.modCore c fun k => { k with agl := min 32 (2 * k.agl), quietFrom := s.clock })) ∧
  (∀ ch more, chanTh s ch ≤ chanOcc s ch more →
    (s.hbm.congested.get? ch = none → Gives (.queueCongestion ch more) s fun t => signals t ch more) ∧
    ∀ t0, s.hbm.congested.get? ch = some t0 → exec (.queueCongestion ch more) s = .next s ∧
      (t0 + 256 ≤ s.clock → Gives (.congestionRepeat ch more) s fun t => signals t ch more) ∧
      (s.clock < t0 + 256 → exec (.congestionRepeat ch more) s = .next s)) ∧
  (∀ ch more, chanOcc s ch more < chanTh s ch → exec (.queueCongestion ch more) s = .next s ∧
    ∀ t0, s.hbm.congested.get? ch = some t0 →
      exec (.congestionRepeat ch more) s = .next { s with hbm := { s.hbm with congested := s.hbm.congested.del ch } }) ∧
  (∀ t0, mayPropose s p t0 = true → gts + 1000000 ≤ t0 ∧ Gives (.gangSwitchPropose p t0) s fun t => told t 5 t0 ∧ ∀ q, t.part q =
    if q = p then { arm t0 x with proposed := x.proposed ++ [(t0, here.map fun m => (s.fabric.device, m))] }
    else if here.contains q then arm t0 (s.part q) else s.part q) ∧
  (∀ t0, x.leads = true → x.armed.contains t0 = false → (entryAfter s p none).isSome = true → t0 = sliceEnd s p → gts + 1000000 ≤ t0 →
    mayPropose s p t0 = true) ∧
  (∀ t0, t0 < gts + 1000000 → exec (.gangSwitchPropose p t0) s = .next s) ∧
  (∀ t0, Gives (.gangTimeMessage p t0) s fun t => tells t [(7, t0, [])] (arm t0)) ∧
  (∀ t0, Gives (.gangCancellation ⟨p, t0⟩) s fun t => tells t [] (disarm t0)) ∧
  (∀ t0 t1, unacked s p = [t0] → ∃ s1, cancelled s1 t0 ∧ exec (.gangAckDeadline p t1) s = exec (.gangSwitchPropose p t1) s1) ∧
  (∀ e, x.runVi = none → x.armed = [] → x.halted = false → entryAfter s p none = some e → x.saved.get? (entryVi s p e) = none →
    exec (.gangSwitch p) s = .next (s.modPart p fun x => { x with runVi := some (entryVi s p e), entry := e, sliceAt := gts })) ∧
  (∀ t0 ∈ x.armed, t0 ≤ gts → x.halted = false → exec (.gangSwitch p) s = .next (s.modPart p fun x => { x with halted := true })) ∧
  (∀ t0 e u y, t0 ∈ x.armed → t0 ≤ gts → x.halted = true → x.quiet = true → nextEntry s p = some e → x.runVi = some u →
    u ≠ entryVi s p e → x.saved.get? (entryVi s p e) = some y → y.staged = true → (y.fibres.map (·.1)).Nodup →
    Gives (.gangSwitch p) s fun t =>
      let q := t.part p
      q.runVi = some (entryVi s p e) ∧ q.entry = e ∧ q.halted = false ∧ q.armed = x.armed.filter (fun a => decide (gts < a)) ∧
      q.saved.get? (entryVi s p e) = none ∧
      (∃ z, q.saved.get? u = some z ∧ z.fibres = s.fibres.filter (fun f => s.coreIn p (coreOf f.1)) ∧
        z.ops = s.ops.filter (fun o => s.coreIn p o.core) ∧ z.staged = false) ∧
      (∀ f, s.coreIn p (coreOf f) = true → (t.fib f).map Fibre.regs = (y.fibres.get? f).map Fibre.regs) ∧
      ((∀ d ∈ far, reachable s d = true) → t.mem = s.mem ∧ t.hostMem = s.hostMem)) ∧
  (∀ e y, nextEntry s p = some e → x.saved.get? (entryVi s p e) = some y → Gives (.bivouacFill p) s fun t =>
    let v := entryVi s p e
    t.part p = { x with saved := x.saved.set v { (if areaIntact s p v y then y else unknownCtx s.free y) with staged := true } } ∧
    { t with parts := s.parts, free := s.free } = s) ∧
  ∀ v y, x.saved = [(v, y)] → y.staged = false → y.spilled = none → s.mem.wf = true → Gives (.bivouacSpill p) s fun t =>
    let a := fieldOf (s.vi v).cfg 63 12 * 4096
    let pctl := BitVec.ofNat 64 (x.qlog % 16 * 2 ^ 16 + x.wdlog % 64 * 2 ^ 8 + x.mode % 8)
    (t.part p).saved = [(v, { y with spilled := some (s.free, s.clock, pctl) })] ∧ t.mem.readN a 8 = 1 ∧ t.mem.readN (a + 8) 8 = pctl.toNat ∧
    t.mem.readN (a + 16) 8 = (s.coresOf p).length ∧ ∀ b, b < a → t.mem.read b = s.mem.read b

/-! ### Cairns, logs and restores (R300, R304, R310, R311, R317, R320, R322, R345-R349) -/

/-- R300, R304, R310, R311, R317, R320, R322, R345 to R349: recovery. A Cairn takes its number, opens the epoch of the undo ring with clean L1s and
untouched lines and, in a recording mode, ANCHORs every recorder; a pod Cairn is proposed, acknowledged, timed out or taken at its instant. Exhausted
sequence numbers lose the Cairn. A full page goes to the ring; a twin consumes one, or notes whose page it could not read. The end of a log halts the partition; a restore puts every
captured line back and relaunches the grids. A scrub retires the coming epoch's number. -/
def Obligations.RecoveryEvents : Prop := ∀ s p,
  let x := s.part p
  let gts := s.mgmt.gts.toNat
  let tells := fun (t : State) (l : List (Nat × Nat × List Nat)) (g : Part → Part) =>
    t = { s with mgmt := { s.mgmt with remoteOut := s.mgmt.remoteOut ++ l } }.modPart p g
  let opened := fun (t : State) (number : Nat) (guarded : Bool) =>
    let q := t.part p
    q.cairn = number % 2 ^ 32 ∧ q.urEpoch = x.urEpoch + 1 ∧ q.urEpst = q.urTail ∧ q.rrCairn = q.rrTail ∧ q.launchNo = 0 ∧ q.cairnAt = some gts ∧
    q.cairnDue = false ∧ q.scrubbed = false ∧ (guarded = true → q.urState = .guarded) ∧
    (guarded = false → s.recording p = true → q.urState = .capture) ∧
    (∀ ln, ownLine s p ln = true → (t.line ln).ep = EpLine.init) ∧ (∀ k ∈ s.coresOf p, ∀ ln, (t.l1 k ln).dirty = 0) ∧
    (s.recording p = true → ∀ k ∈ recordersOf s p, (recorder t p k).ended = false ∧ ∃ r, (recorder t p k).recs.getLast? = some (r, s.mgmt.gts) ∧
      recKind r = 0xA ∧ fieldOf r 77 46 = number % 2 ^ 32)
  (cairnReady s p = true → x.halted = false → x.cfg.getLsbD 8 = true → twinOf s p = none →
    (∀ g, cairnWanted s p = some g → Gives (.cairn p) s fun t => opened t (x.cairn + 1) g) ∧
    (cairnWanted s p = none → s.recording p = true → x.cairnDue = true ∨ (spacingOver s p = true ∧ freshCairn s p = false) → Gives (.cairn p) s fun t => opened t (x.cairn + 1) false)) ∧
  (∀ t0 n, Gives (.podCairnPropose p t0 n) s fun t => tells t [(5, t0, [])] fun x => { x with podAt := some (t0, n), podAck := false, podT2 := none }) ∧
  (podHolds s p = true → quiescent s p = true → Gives (.podCairnInstant p) s fun t => tells t [(7, p, [])] fun x => { x with podAck := true }) ∧
  (∀ t2, x.podAck = true → Gives (.podCairnAcknowledged p t2) s fun t => tells t [] fun x => { x with podT2 := some t2 }) ∧
  (∀ t0 n, x.podAt = some (t0, n) → x.podT2 = none → t0 + 1000000000 ≤ gts → Gives (.podCairnAckTimeout p) s fun t =>
    tells t [(6, t0, [])] fun x => { x with podAt := none, podAck := false }) ∧
  (∀ t0 n t2, x.podAt = some (t0, n) → x.podT2 = some t2 → t2 ≤ gts → x.replayDue = none → cairnReady s p = true →
    twinOf s p = none →
    Gives (.podCairnTake p) s fun t => opened t n ((cairnWanted s p).getD false) ∧ (t.part p).podAt = none ∧ (t.part p).podT2 = none) ∧
  (∀ ln, fieldOf (region s (ln * 128 / 2 ^ 29)) 61 59 = p → s.recording p = true → x.ended = false → (s.line ln).ep.st = .writeShared →
    2 ^ 32 ≤ (s.line ln).ep.seq → Gives (.sequenceExhausted ln) s fun t =>
      (t.part p).anclost = true ∧ (t.part p).cairnDue = true ∧ (t.part p).ended = true ∧ Kept s t ∧
      (∀ gid g, s.grid gid = some g → t.grid gid = some (if g.part = p then { g with anclost := true } else g)) ∧
      ∀ k < 25, ∀ y, x.recs.get? k = some y → y.ended = false → (recorder t p k).ended = true ∧
        ∃ r, (recorder t p k).recs.getLast? = some (r, s.mgmt.gts) ∧ recKind r = 0xC ∧ fieldOf r 77 74 = 2) ∧
  (∀ k, (k = 24 → x.lpages.length < 12) → 252 ≤ (recorder s p k).recs.length → x.rrctl.getLsbD 0 = true → x.rrTail - x.rrCairn < ringPages s p → s.mem.wf = true →
    Gives (.recorderBufferFree p k) s fun t =>
      let a := pageAddr s p x.rrTail
      (t.part p).rrTail = x.rrTail + 1 ∧ (recorder t p k).recs = (recorder s p k).recs.drop 252 ∧
      t.mem.readN (a + 6) 2 = 0xCA1E ∧ t.mem.readN (a + 2) 2 = 252 ∧
      (∀ i < 252, ∀ r, (recorder s p k).recs[i]? = some r → t.mem.readN (a + 64 + 16 * i) 16 = r.1.toNat) ∧
      ∀ b, b < a ∨ a + 4096 ≤ b → t.mem.read b = s.mem.read b) ∧
  (∀ q r, twinOf s p = some q → q ≠ p → x.twpg < x.rrTail → s.replaying q = true → (s.part q).replay = some r →
    let read := pageRead s p x.twpg
    let bytes := pageBytes read p x.twpg
    let lost := (List.range 32).any fun i => linePoison read (lineOf (pageAddr read p x.twpg) + i)
    let page := if lost then none else pageRecords bytes
    (∀ y, page = some y → anchorOf y.2.2.1 = none ∨ anchorOf y.2.2.1 = some (s.part q).cairn) → Gives (.twinPageConsumed p) s fun t =>
      (t.part p).twpg = x.twpg + 1 ∧ Kept s t ∧ t.mem = read.mem ∧ ∃ r1, (t.part q).replay = some r1 ∧
        match page with
        | none => r1 = { r with bad := twinRecorder s p q (pageRecorder bytes lost) :: r.bad }
        | some y => r1.launches = r.launches ++ y.2.2.2 ∧ r1.bad = r.bad ∧ ∀ f, s.fib f = none →
          r1.logs.getD f [] = r.logs.getD f [] ++ (y.2.2.1.map (twinRec s p q)).filter fun z => recFibre z == f &&
            !([9, 0xA, 0xC].contains (recKind z) || (recKind z == 7 && fieldOf z 65 62 == 3))) ∧
  (∀ r, x.replay = some r → logOver s p = true → Gives (.replayLogEnd p) s fun t =>
    (t.part p).halted = true ∧ (t.part p).replay = none ∧ (t.part p).nextMode = some r.prior ∧
      ∀ f, (t.fib f).map Fibre.regs = (s.fib f).map Fibre.regs) ∧
  (let n := x.urTail - x.urEpst
   let at_ := fun (i : Nat) => undoAddr s p (x.urEpst + i)
   let ln := fun (i : Nat) => s.mem.readN (at_ i) 8 % 2 ^ 34
   x.replayDue = none → x.urState = .restoring → s.mem.wf = true → (∀ i < n, entryBad s p (x.urEpst + i) = false) →
   (∀ l, mdState (s.md l) < 3 ∧ (s.md l).getLsbD 15 = false ∧ s.hbm.errs.get? l = none ∧ s.hbm.remapErr.get? l = none) →
   (∀ i < n, (region s (ln i * 128 / 2 ^ 29)).getLsbD 62 = false) →
   (∀ i j, i < n → j < n → (ln i + 1) * 128 ≤ at_ j ∨ at_ j + 144 ≤ ln i * 128) → (∀ i j, i < n → j < n → ln i = ln j → i = j) →
   (∀ gid g, s.grid gid = some g → g.part = p → g.abort.isSome = true → g.relaunch < fieldOf x.urctl 1 0) → (s.grids.map (·.1)).Nodup →
   Gives (.restoreComplete p) s fun t =>
     (∀ i < n, t.mem.readN (ln i * 128) 128 = s.mem.readN (at_ i + 16) 128) ∧
     (∀ b, (∀ i < n, b / 128 ≠ ln i) → t.mem.read b = s.mem.read b) ∧
     (∀ k ∈ s.coresOf p, (t.core k).l1 = []) ∧ (t.part p).urState = .guarded ∧ (t.part p).urTail = x.urEpst ∧
     ∀ gid g, s.grid gid = some g → g.part = p → g.abort.isSome = true → ∃ g1, t.grid gid = some g1 ∧ g1.abort = none ∧ g1.placed = 0 ∧
       g1.teamsEnd = 0 ∧ g1.relaunch = g.relaunch + 1 ∧ g1.packet = g.packet ∧ g1.kdesc = g.kdesc) ∧
  Gives (.epochScrub p) s fun t =>
    let e := x.urEpoch.toNat
    (t.part p).scrubbed = true ∧ t.mem = s.mem ∧ ∀ ln, mdState (t.md ln) = mdState (s.md ln) ∧ mdPoison (t.md ln) = mdPoison (s.md ln) ∧
      (t.line ln).ep = (s.line ln).ep ∧ (mdEpoch (t.md ln) =
        if isRemote ln = false ∧ fieldOf (region s (ln * 128 / 2 ^ 29)) 61 59 = p ∧ mdEpoch (s.md ln) = (e + 1) % 4
        then (e + 3) % 4 else mdEpoch (s.md ln))

/-! ### Coherence and main memory (R220, R328-R331, R336-R338, R350, R351, R368) -/

/-- R217, R220, R329 to R331, R336 to R338, R350, R351, R368: requests of other devices and of hosts at a line's home slice follow the table of states,
outside the recording modes for those of devices: the messages that a request needs go out first, and it waits; one of no member of the group is served and the metadata stays. A host reads and writes backed
memory, its writes held while a partition records. A copy is dropped and acknowledged, a device's lost copies are struck out, an evicted L1 line is
written back. A page is recompressed when its sectors fit; a row at the threshold is refreshed round, and its bank held. -/
def Obligations.CoherenceEvents : Prop := ∀ s ln,
  let plainAt := fieldOf (region s (ln * 128 / 2 ^ 29)) 61 59
  let line := s.md ln
  let remote := AtHome s ln ∧ s.recording plainAt = false ∧ s.replaying plainAt = false
  let puts := fun (t : State) (data : BitVec 1024) (mask : BitVec 128) => ∀ i < 128,
    (mask.getLsbD i = true → t.mem.read (ln * 128 + i) = data.extractLsb' (8 * i) 8) ∧
    (mask.getLsbD i = false → mdState line < 3 → t.mem.read (ln * 128 + i) = s.mem.read (ln * 128 + i))
  let first := fun (who : LineReq) (u : LineUse) => asker s ln = none ∧ lineWaits s ln who u = true
  let settled := fun (who : LineReq) (u : LineUse) => lineWaits s ln who u = false
  (∀ d f g coh order, d < 0x1FF → remote →
    (cachedFor s g coh d = true →
      (settled (.dev d) (.dev d false) → Gives (.coherenceRead ⟨d, f, order⟩ ln ⟨g, coh⟩) s (Decides s · ln (.devRead d))) ∧
      (first (.dev d) (.dev d false) → Gives (.coherenceRead ⟨d, f, order⟩ ln ⟨g, coh⟩) s (Asks s · ln (.dev d) (.devRead d))) ∧
      (settled (.dev d) (.dev d true) → Gives (.coherenceOwnership ⟨d, f, order⟩ ln ⟨g, coh⟩) s (Decides s · ln (.devOwn d))) ∧
      (first (.dev d) (.dev d true) → Gives (.coherenceOwnership ⟨d, f, order⟩ ln ⟨g, coh⟩) s (Asks s · ln (.dev d) (.devOwn d)))) ∧
    (cachedFor s g coh d = false → Gives (.coherenceRead ⟨d, f, order⟩ ln ⟨g, coh⟩) s (fun t => t.mem = s.mem ∧ (∀ n, t.md n = s.md n) ∧
        t.mgmt.remoteOut = s.mgmt.remoteOut) ∧
      exec (.coherenceOwnership ⟨d, f, order⟩ ln ⟨g, coh⟩) s = .next s) ∧
    ∀ data mask, let owns := mdOwner line = d ∧ (mdState line = 4 ∨ mdState line = 3)
      (Plain s ln → owns ∨ settled (.dev d) (.home true) → Gives (.coherenceWriteback ⟨d, f, order⟩ ln data mask) s fun t =>
        puts t data mask ∧ t.mgmt.remoteOut = s.mgmt.remoteOut ∧ (mdState (t.md ln), mdOwner (t.md ln)) =
          (if mdState line = 4 ∧ mdOwner line = d then (0, 0) else if mdState line = 3 ∧ mdOwner line = d then (1, 0x1FF)
           else if mask = 0 then (mdState line, mdOwner line) else dirNext (mdState line) (mdOwner line) .homeWrite) ∧
        mdPoison (t.md ln) = (mdPoison line && mask != BitVec.allOnes 128)) ∧
      (¬ owns → first (.dev d) (.home true) →
        Gives (.coherenceWriteback ⟨d, f, order⟩ ln data mask) s (Asks s · ln (.dev d) .homeWrite))) ∧
  (∀ d, (mdState line = 2 → mdOwner line = d → exec (.evictionNotice d ln) s = .next (s.setMd ln 0 0)) ∧
    (¬ (mdState line = 2 ∧ mdOwner line = d) → exec (.evictionNotice d ln) s = .next s)) ∧
  (∀ d, Gives (.lostCopiesNotice d) s fun t => t.mem = s.mem ∧ (isRemote ln = false → mdOwner line = d →
      (mdState line = 3 ∨ mdState line = 4 → mdState (t.md ln) = 0 ∧ mdPoison (t.md ln) = true) ∧
      (mdState line = 1 ∨ mdState line = 2 → mdState (t.md ln) = 0 ∧ mdPoison (t.md ln) = mdPoison line)) ∧
    (mdOwner line ≠ d ∨ mdState line = 0 ∨ mdState line = 5 → t.md ln = line)) ∧
  (∀ h n, let far := (h + 1) * 2 ^ 34 + n
    let dropped := fun (t : State) => (t.line far).own = [] ∧ (t.line far).inL3 = false ∧ t.mgmt.remoteOut = s.mgmt.remoteOut ++ [(3, far, [h])]
    Gives (.invalidation h n) s (fun t => dropped t ∧ t.mem = s.mem ∧ t.cores = s.cores) ∧
    (∀ k m, (s.line far).own = [⟨k, m⟩] → s.mem.wf = true → reachable s h = true → n < 2 ^ 34 → Gives (.recallLine h n) s fun t =>
      dropped t ∧ (t.l1 k far).dirty = 0 ∧ ∀ i < 128, t.mem.read (far * 128 + i) =
        if (s.l1 k far).dirty.getLsbD i then (s.l1 k far).data.extractLsb' (8 * i) 8 else s.mem.read (far * 128 + i))) ∧
  (∀ k, Takes s k ln → Gives (.l1Eviction k ln) s fun t =>
    t.l1 k ln = L1Line.empty ∧ (∀ j n, (j, n) ≠ (k, ln) → t.l1 j n = s.l1 j n) ∧
    (∀ a, t.mem.read a = if a / 128 = ln ∧ (s.l1 k ln).dirty.getLsbD (a % 128) = true
      then (s.l1 k ln).data.extractLsb' (8 * (a % 128)) 8 else s.mem.read a) ∧
    ((s.l1 k ln).dirty ≠ 0 → ∃ r ∈ (t.line ln).own, r.core = k ∧ wordMask (s.l1 k ln).dirty &&& ~~~ r.mask = 0)) ∧
  (∀ p a len, p < 2 → a / 128 = ln → pageHeld s ln = false →
    (backed s ln = false → Gives (.hostMemRead p a len) s fun t => t.mgmt.hostPoison = true ∧ { t with mgmt := s.mgmt } = s) ∧
    (backed s ln = true → AtHome s ln → first (.host p) (.host p false) → Gives (.hostMemRead p a len) s (Asks s · ln (.host p) (.hostRead p))) ∧
    (backed s ln = true → AtHome s ln → settled (.host p) (.host p false) → Gives (.hostMemRead p a len) s fun t => Decides s t ln (.hostRead p) ∧
      t.mgmt.hostPoison = (mdPoison line || fenced s ln) ∧ (mdState line < 3 → t.mgmt.hostData =
        ((natBytes 128 (match confOf s ln with
          | some c => Config.lineCipher c ln (memLine s ln)
          | none => memLine s ln).toNat).drop (a % 128)).take len))) ∧
  (∀ p a data, a / 128 = ln → pageHeld s ln = false →
    let put := exec (.hostMemWrite p a data) s
    let own := exec (.hostCacheOwnership p ln) s
    (hostHolds s ln = true → backed s ln = true →
      put = .next { s with mgmt := { s.mgmt with hostHeld := s.mgmt.hostHeld ++ [⟨p % 2, a, data, false⟩] } } ∧
      own = .next { s with mgmt := { s.mgmt with hostHeld := s.mgmt.hostHeld ++ [⟨p % 2, ln * 128, [], true⟩] } }) ∧
    let at_ := settled (.host (p % 2)) (.host (p % 2) true)
    (backed s ln = false ∨ (hostHolds s ln = false ∧ confOf s ln ≠ none ∧ at_) →
      put = .next { s with mgmt := { s.mgmt with hostError := true } } ∧ own = put) ∧
    (hostHolds s ln = false → backed s ln = true → confOf s ln = none → AtHome s ln →
      (first (.host (p % 2)) (.host (p % 2) true) → Gives (.hostMemWrite p a data) s (Asks s · ln (.host (p % 2)) (.hostTake (p % 2))) ∧
        Gives (.hostCacheOwnership p ln) s (Asks s · ln (.host (p % 2)) (.hostTake (p % 2)))) ∧
      (fenced s ln = true → at_ → Gives (.hostMemWrite p a data) s fun t => t.mem = s.mem ∧ t.mgmt.hostError = false ∧ ∀ n, t.md n = s.md n) ∧
      (Plain s ln → at_ →
        Gives (.hostCacheOwnership p ln) s (fun t => Decides s t ln (.hostTake (p % 2)) ∧ ln ∈ t.mgmt.hostOwned ∧ t.mgmt.hostError = false) ∧
        Gives (.hostMemWrite p a data) s fun t => Decides s { t with ops := s.ops } ln (.hostTake (p % 2)) ∧
          t.ops.map Op.bare = s.ops.map Op.bare ∧ ln ∉ t.mgmt.hostOwned ∧ t.mgmt.hostError = false ∧
          puts t (BitVec.ofNat 1024 (bytesNat (data.take (128 - a % 128)) * 2 ^ (8 * (a % 128))))
            (byteMask (a % 128) (min data.length (128 - a % 128)))))) ∧
  (∀ page l, s.hbm.cheld.get? page = some l → s.hbm.cstuck.get? page = none →
    let p := lineRegionPart s (page * 512)
    let m := heldApplied s.mem l
    let lens := (List.range 256).map fun i => sectorLen (BitVec.ofNat 2048 (m.readN (page * 65536 + 256 * i) 256))
    ((lens.map spillUnits).sum ≤ 240 → Gives (.pageRecompress p page) s fun t => t.mem = m ∧ t.hbm.cheld.get? page = none ∧
      ∃ d, t.hbm.cdir.get? page = some d ∧ d.map (·.1) = lens) ∧
    (240 < (lens.map spillUnits).sum → Gives (.pageRecompress p page) s fun t => (t.hbm.cstuck.get? page).isSome = true ∧ t.hbm.cheld.get? page ≠ none)) ∧
  (∀ b r, b < 16384 → r < 98304 →
    let k := s.stack (b / 1024)
    let n := b * 2 ^ 17 + r
    (fieldOf k.rmth 15 0 ≤ s.hbm.acts.getD n 0 + 1 → Gives (.rmThreshold b r) s fun t =>
      let y := t.stack (b / 1024)
      t.hbm.acts.getD n 0 = 0 ∧ (∀ m, m ≠ n → t.hbm.acts.getD m 0 = s.hbm.acts.getD m 0) ∧ t.hbm.openRow.get? b = none ∧
      t.hbm.bankHold.get? b = some (s.clock + fieldOf k.rmint 11 0) ∧ y.rmcnt = k.rmcnt + 1 ∧ y.alert.getLsbD 63 = true ∧
      (k.alert.getLsbD 63 = true → y.alert = k.alert ||| 0x4000000000000000#64 ∧ t.mgmt = s.mgmt) ∧
      (k.alert.getLsbD 63 = false → fieldOf y.alert 61 57 = b / 32 % 32 ∧ fieldOf y.alert 56 56 = b / 16 % 2 ∧ fieldOf y.alert 55 52 = b % 16 ∧
        fieldOf y.alert 51 35 = r ∧ y.alert.getLsbD 62 = k.alert.getLsbD 62 ∧
        t.mgmt.msix = s.mgmt.msix ++ (if k.rmctl.getLsbD 16 then [(0, fieldOf k.rmctl 15 0)] else []))) ∧
    (s.hbm.acts.getD n 0 + 1 < fieldOf k.rmth 15 0 → exec (.rmThreshold b r) s =
      .next { s with hbm := { s.hbm with acts := s.hbm.acts.set n (s.hbm.acts.getD n 0 + 1), openRow := s.hbm.openRow.set b r } }) ∧
    (Gives (.periodicRefresh b r) s fun t => t.hbm.acts.getD n 0 = 0 ∧ (∀ m, m ≠ n → t.hbm.acts.getD m 0 = s.hbm.acts.getD m 0) ∧
      { t with hbm := { t.hbm with acts := s.hbm.acts } } = s) ∧
    ∀ t0, s.hbm.bankHold.get? b = some t0 → t0 ≤ s.clock → Gives (.rmHoldEnd b) s fun t => t.hbm.bankHold.get? b = none ∧
      { t with hbm := { t.hbm with bankHold := s.hbm.bankHold } } = s) ∧
  ∀ p a, exec (.h2dSnoop p a) s = .next { s with mgmt := { s.mgmt with remoteOut := s.mgmt.remoteOut ++ [(4, a / 64 * 2 + p % 2, [])] } }

/-! ### Commands of handlers and debuggers (R273-R277, R313) -/

/-- R39, R273 to R277: commands for one fibre answer with their statuses, 1 where none is bound there. RESUME and SKIP make a Frozen fibre Ready, SKIP past
the faulting word, but for 0x0A; STEP runs one lane, and at its end the fibre is as it was; RDREG reads and WRREG writes a register of each class; INTR marks a fibre. -/
def Obligations.FibreCommands : Prop :=
  (∀ s fid l sel x, fibreCtxs s fid = [] →
    ∀ i ∈ [Instr.resume fid, .skip fid, .step fid l, .rdreg fid sel l, .wrreg fid sel l x, .intr fid false],
      exec i s = .next (Answered s (if fid < 9216 then 1 else 4))) ∧
  ∀ s fid f, Commands s fid f →
  let p := s.partOf fid
  let says_ := fun (i : Instr) (st : Nat) => exec i s = .next (Answered s st)
  let may := f.sched ≠ .frozen ∧ f.halted = false
  let woken := fun (x : Fibre) => { x with sched := .ready, readyAt := s.clock, frozen := none, halted := (s.part p).halted, wait := none, drowsy := false }
  (f.sched = .frozen → exec (.resume fid) s = .next (Answered (s.modFib fid woken) 0)) ∧ (f.sched ≠ .frozen → says_ (.resume fid) 1) ∧
  (∀ z, f.frozen = some z →
    (f.sched = .frozen → z.sync = true → z.cause = 0x0A → exec (.skip fid) s = exec (.resume fid) s) ∧
    (f.sched = .frozen → z.sync = true → z.cause ≠ 0x0A → Gives (.skip fid) s fun t => ∃ x, t = Answered { s with fibres := t.fibres } 0 ∧
      (∀ g, g ≠ fid → t.fib g = s.fib g) ∧ t.fib fid = some x ∧ x = woken { f with lanes := x.lanes } ∧
      ∀ l, ((x.lane l).pc, (x.lane l).word) = if inMask z.lanes l then (if z.after = 16 then (z.clause + 64, 1) else (z.clause, z.after))
        else ((f.lane l).pc, (f.lane l).word)) ∧
    (f.sched ≠ .frozen ∨ z.sync = false → says_ (.skip fid) 1)) ∧
  (∀ l : Fin 32, let may := f.sched = .frozen ∨ (f.halted = true ∧ (s.part p).halted = true)
    (¬ may → says_ (.step fid l.val) 1) ∧ (may → (f.lane l).live = false → says_ (.step fid l.val) 4) ∧
    (may → (f.lane l).live = true → heldCode f l = 0 → Gives (.step fid l.val) s fun t => t.mgmt.status = 0 ∧
      (∀ r, s.mgmt.reply = some r → t.mgmt.reply = none ∧ t.mgmt.stepReplies.get? fid = some r) ∧
      ∃ x, t.fib fid = some x ∧ x.step = some ⟨l.val, false, s.nextOp, f.halted, f.sched⟩ ∧ x.sched = .running ∧ x.halted = false ∧
        x.run = none ∧ x.regs = f.regs ∧ x.lanes = f.lanes ∧ x.ric = f.ric) ∧
    (may → (f.lane l).live = true → heldCode f l ≠ 0 → Gives (.step fid l.val) s fun t => t.mgmt.status = 5 ∧
      ∃ x, t.fib fid = some x ∧ x.sched = f.sched ∧ x.step = f.step ∧ x.lanes = f.lanes ∧ x.ric = f.ric)) ∧
  (∀ t0, f.step = some t0 → f.liveMask ≠ 0 →
    let held := heldCode f (Fin.ofNat 32 t0.lane)
    let code := if t0.issued ∨ held ≠ 0 then held else waitCode (s.replaying p) f.wait
    (if t0.issued then stepOpsDone s fid t0 = true else code ≠ 0) → Gives (.stepComplete fid) s fun t =>
      (∃ x, t.fib fid = some x ∧ x.step = none ∧ x.lanes = f.lanes ∧ x.ric = f.ric ∧ x.halted = t0.wasHalted ∧
        x.sched = if t0.wasHalted then (if t0.back = .waiting then .ready else t0.back) else .frozen) ∧
      ∀ c tag, s.mgmt.stepReplies.get? fid = some (.port c tag) → t.mgmt.stepReplies.get? fid = none ∧
        ∃ b, t.mgmt.sent = s.mgmt.sent ++ [b] ∧ (b.drop 2).take 6 = natBytes 2 tag ++ natBytes 4 (if code = 0 then 0 else 5)) ∧
  (∀ (l : Fin 32) (n : Nat), let reads := fun (c : RegClass) (v : Nat) => exec (.rdreg fid ⟨c, n⟩ l.val) s = .next (Answered s 0 (BitVec.ofNat 64 v))
    (n < 128 → f.hasReg n = true → reads .v (readLane s fid n l).toNat) ∧ (n < 8 → reads .p (if inMask (f.readP n) l then 1 else 0)) ∧
    (n < 64 → reads .s (f.readS n).toNat) ∧ (n < 16 → reads .b (vget f.b n 0).toNat) ∧
    (n < 12 → reads .cf ((if f.cfErr.getLsbD n then 2 else 0) + if s.cfPending fid n then 1 else 0)) ∧
    (n < 2 → exec (.rdreg fid ⟨.q, n⟩ l.val) s = .next (Answered s 0 0 (natBytes 40 (vget f.q n (lanesOf 0))[l].toNat))) ∧
    reads .fpstat f.fpstat.toNat ∧ reads .ric f.ric.toNat ∧ reads .pc ((f.lane l).pc.toNat + 4 * (f.lane l).word) ∧
    (f.hasReg n = false → says_ (.rdreg fid ⟨.v, n⟩ l.val) 4) ∧ ∀ sel k, 32 ≤ k → says_ (.rdreg fid sel k) 4) ∧
  (∀ (l : Fin 32) (n : Nat) (x : BitVec 320), let i := fun (c : RegClass) => Instr.wrreg fid ⟨c, n⟩ l.val x
    let puts := fun (c : RegClass) (g : Fibre) => exec (i c) s = .next (Answered { s with fibres := s.fibres.adj fid fun _ => g } 0)
    (may → ∀ c, says_ (i c) 1) ∧ (¬ may → s.inReplayMode p = true → ∀ c, says_ (i c) 2) ∧
    (¬ may → s.inReplayMode p = false →
      (n < 128 → f.hasReg n = true → Gives (i .v) s fun t => t.mgmt = (Answered s 0).mgmt ∧ Only s t fid { v := [n] } ∧
        (readReg t fid n).tag = .g ∧ ∀ k, readLane t fid n k = if k = l then x.setWidth 32 else readLane s fid n k) ∧
      (n < 7 → Gives (i .p) s fun t => t.mgmt = (Answered s 0).mgmt ∧ Only s t fid { p := [n] } ∧ ∃ y, t.fib fid = some y ∧
        ∀ k, inMask (y.readP n) k = if k = l then x.getLsbD 0 else inMask (f.readP n) k) ∧
      (n < 64 → Gives (i .s) s fun t => t.mgmt = (Answered s 0).mgmt ∧ Only s t fid { s := [n] } ∧ ∃ y, t.fib fid = some y ∧
        y.readS n = if n = 0 then 0 else x.setWidth 64) ∧
      (n < 16 → puts .b { f with b := vset f.b n (x.setWidth 24 &&& 0xEFFFFF#24) }) ∧
      (n < 12 → Gives (i .cf) s fun t => t.mgmt = (Answered s 0).mgmt ∧ Only s t fid { flags := true } ∧ ∃ y, t.fib fid = some y ∧
        ∀ k < 12, y.cfErr.getLsbD k = if k = n then x.getLsbD 1 else f.cfErr.getLsbD k) ∧
      (n < 2 → Gives (i .q) s fun t => t.mgmt = (Answered s 0).mgmt ∧ Only s t fid { q := [n] } ∧ ∃ y, t.fib fid = some y ∧
        ∀ k : Fin 32, (vget y.q n (lanesOf 0))[k] = if k = l then x else (vget f.q n (lanesOf 0))[k]) ∧
      (fieldOf x 319 12 = 0 → fieldOf x 2 0 < 5 → puts .fpstat { f with fpstat := x.setWidth 32 }) ∧
      says_ (i .ric) 0 ∧ (n = 7 → Gives (i .p) s fun t => Only s t fid {} ∧ t.mgmt = (Answered s 0).mgmt) ∧
      (fieldOf x 5 0 ≠ 0 → says_ (i .pc) 4) ∧ (f.hasReg n = false → says_ (i .v) 4) ∧
      (fieldOf x 5 0 = 0 → Gives (i .pc) s fun t => t.mgmt = (Answered s 0).mgmt ∧ Only s t fid {} ∧ ∃ y, t.fib fid = some y ∧ y.ric = f.ric ∧
        ∀ k, if k = l then (y.lane k).pc = x.setWidth 64 ∧ (y.lane k).word = 1 ∧ (y.lane k).live = (f.lane k).live else y.lane k = f.lane k))) ∧
  (s.inReplayMode p = true → says_ (.intr fid false) 2) ∧ (s.inReplayMode p = false → ¬ may → says_ (.intr fid false) 1) ∧
  (s.inReplayMode p = false → may → exec (.intr fid false) s = .next (Answered (s.modFib fid fun x => { x with intr := true }) 0))

/-- R273, R274, R277, R313, R362: commands for a partition or grid that their source may name. HALT marks a partition halted; UNHALT returns its
fibres to the states they held, AGL to 32; TERMINATE aborts a grid with STATUS 0x30; INTR marks the fibres of a grid; REPLAY needs the last Cairn of
a capturing partition, whose grids it aborts. -/
def Obligations.PartitionCommands : Prop := ∀ s p,
  let x := s.part p
  let says_ := fun (i : Instr) (st : Nat) => exec i s = .next (Answered s st)
  (p < 8 → srcMayPart s p = true →
    exec (.halt p) s = .next (Answered (s.modPart p fun t => { t with halted := true }) 0) ∧ (x.halted = false → says_ (.unhalt p) 0) ∧
    (x.halted = true → Gives (.unhalt p) s fun t => t.mgmt = (Answered s 0).mgmt ∧ (t.part p).halted = false ∧ t.mem = s.mem ∧
      (∀ k ∈ s.coresOf p, (t.core k).agl = 32 ∧ ∀ ln, (t.l1 k ln).dirty = (s.l1 k ln).dirty) ∧
      ∀ k f, s.fib k = some f → t.fib k = some (if k ∈ s.fibresOf p then { f with halted := false } else f)) ∧
    ∀ (n : Nat) (fl : BitVec 64),
      let ok := fieldOf fl 63 2 = 0 ∧ x.cairnAt ≠ none ∧ x.cairn = n ∧ x.anclost = false ∧ (x.xdev = true → fl.getLsbD 0 = true) ∧
        (x.urState = .capture ∨ (x.urState = .guarded ∧ s.recording p = true))
      (¬ ok → says_ (.replay p n fl) 4) ∧
      (ok → Gives (.replay p n fl) s fun t => t.mgmt = (Answered s 0).mgmt ∧ t.mem = s.mem ∧ t.fibres = s.fibres ∧
        (∃ m, (t.part p).replayDue = some (fl.getLsbD 1, m) ∧ (s.inReplayMode p = false → m = x.mode)) ∧
        ((s.grids.map (·.1)).Nodup → ∀ gid g, s.grid gid = some g →
          t.grid gid = some (if g.part = p ∧ g.abort = none then { g with abort := some 0x30 } else g)))) ∧
  (8 ≤ p ∨ srcMayPart s p = false → says_ (.halt p) 4 ∧ says_ (.unhalt p) 4 ∧ ∀ n fl, says_ (.replay p n fl) 4) ∧
  ∀ h, (handleGrid s h = none → says_ (.terminate h) 4 ∧ says_ (.intr h true) 4) ∧
    ∀ gid g, handleGrid s h = some gid → s.grid gid = some g →
      (srcMay s g.vi = false → says_ (.terminate h) 4 ∧ says_ (.intr h true) 4) ∧
      (srcMay s g.vi = true → (Gives (.terminate h) s fun t => t.mgmt = (Answered s 0).mgmt ∧ t.mem = s.mem ∧ t.fibres = s.fibres ∧
          t.ops.map (·.id) = s.ops.map (·.id) ∧ t.grid gid = some (if g.abort = none then { g with abort := some 0x30 } else g)) ∧
        (confRefuses s g.vi = true → says_ (.intr h true) 3) ∧
        (confRefuses s g.vi = false → s.inReplayMode g.part = true → says_ (.intr h true) 2) ∧
        (confRefuses s g.vi = false → s.inReplayMode g.part = false → (s.part g.part).runVi = some g.vi →
          let mine := fun (k : Nat) (f : Fibre) => s.gridNo k = some gid ∧ f.sched ≠ .frozen ∧ f.halted = false
          ((∀ k f, s.fib k = some f → ¬ mine k f) → says_ (.intr h true) 1) ∧
          ((∃ k f, s.fib k = some f ∧ mine k f) → Gives (.intr h true) s fun t =>
            t = Answered { s with fibres := t.fibres } 0 ∧ ∀ k f, s.fib k = some f →
              (mine k f → t.fib k = some { f with intr := true }) ∧ (¬ mine k f → t.fib k = some f))))

/-! ### Management (R284, R291, R361-R366, R378-R382, R398, R399) -/

/-- R378, R380 to R382, R398, R399: counters and trace. A context's counters are totalled and read, its grant and PMCTL values set, its filter replaced
or read, all only for a source that may name it and a confidential one only through its session. Lantern takes one record of a core. -/
def Obligations.CounterCommands : Prop := ∀ s v, v < 64 →
  let says_ := fun (i : Instr) (st : Nat) => exec i s = .next (Answered s st)
  let x := s.vi v
  (srcMay s v = false → says_ (.ctrtot v) 4 ∧ (∀ g, says_ (.ctrgrant v g) 4) ∧ (∀ a n, says_ (.lanternLoad v a n) 4) ∧ says_ (.lanternRead v) 4 ∧
    (∀ a b c d, says_ (.ctrprog v a b c d) 4) ∧ ∀ a, says_ (.ctrread v a) 4) ∧
  (srcMay s v = true → confRefuses s v = true → (∀ a n, says_ (.lanternLoad v a n) 3) ∧ says_ (.lanternRead v) 3 ∧
    (∀ a b c d, says_ (.ctrprog v a b c d) 3) ∧ ∀ a, says_ (.ctrread v a) 3) ∧
  (srcMay s v = true → (Gives (.ctrtot v) s fun t => ∃ d, t = Answered s 0 0 d ∧ d.length = 96 ∧ ((s.part x.part).runVi = some v → ∀ n < 12,
      bytesNat ((d.drop (8 * n)).take 8) = ((s.coresOf x.part).map fun c => (vget (s.core c).leaves n 0).toNat).sum % 2 ^ 64)) ∧
    (s.conf v = true → ∀ g, says_ (.ctrgrant v g) 3) ∧
    (s.conf v = false → ∀ g, exec (.ctrgrant v g) s = .next (Answered (s.modCtx v fun c => { c with granted := g }) 0))) ∧
  (srcMay s v = true → confRefuses s v = false →
    (∀ a n, let prog := (List.range n).map fun i => BitVec.ofNat 32 (s.hostMem.readN (a + 4 * i) 4)
      (1 ≤ n → n ≤ 64 → filterOk prog = true → exec (.lanternLoad v a n) s =
        .next (Answered (s.modVi v fun y => { y with prog := prog, k := Vector.replicate 16 0 }) 0)) ∧
      (n = 0 ∨ 64 < n ∨ filterOk prog = false → says_ (.lanternLoad v a n) 4)) ∧
    exec (.lanternRead v) s = .next (Answered s 0 0 (x.k.toList.flatMap fun y => natBytes 8 y.toNat)) ∧
    (∀ a b c d, ([a, b, c, d].any pmctlBad = true → says_ (.ctrprog v a b c d) 4) ∧
      ([a, b, c, d].any pmctlBad = false →
        exec (.ctrprog v a b c d) s = .next (Answered (s.modCtx v fun c' => { c' with held := some [a, b, c, d] }) 0))) ∧
    ∀ a, (s.part x.part).runVi = some v → Gives (.ctrread v a) s fun t =>
      let n := (s.coresOf x.part).length
      t.mgmt.status = 0 ∧ t.mgmt.data.length = 64 * n ∧ { t with hostMem := s.hostMem, mgmt := s.mgmt } = s ∧
      (∀ i k, (s.coresOf x.part)[i]? = some k → let e := t.mgmt.data.drop (64 * i)
        bytesNat (e.take 8) = k % 2 ^ 64 ∧ (∀ j < 4, bytesNat ((e.drop (8 + 8 * j)).take 8) = (vget (s.core k).pmcnt j 0).toNat) ∧
          bytesNat ((e.drop 40).take 8) = (s.core k).issued.toNat) ∧
      (s.mgmt.reply = none → t.hostMem = s.hostMem.writeL a t.mgmt.data)) ∧
  ∀ k r rest, (s.core k).fifo = r :: rest → r.vi = v →
    let f := runFilter x.prog 64 0 ⟨r, Vector.replicate 8 0, x.k, 0, 0⟩
    let took := s.modCore k fun c => { c with fifo := rest }
    let tag := if x.prog = [] then 0 else f.1.tag
    (x.trcfg.getLsbD 0 = false → exec (.traceFilter k) s = .next took) ∧
    (x.trcfg.getLsbD 0 = true →
      (x.prog ≠ [] → f.2 = false → Gives (.traceFilter k) s fun t => (t.core k).fifo = rest ∧ (t.vi v).trTail = x.trTail ∧
        (t.vi v).trLost = x.trLost ∧ (t.vi v).k = f.1.k ∧ (t.vi v).trTrig = x.trTrig ||| f.1.trig ∧ t.mem = s.mem) ∧
      (x.prog = [] ∨ f.2 = true → ∀ t1, traceWrite took r tag = some t1 → Gives (.traceFilter k) s fun t =>
        (t.core k).fifo = (t1.core k).fifo ∧ (t.vi v).trTail = (t1.vi v).trTail ∧ t.mem = t1.mem ∧ (t.vi v).trLost = (t1.vi v).trLost) ∧
      (x.prog = [] ∨ f.2 = true → 2 ^ (fieldOf x.trcfg 11 8 + 4) ≤ (x.trTail - x.trHead).toNat →
        (x.trcfg.getLsbD 1 = true → exec (.traceFilter k) s = .next s) ∧
        (x.trcfg.getLsbD 1 = false → Gives (.traceFilter k) s fun t => (t.core k).fifo = rest ∧ (t.vi v).trLost = x.trLost + 1 ∧
          (t.vi v).trTail = x.trTail ∧ t.mem = s.mem)))

/-- R284, R291, R361 to R366: requests and configuration. A ring's TAIL and a datagram bring requests; a configuration register is read and written
under a mask, from PF0 only; entries of buffer tables and translations are dropped; manifests are stored and compared, reports signed, sessions opened, rows
remapped. -/
def Obligations.ManagementCommands : Prop := ∀ s,
  let says_ := fun (i : Instr) (st : Nat) => exec i s = .next (Answered s st)
  let mayAll := s.mgmt.src = .pf0 ∨ s.mgmt.src = .mgmt
  (∀ fn (x : BitVec 64), exec (.mrdbWrite fn x) s =
    .next { s with mgmt := { s.mgmt with rings := s.mgmt.rings.upd fn ReqRing.init fun r => { r with tail := x.setWidth 16 } } }) ∧
  (∀ b : List (BitVec 8),
    let field := fun (i n : Nat) => bytesNat ((b.drop i).take n)
    let pay := s.mgmt.frags.take (field 16 8) ++ b.drop 64
    (b.length < 64 ∨ 8256 < b.length → exec (.mgmtDatagram b) s = .next s) ∧
    (64 ≤ b.length → b.length ≤ 8256 →
      (pay.length < field 4 4 → exec (.mgmtDatagram b) s = .next { s with mgmt := { s.mgmt with frags := pay } }) ∧
      (field 4 4 ≤ pay.length → exec (.mgmtDatagram b) s = .next { s with
        mgmt := { s.mgmt with frags := [] }
        agenda := s.agenda ++ [.request .mgmt (field 0 2) (pay.take (field 4 4)) 0 (.port (field 0 2) (field 2 2))] }))) ∧
  (∀ space i, (cfgValue s space i = none → says_ (.cfgrd space i) 4 ∧ ∀ x m, says_ (.cfgwr space i x m) 4) ∧
    ∀ old, cfgValue s space i = some old →
      (cfgMay s space i = true → exec (.cfgrd space i) s = .next (Answered s 0 old)) ∧ (cfgMay s space i = false → says_ (.cfgrd space i) 4) ∧
      (mayAll → cfgMay s space i = true) ∧ (¬ mayAll → ∀ x m, says_ (.cfgwr space i x m) 2) ∧
      (mayAll → ∀ x m : BitVec 64, let y := (old &&& ~~~ m) ||| (x &&& m)
        (space = 0x10 → exec (.cfgwr space i x m) s = .next (Answered (s.modCtx i fun c => { c with bt := y &&& 0xFFFFFFFFFF01F#64 }) 0)) ∧
        (space = 0x11 → exec (.cfgwr space i x m) s = .next (Answered (s.modCtx i fun c => { c with pt := y &&& 0xFFFFFFFFFFFC0#64 }) 0)) ∧
        (space = 0x06 → exec (.cfgwr space i x m) s =
          .next (Answered (s.modStack i fun k => { k with rmth := BitVec.ofNat 64 (max 16 (fieldOf y 15 0)) }) 0)) ∧
        (space = 0x0E → Gives (.cfgwr space i x m) s fun t => t.mgmt.status = 0 ∧
          (t.part i).unprot = ((s.part i).unprot && !(x &&& m).getLsbD 1) ∧ (t.part i).urFail = ((s.part i).urFail && !(x &&& m).getLsbD 2)) ∧
        (space = 0x05 ∨ space = 0x0A ∨ space = 0x0B ∨ space = 0x0D → says_ (.cfgwr space i x m) 0) ∧
        (space = 0x00 → let p := s.part i
          let ok := 16 ≤ fieldOf y 13 8 ∧ fieldOf y 13 8 ≤ 40 ∧ (fieldOf y 2 0 = p.mode ∨ (fieldOf y 2 0 % 4 < 2 ∧ s.inReplayMode i = false))
          (¬ ok → says_ (.cfgwr space i x m) 2) ∧
          let pend := p.nextWd.getD (p.wdlog, p.qlog)
          let mode := if fieldOf m 2 0 = 0 ∨ s.inReplayMode i = true then p.nextMode.getD p.mode else fieldOf y 2 0
          let wq := (if fieldOf m 13 8 = 0 then pend.1 else fieldOf y 13 8, if fieldOf m 19 16 = 0 then pend.2 else fieldOf y 19 16)
          (ok → atBoundary s i = true → Gives (.cfgwr space i x m) s fun t => t.mgmt.status = 0 ∧ (t.part i).mode = mode ∧
            (t.part i).nextMode = none ∧ ((t.part i).wdlog, (t.part i).qlog) = wq) ∧
          (ok → atBoundary s i = false → Gives (.cfgwr space i x m) s fun t => t.mgmt.status = 0 ∧ (t.part i).mode = p.mode ∧
            (t.part i).nextMode.getD p.mode = mode ∧ ((t.part i).wdlog, (t.part i).qlog) = (p.wdlog, p.qlog) ∧
            (t.part i).nextWd.getD (p.wdlog, p.qlog) = wq)))) ∧
  (∀ c first n, (c < 65536 → srcMay s c = true →
      (btBusy s c first n = true → exec (.btinval c first n) s = .next s) ∧
      (btBusy s c first n = false → Gives (.btinval c first n) s fun t => t.mgmt = (Answered s 0).mgmt ∧ { t with cores := s.cores, mgmt := s.mgmt } = s ∧
        ∀ k, (t.core k).btc = (s.core k).btc.filter fun e => !decide (c * 2 ^ 20 + first ≤ e.1 ∧ e.1 < c * 2 ^ 20 + min (first + n) (2 ^ 20))) ∧
      (s.hbm.cstuck = [] → Gives (.tlbinval c first n) s fun t => t.mgmt = (Answered s 0).mgmt ∧ t.mem = s.mem ∧
        ∀ k e, e ∈ (t.core k).tlb ↔ e ∈ (s.core k).tlb ∧ ¬ (e.ctx = c ∧ (n = 0 ∨
          let size := if e.big then 2 ^ 29 else 2 ^ 16
          e.page * size < first + n ∧ first < e.page * size + size)))) ∧
    (65536 ≤ c ∨ srcMay s c = false → says_ (.btinval c first n) 4 ∧ says_ (.tlbinval c first n) 4)) ∧
  exec .info s = .next (Answered s 0 (Config.infoWord (s.fabric.device + 320 * s.mgmt.fwVersion))) ∧
  (∀ b : List (BitVec 8), let n := b.length - 5716
    let fits := 5716 ≤ b.length ∧ n % 24 = 0 ∧ n ≤ 24576 ∧ s.mgmt.manifests.length < 16
    (¬ mayAll → says_ (.storeManifest b) 2) ∧ (mayAll → ¬ fits → says_ (.storeManifest b) 4) ∧
    (mayAll → fits → s.mgmt.ownerKey = false ∨ Config.signatureValid 1 b = false → says_ (.storeManifest b) 6) ∧
    (mayAll → fits → s.mgmt.ownerKey = true → Config.signatureValid 1 b = true → exec (.storeManifest b) s =
      .next (Answered { s with mgmt := { s.mgmt with manifests := s.mgmt.manifests ++ [b.take n] } } 0 (BitVec.ofNat 64 s.mgmt.manifests.length)))) ∧
  (∀ i, (s.mgmt.manifests[i]? = none → says_ (.compareManifest i) 4) ∧ ∀ m, s.mgmt.manifests[i]? = some m →
    let n := m.length / 24
    ((∀ j < n, entryDiffers s m j = false) → exec (.compareManifest i) s = .next (Answered s 0 0xFFFFFFFF#64)) ∧
    ∀ j < n, entryDiffers s m j = true → (∀ k < j, entryDiffers s m k = false) → exec (.compareManifest i) s = .next (Answered s 0 (BitVec.ofNat 64 j))) ∧
  (∀ (x : BitVec 256) p a, (8 ≤ p → says_ (.attest x p a) 4) ∧ (p < 8 → 2 ^ 40 ≤ s.mgmt.hssCount → says_ (.attest x p a) 7) ∧
    (p < 8 → s.mgmt.hssCount < 2 ^ 40 → Gives (.attest x p a) s fun t => ∃ r : List Byte, r.length = 256 ∧
      (r.drop 4).take 32 = natBytes 32 x.toNat ∧ (r.drop 36).take 4 = natBytes 2 s.fabric.device ++ natBytes 2 p ∧
      (let d := r ++ Config.hssSign s.mgmt.hssCount r ++ Config.kemKey
       t.mgmt = { s.mgmt with status := 0, result := 0, data := d, hssCount := s.mgmt.hssCount + 1 } ∧ (s.mgmt.reply = none → t.hostMem = s.hostMem.writeL a d)))) ∧
  (∀ c ct, let ok := srcMay s c = true ∧ s.conf c = true ∧ Config.kemAccepts ct = true
    (¬ ok → says_ (.openSession c ct) 4) ∧ (ok → Gives (.openSession c ct) s fun t => t.mgmt.status = 0 ∧ t.mgmt.result = BitVec.ofNat 64 s.mgmt.nextSess ∧
      t.mgmt.sessions.get? s.mgmt.nextSess = some c ∧ (t.ctx c).session = some s.mgmt.nextSess ∧ t.mgmt.nextSess = s.mgmt.nextSess + 1)) ∧
  ∀ ch pc b r, let ok := ch < 512 ∧ pc < 2 ∧ b < 16 ∧ r < 98304
    let k := s.stack (ch / 32)
    let full := 64 ≤ (k.remap.filter fun e => e.1 == ch).length
    (¬ mayAll → says_ (.remapAdd ch pc b r) 2) ∧ (mayAll → ¬ ok → says_ (.remapAdd ch pc b r) 4) ∧ (mayAll → ok → full → says_ (.remapAdd ch pc b r) 2) ∧
    (mayAll → ok → ¬ full → Gives (.remapAdd ch pc b r) s fun t => ∃ spare < 2 ^ 17, t.mgmt.status = 0 ∧
      t.mgmt.result = BitVec.ofNat 64 spare ∧ (t.stack (ch / 32)).remap = k.remap ++ [(ch, pc, b, r, spare)] ∧
      ((∀ ln, s.hbm.errs.get? ln = none ∧ mdState (s.md ln) < 6 ∧ (s.md ln).getLsbD 15 = false) →
        t.mem = s.mem ∧ ∀ n, n ≠ ch / 32 → t.stack n = s.stack n))

/-! ### The device as a whole (R9, R271, R338, R348, R352, R354, R360, R364, R367-R370, R380) -/

/-- R9, R271, R272, R295, R338, R348, R352, R354, R360, R364, R367 to R370, R380: resets, power states, links, time, and the CXL.io registers by their
access codes. -/
def Obligations.DeviceEvents : Prop := ∀ s,
  let says_ := fun (i : Instr) (st : Nat) => exec i s = .next (Answered s st)
  let mayAll := s.mgmt.src = .pf0 ∨ s.mgmt.src = .mgmt
  let started := fun (t : State) => Emptied s t ∧ t.mgmt.power = .ps0 ∧ t.mgmt.bootErr = s.mgmt.fwBad
  Gives .coldReset s started ∧ Gives .thermalTrip s (fun t => Emptied s t ∧ t.mgmt.power = .ps4 ∧ t.mgmt.hssCount = s.mgmt.hssCount) ∧
  (Gives .powerLoss s fun t => Emptied s t ∧ t.mgmt.power = .ps4 ∧ t.mgmt.fwWords = s.mgmt.fwWords ∧
    (t.mgmt.hssCount = s.mgmt.hssCount ∨ t.mgmt.hssCount = min (2 ^ 40) (s.mgmt.hssCount + 1))) ∧
  (Gives .thermalWarning s fun t => ∃ n, n < 2 ^ 16 ∧
    t = { s with free := s.free + 1, mgmt := { s.mgmt with msix := s.mgmt.msix ++ [(0, n)] } }) ∧
  (mayAll → Gives .warmReset s fun t => Warmed s t ∧ t.mgmt.status = 0) ∧ (¬ mayAll → says_ .warmReset 2) ∧
  (∀ p, (p < 2 → Gives (.cxlHotReset p) s (Warmed s)) ∧ (2 ≤ p → exec (.cxlHotReset p) s = .next s)) ∧
  (∀ n, let to_ := fun (t : State) (p : Power) => t.mgmt.power = p ∧ t.mgmt.status = 0 ∧ t.mgmt.result = BitVec.ofNat 64 n
    (¬ mayAll → says_ (.powerState n) 2) ∧ (mayAll → 4 < n → says_ (.powerState n) 4) ∧
    (mayAll → n = 4 → s.mgmt.power = .ps4 → exec (.powerState n) s = .next (Answered s 0 4)) ∧
    (mayAll → n < 4 → s.mgmt.power = .ps4 → Gives (.powerState n) s fun t => Emptied s t ∧ to_ t (powerOf n)) ∧
    (mayAll → s.mgmt.power ≠ .ps4 →
      (n = 3 ∨ n = 4 → s.grids ≠ [] → says_ (.powerState n) 2) ∧
      (n = 4 → s.grids = [] → Gives (.powerState n) s fun t => Emptied s t ∧ to_ t .ps4) ∧
      (n = 3 → s.grids = [] → Gives (.powerState n) s fun t => Warmed s t ∧ to_ t .ps3) ∧
      (n < 3 → s.mgmt.power = .ps3 → Gives (.powerState n) s fun t => Warmed s t ∧ to_ t (powerOf n)) ∧
      (n < 3 → s.mgmt.power ≠ .ps3 → Gives (.powerState n) s fun t => to_ t (powerOf n) ∧ { t with mgmt := s.mgmt } = s))) ∧
  (∀ b : List (BitVec 8), (¬ mayAll → says_ (.fwUpdate b) 2) ∧ (mayAll → b.length < 5716 → says_ (.fwUpdate b) 4) ∧
    (mayAll → 5716 ≤ b.length → Config.signatureValid 0 b = false → says_ (.fwUpdate b) 6) ∧
    (mayAll → 5716 ≤ b.length → Config.signatureValid 0 b = true → exec (.fwUpdate b) s =
      .next (Answered { s with mgmt := { s.mgmt with fwImage := some (b.take (b.length - 5716)), ownerKey := true } } 0))) ∧
  (∀ v (x : BitVec 64), let log := fun (lo hi d : Nat) => if lo ≤ fieldOf x 11 8 ∧ fieldOf x 11 8 ≤ hi then fieldOf x 11 8 else d
    let ringed := fun (y : DWord) (lo hi d n : Nat) => fieldOf y 63 12 = fieldOf x 63 12 ∧ fieldOf y 11 8 = log lo hi d ∧ fieldOf y 7 0 = x.toNat % 2 ^ n
    let irq := x &&& 0x1FFFF#64
    let reg := fun (r : IoReg) => Instr.registerWrite r v x
    Gives (.fqcfgWrite v x) s (fun t => ringed (t.vi v).fqcfg 6 15 6 1) ∧ Gives (.fqptrWrite v x) s (fun t => (t.vi v).fqHead = x.setWidth 16) ∧
    exec (.fqstatRead v) s = .next (Answered (s.modVi v fun y => { y with fqLost := 0 }) 0
      (BitVec.ofNat 64 ((s.vi v).fqLost % 2 ^ 32 * 2 ^ 32 + (s.vi v).fqHeld.length % 2 ^ 16 * 2 ^ 16))) ∧
    exec (.trstatRead v) s = .next (Answered (s.modVi v fun y => { y with trLost := 0 }) 0
      (BitVec.ofNat 64 ((s.vi v).trLost % 2 ^ 32 * 2 ^ 32 + (s.vi v).trTrig.toNat))) ∧
    exec (.trptrWrite v x) s = .next (s.modVi v fun y => { y with trHead := x.setWidth 32 }) ∧
    exec (reg .fqirq) s = .next (s.modVi v fun y => { y with fqirq := irq }) ∧ exec (reg .trirq) s = .next (s.modVi v fun y => { y with trirq := irq }) ∧
    Gives (reg .trcfg) s (fun t => ringed (t.vi v).trcfg 3 15 7 2) ∧ Gives (reg .srcfg) s (fun t => ringed t.mgmt.summary.cfg 8 15 8 1) ∧
    Gives (reg .mrcfg) s (fun t => ringed (t.mgmt.rings.getD v ReqRing.init).cfg 4 10 4 1) ∧
    exec (reg .srptr) s = .next { s with mgmt := { s.mgmt with summary := { s.mgmt.summary with head := x.setWidth 16 } } } ∧
    exec (reg .srirq) s = .next { s with mgmt := { s.mgmt with summary := { s.mgmt.summary with irq := irq } } } ∧
    exec (reg .trstat) s = .next (s.modVi v fun y => { y with trTrig := y.trTrig &&& ~~~ x.setWidth 16 }) ∧
    exec (reg .hbmRmth) s = .next (s.modStack v fun k => { k with rmth := BitVec.ofNat 64 (max 16 (fieldOf x 15 0)) }) ∧
    exec (reg .hbmRmint) s = .next (s.modStack v fun k => { k with rmint := BitVec.ofNat 64 (max 64 (fieldOf x 11 0)) }) ∧
    exec (reg .hbmRmctl) s = .next (s.modStack v fun k => { k with rmctl := irq }) ∧
    exec (reg .hbmQth) s = .next (s.modStack v fun k => { k with qth := BitVec.ofNat 64 (min 128 (max 8 (fieldOf x 7 0))) }) ∧
    exec (reg .hbmErr) s = .next (s.modStack v fun k => { k with rmbad := k.rmbad && !x.getLsbD 1 }) ∧
    (Gives (reg .hbmAlert) s fun t => ∀ i < 64, (t.stack v).alert.getLsbD i = ((s.stack v).alert.getLsbD i && !(decide (62 ≤ i) && x.getLsbD i))) ∧
    (Gives (.hbmErrRead v) s fun t => t.mgmt = (Answered s 0 (BitVec.ofNat 64 ((s.stack v).ce % 2 ^ 32 * 2 ^ 32 + (s.stack v).ue % 2 ^ 16 * 2 ^ 16 +
        if (s.stack v).rmbad then 2 else 0))).mgmt ∧ t.stack v = { s.stack v with ce := 0, ue := 0 }) ∧
    exec (.urstatFailClear v) s = .next (s.modPart v fun t =>
      { t with urFail := false, urState := if t.urState = .failed then .idle else t.urState })) ∧
  exec .srstatRead s = .next (Answered { s with mgmt := { s.mgmt with summary := { s.mgmt.summary with lost := 0 } } } 0
    (BitVec.ofNat 64 (s.mgmt.summary.lost % 2 ^ 32 * 2 ^ 32))) ∧
  (∀ n, let q := s.fabric.ports.getD n Port.init
    let ports := fun (g : Port → Port) => ({ s with fabric := { s.fabric with ports := s.fabric.ports.upd n Port.init g } } : State)
    exec (.linkFailure n) s = .next (ports fun p =>
      { p with up := false, failed := true, downAt := if p.failed then p.downAt else s.mgmt.gts.toNat }) ∧
    exec (.linkRetrained n) s = .next (ports fun p => if p.failed then { p with up := true, failed := false, resend := 0 } else p) ∧
    exec (.flitCrcRetry n) s = .next (ports fun p => { p with resend := p.resend + 1 }) ∧
    let late := q.downAt + s.fabric.linkTo * 1000000 ≤ s.mgmt.gts.toNat
    (q.up = true ∨ ¬ late → exec (.linkTimeout n) s = .next s) ∧
    (q.up = false → late → Gives (.linkTimeout n) s fun t => ∀ d, routePorts (t.fabric.routes.getD d 0) =
      (routePorts (s.fabric.routes.getD d 0)).filter fun p => p != n) ∧
    ∀ vc, let t := ports fun p => { p with stalled := p.stalled.filter (· != vc) }
      (vc ≠ 3 ∨ s.fabric.retry = [] → exec (.guylineCreditReturn n vc) s = .next t) ∧
      ∀ m, vc = 3 → s.fabric.retry = [m] → m.mbox < 2 ^ 14 → m.seq < 2 ^ 32 → m.op = none → exec (.guylineCreditReturn n vc) s =
        exec (.messageArrival m.mbox m.dev m.part m.seq m.payload) { t with fabric := { t.fabric with retry := [] } }) ∧
  ∀ time : Nat, let d : Int := (time : Int) - (s.mgmt.gts.toNat : Int)
    exec (.ptpTimeUpdate time) s = .next { s with mgmt := { s.mgmt with slew := 9500 * d, slewBig := decide (1000000 < d.natAbs) } } ∧
    ∀ rec_ m, (gtsClock rec_ m).slew = (if m.slewBig = true ∧ rec_ = true then m.slew else if 0 < m.slew then m.slew - 1
      else if m.slew < 0 then m.slew + 1 else 0)

/-! ### The machine as a whole -/

/-- The encoding tables and the worked words of the spec: a word of each family decodes to the instruction it stands for, and a word that no row
assigns is refused (R83, R84, R88). -/
def Obligations.WordsDecode : Prop :=
  let reads := fun (w : Nat) (i : Instr) => decodeWord (BitVec.ofNat 32 w) = .ok i
  reads 0x00018287 (.iadd 6 5 7) ∧ reads 0x20142010 (.iaddImm 5 4 16) ∧ reads 0x28C04002 (.icmp .ltUs 1 0 2) ∧ reads 0x30010286 (.faddF32 4 5 6) ∧
  reads 0x4622048A (.trfma .e8e1 8 9 10) ∧ reads 0x5862858C (.shflXor false 10 11 12) ∧ reads 0x7C060003 (.bra 1 true 3) ∧
  reads 0x7F001008 (.wPrefix true 8) ∧ reads 0xA2833001 (.ust 16 25 0 1) ∧ reads 0x78383043 (.atomXchgB32 14 6 0 .device) ∧
  reads 0xB66F9801 (.ringWaitFull 31 12 0 true) ∧ reads 0xC0001013 (.copy 8 2 .device) ∧ reads 0xD0201808 (.mma 12 1) ∧
  reads 0xE2002020 (.msgSend 16 4) ∧ decodeWord 0xFFFFFFFF#32 = .error .notAssigned

/-- Decoding the word of a well-formed instruction gives the instruction back, for every value of its operands; what is an event of the device has no
word (R83). -/
def Obligations.EncodingsRoundTrip : Prop := ∀ i : Instr,
  (i.isWord = true → i.wf = true → ∃ w, encode i = [w] ∧ decodeWord w = .ok i) ∧ (i.isWord = false → encode i = [])

/-- R18, R69, R83, R84: a turn of the agenda that lets a fibre issue issues the word at its place: exec of the decoded instruction in the state that
names the word, then after a prefix the word that follows, then what follows every step. A word that is none raises 0x01. An event of the
agenda runs as PF0's; one that has sent out what it waits for keeps its turn. -/
def Obligations.StepRunsDecodedWord : Prop := ∀ s rest, alive s = true →
  (∀ fid f r, s.agenda = .issue fid :: rest → s.fib fid = some f → f.run = some r → mayIssue s fid = true → atomHolds s fid = false →
    PlainMode s (s.partOf fid) → (r.waited = true ∨ s.cfWaits fid ((nth r.words 0 0).setWidth 12) = false) →
    let c := issueOf fid f r
    let w := nth r.words r.word 0
    let s1 := { s with agenda := rest, tried := slotOf fid :: s.tried, issue := some c }
    c.fibre = fid ∧ c.clause = r.addr ∧ c.word = r.word ∧ c.lanes = r.lanes ∧
    (∀ i, decodeWord w = .ok i → i.wf = true →
      step s = thenSettle (afterIssue { s1 with issue := s.issue } fid f c r.words (issueNext c r.words (exec i s1))) ∧
      ∀ t, exec i s1 = .next t → t.issue = none → t.recording (s.partOf fid) = false → ((t.fib fid).bind (·.diverged)) = none → step s = .next (settleAll t)) ∧
    ((∀ i, decodeWord w = .ok i → i.wf = false) → isPrefix w = false → ∃ t, Faults c f t 0x01 c.lanes 0 0 ∧ step s = .next (settleAll t))) ∧
  ∀ i, s.agenda = .event i :: rest →
    let out := exec i { s with agenda := rest, mgmt := { s.mgmt with src := .pf0, reply := none } }
    ((∀ a, eventHolds { s with agenda := a } i = none) → step s = thenSettle out) ∧
    ((∀ a, eventHolds { s with agenda := a } i = some true) → step s = thenSettle (keepTurn (.event i) out))

/-- A step always answers a next state, but for one turn that no device can be given: a word as an event, without a fibre that issues it. -/
def Obligations.StepAnswers : Prop := ∀ s,
  ((∀ i, Turn.event i ∈ s.agenda → i.isWord = false) → ∃ t, step s = .next t) ∧
  ∀ i rest, s.agenda = .event i :: rest → i.isWord = true → alive s = true → Settled s → step s = .fault .noIssue

/-- Every step keeps the canonical form of the device's memory and of the host's, and leaves no word half issued. -/
def Obligations.StepKeepsMemory : Prop := ∀ s t, step s = .next t → MemOk s → Settled s → MemOk t ∧ Settled t

/-- The device after reset, in which nothing is bound: the reset values of the registers that the spec gives one (R234, R235, R250, R271, R281, R309,
R328, R338, R343, R355, R358, R362, R375, R380), and the invariants that every step keeps. Memory that reads as zero is the model's choice (log entry
1), as are the places that the spec gives no reset value (log entry 2). -/
def Obligations.ResetState : Prop :=
  let s := State.reset
  s.fibres = [] ∧ s.grids = [] ∧ s.teams = [] ∧ s.ops = [] ∧
  (∀ p < 8, cfgValue s 0x00 p = some 0x41A00#64 ∧ cfgValue s 0x03 p = some 0x100010000000#64 ∧ cfgValue s 0x04 p = some 0x1002#64 ∧
    cfgValue s 0x01 p = some (if p = 0 then 0x1FF#64 else 0#64) ∧ cfgValue s 0x0A p = some 0 ∧ cfgValue s 0x0D p = some 0 ∧ cfgValue s 0x0E p = some 0) ∧
  (∀ n, (s.vi n).fqcfg = 0x600#64 ∧ (s.vi n).trcfg = 0x700#64 ∧ (s.mgmt.rings.getD n ReqRing.init).cfg = 0x400#64 ∧
    fieldOf (s.queue n).cfg 3 0 = 4 ∧ fieldOf (s.mbox n).cfg 28 24 = 4 ∧ region s n = 0 ∧ (s.core n).agl = 32 ∧ (s.core n).pmctl = Vector.replicate 4 0 ∧
    (s.ctx n).bt = 0 ∧ (s.ctx n).pt = 0 ∧ (s.ctx n).cf = 0 ∧ s.md n = 0 ∧
    (s.stack n).rmth = 1024 ∧ (s.stack n).rmint = 304 ∧ (s.stack n).qth = 96 ∧ (s.stack n).alert = 0) ∧
  MemOk s ∧ Settled s
end

