-- ==== Sys2Proof/Laws/Table.lean ====
section
/-!
SUPPORT. Sys2Proof/Laws/Table.lean: keyed tables: an entry reads back as it was set or changed, and every other entry is left alone.
-/

namespace Sys2Proof.Machine

variable {α β : Type}

@[simp] theorem AMap.get?_set_self (m : AMap α) (k : Nat) (v : α) : (m.set k v).get? k = some v := by
  induction m with
  | nil => simp [AMap.set, AMap.get?]
  | cons e r ih =>
    obtain ⟨k', v'⟩ := e
    simp only [AMap.set]
    split
    · simp [AMap.get?]
    · split
      · simp [AMap.get?]
      · simp [AMap.get?, *]

theorem AMap.get?_set_ne (m : AMap α) {k j : Nat} (v : α) (h : j ≠ k) : (m.set k v).get? j = m.get? j := by
  induction m with
  | nil => simp [AMap.set, AMap.get?, h]
  | cons e r ih =>
    obtain ⟨k', v'⟩ := e
    simp only [AMap.set]
    split
    · subst k'; simp [AMap.get?, h]
    · split <;> simp [AMap.get?, h, ih]

theorem AMap.get?_adj (m : AMap α) (k j : Nat) (f : α → α) :
    (m.adj k f).get? j = if j = k then (m.get? k).map f else m.get? j := by
  unfold AMap.adj
  split
  · next v hv =>
    by_cases h : j = k
    · subst h; simp [hv]
    · simp [AMap.get?_set_ne _ _ h, h]
  · next hv =>
    by_cases h : j = k
    · subst h; simp [hv]
    · simp [h]

theorem AMap.getD_upd (m : AMap α) (k j : Nat) (d : α) (f : α → α) :
    (m.upd k d f).getD j d = if j = k then f (m.getD k d) else m.getD j d := by
  unfold AMap.upd AMap.getD
  by_cases h : j = k
  · subst h; simp
  · simp [AMap.get?_set_ne _ _ h, h]

theorem AMap.get?_mapVals (m : AMap α) (f : Nat → α → β) (j : Nat) :
    (m.mapVals f).get? j = (m.get? j).map (f j) := by
  induction m with
  | nil => rfl
  | cons e r ih =>
    obtain ⟨k, v⟩ := e
    unfold AMap.mapVals at *
    simp only [List.map_cons, AMap.get?]
    split
    · subst j; rfl
    · exact ih

theorem AMap.getD_upd_ne (m : AMap α) {k j : Nat} (d e : α) (f : α → α) (h : j ≠ k) : (m.upd k d f).getD j e = m.getD j e := by
  unfold AMap.upd AMap.getD
  rw [AMap.get?_set_ne _ _ h]

end Sys2Proof.Machine
end

