-- ==== Sys2Proof/Laws/State.lean ====
section
/-!
SUPPORT. Sys2Proof/Laws/State.lean: what each change of one piece of the state does to every field, so that no proof unfolds a record
update, and how the changed piece reads back.
-/

namespace Sys2Proof.Machine

@[simp] theorem State.modFib_agenda (s : State) (n : Nat) (g : Fibre → Fibre) : (s.modFib n g).agenda = s.agenda := rfl
@[simp] theorem State.modFib_issue (s : State) (n : Nat) (g : Fibre → Fibre) : (s.modFib n g).issue = s.issue := rfl
@[simp] theorem State.modFib_clock (s : State) (n : Nat) (g : Fibre → Fibre) : (s.modFib n g).clock = s.clock := rfl
@[simp] theorem State.modFib_issued (s : State) (n : Nat) (g : Fibre → Fibre) : (s.modFib n g).issued = s.issued := rfl
@[simp] theorem State.modFib_tried (s : State) (n : Nat) (g : Fibre → Fibre) : (s.modFib n g).tried = s.tried := rfl
@[simp] theorem State.modFib_served (s : State) (n : Nat) (g : Fibre → Fibre) : (s.modFib n g).served = s.served := rfl
@[simp] theorem State.modFib_nextOp (s : State) (n : Nat) (g : Fibre → Fibre) : (s.modFib n g).nextOp = s.nextOp := rfl
@[simp] theorem State.modFib_nextTeam (s : State) (n : Nat) (g : Fibre → Fibre) : (s.modFib n g).nextTeam = s.nextTeam := rfl
@[simp] theorem State.modFib_nextGrid (s : State) (n : Nat) (g : Fibre → Fibre) : (s.modFib n g).nextGrid = s.nextGrid := rfl
@[simp] theorem State.modFib_free (s : State) (n : Nat) (g : Fibre → Fibre) : (s.modFib n g).free = s.free := rfl
@[simp] theorem State.modFib_teams (s : State) (n : Nat) (g : Fibre → Fibre) : (s.modFib n g).teams = s.teams := rfl
@[simp] theorem State.modFib_slots (s : State) (n : Nat) (g : Fibre → Fibre) : (s.modFib n g).slots = s.slots := rfl
@[simp] theorem State.modFib_cores (s : State) (n : Nat) (g : Fibre → Fibre) : (s.modFib n g).cores = s.cores := rfl
@[simp] theorem State.modFib_ops (s : State) (n : Nat) (g : Fibre → Fibre) : (s.modFib n g).ops = s.ops := rfl
@[simp] theorem State.modFib_mem (s : State) (n : Nat) (g : Fibre → Fibre) : (s.modFib n g).mem = s.mem := rfl
@[simp] theorem State.modFib_lines (s : State) (n : Nat) (g : Fibre → Fibre) : (s.modFib n g).lines = s.lines := rfl
@[simp] theorem State.modFib_hostMem (s : State) (n : Nat) (g : Fibre → Fibre) : (s.modFib n g).hostMem = s.hostMem := rfl
@[simp] theorem State.modFib_ctxs (s : State) (n : Nat) (g : Fibre → Fibre) : (s.modFib n g).ctxs = s.ctxs := rfl
@[simp] theorem State.modFib_vis (s : State) (n : Nat) (g : Fibre → Fibre) : (s.modFib n g).vis = s.vis := rfl
@[simp] theorem State.modFib_parts (s : State) (n : Nat) (g : Fibre → Fibre) : (s.modFib n g).parts = s.parts := rfl
@[simp] theorem State.modFib_queues (s : State) (n : Nat) (g : Fibre → Fibre) : (s.modFib n g).queues = s.queues := rfl
@[simp] theorem State.modFib_grids (s : State) (n : Nat) (g : Fibre → Fibre) : (s.modFib n g).grids = s.grids := rfl
@[simp] theorem State.modFib_fabric (s : State) (n : Nat) (g : Fibre → Fibre) : (s.modFib n g).fabric = s.fabric := rfl
@[simp] theorem State.modFib_hbm (s : State) (n : Nat) (g : Fibre → Fibre) : (s.modFib n g).hbm = s.hbm := rfl
@[simp] theorem State.modFib_mgmt (s : State) (n : Nat) (g : Fibre → Fibre) : (s.modFib n g).mgmt = s.mgmt := rfl

@[simp] theorem State.modCore_agenda (s : State) (n : Nat) (g : Core → Core) : (s.modCore n g).agenda = s.agenda := rfl
@[simp] theorem State.modCore_issue (s : State) (n : Nat) (g : Core → Core) : (s.modCore n g).issue = s.issue := rfl
@[simp] theorem State.modCore_clock (s : State) (n : Nat) (g : Core → Core) : (s.modCore n g).clock = s.clock := rfl
@[simp] theorem State.modCore_issued (s : State) (n : Nat) (g : Core → Core) : (s.modCore n g).issued = s.issued := rfl
@[simp] theorem State.modCore_tried (s : State) (n : Nat) (g : Core → Core) : (s.modCore n g).tried = s.tried := rfl
@[simp] theorem State.modCore_served (s : State) (n : Nat) (g : Core → Core) : (s.modCore n g).served = s.served := rfl
@[simp] theorem State.modCore_nextOp (s : State) (n : Nat) (g : Core → Core) : (s.modCore n g).nextOp = s.nextOp := rfl
@[simp] theorem State.modCore_nextTeam (s : State) (n : Nat) (g : Core → Core) : (s.modCore n g).nextTeam = s.nextTeam := rfl
@[simp] theorem State.modCore_nextGrid (s : State) (n : Nat) (g : Core → Core) : (s.modCore n g).nextGrid = s.nextGrid := rfl
@[simp] theorem State.modCore_free (s : State) (n : Nat) (g : Core → Core) : (s.modCore n g).free = s.free := rfl
@[simp] theorem State.modCore_fibres (s : State) (n : Nat) (g : Core → Core) : (s.modCore n g).fibres = s.fibres := rfl
@[simp] theorem State.modCore_teams (s : State) (n : Nat) (g : Core → Core) : (s.modCore n g).teams = s.teams := rfl
@[simp] theorem State.modCore_slots (s : State) (n : Nat) (g : Core → Core) : (s.modCore n g).slots = s.slots := rfl
@[simp] theorem State.modCore_ops (s : State) (n : Nat) (g : Core → Core) : (s.modCore n g).ops = s.ops := rfl
@[simp] theorem State.modCore_mem (s : State) (n : Nat) (g : Core → Core) : (s.modCore n g).mem = s.mem := rfl
@[simp] theorem State.modCore_lines (s : State) (n : Nat) (g : Core → Core) : (s.modCore n g).lines = s.lines := rfl
@[simp] theorem State.modCore_hostMem (s : State) (n : Nat) (g : Core → Core) : (s.modCore n g).hostMem = s.hostMem := rfl
@[simp] theorem State.modCore_ctxs (s : State) (n : Nat) (g : Core → Core) : (s.modCore n g).ctxs = s.ctxs := rfl
@[simp] theorem State.modCore_vis (s : State) (n : Nat) (g : Core → Core) : (s.modCore n g).vis = s.vis := rfl
@[simp] theorem State.modCore_parts (s : State) (n : Nat) (g : Core → Core) : (s.modCore n g).parts = s.parts := rfl
@[simp] theorem State.modCore_queues (s : State) (n : Nat) (g : Core → Core) : (s.modCore n g).queues = s.queues := rfl
@[simp] theorem State.modCore_grids (s : State) (n : Nat) (g : Core → Core) : (s.modCore n g).grids = s.grids := rfl
@[simp] theorem State.modCore_fabric (s : State) (n : Nat) (g : Core → Core) : (s.modCore n g).fabric = s.fabric := rfl
@[simp] theorem State.modCore_hbm (s : State) (n : Nat) (g : Core → Core) : (s.modCore n g).hbm = s.hbm := rfl
@[simp] theorem State.modCore_mgmt (s : State) (n : Nat) (g : Core → Core) : (s.modCore n g).mgmt = s.mgmt := rfl

@[simp] theorem State.modSlot_agenda (s : State) (n : Nat) (g : Slot → Slot) : (s.modSlot n g).agenda = s.agenda := rfl
@[simp] theorem State.modSlot_issue (s : State) (n : Nat) (g : Slot → Slot) : (s.modSlot n g).issue = s.issue := rfl
@[simp] theorem State.modSlot_clock (s : State) (n : Nat) (g : Slot → Slot) : (s.modSlot n g).clock = s.clock := rfl
@[simp] theorem State.modSlot_issued (s : State) (n : Nat) (g : Slot → Slot) : (s.modSlot n g).issued = s.issued := rfl
@[simp] theorem State.modSlot_tried (s : State) (n : Nat) (g : Slot → Slot) : (s.modSlot n g).tried = s.tried := rfl
@[simp] theorem State.modSlot_served (s : State) (n : Nat) (g : Slot → Slot) : (s.modSlot n g).served = s.served := rfl
@[simp] theorem State.modSlot_nextOp (s : State) (n : Nat) (g : Slot → Slot) : (s.modSlot n g).nextOp = s.nextOp := rfl
@[simp] theorem State.modSlot_nextTeam (s : State) (n : Nat) (g : Slot → Slot) : (s.modSlot n g).nextTeam = s.nextTeam := rfl
@[simp] theorem State.modSlot_nextGrid (s : State) (n : Nat) (g : Slot → Slot) : (s.modSlot n g).nextGrid = s.nextGrid := rfl
@[simp] theorem State.modSlot_free (s : State) (n : Nat) (g : Slot → Slot) : (s.modSlot n g).free = s.free := rfl
@[simp] theorem State.modSlot_fibres (s : State) (n : Nat) (g : Slot → Slot) : (s.modSlot n g).fibres = s.fibres := rfl
@[simp] theorem State.modSlot_teams (s : State) (n : Nat) (g : Slot → Slot) : (s.modSlot n g).teams = s.teams := rfl
@[simp] theorem State.modSlot_cores (s : State) (n : Nat) (g : Slot → Slot) : (s.modSlot n g).cores = s.cores := rfl
@[simp] theorem State.modSlot_ops (s : State) (n : Nat) (g : Slot → Slot) : (s.modSlot n g).ops = s.ops := rfl
@[simp] theorem State.modSlot_mem (s : State) (n : Nat) (g : Slot → Slot) : (s.modSlot n g).mem = s.mem := rfl
@[simp] theorem State.modSlot_lines (s : State) (n : Nat) (g : Slot → Slot) : (s.modSlot n g).lines = s.lines := rfl
@[simp] theorem State.modSlot_hostMem (s : State) (n : Nat) (g : Slot → Slot) : (s.modSlot n g).hostMem = s.hostMem := rfl
@[simp] theorem State.modSlot_ctxs (s : State) (n : Nat) (g : Slot → Slot) : (s.modSlot n g).ctxs = s.ctxs := rfl
@[simp] theorem State.modSlot_vis (s : State) (n : Nat) (g : Slot → Slot) : (s.modSlot n g).vis = s.vis := rfl
@[simp] theorem State.modSlot_parts (s : State) (n : Nat) (g : Slot → Slot) : (s.modSlot n g).parts = s.parts := rfl
@[simp] theorem State.modSlot_queues (s : State) (n : Nat) (g : Slot → Slot) : (s.modSlot n g).queues = s.queues := rfl
@[simp] theorem State.modSlot_grids (s : State) (n : Nat) (g : Slot → Slot) : (s.modSlot n g).grids = s.grids := rfl
@[simp] theorem State.modSlot_fabric (s : State) (n : Nat) (g : Slot → Slot) : (s.modSlot n g).fabric = s.fabric := rfl
@[simp] theorem State.modSlot_hbm (s : State) (n : Nat) (g : Slot → Slot) : (s.modSlot n g).hbm = s.hbm := rfl
@[simp] theorem State.modSlot_mgmt (s : State) (n : Nat) (g : Slot → Slot) : (s.modSlot n g).mgmt = s.mgmt := rfl

@[simp] theorem State.modTeam_agenda (s : State) (n : Nat) (g : Team → Team) : (s.modTeam n g).agenda = s.agenda := rfl
@[simp] theorem State.modTeam_issue (s : State) (n : Nat) (g : Team → Team) : (s.modTeam n g).issue = s.issue := rfl
@[simp] theorem State.modTeam_clock (s : State) (n : Nat) (g : Team → Team) : (s.modTeam n g).clock = s.clock := rfl
@[simp] theorem State.modTeam_issued (s : State) (n : Nat) (g : Team → Team) : (s.modTeam n g).issued = s.issued := rfl
@[simp] theorem State.modTeam_tried (s : State) (n : Nat) (g : Team → Team) : (s.modTeam n g).tried = s.tried := rfl
@[simp] theorem State.modTeam_served (s : State) (n : Nat) (g : Team → Team) : (s.modTeam n g).served = s.served := rfl
@[simp] theorem State.modTeam_nextOp (s : State) (n : Nat) (g : Team → Team) : (s.modTeam n g).nextOp = s.nextOp := rfl
@[simp] theorem State.modTeam_nextTeam (s : State) (n : Nat) (g : Team → Team) : (s.modTeam n g).nextTeam = s.nextTeam := rfl
@[simp] theorem State.modTeam_nextGrid (s : State) (n : Nat) (g : Team → Team) : (s.modTeam n g).nextGrid = s.nextGrid := rfl
@[simp] theorem State.modTeam_free (s : State) (n : Nat) (g : Team → Team) : (s.modTeam n g).free = s.free := rfl
@[simp] theorem State.modTeam_fibres (s : State) (n : Nat) (g : Team → Team) : (s.modTeam n g).fibres = s.fibres := rfl
@[simp] theorem State.modTeam_slots (s : State) (n : Nat) (g : Team → Team) : (s.modTeam n g).slots = s.slots := rfl
@[simp] theorem State.modTeam_cores (s : State) (n : Nat) (g : Team → Team) : (s.modTeam n g).cores = s.cores := rfl
@[simp] theorem State.modTeam_ops (s : State) (n : Nat) (g : Team → Team) : (s.modTeam n g).ops = s.ops := rfl
@[simp] theorem State.modTeam_mem (s : State) (n : Nat) (g : Team → Team) : (s.modTeam n g).mem = s.mem := rfl
@[simp] theorem State.modTeam_lines (s : State) (n : Nat) (g : Team → Team) : (s.modTeam n g).lines = s.lines := rfl
@[simp] theorem State.modTeam_hostMem (s : State) (n : Nat) (g : Team → Team) : (s.modTeam n g).hostMem = s.hostMem := rfl
@[simp] theorem State.modTeam_ctxs (s : State) (n : Nat) (g : Team → Team) : (s.modTeam n g).ctxs = s.ctxs := rfl
@[simp] theorem State.modTeam_vis (s : State) (n : Nat) (g : Team → Team) : (s.modTeam n g).vis = s.vis := rfl
@[simp] theorem State.modTeam_parts (s : State) (n : Nat) (g : Team → Team) : (s.modTeam n g).parts = s.parts := rfl
@[simp] theorem State.modTeam_queues (s : State) (n : Nat) (g : Team → Team) : (s.modTeam n g).queues = s.queues := rfl
@[simp] theorem State.modTeam_grids (s : State) (n : Nat) (g : Team → Team) : (s.modTeam n g).grids = s.grids := rfl
@[simp] theorem State.modTeam_fabric (s : State) (n : Nat) (g : Team → Team) : (s.modTeam n g).fabric = s.fabric := rfl
@[simp] theorem State.modTeam_hbm (s : State) (n : Nat) (g : Team → Team) : (s.modTeam n g).hbm = s.hbm := rfl
@[simp] theorem State.modTeam_mgmt (s : State) (n : Nat) (g : Team → Team) : (s.modTeam n g).mgmt = s.mgmt := rfl

@[simp] theorem State.modGrid_agenda (s : State) (n : Nat) (g : Grid → Grid) : (s.modGrid n g).agenda = s.agenda := rfl
@[simp] theorem State.modGrid_issue (s : State) (n : Nat) (g : Grid → Grid) : (s.modGrid n g).issue = s.issue := rfl
@[simp] theorem State.modGrid_clock (s : State) (n : Nat) (g : Grid → Grid) : (s.modGrid n g).clock = s.clock := rfl
@[simp] theorem State.modGrid_issued (s : State) (n : Nat) (g : Grid → Grid) : (s.modGrid n g).issued = s.issued := rfl
@[simp] theorem State.modGrid_tried (s : State) (n : Nat) (g : Grid → Grid) : (s.modGrid n g).tried = s.tried := rfl
@[simp] theorem State.modGrid_served (s : State) (n : Nat) (g : Grid → Grid) : (s.modGrid n g).served = s.served := rfl
@[simp] theorem State.modGrid_nextOp (s : State) (n : Nat) (g : Grid → Grid) : (s.modGrid n g).nextOp = s.nextOp := rfl
@[simp] theorem State.modGrid_nextTeam (s : State) (n : Nat) (g : Grid → Grid) : (s.modGrid n g).nextTeam = s.nextTeam := rfl
@[simp] theorem State.modGrid_nextGrid (s : State) (n : Nat) (g : Grid → Grid) : (s.modGrid n g).nextGrid = s.nextGrid := rfl
@[simp] theorem State.modGrid_free (s : State) (n : Nat) (g : Grid → Grid) : (s.modGrid n g).free = s.free := rfl
@[simp] theorem State.modGrid_fibres (s : State) (n : Nat) (g : Grid → Grid) : (s.modGrid n g).fibres = s.fibres := rfl
@[simp] theorem State.modGrid_teams (s : State) (n : Nat) (g : Grid → Grid) : (s.modGrid n g).teams = s.teams := rfl
@[simp] theorem State.modGrid_slots (s : State) (n : Nat) (g : Grid → Grid) : (s.modGrid n g).slots = s.slots := rfl
@[simp] theorem State.modGrid_cores (s : State) (n : Nat) (g : Grid → Grid) : (s.modGrid n g).cores = s.cores := rfl
@[simp] theorem State.modGrid_ops (s : State) (n : Nat) (g : Grid → Grid) : (s.modGrid n g).ops = s.ops := rfl
@[simp] theorem State.modGrid_mem (s : State) (n : Nat) (g : Grid → Grid) : (s.modGrid n g).mem = s.mem := rfl
@[simp] theorem State.modGrid_lines (s : State) (n : Nat) (g : Grid → Grid) : (s.modGrid n g).lines = s.lines := rfl
@[simp] theorem State.modGrid_hostMem (s : State) (n : Nat) (g : Grid → Grid) : (s.modGrid n g).hostMem = s.hostMem := rfl
@[simp] theorem State.modGrid_ctxs (s : State) (n : Nat) (g : Grid → Grid) : (s.modGrid n g).ctxs = s.ctxs := rfl
@[simp] theorem State.modGrid_vis (s : State) (n : Nat) (g : Grid → Grid) : (s.modGrid n g).vis = s.vis := rfl
@[simp] theorem State.modGrid_parts (s : State) (n : Nat) (g : Grid → Grid) : (s.modGrid n g).parts = s.parts := rfl
@[simp] theorem State.modGrid_queues (s : State) (n : Nat) (g : Grid → Grid) : (s.modGrid n g).queues = s.queues := rfl
@[simp] theorem State.modGrid_fabric (s : State) (n : Nat) (g : Grid → Grid) : (s.modGrid n g).fabric = s.fabric := rfl
@[simp] theorem State.modGrid_hbm (s : State) (n : Nat) (g : Grid → Grid) : (s.modGrid n g).hbm = s.hbm := rfl
@[simp] theorem State.modGrid_mgmt (s : State) (n : Nat) (g : Grid → Grid) : (s.modGrid n g).mgmt = s.mgmt := rfl

@[simp] theorem State.modPart_agenda (s : State) (n : Nat) (g : Part → Part) : (s.modPart n g).agenda = s.agenda := rfl
@[simp] theorem State.modPart_issue (s : State) (n : Nat) (g : Part → Part) : (s.modPart n g).issue = s.issue := rfl
@[simp] theorem State.modPart_clock (s : State) (n : Nat) (g : Part → Part) : (s.modPart n g).clock = s.clock := rfl
@[simp] theorem State.modPart_issued (s : State) (n : Nat) (g : Part → Part) : (s.modPart n g).issued = s.issued := rfl
@[simp] theorem State.modPart_tried (s : State) (n : Nat) (g : Part → Part) : (s.modPart n g).tried = s.tried := rfl
@[simp] theorem State.modPart_served (s : State) (n : Nat) (g : Part → Part) : (s.modPart n g).served = s.served := rfl
@[simp] theorem State.modPart_nextOp (s : State) (n : Nat) (g : Part → Part) : (s.modPart n g).nextOp = s.nextOp := rfl
@[simp] theorem State.modPart_nextTeam (s : State) (n : Nat) (g : Part → Part) : (s.modPart n g).nextTeam = s.nextTeam := rfl
@[simp] theorem State.modPart_nextGrid (s : State) (n : Nat) (g : Part → Part) : (s.modPart n g).nextGrid = s.nextGrid := rfl
@[simp] theorem State.modPart_free (s : State) (n : Nat) (g : Part → Part) : (s.modPart n g).free = s.free := rfl
@[simp] theorem State.modPart_fibres (s : State) (n : Nat) (g : Part → Part) : (s.modPart n g).fibres = s.fibres := rfl
@[simp] theorem State.modPart_teams (s : State) (n : Nat) (g : Part → Part) : (s.modPart n g).teams = s.teams := rfl
@[simp] theorem State.modPart_slots (s : State) (n : Nat) (g : Part → Part) : (s.modPart n g).slots = s.slots := rfl
@[simp] theorem State.modPart_cores (s : State) (n : Nat) (g : Part → Part) : (s.modPart n g).cores = s.cores := rfl
@[simp] theorem State.modPart_ops (s : State) (n : Nat) (g : Part → Part) : (s.modPart n g).ops = s.ops := rfl
@[simp] theorem State.modPart_mem (s : State) (n : Nat) (g : Part → Part) : (s.modPart n g).mem = s.mem := rfl
@[simp] theorem State.modPart_lines (s : State) (n : Nat) (g : Part → Part) : (s.modPart n g).lines = s.lines := rfl
@[simp] theorem State.modPart_hostMem (s : State) (n : Nat) (g : Part → Part) : (s.modPart n g).hostMem = s.hostMem := rfl
@[simp] theorem State.modPart_ctxs (s : State) (n : Nat) (g : Part → Part) : (s.modPart n g).ctxs = s.ctxs := rfl
@[simp] theorem State.modPart_vis (s : State) (n : Nat) (g : Part → Part) : (s.modPart n g).vis = s.vis := rfl
@[simp] theorem State.modPart_queues (s : State) (n : Nat) (g : Part → Part) : (s.modPart n g).queues = s.queues := rfl
@[simp] theorem State.modPart_grids (s : State) (n : Nat) (g : Part → Part) : (s.modPart n g).grids = s.grids := rfl
@[simp] theorem State.modPart_fabric (s : State) (n : Nat) (g : Part → Part) : (s.modPart n g).fabric = s.fabric := rfl
@[simp] theorem State.modPart_hbm (s : State) (n : Nat) (g : Part → Part) : (s.modPart n g).hbm = s.hbm := rfl
@[simp] theorem State.modPart_mgmt (s : State) (n : Nat) (g : Part → Part) : (s.modPart n g).mgmt = s.mgmt := rfl

@[simp] theorem State.modCtx_agenda (s : State) (n : Nat) (g : Ctx → Ctx) : (s.modCtx n g).agenda = s.agenda := rfl
@[simp] theorem State.modCtx_issue (s : State) (n : Nat) (g : Ctx → Ctx) : (s.modCtx n g).issue = s.issue := rfl
@[simp] theorem State.modCtx_clock (s : State) (n : Nat) (g : Ctx → Ctx) : (s.modCtx n g).clock = s.clock := rfl
@[simp] theorem State.modCtx_issued (s : State) (n : Nat) (g : Ctx → Ctx) : (s.modCtx n g).issued = s.issued := rfl
@[simp] theorem State.modCtx_tried (s : State) (n : Nat) (g : Ctx → Ctx) : (s.modCtx n g).tried = s.tried := rfl
@[simp] theorem State.modCtx_served (s : State) (n : Nat) (g : Ctx → Ctx) : (s.modCtx n g).served = s.served := rfl
@[simp] theorem State.modCtx_nextOp (s : State) (n : Nat) (g : Ctx → Ctx) : (s.modCtx n g).nextOp = s.nextOp := rfl
@[simp] theorem State.modCtx_nextTeam (s : State) (n : Nat) (g : Ctx → Ctx) : (s.modCtx n g).nextTeam = s.nextTeam := rfl
@[simp] theorem State.modCtx_nextGrid (s : State) (n : Nat) (g : Ctx → Ctx) : (s.modCtx n g).nextGrid = s.nextGrid := rfl
@[simp] theorem State.modCtx_free (s : State) (n : Nat) (g : Ctx → Ctx) : (s.modCtx n g).free = s.free := rfl
@[simp] theorem State.modCtx_fibres (s : State) (n : Nat) (g : Ctx → Ctx) : (s.modCtx n g).fibres = s.fibres := rfl
@[simp] theorem State.modCtx_teams (s : State) (n : Nat) (g : Ctx → Ctx) : (s.modCtx n g).teams = s.teams := rfl
@[simp] theorem State.modCtx_slots (s : State) (n : Nat) (g : Ctx → Ctx) : (s.modCtx n g).slots = s.slots := rfl
@[simp] theorem State.modCtx_cores (s : State) (n : Nat) (g : Ctx → Ctx) : (s.modCtx n g).cores = s.cores := rfl
@[simp] theorem State.modCtx_ops (s : State) (n : Nat) (g : Ctx → Ctx) : (s.modCtx n g).ops = s.ops := rfl
@[simp] theorem State.modCtx_mem (s : State) (n : Nat) (g : Ctx → Ctx) : (s.modCtx n g).mem = s.mem := rfl
@[simp] theorem State.modCtx_lines (s : State) (n : Nat) (g : Ctx → Ctx) : (s.modCtx n g).lines = s.lines := rfl
@[simp] theorem State.modCtx_hostMem (s : State) (n : Nat) (g : Ctx → Ctx) : (s.modCtx n g).hostMem = s.hostMem := rfl
@[simp] theorem State.modCtx_vis (s : State) (n : Nat) (g : Ctx → Ctx) : (s.modCtx n g).vis = s.vis := rfl
@[simp] theorem State.modCtx_parts (s : State) (n : Nat) (g : Ctx → Ctx) : (s.modCtx n g).parts = s.parts := rfl
@[simp] theorem State.modCtx_queues (s : State) (n : Nat) (g : Ctx → Ctx) : (s.modCtx n g).queues = s.queues := rfl
@[simp] theorem State.modCtx_grids (s : State) (n : Nat) (g : Ctx → Ctx) : (s.modCtx n g).grids = s.grids := rfl
@[simp] theorem State.modCtx_fabric (s : State) (n : Nat) (g : Ctx → Ctx) : (s.modCtx n g).fabric = s.fabric := rfl
@[simp] theorem State.modCtx_hbm (s : State) (n : Nat) (g : Ctx → Ctx) : (s.modCtx n g).hbm = s.hbm := rfl
@[simp] theorem State.modCtx_mgmt (s : State) (n : Nat) (g : Ctx → Ctx) : (s.modCtx n g).mgmt = s.mgmt := rfl

@[simp] theorem State.modVi_agenda (s : State) (n : Nat) (g : Vi → Vi) : (s.modVi n g).agenda = s.agenda := rfl
@[simp] theorem State.modVi_issue (s : State) (n : Nat) (g : Vi → Vi) : (s.modVi n g).issue = s.issue := rfl
@[simp] theorem State.modVi_clock (s : State) (n : Nat) (g : Vi → Vi) : (s.modVi n g).clock = s.clock := rfl
@[simp] theorem State.modVi_issued (s : State) (n : Nat) (g : Vi → Vi) : (s.modVi n g).issued = s.issued := rfl
@[simp] theorem State.modVi_tried (s : State) (n : Nat) (g : Vi → Vi) : (s.modVi n g).tried = s.tried := rfl
@[simp] theorem State.modVi_served (s : State) (n : Nat) (g : Vi → Vi) : (s.modVi n g).served = s.served := rfl
@[simp] theorem State.modVi_nextOp (s : State) (n : Nat) (g : Vi → Vi) : (s.modVi n g).nextOp = s.nextOp := rfl
@[simp] theorem State.modVi_nextTeam (s : State) (n : Nat) (g : Vi → Vi) : (s.modVi n g).nextTeam = s.nextTeam := rfl
@[simp] theorem State.modVi_nextGrid (s : State) (n : Nat) (g : Vi → Vi) : (s.modVi n g).nextGrid = s.nextGrid := rfl
@[simp] theorem State.modVi_free (s : State) (n : Nat) (g : Vi → Vi) : (s.modVi n g).free = s.free := rfl
@[simp] theorem State.modVi_fibres (s : State) (n : Nat) (g : Vi → Vi) : (s.modVi n g).fibres = s.fibres := rfl
@[simp] theorem State.modVi_teams (s : State) (n : Nat) (g : Vi → Vi) : (s.modVi n g).teams = s.teams := rfl
@[simp] theorem State.modVi_slots (s : State) (n : Nat) (g : Vi → Vi) : (s.modVi n g).slots = s.slots := rfl
@[simp] theorem State.modVi_cores (s : State) (n : Nat) (g : Vi → Vi) : (s.modVi n g).cores = s.cores := rfl
@[simp] theorem State.modVi_ops (s : State) (n : Nat) (g : Vi → Vi) : (s.modVi n g).ops = s.ops := rfl
@[simp] theorem State.modVi_mem (s : State) (n : Nat) (g : Vi → Vi) : (s.modVi n g).mem = s.mem := rfl
@[simp] theorem State.modVi_lines (s : State) (n : Nat) (g : Vi → Vi) : (s.modVi n g).lines = s.lines := rfl
@[simp] theorem State.modVi_hostMem (s : State) (n : Nat) (g : Vi → Vi) : (s.modVi n g).hostMem = s.hostMem := rfl
@[simp] theorem State.modVi_ctxs (s : State) (n : Nat) (g : Vi → Vi) : (s.modVi n g).ctxs = s.ctxs := rfl
@[simp] theorem State.modVi_parts (s : State) (n : Nat) (g : Vi → Vi) : (s.modVi n g).parts = s.parts := rfl
@[simp] theorem State.modVi_queues (s : State) (n : Nat) (g : Vi → Vi) : (s.modVi n g).queues = s.queues := rfl
@[simp] theorem State.modVi_grids (s : State) (n : Nat) (g : Vi → Vi) : (s.modVi n g).grids = s.grids := rfl
@[simp] theorem State.modVi_fabric (s : State) (n : Nat) (g : Vi → Vi) : (s.modVi n g).fabric = s.fabric := rfl
@[simp] theorem State.modVi_hbm (s : State) (n : Nat) (g : Vi → Vi) : (s.modVi n g).hbm = s.hbm := rfl
@[simp] theorem State.modVi_mgmt (s : State) (n : Nat) (g : Vi → Vi) : (s.modVi n g).mgmt = s.mgmt := rfl

@[simp] theorem State.modQueue_agenda (s : State) (n : Nat) (g : Queue → Queue) : (s.modQueue n g).agenda = s.agenda := rfl
@[simp] theorem State.modQueue_issue (s : State) (n : Nat) (g : Queue → Queue) : (s.modQueue n g).issue = s.issue := rfl
@[simp] theorem State.modQueue_clock (s : State) (n : Nat) (g : Queue → Queue) : (s.modQueue n g).clock = s.clock := rfl
@[simp] theorem State.modQueue_issued (s : State) (n : Nat) (g : Queue → Queue) : (s.modQueue n g).issued = s.issued := rfl
@[simp] theorem State.modQueue_tried (s : State) (n : Nat) (g : Queue → Queue) : (s.modQueue n g).tried = s.tried := rfl
@[simp] theorem State.modQueue_served (s : State) (n : Nat) (g : Queue → Queue) : (s.modQueue n g).served = s.served := rfl
@[simp] theorem State.modQueue_nextOp (s : State) (n : Nat) (g : Queue → Queue) : (s.modQueue n g).nextOp = s.nextOp := rfl
@[simp] theorem State.modQueue_nextTeam (s : State) (n : Nat) (g : Queue → Queue) : (s.modQueue n g).nextTeam = s.nextTeam := rfl
@[simp] theorem State.modQueue_nextGrid (s : State) (n : Nat) (g : Queue → Queue) : (s.modQueue n g).nextGrid = s.nextGrid := rfl
@[simp] theorem State.modQueue_free (s : State) (n : Nat) (g : Queue → Queue) : (s.modQueue n g).free = s.free := rfl
@[simp] theorem State.modQueue_fibres (s : State) (n : Nat) (g : Queue → Queue) : (s.modQueue n g).fibres = s.fibres := rfl
@[simp] theorem State.modQueue_teams (s : State) (n : Nat) (g : Queue → Queue) : (s.modQueue n g).teams = s.teams := rfl
@[simp] theorem State.modQueue_slots (s : State) (n : Nat) (g : Queue → Queue) : (s.modQueue n g).slots = s.slots := rfl
@[simp] theorem State.modQueue_cores (s : State) (n : Nat) (g : Queue → Queue) : (s.modQueue n g).cores = s.cores := rfl
@[simp] theorem State.modQueue_ops (s : State) (n : Nat) (g : Queue → Queue) : (s.modQueue n g).ops = s.ops := rfl
@[simp] theorem State.modQueue_mem (s : State) (n : Nat) (g : Queue → Queue) : (s.modQueue n g).mem = s.mem := rfl
@[simp] theorem State.modQueue_lines (s : State) (n : Nat) (g : Queue → Queue) : (s.modQueue n g).lines = s.lines := rfl
@[simp] theorem State.modQueue_hostMem (s : State) (n : Nat) (g : Queue → Queue) : (s.modQueue n g).hostMem = s.hostMem := rfl
@[simp] theorem State.modQueue_ctxs (s : State) (n : Nat) (g : Queue → Queue) : (s.modQueue n g).ctxs = s.ctxs := rfl
@[simp] theorem State.modQueue_vis (s : State) (n : Nat) (g : Queue → Queue) : (s.modQueue n g).vis = s.vis := rfl
@[simp] theorem State.modQueue_parts (s : State) (n : Nat) (g : Queue → Queue) : (s.modQueue n g).parts = s.parts := rfl
@[simp] theorem State.modQueue_grids (s : State) (n : Nat) (g : Queue → Queue) : (s.modQueue n g).grids = s.grids := rfl
@[simp] theorem State.modQueue_fabric (s : State) (n : Nat) (g : Queue → Queue) : (s.modQueue n g).fabric = s.fabric := rfl
@[simp] theorem State.modQueue_hbm (s : State) (n : Nat) (g : Queue → Queue) : (s.modQueue n g).hbm = s.hbm := rfl
@[simp] theorem State.modQueue_mgmt (s : State) (n : Nat) (g : Queue → Queue) : (s.modQueue n g).mgmt = s.mgmt := rfl

@[simp] theorem State.modLine_agenda (s : State) (n : Nat) (g : LineInfo → LineInfo) : (s.modLine n g).agenda = s.agenda := rfl
@[simp] theorem State.modLine_issue (s : State) (n : Nat) (g : LineInfo → LineInfo) : (s.modLine n g).issue = s.issue := rfl
@[simp] theorem State.modLine_clock (s : State) (n : Nat) (g : LineInfo → LineInfo) : (s.modLine n g).clock = s.clock := rfl
@[simp] theorem State.modLine_issued (s : State) (n : Nat) (g : LineInfo → LineInfo) : (s.modLine n g).issued = s.issued := rfl
@[simp] theorem State.modLine_tried (s : State) (n : Nat) (g : LineInfo → LineInfo) : (s.modLine n g).tried = s.tried := rfl
@[simp] theorem State.modLine_served (s : State) (n : Nat) (g : LineInfo → LineInfo) : (s.modLine n g).served = s.served := rfl
@[simp] theorem State.modLine_nextOp (s : State) (n : Nat) (g : LineInfo → LineInfo) : (s.modLine n g).nextOp = s.nextOp := rfl
@[simp] theorem State.modLine_nextTeam (s : State) (n : Nat) (g : LineInfo → LineInfo) : (s.modLine n g).nextTeam = s.nextTeam := rfl
@[simp] theorem State.modLine_nextGrid (s : State) (n : Nat) (g : LineInfo → LineInfo) : (s.modLine n g).nextGrid = s.nextGrid := rfl
@[simp] theorem State.modLine_free (s : State) (n : Nat) (g : LineInfo → LineInfo) : (s.modLine n g).free = s.free := rfl
@[simp] theorem State.modLine_fibres (s : State) (n : Nat) (g : LineInfo → LineInfo) : (s.modLine n g).fibres = s.fibres := rfl
@[simp] theorem State.modLine_teams (s : State) (n : Nat) (g : LineInfo → LineInfo) : (s.modLine n g).teams = s.teams := rfl
@[simp] theorem State.modLine_slots (s : State) (n : Nat) (g : LineInfo → LineInfo) : (s.modLine n g).slots = s.slots := rfl
@[simp] theorem State.modLine_cores (s : State) (n : Nat) (g : LineInfo → LineInfo) : (s.modLine n g).cores = s.cores := rfl
@[simp] theorem State.modLine_ops (s : State) (n : Nat) (g : LineInfo → LineInfo) : (s.modLine n g).ops = s.ops := rfl
@[simp] theorem State.modLine_mem (s : State) (n : Nat) (g : LineInfo → LineInfo) : (s.modLine n g).mem = s.mem := rfl
@[simp] theorem State.modLine_hostMem (s : State) (n : Nat) (g : LineInfo → LineInfo) : (s.modLine n g).hostMem = s.hostMem := rfl
@[simp] theorem State.modLine_ctxs (s : State) (n : Nat) (g : LineInfo → LineInfo) : (s.modLine n g).ctxs = s.ctxs := rfl
@[simp] theorem State.modLine_vis (s : State) (n : Nat) (g : LineInfo → LineInfo) : (s.modLine n g).vis = s.vis := rfl
@[simp] theorem State.modLine_parts (s : State) (n : Nat) (g : LineInfo → LineInfo) : (s.modLine n g).parts = s.parts := rfl
@[simp] theorem State.modLine_queues (s : State) (n : Nat) (g : LineInfo → LineInfo) : (s.modLine n g).queues = s.queues := rfl
@[simp] theorem State.modLine_grids (s : State) (n : Nat) (g : LineInfo → LineInfo) : (s.modLine n g).grids = s.grids := rfl
@[simp] theorem State.modLine_fabric (s : State) (n : Nat) (g : LineInfo → LineInfo) : (s.modLine n g).fabric = s.fabric := rfl
@[simp] theorem State.modLine_hbm (s : State) (n : Nat) (g : LineInfo → LineInfo) : (s.modLine n g).hbm = s.hbm := rfl
@[simp] theorem State.modLine_mgmt (s : State) (n : Nat) (g : LineInfo → LineInfo) : (s.modLine n g).mgmt = s.mgmt := rfl

@[simp] theorem State.modStack_agenda (s : State) (n : Nat) (g : Stack → Stack) : (s.modStack n g).agenda = s.agenda := rfl
@[simp] theorem State.modStack_issue (s : State) (n : Nat) (g : Stack → Stack) : (s.modStack n g).issue = s.issue := rfl
@[simp] theorem State.modStack_clock (s : State) (n : Nat) (g : Stack → Stack) : (s.modStack n g).clock = s.clock := rfl
@[simp] theorem State.modStack_issued (s : State) (n : Nat) (g : Stack → Stack) : (s.modStack n g).issued = s.issued := rfl
@[simp] theorem State.modStack_tried (s : State) (n : Nat) (g : Stack → Stack) : (s.modStack n g).tried = s.tried := rfl
@[simp] theorem State.modStack_served (s : State) (n : Nat) (g : Stack → Stack) : (s.modStack n g).served = s.served := rfl
@[simp] theorem State.modStack_nextOp (s : State) (n : Nat) (g : Stack → Stack) : (s.modStack n g).nextOp = s.nextOp := rfl
@[simp] theorem State.modStack_nextTeam (s : State) (n : Nat) (g : Stack → Stack) : (s.modStack n g).nextTeam = s.nextTeam := rfl
@[simp] theorem State.modStack_nextGrid (s : State) (n : Nat) (g : Stack → Stack) : (s.modStack n g).nextGrid = s.nextGrid := rfl
@[simp] theorem State.modStack_free (s : State) (n : Nat) (g : Stack → Stack) : (s.modStack n g).free = s.free := rfl
@[simp] theorem State.modStack_fibres (s : State) (n : Nat) (g : Stack → Stack) : (s.modStack n g).fibres = s.fibres := rfl
@[simp] theorem State.modStack_teams (s : State) (n : Nat) (g : Stack → Stack) : (s.modStack n g).teams = s.teams := rfl
@[simp] theorem State.modStack_slots (s : State) (n : Nat) (g : Stack → Stack) : (s.modStack n g).slots = s.slots := rfl
@[simp] theorem State.modStack_cores (s : State) (n : Nat) (g : Stack → Stack) : (s.modStack n g).cores = s.cores := rfl
@[simp] theorem State.modStack_ops (s : State) (n : Nat) (g : Stack → Stack) : (s.modStack n g).ops = s.ops := rfl
@[simp] theorem State.modStack_mem (s : State) (n : Nat) (g : Stack → Stack) : (s.modStack n g).mem = s.mem := rfl
@[simp] theorem State.modStack_lines (s : State) (n : Nat) (g : Stack → Stack) : (s.modStack n g).lines = s.lines := rfl
@[simp] theorem State.modStack_hostMem (s : State) (n : Nat) (g : Stack → Stack) : (s.modStack n g).hostMem = s.hostMem := rfl
@[simp] theorem State.modStack_ctxs (s : State) (n : Nat) (g : Stack → Stack) : (s.modStack n g).ctxs = s.ctxs := rfl
@[simp] theorem State.modStack_vis (s : State) (n : Nat) (g : Stack → Stack) : (s.modStack n g).vis = s.vis := rfl
@[simp] theorem State.modStack_parts (s : State) (n : Nat) (g : Stack → Stack) : (s.modStack n g).parts = s.parts := rfl
@[simp] theorem State.modStack_queues (s : State) (n : Nat) (g : Stack → Stack) : (s.modStack n g).queues = s.queues := rfl
@[simp] theorem State.modStack_grids (s : State) (n : Nat) (g : Stack → Stack) : (s.modStack n g).grids = s.grids := rfl
@[simp] theorem State.modStack_fabric (s : State) (n : Nat) (g : Stack → Stack) : (s.modStack n g).fabric = s.fabric := rfl
@[simp] theorem State.modStack_mgmt (s : State) (n : Nat) (g : Stack → Stack) : (s.modStack n g).mgmt = s.mgmt := rfl

@[simp] theorem State.modMbox_agenda (s : State) (n : Nat) (g : Mailbox → Mailbox) : (s.modMbox n g).agenda = s.agenda := rfl
@[simp] theorem State.modMbox_issue (s : State) (n : Nat) (g : Mailbox → Mailbox) : (s.modMbox n g).issue = s.issue := rfl
@[simp] theorem State.modMbox_clock (s : State) (n : Nat) (g : Mailbox → Mailbox) : (s.modMbox n g).clock = s.clock := rfl
@[simp] theorem State.modMbox_issued (s : State) (n : Nat) (g : Mailbox → Mailbox) : (s.modMbox n g).issued = s.issued := rfl
@[simp] theorem State.modMbox_tried (s : State) (n : Nat) (g : Mailbox → Mailbox) : (s.modMbox n g).tried = s.tried := rfl
@[simp] theorem State.modMbox_served (s : State) (n : Nat) (g : Mailbox → Mailbox) : (s.modMbox n g).served = s.served := rfl
@[simp] theorem State.modMbox_nextOp (s : State) (n : Nat) (g : Mailbox → Mailbox) : (s.modMbox n g).nextOp = s.nextOp := rfl
@[simp] theorem State.modMbox_nextTeam (s : State) (n : Nat) (g : Mailbox → Mailbox) : (s.modMbox n g).nextTeam = s.nextTeam := rfl
@[simp] theorem State.modMbox_nextGrid (s : State) (n : Nat) (g : Mailbox → Mailbox) : (s.modMbox n g).nextGrid = s.nextGrid := rfl
@[simp] theorem State.modMbox_free (s : State) (n : Nat) (g : Mailbox → Mailbox) : (s.modMbox n g).free = s.free := rfl
@[simp] theorem State.modMbox_fibres (s : State) (n : Nat) (g : Mailbox → Mailbox) : (s.modMbox n g).fibres = s.fibres := rfl
@[simp] theorem State.modMbox_teams (s : State) (n : Nat) (g : Mailbox → Mailbox) : (s.modMbox n g).teams = s.teams := rfl
@[simp] theorem State.modMbox_slots (s : State) (n : Nat) (g : Mailbox → Mailbox) : (s.modMbox n g).slots = s.slots := rfl
@[simp] theorem State.modMbox_cores (s : State) (n : Nat) (g : Mailbox → Mailbox) : (s.modMbox n g).cores = s.cores := rfl
@[simp] theorem State.modMbox_ops (s : State) (n : Nat) (g : Mailbox → Mailbox) : (s.modMbox n g).ops = s.ops := rfl
@[simp] theorem State.modMbox_mem (s : State) (n : Nat) (g : Mailbox → Mailbox) : (s.modMbox n g).mem = s.mem := rfl
@[simp] theorem State.modMbox_lines (s : State) (n : Nat) (g : Mailbox → Mailbox) : (s.modMbox n g).lines = s.lines := rfl
@[simp] theorem State.modMbox_hostMem (s : State) (n : Nat) (g : Mailbox → Mailbox) : (s.modMbox n g).hostMem = s.hostMem := rfl
@[simp] theorem State.modMbox_ctxs (s : State) (n : Nat) (g : Mailbox → Mailbox) : (s.modMbox n g).ctxs = s.ctxs := rfl
@[simp] theorem State.modMbox_vis (s : State) (n : Nat) (g : Mailbox → Mailbox) : (s.modMbox n g).vis = s.vis := rfl
@[simp] theorem State.modMbox_parts (s : State) (n : Nat) (g : Mailbox → Mailbox) : (s.modMbox n g).parts = s.parts := rfl
@[simp] theorem State.modMbox_queues (s : State) (n : Nat) (g : Mailbox → Mailbox) : (s.modMbox n g).queues = s.queues := rfl
@[simp] theorem State.modMbox_grids (s : State) (n : Nat) (g : Mailbox → Mailbox) : (s.modMbox n g).grids = s.grids := rfl
@[simp] theorem State.modMbox_hbm (s : State) (n : Nat) (g : Mailbox → Mailbox) : (s.modMbox n g).hbm = s.hbm := rfl
@[simp] theorem State.modMbox_mgmt (s : State) (n : Nat) (g : Mailbox → Mailbox) : (s.modMbox n g).mgmt = s.mgmt := rfl

@[simp] theorem State.modMgmt_agenda (s : State) (g : Mgmt → Mgmt) : (s.modMgmt g).agenda = s.agenda := rfl
@[simp] theorem State.modMgmt_issue (s : State) (g : Mgmt → Mgmt) : (s.modMgmt g).issue = s.issue := rfl
@[simp] theorem State.modMgmt_clock (s : State) (g : Mgmt → Mgmt) : (s.modMgmt g).clock = s.clock := rfl
@[simp] theorem State.modMgmt_issued (s : State) (g : Mgmt → Mgmt) : (s.modMgmt g).issued = s.issued := rfl
@[simp] theorem State.modMgmt_tried (s : State) (g : Mgmt → Mgmt) : (s.modMgmt g).tried = s.tried := rfl
@[simp] theorem State.modMgmt_served (s : State) (g : Mgmt → Mgmt) : (s.modMgmt g).served = s.served := rfl
@[simp] theorem State.modMgmt_nextOp (s : State) (g : Mgmt → Mgmt) : (s.modMgmt g).nextOp = s.nextOp := rfl
@[simp] theorem State.modMgmt_nextTeam (s : State) (g : Mgmt → Mgmt) : (s.modMgmt g).nextTeam = s.nextTeam := rfl
@[simp] theorem State.modMgmt_nextGrid (s : State) (g : Mgmt → Mgmt) : (s.modMgmt g).nextGrid = s.nextGrid := rfl
@[simp] theorem State.modMgmt_free (s : State) (g : Mgmt → Mgmt) : (s.modMgmt g).free = s.free := rfl
@[simp] theorem State.modMgmt_fibres (s : State) (g : Mgmt → Mgmt) : (s.modMgmt g).fibres = s.fibres := rfl
@[simp] theorem State.modMgmt_teams (s : State) (g : Mgmt → Mgmt) : (s.modMgmt g).teams = s.teams := rfl
@[simp] theorem State.modMgmt_slots (s : State) (g : Mgmt → Mgmt) : (s.modMgmt g).slots = s.slots := rfl
@[simp] theorem State.modMgmt_cores (s : State) (g : Mgmt → Mgmt) : (s.modMgmt g).cores = s.cores := rfl
@[simp] theorem State.modMgmt_ops (s : State) (g : Mgmt → Mgmt) : (s.modMgmt g).ops = s.ops := rfl
@[simp] theorem State.modMgmt_mem (s : State) (g : Mgmt → Mgmt) : (s.modMgmt g).mem = s.mem := rfl
@[simp] theorem State.modMgmt_lines (s : State) (g : Mgmt → Mgmt) : (s.modMgmt g).lines = s.lines := rfl
@[simp] theorem State.modMgmt_hostMem (s : State) (g : Mgmt → Mgmt) : (s.modMgmt g).hostMem = s.hostMem := rfl
@[simp] theorem State.modMgmt_ctxs (s : State) (g : Mgmt → Mgmt) : (s.modMgmt g).ctxs = s.ctxs := rfl
@[simp] theorem State.modMgmt_vis (s : State) (g : Mgmt → Mgmt) : (s.modMgmt g).vis = s.vis := rfl
@[simp] theorem State.modMgmt_parts (s : State) (g : Mgmt → Mgmt) : (s.modMgmt g).parts = s.parts := rfl
@[simp] theorem State.modMgmt_queues (s : State) (g : Mgmt → Mgmt) : (s.modMgmt g).queues = s.queues := rfl
@[simp] theorem State.modMgmt_grids (s : State) (g : Mgmt → Mgmt) : (s.modMgmt g).grids = s.grids := rfl
@[simp] theorem State.modMgmt_fabric (s : State) (g : Mgmt → Mgmt) : (s.modMgmt g).fabric = s.fabric := rfl
@[simp] theorem State.modMgmt_hbm (s : State) (g : Mgmt → Mgmt) : (s.modMgmt g).hbm = s.hbm := rfl

@[simp] theorem State.drawFree_agenda (s : State) : s.drawFree.2.agenda = s.agenda := rfl
@[simp] theorem State.drawFree_issue (s : State) : s.drawFree.2.issue = s.issue := rfl
@[simp] theorem State.drawFree_clock (s : State) : s.drawFree.2.clock = s.clock := rfl
@[simp] theorem State.drawFree_issued (s : State) : s.drawFree.2.issued = s.issued := rfl
@[simp] theorem State.drawFree_tried (s : State) : s.drawFree.2.tried = s.tried := rfl
@[simp] theorem State.drawFree_served (s : State) : s.drawFree.2.served = s.served := rfl
@[simp] theorem State.drawFree_nextOp (s : State) : s.drawFree.2.nextOp = s.nextOp := rfl
@[simp] theorem State.drawFree_nextTeam (s : State) : s.drawFree.2.nextTeam = s.nextTeam := rfl
@[simp] theorem State.drawFree_nextGrid (s : State) : s.drawFree.2.nextGrid = s.nextGrid := rfl
@[simp] theorem State.drawFree_fibres (s : State) : s.drawFree.2.fibres = s.fibres := rfl
@[simp] theorem State.drawFree_teams (s : State) : s.drawFree.2.teams = s.teams := rfl
@[simp] theorem State.drawFree_slots (s : State) : s.drawFree.2.slots = s.slots := rfl
@[simp] theorem State.drawFree_cores (s : State) : s.drawFree.2.cores = s.cores := rfl
@[simp] theorem State.drawFree_ops (s : State) : s.drawFree.2.ops = s.ops := rfl
@[simp] theorem State.drawFree_mem (s : State) : s.drawFree.2.mem = s.mem := rfl
@[simp] theorem State.drawFree_lines (s : State) : s.drawFree.2.lines = s.lines := rfl
@[simp] theorem State.drawFree_hostMem (s : State) : s.drawFree.2.hostMem = s.hostMem := rfl
@[simp] theorem State.drawFree_ctxs (s : State) : s.drawFree.2.ctxs = s.ctxs := rfl
@[simp] theorem State.drawFree_vis (s : State) : s.drawFree.2.vis = s.vis := rfl
@[simp] theorem State.drawFree_parts (s : State) : s.drawFree.2.parts = s.parts := rfl
@[simp] theorem State.drawFree_queues (s : State) : s.drawFree.2.queues = s.queues := rfl
@[simp] theorem State.drawFree_grids (s : State) : s.drawFree.2.grids = s.grids := rfl
@[simp] theorem State.drawFree_fabric (s : State) : s.drawFree.2.fabric = s.fabric := rfl
@[simp] theorem State.drawFree_hbm (s : State) : s.drawFree.2.hbm = s.hbm := rfl
@[simp] theorem State.drawFree_mgmt (s : State) : s.drawFree.2.mgmt = s.mgmt := rfl

theorem State.fib_modFib (s : State) (n : Nat) (g : Fibre → Fibre) (j : Nat) :
    (s.modFib n g).fib j = if j = n then (s.fib n).map g else s.fib j := AMap.get?_adj _ _ _ _

theorem State.core_modCore (s : State) (n : Nat) (g : Core → Core) (j : Nat) :
    (s.modCore n g).core j = if j = n then g (s.core n) else s.core j := AMap.getD_upd _ _ _ _ _

theorem State.slot_modSlot (s : State) (n : Nat) (g : Slot → Slot) (j : Nat) :
    (s.modSlot n g).slot j = if j = n then g (s.slot n) else s.slot j := AMap.getD_upd _ _ _ _ _

theorem State.team_modTeam (s : State) (n : Nat) (g : Team → Team) (j : Nat) :
    (s.modTeam n g).team j = if j = n then (s.team n).map g else s.team j := AMap.get?_adj _ _ _ _

theorem State.line_modLine (s : State) (n : Nat) (g : LineInfo → LineInfo) (j : Nat) :
    (s.modLine n g).line j = if j = n then g (s.line n) else s.line j := by
  by_cases h : j = n
  · subst h; exact (AMap.getD_upd _ _ _ _ _).trans (by simp [State.line])
  · exact (AMap.getD_upd_ne _ _ _ _ h).trans (by rw [if_neg h]; rfl)

theorem State.ctx_modCtx (s : State) (n : Nat) (g : Ctx → Ctx) (j : Nat) :
    (s.modCtx n g).ctx j = if j = n then g (s.ctx n) else s.ctx j := AMap.getD_upd _ _ _ _ _

theorem State.vi_modVi (s : State) (n : Nat) (g : Vi → Vi) (j : Nat) :
    (s.modVi n g).vi j = if j = n then g (s.vi n) else s.vi j := AMap.getD_upd _ _ _ _ _

theorem State.queue_modQueue (s : State) (n : Nat) (g : Queue → Queue) (j : Nat) :
    (s.modQueue n g).queue j = if j = n then g (s.queue n) else s.queue j := AMap.getD_upd _ _ _ _ _

theorem State.mbox_modMbox (s : State) (n : Nat) (g : Mailbox → Mailbox) (j : Nat) :
    (s.modMbox n g).mbox j = if j = n then g (s.mbox n) else s.mbox j := AMap.getD_upd _ _ _ _ _

theorem State.part_modPart_self (s : State) (n : Nat) (g : Part → Part) : (s.modPart n g).part n = g (s.part n) := by
  simp [State.part, State.modPart, AMap.getD_upd]

theorem State.part_modPart_ne (s : State) {n j : Nat} (g : Part → Part) (h : j ≠ n) : (s.modPart n g).part j = s.part j := by
  simp [State.part, State.modPart, AMap.upd, AMap.getD, AMap.get?_set_ne _ _ h]

/-- Where the states of two steps hold the same fibres, they hold the same fibre. -/
theorem State.fib_congr {s t : State} (h : t.fibres = s.fibres) (n : Nat) : t.fib n = s.fib n := by simp [State.fib, h]

end Sys2Proof.Machine
end

