-- ==== Sys2Proof/Laws/Frame.lean ====
section
/-!
SUPPORT. Sys2Proof/Laws/Frame.lean: what the shared operations leave alone: the home slice, the recorders, counting and retiring a word,
stalls and faults change no register, pad, barrier, context, interface or queue.
-/

namespace Sys2Proof.Machine

variable {s t u : State}

theorem Kept.refl (s : State) : Kept s s :=
  ⟨fun _ => rfl, fun _ => rfl, fun _ => rfl, fun _ => rfl, rfl, rfl, rfl, rfl, rfl, rfl⟩

theorem Kept.trans (h : Kept s t) (k : Kept t u) : Kept s u :=
  ⟨fun f => (k.regs f).trans (h.regs f), fun n => (k.regions n).trans (h.regions n), fun n => (k.fbars n).trans (h.fbars n),
   fun n => (k.pads n).trans (h.pads n), k.teams.trans h.teams, k.ops.trans h.ops, k.ctxs.trans h.ctxs, k.vis.trans h.vis,
   k.queues.trans h.queues, k.hostMem.trans h.hostMem⟩

/-- A change that leaves these fields as they are keeps everything. -/
theorem Kept.of_eq (h1 : t.fibres = s.fibres) (h2 : t.slots = s.slots) (h3 : t.cores = s.cores) (h4 : t.teams = s.teams)
    (h5 : t.ops = s.ops) (h6 : t.ctxs = s.ctxs) (h7 : t.vis = s.vis) (h8 : t.queues = s.queues) (h9 : t.hostMem = s.hostMem) :
    Kept s t :=
  ⟨fun f => by simp [State.fib, h1], fun n => by simp [State.slot, h2], fun n => by simp [State.slot, h2],
   fun k => by simp [State.core, h3], h4, h5, h6, h7, h8, h9⟩

/-- A fold keeps what each of its steps keeps. -/
theorem Kept.foldl {α : Type} {g : State → α → State} (h : ∀ s x, Kept s (g s x)) (l : List α) (s : State) :
    Kept s (l.foldl g s) := by
  induction l generalizing s with
  | nil => exact .refl s
  | cons x r ih => exact (h s x).trans (ih (g s x))

theorem Kept.fib {n : Nat} {g : Fibre → Fibre} (h : ∀ f, (g f).regs = f.regs) : Kept s (s.modFib n g) where
  regs f := by
    rw [State.fib_modFib]
    split
    · next e => subst e; cases s.fib f <;> simp [h]
    · rfl
  regions _ := rfl
  fbars _ := rfl
  pads _ := rfl
  teams := rfl
  ops := rfl
  ctxs := rfl
  vis := rfl
  queues := rfl
  hostMem := rfl

theorem Kept.core {n : Nat} {g : Core → Core} (h : ∀ k, (g k).pads = k.pads) : Kept s (s.modCore n g) where
  regs _ := rfl
  regions _ := rfl
  fbars _ := rfl
  pads k := by
    rw [State.core_modCore]
    split
    · next e => subst e; exact h _
    · rfl
  teams := rfl
  ops := rfl
  ctxs := rfl
  vis := rfl
  queues := rfl
  hostMem := rfl

theorem Kept.slot {n : Nat} {g : Slot → Slot} (h : ∀ x, (g x).regions = x.regions ∧ (g x).fbars = x.fbars) : Kept s (s.modSlot n g) where
  regs _ := rfl
  regions k := by
    rw [State.slot_modSlot]
    split
    · next e => subst e; exact (h _).1
    · rfl
  fbars k := by
    rw [State.slot_modSlot]
    split
    · next e => subst e; exact (h _).2
    · rfl
  pads _ := rfl
  teams := rfl
  ops := rfl
  ctxs := rfl
  vis := rfl
  queues := rfl
  hostMem := rfl

theorem Kept.part {n : Nat} {g : Part → Part} : Kept s (s.modPart n g) := .of_eq rfl rfl rfl rfl rfl rfl rfl rfl rfl
theorem Kept.line {n : Nat} {g : LineInfo → LineInfo} : Kept s (s.modLine n g) := .of_eq rfl rfl rfl rfl rfl rfl rfl rfl rfl
theorem Kept.stack {n : Nat} {g : Stack → Stack} : Kept s (s.modStack n g) := .of_eq rfl rfl rfl rfl rfl rfl rfl rfl rfl
theorem Kept.mgmt {g : Mgmt → Mgmt} : Kept s (s.modMgmt g) := .of_eq rfl rfl rfl rfl rfl rfl rfl rfl rfl
theorem Kept.grids {g : AMap Grid} : Kept s { s with grids := g } := .of_eq rfl rfl rfl rfl rfl rfl rfl rfl rfl
theorem Kept.hbm {g : Hbm} : Kept s { s with hbm := g } := .of_eq rfl rfl rfl rfl rfl rfl rfl rfl rfl
theorem Kept.mem {m : Mem} : Kept s { s with mem := m } := .of_eq rfl rfl rfl rfl rfl rfl rfl rfl rfl
theorem Kept.issue {x : Option Issue} : Kept s { s with issue := x } := .of_eq rfl rfl rfl rfl rfl rfl rfl rfl rfl

/-- From a kept state on. -/
theorem Kept.then_fib {n : Nat} {g : Fibre → Fibre} (k : Kept s t) (h : ∀ f, (g f).regs = f.regs) : Kept s (t.modFib n g) :=
  k.trans (.fib h)

theorem Kept.then_core {n : Nat} {g : Core → Core} (k : Kept s t) (h : ∀ f, (g f).pads = f.pads) : Kept s (t.modCore n g) :=
  k.trans (.core h)
theorem Kept.then_slot {n : Nat} {g : Slot → Slot} (k : Kept s t) (h : ∀ x, (g x).regions = x.regions ∧ (g x).fbars = x.fbars) :
    Kept s (t.modSlot n g) :=
  k.trans (.slot h)
theorem Kept.then_line {n : Nat} {g : LineInfo → LineInfo} (k : Kept s t) : Kept s (t.modLine n g) := k.trans .line
theorem Kept.then_hbm {g : Hbm} (k : Kept s t) : Kept s { t with hbm := g } := k.trans .hbm
theorem Kept.then_issue {x : Option Issue} (k : Kept s t) : Kept s { t with issue := x } := k.trans .issue

/-! ### The home slice -/

theorem signal_kept (fn : Nat) (irq : DWord) : Kept s (signal s fn irq) := by
  unfold signal; split
  · exact .mgmt
  · exact .refl s

theorem tellTo_kept (w ln : Nat) (l : List Nat) : Kept s (s.tellTo w ln l) := .mgmt
theorem tell_kept (w ln : Nat) : Kept s (s.tell w ln) := tellTo_kept _ _ _

theorem gather_kept (ln : Nat) (u : LineUse) : Kept s (gather s ln u) := by
  unfold gather
  split
  · exact .line
  · exact .foldl (fun s x => tellTo_kept _ _ _) _ _

theorem setMd_kept (ln o st : Nat) : Kept s (s.setMd ln o st) := .line

theorem setPoison_kept (ln : Nat) (p : Bool) : Kept s (s.setPoison ln p) := .line

theorem pmCount_kept (c : Nat) (sl : Option Nat) (ev n : Nat) : Kept s (s.pmCount c sl ev n) := by
  unfold State.pmCount; split
  · exact .refl s
  · refine .core fun k => ?_
    unfold Core.pmCount; split <;> rfl

theorem rmThreshold_kept (b r : Nat) : Kept s (rmThreshold s b r) := by
  unfold rmThreshold
  simp only []
  refine Kept.then_hbm ?_
  split
  · exact .stack
  · refine Kept.trans ?_ (signal_kept _ _)
    exact .stack

theorem activate_kept (ln : Nat) : Kept s (activate s ln) := by
  unfold activate
  simp only []
  split
  · exact .refl s
  · split
    · exact Kept.trans .hbm (rmThreshold_kept _ _)
    · exact .hbm

theorem uncorrectable_kept (ln : Nat) : Kept s (uncorrectable s ln) := Kept.trans (setPoison_kept _ _) .stack

theorem remapError_kept (ln : Nat) : Kept s (remapError s ln) := by
  unfold remapError
  simp only []
  split
  · exact Kept.trans .stack .hbm
  · exact Kept.trans .stack .hbm
  · exact .refl s

theorem drawFree_kept : Kept s s.drawFree.2 := .of_eq rfl rfl rfl rfl rfl rfl rfl rfl rfl

theorem badMeta_kept (ln : Nat) : Kept s (badMeta s ln) :=
  (((uncorrectable_kept _).trans (tellTo_kept _ _ _)).trans (tellTo_kept _ _ _)).trans .line

theorem l3Room_kept (ln : Nat) : Kept s (l3Room s ln) := by
  unfold l3Room
  split
  · exact .refl s
  · simp only []
    split
    · exact .refl s
    · refine Kept.trans ?_ .line
      split
      · exact drawFree_kept.trans (activate_kept _)
      · exact drawFree_kept

theorem eccRead_kept (ln : Nat) : Kept s (eccRead s ln) := by
  unfold eccRead
  refine Kept.then_hbm ?_
  split
  · exact .stack
  · exact uncorrectable_kept _
  · exact badMeta_kept _
  · split
    · exact badMeta_kept _
    · exact .refl s

theorem fetchLine_kept (ln : Nat) (nt : Bool) : Kept s (fetchLine s ln nt) := by
  unfold fetchLine
  split
  · exact .refl s
  · simp only []
    have h : ∀ x : State, Kept s x → Kept s (eccRead (activate (remapError x ln) ln) ln) := fun x h =>
      ((h.trans (remapError_kept _)).trans (activate_kept _)).trans (eccRead_kept _)
    split
    · exact h _ (.refl s)
    · exact (h _ (l3Room_kept _)).trans .line

theorem undoCapture_kept (ln : Nat) : Kept s (undoCapture s ln) := by
  have k : ∀ x : State, Kept s x → ∀ g, Kept s (x.modLine ln g) := fun _ h _ => h.trans .line
  unfold undoCapture
  simp only []
  by_cases h1 : isRemote ln = true
  · rw [if_pos h1]; exact .refl s
  rw [if_neg h1]
  split
  · exact .refl s
  · split
    · split
      · exact k _ .part _
      · refine k _ ?_ _
        refine Kept.trans ?_ (activate_kept _)
        refine Kept.trans ?_ .part
        exact .mem
    · split
      · exact k _ (.refl s) _
      · exact .refl s

theorem compWrite_kept (ln : Nat) (d : BitVec 1024) (m : BitVec 128) : Kept s (compWrite s ln d m) := by
  unfold compWrite
  simp only []
  split
  · exact Kept.of_eq rfl rfl rfl rfl rfl rfl rfl rfl rfl
  · exact Kept.of_eq rfl rfl rfl rfl rfl rfl rfl rfl rfl

theorem lineWrite_kept (ln : Nat) (d : BitVec 1024) (m : BitVec 128) : Kept s (lineWrite s ln d m) := by
  unfold lineWrite
  split
  · exact compWrite_kept _ _ _
  · exact .mem

theorem dropOwn_kept (ln : Nat) (w : BitVec 32) : Kept s (dropOwn s ln w) := .line

theorem recallData_kept (ln : Nat) : Kept s (recallData s ln) :=
  (((undoCapture_kept _).trans drawFree_kept).trans (lineWrite_kept _ _ _)).trans .line

theorem snoopData_kept (ln : Nat) : Kept s (snoopData s ln) := by
  unfold snoopData; split
  · exact (recallData_kept _).trans .mgmt
  · exact .refl s

theorem homeTakes_kept (ln : Nat) : Kept s (homeTakes s ln) := by
  unfold homeTakes
  split
  · exact .refl s
  · simp only []
    have h : Kept s (gather s ln (.home true)) := gather_kept _ _
    split
    · exact h
    · exact (h.trans (recallData_kept _)).trans (setMd_kept _ _ _)
    · exact (h.trans (recallData_kept _)).trans (setMd_kept _ _ _)
    · split
      · exact (h.trans (snoopData_kept _)).trans (setMd_kept _ _ _)
      · exact h.trans (setMd_kept _ _ _)
    · exact h.trans (setMd_kept _ _ _)

theorem homeRead_kept (ln : Nat) (nt : Bool) : Kept s (homeRead s ln nt) := by
  have h0 : Kept s (fetchLine s ln nt) := fetchLine_kept _ _
  have h : Kept s (gather (fetchLine s ln nt) ln (.home false)) := h0.trans (gather_kept _ _)
  unfold homeRead
  simp only []
  split
  · exact h0
  · split
    · exact (h.trans (recallData_kept _)).trans (setMd_kept _ _ _)
    · exact (h.trans (recallData_kept _)).trans (setMd_kept _ _ _)
    · split
      · exact (h.trans (snoopData_kept _)).trans (setMd_kept _ _ _)
      · exact h
    · exact h

theorem homeWrite_kept (ln : Nat) (d : BitVec 1024) (m : BitVec 128) : Kept s (homeWrite s ln d m) := by
  unfold homeWrite
  split
  · exact .refl s
  · split
    · split
      · exact Kept.trans .mem (dropOwn_kept _ _)
      · exact .refl s
    · simp only []
      split
      · exact fetchLine_kept _ _
      · have h : Kept s (undoCapture (homeTakes (fetchLine s ln false) ln) ln) :=
          ((fetchLine_kept _ _).trans (homeTakes_kept _)).trans (undoCapture_kept _)
        refine Kept.trans ?_ (dropOwn_kept _ _)
        refine Kept.trans ?_ (lineWrite_kept _ _ _)
        split
        · exact h.trans (setPoison_kept _ _)
        · exact h

/-! ### The L1 -/

theorem cleanLine_kept (c ln : Nat) : Kept s (cleanLine s c ln) := by
  unfold cleanLine
  simp only []
  have h : Kept s (homeWrite s ln (s.l1 c ln).data (s.l1 c ln).dirty) := homeWrite_kept _ _ _
  split
  · exact (h.trans (pmCount_kept _ _ _ _)).trans (.core (by intro _; rfl))
  · exact h.trans (.core (by intro _; rfl))

theorem ownRoom_kept (c ln : Nat) : Kept s (ownRoom s c ln) := by
  unfold ownRoom
  split
  · split
    · exact .refl s
    · exact (cleanLine_kept _ _).trans .line
  · exact .refl s

theorem freshWords_kept (c ln : Nat) (m : BitVec 32) : Kept s (freshWords s c ln m) := .core (by intro _; rfl)

theorem registerWords_kept (c ln : Nat) (m : BitVec 32) : Kept s (registerWords s c ln m) :=
  ((ownRoom_kept _ _).trans (freshWords_kept _ _ _)).trans .line

theorem writeBack_kept (c ln : Nat) : Kept s (writeBack s c ln) := by
  unfold writeBack
  simp only []
  split
  · exact .refl s
  · exact ((ownRoom_kept _ _).trans (cleanLine_kept _ _)).trans (registerWords_kept _ _ _)

/-! ### Records and chunks -/

theorem addItemAt_kept (f r a d : Nat) : Kept s (addItemAt s f r a d) := by
  unfold addItemAt; split
  · exact .fib (by intro _; rfl)
  · exact .refl s

theorem addItem_kept (f a d : Nat) : Kept s (addItem s f a d) := addItemAt_kept _ _ _ _

theorem emit_kept (p k : Nat) (r : BitVec 128) : Kept s (emit s p k r) := by
  unfold emit; split
  · exact .refl s
  · unfold modRecorder; split
    · exact (pmCount_kept _ _ _ _).trans .part
    · exact .part

theorem popLog_kept (f : Nat) (r : BitVec 128) : Kept s (popLog s f r) := .fib (by intro _; rfl)

theorem meetRec_kept (f : Nat) (r : BitVec 128) (ln n : Nat) : Kept s (meetRec s f r ln n) :=
  .fib (by intro x; split <;> rfl)

theorem diverge_kept (f a b c : Nat) : Kept s (diverge s f a b c) := .fib (by intro _; rfl)

theorem mismatch_kept (f : Nat) : Kept s (mismatch s f) := diverge_kept _ _ _ _

theorem replayChunk_kept (f : Nat) : Kept s (replayChunk s f) := by
  unfold replayChunk
  split
  · exact .refl s
  · split
    · split
      · simp only []
        split
        · exact (popLog_kept f _).then_fib (by intro _; rfl)
        · refine Kept.trans ?_ (diverge_kept _ _ _ _)
          exact (popLog_kept f _).then_fib (by intro _; rfl)
      · exact .refl s
    · exact .refl s

theorem chunkEnd_kept (f a b : Nat) : Kept s (chunkEnd s f a b) := by
  unfold chunkEnd
  split
  · exact .refl s
  · simp only []
    split
    · split
      · exact .refl s
      · exact (emit_kept _ _ _).trans (.fib (by intro _; rfl))
    · split
      · exact replayChunk_kept _
      · exact .refl s

theorem endLogs_kept (p r : Nat) : Kept s (endLogs s p r) := by
  unfold endLogs
  refine Kept.trans ?_ (Kept.foldl (fun s k => ?_) _ _)
  · exact (Kept.foldl (fun s f => chunkEnd_kept _ _ _) _ _).trans .part
  · split
    · exact .refl s
    · exact (emit_kept _ _ _).trans .part

theorem noteRec_kept (p f : Nat) (r : BitVec 128) : Kept s (noteRec s p f r) := by
  unfold noteRec
  split
  · exact .fib (by intro _; rfl)
  · exact (chunkEnd_kept _ _ _).trans (emit_kept _ _ _)

theorem markLost_kept (p : Nat) : Kept s (markLost s p) := Kept.trans .part .grids

theorem cairnLost_kept (p : Nat) : Kept s (cairnLost s p) := (markLost_kept _).trans (endLogs_kept _ _)

theorem produce_kept (f k r m q : Nat) (ln : Nat := 0) (n : Nat := 0) : Kept s (produce s f k r m q ln n) := by
  have h : Kept s (chunkEnd s f 0 0) := chunkEnd_kept _ _ _
  unfold produce
  simp only []
  split
  · exact noteRec_kept _ _ _
  · split
    · split
      · exact h
      · split
        · split
          · exact h.trans (meetRec_kept _ _ _ _)
          · exact h.trans (mismatch_kept _)
        · split
          · exact h
          · exact h.trans (mismatch_kept _)
    · exact .refl s

theorem valueRead_kept (f a i : Nat) (x : DWord) : Kept s (valueRead s f a i x).2 := by
  have h : Kept s (chunkEnd s f 0 0) := chunkEnd_kept _ _ _
  unfold valueRead
  split
  · exact .refl s
  · simp only []
    split
    · exact produce_kept _ _ _ _ _
    · split
      · split
        · exact h
        · split
          · split
            · exact h.trans (meetRec_kept _ _ _ _)
            · exact h.trans (mismatch_kept _)
          · exact h.trans (mismatch_kept _)
      · exact .refl s

theorem dropNow_kept (f : Nat) (r : BitVec 128) : Kept s (dropNow s f r) := by
  unfold dropNow
  simp only []
  split
  · split
    · exact ((writeBack_kept _ _).then_core (by intro _; rfl)).then_line
    · exact .refl s
  · exact .core (by intro _; rfl)

theorem replayDrops_kept (f n : Nat) : Kept s (replayDrops s f n) := by
  induction n generalizing s with
  | zero => exact .refl s
  | succ n ih =>
    simp only [replayDrops]
    split
    · exact .refl s
    · split
      · split
        · exact .refl s
        · exact ((dropNow_kept _ _).trans (popLog_kept _ _)).trans ih
      · exact .refl s

/-! ### Counting a word and moving its lanes -/

theorem ricWrap_kept (f : Nat) : Kept s (ricWrap s f) := (produce_kept _ _ _ _ _).trans (.fib (by intro _; rfl))

theorem chunkLimit_kept (f : Nat) : Kept s (chunkLimit s f) := by
  unfold chunkLimit; split
  · split
    · exact chunkEnd_kept _ _ _
    · exact .refl s
  · exact .refl s

theorem countWord_kept (f : Nat) : Kept s (countWord s f) := by
  unfold countWord; split
  · exact .refl s
  · simp only []
    split
    · exact (ricWrap_kept _).trans (chunkLimit_kept _)
    · refine Kept.trans ?_ (chunkLimit_kept _)
      exact .fib (by intro _; rfl)

theorem replayAfter_kept (f : Nat) : Kept s (replayAfter s f) := by
  unfold replayAfter
  split
  · exact .refl s
  · simp only []
    have h : Kept s (replayDrops s f 64) := replayDrops_kept _ _
    split
    · split
      · exact (h.trans (chunkEnd_kept _ _ _)).trans (replayDrops_kept _ _)
      · split
        · exact h.trans (mismatch_kept _)
        · exact h
    · exact h

theorem countIssue_kept (c : Issue) : Kept s (countIssue s c) := by
  unfold countIssue
  simp only []
  have h : Kept s (if ((s.fib c.fibre).map (·.stepRest)).getD 0 == 0 then replayAfter (countWord s c.fibre) c.fibre
      else countWord s c.fibre) := by
    split
    · exact (countWord_kept _).trans (replayAfter_kept _)
    · exact countWord_kept _
  exact (((h.trans (pmCount_kept _ _ _ _)).trans (pmCount_kept _ _ _ _)).trans (pmCount_kept _ _ _ _)).trans
    (.of_eq rfl rfl rfl rfl rfl rfl rfl rfl rfl)

theorem handOver_kept (f w : Nat) : Kept s (handOver s f w) := by
  unfold handOver
  simp only []
  split
  · refine Kept.trans ?_ (pmCount_kept _ _ _ _)
    exact .slot (by intro _; exact ⟨rfl, rfl⟩)
  · exact .refl s

theorem leaveSet_kept (f : Nat) : Kept s (leaveSet s f) := .core (by intro _; rfl)

theorem goWaiting_kept (f w : Nat) : Kept s (goWaiting s f w) := by
  unfold goWaiting; split
  · refine Kept.trans (Kept.trans ?_ (leaveSet_kept _)) (handOver_kept _ _)
    exact .fib (by intro _; rfl)
  · exact .refl s

theorem yieldPoint_kept (f : Nat) : Kept s (yieldPoint s f) := .fib (by intro _; rfl)

theorem endRun_kept (c : Issue) : Kept s (endRun s c) := by
  unfold endRun
  simp only []
  split
  · refine Kept.trans ?_ (yieldPoint_kept _)
    exact .fib (by intro _; simp only [Fibre.onLanes, Fibre.regs])
  · exact .fib (by intro _; simp only [Fibre.onLanes, Fibre.regs])

theorem stepDone_kept (c : Issue) : Kept s (stepDone s c) := .fib (by intro _; simp only [Fibre.onLanes, Fibre.regs])

theorem advance_kept (c : Issue) : Kept s (advance s c) := by
  unfold advance
  split
  · refine Kept.trans ?_ (endRun_kept _)
    exact .fib (by intro _; simp only [Fibre.onLanes, Fibre.regs])
  · simp only []
    split
    · refine Kept.then_fib ?_ (by intro _; simp only [Fibre.onLanes, Fibre.regs])
      exact .fib (by intro _; simp only [Fibre.onLanes, Fibre.regs])
    · exact .fib (by intro _; simp only [Fibre.onLanes, Fibre.regs])

/-- Retiring a word changes nothing that a program names but RIC and the places of its lanes. -/
theorem retire_kept (c : Issue) : Kept s (retire s c) :=
  ((countIssue_kept c).trans (advance_kept c)).trans (stepDone_kept c)

theorem retireTo_kept (c : Issue) (g : Fin 32 → DWord) : Kept s (retireTo s c g) := by
  refine Kept.trans (Kept.trans ?_ (endRun_kept c)) (stepDone_kept c)
  exact (countIssue_kept c).then_fib (by intro _; simp only [sendTo, Fibre.regs])

theorem stall_kept (c : Issue) (w : Wait) : Kept s (stall s c w) := by
  unfold stall
  simp only []
  have h : Kept s (s.modFib c.fibre fun x => { x with wait := some w, run := x.run.map fun r => { r with word := c.first } }) :=
    .fib (by intro _; simp only [Fibre.onLanes, Fibre.regs])
  split
  · exact h.then_issue.trans (goWaiting_kept _ _)
  · exact h.then_issue

theorem holdLanes_kept (c : Issue) (h : Hold) : Kept s (holdLanes s c h) := by
  refine Kept.then_issue ?_
  exact .fib (by intro _; simp only [Fibre.onLanes, Fibre.regs])

theorem holdSync_kept (c : Issue) (h : SyncHold) : Kept s (holdSync s c h) := by
  unfold holdSync
  simp only []
  have k : Kept s ((countIssue s c).modFib c.fibre fun x =>
      { x.onLanes c.lanes (fun l => { l with pc := c.clause, word := c.word, hold := .sync h }) with run := none }) :=
    (countIssue_kept c).then_fib (by intro _; simp only [Fibre.onLanes, Fibre.regs])
  refine Kept.trans ?_ (stepDone_kept c)
  split
  · exact k.trans (yieldPoint_kept _)
  · exact k

/-! ### Faults -/

theorem recordTime_kept (f : Nat) (x : Flt) : Kept s (recordTime s f x).2 := by
  unfold recordTime
  simp only []
  have h : ∀ (p : Prop) [Decidable p], Kept s (if p then (s.mgmt.gts, s) else valueRead s f 4 0 s.mgmt.gts).2 := by
    intro p _
    split
    · exact .refl s
    · exact valueRead_kept _ _ _ _
  exact h _

/-- Taking a fault changes nothing that a program names: the fibre freezes, and its record is due (R267). -/
theorem freeze_kept (f : Nat) (x : Flt) (a : StopAt) (w : Option Nat) : Kept s (freeze s f x a w) := by
  unfold freeze
  split
  · exact .refl s
  · next y _ =>
    simp only []
    have h1 : Kept s (if (w.isSome && s.recording (s.partOf f)) = true then chunkEnd s f 3 0 else s) := by
      split
      · exact chunkEnd_kept _ _ _
      · exact .refl s
    refine Kept.then_issue ?_
    refine Kept.trans ?_ (handOver_kept _ _)
    refine Kept.trans ?_ (leaveSet_kept _)
    refine Kept.then_fib ?_ (by intro _; rfl)
    refine Kept.trans ?_ (recordTime_kept _ _)
    cases w with
    | some w => exact h1.trans (produce_kept _ _ _ _ _)
    | none =>
      have h2 : ∀ x : State, Kept s x → Kept s (if x.recording (x.partOf f) = true then chunkEnd x f 3 0 else x) := by
        intro x h
        split
        · exact h.trans (chunkEnd_kept _ _ _)
        · exact h
      exact h2 _ h1

theorem raiseAt_kept (c : Issue) (x : Flt) (n : Nat) : Kept s (raiseAt s c x n) := by
  unfold raiseAt
  refine Kept.trans ?_ (freeze_kept _ _ _ _)
  exact .fib (by intro _; simp only [Fibre.onLanes, Fibre.regs])

theorem raise_kept (c : Issue) (x : Flt) : Kept s (raise s c x) := raiseAt_kept _ _ _

theorem raiseCause_kept (c : Issue) (n : Nat) : Kept s (raiseCause s c n) := raise_kept _ _

theorem illegal_kept (c : Issue) : Kept s (illegal s c) := raiseCause_kept c 1

theorem asyncFault_kept (f a b : Nat) (w : Option Nat) (x y : Nat) : Kept s (asyncFault s f a b w x y) := by
  unfold asyncFault; split
  · exact .refl s
  · exact freeze_kept _ _ _ _

end Sys2Proof.Machine
end

