-- ==== Sys2Proof/Laws/FrameMem.lean ====
section
/-!
SUPPORT. Sys2Proof/Laws/FrameMem.lean: issuing, retiring, stalling and faulting change no byte of memory and no cached line, unless the
partition replays a log (then the end of a word may perform a logged drop).
-/

namespace Sys2Proof.Machine

variable {s t u : State}

theorem SameMem.refl (s : State) : SameMem s s := ⟨rfl, rfl, fun _ => rfl, fun _ => ⟨rfl, rfl, rfl⟩, rfl⟩

theorem SameMem.trans (h : SameMem s t) (k : SameMem t u) : SameMem s u :=
  ⟨k.mem.trans h.mem, k.lines.trans h.lines, fun n => (k.l1 n).trans (h.l1 n),
   fun p => ⟨(k.parts p).1.trans (h.parts p).1, (k.parts p).2.1.trans (h.parts p).2.1, (k.parts p).2.2.trans (h.parts p).2.2⟩,
   k.grids.trans h.grids⟩

theorem SameMem.of_eq (h1 : t.mem = s.mem) (h2 : t.lines = s.lines) (h3 : t.cores = s.cores) (h4 : t.parts = s.parts)
    (h5 : t.grids = s.grids) : SameMem s t :=
  ⟨h1, h2, fun k => by simp [State.core, h3], fun p => by simp [State.part, h4], h5⟩

theorem SameMem.fib {n : Nat} {g : Fibre → Fibre} : SameMem s (s.modFib n g) := .of_eq rfl rfl rfl rfl rfl
theorem SameMem.slot {n : Nat} {g : Slot → Slot} : SameMem s (s.modSlot n g) := .of_eq rfl rfl rfl rfl rfl
theorem SameMem.issue {x : Option Issue} : SameMem s { s with issue := x } := .of_eq rfl rfl rfl rfl rfl

theorem SameMem.core {n : Nat} {g : Core → Core} (h : ∀ k, (g k).l1 = k.l1) : SameMem s (s.modCore n g) where
  mem := rfl
  lines := rfl
  l1 k := by
    rw [State.core_modCore]
    split
    · next e => subst e; exact h _
    · rfl
  parts _ := ⟨rfl, rfl, rfl⟩
  grids := rfl

theorem SameMem.part {n : Nat} {g : Part → Part} (h : ∀ x, (g x).cfg = x.cfg ∧ (g x).mode = x.mode ∧ (g x).replay = x.replay) :
    SameMem s (s.modPart n g) where
  mem := rfl
  lines := rfl
  l1 _ := rfl
  parts p := by
    by_cases e : p = n
    · subst e; rw [State.part_modPart_self]; exact h _
    · rw [State.part_modPart_ne _ _ e]; exact ⟨rfl, rfl, rfl⟩
  grids := rfl

theorem pmCount_sameMem (c : Nat) (sl : Option Nat) (ev n : Nat) : SameMem s (s.pmCount c sl ev n) := by
  unfold State.pmCount; split
  · exact .refl s
  · refine .core fun k => ?_
    unfold Core.pmCount; split <;> rfl

theorem emit_sameMem (p k : Nat) (r : BitVec 128) : SameMem s (emit s p k r) := by
  unfold emit; split
  · exact .refl s
  · unfold modRecorder
    refine SameMem.trans ?_ (.part (by intro _; exact ⟨rfl, rfl, rfl⟩))
    split
    · exact pmCount_sameMem _ _ _ _
    · exact .refl s

theorem diverge_sameMem (f a b c : Nat) : SameMem s (diverge s f a b c) := .fib

theorem mismatch_sameMem (f : Nat) : SameMem s (mismatch s f) := .fib

theorem meetRec_sameMem (f : Nat) (r : BitVec 128) (ln n : Nat) : SameMem s (meetRec s f r ln n) := .fib

theorem replayChunk_sameMem (f : Nat) : SameMem s (replayChunk s f) := by
  unfold replayChunk
  split
  · exact .refl s
  · split
    · split
      · simp only []
        split
        · exact SameMem.trans (t := popLog s f _) .fib .fib
        · exact SameMem.trans (SameMem.trans (t := popLog s f _) .fib .fib) (diverge_sameMem _ _ _ _)
      · exact .refl s
    · exact .refl s

theorem chunkEnd_sameMem (f a b : Nat) : SameMem s (chunkEnd s f a b) := by
  unfold chunkEnd
  split
  · exact .refl s
  · simp only []
    split
    · split
      · exact .refl s
      · exact (emit_sameMem _ _ _).trans .fib
    · split
      · exact replayChunk_sameMem _
      · exact .refl s

theorem noteRec_sameMem (p f : Nat) (r : BitVec 128) : SameMem s (noteRec s p f r) := by
  unfold noteRec
  split
  · exact .fib
  · exact (chunkEnd_sameMem _ _ _).trans (emit_sameMem _ _ _)

theorem produce_sameMem (f k r m q : Nat) (ln : Nat := 0) (n : Nat := 0) : SameMem s (produce s f k r m q ln n) := by
  have h : SameMem s (chunkEnd s f 0 0) := chunkEnd_sameMem _ _ _
  unfold produce
  simp only []
  split
  · exact noteRec_sameMem _ _ _
  · split
    · split
      · exact h
      · split
        · split
          · exact h.trans (meetRec_sameMem _ _ _ _)
          · exact h.trans (mismatch_sameMem _)
        · split
          · exact h
          · exact h.trans (mismatch_sameMem _)
    · exact .refl s

theorem valueRead_sameMem (f a i : Nat) (x : DWord) : SameMem s (valueRead s f a i x).2 := by
  have h : SameMem s (chunkEnd s f 0 0) := chunkEnd_sameMem _ _ _
  unfold valueRead
  split
  · exact .refl s
  · simp only []
    split
    · exact produce_sameMem _ _ _ _ _
    · split
      · split
        · exact h
        · split
          · split
            · exact h.trans (meetRec_sameMem _ _ _ _)
            · exact h.trans (mismatch_sameMem _)
          · exact h.trans (mismatch_sameMem _)
      · exact .refl s

theorem logUwrite_sameMem (f r l n : Nat) (d : Bool) (v : DWord) : SameMem s (logUwrite s f r l n d v) := by
  unfold logUwrite
  split
  · exact .refl s
  · exact (produce_sameMem _ _ _ _ _).trans .fib

theorem putS_sameMem (f r l n : Nat) (d : Bool) (v : DWord) : SameMem s (putS s f r l n d v) := by
  unfold putS
  split
  · exact .refl s
  · exact (logUwrite_sameMem _ _ _ _ _ _).trans .fib

theorem ricWrap_sameMem (f : Nat) : SameMem s (ricWrap s f) := (produce_sameMem _ _ _ _ _).trans .fib

theorem countWord_sameMem (f : Nat) : SameMem s (countWord s f) := by
  have h : ∀ x : State, SameMem x (chunkLimit x f) := by
    intro x
    unfold chunkLimit; split
    · split
      · exact chunkEnd_sameMem _ _ _
      · exact .refl x
    · exact .refl x
  unfold countWord; split
  · exact .refl s
  · simp only []
    split
    · exact (ricWrap_sameMem _).trans (h _)
    · exact SameMem.trans .fib (h _)

/-- Kept registers and the same modes: the same partition for every fibre, replaying as before. -/
theorem partOf_kept (h : Kept s t) (k : SameMem s t) (f : Nat) : t.partOf f = s.partOf f := by
  have hg : t.gridOf f = s.gridOf f := by
    have hr := h.regs f
    unfold State.gridOf State.team State.grid
    rw [h.teams, k.grids]
    cases ht : t.fib f with
    | none => cases hs : s.fib f with
      | none => rfl
      | some y => rw [ht, hs] at hr; simp at hr
    | some x => cases hs : s.fib f with
      | none => rw [ht, hs] at hr; simp at hr
      | some y =>
        rw [ht, hs] at hr
        have e : x.team = y.team := congrArg Regs.team (Option.some.inj hr)
        simp [e]
  have hc : t.partOfCore (coreOf f) = s.partOfCore (coreOf f) := by
    unfold State.partOfCore
    simp only [(k.parts _).1]
  unfold State.partOf
  rw [hg, hc]

theorem replaying_kept (k : SameMem s t) (p : Nat) : t.replaying p = s.replaying p := by
  unfold State.replaying State.inReplayMode
  rw [(k.parts p).2.1, (k.parts p).2.2]

theorem countIssue_sameMem (c : Issue) (h : s.replaying (s.partOf c.fibre) = false) : SameMem s (countIssue s c) := by
  have hk : SameMem s (countWord s c.fibre) := countWord_sameMem _
  have hr : SameMem s (replayAfter (countWord s c.fibre) c.fibre) := by
    unfold replayAfter
    rw [partOf_kept (countWord_kept _) hk, replaying_kept hk, h]
    exact hk
  unfold countIssue
  simp only []
  have h0 : SameMem s (if (((s.fib c.fibre).map (·.stepRest)).getD 0 == 0) = true then replayAfter (countWord s c.fibre) c.fibre
      else countWord s c.fibre) := by
    split
    · exact hr
    · exact hk
  exact (((h0.trans (pmCount_sameMem _ _ _ _)).trans (pmCount_sameMem _ _ _ _)).trans (pmCount_sameMem _ _ _ _)).trans
    (.of_eq rfl rfl rfl rfl rfl)

theorem handOver_sameMem (f w : Nat) : SameMem s (handOver s f w) := by
  unfold handOver
  simp only []
  split
  · exact SameMem.trans .slot (pmCount_sameMem _ _ _ _)
  · exact .refl s

theorem leaveSet_sameMem (f : Nat) : SameMem s (leaveSet s f) := .core fun _ => rfl

theorem goWaiting_sameMem (f w : Nat) : SameMem s (goWaiting s f w) := by
  unfold goWaiting; split
  · exact (SameMem.trans .fib (leaveSet_sameMem _)).trans (handOver_sameMem _ _)
  · exact .refl s

theorem yieldPoint_sameMem (f : Nat) : SameMem s (yieldPoint s f) := .fib

theorem endRun_sameMem (c : Issue) : SameMem s (endRun s c) := by
  unfold endRun
  simp only []
  split
  · exact SameMem.trans .fib (yieldPoint_sameMem _)
  · exact .fib

theorem advance_sameMem (c : Issue) : SameMem s (advance s c) := by
  unfold advance
  split
  · exact SameMem.trans .fib (endRun_sameMem _)
  · simp only []
    split
    · exact SameMem.trans .fib .fib
    · exact .fib

/-- Retiring a word changes no byte of memory, unless a log is replayed. -/
theorem retire_sameMem (c : Issue) (h : s.replaying (s.partOf c.fibre) = false) : SameMem s (retire s c) :=
  ((countIssue_sameMem c h).trans (advance_sameMem c)).trans .fib

theorem retireTo_sameMem (c : Issue) (g : Fin 32 → DWord) (h : s.replaying (s.partOf c.fibre) = false) : SameMem s (retireTo s c g) :=
  (((countIssue_sameMem c h).trans .fib).trans (endRun_sameMem c)).trans .fib

theorem stall_sameMem (c : Issue) (w : Wait) : SameMem s (stall s c w) := by
  unfold stall
  simp only []
  split
  · exact SameMem.trans (SameMem.trans .fib .issue) (goWaiting_sameMem _ _)
  · exact SameMem.trans .fib .issue

theorem holdLanes_sameMem (c : Issue) (h : Hold) : SameMem s (holdLanes s c h) := SameMem.trans .fib .issue

theorem holdSync_sameMem (c : Issue) (x : SyncHold) (h : s.replaying (s.partOf c.fibre) = false) : SameMem s (holdSync s c x) := by
  unfold holdSync
  simp only []
  refine SameMem.trans ?_ .fib
  split
  · exact ((countIssue_sameMem c h).trans .fib).trans (yieldPoint_sameMem _)
  · exact (countIssue_sameMem c h).trans .fib

/-- Taking a fault changes no byte of memory. -/
theorem freeze_sameMem (f : Nat) (x : Flt) (a : StopAt) (w : Option Nat) : SameMem s (freeze s f x a w) := by
  unfold freeze
  split
  · exact .refl s
  · simp only []
    have h1 : SameMem s (if (w.isSome && s.recording (s.partOf f)) = true then chunkEnd s f 3 0 else s) := by
      split
      · exact chunkEnd_sameMem _ _ _
      · exact .refl s
    have hr : ∀ y : State, SameMem y (recordTime y f x).2 := by
      intro y
      unfold recordTime
      simp only []
      have h : ∀ (p : Prop) [Decidable p], SameMem y (if p then (y.mgmt.gts, y) else valueRead y f 4 0 y.mgmt.gts).2 := by
        intro p _
        split
        · exact .refl y
        · exact valueRead_sameMem _ _ _ _
      exact h _
    refine SameMem.trans ?_ .issue
    refine SameMem.trans ?_ (handOver_sameMem _ _)
    refine SameMem.trans ?_ (leaveSet_sameMem _)
    refine SameMem.trans ?_ .fib
    refine SameMem.trans ?_ (hr _)
    cases w with
    | some w => exact h1.trans (produce_sameMem _ _ _ _ _)
    | none =>
      have h2 : ∀ x : State, SameMem s x → SameMem s (if x.recording (x.partOf f) = true then chunkEnd x f 3 0 else x) := by
        intro x h
        split
        · exact h.trans (chunkEnd_sameMem _ _ _)
        · exact h
      exact h2 _ h1

theorem raiseAt_sameMem (c : Issue) (x : Flt) (n : Nat) : SameMem s (raiseAt s c x n) := SameMem.trans .fib (freeze_sameMem _ _ _ _)

end Sys2Proof.Machine
end

