-- ==== Sys2Proof/Laws/Masks.lean ====
section
/-!
SUPPORT. Sys2Proof/Laws/Masks.lean: lane masks: which lanes a mask built from a test holds, and the lanes of a mask in order.
-/

namespace Sys2Proof.Machine

theorem maskOf_foldl (p : Fin 32 → Bool) (l : List (Fin 32)) (m : LaneMask) (i : Fin 32) :
    (l.foldl (fun m x => if p x then m ||| (1#32 <<< x.val) else m) m).getLsbD i.val = (m.getLsbD i.val || (p i && l.contains i)) := by
  induction l generalizing m with
  | nil => simp
  | cons x r ih =>
    rw [List.foldl_cons, ih]
    by_cases hx : x = i
    · subst hx
      by_cases hp : p x <;> simp [hp]
    · have hne : x.val ≠ i.val := fun e => hx (Fin.ext e)
      have hc : (x :: r).contains i = r.contains i := by
        rw [List.contains_cons, show (i == x) = false by simpa using fun e => hx e.symm, Bool.false_or]
      rw [hc]
      by_cases hp : p x
      · have h1 : (1#32 <<< x.val).getLsbD i.val = false := by
          simp only [BitVec.getLsbD_shiftLeft]
          by_cases hlt : i.val < x.val
          · simp [hlt]
          · have : i.val - x.val ≠ 0 := by omega
            simp [this]
        simp only [hp, if_true]
        rw [BitVec.getLsbD_or, h1, Bool.or_false]
      · simp [hp]

/-- A lane is in the mask of a test where the test holds. -/
@[simp] theorem inMask_maskOf (p : Fin 32 → Bool) (i : Fin 32) : inMask (maskOf p) i = p i := by
  unfold inMask maskOf
  rw [maskOf_foldl]
  simp

theorem inMask_and (a b : LaneMask) (l : Fin 32) : inMask (a &&& b) l = (inMask a l && inMask b l) := by simp [inMask]

theorem inMask_not (a : LaneMask) (l : Fin 32) : inMask (~~~ a) l = !inMask a l := by simp [inMask]

@[simp] theorem inMask_zero (l : Fin 32) : inMask 0 l = false := by simp [inMask]

@[simp] theorem inMask_allOnes (l : Fin 32) : inMask (BitVec.allOnes 32) l = true := by
  unfold inMask; rw [BitVec.getLsbD_allOnes]; simp

theorem mask_ext {a b : LaneMask} (h : ∀ l, inMask a l = inMask b l) : a = b := by
  apply BitVec.eq_of_getLsbD_eq
  intro i hi
  exact h ⟨i, hi⟩

theorem mem_laneList (m : LaneMask) (l : Fin 32) : l ∈ laneList m ↔ inMask m l = true := by
  simp [laneList]

end Sys2Proof.Machine
end

