-- ==== Sys2Proof/Laws/Memory.lean ====
section
/-!
SUPPORT. Sys2Proof/Laws/Memory.lean: byte memories: reading back what was written, leaving every other byte alone, and keeping the
canonical form.
-/

namespace Sys2Proof.Machine

theorem Mem.sortedFrom_mono {m : Mem} {lo lo' : Nat} (h : m.sortedFrom lo = true) (hl : lo' ≤ lo) : m.sortedFrom lo' = true := by
  cases m with
  | nil => rfl
  | cons c r =>
    obtain ⟨a, b⟩ := c
    simp only [Mem.sortedFrom, Bool.and_eq_true, decide_eq_true_eq] at h ⊢
    exact ⟨⟨by omega, h.1.2⟩, h.2⟩

/-- Below its first address a memory reads as 0. -/
theorem Mem.read_below {m : Mem} {lo a : Nat} (h : m.sortedFrom lo = true) (ha : a < lo) : m.read a = 0 := by
  cases m with
  | nil => rfl
  | cons c r =>
    obtain ⟨x, b⟩ := c
    simp only [Mem.sortedFrom, Bool.and_eq_true, decide_eq_true_eq] at h
    have h1 : a ≠ x := by omega
    have h2 : a < x := by omega
    simp [Mem.read, h1, h2]

theorem Mem.write_sortedFrom {m : Mem} {lo : Nat} (h : m.sortedFrom lo = true) {a : Nat} (ha : lo ≤ a) (b : Byte) :
    (m.write a b).sortedFrom lo = true := by
  induction m generalizing lo with
  | nil =>
    simp only [Mem.write]
    split <;> simp_all [Mem.sortedFrom]
  | cons c r ih =>
    obtain ⟨x, y⟩ := c
    simp only [Mem.sortedFrom, Bool.and_eq_true, decide_eq_true_eq] at h
    simp only [Mem.write]
    split
    · subst x
      split
      · exact Mem.sortedFrom_mono h.2 (by omega)
      · simp only [Mem.sortedFrom, Bool.and_eq_true, decide_eq_true_eq]
        exact ⟨⟨ha, ‹_›⟩, h.2⟩
    · split
      · split
        · simp only [Mem.sortedFrom, Bool.and_eq_true, decide_eq_true_eq]
          exact h
        · simp only [Mem.sortedFrom, Bool.and_eq_true, decide_eq_true_eq]
          exact ⟨⟨ha, ‹_›⟩, ⟨by omega, h.1.2⟩, h.2⟩
      · simp only [Mem.sortedFrom, Bool.and_eq_true, decide_eq_true_eq]
        exact ⟨h.1, ih h.2 (by omega)⟩

/-- Writing a byte keeps the canonical form. -/
theorem Mem.write_wf {m : Mem} (h : m.wf = true) (a : Nat) (b : Byte) : (m.write a b).wf = true :=
  Mem.write_sortedFrom h (Nat.zero_le a) b

theorem Mem.read_write_sorted {m : Mem} {lo : Nat} (h : m.sortedFrom lo = true) (a : Nat) (b : Byte) (x : Nat) :
    (m.write a b).read x = if x = a then b else m.read x := by
  induction m generalizing lo with
  | nil =>
    simp only [Mem.write]
    split
    · next hb => subst hb; simp [Mem.read]
    · simp only [Mem.read]; split <;> simp_all
  | cons c r ih =>
    obtain ⟨k, y⟩ := c
    simp only [Mem.sortedFrom, Bool.and_eq_true, decide_eq_true_eq] at h
    simp only [Mem.write]
    split
    · subst k
      split
      · next hb =>
        subst hb
        by_cases hx : x = a
        · subst hx; simp [Mem.read_below h.2 (Nat.lt_succ_self _)]
        · by_cases hl : x < a
          · simp [Mem.read, hx, hl, Mem.read_below h.2 (show x < a + 1 by omega)]
          · simp [Mem.read, hx, hl]
      · by_cases hx : x = a <;> simp [Mem.read, hx]
    · next hk =>
      split
      · next hlt =>
        split
        · next hb =>
          subst hb
          by_cases hx : x = a
          · subst hx; simp [Mem.read, hk, hlt]
          · simp [hx]
        · by_cases hx : x = a
          · simp [Mem.read, hx]
          · by_cases hl : x < a
            · have h1 : x ≠ k := by omega
              have h2 : x < k := by omega
              simp [Mem.read, hx, hl, h1, h2]
            · simp [Mem.read, hx, hl]
      · next hlt =>
        by_cases hx : x = k
        · have h1 : k ≠ a := fun e => hk e.symm
          simp [Mem.read, hx, h1]
        · by_cases hl : x < k
          · have h1 : x ≠ a := by omega
            simp [Mem.read, hx, hl, h1]
          · simp [Mem.read, hx, hl, ih h.2]

/-- A byte reads back as it was written. -/
theorem Mem.read_write_self {m : Mem} (h : m.wf = true) (a : Nat) (b : Byte) : (m.write a b).read a = b := by
  simp [Mem.read_write_sorted h]

/-- A write of one byte leaves every other byte alone. -/
theorem Mem.read_write_ne {m : Mem} (h : m.wf = true) {a x : Nat} (b : Byte) (hx : x ≠ a) : (m.write a b).read x = m.read x := by
  simp [Mem.read_write_sorted h, hx]

theorem Mem.writeN_wf {m : Mem} (h : m.wf = true) (a n v : Nat) : (m.writeN a n v).wf = true := by
  induction n generalizing m a v with
  | zero => exact h
  | succ n ih => exact ih (Mem.write_wf h _ _) _ _

theorem Mem.writeL_wf {m : Mem} (h : m.wf = true) (a : Nat) (l : List Byte) : (m.writeL a l).wf = true := by
  induction l generalizing m a with
  | nil => exact h
  | cons b r ih => exact ih (Mem.write_wf h _ _) _

theorem Mem.writeMask_wf {m : Mem} (h : m.wf = true) (a n v k : Nat) : (m.writeMask a n v k).wf = true := by
  induction n generalizing m a v k with
  | zero => exact h
  | succ n ih =>
    simp only [Mem.writeMask]
    split
    · exact ih (Mem.write_wf h _ _) _ _ _
    · exact ih h _ _ _

theorem Mem.filter_sortedFrom {m : Mem} {lo : Nat} (h : m.sortedFrom lo = true) (p : Host.Cell → Bool) :
    Mem.sortedFrom lo (m.filter p) = true := by
  induction m generalizing lo with
  | nil => rfl
  | cons c r ih =>
    obtain ⟨a, b⟩ := c
    simp only [Mem.sortedFrom, Bool.and_eq_true, decide_eq_true_eq] at h
    simp only [List.filter_cons]
    split
    · simp only [Mem.sortedFrom, Bool.and_eq_true, decide_eq_true_eq]
      exact ⟨h.1, ih h.2⟩
    · exact ih (Mem.sortedFrom_mono h.2 (by omega))

theorem Mem.zero_wf {m : Mem} (h : m.wf = true) (a n : Nat) : (m.zero a n).wf = true := Mem.filter_sortedFrom h _

/-- Bytes outside a write of n bytes read as before. -/
theorem Mem.read_writeN_out {m : Mem} (h : m.wf = true) {a n x : Nat} (v : Nat) (hx : x < a ∨ a + n ≤ x) :
    (m.writeN a n v).read x = m.read x := by
  induction n generalizing m a v with
  | zero => rfl
  | succ n ih =>
    simp only [Mem.writeN]
    rw [ih (Mem.write_wf h _ _) _ (by omega), Mem.read_write_ne h _ (by omega)]

/-- Bytes outside a masked write read as before. -/
theorem Mem.read_writeMask_out {m : Mem} (h : m.wf = true) {a n x : Nat} (v k : Nat) (hx : x < a ∨ a + n ≤ x) :
    (m.writeMask a n v k).read x = m.read x := by
  induction n generalizing m a v k with
  | zero => rfl
  | succ n ih =>
    simp only [Mem.writeMask]
    split
    · rw [ih (Mem.write_wf h _ _) _ _ (by omega), Mem.read_write_ne h _ (by omega)]
    · exact ih h _ _ (by omega)

/-- The n bytes written read back as the number written. -/
theorem Mem.readN_writeN {m : Mem} (h : m.wf = true) (a n v : Nat) : (m.writeN a n v).readN a n = v % 256 ^ n := by
  induction n generalizing m a v with
  | zero => simp [Mem.readN, Nat.mod_one]
  | succ n ih =>
    simp only [Mem.readN, Mem.writeN]
    rw [ih (Mem.write_wf h _ _), Mem.read_writeN_out (Mem.write_wf h _ _) _ (by omega), Mem.read_write_self h]
    have h1 : v % 256 ^ (n + 1) = v % 256 + 256 * (v / 256 % 256 ^ n) := by
      rw [pow_succ, Nat.mul_comm, Nat.mod_mul]
    rw [h1]
    simp

end Sys2Proof.Machine
end

