-- ==== Sys2Proof/Laws/PerInstr.lean ====
section
/-!
SUPPORT. Sys2Proof/Laws/PerInstr.lean: statements made of every instruction, one lemma per constructor.
-/

namespace Sys2Proof.Laws.Encodes

/-- An instruction word has one word, an event of the device none. -/
def Statement (i : Instr) : Prop := (encode i).length = if i.isWord then 1 else 0

theorem iadd (d : BitVec 7) (a : BitVec 7) (b : BitVec 7) : Statement (.iadd d a b) := rfl
theorem isub (d : BitVec 7) (a : BitVec 7) (b : BitVec 7) : Statement (.isub d a b) := rfl
theorem imul (d : BitVec 7) (a : BitVec 7) (b : BitVec 7) : Statement (.imul d a b) := rfl
theorem imulhSg (d : BitVec 7) (a : BitVec 7) (b : BitVec 7) : Statement (.imulhSg d a b) := rfl
theorem imulhUs (d : BitVec 7) (a : BitVec 7) (b : BitVec 7) : Statement (.imulhUs d a b) := rfl
theorem imad (d : BitVec 7) (a : BitVec 7) (b : BitVec 7) : Statement (.imad d a b) := rfl
theorem iminSg (d : BitVec 7) (a : BitVec 7) (b : BitVec 7) : Statement (.iminSg d a b) := rfl
theorem iminUs (d : BitVec 7) (a : BitVec 7) (b : BitVec 7) : Statement (.iminUs d a b) := rfl
theorem imaxSg (d : BitVec 7) (a : BitVec 7) (b : BitVec 7) : Statement (.imaxSg d a b) := rfl
theorem imaxUs (d : BitVec 7) (a : BitVec 7) (b : BitVec 7) : Statement (.imaxUs d a b) := rfl
theorem iabs (d : BitVec 7) (a : BitVec 7) : Statement (.iabs d a) := rfl
theorem and (d : BitVec 7) (a : BitVec 7) (b : BitVec 7) : Statement (.and d a b) := rfl
theorem or (d : BitVec 7) (a : BitVec 7) (b : BitVec 7) : Statement (.or d a b) := rfl
theorem xor (d : BitVec 7) (a : BitVec 7) (b : BitVec 7) : Statement (.xor d a b) := rfl
theorem andn (d : BitVec 7) (a : BitVec 7) (b : BitVec 7) : Statement (.andn d a b) := rfl
theorem shl (d : BitVec 7) (a : BitVec 7) (b : BitVec 7) : Statement (.shl d a b) := rfl
theorem shr (d : BitVec 7) (a : BitVec 7) (b : BitVec 7) : Statement (.shr d a b) := rfl
theorem sar (d : BitVec 7) (a : BitVec 7) (b : BitVec 7) : Statement (.sar d a b) := rfl
theorem rot (d : BitVec 7) (a : BitVec 7) (b : BitVec 7) : Statement (.rot d a b) := rfl
theorem clz (d : BitVec 7) (a : BitVec 7) : Statement (.clz d a) := rfl
theorem popc (d : BitVec 7) (a : BitVec 7) : Statement (.popc d a) := rfl
theorem brev (d : BitVec 7) (a : BitVec 7) : Statement (.brev d a) := rfl
theorem mov (d : BitVec 7) (a : BitVec 7) : Statement (.mov d a) := rfl
theorem movFromUniform (d : BitVec 7) (sa : BitVec 6) : Statement (.movFromUniform d sa) := rfl
theorem movB64 (d : BitVec 7) (sa : BitVec 6) : Statement (.movB64 d sa) := rfl
theorem bfeUs (d : BitVec 7) (a : BitVec 7) (b : BitVec 7) : Statement (.bfeUs d a b) := rfl
theorem bfeSg (d : BitVec 7) (a : BitVec 7) (b : BitVec 7) : Statement (.bfeSg d a b) := rfl
theorem bfi (d : BitVec 7) (a : BitVec 7) (b : BitVec 7) : Statement (.bfi d a b) := rfl
theorem iadd64 (d : BitVec 7) (a : BitVec 7) (b : BitVec 7) : Statement (.iadd64 d a b) := rfl
theorem isub64 (d : BitVec 7) (a : BitVec 7) (b : BitVec 7) : Statement (.isub64 d a b) := rfl
theorem imul64 (d : BitVec 7) (a : BitVec 7) (b : BitVec 7) : Statement (.imul64 d a b) := rfl
theorem shl64 (d : BitVec 7) (a : BitVec 7) (b : BitVec 7) : Statement (.shl64 d a b) := rfl
theorem shr64 (d : BitVec 7) (a : BitVec 7) (b : BitVec 7) : Statement (.shr64 d a b) := rfl
theorem sar64 (d : BitVec 7) (a : BitVec 7) (b : BitVec 7) : Statement (.sar64 d a b) := rfl
theorem iaddImm (d : BitVec 7) (a : BitVec 7) (i : BitVec 11) : Statement (.iaddImm d a i) := rfl
theorem andImm (d : BitVec 7) (a : BitVec 7) (i : BitVec 11) : Statement (.andImm d a i) := rfl
theorem shlImm (d : BitVec 7) (a : BitVec 7) (n : BitVec 6) : Statement (.shlImm d a n) := rfl
theorem shrImm (d : BitVec 7) (a : BitVec 7) (n : BitVec 6) : Statement (.shrImm d a n) := rfl
theorem sarImm (d : BitVec 7) (a : BitVec 7) (n : BitVec 6) : Statement (.sarImm d a n) := rfl
theorem rotImm (d : BitVec 7) (a : BitVec 7) (n : BitVec 6) : Statement (.rotImm d a n) := rfl
theorem shl64Imm (d : BitVec 7) (a : BitVec 7) (n : BitVec 6) : Statement (.shl64Imm d a n) := rfl
theorem shr64Imm (d : BitVec 7) (a : BitVec 7) (n : BitVec 6) : Statement (.shr64Imm d a n) := rfl
theorem sar64Imm (d : BitVec 7) (a : BitVec 7) (n : BitVec 6) : Statement (.sar64Imm d a n) := rfl
theorem movi (d : BitVec 7) (i : BitVec 18) : Statement (.movi d i) := rfl
theorem icmp (c : ICond) (p : BitVec 3) (a : BitVec 7) (b : BitVec 7) : Statement (.icmp c p a b) := rfl
theorem icmp64 (c : ICond) (p : BitVec 3) (a : BitVec 7) (b : BitVec 7) : Statement (.icmp64 c p a b) := rfl
theorem sel (n : Bool) (p : BitVec 3) (d : BitVec 7) (a : BitVec 7) (b : BitVec 7) : Statement (.sel n p d a b) := rfl
theorem pand (d : BitVec 3) (a : BitVec 3) (b : BitVec 3) : Statement (.pand d a b) := rfl
theorem por (d : BitVec 3) (a : BitVec 3) (b : BitVec 3) : Statement (.por d a b) := rfl
theorem pxor (d : BitVec 3) (a : BitVec 3) (b : BitVec 3) : Statement (.pxor d a b) := rfl
theorem pnot (d : BitVec 3) (a : BitVec 3) : Statement (.pnot d a) := rfl
theorem idp4Sg (d : BitVec 7) (a : BitVec 7) (b : BitVec 7) : Statement (.idp4Sg d a b) := rfl
theorem idp4Us (d : BitVec 7) (a : BitVec 7) (b : BitVec 7) : Statement (.idp4Us d a b) := rfl
theorem idp2Sg (d : BitVec 7) (a : BitVec 7) (b : BitVec 7) : Statement (.idp2Sg d a b) := rfl
theorem idp2Us (d : BitVec 7) (a : BitVec 7) (b : BitVec 7) : Statement (.idp2Us d a b) := rfl
theorem faddF32 (d : BitVec 7) (a : BitVec 7) (b : BitVec 7) : Statement (.faddF32 d a b) := rfl
theorem fsubF32 (d : BitVec 7) (a : BitVec 7) (b : BitVec 7) : Statement (.fsubF32 d a b) := rfl
theorem fmulF32 (d : BitVec 7) (a : BitVec 7) (b : BitVec 7) : Statement (.fmulF32 d a b) := rfl
theorem ffmaF32 (d : BitVec 7) (a : BitVec 7) (b : BitVec 7) : Statement (.ffmaF32 d a b) := rfl
theorem fminF32 (d : BitVec 7) (a : BitVec 7) (b : BitVec 7) : Statement (.fminF32 d a b) := rfl
theorem fmaxF32 (d : BitVec 7) (a : BitVec 7) (b : BitVec 7) : Statement (.fmaxF32 d a b) := rfl
theorem faddF64 (d : BitVec 7) (a : BitVec 7) (b : BitVec 7) : Statement (.faddF64 d a b) := rfl
theorem fsubF64 (d : BitVec 7) (a : BitVec 7) (b : BitVec 7) : Statement (.fsubF64 d a b) := rfl
theorem fmulF64 (d : BitVec 7) (a : BitVec 7) (b : BitVec 7) : Statement (.fmulF64 d a b) := rfl
theorem ffmaF64 (d : BitVec 7) (a : BitVec 7) (b : BitVec 7) : Statement (.ffmaF64 d a b) := rfl
theorem fminF64 (d : BitVec 7) (a : BitVec 7) (b : BitVec 7) : Statement (.fminF64 d a b) := rfl
theorem fmaxF64 (d : BitVec 7) (a : BitVec 7) (b : BitVec 7) : Statement (.fmaxF64 d a b) := rfl
theorem fcmpF32 (c : FCond) (p : BitVec 3) (a : BitVec 7) (b : BitVec 7) : Statement (.fcmpF32 c p a b) := rfl
theorem fcmpF64 (c : FCond) (p : BitVec 3) (a : BitVec 7) (b : BitVec 7) : Statement (.fcmpF64 c p a b) := rfl
theorem fdivF32 (d : BitVec 7) (a : BitVec 7) (b : BitVec 7) : Statement (.fdivF32 d a b) := rfl
theorem fsqrtF32 (d : BitVec 7) (a : BitVec 7) : Statement (.fsqrtF32 d a) := rfl
theorem frcpF32 (d : BitVec 7) (a : BitVec 7) : Statement (.frcpF32 d a) := rfl
theorem frsqF32 (d : BitVec 7) (a : BitVec 7) : Statement (.frsqF32 d a) := rfl
theorem fdivF64 (d : BitVec 7) (a : BitVec 7) (b : BitVec 7) : Statement (.fdivF64 d a b) := rfl
theorem fsqrtF64 (d : BitVec 7) (a : BitVec 7) : Statement (.fsqrtF64 d a) := rfl
theorem frcpF64 (d : BitVec 7) (a : BitVec 7) : Statement (.frcpF64 d a) := rfl
theorem frsqF64 (d : BitVec 7) (a : BitVec 7) : Statement (.frsqF64 d a) := rfl
theorem tradd (f : TapFmt) (d : BitVec 7) (a : BitVec 7) (b : BitVec 7) : Statement (.tradd f d a b) := rfl
theorem trsub (f : TapFmt) (d : BitVec 7) (a : BitVec 7) (b : BitVec 7) : Statement (.trsub f d a b) := rfl
theorem trmul (f : TapFmt) (d : BitVec 7) (a : BitVec 7) (b : BitVec 7) : Statement (.trmul f d a b) := rfl
theorem trfma (f : TapFmt) (d : BitVec 7) (a : BitVec 7) (b : BitVec 7) : Statement (.trfma f d a b) := rfl
theorem trmin (f : TapFmt) (d : BitVec 7) (a : BitVec 7) (b : BitVec 7) : Statement (.trmin f d a b) := rfl
theorem trmax (f : TapFmt) (d : BitVec 7) (a : BitVec 7) (b : BitVec 7) : Statement (.trmax f d a b) := rfl
theorem trcmp (f : TapFmt) (c : TCond) (p : BitVec 3) (a : BitVec 7) (b : BitVec 7) : Statement (.trcmp f c p a b) := rfl
theorem trdec (f : TapFmt) (d : BitVec 7) (a : BitVec 7) : Statement (.trdec f d a) := rfl
theorem trenc (f : TapFmt) (d : BitVec 7) (a : BitVec 7) : Statement (.trenc f d a) := rfl
theorem qmac (f : QmacFmt) (q : BitVec 1) (a : BitVec 7) (b : BitVec 7) : Statement (.qmac f q a b) := rfl
theorem qclr (q : BitVec 1) : Statement (.qclr q) := rfl
theorem qround (d : BitVec 7) (q : BitVec 1) (t : QTarget) : Statement (.qround d q t) := rfl
theorem qadd (f : QaddFmt) (q : BitVec 1) (a : BitVec 7) : Statement (.qadd f q a) := rfl
theorem fex2F32 (d : BitVec 7) (a : BitVec 7) : Statement (.fex2F32 d a) := rfl
theorem flg2F32 (d : BitVec 7) (a : BitVec 7) : Statement (.flg2F32 d a) := rfl
theorem fsinF32 (d : BitVec 7) (a : BitVec 7) : Statement (.fsinF32 d a) := rfl
theorem fcosF32 (d : BitVec 7) (a : BitVec 7) : Statement (.fcosF32 d a) := rfl
theorem cvt (t : CvtFmt) (d : BitVec 7) (a : BitVec 7) (f : CvtFmt) : Statement (.cvt t d a f) := rfl
theorem cvtClamp (t : CvtFmt) (d : BitVec 7) (a : BitVec 7) (f : CvtFmt) : Statement (.cvtClamp t d a f) := rfl
theorem shflIdx (w : Bool) (d : BitVec 7) (a : BitVec 7) (b : BitVec 7) : Statement (.shflIdx w d a b) := rfl
theorem shflUp (w : Bool) (d : BitVec 7) (a : BitVec 7) (b : BitVec 7) : Statement (.shflUp w d a b) := rfl
theorem shflDown (w : Bool) (d : BitVec 7) (a : BitVec 7) (b : BitVec 7) : Statement (.shflDown w d a b) := rfl
theorem shflXor (w : Bool) (d : BitVec 7) (a : BitVec 7) (b : BitVec 7) : Statement (.shflXor w d a b) := rfl
theorem voteAny (d : BitVec 3) (a : BitVec 3) : Statement (.voteAny d a) := rfl
theorem voteAll (d : BitVec 3) (a : BitVec 3) : Statement (.voteAll d a) := rfl
theorem voteBallot (d : BitVec 7) (a : BitVec 3) : Statement (.voteBallot d a) := rfl
theorem voteEq (d : BitVec 3) (a : BitVec 7) : Statement (.voteEq d a) := rfl
theorem matchB32 (d : BitVec 7) (a : BitVec 7) : Statement (.matchB32 d a) := rfl
theorem matchB64 (d : BitVec 7) (a : BitVec 7) : Statement (.matchB64 d a) := rfl
theorem red (f : RedOp) (sd : BitVec 6) (a : BitVec 7) : Statement (.red f sd a) := rfl
theorem scan (f : ScanOp) (d : BitVec 7) (a : BitVec 7) (sd : BitVec 6) : Statement (.scan f d a sd) := rfl
theorem ldB32 (d : BitVec 7) (a : BitVec 7) (b : BitVec 4) (i : BitVec 7) : Statement (.ldB32 d a b i) := rfl
theorem ldB64 (d : BitVec 7) (a : BitVec 7) (b : BitVec 4) (i : BitVec 7) : Statement (.ldB64 d a b i) := rfl
theorem ldB128 (d : BitVec 7) (a : BitVec 7) (b : BitVec 4) (i : BitVec 7) : Statement (.ldB128 d a b i) := rfl
theorem stB32 (d : BitVec 7) (a : BitVec 7) (b : BitVec 4) (i : BitVec 7) : Statement (.stB32 d a b i) := rfl
theorem stB64 (d : BitVec 7) (a : BitVec 7) (b : BitVec 4) (i : BitVec 7) : Statement (.stB64 d a b i) := rfl
theorem stB128 (d : BitVec 7) (a : BitVec 7) (b : BitVec 4) (i : BitVec 7) : Statement (.stB128 d a b i) := rfl
theorem ldExtended (d : BitVec 7) (a : BitVec 7) (b : BitVec 4) (wc : LdKind) (o : Bool) (c : Scope) : Statement (.ldExtended d a b wc o c) := rfl
theorem pf (a : BitVec 7) (b : BitVec 4) (l : PfLevel) : Statement (.pf a b l) := rfl
theorem stExtended (d : BitVec 7) (a : BitVec 7) (b : BitVec 4) (wc : StKind) (o : Bool) (c : Scope) : Statement (.stExtended d a b wc o c) := rfl
theorem ldsB32 (d : BitVec 7) (a : BitVec 7) (i : BitVec 11) : Statement (.ldsB32 d a i) := rfl
theorem ldsB64 (d : BitVec 7) (a : BitVec 7) (i : BitVec 11) : Statement (.ldsB64 d a i) := rfl
theorem stsB32 (d : BitVec 7) (a : BitVec 7) (i : BitVec 11) : Statement (.stsB32 d a i) := rfl
theorem stsB64 (d : BitVec 7) (a : BitVec 7) (i : BitVec 11) : Statement (.stsB64 d a i) := rfl
theorem atomAddB32 (d : BitVec 7) (a : BitVec 7) (b : BitVec 4) (sc : Scope) : Statement (.atomAddB32 d a b sc) := rfl
theorem atomMinSgB32 (d : BitVec 7) (a : BitVec 7) (b : BitVec 4) (sc : Scope) : Statement (.atomMinSgB32 d a b sc) := rfl
theorem atomMinUsB32 (d : BitVec 7) (a : BitVec 7) (b : BitVec 4) (sc : Scope) : Statement (.atomMinUsB32 d a b sc) := rfl
theorem atomMaxSgB32 (d : BitVec 7) (a : BitVec 7) (b : BitVec 4) (sc : Scope) : Statement (.atomMaxSgB32 d a b sc) := rfl
theorem atomMaxUsB32 (d : BitVec 7) (a : BitVec 7) (b : BitVec 4) (sc : Scope) : Statement (.atomMaxUsB32 d a b sc) := rfl
theorem atomAndB32 (d : BitVec 7) (a : BitVec 7) (b : BitVec 4) (sc : Scope) : Statement (.atomAndB32 d a b sc) := rfl
theorem atomOrB32 (d : BitVec 7) (a : BitVec 7) (b : BitVec 4) (sc : Scope) : Statement (.atomOrB32 d a b sc) := rfl
theorem atomXorB32 (d : BitVec 7) (a : BitVec 7) (b : BitVec 4) (sc : Scope) : Statement (.atomXorB32 d a b sc) := rfl
theorem atomXchgB32 (d : BitVec 7) (a : BitVec 7) (b : BitVec 4) (sc : Scope) : Statement (.atomXchgB32 d a b sc) := rfl
theorem atomCasB32 (d : BitVec 7) (a : BitVec 7) (b : BitVec 4) (sc : Scope) : Statement (.atomCasB32 d a b sc) := rfl
theorem atomAddB64 (d : BitVec 7) (a : BitVec 7) (b : BitVec 4) (sc : Scope) : Statement (.atomAddB64 d a b sc) := rfl
theorem atomMinSgB64 (d : BitVec 7) (a : BitVec 7) (b : BitVec 4) (sc : Scope) : Statement (.atomMinSgB64 d a b sc) := rfl
theorem atomMinUsB64 (d : BitVec 7) (a : BitVec 7) (b : BitVec 4) (sc : Scope) : Statement (.atomMinUsB64 d a b sc) := rfl
theorem atomMaxSgB64 (d : BitVec 7) (a : BitVec 7) (b : BitVec 4) (sc : Scope) : Statement (.atomMaxSgB64 d a b sc) := rfl
theorem atomMaxUsB64 (d : BitVec 7) (a : BitVec 7) (b : BitVec 4) (sc : Scope) : Statement (.atomMaxUsB64 d a b sc) := rfl
theorem atomAndB64 (d : BitVec 7) (a : BitVec 7) (b : BitVec 4) (sc : Scope) : Statement (.atomAndB64 d a b sc) := rfl
theorem atomOrB64 (d : BitVec 7) (a : BitVec 7) (b : BitVec 4) (sc : Scope) : Statement (.atomOrB64 d a b sc) := rfl
theorem atomXorB64 (d : BitVec 7) (a : BitVec 7) (b : BitVec 4) (sc : Scope) : Statement (.atomXorB64 d a b sc) := rfl
theorem atomXchgB64 (d : BitVec 7) (a : BitVec 7) (b : BitVec 4) (sc : Scope) : Statement (.atomXchgB64 d a b sc) := rfl
theorem atomCasB64 (d : BitVec 7) (a : BitVec 7) (b : BitVec 4) (sc : Scope) : Statement (.atomCasB64 d a b sc) := rfl
theorem acasB128 (d : BitVec 7) (a : BitVec 7) (b : BitVec 4) (sc : Scope) : Statement (.acasB128 d a b sc) := rfl
theorem aacc (d : BitVec 7) (a : BitVec 7) (b : BitVec 4) (f : AaccFmt) : Statement (.aacc d a b f) := rfl
theorem arsv (d : BitVec 7) (b : BitVec 4) : Statement (.arsv d b) := rfl
theorem bra (p : BitVec 3) (n : Bool) (o : BitVec 17) : Statement (.bra p n o) := rfl
theorem call (p : BitVec 3) (n : Bool) (o : BitVec 17) : Statement (.call p n o) := rfl
theorem callr (p : BitVec 3) (n : Bool) (a : BitVec 7) : Statement (.callr p n a) := rfl
theorem ret (p : BitVec 3) (n : Bool) : Statement (.ret p n) := rfl
theorem jmpr (p : BitVec 3) (n : Bool) (a : BitVec 7) : Statement (.jmpr p n a) := rfl
theorem exit (p : BitVec 3) (n : Bool) : Statement (.exit p n) := rfl
theorem yield : Statement (.yield) := rfl
theorem trap (p : BitVec 3) (n : Bool) (c : BitVec 16) : Statement (.trap p n c) := rfl
theorem bkpt (p : BitVec 3) (n : Bool) (c : BitVec 16) : Statement (.bkpt p n c) := rfl
theorem nop : Statement (.nop) := rfl
theorem xPrefix (g : BitVec 3) (z : Bool) (n : Bool) (r : RMode) (v : BitVec 7) (k : LKind) (kk : BitVec 5) (ls : Bool) : Statement (.xPrefix g z n r v k kk ls) := rfl
theorem wPrefix (sw : Bool) (p : BitVec 12) : Statement (.wPrefix sw p) := rfl
theorem uadd (d : BitVec 6) (a : BitVec 6) (b : BitVec 6) : Statement (.uadd d a b) := rfl
theorem usub (d : BitVec 6) (a : BitVec 6) (b : BitVec 6) : Statement (.usub d a b) := rfl
theorem umul (d : BitVec 6) (a : BitVec 6) (b : BitVec 6) : Statement (.umul d a b) := rfl
theorem uand (d : BitVec 6) (a : BitVec 6) (b : BitVec 6) : Statement (.uand d a b) := rfl
theorem uor (d : BitVec 6) (a : BitVec 6) (b : BitVec 6) : Statement (.uor d a b) := rfl
theorem uxor (d : BitVec 6) (a : BitVec 6) (b : BitVec 6) : Statement (.uxor d a b) := rfl
theorem ushl (d : BitVec 6) (a : BitVec 6) (b : BitVec 6) : Statement (.ushl d a b) := rfl
theorem ushr (d : BitVec 6) (a : BitVec 6) (b : BitVec 6) : Statement (.ushr d a b) := rfl
theorem usar (d : BitVec 6) (a : BitVec 6) (b : BitVec 6) : Statement (.usar d a b) := rfl
theorem uminSg (d : BitVec 6) (a : BitVec 6) (b : BitVec 6) : Statement (.uminSg d a b) := rfl
theorem uminUs (d : BitVec 6) (a : BitVec 6) (b : BitVec 6) : Statement (.uminUs d a b) := rfl
theorem umaxSg (d : BitVec 6) (a : BitVec 6) (b : BitVec 6) : Statement (.umaxSg d a b) := rfl
theorem umaxUs (d : BitVec 6) (a : BitVec 6) (b : BitVec 6) : Statement (.umaxUs d a b) := rfl
theorem umov (d : BitVec 6) (a : BitVec 6) : Statement (.umov d a) := rfl
theorem usel (d : BitVec 6) (a : BitVec 6) (b : BitVec 6) : Statement (.usel d a b) := rfl
theorem ucmp (d : BitVec 6) (a : BitVec 6) (b : BitVec 6) (c : UCond) : Statement (.ucmp d a b c) := rfl
theorem uaddImm (d : BitVec 6) (a : BitVec 6) (i : BitVec 13) : Statement (.uaddImm d a i) := rfl
theorem uld (d : BitVec 6) (a : BitVec 6) (b : BitVec 4) (o : BitVec 8) : Statement (.uld d a b o) := rfl
theorem ust (d : BitVec 6) (a : BitVec 6) (b : BitVec 4) (o : BitVec 8) : Statement (.ust d a b o) := rfl
theorem umoviLo (d : BitVec 6) (i : BitVec 19) : Statement (.umoviLo d i) := rfl
theorem umoviHi (d : BitVec 6) (i : BitVec 19) : Statement (.umoviHi d i) := rfl
theorem ubra (n : Bool) (a : BitVec 6) (i : BitVec 13) : Statement (.ubra n a i) := rfl
theorem ucall (n : Bool) (a : BitVec 6) (i : BitVec 13) : Statement (.ucall n a i) := rfl
theorem ubraReg (a : BitVec 6) : Statement (.ubraReg a) := rfl
theorem ucallReg (a : BitVec 6) : Statement (.ucallReg a) := rfl
theorem fence (sc : Scope) : Statement (.fence sc) := rfl
theorem fenceAcq (sc : Scope) : Statement (.fenceAcq sc) := rfl
theorem fenceRel (sc : Scope) : Statement (.fenceRel sc) := rfl
theorem fenceLrec : Statement (.fenceLrec) := rfl
theorem barInit (a : BitVec 6) (n : BitVec 6) : Statement (.barInit a n) := rfl
theorem barArrive (d : BitVec 6) (n : BitVec 6) : Statement (.barArrive d n) := rfl
theorem barWait (d : BitVec 6) (a : BitVec 6) (n : BitVec 6) : Statement (.barWait d a n) := rfl
theorem barSync (d : BitVec 6) (n : BitVec 6) : Statement (.barSync d n) := rfl
theorem barInval (n : BitVec 6) : Statement (.barInval n) := rfl
theorem fbarSync (d : BitVec 6) (n : BitVec 6) (k : BitVec 3) : Statement (.fbarSync d n k) := rfl
theorem ringInit (a : BitVec 6) (r : BitVec 6) : Statement (.ringInit a r) := rfl
theorem ringArriveFull (a : BitVec 6) (r : BitVec 6) : Statement (.ringArriveFull a r) := rfl
theorem ringArriveEmpty (a : BitVec 6) (r : BitVec 6) : Statement (.ringArriveEmpty a r) := rfl
theorem ringWaitFull (d : BitVec 6) (a : BitVec 6) (r : BitVec 6) (q : Bool) : Statement (.ringWaitFull d a r q) := rfl
theorem ringWaitEmpty (d : BitVec 6) (a : BitVec 6) (r : BitVec 6) (q : Bool) : Statement (.ringWaitEmpty d a r q) := rfl
theorem cftest (d : BitVec 6) (n : BitVec 6) : Statement (.cftest d n) := rfl
theorem copy (a : BitVec 6) (b : BitVec 4) (sc : Scope) : Statement (.copy a b sc) := rfl
theorem copySt (a : BitVec 6) (b : BitVec 4) (sc : Scope) : Statement (.copySt a b sc) := rfl
theorem copyAcc (a : BitVec 6) (b : BitVec 4) (sc : Scope) : Statement (.copyAcc a b sc) := rfl
theorem cvinit (a : BitVec 6) (c : BitVec 4) : Statement (.cvinit a c) := rfl
theorem mma (a : BitVec 6) (c : BitVec 4) : Statement (.mma a c) := rfl
theorem wbload (a : BitVec 6) (b : BitVec 4) : Statement (.wbload a b) := rfl
theorem wbloadMask (a : BitVec 6) (b : BitVec 4) : Statement (.wbloadMask a b) := rfl
theorem accld (a : BitVec 6) : Statement (.accld a) := rfl
theorem accldF64 (a : BitVec 6) : Statement (.accldF64 a) := rfl
theorem accst (a : BitVec 6) : Statement (.accst a) := rfl
theorem accstF64 (a : BitVec 6) : Statement (.accstF64 a) := rfl
theorem acczero (a : BitVec 6) : Statement (.acczero a) := rfl
theorem opfence : Statement (.opfence) := rfl
theorem xformCvt (a : BitVec 6) (b : BitVec 4) : Statement (.xformCvt a b) := rfl
theorem xformRound (a : BitVec 6) (b : BitVec 4) : Statement (.xformRound a b) := rfl
theorem xformScale (a : BitVec 6) (b : BitVec 4) : Statement (.xformScale a b) := rfl
theorem xformFill (a : BitVec 6) (b : BitVec 4) : Statement (.xformFill a b) := rfl
theorem xformZero (a : BitVec 6) (b : BitVec 4) : Statement (.xformZero a b) := rfl
theorem msgSend (a : BitVec 6) (b : BitVec 6) : Statement (.msgSend a b) := rfl
theorem msgRecv (d : BitVec 6) (a : BitVec 6) (b : BitVec 6) : Statement (.msgRecv d a b) := rfl
theorem sregRdVector (d : BitVec 7) (i : BitVec 6) : Statement (.sregRdVector d i) := rfl
theorem sregRdUniform (d : BitVec 6) (i : BitVec 6) : Statement (.sregRdUniform d i) := rfl
theorem sregWr (a : BitVec 6) (i : BitVec 6) : Statement (.sregWr a i) := rfl
theorem temit (a : BitVec 6) (c : BitVec 3) : Statement (.temit a c) := rfl
theorem ctrRd (d : BitVec 6) (n : BitVec 6) : Statement (.ctrRd d n) := rfl
theorem ctrCtl (a : BitVec 6) (n : BitVec 6) : Statement (.ctrCtl a n) := rfl
theorem rtag (d : BitVec 6) (g : BitVec 2) : Statement (.rtag d g) := rfl
theorem glaunch (a : BitVec 6) (q : BitVec 6) : Statement (.glaunch a q) := rfl
theorem clauseFetch (fibre : Nat) : Statement (.clauseFetch fibre) := rfl
theorem ricWrap (fibre : Nat) : Statement (.ricWrap fibre) := rfl
theorem watchdogFault (fibre : Nat) : Statement (.watchdogFault fibre) := rfl
theorem drowsyRetention (fibre : Nat) : Statement (.drowsyRetention fibre) := rfl
theorem loadDataReturn (op : Nat) : Statement (.loadDataReturn op) := rfl
theorem storePerformed (op : Nat) : Statement (.storePerformed op) := rfl
theorem atomicPerformed (op : Nat) : Statement (.atomicPerformed op) := rfl
theorem classBComplete (op : Nat) : Statement (.classBComplete op) := rfl
theorem pageWalkComplete (fibre : Nat) : Statement (.pageWalkComplete fibre) := rfl
theorem lrecFillComplete (fibre : Nat) : Statement (.lrecFillComplete fibre) := rfl
theorem copyLineArrival (op : Nat) (line : Nat) : Statement (.copyLineArrival op line) := rfl
theorem engineOperationComplete (op : Nat) : Statement (.engineOperationComplete op) := rfl
theorem fibreRelease (fibre : Nat) : Statement (.fibreRelease fibre) := rfl
theorem messageArrival (mbox : Nat) (sender : Nat) (spart : Nat) (sseq : Nat) (payload : BitVec 512) : Statement (.messageArrival mbox sender spart sseq payload) := rfl
theorem msgAccepted (op : Nat) : Statement (.msgAccepted op) := rfl
theorem mailboxAdmissionSignal (dev : Nat) (mbox : Nat) : Statement (.mailboxAdmissionSignal dev mbox) := rfl
theorem qdbWrite (queue : Nat) (value : BitVec 64) : Statement (.qdbWrite queue value) := rfl
theorem packetConsume (queue : Nat) : Statement (.packetConsume queue) := rfl
theorem clusterPlace (grid : Nat) : Statement (.clusterPlace grid) := rfl
theorem priorityWaitLimit (grid : Nat) : Statement (.priorityWaitLimit grid) := rfl
theorem gridComplete (grid : Nat) : Statement (.gridComplete grid) := rfl
theorem teamRetire (grid : Nat) : Statement (.teamRetire grid) := rfl
theorem modeChangeApply (part : Nat) : Statement (.modeChangeApply part) := rfl
theorem throttleSignal (core : Nat) : Statement (.throttleSignal core) := rfl
theorem quietInterval (core : Nat) : Statement (.quietInterval core) := rfl
theorem queueCongestion (channel : Nat) (cores : List Nat) : Statement (.queueCongestion channel cores) := rfl
theorem congestionRepeat (channel : Nat) (cores : List Nat) : Statement (.congestionRepeat channel cores) := rfl
theorem gangSwitchPropose (part : Nat) (t : Nat) : Statement (.gangSwitchPropose part t) := rfl
theorem gangTimeMessage (part : Nat) (t : Nat) : Statement (.gangTimeMessage part t) := rfl
theorem gangCancellation (what : GangInstant) : Statement (.gangCancellation what) := rfl
theorem gangAckDeadline (part : Nat) (t : Nat) : Statement (.gangAckDeadline part t) := rfl
theorem gangSwitch (part : Nat) : Statement (.gangSwitch part) := rfl
theorem bivouacFill (part : Nat) : Statement (.bivouacFill part) := rfl
theorem bivouacSpill (part : Nat) : Statement (.bivouacSpill part) := rfl
theorem cairn (part : Nat) : Statement (.cairn part) := rfl
theorem podCairnPropose (part : Nat) (t : Nat) (number : Nat) : Statement (.podCairnPropose part t number) := rfl
theorem podCairnAckTimeout (part : Nat) : Statement (.podCairnAckTimeout part) := rfl
theorem podCairnTake (part : Nat) : Statement (.podCairnTake part) := rfl
theorem chunkLimit (fibre : Nat) : Statement (.chunkLimit fibre) := rfl
theorem sequenceExhausted (line : Nat) : Statement (.sequenceExhausted line) := rfl
theorem replayLogEnd (part : Nat) : Statement (.replayLogEnd part) := rfl
theorem abortDrained (grid : Nat) : Statement (.abortDrained grid) := rfl
theorem restoreComplete (part : Nat) : Statement (.restoreComplete part) := rfl
theorem epochScrub (part : Nat) : Statement (.epochScrub part) := rfl
theorem l1Eviction (core : Nat) (line : Nat) : Statement (.l1Eviction core line) := rfl
theorem coherenceRead (who : Requester) (line : Nat) (via : Sharing) : Statement (.coherenceRead who line via) := rfl
theorem coherenceOwnership (who : Requester) (line : Nat) (via : Sharing) : Statement (.coherenceOwnership who line via) := rfl
theorem coherenceWriteback (who : Requester) (line : Nat) (data : BitVec 1024) (mask : BitVec 128) : Statement (.coherenceWriteback who line data mask) := rfl
theorem evictionNotice (dev : Nat) (line : Nat) : Statement (.evictionNotice dev line) := rfl
theorem invalidation (home : Nat) (line : Nat) : Statement (.invalidation home line) := rfl
theorem recallLine (home : Nat) (line : Nat) : Statement (.recallLine home line) := rfl
theorem lostCopiesNotice (dev : Nat) : Statement (.lostCopiesNotice dev) := rfl
theorem hostMemRead (port : Nat) (h : Nat) (len : Nat) : Statement (.hostMemRead port h len) := rfl
theorem hostMemWrite (port : Nat) (h : Nat) (data : List (BitVec 8)) : Statement (.hostMemWrite port h data) := rfl
theorem hostCacheOwnership (port : Nat) (line : Nat) : Statement (.hostCacheOwnership port line) := rfl
theorem pageRecompress (part : Nat) (page : Nat) : Statement (.pageRecompress part page) := rfl
theorem rmThreshold (bank : Nat) (row : Nat) : Statement (.rmThreshold bank row) := rfl
theorem rmHoldEnd (bank : Nat) : Statement (.rmHoldEnd bank) := rfl
theorem periodicRefresh (bank : Nat) (row : Nat) : Statement (.periodicRefresh bank row) := rfl
theorem traceFilter (core : Nat) : Statement (.traceFilter core) := rfl
theorem linkFailure (port : Nat) : Statement (.linkFailure port) := rfl
theorem linkTimeout (port : Nat) : Statement (.linkTimeout port) := rfl
theorem ptpTimeUpdate (time : Nat) : Statement (.ptpTimeUpdate time) := rfl
theorem intrFreeze (fibre : Nat) : Statement (.intrFreeze fibre) := rfl
theorem stepComplete (fibre : Nat) : Statement (.stepComplete fibre) := rfl
theorem resume (fibre : Nat) : Statement (.resume fibre) := rfl
theorem skip (fibre : Nat) : Statement (.skip fibre) := rfl
theorem step (fibre : Nat) (lane : Nat) : Statement (.step fibre lane) := rfl
theorem rdreg (fibre : Nat) (sel : RegSel) (lane : Nat) : Statement (.rdreg fibre sel lane) := rfl
theorem wrreg (fibre : Nat) (sel : RegSel) (lane : Nat) (value : BitVec 320) : Statement (.wrreg fibre sel lane value) := rfl
theorem intr (target : Nat) (wholeGrid : Bool) : Statement (.intr target wholeGrid) := rfl
theorem halt (part : Nat) : Statement (.halt part) := rfl
theorem unhalt (part : Nat) : Statement (.unhalt part) := rfl
theorem terminate (handle : Nat) : Statement (.terminate handle) := rfl
theorem replay (part : Nat) (cairn : Nat) (flags : BitVec 64) : Statement (.replay part cairn flags) := rfl
theorem ctrtot (vi : Nat) : Statement (.ctrtot vi) := rfl
theorem ctrgrant (vi : Nat) (grant : Bool) : Statement (.ctrgrant vi grant) := rfl
theorem lanternLoad (vi : Nat) (addr : Nat) (len : Nat) : Statement (.lanternLoad vi addr len) := rfl
theorem lanternRead (vi : Nat) : Statement (.lanternRead vi) := rfl
theorem ctrprog (vi : Nat) (c0 : BitVec 64) (c1 : BitVec 64) (c2 : BitVec 64) (c3 : BitVec 64) : Statement (.ctrprog vi c0 c1 c2 c3) := rfl
theorem ctrread (vi : Nat) (addr : Nat) : Statement (.ctrread vi addr) := rfl
theorem cfgrd (space : Nat) (inst : Nat) : Statement (.cfgrd space inst) := rfl
theorem cfgwr (space : Nat) (inst : Nat) (value : BitVec 64) (mask : BitVec 64) : Statement (.cfgwr space inst value mask) := rfl
theorem btinval (ctx : Nat) (first : Nat) (count : Nat) : Statement (.btinval ctx first count) := rfl
theorem tlbinval (ctx : Nat) (va : Nat) (len : Nat) : Statement (.tlbinval ctx va len) := rfl
theorem mrdbWrite (fn : Nat) (value : BitVec 64) : Statement (.mrdbWrite fn value) := rfl
theorem mgmtDatagram (bytes : List (BitVec 8)) : Statement (.mgmtDatagram bytes) := rfl
theorem info : Statement (.info) := rfl
theorem storeManifest (bytes : List (BitVec 8)) : Statement (.storeManifest bytes) := rfl
theorem compareManifest (index : Nat) : Statement (.compareManifest index) := rfl
theorem attest (nonce : BitVec 256) (part : Nat) (addr : Nat) : Statement (.attest nonce part addr) := rfl
theorem openSession (ctx : Nat) (ct : List (BitVec 8)) : Statement (.openSession ctx ct) := rfl
theorem remapAdd (channel : Nat) (pc : Nat) (bank : Nat) (row : Nat) : Statement (.remapAdd channel pc bank row) := rfl
theorem powerState (target : Nat) : Statement (.powerState target) := rfl
theorem warmReset : Statement (.warmReset) := rfl
theorem fwUpdate (bytes : List (BitVec 8)) : Statement (.fwUpdate bytes) := rfl
theorem cxlHotReset (port : Nat) : Statement (.cxlHotReset port) := rfl
theorem coldReset : Statement (.coldReset) := rfl
theorem thermalWarning : Statement (.thermalWarning) := rfl
theorem thermalTrip : Statement (.thermalTrip) := rfl
theorem fqcfgWrite (vi : Nat) (value : BitVec 64) : Statement (.fqcfgWrite vi value) := rfl
theorem fqptrWrite (vi : Nat) (value : BitVec 64) : Statement (.fqptrWrite vi value) := rfl
theorem fqstatRead (vi : Nat) : Statement (.fqstatRead vi) := rfl
theorem srstatRead : Statement (.srstatRead) := rfl
theorem trstatRead (vi : Nat) : Statement (.trstatRead vi) := rfl
theorem hbmErrRead (stack : Nat) : Statement (.hbmErrRead stack) := rfl
theorem trptrWrite (vi : Nat) (value : BitVec 64) : Statement (.trptrWrite vi value) := rfl
theorem urstatFailClear (part : Nat) : Statement (.urstatFailClear part) := rfl
theorem registerWrite (reg : IoReg) (inst : Nat) (value : BitVec 64) : Statement (.registerWrite reg inst value) := rfl
theorem recorderBufferFree (part : Nat) (rec : Nat) : Statement (.recorderBufferFree part rec) := rfl
theorem twinPageConsumed (part : Nat) : Statement (.twinPageConsumed part) := rfl
theorem powerLoss : Statement (.powerLoss) := rfl
theorem linkRetrained (port : Nat) : Statement (.linkRetrained port) := rfl
theorem flitCrcRetry (port : Nat) : Statement (.flitCrcRetry port) := rfl
theorem guylineCreditReturn (port : Nat) (vc : Nat) : Statement (.guylineCreditReturn port vc) := rfl
theorem podCairnInstant (part : Nat) : Statement (.podCairnInstant part) := rfl
theorem podCairnAcknowledged (part : Nat) (t2 : Nat) : Statement (.podCairnAcknowledged part t2) := rfl
theorem h2dSnoop (port : Nat) (addr : Nat) : Statement (.h2dSnoop port addr) := rfl

end Sys2Proof.Laws.Encodes
end

