-- ==== Sys2Proof/Laws/Words.lean ====
section
/-!
SUPPORT. Sys2Proof/Laws/Words.lean: what the shared operations of the words do: the gate, guarded register writes, retiring, and the words of
one shape.
-/

namespace Sys2Proof.Machine

variable {s t u : State} {c : Issue} {f : Fibre}

/-! ### Reading registers -/

theorem readReg_kept (h : Kept s t) (g r : Nat) : readReg t g r = readReg s g r := by
  have hr := h.regs g
  unfold readReg
  cases ht : t.fib g with
  | none => cases hs : s.fib g with
    | none => rfl
    | some y => rw [ht, hs] at hr; simp at hr
  | some x => cases hs : s.fib g with
    | none => rw [ht, hs] at hr; simp at hr
    | some y =>
      rw [ht, hs] at hr
      have e : x.regs = y.regs := Option.some.inj hr
      have e1 : x.priv = y.priv := congrArg Regs.priv e
      have e2 : x.shared = y.shared := congrArg Regs.shared e
      have e3 : x.region = y.region := congrArg Regs.region e
      have e4 : x.v = y.v := congrArg Regs.v e
      simp only [Fibre.inPriv, Fibre.inShared, e1, e2, e3, e4, h.regions]

theorem readLane_kept (h : Kept s t) (g r : Nat) (l : Fin 32) : readLane t g r l = readLane s g r l := by
  unfold readLane; rw [readReg_kept h]

/-- What a fibre holds of a kind of register after a kept change. -/
theorem Kept.map {α : Type} (h : Kept s t) (p : Regs → α) (g : Nat) :
    (t.fib g).map (fun x => p x.regs) = (s.fib g).map (fun x => p x.regs) := by
  have hr := congrArg (Option.map p) (h.regs g)
  simpa [Option.map_map, Function.comp_def] using hr

/-- A fibre after a kept change. -/
theorem Kept.some (h : Kept s t) {g : Nat} {x : Fibre} (hs : s.fib g = some x) : ∃ y, t.fib g = some y ∧ y.regs = x.regs := by
  have hr := h.regs g
  rw [hs] at hr
  cases ht : t.fib g with
  | none => rw [ht] at hr; simp at hr
  | some y => rw [ht] at hr; exact ⟨y, rfl, Option.some.inj hr⟩

/-- What is kept is within every frame. -/
theorem Only.of_kept (h : Kept s t) (fid : Nat) (w : Writes)
    (hm : w.mem = false → s.replaying (s.partOf fid) = false → SameMem s t) : Only s t fid w where
  vreg g r _ := readReg_kept h g r
  pred g n _ := h.map (fun x => if n = 7 then BitVec.allOnes 32 else vget x.p n 0) g
  unif g n _ _ := h.map (fun x => if n = 0 then 0 else vget x.s n 0) g
  accum g n _ := h.map (fun x => vget x.q n (lanesOf 0)) g
  fpstat g _ := h.map (·.fpstat) g
  flags g _ := h.map (·.cfErr) g
  append g _ := h.map (fun x => (x.append, x.ovf)) g
  bound g := h.map (fun x => (x.team, x.group, x.role, x.priv, x.shared, x.region, x.b)) g
  ops _ := ⟨by rw [h.ops], fun _ => h.ops⟩
  pads _ := h.pads
  teams _ := ⟨fun n => by simp only [State.team, h.teams], fun _ => h.teams⟩
  fbars _ := h.fbars
  outer := ⟨h.ctxs, h.vis, fun _ => h.queues, h.hostMem⟩
  mem a b := ⟨fun x => by rw [(hm a b).mem], (hm a b).lines, (hm a b).l1⟩

/-- A frame and then what is kept. -/
theorem Only.kept {w : Writes} {fid : Nat} (h : Only s t fid w) (k : Kept t u)
    (hm : w.mem = false → s.replaying (s.partOf fid) = false → SameMem t u) : Only s u fid w where
  vreg g r x := (readReg_kept k g r).trans (h.vreg g r x)
  pred g n x := (k.map (fun x => if n = 7 then BitVec.allOnes 32 else vget x.p n 0) g).trans (h.pred g n x)
  unif g n x y := (k.map (fun x => if n = 0 then 0 else vget x.s n 0) g).trans (h.unif g n x y)
  accum g n x := (k.map (fun x => vget x.q n (lanesOf 0)) g).trans (h.accum g n x)
  fpstat g x := (k.map (·.fpstat) g).trans (h.fpstat g x)
  flags g x := (k.map (·.cfErr) g).trans (h.flags g x)
  append g x := (k.map (fun x => (x.append, x.ovf)) g).trans (h.append g x)
  bound g := (k.map (fun x => (x.team, x.group, x.role, x.priv, x.shared, x.region, x.b)) g).trans (h.bound g)
  ops x := ⟨by rw [k.ops, (h.ops x).1], fun y => k.ops.trans ((h.ops x).2 y)⟩
  pads x n := (k.pads n).trans (h.pads x n)
  teams x := ⟨fun n => by simp only [State.team, k.teams]; exact (h.teams x).1 n, fun y => k.teams.trans ((h.teams x).2 y)⟩
  fbars x n := (k.fbars n).trans (h.fbars x n)
  outer := ⟨k.ctxs.trans h.outer.1, k.vis.trans h.outer.2.1, fun x => k.queues.trans (h.outer.2.2.1 x), k.hostMem.trans h.outer.2.2.2⟩
  mem a b := ⟨fun x => by rw [(hm a b).mem, (h.mem a b).1], (hm a b).lines.trans (h.mem a b).2.1,
    fun n => ((hm a b).l1 n).trans ((h.mem a b).2.2 n)⟩

/-! ### The gate -/

theorem gate_ready {k : Issue → Fibre → State} {v : Uses} (h : Ready s c f v) : gate s v k = .next (k c f) := by
  have hr : (v.role.isSome && v.role != some f.role) = false := by
    rcases h.role with e | e <;> simp [e]
  unfold gate
  rw [h.issue]
  simp only []
  rw [h.fibre]
  simp only []
  rw [h.vc, hr]
  simp only [Bool.false_eq_true, if_false]
  unfold regGate
  have h1 : ¬ (c.active f != 0 && (c.reads v ++ v.d).any fun r => !f.hasReg r) = true := by
    rcases h.regs with e | e
    · simp [e]
    · intro x
      simp only [Bool.and_eq_true, List.any_eq_true] at x
      obtain ⟨-, r, hr, hx⟩ := x
      simp [e r hr] at hx
  have h2 : ¬ ((c.reads v).any (fun r => f.hasReg r && s.vPending c.fibre r) || v.d.any (fun r => f.hasReg r && s.vOwn c.fibre r) ||
      v.s.any (s.sPending c.fibre)) = true := by
    intro x
    simp only [Bool.or_eq_true, List.any_eq_true, Bool.and_eq_true] at x
    rcases x with (⟨r, hr, -, hx⟩ | ⟨r, hr, -, hx⟩) | ⟨r, hr, hx⟩
    · simp [h.vfree r hr] at hx
    · simp [h.dfree r hr] at hx
    · simp [h.sfree r hr] at hx
  rw [if_neg h1, if_neg h2]

/-- A word that stands before a bound fibre gives a next state. -/
theorem gate_next {k : Issue → Fibre → State} {v : Uses} (h : Issuing s) : ∃ t, gate s v k = .next t := by
  obtain ⟨c, f, h1, h2⟩ := h
  unfold gate
  rw [h1]
  simp only []
  rw [h2]
  simp only []
  split
  · exact ⟨_, rfl⟩
  · split
    · exact ⟨_, rfl⟩
    · exact ⟨_, rfl⟩

/-! ### Writing registers -/

/-- A write to a window of a fibre whose area is one of the four is read back. -/
theorem readReg_writeReg_self {fid r : Nat} {x : VReg} (hf : s.fib fid = some f) (ha : f.region < 4) (hr : f.hasReg r = true) :
    readReg (writeReg s fid r x) fid r = x := by
  unfold writeReg
  rw [hf]
  by_cases h : f.inPriv r = true
  · simp only [h, if_true]
    unfold readReg
    rw [State.fib_modFib, if_pos rfl, hf]
    simp only [Option.map_some]
    have : f.inPriv r = true := h
    simp only [Fibre.inPriv, decide_eq_true_eq] at this ⊢
    simp [this, AMap.getD]
  · have hs : f.inShared r = true := by
      simpa [Fibre.hasReg, h] using hr
    simp only [h, hs, if_true, Bool.false_eq_true, if_false]
    unfold readReg
    show (match (s.fib fid) with
      | none => _
      | some f => _) = x
    rw [hf]
    simp only [h, hs, if_true, Bool.false_eq_true, if_false]
    rw [State.slot_modSlot, if_pos rfl]
    unfold Slot.writeShared
    simp only []
    simp [vget, vset, ha, AMap.getD]

/-- Outside both windows nothing is written (R23). -/
theorem writeReg_out {fid r : Nat} {x : VReg} (hf : s.fib fid = some f) (hr : f.hasReg r = false) : writeReg s fid r x = s := by
  simp only [Fibre.hasReg, Bool.or_eq_false_iff] at hr
  unfold writeReg
  rw [hf]
  simp [hr.1, hr.2]

theorem readReg_out {fid r : Nat} (hf : s.fib fid = some f) (hr : f.hasReg r = false) : readReg s fid r = VReg.zero := by
  simp only [Fibre.hasReg, Bool.or_eq_false_iff] at hr
  unfold readReg
  rw [hf]
  simp [hr.1, hr.2]

/-- A register write changes no other register. -/
theorem readReg_writeReg_ne {fid r g r' : Nat} {x : VReg} (h : ¬ sameReg s fid r g r') :
    readReg (writeReg s fid r x) g r' = readReg s g r' := by
  unfold writeReg
  cases hf : s.fib fid with
  | none => rfl
  | some f =>
    simp only []
    by_cases hp : f.inPriv r = true
    · simp only [hp, if_true]
      unfold readReg
      rw [State.fib_modFib]
      by_cases hg : g = fid
      · subst hg
        have hrr : r' ≠ r := fun e => h ⟨e, .inl rfl⟩
        rw [if_pos rfl, hf]
        simp only [Option.map_some]
        split
        · simp only [AMap.getD, AMap.get?_set_ne _ _ hrr]
        · rfl
      · rw [if_neg hg]
        rfl
    · simp only [hp, Bool.false_eq_true, if_false]
      by_cases hs : f.inShared r = true
      · simp only [hs, if_true]
        unfold readReg
        show (match s.fib g with
          | none => _
          | some f => _) = (match s.fib g with
          | none => _
          | some f => _)
        cases hg : s.fib g with
        | none => rfl
        | some y =>
          simp only []
          split
          · rfl
          · next hy =>
            split
            · next hy2 =>
              rw [State.slot_modSlot]
              by_cases e : slotOf g = slotOf fid
              · rw [if_pos e, e]
                unfold Slot.writeShared
                simp only []
                by_cases e2 : f.region = y.region
                · have hrr : r' ≠ r := by
                    intro e3
                    apply h
                    refine ⟨e3, .inr ⟨e, ?_⟩⟩
                    rw [hf, hg]
                    subst e3
                    exact ⟨by simpa using hp, by simpa using hy, e2⟩
                  rw [← e2]
                  simp only [vget, vset]
                  by_cases e4 : f.region < 4
                  · simp [e4, AMap.getD, AMap.get?_set_ne _ _ hrr]
                  · simp [e4]
                · simp only [vget, vset]
                  rw [Vector.getElem?_setIfInBounds_ne e2]
              · rw [if_neg e]
            · rfl
      · simp only [hs, Bool.false_eq_true, if_false]

/-- A register write changes nothing but that register. -/
theorem writeReg_only (fid r : Nat) (x : VReg) (w : Writes) (hw : r ∈ w.v) : Only s (writeReg s fid r x) fid w := by
  have hreg : ∀ g r', (∀ q ∈ w.v, ¬ sameReg s fid q g r') → readReg (writeReg s fid r x) g r' = readReg s g r' :=
    fun g r' h => readReg_writeReg_ne (h r hw)
  refine ⟨hreg, ?_, ?_, ?_, ?_, ?_, ?_, ?_, ?_, ?_, ?_, ?_, ?_, ?_⟩
  all_goals unfold writeReg
  all_goals cases hf : s.fib fid with
    | none =>
      first
        | simp
        | exact fun _ => ⟨rfl, fun _ => rfl⟩
        | exact fun _ => ⟨fun _ => rfl, fun _ => rfl⟩
    | some f =>
      simp only []
      split
      · intros
        try simp only [State.fib_modFib]
        first
          | rfl
          | exact ⟨rfl, rfl, fun _ => rfl, rfl⟩
          | exact ⟨fun _ => rfl, rfl, fun _ => rfl⟩
          | exact ⟨rfl, fun _ => rfl⟩
          | exact ⟨fun _ => rfl, fun _ => rfl⟩
          | (split <;> first | rfl | (next e => rw [e, hf]; rfl))
      · split
        · intros
          first
            | rfl
            | exact ⟨rfl, rfl, fun _ => rfl, rfl⟩
            | exact ⟨fun _ => rfl, rfl, fun _ => rfl⟩
            | exact ⟨rfl, fun _ => rfl⟩
            | exact ⟨fun _ => rfl, fun _ => rfl⟩
            | (rw [State.slot_modSlot]; split <;> first | rfl | (next e => rw [e]; rfl))
        · intros
          first
            | rfl
            | exact ⟨rfl, rfl, fun _ => rfl, rfl⟩
            | exact ⟨fun _ => rfl, rfl, fun _ => rfl⟩
            | exact ⟨rfl, fun _ => rfl⟩
            | exact ⟨fun _ => rfl, fun _ => rfl⟩

theorem Only.refl (s : State) (fid : Nat) (w : Writes) : Only s s fid w :=
  .of_kept (.refl s) fid w fun _ _ => .refl s

/-- A fibre's registers and windows after a frame. -/
theorem Only.fibre {w : Writes} {fid g : Nat} {x : Fibre} (h : Only s t fid w) (hs : s.fib g = some x) :
    ∃ y, t.fib g = some y ∧ y.team = x.team ∧ y.priv = x.priv ∧ y.shared = x.shared ∧ y.region = x.region := by
  have hb := h.bound g
  rw [hs] at hb
  cases ht : t.fib g with
  | none => rw [ht] at hb; simp at hb
  | some y =>
    rw [ht] at hb
    simp only [Option.map_some, Option.some.injEq, Prod.mk.injEq] at hb
    exact ⟨y, rfl, hb.1, hb.2.2.2.1, hb.2.2.2.2.1, hb.2.2.2.2.2.1⟩

theorem Only.sameReg {w : Writes} {fid a b g r : Nat} (h : Only s t fid w) : sameReg t a b g r ↔ sameReg s a b g r := by
  unfold Machine.sameReg
  have key : ∀ g, (t.fib g).map (fun x => (x.priv, x.region)) = (s.fib g).map (fun x => (x.priv, x.region)) := by
    intro g
    have hb := congrArg (Option.map fun x => (x.2.2.2.1, x.2.2.2.2.2.1)) (h.bound g)
    simpa [Option.map_map, Function.comp_def] using hb
  have ha := key a
  have hg := key g
  cases h1 : t.fib a <;> cases h2 : s.fib a <;> cases h3 : t.fib g <;> cases h4 : s.fib g <;>
    simp_all [Fibre.inPriv]

/-- Two frames one after the other. -/
theorem Only.trans {w : Writes} {fid : Nat} (h : Only s t fid w) (k : Only t u fid w)
    (hp : w.mem = false → s.replaying (s.partOf fid) = false → t.replaying (t.partOf fid) = false) : Only s u fid w where
  vreg g r x := (k.vreg g r fun q hq hc => x q hq (h.sameReg.mp hc)).trans (h.vreg g r x)
  pred g n x := (k.pred g n x).trans (h.pred g n x)
  unif g n x y := (k.unif g n x y).trans (h.unif g n x y)
  accum g n x := (k.accum g n x).trans (h.accum g n x)
  fpstat g x := (k.fpstat g x).trans (h.fpstat g x)
  flags g x := (k.flags g x).trans (h.flags g x)
  append g x := (k.append g x).trans (h.append g x)
  bound g := (k.bound g).trans (h.bound g)
  ops x := ⟨(k.ops x).1.trans (h.ops x).1, fun y => ((k.ops x).2 y).trans ((h.ops x).2 y)⟩
  pads x n := (k.pads x n).trans (h.pads x n)
  teams x := ⟨fun n => ((k.teams x).1 n).trans ((h.teams x).1 n), fun y => ((k.teams x).2 y).trans ((h.teams x).2 y)⟩
  fbars x n := (k.fbars x n).trans (h.fbars x n)
  outer := ⟨k.outer.1.trans h.outer.1, k.outer.2.1.trans h.outer.2.1, fun x => (k.outer.2.2.1 x).trans (h.outer.2.2.1 x), k.outer.2.2.2.trans h.outer.2.2.2⟩
  mem a b :=
    ⟨fun x => ((k.mem a (hp a b)).1 x).trans ((h.mem a b).1 x), (k.mem a (hp a b)).2.1.trans (h.mem a b).2.1,
     fun n => ((k.mem a (hp a b)).2.2 n).trans ((h.mem a b).2.2 n)⟩

/-! ### Guarded writes (R86) -/

theorem writeReg_sameMem (fid r : Nat) (x : VReg) : SameMem s (writeReg s fid r x) := by
  unfold writeReg
  split
  · exact .refl s
  · split
    · exact .fib
    · split
      · exact .slot
      · exact .refl s

theorem wr_sameMem (r : Nat) (tag : Tag) (val : Fin 32 → Word) : SameMem s (c.wr s f r tag val) := by
  unfold Issue.wr
  simp only []
  split
  · exact .refl s
  · exact writeReg_sameMem _ _ _

theorem wr_only (r : Nat) (tag : Tag) (val : Fin 32 → Word) (w : Writes) (hw : r ∈ w.v) : Only s (c.wr s f r tag val) c.fibre w := by
  unfold Issue.wr
  simp only []
  split
  · exact .refl s _ _
  · exact writeReg_only _ _ _ _ hw

theorem inMask_or (a b : LaneMask) (l : Fin 32) : inMask (a ||| b) l = (inMask a l || inMask b l) := by simp [inMask]

theorem or_left_zero {a b : LaneMask} (e : a ||| b = 0) : a = 0 := (BitVec.or_eq_zero_iff.1 e).1

/-- A full write has no lane for the zero policy (R28, R86). -/
theorem full_zeroed (h : c.full f = true) : c.zeroed f = 0 := by
  unfold Issue.full at h
  unfold Issue.zeroed
  cases hp : c.px with
  | none => rfl
  | some x =>
    rw [hp] at h
    simp only [Bool.and_eq_true, beq_iff_eq, Bool.not_eq_true'] at h
    obtain ⟨⟨⟨h1, h2⟩, -⟩, -⟩ := h
    have : guardMask f (some x) = BitVec.allOnes 32 := by
      unfold guardMask
      simp [h1, h2, Fibre.readP]
    dsimp only
    split
    · rw [this]; simp
    · rfl

/-- The tag that a guarded write gives (R28). -/
theorem wr_tag {r : Nat} {tag : Tag} {val : Fin 32 → Word} {x : Fibre} (hf : s.fib c.fibre = some x) (ha : x.region < 4)
    (hr : x.hasReg r = true) (h0 : c.active f ≠ 0) : tagOf (c.wr s f r tag val) c.fibre r = if c.full f then tag else .g := by
  unfold Issue.wr
  simp only []
  rw [if_neg fun e => h0 (or_left_zero e)]
  unfold tagOf
  rw [readReg_writeReg_self hf ha hr]

/-- A guarded write stores one value, or a base and a stride, where it is full and its tag is not G (R27, R28). -/
theorem wr_spread {r : Nat} {tag : Tag} {val : Fin 32 → Word} {x : Fibre} (hf : s.fib c.fibre = some x) (ha : x.region < 4)
    (hr : c.active f = 0 ∨ x.hasReg r = true) : Spread c f (c.wr s f r tag val) r ↔ c.active f ≠ 0 ∧ c.full f = true ∧ tag ≠ .g := by
  constructor
  · rintro ⟨h0, h1, h2⟩
    rw [wr_tag hf ha (hr.resolve_left h0) h0, if_pos h1] at h2
    exact ⟨h0, h1, h2⟩
  · rintro ⟨h0, h1, h2⟩
    refine ⟨h0, h1, ?_⟩
    rw [wr_tag hf ha (hr.resolve_left h0) h0, if_pos h1]
    exact h2

theorem not_spread_g {r : Nat} {val : Fin 32 → Word} {x : Fibre} (hf : s.fib c.fibre = some x) (ha : x.region < 4)
    (hr : c.active f = 0 ∨ x.hasReg r = true) : ¬ Spread c f (c.wr s f r .g val) r := fun h =>
  ((wr_spread hf ha hr).1 h).2.2 rfl

/-- What a guarded write leaves in its register. -/
theorem wr_holds' {r : Nat} {tag : Tag} {val : Fin 32 → Word} {x : Fibre} (hf : s.fib c.fibre = some x) (ha : x.region < 4)
    (hr : c.active f = 0 ∨ x.hasReg r = true) : Holds1 s c f (c.wr s f r tag val) r val := by
  intro l
  simp only [wr_spread hf ha hr]
  unfold Issue.wr
  simp only []
  split
  · next e =>
    have h1 := inMask_or (c.active f) (c.zeroed f) l
    rw [e] at h1
    simp [inMask] at h1
    simp [inMask, h1, or_left_zero e]
  · next e =>
    cases hq : x.hasReg r with
    | true =>
      unfold readLane
      rw [readReg_writeReg_self hf ha hq]
      simp only [Fin.getElem_fin, Vector.getElem_ofFn]
      have hc : (inMask (c.active f) l || (if c.full f = true then tag else Tag.g) != Tag.g) = true ↔
          inMask (c.active f) l = true ∨ c.active f ≠ 0 ∧ c.full f = true ∧ tag ≠ Tag.g := by
        by_cases hfl : c.full f = true
        · have h0 : (c.active f ≠ 0) = True := eq_true fun h0 => e (by rw [h0, full_zeroed hfl]; rfl)
          simp only [h0, hfl, true_and, if_true, Bool.or_eq_true, bne_iff_ne]
        · simp [hfl]
      by_cases h : inMask (c.active f) l = true ∨ c.active f ≠ 0 ∧ c.full f = true ∧ tag ≠ Tag.g
      · rw [if_pos h, if_pos (hc.2 h)]
      · rw [if_neg h, if_neg fun x => h (hc.1 x)]
    | false =>
      have h0 : c.active f = 0 := by simpa [hq] using hr
      rw [writeReg_out hf hq]
      unfold readLane
      rw [readReg_out hf hq]
      simp [h0, VReg.zero, lanesOf]

theorem wr_holds {r : Nat} {tag : Tag} {val : Fin 32 → Word} (hf : s.fib c.fibre = some f) (ha : f.region < 4)
    (hr : c.active f = 0 ∨ f.hasReg r = true) : Holds1 s c f (c.wr s f r tag val) r val := wr_holds' hf ha hr

/-- A guarded write changes no other register. -/
theorem readLane_wr_ne {r g r' : Nat} {tag : Tag} {val : Fin 32 → Word} (h : ¬ sameReg s c.fibre r g r') (l : Fin 32) :
    readLane (c.wr s f r tag val) g r' l = readLane s g r' l := by
  unfold readLane
  rw [(wr_only (c := c) (f := f) r tag val { v := [r] } (by simp)).vreg g r' (by simpa using h)]

/-! ### Which partition a fibre belongs to -/

theorem partOf_same (hb : ∀ g, (t.fib g).map (·.team) = (s.fib g).map (·.team)) (ht : ∀ n, (t.team n).map Team.bare = (s.team n).map Team.bare)
    (k : SameMem s t) (g : Nat) :
    t.partOf g = s.partOf g := by
  have hg : t.gridOf g = s.gridOf g := by
    have hr := hb g
    have key : ∀ n, (t.team n).map (·.grid) = (s.team n).map (·.grid) := fun n => by
      have e := congrArg (Option.map (·.grid)) (ht n)
      simpa [Option.map_map, Function.comp_def, Team.bare] using e
    unfold State.gridOf State.grid
    rw [k.grids]
    cases h1 : t.fib g with
    | none => cases h2 : s.fib g <;> simp_all
    | some x =>
      cases h2 : s.fib g with
      | none => simp_all
      | some y =>
        have e : x.team = y.team := by simpa [h1, h2] using hr
        have kk := key y.team
        simp only [Option.bind_some, e]
        cases h3 : t.team y.team <;> cases h4 : s.team y.team <;> simp_all
  have hc : t.partOfCore (coreOf g) = s.partOfCore (coreOf g) := by
    unfold State.partOfCore
    simp only [(k.parts _).1]
  unfold State.partOf
  rw [hg, hc]

theorem Only.partOf {w : Writes} {fid : Nat} (h : Only s t fid w) (hw : w.teams = false) (k : SameMem s t) (g : Nat) :
    t.partOf g = s.partOf g :=
  partOf_same (fun g => by
    have hb := congrArg (Option.map fun x => x.1) (h.bound g)
    simpa [Option.map_map, Function.comp_def] using hb) (h.teams hw).1 k g

/-- Retiring after changes within a frame. -/
theorem Only.retire {w : Writes} (h : Only s t c.fibre w) (hw : w.teams = false) (k : SameMem s t) :
    Only s (retire t c) c.fibre w :=
  h.kept (retire_kept c) fun _ hr => retire_sameMem c (by rw [h.partOf hw k, replaying_kept k]; exact hr)

theorem Only.retireTo {w : Writes} (h : Only s t c.fibre w) (hw : w.teams = false) (k : SameMem s t) (g : Fin 32 → DWord) :
    Only s (retireTo t c g) c.fibre w :=
  h.kept (retireTo_kept c g) fun _ hr => retireTo_sameMem c g (by rw [h.partOf hw k, replaying_kept k]; exact hr)

/-! ### Words of one shape -/

theorem Spread.congr {d : Nat} (k : readReg u c.fibre d = readReg t c.fibre d) : Spread c f u d ↔ Spread c f t d := by
  unfold Spread tagOf; rw [k]

theorem Spread.kept {d : Nat} (k : Kept t u) : Spread c f u d ↔ Spread c f t d := Spread.congr (readReg_kept k _ _)

theorem Holds1.kept {d : Nat} {val : Fin 32 → Word} (h : Holds1 s c f t d val) (k : Kept t u) : Holds1 s c f u d val :=
  fun l => by simp only [Spread.kept k]; exact (readLane_kept k _ _ l).trans (h l)

/-- A short word of one register. -/
theorem lane1_ready {d : BitVec 7} {srcs : List Nat} {vc : Nat} {tag : Nat → Tag} {val : Issue → Fibre → Fin 32 → Word}
    (h : Ready s c f { v := srcs, d := [d.toNat], vc := vc }) :
    ∃ t, lane1 s d srcs vc tag val = .next t ∧ Holds1 s c f t d.toNat (val c f) ∧ Only s t c.fibre { v := [d.toNat] } := by
  have hr : c.active f = 0 ∨ f.hasReg d.toNat = true := h.regs.imp id fun e => e _ (by simp [Issue.vregs])
  refine ⟨_, gate_ready h, (wr_holds h.fibre h.area hr).kept (retire_kept c), ?_⟩
  exact (wr_only _ _ _ _ (by simp)).retire rfl (wr_sameMem _ _ _)

theorem not_sameReg_of_ne {a r g r' : Nat} (h : r' ≠ r) : ¬ sameReg s a r g r' := fun e => h e.1

theorem hasReg_congr {x y : Fibre} (h1 : x.priv = y.priv) (h2 : x.shared = y.shared) (r : Nat) : x.hasReg r = y.hasReg r := by
  simp [Fibre.hasReg, Fibre.inPriv, Fibre.inShared, h1, h2]

theorem wrP_only (r : Nat) (tag : Tag) (val : Fin 32 → DWord) (w : Writes) (h1 : r ∈ w.v) (h2 : r + 1 ∈ w.v) (hw : w.teams = false) :
    Only s (c.wrP s f r tag val) c.fibre w :=
  (wr_only _ _ _ _ h1).trans (wr_only _ _ _ _ h2) fun _ hr => by
    rw [(wr_only (s := s) (c := c) (f := f) r tag _ w h1).partOf hw (wr_sameMem _ _ _), replaying_kept (wr_sameMem _ _ _)]; exact hr

theorem wrP_sameMem (r : Nat) (tag : Tag) (val : Fin 32 → DWord) : SameMem s (c.wrP s f r tag val) :=
  (wr_sameMem _ _ _).trans (wr_sameMem _ _ _)

/-- The tag of the first register of a pair is that of its own write. -/
theorem wrP_spread {r : Nat} {tag : Tag} {val : Fin 32 → DWord} (hf : s.fib c.fibre = some f) (ha : f.region < 4)
    (hr : c.active f = 0 ∨ (f.hasReg r = true ∧ f.hasReg (r + 1) = true)) :
    Spread c f (c.wrP s f r tag val) r ↔ c.active f ≠ 0 ∧ c.full f = true ∧ tag ≠ .g := by
  unfold Issue.wrP
  rw [Spread.congr ((wr_only (c := c) (f := f) (r + 1) tag _ { v := [r + 1] } (by simp)).vreg c.fibre r (by
      simp only [List.mem_singleton, forall_eq]; exact not_sameReg_of_ne (by omega)))]
  exact wr_spread hf ha (hr.imp id And.left)

theorem wrP_spread_g {r : Nat} {val : Fin 32 → DWord} (hf : s.fib c.fibre = some f) (ha : f.region < 4)
    (hr : c.active f = 0 ∨ (f.hasReg r = true ∧ f.hasReg (r + 1) = true)) : ¬ Spread c f (c.wrP s f r .g val) r := fun h =>
  ((wrP_spread hf ha hr).1 h).2.2 rfl

/-- What a guarded write of a pair leaves in it. -/
theorem wrP_holds {r : Nat} {tag : Tag} {val : Fin 32 → DWord} (hf : s.fib c.fibre = some f) (ha : f.region < 4)
    (hr : c.active f = 0 ∨ (f.hasReg r = true ∧ f.hasReg (r + 1) = true)) : Holds2 s c f (c.wrP s f r tag val) r val := by
  intro l
  simp only [wrP_spread hf ha hr]
  unfold Issue.wrP
  have e1 : Holds1 s c f (c.wr s f r tag fun l => (val l).setWidth 32) r fun l => (val l).setWidth 32 :=
    wr_holds hf ha (hr.imp id And.left)
  have h0 : Only s (c.wr s f r tag fun l => (val l).setWidth 32) c.fibre { v := [r] } := wr_only _ _ _ _ (by simp)
  obtain ⟨y, hy, -, y1, y2, y3⟩ := h0.fibre hf
  have e2 := wr_holds' (c := c) (f := f) (r := r + 1) (tag := tag) (val := fun l => ((val l) >>> 32).setWidth 32) hy (y3 ▸ ha)
    (hr.imp id fun e => by rw [hasReg_congr y1 y2]; exact e.2)
  have h2 : c.active f = 0 ∨ y.hasReg (r + 1) = true := hr.imp id fun e => by rw [hasReg_congr y1 y2]; exact e.2
  have e2 := e2 l
  have e1 := e1 l
  simp only [wr_spread hy (y3 ▸ ha) h2] at e2
  simp only [wr_spread hf ha (hr.imp id And.left)] at e1
  unfold readPair
  rw [e2, readLane_wr_ne (r := r + 1) (r' := r) (not_sameReg_of_ne (by omega)), e1,
    readLane_wr_ne (r := r) (r' := r + 1) (not_sameReg_of_ne (by omega))]
  split
  · apply BitVec.eq_of_getLsbD_eq
    intro i hi
    simp only [BitVec.getLsbD_append, BitVec.getLsbD_setWidth, BitVec.getLsbD_ushiftRight]
    by_cases h : i < 32
    · simp [h]
    · have h1 : i - 32 < 32 := by omega
      have h2 : 32 + (i - 32) = i := by omega
      simp [h, h1, h2]
  · split <;> rfl

theorem Holds2.kept {d : Nat} {val : Fin 32 → DWord} (h : Holds2 s c f t d val) (k : Kept t u) : Holds2 s c f u d val :=
  fun l => by
    simp only [Spread.kept k]
    rw [← h l]
    unfold readPair
    rw [readLane_kept k, readLane_kept k]

/-- A short word of a pair. -/
theorem lane2_ready {d : BitVec 7} {srcs ss : List Nat} {tag : Tag} {val : Issue → Fibre → Fin 32 → DWord}
    (h : Ready s c f { v := srcs, d := regRange d.toNat 2, s := ss }) :
    ∃ t, lane2 s d srcs ss tag val = .next t ∧ Holds2 s c f t d.toNat (val c f) ∧ Only s t c.fibre { v := regRange d.toNat 2 } := by
  have hr : c.active f = 0 ∨ (f.hasReg d.toNat = true ∧ f.hasReg (d.toNat + 1) = true) :=
    h.regs.imp id fun e => ⟨e _ (by simp [Issue.vregs, regRange, List.range_succ]), e _ (by simp [Issue.vregs, regRange, List.range_succ])⟩
  refine ⟨_, gate_ready h, (wrP_holds h.fibre h.area hr).kept (retire_kept c), ?_⟩
  exact (wrP_only _ _ _ _ (by simp [regRange, List.range_succ]) (by simp [regRange, List.range_succ]) rfl).retire rfl (wrP_sameMem _ _ _)

/-! ### Words that change the fibre itself -/

/-- A change of the issuing fibre that keeps what no word of its shape writes. -/
theorem modFib_only {fid : Nat} {g : Fibre → Fibre} (w : Writes)
    (hv : ∀ x, (g x).v = x.v)
    (hp : ∀ x n, n ∉ w.p → (g x).readP n = x.readP n)
    (hs : ∀ x n, n ∉ w.s → (g x).readS n = x.readS n)
    (hq : ∀ x n, n ∉ w.q → vget (g x).q n (lanesOf 0) = vget x.q n (lanesOf 0))
    (hf : ∀ x, w.fpstat = false → (g x).fpstat = x.fpstat)
    (hc : ∀ x, w.flags = false → (g x).cfErr = x.cfErr)
    (ha : ∀ x, w.append = false → ((g x).append, (g x).ovf) = (x.append, x.ovf))
    (hb : ∀ x, ((g x).team, (g x).group, (g x).role, (g x).priv, (g x).shared, (g x).region, (g x).b) =
      (x.team, x.group, x.role, x.priv, x.shared, x.region, x.b)) : Only s (s.modFib fid g) fid w := by
  have key : ∀ {α : Type} (π : Fibre → α) (n : Nat), (n = fid → ∀ x, π (g x) = π x) →
      ((s.modFib fid g).fib n).map π = (s.fib n).map π := by
    intro α π n h
    rw [State.fib_modFib]
    split
    · next e => subst e; cases s.fib n <;> simp [h rfl]
    · rfl
  refine ⟨?_, ?_, ?_, ?_, ?_, ?_, ?_, ?_, fun _ => ⟨rfl, fun _ => rfl⟩, fun _ _ => rfl, fun _ => ⟨fun _ => rfl, fun _ => rfl⟩, fun _ _ => rfl,
    ⟨rfl, rfl, fun _ => rfl, rfl⟩, fun _ _ => ⟨fun _ => rfl, rfl, fun _ => rfl⟩⟩
  · intro n r _
    unfold readReg
    rw [State.fib_modFib]
    by_cases e : n = fid
    · rw [if_pos e, e]
      cases hx : s.fib fid with
      | none => rfl
      | some x =>
        have := hb x
        simp only [Prod.mk.injEq] at this
        simp only [Option.map_some, Fibre.inPriv, Fibre.inShared, this, hv]
        rfl
    · rw [if_neg e]
      rfl
  · exact fun n k h => key _ n fun e x => hp x k fun hk => h ⟨e, hk⟩
  · exact fun n k h _ => key _ n fun e x => hs x k fun hk => h ⟨e, hk⟩
  · exact fun n k h => key _ n fun e x => hq x k fun hk => h ⟨e, hk⟩
  · exact fun n h => key _ n fun e x => hf x (by simpa [e] using h)
  · exact fun n h => key _ n fun e x => hc x (by simpa [e] using h)
  · exact fun n h => key _ n fun e x => ha x (by simpa [e] using h)
  · exact fun n => key _ n fun _ x => hb x

theorem readP_writeP_ne {x : Fibre} {p n : Nat} {m v : LaneMask} (h : n ≠ p) : (x.writeP p m v).readP n = x.readP n := by
  unfold Fibre.writeP Fibre.readP
  split
  · rfl
  · split
    · rfl
    · simp only [vget, vset]
      rw [Vector.getElem?_setIfInBounds_ne (fun e => h e.symm)]

/-- A predicate after a masked write; p7 stays true. -/
theorem inMask_readP_writeP {x : Fibre} {p : Nat} {m v : LaneMask} (hp : p < 8) (l : Fin 32) :
    inMask ((x.writeP p m v).readP p) l = (p == 7 || if inMask m l then inMask v l else inMask (x.readP p) l) := by
  unfold Fibre.writeP Fibre.readP
  by_cases h : p = 7
  · subst h
    rw [if_pos rfl, if_pos rfl, inMask_allOnes]; rfl
  · simp only [h, if_false]
    have : (p == 7) = false := by simpa using h
    simp only [this, Bool.false_or, vget, vset, hp, Vector.getElem?_setIfInBounds, if_true, Option.getD_some]
    rw [inMask_or, inMask_and, inMask_and, inMask_not]
    cases inMask m l <;> simp

theorem readS_writeS_self {x : Fibre} {n : Nat} {v : DWord} (hn : n < 64) : (x.writeS n v).readS n = if n = 0 then 0 else v := by
  unfold Fibre.writeS Fibre.readS
  by_cases h : n = 0
  · simp [h]
  · simp [h, vget, vset, hn]

theorem readS_writeS_ne {x : Fibre} {n k : Nat} {v : DWord} (h : k ≠ n) : (x.writeS n v).readS k = x.readS k := by
  unfold Fibre.writeS Fibre.readS
  split
  · rfl
  · split
    · rfl
    · simp only [vget, vset]
      rw [Vector.getElem?_setIfInBounds_ne (fun e => h e.symm)]

theorem modFib_some {fid : Nat} {g : Fibre → Fibre} (h : s.fib fid = some f) : (s.modFib fid g).fib fid = some (g f) := by
  rw [State.fib_modFib, if_pos rfl, h]; rfl

theorem wrPred_only (p : Nat) (m : LaneMask) (w : Writes) (hw : p ∈ w.p) : Only s (c.wrPred s f p m) c.fibre w := by
  refine modFib_only w ?_ ?_ ?_ ?_ ?_ ?_ ?_ ?_
  · intro x; unfold Fibre.writeP; split <;> rfl
  · exact fun x n hn => readP_writeP_ne fun e => hn (e ▸ hw)
  all_goals intro x; unfold Fibre.writeP; split <;> intros <;> rfl

theorem wrPred_sameMem (p : Nat) (m : LaneMask) : SameMem s (c.wrPred s f p m) := .fib

theorem HoldsP.kept {p : Nat} {val : Fin 32 → Bool} (h : HoldsP c f t p val) (k : Kept t u) : HoldsP c f u p val := by
  obtain ⟨x, hx, hv⟩ := h
  obtain ⟨y, hy, hr⟩ := k.some hx
  refine ⟨y, hy, fun l => ?_⟩
  have : y.p = x.p := congrArg Regs.p hr
  rw [← hv l]
  unfold Fibre.readP
  rw [this]

theorem wrPred_holds {p : Nat} {val : Fin 32 → Bool} (hf : s.fib c.fibre = some f) (hp : p < 8) :
    HoldsP c f (c.wrPred s f p (maskOf val)) p val := by
  refine ⟨_, modFib_some hf, fun l => ?_⟩
  rw [inMask_readP_writeP hp]
  rw [inMask_or, inMask_and, inMask_maskOf]
  have hz : inMask (c.zeroed f) l = true → inMask (c.active f) l = false := by
    unfold Issue.zeroed Issue.active
    split
    · split
      · rw [inMask_and, inMask_and, inMask_not]; cases inMask (guardMask f c.px) l <;> simp
      · simp
    · simp
  cases ha : inMask (c.active f) l <;> cases hb : inMask (c.zeroed f) l <;> simp_all

/-- A short word of a predicate. -/
theorem lanePred_ready {p : BitVec 3} {srcs : List Nat} {val : Issue → Fibre → Fin 32 → Bool} (h : Ready s c f { v := srcs }) :
    ∃ t, lanePred s p srcs val = .next t ∧ HoldsP c f t p.toNat (val c f) ∧ Only s t c.fibre { p := [p.toNat] } :=
  ⟨_, gate_ready h, (wrPred_holds h.fibre p.isLt).kept (retire_kept c), (wrPred_only _ _ _ (by simp)).retire rfl (wrPred_sameMem _ _)⟩

/-! ### Uniform registers -/

theorem logUwrite_kept (fid r l n : Nat) (d : Bool) (v : DWord) : Kept s (logUwrite s fid r l n d v) := by
  unfold logUwrite
  split
  · exact .refl s
  · exact (produce_kept _ _ _ _ _).then_fib (by intro _; rfl)

theorem writeS_only (fid sd : Nat) (v : DWord) (w : Writes) (hw : sd ∈ w.s) : Only s (s.modFib fid fun x => x.writeS sd v) fid w := by
  refine modFib_only w ?_ ?_ ?_ ?_ ?_ ?_ ?_ ?_
  · intro x; unfold Fibre.writeS; split <;> rfl
  · intro x; unfold Fibre.writeS; split <;> intros <;> rfl
  · exact fun x n hn => readS_writeS_ne fun e => hn (e ▸ hw)
  all_goals intro x; unfold Fibre.writeS; split <;> intros <;> rfl

theorem putS_only (fid sd l n : Nat) (d : Bool) (v : DWord) (w : Writes) (hw : sd ∈ w.s) (ht : w.teams = false) :
    Only s (putS s fid sd l n d v) fid w := by
  unfold putS
  split
  · exact .refl s _ _
  · have hk : Only s (logUwrite s fid sd l n d v) fid w := .of_kept (logUwrite_kept _ _ _ _ _ _) _ _ fun _ _ => logUwrite_sameMem _ _ _ _ _ _
    exact hk.trans (writeS_only _ _ _ _ hw) fun _ hr => by
      rw [hk.partOf ht (logUwrite_sameMem _ _ _ _ _ _), replaying_kept (logUwrite_sameMem _ _ _ _ _ _)]; exact hr

theorem putS_holds {sd l n : Nat} {d : Bool} {v : DWord} (hf : s.fib c.fibre = some f) (hs : sd < 64) :
    HoldsS c (putS s c.fibre sd l n d v) sd v := by
  unfold putS
  by_cases h : sd = 0
  · rw [if_pos h]
    exact ⟨f, hf, by simp [h, Fibre.readS]⟩
  · rw [if_neg h]
    obtain ⟨y, hy, -⟩ := (logUwrite_kept c.fibre sd l n d v).some hf
    exact ⟨_, modFib_some hy, readS_writeS_self hs⟩

theorem HoldsS.kept {d : Nat} {v : DWord} (h : HoldsS c t d v) (k : Kept t u) : HoldsS c u d v := by
  obtain ⟨x, hx, hv⟩ := h
  obtain ⟨y, hy, hr⟩ := k.some hx
  have : y.s = x.s := congrArg Regs.s hr
  exact ⟨y, hy, by rw [← hv]; unfold Fibre.readS; rw [this]⟩

/-- A short word of a uniform register. -/
theorem uniform_ready {d : BitVec 6} {srcs : List Nat} {val : Fibre → DWord} (h : Ready s c f { s := d.toNat :: srcs }) :
    ∃ t, uniform s d srcs val = .next t ∧ HoldsS c t d.toNat (val f) ∧ Only s t c.fibre { s := [d.toNat] } :=
  ⟨_, gate_ready h, (putS_holds h.fibre d.isLt).kept (retire_kept c),
    (putS_only _ _ _ _ _ _ _ (by simp) rfl).retire rfl (putS_sameMem _ _ _ _ _ _)⟩

/-! ### Flags (R65) -/

theorem perLane_get {α : Type} (d : α) (m : LaneMask) (g : Fin 32 → α) (l : Fin 32) : (perLane d m g)[l] = if inMask m l then g l else d := by
  simp [perLane]

theorem foldl_or_if (m : LaneMask) (fl : Fin 32 → Word) (l : List (Fin 32)) (w : Word) :
    (l.filter fun x => inMask m x).foldl (fun w x => w ||| fl x) w = (l.map fun x => if inMask m x then fl x else 0).foldl (· ||| ·) w := by
  induction l generalizing w with
  | nil => rfl
  | cons x r ih =>
    by_cases h : inMask m x = true
    · rw [List.filter_cons_of_pos h, List.foldl_cons, List.map_cons, List.foldl_cons, if_pos h, ih]
    · rw [List.filter_cons_of_neg h, List.map_cons, List.foldl_cons, if_neg h, show w ||| (0 : Word) = w by simp, ih]

theorem laneFlags_eq (m : LaneMask) (fl : Fin 32 → Word) :
    laneFlags m fl = ((List.finRange 32).map fun l => if inMask m l then fl l else 0).foldl (· ||| ·) 0 := foldl_or_if _ _ _ _

theorem laneFlags_congr {m : LaneMask} {a b : Fin 32 → Word} (h : ∀ l, inMask m l = true → a l = b l) : laneFlags m a = laneFlags m b := by
  rw [laneFlags_eq, laneFlags_eq]
  congr 1
  apply List.map_congr_left
  intro l _
  split
  · next e => exact h l e
  · rfl

theorem accrue_only (fid : Nat) (fl : Word) (w : Writes) (hw : w.fpstat = true) : Only s (accrue s fid fl) fid w := by
  refine modFib_only w ?_ ?_ ?_ ?_ ?_ ?_ ?_ ?_
  · intro _; rfl
  · intros; rfl
  · intros; rfl
  · intros; rfl
  · intro _ h; rw [hw] at h; exact absurd h (by simp)
  · intros; rfl
  · intros; rfl
  · intros; rfl

theorem HoldsF.kept {fl : Fin 32 → Word} (h : HoldsF c f t fl) (k : Kept t u) : HoldsF c f u fl := by
  obtain ⟨x, hx, hv⟩ := h
  obtain ⟨y, hy, hr⟩ := k.some hx
  exact ⟨y, hy, (congrArg Regs.fpstat hr).trans hv⟩

theorem accrue_holds {fl : Fin 32 → Word} {w : Word} (hf : (s.fib c.fibre).map (·.fpstat) = some f.fpstat)
    (hw : w = laneFlags (c.active f) fl) : HoldsF c f (accrue s c.fibre w) fl := by
  cases hx : s.fib c.fibre with
  | none => rw [hx] at hf; simp at hf
  | some x =>
    rw [hx] at hf
    refine ⟨_, modFib_some hx, ?_⟩
    have : x.fpstat = f.fpstat := Option.some.inj hf
    rw [hw, laneFlags_eq]
    simp only [this]

/-- Changes of a fibre that keep windows and registers keep what registers read as. -/
theorem readReg_accrue (fid g r : Nat) (w : Word) : readReg (accrue s fid w) g r = readReg s g r :=
  (accrue_only (s := s) fid w { fpstat := true } rfl).vreg g r (by simp)

theorem readLane_accrue (fid g r : Nat) (w : Word) (l : Fin 32) : readLane (accrue s fid w) g r l = readLane s g r l := by
  unfold readLane
  rw [readReg_accrue]

theorem accrue_sameMem (fid : Nat) (w : Word) : SameMem s (accrue s fid w) := .fib

theorem Only.fpstat_self {w : Writes} (h : Only s t c.fibre w) (hw : w.fpstat = false) (hf : s.fib c.fibre = some f) :
    (t.fib c.fibre).map (·.fpstat) = some f.fpstat := by
  rw [h.fpstat c.fibre (by simp [hw]), hf]; rfl

/-- A frame within a wider one. -/
theorem Only.mono {w v : Writes} {fid : Nat} (h : Only s t fid w) (hv : ∀ r ∈ w.v, r ∈ v.v) (hp : ∀ r ∈ w.p, r ∈ v.p)
    (hs : ∀ r ∈ w.s, r ∈ v.s) (hq : ∀ r ∈ w.q, r ∈ v.q)
    (hb : (w.fpstat → v.fpstat) ∧ (w.flags → v.flags) ∧ (w.append → v.append) ∧ (w.ops → v.ops) ∧ (w.pads → v.pads) ∧
      (w.teams → v.teams) ∧ (w.fbars → v.fbars) ∧ (w.mem → v.mem))
    (hr : ∀ r ∈ w.freed, r ∈ v.freed := by simp) (hqs : w.queues = true → v.queues = true := by simp) : Only s t fid v := by
  obtain ⟨b1, b2, b3, b4, b5, b6, b7, b8⟩ := hb
  have neg : ∀ {a b : Bool}, (a = true → b = true) → b = false → a = false := by intro a b; cases a <;> cases b <;> simp
  exact {
    vreg := fun g r x => h.vreg g r fun q hq => x q (hv q hq)
    pred := fun g n x => h.pred g n fun e => x ⟨e.1, hp n e.2⟩
    unif := fun g n x y => h.unif g n (fun e => x ⟨e.1, hs n e.2⟩) fun e => y (hr g e)
    accum := fun g n x => h.accum g n fun e => x ⟨e.1, hq n e.2⟩
    fpstat := fun g x => h.fpstat g fun e => x ⟨e.1, b1 e.2⟩
    flags := fun g x => h.flags g fun e => x ⟨e.1, b2 e.2⟩
    append := fun g x => h.append g fun e => x ⟨e.1, b3 e.2⟩
    bound := h.bound
    ops := fun x => ⟨(h.ops (neg b4 x)).1, fun y => (h.ops (neg b4 x)).2 (neg b8 y)⟩
    pads := fun x => h.pads (neg b5 x)
    teams := fun x => ⟨(h.teams (neg b6 x)).1, fun y => (h.teams (neg b6 x)).2 (neg b8 y)⟩
    fbars := fun x => h.fbars (neg b7 x)
    outer := ⟨h.outer.1, h.outer.2.1, fun x => h.outer.2.2.1 (neg hqs x), h.outer.2.2.2⟩
    mem := fun x => h.mem (neg b8 x) }

/-- A short word of one register that accrues flags. -/
theorem flag1_ready {d : BitVec 7} {srcs : List Nat} {vc : Nat} {val : Issue → Fibre → Fin 32 → Word × Word}
    (h : Ready s c f { v := srcs, d := [d.toNat], vc := vc }) :
    ∃ t, flag1 s d srcs vc val = .next t ∧ Holds1 s c f t d.toNat (fun l => (val c f l).1) ∧ HoldsF c f t (fun l => (val c f l).2) ∧
      Only s t c.fibre { v := [d.toNat], fpstat := true } := by
  have hr : c.active f = 0 ∨ f.hasReg d.toNat = true := h.regs.imp id fun e => e _ (by simp [Issue.vregs])
  refine ⟨_, gate_ready h, ?_, ?_, ?_⟩
  · refine Holds1.kept (fun l => ?_) (retire_kept c)
    have hn : ∀ val w, ¬ Spread c f (accrue (c.wr s f d.toNat .g val) c.fibre w) d.toNat := fun val w e =>
      not_spread_g h.fibre h.area hr ((Spread.congr (readReg_accrue _ _ _ _)).1 e)
    rw [readLane_accrue, wr_holds h.fibre h.area hr l]
    simp only [hn, not_spread_g h.fibre h.area hr, or_false]
    split
    · next e => rw [perLane_get, if_pos e]
    · rfl
  · refine HoldsF.kept (accrue_holds ?_ ?_) (retire_kept c)
    · exact (wr_only (w := { v := [d.toNat] }) _ _ _ (by simp)).fpstat_self rfl h.fibre
    · exact laneFlags_congr fun l e => by rw [perLane_get, if_pos e]
  · have h1 := wr_only (s := s) (c := c) (f := f) d.toNat .g (fun l => (perLane ((0, 0) : Word × Word) (c.active f) (val c f))[l].1)
      { v := [d.toNat], fpstat := true } (by simp)
    refine Only.retire (h1.trans (accrue_only _ _ _ rfl) fun _ hr => ?_) rfl ((wr_sameMem _ _ _).trans (accrue_sameMem _ _))
    rw [h1.partOf rfl (wr_sameMem _ _ _), replaying_kept (wr_sameMem _ _ _)]; exact hr

/-- A short word of a pair that accrues flags. -/
theorem flag2_ready {d : BitVec 7} {srcs : List Nat} {vc : Nat} {val : Issue → Fibre → Fin 32 → DWord × Word}
    (h : Ready s c f { v := srcs, d := regRange d.toNat 2, vc := vc }) :
    ∃ t, flag2 s d srcs vc val = .next t ∧ Holds2 s c f t d.toNat (fun l => (val c f l).1) ∧ HoldsF c f t (fun l => (val c f l).2) ∧
      Only s t c.fibre { v := regRange d.toNat 2, fpstat := true } := by
  have hr : c.active f = 0 ∨ (f.hasReg d.toNat = true ∧ f.hasReg (d.toNat + 1) = true) :=
    h.regs.imp id fun e => ⟨e _ (by simp [Issue.vregs, regRange, List.range_succ]), e _ (by simp [Issue.vregs, regRange, List.range_succ])⟩
  have hm : d.toNat ∈ regRange d.toNat 2 ∧ d.toNat + 1 ∈ regRange d.toNat 2 := by simp [regRange, List.range_succ]
  refine ⟨_, gate_ready h, ?_, ?_, ?_⟩
  · refine Holds2.kept (fun l => ?_) (retire_kept c)
    have := wrP_holds (tag := .g) (val := fun l => (perLane ((0, 0) : DWord × Word) (c.active f) (val c f))[l].1) h.fibre h.area hr l
    have hn : ∀ val, ¬ Spread c f (c.wrP s f d.toNat .g val) d.toNat := fun val e => wrP_spread_g h.fibre h.area hr e
    simp only [Spread.congr (readReg_accrue _ _ _ _), hn, or_false] at this ⊢
    unfold readPair at this ⊢
    rw [readLane_accrue, readLane_accrue, this]
    split
    · next e => rw [perLane_get, if_pos e]
    · rfl
  · refine HoldsF.kept (accrue_holds ?_ ?_) (retire_kept c)
    · exact (wrP_only (w := { v := regRange d.toNat 2 }) _ _ _ hm.1 hm.2 rfl).fpstat_self rfl h.fibre
    · exact laneFlags_congr fun l e => by rw [perLane_get, if_pos e]
  · have h1 := wrP_only (s := s) (c := c) (f := f) d.toNat .g (fun l => (perLane ((0, 0) : DWord × Word) (c.active f) (val c f))[l].1)
      { v := regRange d.toNat 2, fpstat := true } hm.1 hm.2 rfl
    refine Only.retire (h1.trans (accrue_only _ _ _ rfl) fun _ hr => ?_) rfl ((wrP_sameMem _ _ _).trans (accrue_sameMem _ _))
    rw [h1.partOf rfl (wrP_sameMem _ _ _), replaying_kept (wrP_sameMem _ _ _)]; exact hr

theorem wrPred_accrue {p : Nat} {val : Fin 32 → Bool} {m : LaneMask} (w : Word) (h : HoldsP c f (c.wrPred s f p m) p val) :
    HoldsP c f (accrue (c.wrPred s f p m) c.fibre w) p val := by
  obtain ⟨x, hx, hv⟩ := h
  exact ⟨_, modFib_some hx, hv⟩

/-- A short word of a predicate that accrues flags. -/
theorem flagPred_ready {p : BitVec 3} {srcs : List Nat} {val : Issue → Fibre → Fin 32 → Bool × Word} (h : Ready s c f { v := srcs }) :
    ∃ t, flagPred s p srcs val = .next t ∧ HoldsP c f t p.toNat (fun l => (val c f l).1) ∧ HoldsF c f t (fun l => (val c f l).2) ∧
      Only s t c.fibre { p := [p.toNat], fpstat := true } := by
  have hg : ∀ l, inMask (c.active f) l = true → (perLane ((false, 0) : Bool × Word) (c.active f) (val c f))[l] = val c f l :=
    fun l e => by rw [perLane_get, if_pos e]
  have hq : HoldsP c f (c.wrPred s f p.toNat (maskOf fun l => (perLane ((false, 0) : Bool × Word) (c.active f) (val c f))[l].1)) p.toNat
      fun l => (val c f l).1 := by
    obtain ⟨x, hx, hv⟩ := wrPred_holds (s := s) (c := c) (f := f) (p := p.toNat)
      (val := fun l => (perLane ((false, 0) : Bool × Word) (c.active f) (val c f))[l].1) h.fibre p.isLt
    refine ⟨x, hx, fun l => ?_⟩
    rw [hv l]
    by_cases e : inMask (c.active f) l = true
    · rw [if_pos e, if_pos e]; dsimp only; rw [hg l e]
    · rw [if_neg e, if_neg e]
  refine ⟨_, gate_ready h, (wrPred_accrue _ hq).kept (retire_kept c), ?_, ?_⟩
  · refine HoldsF.kept (accrue_holds ?_ ?_) (retire_kept c)
    · exact (wrPred_only (w := { p := [p.toNat] }) _ _ (by simp)).fpstat_self rfl h.fibre
    · exact laneFlags_congr fun l e => by rw [hg l e]
  · have h1 := wrPred_only (s := s) (c := c) (f := f) p.toNat (maskOf fun l => (perLane ((false, 0) : Bool × Word) (c.active f) (val c f))[l].1)
      { p := [p.toNat], fpstat := true } (by simp)
    refine Only.retire (h1.trans (accrue_only _ _ _ rfl) fun _ hr => ?_) rfl ((wrPred_sameMem _ _).trans (accrue_sameMem _ _))
    rw [h1.partOf rfl (wrPred_sameMem _ _), replaying_kept (wrPred_sameMem _ _)]; exact hr

/-! ### Accumulators (R136) -/

theorem qWord_ready {q : BitVec 1} {srcs : List Nat} {g : Issue → Fin 32 → W320 → W320 × Word} (h : Ready s c f { v := srcs }) :
    ∃ t, qWord s q srcs g = .next t ∧ HoldsQ c f t q.toNat (fun l x => (g c l x).1) ∧
      HoldsF c f t (fun l => (g c l (vget f.q q.toNat (lanesOf 0))[l]).2) ∧ Only s t c.fibre { q := [q.toNat], fpstat := true } := by
  have hg : ∀ l, inMask (c.active f) l = true →
      (perLane ((0, 0) : W320 × Word) (c.active f) fun l => g c l (vget f.q q.toNat (lanesOf 0))[l])[l] = g c l (vget f.q q.toNat (lanesOf 0))[l] :=
    fun l e => by rw [perLane_get, if_pos e]
  have hq : q.toNat < 2 := q.isLt
  refine ⟨_, gate_ready h, ?_, ?_, ?_⟩
  · obtain ⟨y, hy, hr⟩ := (retire_kept c (s := accrue _ c.fibre _)).some (modFib_some (modFib_some h.fibre))
    refine ⟨y, hy, fun l => ?_⟩
    have e : y.q = vset f.q q.toNat (Vector.ofFn fun l => if inMask (c.active f) l then
        ((perLane ((0, 0) : W320 × Word) (c.active f) fun l => g c l (vget f.q q.toNat (lanesOf 0))[l])[l]).1
        else (vget f.q q.toNat (lanesOf 0))[l]) := congrArg Regs.q hr
    rw [e]
    simp only [vget, vset, hq, Vector.getElem?_setIfInBounds, if_true, Option.getD_some]
    rw [Fin.getElem_fin, Vector.getElem_ofFn]
    split
    · next e => exact congrArg Prod.fst (hg l e)
    · rfl
  · refine HoldsF.kept (accrue_holds ?_ ?_) (retire_kept c)
    · rw [modFib_some h.fibre]; rfl
    · exact laneFlags_congr fun l e => congrArg Prod.snd (hg l e)
  · have h1 : ∀ new, Only s (s.modFib c.fibre fun x => { x with q := vset x.q q.toNat new }) c.fibre { q := [q.toNat], fpstat := true } := by
      intro new
      refine modFib_only _ ?_ ?_ ?_ ?_ ?_ ?_ ?_ ?_
      case refine_4 =>
        intro x n hn
        have : q.toNat ≠ n := fun e => hn (by simp [e])
        simp only [vget, vset]
        rw [Vector.getElem?_setIfInBounds_ne this]
      all_goals (intros; rfl)
    refine Only.retire ((h1 _).trans (accrue_only _ _ _ rfl) fun _ hr => ?_) rfl (SameMem.trans .fib (accrue_sameMem _ _))
    rw [(h1 _).partOf rfl .fib, replaying_kept .fib]; exact hr

/-! ### Going in flight (R73) -/

theorem cfPending_of_ops {fid n : Nat} (h : t.ops = s.ops) : t.cfPending fid n = s.cfPending fid n := by unfold State.cfPending; rw [h]

/-- Adding an operation changes the list of operations and clears an error, no more. -/
theorem addOp_only (o : Op) (fid : Nat) (ho : o.fibre = fid) (w : Writes) (h1 : w.ops = true) (h2 : w.flags = true) : Only s (s.addOp o) fid w := by
  have hc : ∀ x : State, Only x ({ x with ops := x.ops ++ [{ o with id := x.nextOp }], nextOp := x.nextOp + 1 } : State) fid w := by
    intro x
    exact ⟨fun _ _ _ => rfl, fun _ _ _ => rfl, fun _ _ _ _ => rfl, fun _ _ _ => rfl, fun _ _ => rfl, fun _ _ => rfl, fun _ _ => rfl, fun _ => rfl,
      fun e => by rw [h1] at e; exact absurd e (by simp), fun _ _ => rfl, fun _ => ⟨fun _ => rfl, fun _ => rfl⟩, fun _ _ => rfl, ⟨rfl, rfl, fun _ => rfl, rfl⟩,
      fun _ _ => ⟨fun _ => rfl, rfl, fun _ => rfl⟩⟩
  have hm : ∀ m : BitVec 12, Only s (s.modFib o.fibre fun f => { f with cfErr := f.cfErr &&& m }) fid w := by
    intro m
    subst ho
    refine modFib_only w ?_ ?_ ?_ ?_ ?_ ?_ ?_ ?_
    case refine_6 => intro x e; rw [h2] at e; exact absurd e (by simp)
    all_goals (intros; rfl)
  unfold State.addOp
  simp only []
  split
  · split
    · exact hc _
    · refine (hm _).trans (hc _) fun _ hr => ?_
      have hmem := fun m : BitVec 12 => (SameMem.fib : SameMem s (s.modFib o.fibre fun f => { f with cfErr := f.cfErr &&& m }))
      have hp := fun m : BitVec 12 => partOf_same (s := s) (t := s.modFib o.fibre fun f => { f with cfErr := f.cfErr &&& m })
        (fun g => by rw [State.fib_modFib]; split <;> simp_all [Option.map_map, Function.comp_def]) (fun _ => rfl) (hmem m) fid
      rw [hp, replaying_kept (hmem _)]; exact hr
  · exact hc _

theorem addOp_sameMem (o : Op) : SameMem s (s.addOp o) := by
  unfold State.addOp
  simp only []
  split
  · split
    · exact .of_eq rfl rfl rfl rfl rfl
    · exact .of_eq rfl rfl rfl rfl rfl
  · exact .of_eq rfl rfl rfl rfl rfl

theorem addOp_ops (o : Op) : (s.addOp o).ops = s.ops ++ [{ o with id := s.nextOp }] := by
  unfold State.addOp
  simp only []
  split
  · split <;> rfl
  · rfl

theorem addOp_clear (o : Op) {n : Nat} (hf : s.fib o.fibre = some f) (hn : o.flag = some n) (hp : s.cfPending o.fibre n = false) :
    ∃ x, (s.addOp o).fib o.fibre = some x ∧ x.cfErr.getLsbD n = false := by
  unfold State.addOp
  rw [hn]
  simp only [hp, Bool.false_eq_true, if_false]
  refine ⟨_, (State.fib_congr (s := s.modFib o.fibre _) rfl _).trans (modFib_some hf), ?_⟩
  by_cases h : n < 12 <;> simp [h]

theorem InFlight.kept {flag : Option Nat} {kind : OpKind} (h : InFlight s c f t flag kind) (k : Kept t u) (hm : s.replaying (s.partOf c.fibre) = false → SameMem t u) :
    InFlight s c f u flag kind where
  ops := k.ops.trans h.ops
  clear n a b := by
    obtain ⟨x, hx, hc⟩ := h.clear n a b
    obtain ⟨y, hy, hr⟩ := k.some hx
    exact ⟨y, hy, by rw [show y.cfErr = x.cfErr from congrArg Regs.cfErr hr]; exact hc⟩
  frame := h.frame.kept k fun _ => hm

theorem addOp_inFlight {flag : Option Nat} {kind : OpKind} (hf : s.fib c.fibre = some f) :
    InFlight s c f (s.addOp (opOf s c f flag kind)) flag kind where
  ops := addOp_ops _
  clear _ a b := addOp_clear (opOf s c f flag kind) hf a b
  frame := addOp_only _ _ rfl _ rfl rfl

theorem InFlight.retire {flag : Option Nat} {kind : OpKind} (h : InFlight s c f t flag kind) (hm : SameMem s t) :
    InFlight s c f (retire t c) flag kind :=
  h.kept (retire_kept c) fun hr => retire_sameMem c (by rw [h.frame.partOf rfl hm, replaying_kept hm]; exact hr)

/-- A class B word with a lane to serve goes in flight with its results and flags (R73, R124). -/
theorem issueB_inFlight {ws : List RegWrite} {fl : Word} {fp : Bool} (hf : s.fib c.fibre = some f) (ha : c.active f ≠ 0) :
    InFlight s c f (issueB s c f ws fl fp) (flagOf (fieldOf c.hdr 19 16)) (.classB ws fl fp c.div) := by
  unfold issueB
  simp only []
  rw [if_neg ha]
  exact (addOp_inFlight (flag := flagOf (fieldOf c.hdr 19 16)) hf).retire (addOp_sameMem _)

end Sys2Proof.Machine
end

