-- ==== Sys2Proof/Laws/Places.lean ====
section
/-!
SUPPORT. Sys2Proof/Laws/Places.lean: where issuing leaves the lanes of fibres and how it counts: a retired word adds one to RIC (R34), moves the
lanes of its bundle and no other lane (R71, R75).
-/

namespace Sys2Proof.Machine

variable {s t u : State} {c : Issue} {f : Fibre}

/-! ### The memory system changes no fibre -/

/-- No fibre changed, no time passed. -/
structure SameFib (s t : State) : Prop where
  fibres : t.fibres = s.fibres
  clock  : t.clock = s.clock

theorem SameFib.refl (s : State) : SameFib s s := ⟨rfl, rfl⟩
theorem SameFib.trans (h : SameFib s t) (k : SameFib t u) : SameFib s u := ⟨k.1.trans h.1, k.2.trans h.2⟩
theorem SameFib.of_eq (h1 : t.fibres = s.fibres) (h2 : t.clock = s.clock) : SameFib s t := ⟨h1, h2⟩
theorem SameFib.core {n : Nat} {g : Core → Core} : SameFib s (s.modCore n g) := ⟨rfl, rfl⟩
theorem SameFib.line {n : Nat} {g : LineInfo → LineInfo} : SameFib s (s.modLine n g) := ⟨rfl, rfl⟩
theorem SameFib.stack {n : Nat} {g : Stack → Stack} : SameFib s (s.modStack n g) := ⟨rfl, rfl⟩
theorem SameFib.part {n : Nat} {g : Part → Part} : SameFib s (s.modPart n g) := ⟨rfl, rfl⟩
theorem SameFib.slot {n : Nat} {g : Slot → Slot} : SameFib s (s.modSlot n g) := ⟨rfl, rfl⟩
theorem SameFib.mgmt {g : Mgmt → Mgmt} : SameFib s (s.modMgmt g) := ⟨rfl, rfl⟩
theorem SameFib.hbm {g : Hbm} : SameFib s { s with hbm := g } := ⟨rfl, rfl⟩
theorem SameFib.mem {m : Mem} : SameFib s { s with mem := m } := ⟨rfl, rfl⟩
theorem SameFib.then_hbm {g : Hbm} (k : SameFib s t) : SameFib s { t with hbm := g } := k.trans .hbm
theorem SameFib.then_core {n : Nat} {g : Core → Core} (k : SameFib s t) : SameFib s (t.modCore n g) := k.trans .core
theorem SameFib.then_line {n : Nat} {g : LineInfo → LineInfo} (k : SameFib s t) : SameFib s (t.modLine n g) := k.trans .line


/-- A fold changes no fibre where none of its steps does. -/
theorem SameFib.foldl {α : Type} {g : State → α → State} (h : ∀ s x, SameFib s (g s x)) (l : List α) (s : State) :
    SameFib s (l.foldl g s) := by
  induction l generalizing s with
  | nil => exact .refl s
  | cons x r ih => exact (h s x).trans (ih (g s x))

theorem signal_sameFib (fn : Nat) (irq : DWord) : SameFib s (signal s fn irq) := by
  unfold signal; split
  · exact .mgmt
  · exact .refl s

theorem tellTo_sameFib (w ln : Nat) (l : List Nat) : SameFib s (s.tellTo w ln l) := .mgmt
theorem tell_sameFib (w ln : Nat) : SameFib s (s.tell w ln) := tellTo_sameFib _ _ _

theorem gather_sameFib (ln : Nat) (u : LineUse) : SameFib s (gather s ln u) := by
  unfold gather
  split
  · exact .line
  · exact .foldl (fun s x => tellTo_sameFib _ _ _) _ _

theorem setMd_sameFib (ln o st : Nat) : SameFib s (s.setMd ln o st) := .line

theorem setPoison_sameFib (ln : Nat) (p : Bool) : SameFib s (s.setPoison ln p) := .line

theorem pmCount_sameFib (c : Nat) (sl : Option Nat) (ev n : Nat) : SameFib s (s.pmCount c sl ev n) := by
  unfold State.pmCount; split
  · exact .refl s
  · exact .core

theorem rmThreshold_sameFib (b r : Nat) : SameFib s (rmThreshold s b r) := by
  unfold rmThreshold
  simp only []
  refine SameFib.then_hbm ?_
  split
  · exact .stack
  · refine SameFib.trans ?_ (signal_sameFib _ _)
    exact .stack

theorem activate_sameFib (ln : Nat) : SameFib s (activate s ln) := by
  unfold activate
  simp only []
  split
  · exact .refl s
  · split
    · exact SameFib.trans .hbm (rmThreshold_sameFib _ _)
    · exact .hbm

theorem uncorrectable_sameFib (ln : Nat) : SameFib s (uncorrectable s ln) := SameFib.trans (setPoison_sameFib _ _) .stack

theorem remapError_sameFib (ln : Nat) : SameFib s (remapError s ln) := by
  unfold remapError
  simp only []
  split
  · exact SameFib.trans .stack .hbm
  · exact SameFib.trans .stack .hbm
  · exact .refl s

theorem drawFree_sameFib : SameFib s s.drawFree.2 := .of_eq rfl rfl

theorem badMeta_sameFib (ln : Nat) : SameFib s (badMeta s ln) :=
  (((uncorrectable_sameFib _).trans (tellTo_sameFib _ _ _)).trans (tellTo_sameFib _ _ _)).trans .line

theorem l3Room_sameFib (ln : Nat) : SameFib s (l3Room s ln) := by
  unfold l3Room
  split
  · exact .refl s
  · simp only []
    split
    · exact .refl s
    · refine SameFib.trans ?_ .line
      split
      · exact drawFree_sameFib.trans (activate_sameFib _)
      · exact drawFree_sameFib

theorem eccRead_sameFib (ln : Nat) : SameFib s (eccRead s ln) := by
  unfold eccRead
  refine SameFib.then_hbm ?_
  split
  · exact .stack
  · exact uncorrectable_sameFib _
  · exact badMeta_sameFib _
  · split
    · exact badMeta_sameFib _
    · exact .refl s

theorem fetchLine_sameFib (ln : Nat) (nt : Bool) : SameFib s (fetchLine s ln nt) := by
  unfold fetchLine
  split
  · exact .refl s
  · simp only []
    have h : ∀ x : State, SameFib s x → SameFib s (eccRead (activate (remapError x ln) ln) ln) := fun x h =>
      ((h.trans (remapError_sameFib _)).trans (activate_sameFib _)).trans (eccRead_sameFib _)
    split
    · exact h _ (.refl s)
    · exact (h _ (l3Room_sameFib _)).trans .line

theorem undoCapture_sameFib (ln : Nat) : SameFib s (undoCapture s ln) := by
  have k : ∀ x : State, SameFib s x → ∀ g, SameFib s (x.modLine ln g) := fun _ h _ => h.trans .line
  unfold undoCapture
  simp only []
  by_cases h1 : isRemote ln = true
  · rw [if_pos h1]; exact .refl s
  rw [if_neg h1]
  split
  · exact .refl s
  · split
    · split
      · exact k _ .part _
      · refine k _ ?_ _
        refine SameFib.trans ?_ (activate_sameFib _)
        refine SameFib.trans ?_ .part
        exact .mem
    · split
      · exact k _ (.refl s) _
      · exact .refl s

theorem compWrite_sameFib (ln : Nat) (d : BitVec 1024) (m : BitVec 128) : SameFib s (compWrite s ln d m) := by
  unfold compWrite
  simp only []
  split
  · exact SameFib.of_eq rfl rfl
  · exact SameFib.of_eq rfl rfl

theorem lineWrite_sameFib (ln : Nat) (d : BitVec 1024) (m : BitVec 128) : SameFib s (lineWrite s ln d m) := by
  unfold lineWrite
  split
  · exact compWrite_sameFib _ _ _
  · exact .mem

theorem dropOwn_sameFib (ln : Nat) (w : BitVec 32) : SameFib s (dropOwn s ln w) := .line

theorem recallData_sameFib (ln : Nat) : SameFib s (recallData s ln) :=
  (((undoCapture_sameFib _).trans drawFree_sameFib).trans (lineWrite_sameFib _ _ _)).trans .line

theorem snoopData_sameFib (ln : Nat) : SameFib s (snoopData s ln) := by
  unfold snoopData; split
  · exact (recallData_sameFib _).trans .mgmt
  · exact .refl s

theorem homeTakes_sameFib (ln : Nat) : SameFib s (homeTakes s ln) := by
  unfold homeTakes
  split
  · exact .refl s
  · simp only []
    have h : SameFib s (gather s ln (.home true)) := gather_sameFib _ _
    split
    · exact h
    · exact (h.trans (recallData_sameFib _)).trans (setMd_sameFib _ _ _)
    · exact (h.trans (recallData_sameFib _)).trans (setMd_sameFib _ _ _)
    · split
      · exact (h.trans (snoopData_sameFib _)).trans (setMd_sameFib _ _ _)
      · exact h.trans (setMd_sameFib _ _ _)
    · exact h.trans (setMd_sameFib _ _ _)

theorem homeRead_sameFib (ln : Nat) (nt : Bool) : SameFib s (homeRead s ln nt) := by
  have h0 : SameFib s (fetchLine s ln nt) := fetchLine_sameFib _ _
  have h : SameFib s (gather (fetchLine s ln nt) ln (.home false)) := h0.trans (gather_sameFib _ _)
  unfold homeRead
  simp only []
  split
  · exact h0
  · split
    · exact (h.trans (recallData_sameFib _)).trans (setMd_sameFib _ _ _)
    · exact (h.trans (recallData_sameFib _)).trans (setMd_sameFib _ _ _)
    · split
      · exact (h.trans (snoopData_sameFib _)).trans (setMd_sameFib _ _ _)
      · exact h
    · exact h

theorem homeWrite_sameFib (ln : Nat) (d : BitVec 1024) (m : BitVec 128) : SameFib s (homeWrite s ln d m) := by
  unfold homeWrite
  split
  · exact .refl s
  · split
    · split
      · exact SameFib.trans .mem (dropOwn_sameFib _ _)
      · exact .refl s
    · simp only []
      split
      · exact fetchLine_sameFib _ _
      · have h : SameFib s (undoCapture (homeTakes (fetchLine s ln false) ln) ln) :=
          ((fetchLine_sameFib _ _).trans (homeTakes_sameFib _)).trans (undoCapture_sameFib _)
        refine SameFib.trans ?_ (dropOwn_sameFib _ _)
        refine SameFib.trans ?_ (lineWrite_sameFib _ _ _)
        split
        · exact h.trans (setPoison_sameFib _ _)
        · exact h


theorem cleanLine_sameFib (c ln : Nat) : SameFib s (cleanLine s c ln) := by
  unfold cleanLine
  simp only []
  have h : SameFib s (homeWrite s ln (s.l1 c ln).data (s.l1 c ln).dirty) := homeWrite_sameFib _ _ _
  split
  · exact (h.trans (pmCount_sameFib _ _ _ _)).trans .core
  · exact h.trans .core

theorem ownRoom_sameFib (c ln : Nat) : SameFib s (ownRoom s c ln) := by
  unfold ownRoom
  split
  · split
    · exact .refl s
    · exact (cleanLine_sameFib _ _).trans .line
  · exact .refl s

theorem freshWords_sameFib (c ln : Nat) (m : BitVec 32) : SameFib s (freshWords s c ln m) := .core

theorem registerWords_sameFib (c ln : Nat) (m : BitVec 32) : SameFib s (registerWords s c ln m) :=
  ((ownRoom_sameFib _ _).trans (freshWords_sameFib _ _ _)).trans .line

theorem writeBack_sameFib (c ln : Nat) : SameFib s (writeBack s c ln) := by
  unfold writeBack
  simp only []
  split
  · exact .refl s
  · exact ((ownRoom_sameFib _ _).trans (cleanLine_sameFib _ _)).trans (registerWords_sameFib _ _ _)

theorem dropNow_sameFib (f : Nat) (r : BitVec 128) : SameFib s (dropNow s f r) := by
  unfold dropNow
  simp only []
  split
  · split
    · exact (writeBack_sameFib _ _).then_core.then_line
    · exact .refl s
  · exact .core

/-! ### Recording and replaying -/

/-- No lane of a fibre moved, no count changed, no time passed. -/
structure Placed (s t : State) : Prop where
  lanes : ∀ g, (t.fib g).map (fun x => (x.lanes, x.ric)) = (s.fib g).map (fun x => (x.lanes, x.ric))
  clock : t.clock = s.clock

theorem Placed.refl (s : State) : Placed s s := ⟨fun _ => rfl, rfl⟩
theorem Placed.trans (h : Placed s t) (k : Placed t u) : Placed s u := ⟨fun g => (k.lanes g).trans (h.lanes g), k.clock.trans h.clock⟩
theorem Placed.of_fib (h : SameFib s t) : Placed s t := ⟨fun g => by rw [State.fib_congr h.fibres], h.clock⟩

theorem Placed.fib {n : Nat} {g : Fibre → Fibre} (h : ∀ x, ((g x).lanes, (g x).ric) = (x.lanes, x.ric)) : Placed s (s.modFib n g) := by
  refine ⟨fun k => ?_, rfl⟩
  rw [State.fib_modFib]
  split
  · next e => subst e; cases s.fib k <;> simp_all
  · rfl

theorem Placed.some (h : Placed s t) {g : Nat} {x : Fibre} (hs : s.fib g = some x) : ∃ y, t.fib g = some y ∧ y.lanes = x.lanes ∧ y.ric = x.ric := by
  have hg := h.lanes g
  rw [hs] at hg
  cases ht : t.fib g with
  | none => rw [ht] at hg; simp at hg
  | some y => rw [ht] at hg; simp only [Option.map_some, Option.some.injEq, Prod.mk.injEq] at hg; exact ⟨y, rfl, hg⟩

theorem pmCount_placed (k : Nat) (sl : Option Nat) (ev n : Nat) : Placed s (s.pmCount k sl ev n) := .of_fib (pmCount_sameFib _ _ _ _)

theorem emit_placed (p k : Nat) (r : BitVec 128) : Placed s (emit s p k r) := by
  unfold emit; split
  · exact .refl s
  · unfold modRecorder
    split
    · exact (pmCount_placed _ _ _ _).trans (.of_fib .part)
    · exact .of_fib .part

theorem popLog_placed (f : Nat) (r : BitVec 128) : Placed s (popLog s f r) := .fib fun _ => rfl

theorem meetRec_placed (f : Nat) (r : BitVec 128) (ln n : Nat) : Placed s (meetRec s f r ln n) := .fib (by intro x; split <;> rfl)

theorem diverge_placed (f a b k : Nat) : Placed s (diverge s f a b k) := .fib fun _ => rfl

theorem replayChunk_placed (f : Nat) : Placed s (replayChunk s f) := by
  unfold replayChunk
  split
  · exact .refl s
  · split
    · split
      · simp only []
        split
        · refine (popLog_placed f _).trans (.fib ?_); intro _; rfl
        · refine Placed.trans ((popLog_placed f _).trans (.fib ?_)) (diverge_placed _ _ _ _); intro _; rfl
      · exact .refl s
    · exact .refl s

theorem mismatch_placed (f : Nat) : Placed s (mismatch s f) := diverge_placed _ _ _ _

theorem chunkEnd_placed (f a b : Nat) : Placed s (chunkEnd s f a b) := by
  unfold chunkEnd
  split
  · exact .refl s
  · simp only []
    split
    · split
      · exact .refl s
      · refine (emit_placed _ _ _).trans (.fib ?_); intro _; rfl
    · split
      · exact replayChunk_placed _
      · exact .refl s

theorem noteRec_placed (p f : Nat) (r : BitVec 128) : Placed s (noteRec s p f r) := by
  unfold noteRec
  split
  · exact .fib fun _ => rfl
  · exact (chunkEnd_placed _ _ _).trans (emit_placed _ _ _)

theorem produce_placed (f k r m q : Nat) (ln : Nat := 0) (n : Nat := 0) : Placed s (produce s f k r m q ln n) := by
  have h : Placed s (chunkEnd s f 0 0) := chunkEnd_placed _ _ _
  unfold produce
  simp only []
  split
  · exact noteRec_placed _ _ _
  · split
    · split
      · exact h
      · split
        · split
          · exact h.trans (meetRec_placed _ _ _ _)
          · exact h.trans (mismatch_placed _)
        · split
          · exact h
          · exact h.trans (mismatch_placed _)
    · exact .refl s

/-! ### Counting and moving on -/

theorem replayDrops_placed (f n : Nat) : Placed s (replayDrops s f n) := by
  induction n generalizing s with
  | zero => exact .refl s
  | succ n ih =>
    simp only [replayDrops]
    split
    · exact .refl s
    · split
      · split
        · exact .refl s
        · exact ((Placed.of_fib (dropNow_sameFib _ _)).trans (popLog_placed _ _)).trans ih
      · exact .refl s

theorem replayAfter_placed (f : Nat) : Placed s (replayAfter s f) := by
  unfold replayAfter
  split
  · exact .refl s
  · simp only []
    have h : Placed s (replayDrops s f 64) := replayDrops_placed _ _
    split
    · split
      · exact (h.trans (chunkEnd_placed _ _ _)).trans (replayDrops_placed _ _)
      · split
        · exact h.trans (mismatch_placed _)
        · exact h
    · exact h

/-- The next fibre after a word of fibre c.fibre has counted: its lanes stand, its RIC is one more modulo 2^32 (R34). -/
theorem countWord_some (hf : s.fib c.fibre = some f) : ∃ x, (countWord s c.fibre).fib c.fibre = some x ∧ x.lanes = f.lanes ∧ x.ric = f.ric + 1 := by
  have hl : ∀ y : State, Placed y (chunkLimit y c.fibre) := by
    intro y
    unfold chunkLimit; split
    · split
      · exact chunkEnd_placed _ _ _
      · exact .refl y
    · exact .refl y
  unfold countWord
  rw [hf]
  simp only []
  split
  · next e =>
    obtain ⟨x, hx, hp⟩ := (produce_placed (s := s) c.fibre 0xB 0xFFFFFFFF ((((s.fib c.fibre).map (·.wraps)).getD 0 + 1) * 2 ^ 30) 0).some hf
    obtain ⟨y, hy, hq⟩ := (hl (ricWrap s c.fibre)).some (modFib_some hx)
    refine ⟨y, hy, hq.1.trans hp.1, hq.2.trans ?_⟩
    rw [e]; rfl
  · obtain ⟨y, hy, hq⟩ := (hl (s.modFib c.fibre fun f => { f with ric := f.ric + 1 })).some (modFib_some hf)
    exact ⟨y, hy, hq.1, hq.2⟩

theorem countIssue_some (hf : s.fib c.fibre = some f) : ∃ x, (countIssue s c).fib c.fibre = some x ∧ x.lanes = f.lanes ∧ x.ric = f.ric + 1 := by
  obtain ⟨x, hx, h1, h2⟩ := countWord_some hf
  have h : ∃ y, (if (((s.fib c.fibre).map (·.stepRest)).getD 0 == 0) = true then replayAfter (countWord s c.fibre) c.fibre
      else countWord s c.fibre).fib c.fibre = some y ∧ y.lanes = f.lanes ∧ y.ric = f.ric + 1 := by
    split
    · obtain ⟨y, hy, hq⟩ := (replayAfter_placed c.fibre).some hx
      exact ⟨y, hy, hq.1.trans h1, hq.2.trans h2⟩
    · exact ⟨x, hx, h1, h2⟩
  obtain ⟨y, hy, h3, h4⟩ := h
  obtain ⟨z, hz, hq⟩ := (((pmCount_placed (coreOf c.fibre) (some (slotOf c.fibre % 4)) 2 1).trans (pmCount_placed _ (some (slotOf c.fibre % 4)) 3
    (if laneCount c.lanes < 32 then 1 else 0))).trans (pmCount_placed _ (some (slotOf c.fibre % 4)) 4 (laneCount c.lanes))).some hy
  refine ⟨z, ?_, hq.1.trans h3, hq.2.trans h4⟩
  exact hz

theorem handOver_placed (f w : Nat) : Placed s (handOver s f w) := by
  unfold handOver
  simp only []
  split
  · exact Placed.trans (.of_fib .slot) (pmCount_placed _ _ _ _)
  · exact .refl s

theorem yieldPoint_placed (f : Nat) : Placed s (yieldPoint s f) := .fib fun _ => rfl

theorem stepDone_placed (c : Issue) : Placed s (stepDone s c) := .fib fun _ => rfl

/-- Lane l of a fibre after it ends a clause execution: the stamp of a lane of the bundle that is live and not held. -/
def stamped (now : Nat) (m : LaneMask) (x : Lane) (l : Fin 32) : Lane :=
  if inMask m l && x.live && x.hold == .none then { x with stamp := now } else x

theorem onLanes_lane (x : Fibre) (m : LaneMask) (g : Lane → Lane) (l : Fin 32) :
    (x.onLanes m g).lane l = if inMask m l then g (x.lane l) else x.lane l := by
  unfold Fibre.onLanes Fibre.lane; simp

theorem stamped_out {now : Nat} {m : LaneMask} {x : Lane} {l : Fin 32} (h : ¬ inMask m l = true) : stamped now m x l = x := by
  have hb : inMask m l = false := by simpa using h
  unfold stamped; rw [hb]; rfl

theorem endRun_some (hf : s.fib c.fibre = some f) : ∃ x, (endRun s c).fib c.fibre = some x ∧ x.ric = f.ric ∧
    ∀ l, x.lane l = stamped s.clock c.lanes (f.lane l) l := by
  have key : ∃ x, (s.modFib c.fibre fun x =>
      { x.onLanes c.lanes (fun l => if l.live && l.hold = .none then { l with stamp := s.clock } else l) with run := none }).fib c.fibre = some x ∧
      x.ric = f.ric ∧ ∀ l, x.lane l = stamped s.clock c.lanes (f.lane l) l := by
    refine ⟨_, modFib_some hf, ?_, fun l => ?_⟩
    · simp only [Fibre.onLanes]
    · have hr : ∀ (y : Fibre) (r : Option ClauseRun), ({ y with run := r } : Fibre).lane l = y.lane l := fun _ _ => rfl
      rw [hr, onLanes_lane]
      unfold stamped
      by_cases hm : inMask c.lanes l = true
      · simp only [hm, if_true, Bool.true_and]
        by_cases h1 : (f.lane l).live = true <;> by_cases h2 : (f.lane l).hold = .none <;> simp [h1, h2]
      · have hb : inMask c.lanes l = false := by simpa using hm
        rw [hb]; rfl
  obtain ⟨x, hx, h1, h2⟩ := key
  unfold endRun
  simp only []
  split
  · obtain ⟨y, hy, hq⟩ := (yieldPoint_placed c.fibre).some hx
    refine ⟨y, hy, hq.2.trans h1, fun l => ?_⟩
    rw [← h2 l]; unfold Fibre.lane; rw [hq.1]
  · exact ⟨x, hx, h1, h2⟩

theorem sendTo_ric (m : LaneMask) (g : Fin 32 → DWord) (x : Fibre) : (sendTo m g x).ric = x.ric := by simp only [sendTo]

theorem sendTo_lane (m : LaneMask) (g : Fin 32 → DWord) (x : Fibre) (l : Fin 32) :
    (sendTo m g x).lane l = if inMask m l then { x.lane l with pc := g l, word := 1, hold := .none } else x.lane l := by
  have : ∀ v : Vector Lane 32, ({ x with lanes := v } : Fibre).lane l = v[l] := fun _ => rfl
  unfold sendTo
  rw [this, Fin.getElem_fin, Vector.getElem_ofFn]

theorem countIssue_clock (hf : s.fib c.fibre = some f) : (countIssue s c).clock = s.clock := by
  have hl : ∀ y : State, Placed y (chunkLimit y c.fibre) := by
    intro y
    unfold chunkLimit; split
    · split
      · exact chunkEnd_placed _ _ _
      · exact .refl y
    · exact .refl y
  have hw : (countWord s c.fibre).clock = s.clock := by
    unfold countWord
    rw [hf]
    simp only []
    split
    · exact (hl _).clock.trans (produce_placed (s := s) c.fibre 0xB 0xFFFFFFFF ((((s.fib c.fibre).map (·.wraps)).getD 0 + 1) * 2 ^ 30) 0).clock
    · exact (hl _).clock
  have h : (if (((s.fib c.fibre).map (·.stepRest)).getD 0 == 0) = true then replayAfter (countWord s c.fibre) c.fibre
      else countWord s c.fibre).clock = s.clock := by
    split
    · exact (replayAfter_placed c.fibre).clock.trans hw
    · exact hw
  exact (((pmCount_placed (coreOf c.fibre) (some (slotOf c.fibre % 4)) 2 1).trans (pmCount_placed _ (some (slotOf c.fibre % 4)) 3
    (if laneCount c.lanes < 32 then 1 else 0))).trans (pmCount_placed _ (some (slotOf c.fibre % 4)) 4 (laneCount c.lanes))).clock.trans h

/-- A transfer moves every lane of the bundle to its own clause, counts one word, and leaves the other lanes where they are (R75, R114). -/
theorem retireTo_some {g : Fin 32 → DWord} (hf : s.fib c.fibre = some f) : ∃ x, (retireTo s c g).fib c.fibre = some x ∧ x.ric = f.ric + 1 ∧
    ∀ l, x.lane l = if inMask c.lanes l then stamped s.clock c.lanes { f.lane l with pc := g l, word := 1, hold := .none } l else f.lane l := by
  obtain ⟨x, hx, h1, h2⟩ := countIssue_some hf
  have hm := modFib_some (g := sendTo c.lanes g) hx
  obtain ⟨y, hy, h3, h4⟩ := endRun_some hm
  obtain ⟨z, hz, hq⟩ := (stepDone_placed c).some hy
  refine ⟨z, hz, hq.2.trans (h3.trans ((sendTo_ric _ _ _).trans h2)), fun l => ?_⟩
  have hl : z.lane l = y.lane l := by unfold Fibre.lane; rw [hq.1]
  have hxl : x.lane l = f.lane l := by unfold Fibre.lane; rw [h1]
  rw [hl, h4 l, sendTo_lane, hxl, State.modFib_clock, countIssue_clock hf]
  split
  · rfl
  · next hn => exact stamped_out hn

/-- After a word its bundle stands at the next word; after the last counted word at the clause 64 bytes higher, its live lanes stamped (R71). -/
theorem retire_some (hf : s.fib c.fibre = some f) : ∃ x, (retire s c).fib c.fibre = some x ∧ x.ric = f.ric + 1 ∧
    ∀ l, x.lane l = if inMask c.lanes l then
        if fieldOf c.hdr 23 20 ≤ c.word then stamped s.clock c.lanes { f.lane l with pc := c.clause + 64, word := 1, hold := .none } l
        else { f.lane l with pc := c.clause, word := c.word + 1, hold := .none }
      else f.lane l := by
  obtain ⟨x, hx, h1, h2⟩ := countIssue_some hf
  have hxl : ∀ l, x.lane l = f.lane l := fun l => by unfold Fibre.lane; rw [h1]
  have hr : ∀ (y : Fibre) (r : Option ClauseRun) l, ({ y with run := r } : Fibre).lane l = y.lane l := fun _ _ _ => rfl
  have hric : ∀ (y : Fibre) (m : LaneMask) (g : Lane → Lane), (y.onLanes m g).ric = y.ric := fun _ _ _ => by simp only [Fibre.onLanes]
  have key : ∃ y, (advance (countIssue s c) c).fib c.fibre = some y ∧ y.ric = f.ric + 1 ∧
      ∀ l, y.lane l = if inMask c.lanes l then
        if fieldOf c.hdr 23 20 ≤ c.word then stamped s.clock c.lanes { f.lane l with pc := c.clause + 64, word := 1, hold := .none } l
        else { f.lane l with pc := c.clause, word := c.word + 1, hold := .none }
      else f.lane l := by
    unfold advance
    split
    · next e =>
      have hm := modFib_some (g := fun x => x.onLanes c.lanes fun l => { l with pc := c.clause + 64, word := 1, hold := .none }) hx
      obtain ⟨y, hy, h3, h4⟩ := endRun_some hm
      refine ⟨y, hy, h3.trans ((hric _ _ _).trans h2), fun l => ?_⟩
      rw [h4 l, onLanes_lane, hxl]
      rw [State.modFib_clock, countIssue_clock hf]
      split
      · simp only [if_pos e]
      · next hn => exact stamped_out hn
    · next e =>
      simp only []
      have hm : ∃ y, ((countIssue s c).modFib c.fibre fun x =>
          { x.onLanes c.lanes (fun l => { l with pc := c.clause, word := c.word + 1, hold := .none }) with
            run := x.run.map fun r => { r with word := c.word + 1, lanes := c.lanes, waited := true } }).fib c.fibre = some y ∧ y.ric = f.ric + 1 ∧
          ∀ l, y.lane l = if inMask c.lanes l then { f.lane l with pc := c.clause, word := c.word + 1, hold := .none } else f.lane l := by
        have hg := modFib_some (g := fun x : Fibre =>
          { x.onLanes c.lanes (fun l => { l with pc := c.clause, word := c.word + 1, hold := .none }) with
            run := x.run.map fun r => { r with word := c.word + 1, lanes := c.lanes, waited := true } }) hx
        refine ⟨_, hg, ?_, fun l => ?_⟩
        · simp only [Fibre.onLanes]; exact h2
        · rw [hr, onLanes_lane, hxl]
      obtain ⟨y, hy, h3, h4⟩ := hm
      split
      · exact ⟨_, modFib_some hy, h3, fun l => (hr _ _ l).trans (h4 l)⟩
      · exact ⟨y, hy, h3, h4⟩
  obtain ⟨y, hy, h3, h4⟩ := key
  obtain ⟨z, hz, hq⟩ := (stepDone_placed c).some hy
  refine ⟨z, hz, hq.2.trans h3, fun l => ?_⟩
  rw [← h4 l]; unfold Fibre.lane; rw [hq.1]

end Sys2Proof.Machine
end

