-- ==== Sys2Proof/Tests/Slice0.lean ====
section
/-!
SUPPORT. Sys2Proof/Tests/Slice0.lean: ill-formed terms that each check of WellFormed refuses, words of the spec decoded, single steps with
results taken from the spec, and for every statement a state and operands that meet its hypotheses (witness_<statement>).
-/

namespace Sys2Proof.Tests

open Sys2Proof.Machine

set_option Elab.async false

/-! ### Ill-formed terms (R23, R36, R126, R127, R152, R153, R173-R180, R211) -/

theorem test_wf_odd_pair : (Instr.iadd64 1 2 4).wf = false ∧ (Instr.shl64Imm 2 3 1).wf = false ∧ (Instr.movB64 5 1).wf = false ∧
    (Instr.icmp64 .eq 0 2 3).wf = false ∧ (Instr.trdec .e8e1 3 0).wf = false ∧ (Instr.trenc .e8e1 3 1).wf = false ∧
    (Instr.qround 3 0 .f64).wf = false ∧ (Instr.iadd64 2 4 6).wf = true := by decide

theorem test_wf_conversion : (Instr.cvt .f32 1 2 .f32).wf = false ∧ (Instr.cvt .f64 1 2 .f32).wf = false ∧ (Instr.cvtClamp .f32 1 2 .e8e1).wf = false ∧
    (Instr.cvt .e8e1 1 2 .e8e1).wf = true := by decide

theorem test_wf_address_pair : (Instr.ldB32 0 1 0 0).wf = false ∧ (Instr.pf 3 0 .l1).wf = false ∧ (Instr.atomAddB32 0 1 0 .team).wf = false ∧
    (Instr.callr 7 false 1).wf = false ∧ (Instr.jmpr 7 false 3).wf = false ∧ (Instr.shflIdx true 1 2 3).wf = false ∧ (Instr.matchB64 0 1).wf = false := by
  decide

theorem test_wf_quad : (Instr.ldB128 2 4 0 0).wf = false ∧ (Instr.stB128 2 4 0 0).wf = false ∧ (Instr.acasB128 6 4 0 .device).wf = false ∧
    (Instr.ldB128 4 2 0 0).wf = true := by decide

theorem test_wf_unordered_scope : (Instr.ldExtended 0 2 0 .b8zx false .team).wf = false ∧ (Instr.stExtended 0 2 0 .b8 false .device).wf = false ∧
    (Instr.ldExtended 0 2 0 .b8zx true .team).wf = true := by decide

theorem test_wf_numbers : (Instr.barInit 1 16).wf = false ∧ (Instr.fbarSync 1 4 0).wf = false ∧ (Instr.ringInit 1 16).wf = false ∧
    (Instr.cftest 1 12).wf = false ∧ (Instr.ctrRd 1 16).wf = false ∧ (Instr.ctrCtl 1 4).wf = false := by decide

theorem test_wf_special_registers : (Instr.sregRdVector 0 0x12).wf = false ∧ (Instr.sregRdVector 1 0x0C).wf = false ∧
    (Instr.sregRdUniform 0 0x12).wf = false ∧ (Instr.sregWr 0 0).wf = false ∧ (Instr.sregRdVector 1 0).wf = true := by decide

theorem test_wf_register_ranges : (Instr.copy 0 0 .team).wf = false ∧ (Instr.copy 61 0 .team).wf = false ∧ (Instr.mma 62 0).wf = false ∧
    (Instr.xformCvt 60 0).wf = false ∧ (Instr.msgSend 57 0).wf = false ∧ (Instr.msgRecv 0 1 2).wf = false ∧ (Instr.glaunch 0 1).wf = false ∧
    (Instr.msgSend 0 0).wf = true ∧ (Instr.copy 60 0 .team).wf = true := by decide

theorem test_wf_prefix : (Instr.xPrefix 7 false false .dyn 0 .none 1 false).wf = false ∧ (Instr.xPrefix 7 false false .dyn 0 .none 0 true).wf = false ∧
    (Instr.xPrefix 7 false false .dyn 0 .xor 1 true).wf = true := by decide

/-! ### Words -/

/-- The decoder reads this instruction from a word. -/
def reads (w : Nat) (i : Instr) : Bool :=
  match decodeWord (BitVec.ofNat 32 w) with
  | .ok j => decide (j = i)
  | .error _ => false

/-! Worked words of the spec. -/

theorem test_words_of_the_spec :
    reads 0x00018287 (.iadd 6 5 7) ∧ reads 0x20142010 (.iaddImm 5 4 16) ∧ reads 0x7F001008 (.wPrefix true 8) ∧
    reads 0x7E5F0000 (.xPrefix 2 true true .dyn 0 .none 0 false) ∧ reads 0x7C040000 (.bra 1 false 0) ∧ reads 0x26080008 (.movi 2 8) ∧
    reads 0x28C04002 (.icmp .ltUs 1 0 2) ∧ reads 0x7C060003 (.bra 1 true 3) ∧ reads 0x7C3C0003 (.call 7 false 3) ∧
    reads 0x7CBC0000 (.exit 7 false) ∧ reads 0x24000001 (.shlImm 0 0 1) ∧ reads 0x7C7C0000 (.ret 7 false) ∧ reads 0x30010286 (.faddF32 4 5 6) ∧
    reads 0x7EE71600 (.xPrefix 7 false false .dyn 11 .none 0 false) ∧ reads 0x4622048A (.trfma .e8e1 8 9 10) ∧
    reads 0x5280C107 (.cvt .f32 3 2 .e8e1) ∧ reads 0x4E204205 (.qmac .e8e1 1 4 5) ∧ reads 0x4EC18083 (.qround 6 1 .e16e1) ∧
    reads 0x5862858C (.shflXor false 10 11 12) ∧ reads 0x5E424200 (.red .addF32 9 4) ∧ reads 0xC0001013 (.copy 8 2 .device) ∧
    reads 0xC0201019 (.copySt 8 3 .team) ∧ reads 0xD0000A08 (.cvinit 5 1) ∧ reads 0xD0201808 (.mma 12 1) ∧
    reads 0xD0402821 (.wbloadMask 20 4) ∧ reads 0xD0803000 (.accst 24) ∧ reads 0xD0C00000 .opfence ∧ reads 0xE0203C08 (.xformRound 30 1) ∧
    reads 0xE2002020 (.msgSend 16 4) ∧ reads 0xE2280A30 (.msgRecv 16 5 6) ∧ reads 0xE8004000 (.sregRdVector 1 0) ∧
    reads 0xE8228060 (.sregRdUniform 5 12) ∧ reads 0xE8400E70 (.sregWr 7 14) ∧ reads 0xEA000E02 (.temit 7 2) ∧ reads 0xEC048010 (.ctrRd 9 2) ∧
    reads 0xEC418002 (.rtag 3 2) ∧ reads 0xF0005010 (.glaunch 40 2) ∧ reads 0xB66F9801 (.ringWaitFull 31 12 0 true) ∧
    reads 0x7A20A053 (.acasB128 8 20 0 .device) ∧ reads 0x78383043 (.atomXchgB32 14 6 0 .device) ∧
    reads 0x7888304B (.atomCasB32 34 6 0 .device) ∧ reads 0xA2333000 (.ust 6 25 0 0) ∧ reads 0xA2833001 (.ust 16 25 0 1) ∧
    reads 0x81AD2A1C (.ucmp 26 21 3 .ltUs) ∧ reads 0xA8034000 (.ubra false 26 0) ∧ reads 0x28404103 (.icmp .ltSg 1 2 3) ∧
    reads 0x80018828 (.uadd 3 4 5) := by decide

/-! Every constructor with a word: the fixed bits of its row and its operands at their places (R77 to R212). -/

theorem test_words_integer :
    reads 0x0003030A (.iadd 12 6 10) ∧ reads 0x0023030A (.isub 12 6 10) ∧ reads 0x0043030A (.imul 12 6 10) ∧
    reads 0x0063030A (.imulhSg 12 6 10) ∧ reads 0x0083030A (.imulhUs 12 6 10) ∧ reads 0x00A3030A (.imad 12 6 10) ∧
    reads 0x00C3030A (.iminSg 12 6 10) ∧ reads 0x00E3030A (.iminUs 12 6 10) ∧ reads 0x0103030A (.imaxSg 12 6 10) ∧
    reads 0x0123030A (.imaxUs 12 6 10) ∧ reads 0x01430300 (.iabs 12 6) ∧ reads 0x0203030A (.and 12 6 10) ∧ reads 0x0223030A (.or 12 6 10) ∧
    reads 0x0243030A (.xor 12 6 10) ∧ reads 0x0263030A (.andn 12 6 10) ∧ reads 0x0283030A (.shl 12 6 10) ∧ reads 0x02A3030A (.shr 12 6 10) ∧
    reads 0x02C3030A (.sar 12 6 10) ∧ reads 0x02E3030A (.rot 12 6 10) ∧ reads 0x03030300 (.clz 12 6) ∧ reads 0x03230300 (.popc 12 6) ∧
    reads 0x03430300 (.brev 12 6) ∧ reads 0x03630300 (.mov 12 6) ∧ reads 0x03831480 (.movFromUniform 12 41) ∧
    reads 0x03A31480 (.movB64 12 41) ∧ reads 0x0403030A (.bfeUs 12 6 10) ∧ reads 0x0423030A (.bfeSg 12 6 10) ∧
    reads 0x0443030A (.bfi 12 6 10) ∧ reads 0x0603030A (.iadd64 12 6 10) ∧ reads 0x0623030A (.isub64 12 6 10) ∧
    reads 0x0643030A (.imul64 12 6 10) ∧ reads 0x0663030A (.shl64 12 6 10) ∧ reads 0x0683030A (.shr64 12 6 10) ∧
    reads 0x06A3030A (.sar64 12 6 10) ∧ reads 0x20303415 (.iaddImm 12 6 0x415) ∧ reads 0x22303415 (.andImm 12 6 0x415) ∧
    reads 0x24303025 (.shlImm 12 6 37) ∧ reads 0x24303125 (.shrImm 12 6 37) ∧ reads 0x24303225 (.sarImm 12 6 37) ∧
    reads 0x24303325 (.rotImm 12 6 37) ∧ reads 0x24303425 (.shl64Imm 12 6 37) ∧ reads 0x24303525 (.shr64Imm 12 6 37) ∧
    reads 0x24303625 (.sar64Imm 12 6 37) ∧ reads 0x26320015 (.movi 12 0x20015) ∧ reads 0x28C1430A (.icmp .ltUs 5 6 10) ∧
    reads 0x2AC1430A (.icmp64 .ltUs 5 6 10) ∧ reads 0x2DA3030A (.sel true 5 12 6 10) ∧ reads 0x2E004104 (.pand 1 2 4) ∧
    reads 0x2E204104 (.por 1 2 4) ∧ reads 0x2E404104 (.pxor 1 2 4) ∧ reads 0x2E604100 (.pnot 1 2) ∧ reads 0x2E83030A (.idp4Sg 12 6 10) ∧
    reads 0x2EA3030A (.idp4Us 12 6 10) ∧ reads 0x2EC3030A (.idp2Sg 12 6 10) ∧ reads 0x2EE3030A (.idp2Us 12 6 10) := by decide

theorem test_words_binary :
    reads 0x3003030A (.faddF32 12 6 10) ∧ reads 0x3023030A (.fsubF32 12 6 10) ∧ reads 0x3043030A (.fmulF32 12 6 10) ∧
    reads 0x3063030A (.ffmaF32 12 6 10) ∧ reads 0x3083030A (.fminF32 12 6 10) ∧ reads 0x30A3030A (.fmaxF32 12 6 10) ∧
    reads 0x3203030A (.faddF64 12 6 10) ∧ reads 0x3223030A (.fsubF64 12 6 10) ∧ reads 0x3243030A (.fmulF64 12 6 10) ∧
    reads 0x3263030A (.ffmaF64 12 6 10) ∧ reads 0x3283030A (.fminF64 12 6 10) ∧ reads 0x32A3030A (.fmaxF64 12 6 10) ∧
    reads 0x3461430A (.fcmpF32 .le 5 6 10) ∧ reads 0x3661430A (.fcmpF64 .le 5 6 10) ∧ reads 0x3803030A (.fdivF32 12 6 10) ∧
    reads 0x38230300 (.fsqrtF32 12 6) ∧ reads 0x38430300 (.frcpF32 12 6) ∧ reads 0x38630300 (.frsqF32 12 6) ∧
    reads 0x3A03030A (.fdivF64 12 6 10) ∧ reads 0x3A230300 (.fsqrtF64 12 6) ∧ reads 0x3A430300 (.frcpF64 12 6) ∧
    reads 0x3A630300 (.frsqF64 12 6) := by decide

theorem test_words_tapered :
    reads 0x4083030A (.tradd .e16e2 12 6 10) ∧ reads 0x4283030A (.trsub .e16e2 12 6 10) ∧ reads 0x4483030A (.trmul .e16e2 12 6 10) ∧
    reads 0x4683030A (.trfma .e16e2 12 6 10) ∧ reads 0x4883030A (.trmin .e16e2 12 6 10) ∧ reads 0x4983030A (.trmax .e16e2 12 6 10) ∧
    reads 0x4A85430A (.trcmp .e16e2 .lt 5 6 10) ∧ reads 0x4C830300 (.trdec .e16e2 12 6) ∧ reads 0x4D830300 (.trenc .e16e2 12 6) ∧
    reads 0x4E60430A (.qmac .e16e1 1 6 10) ∧ reads 0x4EA04000 (.qclr 1) ∧ reads 0x4EC30087 (.qround 12 1 .sg) ∧
    reads 0x4FC04300 (.qadd .f32 1 6) := by decide

theorem test_words_special_and_conversions :
    reads 0x50030300 (.fex2F32 12 6) ∧ reads 0x50230300 (.flg2F32 12 6) ∧ reads 0x50430300 (.fsinF32 12 6) ∧ reads 0x50630300 (.fcosF32 12 6) ∧
    reads 0x52830309 (.cvt .f32 12 6 .e16e1) ∧ reads 0x55430304 (.cvtClamp .e16e2 12 6 .f32) := by decide

theorem test_words_cross_lane :
    reads 0x5883030A (.shflIdx true 12 6 10) ∧ reads 0x58A3030A (.shflUp true 12 6 10) ∧ reads 0x58C3030A (.shflDown true 12 6 10) ∧
    reads 0x58E3030A (.shflXor true 12 6 10) ∧ reads 0x5A004100 (.voteAny 1 2) ∧ reads 0x5A204100 (.voteAll 1 2) ∧
    reads 0x5A430100 (.voteBallot 12 2) ∧ reads 0x5A604300 (.voteEq 1 6) ∧ reads 0x5C030300 (.matchB32 12 6) ∧
    reads 0x5C230300 (.matchB64 12 6) ∧ reads 0x5EAA4300 (.red .maxSg 41 6) ∧ reads 0x5FC30329 (.scan .excUs 12 6 41) := by decide

theorem test_words_memory :
    reads 0x603034FB (.ldB32 12 6 9 123) ∧ reads 0x623034FB (.ldB64 12 6 9 123) ∧ reads 0x643034FB (.ldB128 12 6 9 123) ∧
    reads 0x663034FB (.stB32 12 6 9 123) ∧ reads 0x683034FB (.stB64 12 6 9 123) ∧ reads 0x6A3034FB (.stB128 12 6 9 123) ∧
    reads 0x6C3034BC (.ldExtended 12 6 9 .b16sx true .domain) ∧ reads 0x6C0034F1 (.pf 6 9 .l3) ∧
    reads 0x6E3034AC (.stExtended 12 6 9 .b16 true .domain) ∧ reads 0x70303415 (.ldsB32 12 6 0x415) ∧ reads 0x72303415 (.ldsB64 12 6 0x415) ∧
    reads 0x74303415 (.stsB32 12 6 0x415) ∧ reads 0x76303415 (.stsB64 12 6 0x415) := by decide

theorem test_words_atomics :
    reads 0x78303484 (.atomAddB32 12 6 9 .domain) ∧ reads 0x7830348C (.atomMinSgB32 12 6 9 .domain) ∧
    reads 0x78303494 (.atomMinUsB32 12 6 9 .domain) ∧ reads 0x7830349C (.atomMaxSgB32 12 6 9 .domain) ∧
    reads 0x783034A4 (.atomMaxUsB32 12 6 9 .domain) ∧ reads 0x783034AC (.atomAndB32 12 6 9 .domain) ∧
    reads 0x783034B4 (.atomOrB32 12 6 9 .domain) ∧ reads 0x783034BC (.atomXorB32 12 6 9 .domain) ∧
    reads 0x783034C4 (.atomXchgB32 12 6 9 .domain) ∧ reads 0x783034CC (.atomCasB32 12 6 9 .domain) ∧
    reads 0x7A303484 (.atomAddB64 12 6 9 .domain) ∧ reads 0x7A30348C (.atomMinSgB64 12 6 9 .domain) ∧
    reads 0x7A303494 (.atomMinUsB64 12 6 9 .domain) ∧ reads 0x7A30349C (.atomMaxSgB64 12 6 9 .domain) ∧
    reads 0x7A3034A4 (.atomMaxUsB64 12 6 9 .domain) ∧ reads 0x7A3034AC (.atomAndB64 12 6 9 .domain) ∧
    reads 0x7A3034B4 (.atomOrB64 12 6 9 .domain) ∧ reads 0x7A3034BC (.atomXorB64 12 6 9 .domain) ∧
    reads 0x7A3034C4 (.atomXchgB64 12 6 9 .domain) ∧ reads 0x7A3034CC (.atomCasB64 12 6 9 .domain) ∧
    reads 0x7A3034D4 (.acasB128 12 6 9 .domain) ∧ reads 0x7A3034DA (.aacc 12 6 9 .e16e1) ∧ reads 0x7A3004E0 (.arsv 12 9) := by decide

theorem test_words_control_and_prefixes :
    reads 0x7C170015 (.bra 5 true 0x10015) ∧ reads 0x7C370015 (.call 5 true 0x10015) ∧ reads 0x7C560006 (.callr 5 true 6) ∧
    reads 0x7C760000 (.ret 5 true) ∧ reads 0x7C960006 (.jmpr 5 true 6) ∧ reads 0x7CB60000 (.exit 5 true) ∧ reads 0x7CC00000 .yield ∧
    reads 0x7CF68015 (.trap 5 true 0x8015) ∧ reads 0x7D168015 (.bkpt 5 true 0x8015) ∧ reads 0x7D200000 .nop ∧
    reads 0x7E9A10E7 (.xPrefix 4 true true .rup 8 .xor 19 true) ∧ reads 0x7F001815 (.wPrefix true 0x815) := by decide

theorem test_words_uniform :
    reads 0x800A1908 (.uadd 20 12 33) ∧ reads 0x802A1908 (.usub 20 12 33) ∧ reads 0x804A1908 (.umul 20 12 33) ∧
    reads 0x806A1908 (.uand 20 12 33) ∧ reads 0x808A1908 (.uor 20 12 33) ∧ reads 0x80AA1908 (.uxor 20 12 33) ∧
    reads 0x80CA1908 (.ushl 20 12 33) ∧ reads 0x80EA1908 (.ushr 20 12 33) ∧ reads 0x810A1908 (.usar 20 12 33) ∧
    reads 0x812A1908 (.uminSg 20 12 33) ∧ reads 0x812A1909 (.uminUs 20 12 33) ∧ reads 0x814A1908 (.umaxSg 20 12 33) ∧
    reads 0x814A1909 (.umaxUs 20 12 33) ∧ reads 0x816A1800 (.umov 20 12) ∧ reads 0x818A1908 (.usel 20 12 33) ∧
    reads 0x81AA190D (.ucmp 20 12 33 .leUs) ∧ reads 0xA0A19015 (.uaddImm 20 12 0x1015) ∧ reads 0xA2A189FD (.uld 20 12 9 253) ∧
    reads 0xA2A199FD (.ust 20 12 9 253) ∧ reads 0xA4A40015 (.umoviLo 20 0x40015) ∧ reads 0xA6A40015 (.umoviHi 20 0x40015) ∧
    reads 0xA8099015 (.ubra true 12 0x1015) ∧ reads 0xAA099015 (.ucall true 12 0x1015) ∧ reads 0xAC018000 (.ubraReg 12) ∧
    reads 0xAE018000 (.ucallReg 12) := by decide

theorem test_words_fences_and_barriers :
    reads 0xB0000004 (.fence .domain) ∧ reads 0xB0200004 (.fenceAcq .domain) ∧ reads 0xB0400004 (.fenceRel .domain) ∧
    reads 0xB0600000 .fenceLrec ∧ reads 0xB2001818 (.barInit 12 3) ∧ reads 0xB22A0018 (.barArrive 20 3) ∧ reads 0xB24A1818 (.barWait 20 12 3) ∧
    reads 0xB26A0018 (.barSync 20 3) ∧ reads 0xB2800018 (.barInval 3) ∧ reads 0xB40A001E (.fbarSync 20 3 6) ∧
    reads 0xB6001828 (.ringInit 12 5) ∧ reads 0xB6201828 (.ringArriveFull 12 5) ∧ reads 0xB6401828 (.ringArriveEmpty 12 5) ∧
    reads 0xB66A1829 (.ringWaitFull 20 12 5 true) ∧ reads 0xB68A1829 (.ringWaitEmpty 20 12 5 true) ∧ reads 0xB80A0018 (.cftest 20 3) := by decide

theorem test_words_engines :
    reads 0xC000184C (.copy 12 9 .domain) ∧ reads 0xC020184C (.copySt 12 9 .domain) ∧ reads 0xC040184C (.copyAcc 12 9 .domain) ∧
    reads 0xD0001848 (.cvinit 12 9) ∧ reads 0xD0201848 (.mma 12 9) ∧ reads 0xD0401848 (.wbload 12 9) ∧ reads 0xD0401849 (.wbloadMask 12 9) ∧
    reads 0xD0601800 (.accld 12) ∧ reads 0xD0601801 (.accldF64 12) ∧ reads 0xD0801800 (.accst 12) ∧ reads 0xD0801801 (.accstF64 12) ∧
    reads 0xD0A01800 (.acczero 12) ∧ reads 0xD0C00000 .opfence ∧ reads 0xE0001848 (.xformCvt 12 9) ∧ reads 0xE0201848 (.xformRound 12 9) ∧
    reads 0xE0401848 (.xformScale 12 9) ∧ reads 0xE0601848 (.xformFill 12 9) ∧ reads 0xE0801848 (.xformZero 12 9) := by decide

theorem test_words_messages_and_registers :
    reads 0xE2001908 (.msgSend 12 33) ∧ reads 0xE22A1908 (.msgRecv 20 12 33) ∧ reads 0xE8030E00 (.sregRdVector 12 14) ∧
    reads 0xE82A0070 (.sregRdUniform 20 14) ∧ reads 0xE8401870 (.sregWr 12 14) ∧ reads 0xEA001803 (.temit 12 3) ∧
    reads 0xEC0A0018 (.ctrRd 20 3) ∧ reads 0xEC201818 (.ctrCtl 12 3) ∧ reads 0xEC4A0002 (.rtag 20 2) ∧ reads 0xF0001928 (.glaunch 12 37) := by decide

/-! ### A small device (for the witnesses and steps below) -/

/-- An X prefix that changes nothing and names v0 as fourth operand. -/
def pre : XPre := ⟨7, false, false, .dyn, 0, .none, 0, false⟩

/-- The first of two words of the clause at address 0, issued by all 32 lanes of fibre 0. -/
def word1 : Issue := ⟨0, BitVec.allOnes 32, 0, 1, 1, some pre, true, 0x200000#32, false⟩

/-- That fibre, with arguments in s1 to s5. -/
def fibre (role : Role) : Fibre :=
  { soleFibre role [0x200000#32, 0x00000000#32, 0x7D200000#32] with
    s := (Vector.replicate 64 0).set 1 1 |>.set 2 2 |>.set 3 3 |>.set 4 64 |>.set 5 129 }

/-- Its team: sixteen lines of scratchpad, one ring, the first fibre barrier of the slot. -/
def team : Team := { soleTeam true with slines := 16, rings := [0], fbars := [(0, [0])] }

/-- A device whose fibre 0 is issuing: page 0 of its context is mapped at physical address 0, and region 0 is valid. -/
def device (f : Fibre) (c : Issue) : State :=
  { placeWord State.reset 0x00018287#32 with
    agenda := [], issue := some c, fibres := [(0, f)], teams := [(0, team)]
    cores := [(0, { Core.init with tlb := [⟨0, 0, true, 7⟩] })]
    hbm := { State.reset.hbm with regions := [(0, 0x8000000000000000#64)] } }

theorem ready_of {s : State} {c : Issue} {f : Fibre} {u : Uses} (hi : s.issue = some c) (hf : s.fib c.fibre = some f) (ho : s.ops = [])
    (ha : f.region < 4) (hp : f.priv = 128) (hx : c.px = some pre) (hr : u.role = none ∨ u.role = some f.role) (hv : ∀ r ∈ u.v ++ u.d, r < 128)
    (hc : u.vc ≤ 4) : Ready s c f u where
  issue := hi
  fibre := hf
  area := ha
  vc := by simp [Issue.badVc, Issue.vc, hx, pre]
  role := hr
  regs := .inr fun r h => by
    have : r < 128 := by
      simp only [Issue.vregs, Issue.reads, regRange, Issue.vc, hx, pre, Option.map_some, Option.getD_some, List.mem_append, List.mem_map, List.mem_range] at h
      rcases h with (h | ⟨i, hi, rfl⟩) | h
      · exact hv r (List.mem_append.2 (.inl h))
      · simp; omega
      · exact hv r (List.mem_append.2 (.inr h))
    simp [Fibre.hasReg, Fibre.inPriv, hp, this]
  vfree := fun r _ => by simp [State.vPending, ho]
  dfree := fun r _ => by simp [State.vOwn, ho]
  sfree := fun r _ => by simp [State.sPending, ho]

/-- The word may issue from the device above. -/
theorem ready (role : Role) {u : Uses} (hr : u.role = none ∨ u.role = some role) (hv : ∀ r ∈ u.v ++ u.d, r < 128) (hc : u.vc ≤ 4) :
    Ready (device (fibre role) word1) word1 (fibre role) u :=
  ready_of rfl rfl rfl (by decide : (0 : Nat) < 4) rfl rfl hr hv hc

/-! ### Witnesses: a state and operands that meet the hypotheses of each statement -/

/-- A word that may issue, for a use of registers. -/
abbrev MayIssue (role : Role) (u : Uses) : Prop := Ready (device (fibre role) word1) word1 (fibre role) u

theorem witness_IntegerArithmetic : MayIssue .vector { v := [1, 2], d := [3], vc := 1 } := ready _ (.inl rfl) (by decide) (by decide)
theorem witness_LogicMovesAndPairs : MayIssue .vector { v := [4, 5, 6, 7], d := [2, 3], s := [1] } := ready _ (.inl rfl) (by decide) (by decide)
theorem witness_Shifts : MayIssue .vector { v := [4, 5, 6], d := [126, 127] } := ready _ (.inl rfl) (by decide) (by decide)
theorem witness_BitFieldsAndImmediates : MayIssue .vector { v := [1, 2], d := [3], vc := 1 } := ready _ (.inl rfl) (by decide) (by decide)
theorem witness_ComparesAndPredicates : MayIssue .vector { v := [2, 3, 4, 5] } := ready _ (.inl rfl) (by decide) (by decide)
theorem witness_PackedDotProducts : MayIssue .vector { v := [3, 1, 2], d := [3] } := ready _ (.inl rfl) (by decide) (by decide)
theorem witness_BinaryArithmetic : MayIssue .vector { v := [4, 5, 6, 7], d := [2, 3], vc := 2 } := ready _ (.inl rfl) (by decide) (by decide)
theorem witness_Conversions : MayIssue .vector { v := [4, 5], d := [2, 3], vc := 1 } := ready _ (.inl rfl) (by decide) (by decide)
theorem witness_TaperedWords : MayIssue .vector { v := [1, 2], d := [3], vc := 1 } := ready _ (.inl rfl) (by decide) (by decide)
theorem witness_UnpackThenPack : 255 < 2 ^ tapN .e8e2 ∧ 2 ^ 32 - 1 < 2 ^ tapN .e32e2 := by decide
theorem witness_ExactAccumulators : MayIssue .vector { v := [2, 3], d := [4, 5] } := ready _ (.inl rfl) (by decide) (by decide)
theorem witness_UniformWords : MayIssue .vector { s := [1, 2, 3] } := ready _ (.inl rfl) (by decide) (by decide)

/-- The word issued by lane 0 alone. -/
def lane0 : Issue := { word1 with lanes := 1 }

/-- The fibre with a value in every lane of registers v0 and v1. -/
def holding (role : Role) (x : Word) : Fibre := { fibre role with v := [(0, ⟨lanesOf x, .g⟩), (1, ⟨lanesOf x, .g⟩)] }

/-- The word may issue from the device with this fibre and bundle. -/
theorem ready' (role : Role) (x : Word) {c : Issue} {u : Uses} (h0 : c.fibre = 0) (hx : c.px = some pre) (hr : u.role = none ∨ u.role = some role)
    (hv : ∀ r ∈ u.v ++ u.d, r < 128) (hc : u.vc ≤ 4) : Ready (device (holding role x) c) c (holding role x) u :=
  ready_of rfl (by rw [h0]; rfl) rfl (by decide : (0 : Nat) < 4) rfl hx hr hv hc

theorem witness_LateResultsGoInFlight : MayIssue .vector { v := [4, 5, 6, 7], d := [2, 3] } ∧ word1.active (fibre .vector) ≠ 0 :=
  ⟨ready _ (.inl rfl) (by decide) (by decide), by decide +kernel⟩

theorem witness_LateResultsGoInFlight_red : MayIssue .vector { v := [1], d := [3], s := [2], vc := 1 } ∧
    (crossWants (fibre .vector) (crossSet (fibre .vector) 0 1) ||| crossWaits (device (fibre .vector) word1) word1 (fibre .vector)) &&&
      ~~~ (crossSet (fibre .vector) 0 1 ||| word1.lanes) = 0 := ⟨ready _ (.inl rfl) (by decide) (by decide), by decide +kernel⟩

theorem witness_CrossLaneWords : MayIssue .vector { v := [4, 5, 6], d := [2, 3], vc := 1 } ∧
    (crossWants (fibre .vector) (crossSet (fibre .vector) 0 1) ||| crossWaits (device (fibre .vector) word1) word1 (fibre .vector)) &&&
      ~~~ (crossSet (fibre .vector) 0 1 ||| word1.lanes) = 0 := ⟨ready _ (.inl rfl) (by decide) (by decide), by decide +kernel⟩

/-- The fibre whose lanes have been released together. -/
def released : Fibre := { fibre .vector with lanes := Vector.replicate 32 ⟨true, 0, 1, .crossGo, 0⟩ }

theorem witness_CrossLaneWords_released : Ready (device released word1) word1 released { v := [4, 5, 6], d := [2, 3], vc := 1 } ∧
    (released.lane (lowLane word1.lanes)).hold = .crossGo :=
  ⟨ready_of rfl rfl rfl (by decide : (0 : Nat) < 4) rfl rfl (.inl rfl) (by decide) (by decide), by decide +kernel⟩

/-- Lane 0 names all lanes, of which the others have not arrived. -/
theorem witness_CrossLaneHolds :
    let f := holding .vector 0xFFFFFFFF#32
    Ready (device f lane0) lane0 f { v := [1], d := [3], s := [2], vc := 1 } ∧
      (crossWants f (crossSet f lane0.clause lane0.first) ||| crossWaits (device f lane0) lane0 f) &&&
        ~~~ (crossSet f lane0.clause lane0.first ||| lane0.lanes) ≠ 0 ∧ (f.lane (lowLane lane0.lanes)).hold ≠ .crossGo :=
  ⟨ready' _ _ rfl rfl (.inl rfl) (by decide) (by decide), by decide +kernel, by decide +kernel⟩

/-- A transfer to 0, which all lanes take (p7). -/
theorem witness_PerThreadControl : MayIssue .vector {} ∧ (∀ r ∈ [4, 5, 62, 63], (fibre .vector).hasReg r = true) ∧
    (∀ r ∈ [4, 5], (device (fibre .vector) word1).vPending 0 r = false) ∧ (∀ r ∈ [62, 63], (device (fibre .vector) word1).vOwn 0 r = false) ∧
    ∀ l : Fin 32, inMask word1.lanes l = true ∧ readPair (device (fibre .vector) word1) 0 4 l &&& 63#64 = 0 :=
  ⟨ready _ (.inl rfl) (by decide) (by decide), by decide +kernel, by decide +kernel, by decide +kernel, by decide +kernel⟩

/-- A transfer to an address with bit 0 set. -/
theorem witness_ControlFaults : let f := holding .vector 1
    Ready (device f word1) word1 f {} ∧ (∀ q ∈ [0, 1], f.hasReg q = true ∧ (device f word1).vPending 0 q = false) ∧ (∀ q ∈ [62, 63], f.hasReg q = true ∧ (device f word1).vOwn 0 q = false) ∧
      (readPair (device f word1) 0 0 0 &&& 63#64 != 0) = true ∧
      Ready (device f word1) word1 f { s := [1] } ∧ f.readS 1 &&& 63#64 ≠ 0 ∧ (device f word1).sPending 0 63 = false :=
  ⟨ready' _ _ rfl rfl (.inl rfl) (by decide) (by decide), by decide +kernel, by decide +kernel, by decide +kernel,
    ready' _ _ rfl rfl (.inl rfl) (by decide) (by decide), by decide +kernel, by decide +kernel⟩

/-- s4 holds 64, the next clause; s1 is not zero, s6 is: a transfer that is taken and one that is not. -/
theorem witness_UniformControl : MayIssue .vector { s := [4] } ∧ (word1.clause + BitVec.ofInt 64 (64 * (-3))) &&& 63#64 = 0 ∧
    (fibre .vector).readS 4 &&& 63#64 = 0 ∧ (device (fibre .vector) word1).sPending 0 63 = false ∧
    (fibre .vector).readS 1 ≠ 0 ∧ (fibre .vector).readS 6 = 0 :=
  ⟨ready _ (.inl rfl) (by decide) (by decide), by decide, by decide +kernel, by decide +kernel, by decide +kernel, by decide +kernel⟩

/-- Accesses at offset 0 of the flat buffer, of up to 64 bytes, pass every check. -/
theorem reaches (role : Role) (lanes : List (Fin 32)) (size al : Nat) (hs : size ≤ 64) (need : Need) :
    Reaches (device (fibre role) word1) word1 (fibre role) 0 lanes (fun _ => 0) size al need (fun _ => 0) where
  acq := rfl
  room := by cases role <;> decide +kernel
  align := fun _ _ => by simp
  valid := by cases role <;> decide
  bound := fun _ _ => by
    have : (bufOf (device (fibre role) word1) word1 (fibre role) 0).len = 2 ^ 57 := by cases role <;> decide +kernel
    rw [this]; simp; omega
  right := by cases role <;> cases need <;> decide +kernel
  rdo := by right; cases role <;> decide
  owner := by cases role <;> decide +kernel
  page := fun _ _ => by cases role <;> cases need <;> decide +kernel

theorem witness_Loads : MayIssue .vector { v := [0, 1], d := [4, 5, 6, 7] } ∧ word1.active (fibre .vector) ≠ 0 ∧
    Reaches (device (fibre .vector) word1) word1 (fibre .vector) 0 (word1.takers (fibre .vector)) (fun _ => 0) 16 16 .read (fun _ => 0) :=
  ⟨ready _ (.inl rfl) (by decide) (by decide), by decide +kernel, reaches _ _ _ _ (by decide) _⟩

/-- A prefix whose guard, p0, is false in every lane, with the zero policy. -/
def off1 : Issue := { word1 with px := some { pre with gp := 0, z := true } }

theorem ready_off (role : Role) {u : Uses} (hr : u.role = none ∨ u.role = some role) (hc : u.vc = 0) :
    Ready (device (fibre role) off1) off1 (fibre role) u ∧ off1.active (fibre role) = 0 := by
  have h : off1.active (fibre role) = 0 := by cases role <;> decide +kernel
  have ho : (device (fibre role) off1).ops = [] := rfl
  exact ⟨⟨rfl, rfl, by show (0 : Nat) < 4; decide, by simp [Issue.badVc, hc], hr, .inl h, fun r _ => by simp only [State.vPending, ho, List.any_nil],
    fun r _ => by simp only [State.vOwn, ho, List.any_nil],
    fun r _ => by simp only [State.sPending, ho, List.any_nil, Bool.and_false]⟩, h⟩

theorem witness_Loads_no_lane : Ready (device (fibre .vector) off1) off1 (fibre .vector) { v := [0, 1], d := [4, 5, 6, 7] } ∧ off1.active (fibre .vector) = 0 :=
  ready_off _ (.inl rfl) rfl

theorem witness_Stores : MayIssue .vector { v := [4, 5, 6, 7, 0, 1] } ∧ word1.active (fibre .vector) ≠ 0 ∧
    Reaches (device (fibre .vector) word1) word1 (fibre .vector) 0 (word1.takers (fibre .vector)) (fun _ => 0) 16 16 .write (fun _ => 0) ∧
    (device (fibre .vector) word1).ordered 0 = false :=
  ⟨ready _ (.inl rfl) (by decide) (by decide), by decide +kernel, reaches _ _ _ _ (by decide) _, by decide +kernel⟩

/-- Partition 0 in an ordered mode. -/
def ordered (f : Fibre) : State := { device f lane0 with parts := [(0, { Part.init 0 with mode := 4 })] }

theorem witness_Stores_ordered : Ready (ordered (fibre .vector)) lane0 (fibre .vector) { v := [4, 5, 6, 7, 0, 1] } ∧
    StagingRoom (ordered (fibre .vector)) lane0 [⟨0, 0, 0, 0, 0, 16, 0, 0⟩] ∧ (ordered (fibre .vector)).ordered 0 = true :=
  ⟨ready_of rfl rfl rfl (by decide : (0 : Nat) < 4) rfl rfl (.inl rfl) (by decide) (by decide),
    ⟨team, by decide +kernel, by decide +kernel⟩, by decide +kernel⟩

theorem witness_UniformAccesses : MayIssue .vector { s := [1, 2] } ∧
    Reaches (device (fibre .vector) word1) word1 (fibre .vector) 0 [lowLane word1.lanes] (fun _ => 0) 8 8 .read (fun _ => 0) ∧
    Reaches (device (fibre .vector) word1) word1 (fibre .vector) 0 [lowLane word1.lanes] (fun _ => 0) 8 8 .write (fun _ => 0) :=
  ⟨ready _ (.inl rfl) (by decide) (by decide), reaches _ _ _ _ (by decide) _, reaches _ _ _ _ (by decide) _⟩

theorem witness_Atomics : MayIssue .vector { v := [4, 5, 6, 7, 0, 1], vc := 4 } ∧ word1.active (fibre .vector) ≠ 0 ∧
    Reaches (device (fibre .vector) word1) word1 (fibre .vector) 0 (word1.takers (fibre .vector)) (fun _ => 0) 16 16 .atomic (fun _ => 0) ∧
    Reaches (device (fibre .vector) word1) word1 (fibre .vector) 0 (word1.takers (fibre .vector)) (fun _ => 0) 40 1 .atomic (fun _ => 0) :=
  ⟨ready _ (.inl rfl) (by decide) (by decide), by decide +kernel, reaches _ _ _ _ (by decide) _, reaches _ _ _ _ (by decide) _⟩

/-- The lanes' offset is 1, not a multiple of 4; -4 with an immediate lies beyond the entry; b1 is not valid; b2 is read-only; b3 names the unwritten entry 2
of a table of four, which grants nothing. -/
def buffers (x : Word) : Fibre := { holding .vector x with b := (Vector.replicate 16 0).set 0 0x800001#24 |>.set 2 0xC00001#24 |>.set 3 0x800002#24 }

theorem ready_buffers (x : Word) {u : Uses} (hr : u.role = none) (hv : ∀ r ∈ u.v ++ u.d, r < 128) (hc : u.vc ≤ 4) :
    Ready (device (buffers x) word1) word1 (buffers x) u :=
  ready_of rfl rfl rfl (by decide : (0 : Nat) < 4) rfl rfl (.inl hr) hv hc

theorem witness_BufferChecks (x : Word) : Ready (device (buffers x) word1) word1 (buffers x) { v := [0, 1], d := [4, 5] } ∧ word1.active (buffers x) ≠ 0 ∧
    opsPending (device (buffers x) word1) 0 .acquires = false ∧ coreFull (device (buffers x) word1) (coreOf 0) = false :=
  ⟨ready_buffers x rfl (by decide) (by decide), by rw [show word1.active (buffers x) = word1.active (buffers 0) from rfl]; decide +kernel, rfl, rfl⟩

theorem witness_BufferChecks_each :
    let s := fun (x : Word) => device (buffers x) word1
    let e := fun (n : Nat) => bufOf (s 0) word1 (buffers 0) n
    (readPair (s 1) 0 0 0).toNat % 4 ≠ 0 ∧ (e 0).len < (readPair (s 0xFFFFFFFF#32) 0 0 0 &&& 0xFFFFFFFFFFFFFFF8#64).toNat + 4 ∧
    bregV (vget (buffers 0).b 1 0) = false ∧ bregRdo (vget (buffers 0).b 2 0) = true ∧ (e 2).owner = (s 0).viOf 0 ∧
    (e 3).grants .read = false := by decide +kernel

/-- A TLB without the page, and a walk that found no entry: the translation fails at once. -/
def unmapped : State :=
  { device { fibre .vector with walkRes := [(0, .bad 0x08 3 1)] } word1 with cores := [(0, Core.init)] }

theorem witness_BufferChecks_translation : transWord unmapped 0 (unmapped.viOf 0) 0 512 true false = .bad 0x08 3 1 ∧ unmapped.replaying 0 = false := by
  decide +kernel

theorem witness_ScratchpadWords : MayIssue .vector { v := [0], d := [4, 5] } ∧ word1.active (fibre .vector) ≠ 0 ∧
    opsPending (device (fibre .vector) word1) 0 .acquires = false ∧
    Ready (device (fibre .vector) off1) off1 (fibre .vector) { v := [0], d := [4, 5] } :=
  ⟨ready _ (.inl rfl) (by decide) (by decide), by decide +kernel, rfl, (ready_off _ (.inl rfl) rfl).1⟩

/-- A misaligned address, the last and the first one beyond the team's 2048 bytes, and one in an absent line. -/
theorem witness_ScratchpadWords_each :
    let s := fun (x : Word) => { device (holding .vector x) word1 with cores := [(0, { Core.init with absent := [1] })] }
    let at_ := fun (x : Word) (i : Int) => ((readLane (s x) 0 0 0).toNat : Int) + i * 4
    ((s 0).team 0).map (·.slines) = some 16 ∧ at_ 2 0 % 4 ≠ 0 ∧ at_ 2044 0 + 4 ≤ 16 * 128 ∧ 16 * 128 < at_ 2044 1 + 4 ∧ at_ 0 (-1) < 0 ∧
      ((s 128).core 0).absent.contains ((at_ 128 0).toNat / 128) = true := by decide +kernel

/-- A grid with one reserved-append buffer, entry 1, of 64 elements. -/
def appending (f : Fibre) (c : Issue) : State :=
  { device f c with grids := [(0, { newGrid State.reset 0 0 0 0 [0x200001#64, 0x0001000100000001#64]
      (List.replicate 16 0 ++ [1, 64]) [0, 0x0000000000080141#64] with placed := 1 })] }

/-- In a device whose lines and partitions are as at reset every line's metadata is 0. -/
theorem md_zero {s : State} (hl : s.lines = []) (hp : s.parts = []) (n : Nat) : s.md n = 0 := by
  simp only [State.md, State.line, hl, AMap.getD, AMap.get?, Option.getD_none, State.freshLine, State.part, hp, Part.init]
  split <;> rfl

theorem witness_PrefetchAndAppend :
    let f := { fibre .vector with b := (Vector.replicate 16 0).set 0 0x800001#24 |>.set 2 0x800002#24 }
    let s := appending f word1
    Ready s word1 f { v := [4, 0, 1] } ∧ opsPending s 0 .acquires = false ∧ (∀ n, mdState (s.md n) < 3) ∧ s.replaying 0 = false ∧
      word1.active f ≠ 0 ∧ bregV (vget f.b 0 0) = true ∧ bregV (vget f.b 1 0) = false ∧
      (s.gridOf 0).bind (appendEntry · 1) = some (0, 64) ∧ (s.gridOf 0).bind (appendEntry · 2) = none := by
  refine ⟨ready_of rfl rfl rfl (by decide : (0 : Nat) < 4) rfl rfl (.inl rfl) (by decide) (by decide), rfl, fun n => ?_, by decide +kernel,
    by decide +kernel, by decide +kernel, by decide +kernel, by decide +kernel, by decide +kernel⟩
  show mdState (State.md _ n) < 3
  rw [md_zero rfl rfl]; decide

/-- A device with these operations in flight. -/
def flying (f : Fibre) (c : Issue) (l : List OpKind) : State :=
  { device f c with ops := l.map (fun k => { opOf (device f c) c f (some 3) k with id := 7 }), nextOp := 8 }

/-- A load into v1 by this fibre is in flight. -/
def loading : List OpKind := [.load [⟨0, 0, 0, 0, 0, 4, 0, 0⟩] ⟨0, 1, false, 0, 0⟩ .b32 1 0 none]

/-- No fourth operand; another role; a register outside the window of one granule; a pending register that is read, and one that is written. -/
theorem witness_SharedChecks :
    let f := fibre .vector
    let c : Issue := { word1 with px := none }
    (device f c).issue = some c ∧ (device f c).fib 0 = some f ∧ c.badVc { v := [1, 2], d := [3], vc := 1 } = true ∧
      word1.badVc { s := [1, 2, 3, 4], role := some .copy } = false ∧ f.role ≠ .copy ∧
      word1.active { f with priv := 8 } ≠ 0 ∧ 9 ∈ word1.vregs { v := [1, 2], d := [9] } ∧ ({ f with priv := 8 } : Fibre).hasReg 9 = false ∧
      (flying f word1 loading).issue = some word1 ∧ (flying f word1 loading).fib 0 = some f ∧ f.hasReg 1 = true ∧
      (flying f word1 loading).vPending 0 1 = true ∧ (flying f word1 loading).vOwn 0 1 = true := by decide +kernel

/-- An L1 line with eight dirty bytes. -/
def dirtyLine : L1Line := { L1Line.empty with valid := 0xFF, dirty := 0xFF, data := 0x1234 }

theorem plain_of {s : State} {ln : Nat} (hw : s.mem.wf = true) (hr : s.hbm.remapErr = []) (hp : s.parts = []) (hn : isRemote ln = false)
    (hf : fenced s ln = false) (hc : (region s (ln * 128 / 2 ^ 29)).getLsbD 62 = false) : Plain s ln where
  wf := hw
  near := hn
  fenced := hf
  errs := fun n => by rw [hr]; rfl
  comp := hc
  undo := fun p => by simp [capturing, State.part, hp, AMap.getD, AMap.get?, Part.init]

/-- Core 0 holds a dirty line 0. -/
def holdingLine (s : State) : State := { s with cores := [(0, { s.core 0 with l1 := [(0, dirtyLine)] })] }

/-- A store in flight is waited for; a line dirty in the L1 reaches its home; one that another device holds asks first. -/
theorem witness_Fences :
    let s := holdingLine (device (fibre .vector) word1)
    Ready s word1 (fibre .vector) {} ∧ opsPending (flying (fibre .vector) word1 [.sts []]) 0 .mem = true ∧ opsPending s 0 .mem = false ∧
      relWaits s 0 = false ∧ s.replaying (s.partOf 0) = false ∧ Plain s 0 ∧ (∀ k, k ≠ 0 → (s.l1 k 0).dirty = 0) ∧
      (s.l1 0 0).dirty.getLsbD 7 = true ∧ relWaits { s with lines := [(0, { s.freshLine 0 with md := 0x0029#16 })] } 0 = true ∧
      MayIssue .matrix { role := some .matrix } :=
  ⟨ready_of rfl rfl rfl (by decide : (0 : Nat) < 4) rfl rfl (.inl rfl) (by decide) (by decide), by decide +kernel, by decide +kernel, by decide +kernel,
    by decide +kernel, plain_of (by decide +kernel) rfl rfl (by decide +kernel) (by decide +kernel) (by decide +kernel),
    fun k hk => by simp [holdingLine, State.l1, State.core, AMap.getD, AMap.get?, hk]; rfl, by decide +kernel, by decide +kernel,
    ready _ (.inr rfl) (by decide) (by decide)⟩

/-- The device whose team has barrier 15 in a given state. -/
def barred (b : Barrier) (l : List OpKind) : State :=
  { flying (fibre .vector) word1 l with teams := [(0, { team with bars := vset team.bars 15 b })] }

/-- Invalid; counted for this group; one of two; the last; in use or not; counts 0 and 1 (s0 and s1); the present phase and another. -/
theorem witness_TeamBarriers :
    let b := Barrier.init 1
    let all := [{ b with valid := false }, { b with exp := 2, arr := 1, gmask := 1 }, { b with exp := 2 }, b]
    (∀ x ∈ all, ∃ tm, Ready (barred x []) word1 (fibre .vector) { s := [2, 1] } ∧ (15 : BitVec 6).toNat < 16 ∧ (barred x []).team 0 = some tm ∧
      tm.bar 15 = x ∧ opsPending (barred x []) 0 .mem = false) ∧
    (∃ tm, Ready (barred b [.sts []]) word1 (fibre .vector) { s := [2] } ∧ (barred b [.sts []]).team 0 = some tm ∧ tm.bar 15 = b ∧
      opsPending (barred b [.sts []]) 0 .mem = true) ∧
    fieldOf ((fibre .vector).readS 0) 9 0 = 0 ∧ fieldOf ((fibre .vector).readS 1) 9 0 = 1 ∧ ((fibre .vector).readS 0).setWidth 16 = b.phase ∧
    ((fibre .vector).readS 1).setWidth 16 ≠ b.phase := by
  refine ⟨fun x hx => ⟨_, ready_of rfl rfl rfl (by decide : (0 : Nat) < 4) rfl rfl (.inl rfl) (by decide) (by decide), by decide, rfl, ?_, rfl⟩,
    ⟨_, ⟨rfl, rfl, (by decide : (0 : Nat) < 4), by decide, .inl rfl, .inr (by decide), by decide, by decide, by decide +kernel⟩, rfl, ?_, by decide +kernel⟩,
    by decide +kernel, by decide +kernel, by decide +kernel, by decide +kernel⟩
  · simp only [Team.bar]; decide +revert +kernel
  · decide +kernel

/-- The device whose first fibre barrier is in a given state. -/
def fbarred (b : FBar) (l : List OpKind) : State :=
  { flying (fibre .vector) word1 l with slots := [(0, { Slot.init with fbars := vset Slot.init.fbars 0 b })] }

/-- No arrival; this fibre arrived; another number asked for; not the last; the last, with an access in flight and without; a barrier it has not. -/
theorem witness_FibreBarriers :
    let f := fibre .vector
    (∀ b ∈ [FBar.init, ⟨some 0, 1, 2, [0]⟩, ⟨some 0, 1, 2, [9]⟩], Ready (fbarred b []) word1 f { s := [2] } ∧
      fbarOf (fbarred b []) f 0 0 = some 0 ∧ vget ((fbarred b []).slot 0).fbars 0 FBar.init = b ∧ opsPending (fbarred b []) 0 .mem = false) ∧
    Ready (fbarred FBar.init [.sts []]) word1 f { s := [2] } ∧ opsPending (fbarred FBar.init [.sts []]) 0 .mem = true ∧
    fbarOf (fbarred FBar.init []) f 0 4 = none ∧ FBar.init.cnt + 1 = (0 : BitVec 3).toNat + 1 ∧ FBar.init.cnt + 1 ≠ (7 : BitVec 3).toNat + 1 := by
  refine ⟨fun b hb => ⟨ready_of rfl rfl rfl (by decide : (0 : Nat) < 4) rfl rfl (.inl rfl) (by decide) (by decide), ?_, ?_, rfl⟩,
    ⟨rfl, rfl, (by decide : (0 : Nat) < 4), by decide, .inl rfl, .inr (by decide), by decide, by decide, by decide +kernel⟩,
    by decide +kernel, by decide +kernel, by decide, by decide⟩
  · rfl
  · decide +revert +kernel

/-- The device whose first ring is in a given state. -/
def ringed (r : Ring) (l : List OpKind) : State :=
  { flying (fibre .vector) word1 l with cores := [(0, { Core.init with rings := vset Core.init.rings 0 r })] }

/-- Stages 0 to 2 of a ring of two; a group counted and one not; the last arrival, with an access in flight and without; both values of the
phase bit; descriptors of no stage and of two; a ring the team has not. -/
theorem witness_StageRings :
    let f := fibre .vector
    let side : RingSide := ⟨0, true, [0]⟩
    let rs := [Ring.init, { Ring.init with fe := 2, ee := 2 }, { Ring.init with full := Vector.replicate 8 side, empty := Vector.replicate 8 side }]
    (∀ r ∈ rs, Ready (ringed r []) word1 f { s := [3, 2] } ∧ (ringed r []).ring 0 0 = r ∧ opsPending (ringed r []) 0 .mem = false) ∧
    Ready (ringed Ring.init [.sts []]) word1 f { s := [2] } ∧ opsPending (ringed Ring.init [.sts []]) 0 .mem = true ∧
    (ringed Ring.init []).team f.team = some team ∧ team.rings[0]? = some 0 ∧ team.rings[1]? = none ∧
    (f.readS 2).toNat = 2 ∧ (f.readS 1).toNat = 1 ∧ fieldOf (f.readS 6) 3 0 < 2 ∧
    (let v := (0x10102#64 : DWord); fieldOf v 3 0 = 2 ∧ fieldOf v 13 8 = 1 ∧ fieldOf v 21 16 = 1) := by
  refine ⟨fun r hr => ⟨ready_of rfl rfl rfl (by decide : (0 : Nat) < 4) rfl rfl (.inl rfl) (by decide) (by decide), ?_, rfl⟩,
    ⟨rfl, rfl, (by decide : (0 : Nat) < 4), by decide, .inl rfl, .inr (by decide), by decide, by decide, by decide +kernel⟩,
    by decide +kernel, rfl, by decide, by decide, by decide +kernel, by decide +kernel, by decide +kernel, by decide⟩
  decide +revert +kernel

/-- A fibre whose descriptor stands in s8 and up. -/
def described (role : Role) (ds : List DWord) : Fibre :=
  { fibre role with s := Vector.ofFn fun (i : Fin 64) => if 8 ≤ i.val then nth ds (i.val - 8) 0 else 0 }

/-- The layout record of four binary32 numbers in one row. -/
def record4 : BitVec 512 := (0x0001000100010004#64).setWidth 512 <<< 64

/-- The device with a layout record at address 0 in the core's record cache. -/
def caching (f : Fibre) (l : List (BitVec 512)) : State :=
  { device f word1 with cores := [(0, { Core.init with tlb := [⟨0, 0, true, 7⟩], lrec := l.map fun r => (0, r) })] }

theorem ready_caching (role : Role) (ds : List DWord) (l : List (BitVec 512)) {u : Uses} (hr : u.role = none ∨ u.role = some role)
    (hv : ∀ r ∈ u.v ++ u.d, r < 128) (hc : u.vc ≤ 4) : Ready (caching (described role ds) l) word1 (described role ds) u :=
  ready_of rfl rfl rfl (by decide : (0 : Nat) < 4) rfl rfl hr hv hc

/-- A cache without the record, with an invalid one, and with a valid one. -/
def caches : List (List (BitVec 512)) := [[], [0], [record4]]

/-- The record at address 0 is read through b0. -/
abbrev ReadsRecord (role : Role) (ds : List DWord) (l : List (BitVec 512)) : Prop :=
  Reaches (caching (described role ds) l) word1 (described role ds) 0 [lowLane word1.lanes] (fun _ => 0) 64 64 .read (fun _ => 0)

theorem reaches_record (role : Role) (ds : List DWord) (hd : ds = [0, 0, 0, 0x8000000000000000#64] ∨ ds = [0x0101000000000000#64, 0, 0xFFFFFFFF00000000#64] ∨
    ds = [0, 0, 1, 0, 0x8000000000000000#64]) (l : List (BitVec 512)) (hl : l ∈ caches) : ReadsRecord role ds l where
  acq := rfl
  room := rfl
  align := by decide
  valid := by rcases hd with rfl | rfl | rfl <;> cases role <;> decide +kernel
  bound := by rcases hd with rfl | rfl | rfl <;> cases role <;> revert l <;> decide +kernel
  right := by rcases hd with rfl | rfl | rfl <;> cases role <;> revert l <;> decide +kernel
  rdo := .inl rfl
  owner := by rcases hd with rfl | rfl | rfl <;> cases role <;> revert l <;> decide +kernel
  page := by rcases hd with rfl | rfl | rfl <;> cases role <;> revert l <;> decide +kernel

/-- A descriptor register without status word or SYNC. -/
def plain2 : DWord := 0xFFFFFFFF00000000#64

/-- Each check's boundary in turn; then a record that the cache lacks, an invalid one, a tile that ends at the team's last byte, and one beyond. -/
theorem witness_CopyWords : ∀ l ∈ caches, let f := described .copy [0, 0, 0, 0x8000000000000000#64]
    Ready (caching f l) word1 f { s := [8, 9, 10, 11], role := some .copy } ∧ ReadsRecord .copy [0, 0, 0, 0x8000000000000000#64] l ∧
      gaddr (caching f l) (bufOf (caching f l) word1 f 0).home 0 = 0 :=
  fun l hl => ⟨ready_caching _ _ _ (.inr rfl) (by decide) (by decide), reaches_record _ _ (by simp) l hl, by revert l; decide +kernel⟩

theorem witness_CopyWords_each :
    let d := fun (ds : List DWord) (i : Nat) => (described .copy ds).readS (8 + i)
    fieldOf (d [0, 8] 1) 31 0 % 16 ≠ 0 ∧ ((d [0, 0, 0, 4] 3).getLsbD 63 = false ∧ fieldOf (d [0, 0, 0, 4] 3) 62 0 % 8 ≠ 0) ∧
      (d [64] 0).toNat % 128 ≠ 0 ∧ fieldOf (d [0, 0x1000000000000#64] 1) 63 48 ≠ 0 ∧ bregV (vget (described .copy []).b 1 0) = false ∧
      syncBad (device (fibre .copy) word1) (fibre .copy) 0 1 = some 0x01 ∧ syncBad (device (fibre .copy) word1) (fibre .copy) 0 0x8180 = some 0x05 ∧
      syncBad (device (fibre .copy) word1) (fibre .copy) 0 0 = none ∧ parseRec 0 = none ∧
      (parseRec record4).map (fun r => decide (2032 + r.tile ≤ 16 * 128 ∧ 16 * 128 < 2048 + r.tile)) = some true := by decide +kernel

/-- Descriptors that each kind of transfer takes, and one that none does. -/
theorem witness_MatrixTransfers : ∀ l ∈ caches, let f := described .matrix [0x0101000000000000#64, 0, 0xFFFFFFFF00000000#64]
    Ready (caching f l) word1 f { s := [8, 9, 10], role := some .matrix } ∧ ReadsRecord .matrix [0x0101000000000000#64, 0, 0xFFFFFFFF00000000#64] l ∧
      gaddr (caching f l) (bufOf (caching f l) word1 f 0).home 0 = 0 :=
  fun l hl => ⟨ready_caching _ _ _ (.inr rfl) (by decide) (by decide), reaches_record _ _ (by simp) l hl, by revert l; decide +kernel⟩

theorem witness_MatrixTransfers_each :
    let s := device (fibre .matrix) word1
    let f := fibre .matrix
    let d1 : DWord := 0x4000000000#64
    (fieldOf d1 63 51 = 0 ∧ fieldOf d1 31 18 = 0 ∧ fieldOf d1 50 32 = 64 ∧ fieldOf d1 17 0 = 0 ∧ d2Bad s f 0 plain2 = false) ∧
      d2Bad s f 0 1 = true ∧ accBad s f 0 false [0x0101000000000000#64, 0, plain2] = false ∧ accBad s f 0 false [0, 0, plain2] = true ∧
      accBad s f 0 true [0x0101000000000008#64, 0, plain2] = false ∧ parseRec 0 = none ∧ (parseRec record4).isSome = true := by decide +kernel

/-- A team whose convergence register 0 is in a given state. -/
def converging (x : Conv) (f : Fibre) : State :=
  { device f word1 with teams := [(0, { team with cvs := vset team.cvs 0 x, unfenced := [⟨0, 4, 0, false, [], []⟩] })] }

/-- The descriptor of an 8 by 8 product of 16 terms, from the scratchpad. -/
def product : List DWord := [0x8000000000#64, 0x0006000000100808#64, plain2]

/-- Counts 0, 1024 and 1025 for cvinit, without and with a signature; a signature that is one of two, one that completes, and those that are refused. -/
theorem witness_ConvergenceWords :
    let f := described .matrix product
    let g : Signer := ⟨1, 1, 1, 5, [], []⟩
    (∀ x ∈ [Conv.init, { Conv.init with e := 64 }, { Conv.init with e := 33, cnt := 1, desc := product, signers := [g] }], ∃ tm,
      Ready (converging x f) word1 f { s := [8, 9, 10], role := some .matrix } ∧ (converging x f).team f.team = some tm ∧
        vget tm.cvs 0 Conv.init = x ∧ mmaBad (converging x f) f 0 product = false) ∧
    mmaBad (converging Conv.init f) f 0 [0, 0, 0] = true ∧ (0 < 1 ∧ [0, 0, 0] ≠ product) ∧ (1 : BitVec 1024) &&& BitVec.ofNat 1024 (word1.lanes.toNat * 2 ^ (32 * (f.group % 32))) ≠ 0 ∧
    (mmaShape 0x0055000000040808#64).asrc = true ∧ g.fibre ≠ 0 ∧
    fieldOf (0 : DWord) 10 0 = 0 ∧ fieldOf (1024 : DWord) 10 0 = 1024 ∧ fieldOf (1025 : DWord) 10 0 = 1025 := by
  refine ⟨fun x hx => ⟨_, ready_of rfl rfl rfl (by decide : (0 : Nat) < 4) rfl rfl (.inr rfl) (by decide) (by decide), rfl, ?_, ?_⟩,
    by decide +kernel, by decide, by decide +kernel, by decide, by decide, by decide, by decide, by decide⟩
  · revert x; decide +kernel
  · revert x; decide +kernel

/-- The checks of a transform at their boundaries, and its record invalid, valid, or of the format that fill does not take. -/
theorem witness_TransformWords : ∀ l ∈ caches, let f := described .vector [0, 0, 1, 0, 0x8000000000000000#64]
    Ready (caching f l) word1 f { s := [8, 9, 10, 11, 12] } ∧ ReadsRecord .vector [0, 0, 1, 0, 0x8000000000000000#64] l ∧
      gaddr (caching f l) (bufOf (caching f l) word1 f 0).home 0 = 0 :=
  fun l hl => ⟨ready_caching _ _ _ (.inl rfl) (by decide) (by decide), reaches_record _ _ (by simp) l hl, by revert l; decide +kernel⟩

theorem witness_TransformWords_each :
    (fieldOf (4 : DWord) 62 0 % 8 ≠ 0 ∧ (4 : DWord).getLsbD 63 = false) ∧ fieldOf (0 : DWord) 31 0 = 0 ∧ fieldOf (0x1000000#64 : DWord) 31 0 = 2 ^ 24 ∧
      2 ^ 24 < fieldOf (0x1000001#64 : DWord) 31 0 ∧ fieldOf (0xD00000001#64 : DWord) 35 32 = 13 ∧ fieldOf (0xC00000001#64 : DWord) 35 32 = 12 ∧
      bregV (vget (fibre .vector).b 1 0) = false ∧ parseRec 0 = none ∧
      (parseRec ((record4 &&& 0) ||| 0xC000000000000000#512 ||| record4)).map (·.fmt) = some 12 := by decide +kernel

/-! A device whose context 0 has page tables: addresses below 2^29 are mapped to themselves, no others. -/

/-- Its tables, at 0x10000, 0x20000 and 0x30000. -/
def tables : Mem := [(0x10000, 1#8), (0x10002, 2#8), (0x20000, 1#8), (0x20002, 3#8), (0x30000, 7#8)]

/-- The device with those tables and more memory after them. -/
def mapped (s : State) (more : Mem) : State :=
  { s with mem := tables ++ more, ctxs := [(0, { Ctx.init with pt := 0x10000#64 })] }

theorem test_mapped : transNow (mapped (device (fibre .vector) word1) []) 0 0x1FFFFFFF 512 true = .ok 0x1FFFFFFF ∧
    transNow (mapped (device (fibre .vector) word1) []) 0 0x20000000 512 true = .bad 0x08 1 1 := by decide +kernel

/-- Mailbox 3 of the partition, of sixteen slots in the flat buffer from 0x40000, with this many messages. -/
def boxed (k : Nat) (s : State) : State :=
  let m : Mailbox := ⟨0x8000000004000001#64, 0x40000#64, k, 0, 0, (List.range k).map fun i => (2, 1, i)⟩
  { s with fabric := { s.fabric with mboxes := [(3, m)] } }

/-- The destination's reserved bits set and not; a mailbox of others, an empty one, one with a message, one that a failed slot has marked, and an
acquire in flight. -/
theorem witness_MessageWords :
    let f := { fibre .vector with s := (fibre .vector).s.set 6 0x40000001#64 }
    let d := device f word1
    (∀ s ∈ [d, boxed 0 d, boxed 1 d], Ready s word1 f { s := [32, 3, 33, 34, 35, 36, 37, 38, 39, 40] }) ∧
      fieldOf (f.readS 6) 63 30 ≠ 0 ∧ fieldOf (f.readS 3) 63 30 = 0 ∧ fieldOf (f.readS 3) 15 9 = 0 ∧ fieldOf (f.readS 3) 13 0 = 3 ∧
      (d.mbox 3).valid = false ∧ ((boxed 0 d).mbox 3).valid = true ∧ ((boxed 0 d).mbox 3).used = 0 ∧
      opsPending (flying f word1 [.load [] ⟨0, 1, false, 0, 0⟩ .b32 1 0 (some .device)]) 0 .acquires = true ∧
      (let s := boxed 1 d
       let m := s.mbox 3
       let e := bufEntry s 0 (s.viOf 0) (m.buf % 2 ^ 20)
       let off := m.ofs.toNat + 64 * (m.head % m.size)
       m.valid = true ∧ m.part = s.partOf 0 ∧ m.ctx = s.viOf 0 ∧ m.used = 1 ∧ opsPending s 0 .acquires = false ∧ s.replaying 0 = false ∧ 33 + 7 < 64 ∧
         off % 64 = 0 ∧ off + 64 ≤ e.len ∧ e.grants .read = true ∧ e.owner = s.viOf 0 ∧
         transWord s 0 (s.viOf 0) (e.base + off) e.icl false false = .ok 0x40000 ∧ (∀ k, mdState (s.md k) < 3)) := by
  refine ⟨fun s hs => ?_, by decide +kernel, by decide +kernel, by decide +kernel, by decide +kernel, by decide +kernel, by decide +kernel, by decide +kernel,
    by decide +kernel, by decide +kernel, by decide +kernel, by decide +kernel, by decide +kernel, by decide +kernel, by decide +kernel, by decide,
    by decide +kernel, by decide +kernel, by decide +kernel, by decide +kernel, by decide +kernel, fun k => ?_⟩
  · simp only [List.mem_cons, List.not_mem_nil, or_false] at hs
    rcases hs with rfl | rfl | rfl <;>
      exact ready_of rfl rfl rfl (by decide : (0 : Nat) < 4) rfl rfl (.inl rfl) (by decide) (by decide)
  · rw [md_zero rfl rfl]; decide

/-- Queue 1 of context 0, granted to the partition or not, of sixteen packets from a base address, with its tail counter at 0x50000 and this many packets. -/
def queued (cfg base : DWord) (k : Nat) (s : State) : State := { s with queues := [(1, ⟨base, cfg, 0x50000#64, 0, BitVec.ofNat 16 k, [], []⟩)] }

/-- A queue that is not granted, one whose counter is not mapped, one whose slot is not, a full one, and one with a place; an access in flight. -/
theorem witness_DeviceLaunch :
    let f := fibre .vector
    let d := device f word1
    let m := mapped d []
    let at_ := fun (s : State) => (launchable s 0 1, (queuePlace (releaseAt (virtReads s 0 0x50000 8) 0 .device) 1 0x50000).isSome)
    (∀ s ∈ [queued 4 0 0 d, queued 0x2000004#64 0 0 d, queued 0x2000004#64 0x20000000#64 0 m, queued 0x2000004#64 0x60000#64 0 m,
        queued 0x2000004#64 0x60000#64 16 (mapped d [(0x50000, 16#8)])], Ready s word1 f { s := [1, 8, 9, 10, 11, 12, 13, 14, 15] }) ∧
      fieldOf (f.readS 1) 13 0 = 1 ∧ opsPending (flying f word1 [.sts []]) 0 .mem = true ∧ opsPending d 0 .mem = false ∧
      at_ (queued 4 0 0 d) = (false, false) ∧ at_ (queued 0x2000004#64 0 0 d) = (true, false) ∧
      at_ (queued 0x2000004#64 0x20000000#64 0 m) = (true, true) ∧ queuePlace (queued 0x2000004#64 0x20000000#64 0 m) 1 0x20000000 = none ∧
      (let s := queued 0x2000004#64 0x60000#64 16 (mapped d [(0x50000, 16#8)])
       s.mem.readN 0x50000 8 = 16 ∧ 2 ^ fieldOf (s.queue 1).cfg 3 0 ≤ (BitVec.ofNat 16 16 - (s.queue 1).head).toNat) ∧
      (let s := queued 0x2000004#64 0x60000#64 0 m
       at_ s = (true, true) ∧ queuePlace s 1 0x60000 = some 0x60000 ∧ s.replaying 0 = false ∧ Plain s (lineOf 0x50000) ∧ Plain s (lineOf 0x60000) ∧
         lineOf 0x50000 ≠ lineOf 0x60000) := by
  refine ⟨fun s hs => ?_, by decide +kernel, by decide +kernel, by decide +kernel, by decide +kernel, by decide +kernel, by decide +kernel, by decide +kernel,
    by decide +kernel, by decide +kernel, by decide +kernel, by decide +kernel, plain_of (by decide +kernel) rfl rfl (by decide) (by decide +kernel) (by decide +kernel),
    plain_of (by decide +kernel) rfl rfl (by decide) (by decide +kernel) (by decide +kernel), by decide⟩
  simp only [List.mem_cons, List.not_mem_nil, or_false] at hs
  rcases hs with rfl | rfl | rfl | rfl | rfl <;>
    exact ready_of rfl rfl rfl (by decide : (0 : Nat) < 4) rfl rfl (.inl rfl) (by decide) (by decide)

/-- Registers 0x00 to 0x11 with none, and with a flag-producing operation in flight; FPSTAT values that are legal, of a reserved mode, and too wide. -/
theorem witness_SpecialRegisters :
    let f := fibre .vector
    let s := device f word1
    Ready s word1 f { d := [4, 5] } ∧ Ready s word1 f { s := [9] } ∧ s.team f.team = some team ∧ (s.grid team.grid).isSome = true ∧
      opsPending s 0 .flagging = false ∧ opsPending (flying f word1 [.classB [] 0 true false]) 0 .flagging = true ∧ s.replaying 0 = false ∧
      fieldOf (f.readS 4) 31 0 = 64 ∧ fieldOf (f.readS 5) 31 0 % 8 = 1 ∧ 5 ≤ (0x805 : Nat) % 8 ∧ (0x1000 : Nat) / 2 ^ 12 ≠ 0 :=
  ⟨ready _ (.inl rfl) (by decide) (by decide), ready _ (.inl rfl) (by decide) (by decide), rfl, rfl, rfl, by decide +kernel, by decide +kernel,
    by decide +kernel, by decide +kernel, by decide, by decide⟩

/-- Control values that are refused, and one for a context with and without the grant; a FIFO of 64 records; a register that is pending. -/
theorem witness_TracesCountersTags :
    let f := fibre .vector
    let s := device f word1
    let r : TraceRec := ⟨0, 0, 0, 0, 0, 0, 0, 0⟩
    let full := { s with cores := [(0, { Core.init with fifo := List.replicate 64 r })] }
    Ready s word1 f { s := [9, 1] } ∧ Ready full word1 f { s := [1] } ∧ s.replaying (s.partOf 0) = false ∧
      fieldOf (4 : DWord) 3 2 ≠ 0 ∧ 0x17 < fieldOf (0x180000 : DWord) 23 16 ∧ fieldOf (f.readS 1) 63 24 = 0 ∧ fieldOf (f.readS 1) 3 2 = 0 ∧
      (s.ctx (s.viOf 0)).granted = false ∧ (({ s with ctxs := [(0, { Ctx.init with granted := true })] } : State).ctx (s.viOf 0)).granted = true ∧
      64 ≤ (full.core 0).fifo.length ∧ (s.core 0).fifo.length < 64 ∧ (flying f word1 loading).vPending 0 1 = true ∧ s.vPending 0 1 = false :=
  ⟨ready _ (.inl rfl) (by decide) (by decide), ready_of rfl rfl rfl (by decide : (0 : Nat) < 4) rfl rfl (.inl rfl) (by decide) (by decide), by decide +kernel,
    by decide, by decide, by decide +kernel, by decide +kernel, by decide +kernel, by decide +kernel, by decide +kernel, by decide +kernel,
    by decide +kernel, by decide +kernel⟩

/-- Fibre 0 with a clause of these words, and the place of its first word. -/
def running (ws : List Word) : Fibre := { fibre .vector with run := some ⟨0, ws, BitVec.allOnes 32, 1, true⟩ }

/-- The next word takes what the prefix gives, does not take it, is a prefix, is no word, or is missing; a flag that the wait names is pending or not. -/
theorem witness_Prefixes :
    let next := fun (w : Word) => ((running [0x200000#32, 0x7E000000#32, w]).run.bind fun r => r.words[word1.word + 1]?)
    (device (fibre .vector) word1).issue = some word1 ∧ (device (fibre .vector) word1).fib 0 = some (fibre .vector) ∧
      next 0x00018287#32 = some 0x00018287#32 ∧ (fieldOf word1.hdr 23 20 ≤ word1.word) = False ∧
      fieldOf ({ word1 with word := 2 } : Issue).hdr 23 20 ≤ 2 ∧ (⟨7, false, false, .dyn, 0, .xor, 1, false⟩ : XPre).ok (xuse (.iadd 6 5 7)) = true ∧
      (⟨7, false, false, .dyn, 0, .xor, 1, false⟩ : XPre).ok (xuse .nop) = false ∧
      (match decodeWord 0x7F001008#32 with | .ok i => (⟨7, false, false, .dyn, 0, .none, 0, false⟩ : XPre).ok (xuse i) | .error _ => true) = false ∧
      (decodeWord 0x1E000000#32).toOption = none ∧
      (flying (fibre .vector) word1 loading).cfWaits 0 8 = true ∧ (device (fibre .vector) word1).cfWaits 0 8 = false := by
  decide +kernel

/-- The fibre between its words, all lanes at one place. -/
def idle (pc : DWord) (word : Nat) : Fibre :=
  { fibre .vector with run := none, lanes := Vector.replicate 32 ⟨true, pc, word, .none, 0⟩ }

/-- The device with this fibre, which has no word half issued. -/
def resting (f : Fibre) : State := { device f word1 with issue := none }

/-- No lane free; all free; the clause beyond the range, on a page that is mapped, that is not, and that a walk found absent; headers of no word, of reserved
flags, of a transfer that is not last, and a good one. -/
theorem witness_FibreEvents_fetch :
    let f := idle 0 1
    let s := resting f
    (s.fib 0 = some f ∧ f.step = none ∧ f.stepRest = 0 ∧ s.replaying (s.partOf 0) = false ∧ formBundle s 0 f = BitVec.allOnes 32 ∧ f.run = none ∧ f.freed = 0) ∧
      (let g := { f with lanes := Vector.replicate 32 ⟨true, 0, 1, .sync ⟨.bar 0 0, 0, 0, false, false⟩, 0⟩ }; formBundle (resting g) 0 g = 0) ∧
      2 ^ 57 < (((idle 0x200000000000000#64 1).lane 0).pc).toNat + 64 ∧ transWord s 0 0 0 512 false true = .ok 0 ∧
      transWord s 0 0 (2 ^ 29) 512 false true = .miss ∧
      transWord (resting { f with walkRes := [(2 ^ 13, .bad 0x08 3 1)] }) 0 0 (2 ^ 29) 512 false true = .bad 0x08 3 1 ∧ mdState (s.md 0) < 3 ∧
      fieldOf (0x200000#32 : Word) 23 20 = 2 ∧ fieldOf (0xFC200000#32 : Word) 31 26 ≠ 0 ∧ fieldOf (0x20D000#32 : Word) 15 12 = 13 ∧
      ((0x7C040000#32 : Word).getLsbD 31 = false ∧ fieldOf (0x7C040000#32 : Word) 30 25 = 0x3E ∧ fieldOf (0x7C040000#32 : Word) 24 21 ≤ 5) := by decide +kernel

/-- A walk and a record fill that wait. -/
theorem witness_FibreEvents_waits :
    (let g := { idle 0 1 with walkReq := [(2 ^ 29, false, true, 512)] }
     (resting g).fib 0 = some g ∧ (resting g).replaying ((resting g).partOf 0) = false ∧ tlbFind (resting g) 0 0 (2 ^ 29) = none) ∧
    (let g := { idle 0 1 with lrecReq := some (64, 64) }
     (resting g).fib 0 = some g ∧ PlainMode (resting g) ((resting g).partOf 0) ∧ ((resting g).core 0).l1.length < 1024) :=
  ⟨by decide +kernel, by decide +kernel, ⟨by decide +kernel, by decide +kernel, by decide +kernel⟩, by decide +kernel⟩

/-- The last count; the watchdog's count; an interrupt; a long wait. -/
theorem witness_FibreEvents_counts :
    (let g := { idle 0 1 with ric := BitVec.allOnes 32, wdog := 2 ^ 26, intr := true }
     (resting g).fib 0 = some g ∧ g.sched = .running ∧ g.run = none ∧ atomHolds (resting g) 0 = false ∧ (resting g).inReplayMode 0 = false ∧
       2 ^ ((resting g).part ((resting g).partOf 0)).wdlog ≤ g.wdog) ∧
    (let g := { idle 0 1 with sched := .waiting }; g.waitFrom + 4096 ≤ ({ resting g with clock := 4096 } : State).clock) := by decide +kernel

/-- A chunk of five words where five fill it. -/
theorem witness_FibreEvents_chunk :
    let g := { idle 0 1 with ric := 5 }
    let t := { resting g with parts := [(0, { Part.init 0 with mode := 1, rrctl := 0x50000#64 })] }
    t.fib 0 = some g ∧ t.recording 0 = true ∧ (recorder t 0 (recorderOf 0)).ended = false ∧ 0 < ricPast g.ric.toNat g.chFrom ∧
      (fieldOf (t.part 0).rrctl 31 16 : Int) ≤ ricPast g.ric.toNat g.chFrom := by decide +kernel

/-- Line 0 is seen as it is at home by core 0 of a device in which nothing is dirty. -/
theorem sees_of {s : State} {k ln : Nat} (h1 : pageHeld s ln = false) (h2 : asker s ln = none) (h3 : isRemote ln = false) (h4 : mdState (s.md ln) < 3)
    (h5 : (s.md ln).getLsbD 15 = false) (h6 : s.hbm.errs.get? ln = none) (h7 : s.hbm.remapErr = []) (h8 : linePoison s ln = false)
    (h9 : (s.l1 k ln).poison = false) (h10 : (s.l1 k ln).valid &&& ~~~ (s.l1 k ln).dirty = 0) : Sees s k ln where
  held := h1
  quiet := ⟨h2, fun h => by rw [h3] at h; cases h⟩
  home := h4
  good := ⟨h5, h6, fun n => by rw [h7]; rfl⟩
  poison := ⟨h8, h9⟩
  fresh := fun i hi hv hd => by
    have := congrArg (·.getLsbD i) h10
    simp [hv, hi] at this
    rw [BitVec.getLsbD_eq_getElem hi, this] at hd
    cases hd

theorem witness_FibreEvents_memory :
    (∀ n, mdState ((resting (idle 0 1)).md n) < 3) ∧ Sees (resting (idle 0 1)) 0 0 :=
  ⟨fun n => by rw [md_zero rfl rfl]; decide, sees_of rfl rfl (by decide) (by decide +kernel) (by decide +kernel) rfl rfl (by decide +kernel) rfl rfl⟩

/-- An operation of this kind is the only one in flight, and nothing holds it back. -/
theorem due_of {s : State} {o : Op} {f : Fibre} {regs : List Nat} (h1 : s.ops = [o]) (h2 : s.fib o.fibre = some f) (h3 : o.core = coreOf o.fibre) (h4 : f.region < 4)
    (h5 : ∀ r ∈ regs, f.hasReg r = true) (h6 : PlainMode s (s.partOf o.fibre)) (h7 : overtakes s o = false)
    (h8 : (s.core o.core).l1.length + o.kind.memAccs.length ≤ 1024) : Due s o.id o f regs where
  op := by simp [State.op, h1]
  fibre := h2
  core := h3
  area := h4
  regs := h5
  mode := h6
  order := h7
  room := h8

/-- Accesses of this size at address 0 by lane 0 and at 64 by lane 31. -/
def two (size data cmp : Nat) : List Acc := [⟨0, 0, 0, 0, 0, size, data, cmp⟩, ⟨31, 64, 64, 64, 0, size, data, cmp⟩]

/-- The buffer register of those accesses. -/
def flat : BufInfo := ⟨0, 1, false, 0, 0⟩

/-- The device in which only this operation is in flight, numbered 7. -/
abbrev flies (k : OpKind) : State := flying (fibre .vector) word1 [k]

/-- That operation. -/
abbrev theOp (k : OpKind) : Op := { opOf (device (fibre .vector) word1) word1 (fibre .vector) (some 3) k with id := 7 }

theorem flies_due (k : OpKind) (regs : List Nat) (hr : ∀ r ∈ regs, (fibre .vector).hasReg r = true) (hn : k.memAccs.length ≤ 1024) :
    Due (flies k) 7 (theOp k) (fibre .vector) regs :=
  due_of (o := theOp k) rfl rfl rfl (by decide : (0 : Nat) < 4) hr ⟨by rfl, by rfl, by rfl⟩
    (by simp [overtakes, flies, flying]) (by
      have h : ((flies k).core 0).l1.length = 0 := rfl
      show ((flies k).core 0).l1.length + k.memAccs.length ≤ 1024
      omega)

theorem flies_plain (k : OpKind) : fenced (flies k) 0 = false ∧ (region (flies k) 0).getLsbD 62 = false ∧ (flies k).md 0 = 0 :=
  ⟨(show fenced (flies .done) 0 = false by decide +kernel), (show (region (flies .done) 0).getLsbD 62 = false by decide +kernel), md_zero rfl rfl 0⟩

theorem flies_sees (k : OpKind) : Sees (flies k) 0 0 :=
  sees_of rfl rfl (by decide) (by rw [(flies_plain k).2.2]; decide) (by rw [(flies_plain k).2.2]; decide) rfl rfl
    (by simp [linePoison, (flies_plain k).2.2, (flies_plain k).1, mdPoison, isRemote]) rfl (show L1Line.empty.valid &&& ~~~ L1Line.empty.dirty = 0 by decide)

theorem flies_takes (k : OpKind) : Takes (flies k) 0 0 :=
  ⟨rfl, flies_sees k, .inr ⟨plain_of rfl rfl rfl (by decide) (flies_plain k).1 (flies_plain k).2.1, by rw [(flies_plain k).2.2]; decide⟩, fun j hj => by
    simp [flies, flying, State.l1, State.core, device, AMap.getD, AMap.get?, hj]; rfl⟩

theorem witness_ResultsReturn :
    (let k := OpKind.load (two 1 0 0) flat .b8sx 4 0 none; Due (flies k) 7 (theOp k) (fibre .vector) (regRange 4 (ldRegs .b8sx)) ∧
      (∀ a ∈ two 1 0 0, a.pa % 128 + a.size ≤ 128) ∧ Sees (flies k) 0 0 ∧ ∀ a ∈ two 1 0 0, a.size = 1) ∧
    (let k := OpKind.uload ⟨0, 0, 0, 0, 0, 8, 0, 0⟩ flat 63 false; Due (flies k) 7 (theOp k) (fibre .vector) []) ∧
    (let k := OpKind.lds (two 8 0 0) 4 0; Due (flies k) 7 (theOp k) (fibre .vector) (regRange 4 2) ∧ ∀ a ∈ two 8 0 0, a.size = 4 * 2) ∧
    (let ws := [RegWrite.v 4 1 (lanesOf 7), RegWrite.s 0 5]
     let k := OpKind.classB ws 1 true false
     (flies k).op 7 = some (theOp k) ∧ (ws.flatMap RegWrite.vregs).Nodup ∧ (ws.flatMap RegWrite.sregs).Nodup) :=
  ⟨⟨flies_due _ _ (by decide) (by decide), by decide, flies_sees _, by decide⟩, flies_due _ _ (by decide) (by decide),
    ⟨flies_due _ _ (by decide) (by decide), by decide⟩, rfl, by decide, by decide⟩

theorem witness_StoresPerformed :
    (∀ rel ∈ [none, some Scope.fibre, some .team, some .device], let k := OpKind.store (two 4 5 0) flat rel
      Due (flies k) 7 (theOp k) (fibre .vector) [] ∧ earlierMem (flies k) (theOp k) = false ∧
      (∀ a ∈ two 4 5 0, a.pa % 128 + a.size ≤ 128 ∧ pageHeld (flies k) (lineOf (gaddr (flies k) a.home a.pa)) = false ∧
        lineLost (flies k) (lineOf (gaddr (flies k) a.home a.pa)) = false) ∧ Takes (flies k) 0 0) ∧
    (let k := OpKind.sts (two 4 5 0); Due (flies k) 7 (theOp k) (fibre .vector) [] ∧ ((flies k).core 0).scratch.wf = true) :=
  ⟨fun rel hr => ⟨flies_due _ _ (by decide) (by simp [OpKind.memAccs, two]), by simp [earlierMem, flies, flying], by
    revert rel; decide +kernel, flies_takes _⟩, flies_due _ _ (by decide) (by decide), by rfl⟩

theorem witness_AtomicsPerformed :
    (∀ n ∈ [1, 2, 4], let l := two (4 * n) 1 0
      let k := OpKind.atom .cas .device l flat 4 0
      Due (flies k) 7 (theOp k) (fibre .vector) (regRange 4 n) ∧ (∀ a ∈ l, a.pa % 128 + a.size ≤ 128 ∧ a.data < 256 ^ a.size ∧ a.cmp < 256 ^ a.size) ∧
        Takes (flies k) 0 0 ∧ l ≠ [] ∧ ∀ a ∈ l, a.size = 4 * n) ∧
    (let k := OpKind.aacc .f32 (two 40 1 0) flat; Due (flies k) 7 (theOp k) (fibre .vector) [] ∧ Takes (flies k) 0 0 ∧ ∀ a ∈ two 40 1 0, a.size = 40) :=
  ⟨fun n hn => ⟨flies_due _ _ (by revert n; decide) (by decide +revert), by revert n; decide, flies_takes _, by simp [two], by revert n; decide⟩,
    flies_due _ _ (by decide) (by decide), flies_takes _, by decide⟩

/-- The device with page tables in which only this engine operation is in flight. -/
abbrev engaged (e : EngOp) : State := mapped (flies (.engine e)) []

theorem engaged_sees (e : EngOp) : Sees (engaged e) 0 2048 := by
  have hm : (engaged e).md 2048 = 0 := md_zero rfl rfl _
  have hf : fenced (engaged e) 2048 = false := show fenced (mapped (flies .done) []) 2048 = false by decide +kernel
  exact sees_of rfl rfl (by decide) (by rw [hm]; decide) (by rw [hm]; decide) rfl rfl
    (by simp [linePoison, hm, hf, mdPoison, isRemote]) rfl (show L1Line.empty.valid &&& ~~~ L1Line.empty.dirty = 0 by decide)

theorem engaged_due (e : EngOp) (h1 : bitsOf e.sync 15 14 = 0 ∧ e.reinit = false) (h2 : e.status = none ∨ e.inScratch = true)
    (h3 : e.early ≠ 0 ∨ (e.clash = [] ∧ e.loose = [] ∧ e.stirred = [] ∧ e.hazAcc = [] ∧ e.hazWb = [])) :
    EngineDue (engaged e) 7 (theOp (.engine e)) e where
  op := rfl
  kind := rfl
  fibre := rfl
  core := rfl
  ids := by simp [mapped, flies, flying]
  sync := h1
  place := h2
  mode := ⟨rfl, rfl, rfl⟩
  turn := fun _ => by simp [matrixBusy, mapped, flies, flying]
  clean := .inr (.inr fun _ => rfl)
  home := fun ln => by rw [md_zero rfl rfl]; decide
  whole := h3
  wf := rfl

/-- A copy of four binary32 numbers between address 0x40000 and scratchpad offset 16, its status word at offset 64 of the scratchpad. -/
def copying (form : EngForm) : EngOp :=
  { EngOp.init form .fibre 0 0x800001#24 [0x40000#64, 16, 0, 64] 0 (some 64) true with record := record4, cleared := [0] }

/-- A load of 64 bytes into the weight buffer. -/
def weighing : EngOp := EngOp.init (.wbload false) .device 0 0x800001#24 [0x40000#64, 0x4000000000#64, plain2] 0 none true

/-- A transfer of one accumulator entry. -/
def storing (form : EngForm) : EngOp := { EngOp.init form .team 0 0 [0x0101000000000000#64, 0, plain2] 0 none true with record := record4 }

/-- A product. -/
def multiplying : EngOp := { EngOp.init .mma .team 0 0 product 0 none true with signers := [⟨0, 0, 1, 6, [], []⟩] }

/-- The elements at offsets from 0x40000 pass every check. -/
theorem engaged_elems (e : EngOp) (n z : Nat) (off : Nat → Nat) (need : Need) (hb : e.breg = 0x800001#24) (hz : z = 1 ∧ n = 64 ∨ z = 4 ∧ n = 4)
    (ho : ∀ i < n, off i = 0x40000 + z * i) : ElemsOk (engaged e) (theOp (.engine e)) e n off z need (fun i => 0x40000 + z * i) := by
  have h : bufEntry (engaged e) 0 ((engaged e).viOf 0) 1 = bufEntry (engaged multiplying) 0 ((engaged multiplying).viOf 0) 1 := rfl
  have hi : bregIdx e.breg = 1 := by rw [hb]; decide
  have hr : bregRdo e.breg = false := by rw [hb]; decide
  have hc : (theOp (.engine e)).core = 0 := rfl
  have hv : (engaged e).viOf (theOp (.engine e)).fibre = (engaged e).viOf 0 := rfl
  constructor
  · intro i hi; rw [ho i hi]; rcases hz with ⟨rfl, rfl⟩ | ⟨rfl, rfl⟩ <;> omega
  · rw [hc, hv, hi, h]; intro i hi; rw [ho i hi]; revert i
    rcases hz with ⟨rfl, rfl⟩ | ⟨rfl, rfl⟩ <;> (clear ho; decide +kernel)
  · rw [hc, hv, hi, h]; cases need <;> decide +kernel
  · exact .inr hr
  · rw [hc, hv, hi, h]
    show (bufEntry (engaged multiplying) 0 ((engaged multiplying).viOf 0) 1).owner = (engaged multiplying).viOf 0
    decide +kernel
  · rw [hc, hv, hi, h]
    intro i hi
    rw [ho i hi]
    show transNow (engaged multiplying) 0 _ _ _ = _
    clear ho
    revert i
    rcases hz with ⟨rfl, rfl⟩ | ⟨rfl, rfl⟩ <;> cases need <;> decide +kernel

/-- An operation that ended early; a copy whose line arrives, and one into memory; a weight load, a transfer each way and a product. -/
theorem witness_EngineCompletes :
    let due := fun (e : EngOp) => EngineDue (engaged e) 7 (theOp (.engine e)) e
    let pa := fun (i : Nat) => 0x40000 + 4 * i
    let offset := fun (l : LRec) (i : Nat) => (0x40000 + i % l.ext.1 * l.z + i / l.ext.1 % l.ext.2.1 * l.stride.1 +
      i / (l.ext.1 * l.ext.2.1) % l.ext.2.2.1 * l.stride.2.1 + i / (l.ext.1 * l.ext.2.1 * l.ext.2.2.1) * l.stride.2.2) % 2 ^ 64
    let l : LRec := ⟨0, .rne, 0, 0, (4, 1, 1, 1), (0, 0, 0), 16⟩
    due { copying .copy with early := 0x81 } ∧
    (due (copying .copy) ∧ parseRec (copying .copy).record = some l ∧ (copying .copy).cleared.contains 0 = true ∧
      ElemsOk (engaged (copying .copy)) (theOp (.engine (copying .copy))) (copying .copy) l.count (offset l) l.z .read pa ∧
      (∀ i < l.count, pa i % 128 + l.z ≤ 128 ∧ lineOf (gaddr (engaged (copying .copy)) 0 (pa i)) = 2048) ∧ Sees (engaged (copying .copy)) 0 2048 ∧
      ∀ i < l.count, offset l i % 128 + l.z ≤ 128) ∧
    (due (copying .copySt) ∧ earlierMem (engaged (copying .copySt)) (theOp (.engine (copying .copySt))) = false ∧
      allPresent (engaged (copying .copySt)) (theOp (.engine (copying .copySt))) (rowLines 16 (l.ext.1 * l.z) l.pitch l.rows) = true ∧
      ElemsOk (engaged (copying .copySt)) (theOp (.engine (copying .copySt))) (copying .copySt) l.count (offset l) l.z .write pa) ∧
    (due weighing ∧ ElemsOk (engaged weighing) (theOp (.engine weighing)) weighing 64 (fun i => (0x40000 + i) % 2 ^ 64) 1 .read (fun i => 0x40000 + 1 * i) ∧
      Sees (engaged weighing) 0 2048 ∧ ((engaged weighing).core 0).wb.wf = true) ∧
    due (storing .acczero) ∧
    (due (storing (.accld true)) ∧ allPresent (engaged (storing (.accld true))) (theOp (.engine (storing (.accld true)))) (rowLines 0 4 16 1) = true) ∧
    (due multiplying ∧ (mmaShape (nth product 1 0)).fmt = 6 ∧ (mmaShape (nth product 1 0)).acc = false ∧ (mmaShape (nth product 1 0)).asrc = false ∧
      (mmaShape (nth product 1 0)).col0 + (mmaShape (nth product 1 0)).n ≤ 64 ∧
      allPresent (engaged multiplying) (theOp (.engine multiplying)) (mmaReads (engaged multiplying) (theOp (.engine multiplying)) multiplying) = true) := by
  refine ⟨engaged_due _ (by decide) (.inr rfl) (.inl (by decide)),
    ⟨engaged_due _ (by decide) (.inr rfl) (.inr ⟨rfl, rfl, rfl, rfl, rfl⟩), by decide +kernel, by decide,
      engaged_elems _ 4 4 _ _ rfl (.inr ⟨rfl, rfl⟩) (by decide), by decide +kernel, engaged_sees _, by decide⟩,
    ⟨engaged_due _ (by decide) (.inr rfl) (.inr ⟨rfl, rfl, rfl, rfl, rfl⟩), by decide +kernel, by decide +kernel,
      engaged_elems _ 4 4 _ _ rfl (.inr ⟨rfl, rfl⟩) (by decide)⟩,
    ⟨engaged_due _ (by decide) (.inl rfl) (.inr ⟨rfl, rfl, rfl, rfl, rfl⟩), engaged_elems _ 64 1 _ _ rfl (.inl ⟨rfl, rfl⟩) (by decide), engaged_sees _, rfl⟩,
    engaged_due _ (by decide) (.inl rfl) (.inr ⟨rfl, rfl, rfl, rfl, rfl⟩),
    ⟨engaged_due _ (by decide) (.inl rfl) (.inr ⟨rfl, rfl, rfl, rfl, rfl⟩), by decide +kernel⟩,
    engaged_due _ (by decide) (.inl rfl) (.inr ⟨rfl, rfl, rfl, rfl, rfl⟩), by decide, by decide, by decide, by decide, by decide +kernel⟩

/-! Packets, grids and partitions. -/

theorem part_idle : ∀ (m : AMap Part) (p : Nat), (m.all fun e => e.2.urState == .idle) = true → (m.getD p (Part.init p)).urState = .idle
  | [], _, _ => rfl
  | e :: r, p, h => by
    simp only [List.all_cons, Bool.and_eq_true] at h
    show ((if p = e.1 then some e.2 else AMap.get? r p).getD (Part.init p)).urState = .idle
    split
    · simpa using h.1
    · exact part_idle r p h.2

/-- A line of a device whose undo rings are idle takes writes as they are. -/
theorem plain_idle {s : State} {ln : Nat} (hw : s.mem.wf = true) (hr : s.hbm.remapErr = []) (hp : (s.parts.all fun e => e.2.urState == .idle) = true)
    (hn : isRemote ln = false) (hf : fenced s ln = false) (hc : (region s (ln * 128 / 2 ^ 29)).getLsbD 62 = false) : Plain s ln where
  wf := hw
  near := hn
  fenced := hf
  errs := fun n => by rw [hr]; rfl
  comp := hc
  undo := fun p => by
    have h := part_idle s.parts p hp
    simp only [capturing, State.part]
    rw [h]; rfl

/-- The cells of a little-endian dword. -/
def cellsAt (a n : Nat) : Mem := ((List.range 8).map fun i => (a + i, BitVec.ofNat 8 (n / 256 ^ i))).filter fun c => c.2 != 0

/-- A device after reset whose queue 1 announces one packet with this first dword: a grid of one team of one fibre of 64 registers, its completion entry
at 0x72000. -/
def packets (d0 : Nat) : State :=
  { mapped State.reset (cellsAt 0x60000 d0 ++ cellsAt 0x60008 0x0001000100000001 ++ cellsAt 0x60010 0x70000 ++ cellsAt 0x60018 0x71000 ++
      cellsAt 0x60030 0x72000 ++ cellsAt 0x70008 0x141 ++ cellsAt 0x70040 0x20) with
    queues := [(1, ⟨0x60000#64, 0x1000004#64, 0, 0, 1, [], []⟩)], vis := [(0, { Vi.init with cfg := 0x80 })]
    parts := [(0, { Part.init 0 with runVi := some 0 })], hbm := { State.reset.hbm with regions := [(0, 0x8000000000000000#64)] } }

/-- What an event gives. -/
def after (i : Instr) (s : State) : State :=
  match exec i s with
  | .next t => t
  | _ => s

/-- A packet of a reserved TYPE (0x20), a marker that waits for none and one that waits for an earlier packet, and a launch. -/
theorem witness_GridEvents_packets :
    let w := fun (s : State) => dwordsAt (packetReads s 1) 0x60000 8
    let code := fun (s : State) => let s0 := launchReads (packetReads s 1) 0 (w s); (checkPacket s0 0 0 (w s) (argsOf s0 0 (w s))).1
    let more := { packets 0x402 with queues := [(1, ⟨0x60000#64, 0x1000004#64, 0, 0, 1, [9], []⟩)] }
    (∀ s ∈ [packets 0x403, packets 0x402, more, packets 0x10401], headPlace (packetReads s 1) 1 = some 0x60000 ∧ pkType (w s) ≠ 0 ∧
      s.replaying (packetPart s 1) = false ∧ (s.part 0).cfg.getLsbD 8 = true ∧ (gridsOf s 0).length = 0 ∧ viRuns s 0 0 = true ∧ dispatches s 0 = true ∧
      transNow (walkReads 0 0x72000 (takePacket (launchReads (packetReads s 1) 0 (w s)) 1 0x60000)) 0 0x72000 512 true = .ok 0x72000) ∧
    [packets 0x403, packets 0x402, more, packets 0x10401].map code = [0x20, 0, 0, 0] ∧ pkCpl (w (packets 0x402)) = true ∧
    (more.queue 1).open_ = [9] ∧ isTwin more 0 = false ∧ mayBegin (packets 0x10401) 1 (w (packets 0x10401)) = true ∧
    cairnDone (packets 0x10401) 0 (isGuarded (packets 0x10401) 0 (w (packets 0x10401))) = true := by decide +kernel

theorem witness_GridEvents_entry : let s := takePacket (packetReads (packets 0x402) 1) 1 0x60000
    Plain s (lineOf 0x60000) ∧ Plain s (lineOf 0x72000) :=
  ⟨plain_idle (by decide +kernel) (by decide +kernel) (by decide +kernel) (by decide) (by decide +kernel) (by decide +kernel),
    plain_idle (by decide +kernel) (by decide +kernel) (by decide +kernel) (by decide) (by decide +kernel) (by decide +kernel)⟩

/-- The grid that the launch begins. -/
def begun : State := after (.packetConsume 1) (packets 0x10401)

/-- A partition without a core places nothing; with its cores it places the team. A grid that has waited 100 us. -/
theorem witness_GridEvents_place :
    let g := (begun.grid 0).getD (newGrid begun 0 0 0 0 [] [] [])
    (∀ i, begun.team (begun.nextTeam + i) = none) ∧ begun.grid 0 = some g ∧ placing begun g = true ∧ begun.replaying g.part = false ∧
      chooseRect begun g = some [0] ∧
      (let s := begun.modPart 0 fun x => { x with cfg := 0x100 }; placing s g = true ∧ chooseRect s g = none) ∧
      (let s := { begun with mgmt := { begun.mgmt with gts := 100000 } }; 0 + 100000 ≤ s.mgmt.gts.toNat) := by
  have h : begun.teams = [] := by decide +kernel
  exact ⟨fun i => by simp [State.team, h, AMap.get?], by decide +kernel, by decide +kernel, by decide +kernel, by decide +kernel, by decide +kernel, by decide +kernel⟩

/-- That grid with its team bound. -/
def bound : State := after (.clusterPlace 0) begun

/-- The team has staged a byte and finished; the grid has ended; it is aborted; its only fibre has no live lane left. -/
theorem witness_GridEvents_end :
    let g := (bound.grid 0).getD (newGrid bound 0 0 0 0 [] [] [])
    bound.grid 0 = some g ∧
      (let s := bound.modTeam 0 fun t => { t with finished := true, live := [], staged := [(bound.fabric.device, 0x50000, 7)], stLines := [2560] }
       nextToRetire s 0 = some 0 ∧ (s.team 0).isSome = true ∧ s.mem.wf = true ∧ mdState (s.md (lineOf 0x50000)) < 3) ∧
      (let s := bound.modGrid 0 fun g => { g with teamsEnd := 1 }
       let h := (s.grid 0).getD g
       boundHere s h = true ∧ h.abort = none ∧ h.placed = 1 ∧ h.teamsEnd = 1 ∧ s.mgmt.hostHeld = [] ∧ (s.queue 1).marks = [] ∧ pkCpl h.packet = true ∧
         transNow (walkReads 0 0x72000 s) 0 0x72000 512 true = .ok 0x72000) ∧
      (let s := bound.modGrid 0 fun g => { g with abort := some 0x30 }
       (s.part 0).runVi = some 0 ∧ abortReady s 0 = true ∧ (s.part 0).urState = .idle) ∧
      (let s := bound.modFib 0 fun f => { f with lanes := Vector.replicate 32 ⟨false, 0, 1, .none, 0⟩ }
       (s.fib 0).map (fun f => (f.liveMask, f.run, f.sched)) = some (0, none, .ready) ∧ s.ops = []) ∧
      Plain bound (lineOf 0x50000) ∧ Plain bound (lineOf 0x72000) := by
  refine ⟨by decide +kernel, by decide +kernel, by decide +kernel, by decide +kernel, by decide +kernel,
    plain_idle (by decide +kernel) (by decide +kernel) (by decide +kernel) (by decide) (by decide +kernel) (by decide +kernel),
    plain_idle (by decide +kernel) (by decide +kernel) (by decide +kernel) (by decide) (by decide +kernel) (by decide +kernel)⟩

/-- Mailbox 3 with so many messages in a device with page tables or without, or no mailbox. -/
def boxes (tables? : Bool) (k : Nat) : State :=
  boxed k (if tables? then mapped { packets 0 with queues := [] } [] else { packets 0 with queues := [], ctxs := [] })

/-- No mailbox; an arrival behind one of its sender's that was sent back; a full ring; a slot that is mapped, and one that is not. -/
theorem witness_MessageEvents_arrivals :
    let m : Msg := ⟨3, 2, 1, 7, 5, none⟩
    let at_ := fun (s : State) => ((s.fabric.retry.any fun x => x.mbox == 3 && x.dev == 2), admissibleMsg s m, decide (s.fabric.overflow.length < 256),
      decide (waiting s 3 = false ∧ (s.mbox 3).used < (s.mbox 3).size), (slotFor (slotReads s 3 (s.mbox 3).tail) 3 (s.mbox 3).tail true).isLeft)
    let sent := { boxes true 0 with fabric := { (boxes true 0).fabric with retry := [m] } }
    ((packets 0).mbox 3).valid = false ∧ ((boxes true 0).mbox 3).valid = true ∧ at_ sent = (true, true, true, true, true) ∧
      at_ (boxes true 16) = (false, true, true, false, true) ∧ at_ (boxes true 0) = (false, true, true, true, true) ∧
      at_ (boxes false 0) = (false, true, true, true, false) ∧ (sent.fabric.retry.filter fun x => x.mbox == 3) = [m] ∧ (7 : Nat) < 2 ^ 32 := by decide +kernel

/-- A send of the fibre in flight: to no device, to one that no route reaches, to one that is reached with credits and without; to a mailbox here that is
not configured, that has turned the message back, that is full, and that has room. -/
theorem witness_MessageEvents_sends :
    let fly := fun (dev : Nat) (s : State) => { s with ops := (flies (.send dev 3 5 0)).ops, fibres := [(0, fibre .vector)], teams := [(0, team)] }
    let o := fun (dev : Nat) => theOp (.send dev 3 5 0)
    let far := fun (l : List Nat) => let s := fly 6 (boxes true 0)
      { s with fabric := { s.fabric with routes := [(6, 0x11#64)], ports := [(1, { Port.init with stalled := l })] } }
    let mine : Msg := ⟨3, 0, 0, 0, 5, some 7⟩
    let room := fun (s : State) => decide (waiting s 3 = false ∧ (s.mbox 3).used < (s.mbox 3).size)
    (∀ s ∈ [fly 0 (boxes true 0), fly 400 (boxes true 0), far [3]], earlierMem s (o 0) = false ∧ (s.fib 0).isSome = true) ∧
      (fly 0 (boxes true 0)).fabric.device = 0 ∧ reachable (fly 6 (boxes true 0)) 6 = false ∧ reachable (far [3]) 6 = true ∧
      vcFull (far [3]) (mboxPort (far [3]) 6 3) 3 = true ∧ vcFull (far []) (mboxPort (far []) 6 3) 3 = false ∧
      ((fly 0 (packets 0)).mbox 3).valid = false ∧ turnedBack (fly 0 (boxes true 0)) mine = false ∧ room (fly 0 (boxes true 16)) = false ∧
      room (fly 0 (boxes true 0)) = true ∧ earlierSend (fly 0 (boxes true 0)) (o 0) 0 3 = false ∧
      (let s := { fly 0 (boxes true 0) with fabric := { (boxes true 0).fabric with overflow := [mine] } }
       (s.fabric.heldPage ++ s.fabric.overflow).contains mine = true ∧ (s.mbox 3).valid = true) := by decide +kernel

/-- Partition 0 of a device after reset, changed. -/
def parted (g : Part → Part) : State := { packets 0 with parts := [(0, g { Part.init 0 with runVi := some 0 })], queues := [] }

/-- A slice entry of virtual interface v, of a length in microseconds. -/
def slice (v us : Nat) : DWord := BitVec.ofNat 64 (2 ^ 63 + us * 2 ^ 32 + v)

/-- A context put away without a fibre. -/
def away (v : Nat) : Saved := { vi := v, fibres := [], teams := [], slots := [], cores := [], ops := [], staged := true, spilled := none }

/-- No grid; a quiet interval; a queue above its threshold, marked and not, and below; a switch that may be proposed, at the end of the slice, and one too
soon; a proposal unacknowledged; the first slice; an instant that has come, before the halt and after; a context put away. -/
theorem witness_PartitionEvents :
    let two := fun (x : Part) => { x with slices := [(0, slice 0 2000), (1, slice 1 5000)] }
    let s := parted two
    let busy := { s with hbm := { s.hbm with stk := [(0, { Stack.init with qth := 8 })] } }
    let late := parted fun x => { two x with armed := [0], halted := true, quiet := true, saved := [(1, away 1)] }
    atBoundary s 0 = true ∧ ({ s with clock := 2 ^ 14 } : State).clock = 2 ^ 14 ∧ (s.core 0).quietFrom + 2 ^ (10 + (s.part (s.partOfCore 0)).qlog) = 2 ^ 14 ∧
      chanTh busy 0 ≤ chanOcc busy 0 [0, 1, 2, 3, 4, 5, 6, 288 * 3] ∧ chanOcc busy 0 [0] < chanTh busy 0 ∧ busy.hbm.congested.get? 0 = none ∧
      (entryAfter s 0 none).isSome = true ∧ (s.part 0).leads = true ∧ (s.part 0).armed.contains (sliceEnd s 0) = false ∧
      s.mgmt.gts.toNat + 1000000 ≤ sliceEnd s 0 ∧ mayPropose s 0 (sliceEnd s 0) = true ∧
      (let u := parted fun x => { two x with gang := [(2, 0)], proposed := [(5, [(0, 0)])], armed := [5] }; unacked u 0 = [5]) ∧
      (let u := parted fun x => { two x with runVi := none }
       (u.part 0).runVi = none ∧ entryAfter u 0 none = some 0 ∧ (u.part 0).saved.get? (entryVi u 0 0) = none) ∧
      (0 ∈ (late.part 0).armed ∧ (0 : Nat) ≤ late.mgmt.gts.toNat ∧ nextEntry late 0 = some 1 ∧ (late.part 0).runVi = some 0 ∧ entryVi late 0 1 = 1 ∧
        (late.part 0).saved.get? 1 = some (away 1) ∧ (away 1).staged = true ∧ ((away 1).fibres.map (·.1)).Nodup ∧ gangFar late 0 = []) ∧
      (let u := parted fun x => { two x with saved := [(1, { away 1 with staged := false })] }
       (u.part 0).saved = [(1, { away 1 with staged := false })] ∧ u.mem.wf = true) := by decide +kernel

/-- In a device whose lines are as at reset and whose rings have not begun every line's metadata is 0. -/
theorem md_idle {s : State} (hl : s.lines = []) (hp : (s.parts.all fun e => e.2.urFresh == 0) = true) (n : Nat) : s.md n = 0 := by
  have h : ∀ (m : AMap Part) (p : Nat), (m.all fun e => e.2.urFresh == 0) = true → (m.getD p (Part.init p)).urFresh = 0 := by
    intro m
    induction m with
    | nil => exact fun _ _ => rfl
    | cons e r ih =>
      intro p h
      simp only [List.all_cons, Bool.and_eq_true] at h
      show ((if p = e.1 then some e.2 else AMap.get? r p).getD (Part.init p)).urFresh = 0
      split
      · simpa using h.1
      · exact ih p h.2
  simp only [State.md, State.line, hl, AMap.getD, AMap.get?, Option.getD_none, State.freshLine]
  split
  · rw [show ∀ q, (s.part q).urFresh = 0 from fun q => h s.parts q hp]; decide
  · rfl

/-- A partition at its boundary in a recording mode with a Cairn due, and one for which a guarded packet waits; a pod Cairn at its instant, acknowledged, too
late, and taken; a full page; a twin with a page to read; a log at its end. -/
theorem witness_RecoveryEvents :
    let s := parted fun x => { x with mode := 1, cairnDue := true }
    let guarded := { packets 0x10601 with parts := [(0, { Part.init 0 with runVi := some 0 })] }
    let pod := fun (t2 : Option Nat) => parted fun x => { x with podAt := some (0, 4), podAck := true, podT2 := t2 }
    let full := parted fun x => { x with rrctl := 1, recs := [(0, ⟨List.replicate 252 (0, 0), false, false⟩)] }
    let twins := { parted (fun x => { x with twin := some (1, false), rrTail := 1, mode := 1 }) with
      parts := [(0, { Part.init 0 with twin := some (1, false), rrTail := 1, mode := 1 }), (1, { Part.init 1 with mode := 2, replay := some (Replay.init 0) })] }
    let done_ := parted fun x => { x with mode := 2, replay := some (Replay.init 0) }
    (cairnReady s 0 = true ∧ (s.part 0).halted = false ∧ (s.part 0).cfg.getLsbD 8 = true ∧ twinOf s 0 = none ∧ cairnWanted s 0 = none ∧ s.recording 0 = true ∧
      (s.part 0).cairnDue = true) ∧ (cairnReady guarded 0 = true ∧ cairnWanted guarded 0 = some true) ∧
      podHolds (pod none) 0 = true ∧ quiescent (pod none) 0 = true ∧ ((pod none).part 0).podAck = true ∧ ((pod none).part 0).podT2 = none ∧
      (let t := { pod none with mgmt := { (pod none).mgmt with gts := 1000000000 } }; 0 + 1000000000 ≤ t.mgmt.gts.toNat) ∧
      (((pod (some 0)).part 0).podT2 = some 0 ∧ ((pod (some 0)).part 0).replayDue = none ∧ cairnReady (pod (some 0)) 0 = true ∧ twinOf (pod (some 0)) 0 = none) ∧
      (252 ≤ (recorder full 0 0).recs.length ∧ (full.part 0).rrctl.getLsbD 0 = true ∧ (full.part 0).rrTail - (full.part 0).rrCairn < ringPages full 0 ∧
        full.mem.wf = true) ∧
      (twinOf twins 0 = some 1 ∧ (twins.part 0).twpg < (twins.part 0).rrTail ∧ twins.replaying 1 = true ∧ (twins.part 1).replay = some (Replay.init 0)) ∧
      ((done_.part 0).replay = some (Replay.init 0) ∧ logOver done_ 0 = true) := by decide +kernel

/-- A write-shared line whose sequence numbers are exhausted. -/
theorem witness_RecoveryEvents_exhausted :
    let s := { parted fun x => { x with mode := 1 } with lines := [(0, { LineInfo.init with ep := { EpLine.init with st := .writeShared, seq := 2 ^ 32 } })] }
    fieldOf (region s 0) 61 59 = 0 ∧ s.recording 0 = true ∧ (s.part 0).ended = false ∧ (s.line 0).ep.st = .writeShared ∧ 2 ^ 32 ≤ (s.line 0).ep.seq := by
  decide +kernel

/-- An undo ring with one entry, for line 2048, and an aborted grid. -/
def restoring : State :=
  let s := parted fun x => { x with urState := .restoring, urTail := 1 }
  { s with mem := cellsAt 0 (2 ^ 63 + 2048) ++ cellsAt 16 7, grids := [(0, { newGrid s 1 0 0 0 [] [] [] with abort := some 0x31 })] }

theorem witness_RecoveryEvents_restore :
    (let x := restoring.part 0
     x.replayDue = none ∧ x.urState = .restoring ∧ restoring.mem.wf = true ∧ x.urTail - x.urEpst = 1 ∧ entryBad restoring 0 0 = false ∧ undoAddr restoring 0 0 = 0 ∧
       restoring.mem.readN 0 8 % 2 ^ 34 = 2048 ∧ (0 + 144 : Nat) ≤ 2048 * 128 ∧ (region restoring (2048 * 128 / 2 ^ 29)).getLsbD 62 = false ∧
       (restoring.grids.map fun e => (e.2.part, e.2.abort.isSome, decide (e.2.relaunch < fieldOf x.urctl 1 0))) = [(0, true, true)] ∧
       (restoring.grids.map (·.1)).Nodup ∧ restoring.hbm.errs = [] ∧ restoring.hbm.remapErr = []) ∧
    ∀ l, restoring.md l = 0 := ⟨by decide +kernel, md_idle (by decide +kernel) (by decide +kernel)⟩

/-- A device after reset with memory in region 0, whose sharing group 0 holds devices 0 and 6, and whose line 0 is in a state of the table of R331. -/
def home (st ow : Nat) : State :=
  { State.reset with hbm := { State.reset.hbm with regions := [(0, 0x8000000000000000#64)] }
                     fabric := { Fabric.init with groups := [(0, (2, [0xC00#64]))] } }.setMd 0 ow st

theorem home_at (st ow : Nat) (h : mdState ((home st ow).md 0) < 6 ∧ ((home st ow).md 0).getLsbD 15 = false) : AtHome (home st ow) 0 where
  near := by decide
  held := rfl
  good := ⟨h.1, h.2, rfl, fun _ => rfl⟩
  undo := fun p => by simp [capturing, home, State.setMd, State.modLine, State.part, State.reset, AMap.getD, AMap.get?, Part.init]
  wf := rfl

/-- A device of the group and one outside it; requests that await nothing, and ones that ask first; owners of E and M lines; an eviction. -/
theorem witness_CoherenceEvents :
    let waits := fun (st ow : Nat) (who : LineReq) (u : LineUse) => (asker (home st ow) 0 == none, lineWaits (home st ow) 0 who u)
    (AtHome (home 0 0) 0 ∧ AtHome (home 4 6) 0 ∧ AtHome (home 3 6) 0 ∧ AtHome (home 5 0) 0) ∧ (home 0 0).recording 0 = false ∧ (home 0 0).replaying 0 = false ∧
      cachedFor (home 0 0) 0 1 6 = true ∧ cachedFor (home 0 0) 0 1 7 = false ∧ waits 0 0 (.dev 6) (.dev 6 false) = (true, false) ∧
      waits 4 6 (.dev 0) (.dev 0 false) = (true, true) ∧ waits 4 6 (.dev 6) (.dev 6 true) = (true, false) ∧ waits 5 0 (.dev 6) (.dev 6 true) = (true, true) ∧
      waits 4 6 (.dev 0) (.home true) = (true, true) ∧ (mdOwner ((home 2 6).md 0) = 6 ∧ mdState ((home 2 6).md 0) = 2) ∧
      waits 1 6 (.host 1) (.host 1 false) = (true, true) ∧ waits 0 0 (.host 1) (.host 1 true) = (true, false) ∧
      backed (home 0 0) 0 = true ∧ backed State.reset 0 = false ∧ pageHeld (home 0 0) 0 = false ∧ confOf (home 0 0) 0 = none ∧
      hostHolds (home 0 0) 0 = false ∧ hostHolds { home 0 0 with parts := [(0, { Part.init 0 with mode := 1 })], grids := begun.grids } 0 = true ∧
      Takes (flies .done) 0 0 := by
  refine ⟨⟨home_at 0 0 (by decide +kernel), home_at 4 6 (by decide +kernel), home_at 3 6 (by decide +kernel), home_at 5 0 (by decide +kernel)⟩,
    by decide +kernel, by decide +kernel, by decide +kernel, by decide +kernel, by decide +kernel, by decide +kernel, by decide +kernel, by decide +kernel,
    by decide +kernel, by decide +kernel, by decide +kernel, by decide +kernel, by decide +kernel, by decide +kernel, by decide +kernel, by decide +kernel,
    by decide +kernel, by decide +kernel, flies_takes _⟩

/-- A remote line owned by a core; a page held for recompression; a row at its threshold and below; a bank held. -/
theorem witness_CoherenceEvents_memory :
    let far := 3 * 2 ^ 34 + 5
    let s := { home 0 0 with lines := [(far, { LineInfo.init with own := [⟨0, 1⟩] })], fabric := { Fabric.init with routes := [(2, 0x11#64)] } }
    let page := { home 0 0 with hbm := { (home 0 0).hbm with cheld := [(0, [])] } }
    let row := { home 0 0 with hbm := { (home 0 0).hbm with acts := [(0, 1023)], bankHold := [(0, 0)] } }
    (s.line far).own = [⟨0, 1⟩] ∧ reachable s 2 = true ∧ s.mem.wf = true ∧ page.hbm.cheld.get? 0 = some [] ∧ page.hbm.cstuck.get? 0 = none ∧
      fieldOf (row.stack 0).rmth 15 0 ≤ row.hbm.acts.getD 0 0 + 1 ∧ (home 0 0).hbm.acts.getD 0 0 + 1 < fieldOf ((home 0 0).stack 0).rmth 15 0 ∧
      row.hbm.bankHold.get? 0 = some 0 ∧ 0 ≤ row.clock := by decide +kernel

/-- The device's fibre with its context in place, for a command from PF0. -/
def commanded (g : Fibre → Fibre) : State :=
  { device (g (fibre .vector)) word1 with issue := none, parts := [(0, { Part.init 0 with runVi := some 0 })] }

theorem commands_of (g : Fibre → Fibre) (h : (commanded g).fib 0 = some (g (fibre .vector))) (ha : (g (fibre .vector)).region < 4)
    (hs : srcMay (commanded g) ((commanded g).viOf 0) = true) (hp : ((commanded g).part ((commanded g).partOf 0)).runVi = some ((commanded g).viOf 0))
    (hc : confRefuses (commanded g) ((commanded g).viOf 0) = false) : Commands (commanded g) 0 (g (fibre .vector)) := ⟨h, ha, hs, hp, hc⟩

/-- No fibre; a running one; one frozen at a word, by cause 0x0A and by another; one stepped, whose word has completed and whose word waits. -/
theorem witness_FibreCommands :
    let z := fun (cause : Nat) (f : Fibre) => { f with sched := .frozen, run := none, frozen := some ⟨0, 1, 1, 2, 1, cause, true⟩ }
    let stepped := fun (done : Bool) (f : Fibre) => { z 4 f with sched := .running, step := some ⟨0, done, 0, false, .frozen⟩, wait := some (.flags 1) }
    fibreCtxs State.reset 0 = [] ∧ Commands (commanded id) 0 (fibre .vector) ∧ Commands (commanded (z 0x0A)) 0 (z 0x0A (fibre .vector)) ∧
      Commands (commanded (z 4)) 0 (z 4 (fibre .vector)) ∧ heldCode (z 4 (fibre .vector)) 0 = 0 ∧
      heldCode { fibre .vector with lanes := Vector.replicate 32 ⟨true, 0, 1, .sync ⟨.bar 0 0, 0, 0, false, false⟩, 0⟩ } 0 ≠ 0 ∧
      Commands (commanded (stepped true)) 0 (stepped true (fibre .vector)) ∧ (stepped true (fibre .vector)).liveMask ≠ 0 ∧
      stepOpsDone (commanded (stepped true)) 0 ⟨0, true, 0, false, .frozen⟩ = true ∧ waitCode false (stepped false (fibre .vector)).wait ≠ 0 ∧
      (commanded id).inReplayMode 0 = false ∧ ({ commanded id with parts := [(0, { Part.init 0 with mode := 2 })] } : State).inReplayMode 0 = true := by
  refine ⟨by decide +kernel, commands_of id (by decide +kernel) (by decide +kernel) (by decide +kernel) (by decide +kernel) (by decide +kernel),
    commands_of _ (by decide +kernel) (by decide +kernel) (by decide +kernel) (by decide +kernel) (by decide +kernel),
    commands_of _ (by decide +kernel) (by decide +kernel) (by decide +kernel) (by decide +kernel) (by decide +kernel), by decide +kernel, by decide +kernel,
    commands_of _ (by decide +kernel) (by decide +kernel) (by decide +kernel) (by decide +kernel) (by decide +kernel), by decide +kernel, by decide +kernel,
    by decide +kernel, by decide +kernel, by decide +kernel⟩

/-- A partition halted and not, with a Cairn that REPLAY can go to; a handle of no grid and of one; sources that may name it and that may not. -/
theorem witness_PartitionCommands :
    let s := parted fun x => { x with cairnAt := some 0, cairn := 4, urState := .capture }
    let vf := { s with mgmt := { s.mgmt with src := .vf 5 } }
    srcMayPart s 0 = true ∧ srcMayPart vf 0 = false ∧ (s.part 0).cairnAt ≠ none ∧ (s.part 0).cairn = 4 ∧ (s.part 0).anclost = false ∧
      (s.part 0).xdev = false ∧ (s.part 0).urState = .capture ∧ fieldOf (2 : BitVec 64) 63 2 = 0 ∧ handleGrid s 1 = none ∧
      handleGrid bound 1 = some 0 ∧ srcMay bound 0 = true ∧ srcMay vf 0 = false ∧ confRefuses bound 0 = false ∧ bound.inReplayMode 0 = false ∧
      (bound.part 0).runVi = some 0 ∧ bound.gridNo 0 = some 0 ∧ (bound.fib 0).map (fun f => (f.sched, f.halted)) = some (.ready, false) := by decide +kernel

/-- Counters of an interface in place; a program that is legal and none; a trace record without a ring, in one that is full, and one that a program drops. -/
theorem witness_CounterCommands :
    let s := parted fun x => x
    let r : TraceRec := ⟨7, 0, 0, 0, 0, 0, 0, 0⟩
    let ring := fun (cfg : DWord) (n : Nat) => { s with cores := [(0, { Core.init with fifo := [r] })], vis := [(0, { Vi.init with trcfg := cfg, trTail := BitVec.ofNat 32 n })] }
    srcMay s 0 = true ∧ srcMay { s with mgmt := { s.mgmt with src := .vf 5 } } 0 = false ∧ confRefuses s 0 = false ∧ s.conf 0 = false ∧
      ((s.part (s.vi 0).part).runVi = some 0) ∧ [0, 0, 0, 0].any pmctlBad = false ∧ pmctlBad 4 = true ∧
      ((ring 0x700 0).core 0).fifo = [r] ∧ r.vi = 0 ∧ ((ring 0x700 0).vi 0).trcfg.getLsbD 0 = false ∧ ((ring 0x701 0).vi 0).trcfg.getLsbD 0 = true ∧
      2 ^ (fieldOf ((ring 0x301 128).vi 0).trcfg 11 8 + 4) ≤ (((ring 0x301 128).vi 0).trTail - ((ring 0x301 128).vi 0).trHead).toNat := by decide +kernel

/-- Sources; datagrams too short, whole and in parts; configuration spaces that are there and not; MODE values that a boundary admits and not; tables. -/
theorem witness_ManagementCommands :
    let s := packets 0
    s.mgmt.src = .pf0 ∧ ({ s.mgmt with src := .vf 5 } : Mgmt).src ≠ .pf0 ∧ ([] : List Byte).length < 64 ∧ 64 ≤ (List.replicate 64 (0 : Byte)).length ∧
      bytesNat (((List.replicate 64 (0 : Byte)).drop 4).take 4) = 0 ∧ cfgValue s 0x7F 0 = none ∧ (cfgValue s 0x00 0).isSome = true ∧
      cfgMay s 0x00 0 = true ∧ cfgMay { s with mgmt := { s.mgmt with src := .vf 5 } } 0x10 0 = false ∧ atBoundary s 0 = true ∧ atBoundary bound 0 = false ∧
      (16 ≤ fieldOf (0x41A01#64 : DWord) 13 8 ∧ fieldOf (0x41A01#64 : DWord) 2 0 % 4 < 2) ∧ srcMay s 0 = true ∧ btBusy s 0 1 1 = false ∧
      btBusy (flies (.load [] flat .b32 1 0 none)) 0 1 1 = true ∧ s.hbm.cstuck = [] ∧ s.mgmt.manifests.length < 16 ∧ s.mgmt.manifests[0]? = none ∧
      s.mgmt.hssCount < 2 ^ 40 ∧ s.conf 0 = false := by decide +kernel

/-- Power states; links up, down and late; a message sent back. -/
theorem witness_DeviceEvents :
    let s := packets 0
    let down := { s with fabric := { s.fabric with ports := [(1, { Port.init with up := false, failed := true })] }, mgmt := { s.mgmt with gts := 100000000 } }
    s.mgmt.power ≠ .ps4 ∧ s.grids = [] ∧ bound.grids ≠ [] ∧ ({ s.mgmt with power := .ps4 } : Mgmt).power = .ps4 ∧ (s.fabric.ports.getD 1 Port.init).up = true ∧
      (down.fabric.ports.getD 1 Port.init).up = false ∧ 0 + down.fabric.linkTo * 1000000 ≤ down.mgmt.gts.toNat ∧ s.fabric.retry = [] := by decide +kernel

/-! ### The machine as a whole -/

/-- An instruction that is a word, with operands at the ends of their ranges, and an event. -/
theorem witness_EncodingsRoundTrip : (Instr.xPrefix 7 true true .rup 127 .bcast 31 true).isWord = true ∧ (Instr.xPrefix 7 true true .rup 127 .bcast 31 true).wf = true ∧
    (Instr.ldExtended 127 126 15 .b128 true .system).isWord = true ∧ (Instr.clauseFetch 0).isWord = false := by decide

/-- The device with a clause of one word that its fibre may issue. -/
def turning (w : Word) : State :=
  { device (running [0x100000#32, w]) word1 with agenda := [.issue 0], issue := none, slots := [(0, { Slot.init with cur := some 0 })] }

/-- Whether a host's read waits. -/
theorem hostMemRead_holds (s : State) (a : List Turn) (p h n : Nat) :
    eventHolds { s with agenda := a } (.hostMemRead p h n) = lineHolds s (lineOf h) (hostWaits s (p % 2) (lineOf h) false) := rfl

/-- A host's read of a line that a device owns asks first. -/
theorem home_asks : lineHolds (home 4 6) (lineOf 0) (hostWaits (home 4 6) (1 % 2) (lineOf 0) false) = some true := by decide +kernel

theorem home_holds (a : List Turn) : eventHolds { home 4 6 with agenda := a } (.hostMemRead 1 0 4) = some true := by rw [hostMemRead_holds, home_asks]

/-- Whether what a turn asks of a fibre's word holds. -/
def runs (w : Word) : Bool :=
  alive (turning w) && mayIssue (turning w) 0 && !atomHolds (turning w) 0 && !(turning w).recording 0 && !(turning w).replaying 0 && !(turning w).ordered 0

theorem runs_words : [0x00018287#32, 0x1E000000#32].all runs = true := by decide +kernel

/-- A word, and one that is none; an event that nothing holds back. -/
theorem witness_StepRunsDecodedWord :
    (∀ w ∈ [0x00018287#32, 0x1E000000#32], runs w = true ∧
        ((turning w).fib 0).bind (·.run) = some ⟨0, [0x100000#32, w], BitVec.allOnes 32, 1, true⟩) ∧
      (decodeWord 0x00018287#32).toOption = some (.iadd 6 5 7) ∧ (Instr.iadd 6 5 7).wf = true ∧ (decodeWord 0x1E000000#32).toOption = none ∧
      isPrefix 0x1E000000#32 = false ∧ alive State.reset = true ∧ (∀ a, eventHolds { turning 0 with agenda := a } (.throttleSignal 0) = none) ∧
      ∀ a, eventHolds { home 4 6 with agenda := a } (.hostMemRead 1 0 4) = some true :=
  ⟨fun w h => ⟨List.all_eq_true.mp runs_words w h, rfl⟩, by decide +kernel, by decide, by decide +kernel, by decide, by decide +kernel, fun _ => rfl,
    home_holds⟩

theorem witness_StepAnswers : (∀ i, Turn.event i ∈ (turning 0).agenda → i.isWord = false) ∧
    (let s := { State.reset with agenda := [.event .nop] }; alive s = true ∧ Settled s ∧ Instr.nop.isWord = true) :=
  ⟨fun i h => by simp [turning] at h, by decide +kernel, rfl, by decide⟩

/-- Whether a step goes on. -/
def goesOn : Host.Outcome State Fault Refusal → Bool
  | .next _ => true
  | _ => false

theorem witness_StepKeepsMemory : MemOk (turning 0x00018287#32) ∧ Settled (turning 0x00018287#32) ∧
    goesOn (step (turning 0x00018287#32)) = true := ⟨⟨by decide +kernel, by decide +kernel⟩, rfl, by decide +kernel⟩

/-! ### Single steps, with results from the spec's examples and rules -/

/-- Fibre 0 issuing a word, with a prefix that names vc as the fourth operand where vc is given, and a value in each of some vector registers,
in every lane. -/
def loadedWith (vc : Option (BitVec 7)) (vals : List (Nat × Word)) : State :=
  device { fibre .vector with v := vals.map fun e => (e.1, ⟨lanesOf e.2, .g⟩) } { word1 with px := vc.map fun r => { pre with vc := r } }

/-- What lane 3 of vector register r holds after an instruction and what FPSTAT then holds. -/
def lane3 (i : Instr) (vc : Option (BitVec 7)) (vals : List (Nat × Word)) (r : Nat) : Option (Word × Word) :=
  match exec i (loadedWith vc vals) with
  | .next t => some ((readReg t 0 r).vals[3], ((t.fib 0).map (·.fpstat)).getD 0)
  | _ => none

/-- R101: sums wrap modulo 2^32. -/
theorem test_iadd_wraps : lane3 (.iadd 6 5 7) none [(5, 0xFFFFFFFF), (7, 2)] 6 = some (1, 0) := by decide +kernel

/-- R101: the high half of a signed product; a destination that is a source. -/
theorem test_imulh_signed : lane3 (.imulhSg 5 5 7) none [(5, 0xFFFFFFFF), (7, 2)] 5 = some (0xFFFFFFFF, 0) := by decide +kernel

/-- R103, its example: 04_integer_control.md:89. -/
theorem test_bfe_signed : lane3 (.bfeSg 6 5 7) none [(5, 0xF2C0), (7, 0x806)] 6 = some (0xFFFFFFCB, 0) := by decide +kernel

theorem test_bfi_cut : lane3 (.bfi 6 5 7) (some 9) [(5, 0xF), (7, 0x101C), (9, 0x01234567)] 6 = some (0xF1234567, 0) := by decide +kernel

/-- R108, its example: 04_integer_control.md:164. -/
theorem test_idp4_exact : lane3 (.idp4Sg 6 5 7) none [(6, 0x7FFFFF00), (5, 0x807F), (7, 0x7F7F)] 6 = some (0x7FFFFE81, 0) := by decide +kernel

/-- R122: 1.0 + 2^-24 is a tie that goes to the even significand, with NX. -/
theorem test_fadd_tie : (lane3 (.faddF32 6 5 7) none [(5, 0x3F800000), (7, 0x33800000)] 6).map (·.1) = some 0x3F800000 := by decide +kernel

/-- R122: one rounding: (1 + 2^-12)^2 - (1 + 2^-11) is 2^-24. -/
theorem test_ffma_once : lane3 (.ffmaF32 6 5 5) (some 7) [(5, 0x3F800800), (7, 0xBF801000)] 6 = some (0x33800000, 0) := by decide +kernel

/-- R130, the examples of 05_arith_crosslane.md:182. -/
theorem test_cvt_tap_f32 : lane3 (.cvt .f32 3 2 .e8e1) none [(2, 0xD8)] 3 = some (0xBEC00000, 0) := by decide +kernel

theorem test_cvt_f32_tap : (lane3 (.cvt .e8e1 3 2 .f32) none [(2, 0x45300000)] 3).map (·.1) = some 0x7F := by decide +kernel

theorem test_cvt_clamp : (lane3 (.cvtClamp .e8e1 3 2 .f32) (some 9) [(2, 0x45300000), (9, 0x7C)] 3).map (·.1) = some 0x7C := by decide +kernel

/-- R133, the examples of 05_arith_crosslane.md:265. -/
theorem test_trfma_once : (lane3 (.trfma .e8e1 8 9 10) (some 11) [(9, 0x43), (10, 0x43), (11, 0xC0)] 8).map (·.1) = some 0x2A := by decide +kernel

theorem test_trmul_rounds : (lane3 (.trmul .e8e1 8 9 10) none [(9, 0x43), (10, 0x43)] 8).map (·.1) = some 0x47 := by decide +kernel

end Sys2Proof.Tests
end

section
/-!
O59: every step keeps the canonical form of both memories and leaves no word half issued. A state is sound when both memories are canonical and, where
a proposition Q holds, no word is being issued. Each function of the model that answers a state has one lemma, `f_sound`, in the order of the model's
files; a proof follows the branches of its function and cites the lemmas of the functions it calls. Memory changes only through the functions that
`Laws` proves to keep the canonical form; `settleAll`, which follows every word and every event, leaves no word in issue, so that the step is sound
for Q = True though the instruction inside it is sound for Q = False only. The canonical form is the model's own (log entry 1).
-/

namespace Sys2Proof.Machine

/-- The memories are in canonical form, and where Q holds no word is half issued. Inside an instruction a word is being issued, and Q is False there;
between steps Q is True. -/
def Sound (Q : Prop) (s : State) : Prop := MemOk s ∧ (Q → Settled s)

/-- Every next state that an instruction answers is sound. -/
def SoundOut (Q : Prop) (o : Host.Outcome State Fault Refusal) : Prop := ∀ t, o = .next t → Sound Q t

/-- The state that a function may answer is sound. -/
def SoundOpt (Q : Prop) (o : Option State) : Prop := ∀ t, o = some t → Sound Q t

/-- The state after a configuration write that is accepted is sound. -/
def SoundCfg (Q : Prop) (o : CfgWrite) : Prop := ∀ t, o = .inl t → Sound Q t

/-! ### The predicate and its rules -/

section Rules

variable {Q : Prop} {s t : State}

theorem Sound.mem_wf (h : Sound Q s) : s.mem.wf = true := h.1.1

theorem Sound.host_wf (h : Sound Q s) : s.hostMem.wf = true := h.1.2

theorem Sound.set (h : Sound Q s) {ag cl is tr se no nt ng fr fi te sl co op li ct vi pa qu gr fa hb mg} :
    Sound Q ⟨ag, s.issue, cl, is, tr, se, no, nt, ng, fr, fi, te, sl, co, op, s.mem, li, s.hostMem, ct, vi, pa, qu, gr, fa, hb, mg⟩ := h

theorem Sound.setMem (h : Sound Q s) {m : Mem} (hm : m.wf = true)
    {ag cl is tr se no nt ng fr fi te sl co op li ct vi pa qu gr fa hb mg} :
    Sound Q ⟨ag, s.issue, cl, is, tr, se, no, nt, ng, fr, fi, te, sl, co, op, m, li, s.hostMem, ct, vi, pa, qu, gr, fa, hb, mg⟩ :=
  ⟨⟨hm, h.host_wf⟩, h.2⟩

theorem Sound.setHost (h : Sound Q s) {m : Mem} (hm : m.wf = true)
    {ag cl is tr se no nt ng fr fi te sl co op li ct vi pa qu gr fa hb mg} :
    Sound Q ⟨ag, s.issue, cl, is, tr, se, no, nt, ng, fr, fi, te, sl, co, op, s.mem, li, m, ct, vi, pa, qu, gr, fa, hb, mg⟩ :=
  ⟨⟨h.mem_wf, hm⟩, h.2⟩

theorem Sound.unissue (h : Sound Q s) {ag cl is tr se no nt ng fr fi te sl co op li ct vi pa qu gr fa hb mg} :
    Sound Q ⟨ag, none, cl, is, tr, se, no, nt, ng, fr, fi, te, sl, co, op, s.mem, li, s.hostMem, ct, vi, pa, qu, gr, fa, hb, mg⟩ :=
  ⟨h.1, fun _ => rfl⟩

/-- In a state that issues a word, Q does not hold. -/
theorem Sound.issuing {c : Issue} (h : Sound Q s) (hc : s.issue = .some c) {d : Option Issue} : Sound Q { s with issue := d } :=
  ⟨h.1, fun x => by exact absurd ((h.2 x).symm.trans hc) nofun⟩

theorem Sound.anyTime (h : Sound Q s) : Sound False s := ⟨h.1, False.elim⟩

theorem Sound.settled (h : Sound False s) : Sound Q { s with issue := none } := ⟨h.1, fun _ => rfl⟩

theorem Sound.word (h : Sound False s) {d : Option Issue} : Sound False { s with issue := d } := ⟨h.1, False.elim⟩

theorem Sound.foldl {α : Type} {g : State → α → State} (hg : ∀ s x, Sound Q s → Sound Q (g s x)) (l : List α) (h : Sound Q s) :
    Sound Q (l.foldl g s) := by
  induction l generalizing s with
  | nil => exact h
  | cons x r ih => exact ih (hg s x h)

theorem Sound.foldl_fst {α β : Type} {g : State × β → α → State × β} (hg : ∀ p x, Sound Q p.1 → Sound Q (g p x).1) (l : List α)
    {p : State × β} (h : Sound Q p.1) : Sound Q (l.foldl g p).1 := by
  induction l generalizing p with
  | nil => exact h
  | cons x r ih => exact ih (hg p x h)

theorem Sound.foldr {α : Type} {g : α → State → State} (hg : ∀ x s, Sound Q s → Sound Q (g x s)) (l : List α) (h : Sound Q s) :
    Sound Q (l.foldr g s) := by
  induction l with
  | nil => exact h
  | cons x r ih => exact hg x _ ih

theorem Sound.ite {c : Prop} [Decidable c] (h : Sound Q s) (k : Sound Q t) : Sound Q (if c then s else t) := by
  split
  · exact h
  · exact k

theorem SoundOut.next (h : Sound Q s) : SoundOut Q (.next s) := fun _ e => by cases e; exact h

theorem SoundOut.fault {x : Fault} : SoundOut Q (.fault x) := fun _ e => nomatch e

theorem SoundOut.refused {x : Refusal} : SoundOut Q (.refused x) := fun _ e => nomatch e

theorem SoundOut.ite {c : Prop} [Decidable c] {x y : Host.Outcome State Fault Refusal} (h : SoundOut Q x) (k : SoundOut Q y) :
    SoundOut Q (if c then x else y) := by
  split
  · exact h
  · exact k

theorem SoundOpt.some (h : Sound Q s) : SoundOpt Q (some s) := fun _ e => by cases e; exact h

theorem SoundOpt.none : SoundOpt Q none := fun _ e => nomatch e

theorem SoundOpt.ite {c : Prop} [Decidable c] {x y : Option State} (h : SoundOpt Q x) (k : SoundOpt Q y) :
    SoundOpt Q (if c then x else y) := by
  split
  · exact h
  · exact k

theorem SoundOpt.map {g : State → State} {o : Option State} (h : SoundOpt Q o) (hg : ∀ s, Sound Q s → Sound Q (g s)) : SoundOpt Q (o.map g) := by
  cases o with
  | none => exact .none
  | some x => exact .some (hg x (h x rfl))

theorem SoundOpt.getD {o : Option State} (h : SoundOpt Q o) (k : Sound Q s) : Sound Q (o.getD s) := by
  cases o with
  | none => exact k
  | some x => exact h x rfl

theorem SoundCfg.inl (h : Sound Q s) : SoundCfg Q (.inl s) := fun _ e => by cases e; exact h

theorem SoundCfg.inr {n : Nat} : SoundCfg Q (.inr n) := fun _ e => nomatch e

theorem SoundCfg.ite {c : Prop} [Decidable c] {x y : CfgWrite} (h : SoundCfg Q x) (k : SoundCfg Q y) : SoundCfg Q (if c then x else y) := by
  split
  · exact h
  · exact k

theorem Sound.snd_eq {α : Type} {p : α × State} {a : α} (h : Sound Q p.2) (e : p = (a, t)) : Sound Q t := by subst e; exact h

theorem Sound.fst_eq {α : Type} {p : State × α} {a : α} (h : Sound Q p.1) (e : p = (t, a)) : Sound Q t := by subst e; exact h

end Rules

variable {Q : Prop} {s : State}

/-! ### The accessors of the state (Machine/Access.lean) -/

theorem modFib_sound {f g} (h : Sound Q s) : Sound Q (State.modFib s f g) := .set h

theorem modCore_sound {c g} (h : Sound Q s) : Sound Q (State.modCore s c g) := .set h

theorem modSlot_sound {n g} (h : Sound Q s) : Sound Q (State.modSlot s n g) := .set h

theorem modTeam_sound {t g} (h : Sound Q s) : Sound Q (State.modTeam s t g) := .set h

theorem modGrid_sound {g h'} (h : Sound Q s) : Sound Q (State.modGrid s g h') := .set h

theorem modPart_sound {p g} (h : Sound Q s) : Sound Q (State.modPart s p g) := .set h

theorem modCtx_sound {c g} (h : Sound Q s) : Sound Q (State.modCtx s c g) := .set h

theorem modVi_sound {n g} (h : Sound Q s) : Sound Q (State.modVi s n g) := .set h

theorem modQueue_sound {q g} (h : Sound Q s) : Sound Q (State.modQueue s q g) := .set h

theorem modLine_sound {n g} (h : Sound Q s) : Sound Q (State.modLine s n g) := .set h

theorem modStack_sound {n g} (h : Sound Q s) : Sound Q (State.modStack s n g) := .set h

theorem modMbox_sound {m g} (h : Sound Q s) : Sound Q (State.modMbox s m g) := .set h

theorem modMgmt_sound {g} (h : Sound Q s) : Sound Q (State.modMgmt s g) := .set h

theorem drawFree_sound (h : Sound Q s) : Sound Q (State.drawFree s).2 := .set h

theorem writeReg_sound {fid r x} (h : Sound Q s) : Sound Q (writeReg s fid r x) := by
  unfold writeReg
  split
  · exact h
  · split
    · exact modFib_sound h
    · split
      · exact modSlot_sound h
      · exact h

theorem addOp_sound {o} (h : Sound Q s) : Sound Q (State.addOp s o) := by
  unfold State.addOp
  extract_lets s1
  have hs1 : Sound Q s1 := by
    unfold s1
    split
    · split
      · exact h
      · exact modFib_sound h
    · exact h
  exact .set hs1

theorem endOp_sound {o err} (h : Sound Q s) : Sound Q (State.endOp s o err) := by
  unfold State.endOp
  extract_lets s1
  have hs1 : Sound Q s1 := .set h
  split
  · split
    · exact modFib_sound hs1
    · exact hs1
  · exact hs1

theorem setOp_sound {o} (h : Sound Q s) : Sound Q (State.setOp s o) := .set h

theorem pmCount_sound {c slot ev n} (h : Sound Q s) : Sound Q (State.pmCount s c slot ev n) := by
  unfold State.pmCount
  split
  · exact h
  · exact modCore_sound h

/-! ### Main memory, the home slice, the L1 and translation (Machine/MemSys.lean) -/

theorem signal_sound {fn irq} (h : Sound Q s) : Sound Q (signal s fn irq) := by
  unfold signal
  split
  · exact modMgmt_sound h
  · exact h

theorem rmThreshold_sound {bank row} (h : Sound Q s) : Sound Q (rmThreshold s bank row) := by
  unfold rmThreshold
  extract_lets st k had alert s1 s2 _
  have hs1 : Sound Q s1 := modStack_sound h
  have hs2 : Sound Q s2 := .ite hs1 (signal_sound hs1)
  exact .set hs2

theorem activate_sound {ln} (h : Sound Q s) : Sound Q (activate s ln) := by
  unfold activate
  extract_lets p b n _ s1
  have hs1 : Sound Q s1 := .set h
  split
  · exact h
  · split
    · exact rmThreshold_sound hs1
    · exact hs1

theorem setMd_sound {ln owner state} (h : Sound Q s) : Sound Q (State.setMd s ln owner state) := modLine_sound h

theorem setPoison_sound {ln p} (h : Sound Q s) : Sound Q (State.setPoison s ln p) := modLine_sound h

theorem tellTo_sound {what ln to_} (h : Sound Q s) : Sound Q (State.tellTo s what ln to_) := modMgmt_sound h

theorem tell_sound {what ln} (h : Sound Q s) : Sound Q (State.tell s what ln) := tellTo_sound h

theorem askFor_sound {ln r u} (h : Sound Q s) : Sound Q (askFor s ln r u) := by
  unfold askFor
  split
  · exact h
  · extract_lets l
    split
    · exact h
    · exact modLine_sound (.foldl (fun _ _ k1 => tellTo_sound k1) _ h)

theorem gather_sound {ln u} (h : Sound Q s) : Sound Q (gather s ln u) := by
  unfold gather
  split
  · exact modLine_sound h
  · exact .foldl (fun _ _ k1 => tellTo_sound k1) _ h

theorem uncorrectable_sound {ln} (h : Sound Q s) : Sound Q (uncorrectable s ln) := modStack_sound (setPoison_sound h)

theorem remapError_sound {ln} (h : Sound Q s) : Sound Q (remapError s ln) := by
  unfold remapError
  extract_lets p s1 _ s1' _
  have hs1 : Sound Q s1 := modStack_sound h
  have hs1' : Sound Q s1' := modStack_sound h
  split
  · exact .set hs1
  · exact .set hs1'
  · exact h

theorem badMeta_sound {ln} (h : Sound Q s) : Sound Q (badMeta s ln) := modLine_sound (tellTo_sound (tellTo_sound (uncorrectable_sound h)))

theorem l3Room_sound {ln} (h : Sound Q s) : Sound Q (l3Room s ln) := by
  unfold l3Room
  split
  · exact h
  · extract_lets n held d out s1
    have hd : Sound Q d.2 := drawFree_sound h
    have hs1 : Sound Q s1 := .ite (activate_sound hd) hd
    split
    · exact h
    · exact modLine_sound hs1

theorem eccRead_sound {ln} (h : Sound Q s) : Sound Q (eccRead s ln) := by
  unfold eccRead
  extract_lets s1 _
  have hs1 : Sound Q s1 := by
    unfold s1
    split
    · exact modStack_sound h
    · exact uncorrectable_sound h
    · exact badMeta_sound h
    · split
      · exact badMeta_sound h
      · exact h
  exact .set hs1

theorem fetchLine_sound {ln nt} (h : Sound Q s) : Sound Q (fetchLine s ln nt) := by
  unfold fetchLine
  split
  · exact h
  · extract_lets s0 s4
    have hs0 : Sound Q s0 := remapError_sound (.ite h (l3Room_sound h))
    have hs4 : Sound Q s4 := eccRead_sound (activate_sound hs0)
    split
    · exact hs4
    · exact modLine_sound hs4

theorem undoCapture_sound {ln} (h : Sound Q s) : Sound Q (undoCapture s ln) := by
  unfold undoCapture
  split
  · exact h
  · extract_lets p pt l mark e
    have hmark : ∀ x1, Sound Q x1 → Sound Q (mark x1) := fun _ k1 => modLine_sound k1
    split
    · exact h
    · split
      · split
        · exact hmark _ (modPart_sound h)
        · exact hmark _ (activate_sound (modPart_sound (.setMem h (Mem.writeL_wf h.mem_wf _ _))))
      · split
        · exact hmark _ h
        · exact h

theorem compWrite_sound {ln data mask} (h : Sound Q s) : Sound Q (compWrite s ln data mask) := by
  unfold compWrite
  extract_lets page m1 i _
  split
  · exact .setMem h (Mem.writeMask_wf h.mem_wf _ _ _ _)
  · exact .set h

theorem lineWrite_sound {ln data mask} (h : Sound Q s) : Sound Q (lineWrite s ln data mask) := by
  unfold lineWrite
  split
  · exact compWrite_sound h
  · exact .setMem h (Mem.writeMask_wf h.mem_wf _ _ _ _)

theorem recallData_sound {ln} (h : Sound Q s) : Sound Q (recallData s ln) := by
  unfold recallData
  extract_lets s1 d
  have hs1 : Sound Q s1 := undoCapture_sound h
  have hd : Sound Q d.2 := drawFree_sound hs1
  exact modLine_sound (lineWrite_sound hd)

theorem snoopData_sound {ln} (h : Sound Q s) : Sound Q (snoopData s ln) := by
  unfold snoopData
  split
  · exact modMgmt_sound (recallData_sound h)
  · exact h

theorem homeRead_sound {ln nt} (h : Sound Q s) : Sound Q (homeRead s ln nt) := by
  unfold homeRead
  extract_lets s1 m s2
  have hs1 : Sound Q s1 := fetchLine_sound h
  have hs2 : Sound Q s2 := gather_sound hs1
  split
  · exact hs1
  · split
    · exact setMd_sound (recallData_sound hs2)
    · exact setMd_sound (recallData_sound hs2)
    · split
      · exact setMd_sound (snoopData_sound hs2)
      · exact hs2
    · exact hs2

theorem homeTakes_sound {ln} (h : Sound Q s) : Sound Q (homeTakes s ln) := by
  unfold homeTakes
  split
  · exact h
  · extract_lets m s1
    have hs1 : Sound Q s1 := gather_sound h
    split
    · exact hs1
    · exact setMd_sound (recallData_sound hs1)
    · exact setMd_sound (recallData_sound hs1)
    · exact setMd_sound (.ite (snoopData_sound hs1) hs1)
    · exact setMd_sound hs1

theorem dropOwn_sound {ln words} (h : Sound Q s) : Sound Q (dropOwn s ln words) := modLine_sound h

theorem homeWrite_sound {ln data mask} (h : Sound Q s) : Sound Q (homeWrite s ln data mask) := by
  unfold homeWrite
  split
  · exact h
  · split
    · split
      · exact dropOwn_sound (.setMem h (Mem.writeMask_wf h.mem_wf _ _ _ _))
      · exact h
    · extract_lets s0 s1 s2
      have hs0 : Sound Q s0 := fetchLine_sound h
      have hs1 : Sound Q s1 := undoCapture_sound (homeTakes_sound hs0)
      have hs2 : Sound Q s2 := .ite (setPoison_sound hs1) hs1
      split
      · exact hs0
      · exact dropOwn_sound (lineWrite_sound hs2)

theorem homeWriteN_sound {a n v} (h : Sound Q s) : Sound Q (homeWriteN s a n v) := homeWrite_sound h

theorem countRequest_sound {c ln s1} (hs1 : Sound Q s1) : Sound Q (countRequest s c ln s1) := by
  unfold countRequest
  split
  · exact pmCount_sound hs1
  · extract_lets s2
    have hs2 : Sound Q s2 := pmCount_sound (pmCount_sound hs1)
    split
    · exact pmCount_sound hs2
    · exact hs2

theorem cleanLine_sound {c ln} (h : Sound Q s) : Sound Q (cleanLine s c ln) := by
  unfold cleanLine
  extract_lets l s0 s1
  have hs0 : Sound Q s0 := homeWrite_sound h
  have hs1 : Sound Q s1 := .ite (pmCount_sound hs0) hs0
  exact modCore_sound hs1

theorem ownRoom_sound {c ln} (h : Sound Q s) : Sound Q (ownRoom s c ln) := by
  unfold ownRoom
  split
  · split
    · exact h
    · exact modLine_sound (cleanLine_sound h)
  · exact h

theorem freshWords_sound {c ln m} (h : Sound Q s) : Sound Q (freshWords s c ln m) := modCore_sound h

theorem registerWords_sound {c ln m} (h : Sound Q s) : Sound Q (registerWords s c ln m) := by
  unfold registerWords
  extract_lets s1
  have hs1 : Sound Q s1 := ownRoom_sound h
  exact modLine_sound (freshWords_sound hs1)

theorem writeBack_sound {c ln} (h : Sound Q s) : Sound Q (writeBack s c ln) := by
  unfold writeBack
  extract_lets d
  split
  · exact h
  · exact registerWords_sound (cleanLine_sound (ownRoom_sound h))

theorem writeBackAll_sound {c} (h : Sound Q s) : Sound Q (writeBackAll s c) := .foldl (fun _ _ k1 => writeBack_sound k1) _ h

theorem l1Room_sound {c ln} (h : Sound Q s) : Sound Q (l1Room s c ln) := by
  unfold l1Room
  extract_lets k d out
  have hd : Sound Q d.2 := drawFree_sound h
  split
  · exact h
  · exact modCore_sound (writeBack_sound hd)

theorem l1Fill_sound {c ln nt} (h : Sound Q s) : Sound Q (l1Fill s c ln nt) := by
  unfold l1Fill
  extract_lets s1 s2
  have hs1 : Sound Q s1 := homeRead_sound h
  have hs2 : Sound Q s2 := l1Room_sound (countRequest_sound hs1)
  exact modCore_sound hs2

theorem l1Read_sound {c a n nt uncached} (h : Sound Q s) : Sound Q (l1Read s c a n nt uncached).2.2 := by
  unfold l1Read
  extract_lets ln o l s1 s1' l1 s2
  have hs1 : Sound Q s1 := homeRead_sound h
  have hs1' : Sound Q s1' := l1Fill_sound h
  have hs2 : Sound Q s2 := .ite (modCore_sound hs1') hs1'
  split
  · exact hs1
  · split
    · exact h
    · exact hs2

theorem l1Write_sound {c a n v} (h : Sound Q s) : Sound Q (l1Write s c a n v) := by
  unfold l1Write
  extract_lets ln o
  exact modCore_sound (l1Room_sound h)

theorem selfInvalidate_sound {c} (h : Sound Q s) : Sound Q (selfInvalidate s c) := modCore_sound h

theorem cacheEntry_sound {c ctx i} (h : Sound Q s) : Sound Q (cacheEntry s c ctx i) := by
  unfold cacheEntry
  split
  · exact h
  · exact modCore_sound h

theorem walkRead_sound {va lvl table} (h : Sound Q s) : Sound Q (walkRead va lvl table s) := by
  induction lvl generalizing table s with
  | zero => exact h
  | succ lvl ih =>
    simp only [walkRead]
    split
    · exact homeRead_sound h
    · exact ih (homeRead_sound h)

theorem walkReads_sound {ctx va} (h : Sound Q s) : Sound Q (walkReads ctx va s) := walkRead_sound h

theorem tlbAdd_sound {c ctx va e big} (h : Sound Q s) : Sound Q (tlbAdd s c ctx va e big) := modCore_sound h

theorem fillTlb_sound {c ctx va icl write} (h : Sound Q s) : Sound Q (fillTlb s c ctx va icl write) := by
  unfold fillTlb
  split
  · exact h
  · extract_lets s1
    have hs1 : Sound Q s1 := pmCount_sound (walkReads_sound h)
    split
    · split
      · exact tlbAdd_sound hs1
      · exact hs1
    · exact hs1

theorem writeVirt_sound {ctx va l captured} (h : Sound Q s) : SoundOpt Q (writeVirt s ctx va l captured) := by
  unfold writeVirt
  extract_lets s0
  have hs0 : Sound Q s0 := walkReads_sound h
  split
  · extract_lets ln mask t
    have ht : Sound Q t := homeTakes_sound (fetchLine_sound hs0)
    exact .some (.ite (homeWriteN_sound hs0) (.ite ht (dropOwn_sound (lineWrite_sound ht))))
  · exact .none

theorem virtReads_sound {ctx va n} (h : Sound Q s) : Sound Q (virtReads s ctx va n) := by
  unfold virtReads
  extract_lets s0
  have hs0 : Sound Q s0 := walkReads_sound h
  split
  · exact .foldl (fun _ _ k1 => homeRead_sound k1) _ hs0
  · exact hs0

/-! ### Records, chunks and replay (Machine/Record.lean) -/

theorem addItemAt_sound {fid ric addr data} (h : Sound Q s) : Sound Q (addItemAt s fid ric addr data) := by
  unfold addItemAt
  split
  · exact modFib_sound h
  · exact h

theorem addItem_sound {fid addr data} (h : Sound Q s) : Sound Q (addItem s fid addr data) := addItemAt_sound h

theorem addItemsAt_sound {fid ric addr size data} (h : Sound Q s) : Sound Q (addItemsAt s fid ric addr size data) := by
  unfold addItemsAt
  split
  · exact addItemAt_sound (addItemAt_sound h)
  · exact addItemAt_sound h

theorem addItems_sound {fid addr size data} (h : Sound Q s) : Sound Q (addItems s fid addr size data) := addItemsAt_sound h

theorem modRecorder_sound {p k g} (h : Sound Q s) : Sound Q (modRecorder s p k g) := modPart_sound h

theorem emit_sound {p k r} (h : Sound Q s) : Sound Q (emit s p k r) := by
  unfold emit
  split
  · exact h
  · exact modRecorder_sound (.ite (pmCount_sound h) h)

theorem diverge_sound {fid sub got exp} (h : Sound Q s) : Sound Q (diverge s fid sub got exp) := modFib_sound h

theorem popLog_sound {fid r} (h : Sound Q s) : Sound Q (popLog s fid r) := modFib_sound h

theorem meetRec_sound {fid r ln seq} (h : Sound Q s) : Sound Q (meetRec s fid r ln seq) := modFib_sound h

theorem replayChunk_sound {fid} (h : Sound Q s) : Sound Q (replayChunk s fid) := by
  unfold replayChunk
  split
  · exact h
  · split
    · split
      · extract_lets h' bp s1
        have hs1 : Sound Q s1 := modFib_sound (popLog_sound h)
        split
        · exact hs1
        · exact diverge_sound hs1
      · exact h
    · exact h

theorem chunkEnd_sound {fid reason freed} (h : Sound Q s) : Sound Q (chunkEnd s fid reason freed) := by
  unfold chunkEnd
  split
  · exact h
  · extract_lets p r d x
    split
    · split
      · exact h
      · exact modFib_sound (emit_sound h)
    · split
      · exact replayChunk_sound h
      · exact h

theorem noteRec_sound {p fid r} (h : Sound Q s) : Sound Q (noteRec s p fid r) := by
  unfold noteRec
  split
  · exact modFib_sound h
  · exact emit_sound (chunkEnd_sound h)

theorem noteLate_sound {fid} (h : Sound Q s) : Sound Q (noteLate s fid) := by
  unfold noteLate
  split
  · exact h
  · extract_lets p
    split
    · exact h
    · exact .foldl (fun _ _ k1 => emit_sound k1) _ (modFib_sound (chunkEnd_sound h))

theorem endLogs_sound {p reason} (h : Sound Q s) : Sound Q (endLogs s p reason) :=
  .foldl (fun _ _ k1 => .ite k1 (modRecorder_sound (emit_sound k1))) _ (modPart_sound (.foldl (fun _ _ k1 => chunkEnd_sound k1) _ h))

theorem markLost_sound {p} (h : Sound Q s) : Sound Q (markLost s p) := by
  unfold markLost
  extract_lets s1
  have hs1 : Sound Q s1 := modPart_sound h
  exact .set hs1

theorem cairnLost_sound {p} (h : Sound Q s) : Sound Q (cairnLost s p) := endLogs_sound (markLost_sound h)

theorem appendPage_sound {p bytes} (h : Sound Q s) : SoundOpt Q (appendPage s p bytes) := by
  unfold appendPage
  extract_lets t full page s1
  have hs1 : Sound Q s1 := modPart_sound (.setMem h (Mem.writeL_wf h.mem_wf _ _))
  split
  · exact .none
  · exact .some (.ite (.ite (markLost_sound hs1) (cairnLost_sound hs1)) hs1)

theorem appendRecords_sound {p k} (h : Sound Q s) : Sound Q (appendRecords s p k) := by
  unfold appendRecords
  extract_lets x now last hdr body
  split
  · exact h
  · split
    · next _ _ e1 =>
        exact modRecorder_sound (appendPage_sound h _ e1)
    · exact h

theorem appendLaunches_sound {p} (h : Sound Q s) : Sound Q (appendLaunches s p) := by
  unfold appendLaunches
  split
  · exact h
  · extract_lets s' t now
    have hs' : Sound Q s' := .ite (appendRecords_sound h) h
    split
    · next _ _ e1 =>
        exact modPart_sound (appendPage_sound hs' _ e1)
    · exact hs'

theorem flushRecorders_sound {p} (h : Sound Q s) : Sound Q (flushRecorders s p) :=
  .foldl (fun _ _ k1 => .foldl (fun _ _ k2 => appendRecords_sound k2) _ k1) _ (.foldl (fun _ _ k1 => appendLaunches_sound k1) _ h)

theorem ifRecorded_sound {old p} (h : Sound Q old) (hs : Sound Q s) : Sound Q (ifRecorded old p s) := by
  unfold ifRecorded
  split
  · exact h
  · exact hs

theorem mismatch_sound {fid} (h : Sound Q s) : Sound Q (mismatch s fid) := diverge_sound h

theorem produce_sound {fid kind ric mid seq ln at_} (h : Sound Q s) : Sound Q (produce s fid kind ric mid seq ln at_) := by
  unfold produce
  extract_lets p s1 part same
  have hs1 : Sound Q s1 := chunkEnd_sound h
  split
  · exact noteRec_sound h
  · split
    · split
      · exact hs1
      · split
        · split
          · exact meetRec_sound hs1
          · exact mismatch_sound hs1
        · split
          · exact hs1
          · exact mismatch_sound hs1
    · exact h

theorem valueRead_sound {fid src idx now} (h : Sound Q s) : Sound Q (valueRead s fid src idx now).2 := by
  unfold valueRead
  split
  · exact h
  · extract_lets p s1 same value
    have hs1 : Sound Q s1 := chunkEnd_sound h
    split
    · exact produce_sound h
    · split
      · split
        · exact hs1
        · split
          · split
            · exact meetRec_sound hs1
            · exact mismatch_sound hs1
          · exact mismatch_sound hs1
      · exact h

theorem logUwrite_sound {fid reg leader ric div val} (h : Sound Q s) : Sound Q (logUwrite s fid reg leader ric div val) := by
  unfold logUwrite
  split
  · exact h
  · extract_lets n
    exact modFib_sound (produce_sound h)

theorem putS_sound {fid sd leader ric div val} (h : Sound Q s) : Sound Q (putS s fid sd leader ric div val) := by
  unfold putS
  split
  · exact h
  · exact modFib_sound (logUwrite_sound h)

theorem clearCopies_sound {ln} (h : Sound Q s) : Sound Q (clearCopies s ln) := .foldl (fun _ _ k1 => modCore_sound (writeBack_sound k1)) _ h

theorem dropLine_sound {ln vline f} (h : Sound Q s) : Sound Q (dropLine s ln vline f) := by
  unfold dropLine
  split
  · exact tellTo_sound h
  · extract_lets c s1 p
    have hs1 : Sound Q s1 := modCore_sound (writeBack_sound h)
    split
    · exact noteRec_sound hs1
    · exact hs1

theorem orderRecs_sound {fid kind ric mid op seq opShift ln} (h : Sound Q s) : Sound Q (orderRecs s fid kind ric mid op seq opShift ln) := by
  unfold orderRecs
  extract_lets s1
  have hs1 : Sound Q s1 := .ite (produce_sound h) h
  exact produce_sound hs1

theorem lineAccess_sound {fid ric ln va kind} (h : Sound Q s) : Sound Q (lineAccess s fid ric ln va kind) := by
  unfold lineAccess
  extract_lets p vl on s1 r _ s1'
  have hs1 : Sound Q s1 := .ite h (clearCopies_sound h)
  have hs1' : Sound Q s1' := modLine_sound h
  split
  · exact h
  · split
    · exact orderRecs_sound (pmCount_sound (modLine_sound hs1))
    · split
      · exact hs1'
      · split
        · exact hs1'
        · extract_lets s2 s3 s4
          have hs2 : Sound Q s2 := by
            unfold s2
            split
            · split
              · exact dropLine_sound hs1'
              · exact hs1'
            · exact hs1'
          have hs3 : Sound Q s3 := pmCount_sound (.ite hs2 (clearCopies_sound hs2))
          have hs4 : Sound Q s4 := .ite (modPart_sound hs3) hs3
          split
          · exact hs3
          · split
            · exact cairnLost_sound hs4
            · exact orderRecs_sound hs4

theorem scratchAccess_sound {fid ric ln kind} (h : Sound Q s) : Sound Q (scratchAccess s fid ric ln kind) := by
  unfold scratchAccess
  extract_lets c p e r s1
  have hs1 : Sound Q s1 := modCore_sound h
  split
  · exact h
  · split
    · exact orderRecs_sound (modCore_sound h)
    · split
      · exact hs1
      · split
        · exact hs1
        · extract_lets s2
          have hs2 : Sound Q s2 := by
            unfold s2
            split
            · split
              · exact noteRec_sound hs1
              · exact hs1
            · exact hs1
          split
          · exact cairnLost_sound hs2
          · exact orderRecs_sound hs2

theorem stepMet_sound {fid} (h : Sound Q s) : Sound Q (stepMet s fid) := by
  unfold stepMet
  split
  · exact h
  · split
    · exact h
    · extract_lets pass
      have hpass : ∀ x1 x2, Sound Q x1 → Sound Q (pass x1 x2) := fun _ _ k1 => .ite (modLine_sound k1) (.ite (modCore_sound k1) k1)
      exact modFib_sound (.foldl hpass _ h)

theorem dropNow_sound {fid r} (h : Sound Q s) : Sound Q (dropNow s fid r) := by
  unfold dropNow
  extract_lets c
  split
  · split
    · exact modLine_sound (modCore_sound (writeBack_sound h))
    · exact h
  · exact modCore_sound h

theorem replayDrops_sound {fid n} (h : Sound Q s) : Sound Q (replayDrops s fid n) := by
  induction n generalizing s with
  | zero => exact h
  | succ n ih =>
    unfold replayDrops
    split
    · exact h
    · split
      · split
        · exact h
        · exact ih (popLog_sound (dropNow_sound h))
      · exact h

theorem looseDrops_sound {p fid n} (h : Sound Q s) : Sound Q (looseDrops s p fid n) := by
  induction n generalizing s with
  | zero => exact h
  | succ n ih =>
    unfold looseDrops
    split
    · split
      · exact h
      · exact ih (modPart_sound (dropNow_sound h))
    · exact h

/-! ### Fault records, faults and the end of a word (Machine/Ops.lean) -/

theorem postSummary_sound {bits} (h : Sound Q s) : Sound Q (postSummary s bits) := by
  unfold postSummary
  extract_lets m log hi a
  split
  · exact signal_sound (modMgmt_sound (.setHost h (Mem.writeL_wf h.host_wf _ _)))
  · exact modMgmt_sound h

theorem postOne_sound {v} (h : Sound Q s) : SoundOpt Q (postOne s v) := by
  unfold postOne
  extract_lets q log
  split
  · exact .none
  · split
    · exact .none
    · extract_lets bits
      split
      · next _ _ e1 =>
          exact .some (signal_sound (modVi_sound (writeVirt_sound h _ e1)))
      · exact .none

theorem postHeld_sound {v n} (h : Sound Q s) : Sound Q (postHeld s v n) := by
  induction n generalizing s with
  | zero => exact h
  | succ n ih =>
    unfold postHeld
    split
    · next e => exact ih (postOne_sound h _ e)
    · exact h

theorem postRecord_sound {v bits soft} (h : Sound Q s) : Sound Q (postRecord s v bits soft) := by
  unfold postRecord
  extract_lets s0 q s1
  have hs0 : Sound Q s0 := .ite (postSummary_sound h) h
  have hs1 : Sound Q s1 := modVi_sound hs0
  split
  · exact modVi_sound hs0
  · exact postHeld_sound hs1

theorem postSystem_sound {p f addrCtx} (h : Sound Q s) : Sound Q (postSystem s p f addrCtx) := by
  unfold postSystem
  extract_lets f' v
  exact postRecord_sound h

theorem leaveSet_sound {f} (h : Sound Q s) : Sound Q (leaveSet s f) := modCore_sound h

theorem handOver_sound {f why} (h : Sound Q s) : Sound Q (handOver s f why) := by
  unfold handOver
  extract_lets n ric s1
  have hs1 : Sound Q s1 := modSlot_sound h
  split
  · exact pmCount_sound hs1
  · exact h

theorem goWaiting_sound {f why} (h : Sound Q s) : Sound Q (goWaiting s f why) := by
  unfold goWaiting
  split
  · exact handOver_sound (leaveSet_sound (modFib_sound h))
  · exact h

theorem yieldPoint_sound {f} (h : Sound Q s) : Sound Q (yieldPoint s f) := modFib_sound h

theorem goReady_sound {f} (h : Sound Q s) : Sound Q (goReady s f) := modFib_sound h

theorem recordTime_sound {fid f} (h : Sound Q s) : Sound Q (recordTime s fid f).2 := by
  unfold recordTime
  extract_lets logged added
  split
  · exact h
  · exact valueRead_sound h

theorem freeze_sound {fid f at_ what} (h : Sound Q s) : Sound Q (freeze s fid f at_ what) := by
  unfold freeze
  split
  · exact h
  · extract_lets s1 s2 t s3 flt bits s4 _
    have hs1 : Sound Q s1 := .ite (chunkEnd_sound h) h
    have hs2 : Sound Q s2 := by
      unfold s2
      split
      · exact produce_sound hs1
      · split
        · exact chunkEnd_sound hs1
        · exact hs1
    have ht : Sound Q t.2 := recordTime_sound hs2
    have hs3 : Sound Q s3 := ht
    have hs4 : Sound Q s4 := modFib_sound hs3
    exact .unissue (handOver_sound (leaveSet_sound hs4))

theorem raiseAt_sound {c f after} (h : Sound Q s) : Sound Q (raiseAt s c f after) := by
  unfold raiseAt
  extract_lets s1 what
  have hs1 : Sound Q s1 := modFib_sound h
  exact freeze_sound hs1

theorem raise_sound {c f} (h : Sound Q s) : Sound Q (raise s c f) := raiseAt_sound h

theorem raiseCause_sound {c cause} (h : Sound Q s) : Sound Q (raiseCause s c cause) := raise_sound h

theorem illegal_sound {c} (h : Sound Q s) : Sound Q (illegal s c) := raiseCause_sound h

theorem asyncFault_sound {fid cause sub what hgot hexp} (h : Sound Q s) : Sound Q (asyncFault s fid cause sub what hgot hexp) := by
  unfold asyncFault
  split
  · exact h
  · extract_lets l at_
    exact freeze_sound h

theorem resume_sound {fid} (h : Sound Q s) : Sound Q (resume s fid) := by
  unfold resume
  extract_lets h'
  exact modFib_sound h

theorem skipWord_sound {fid z} (h : Sound Q s) : Sound Q (skipWord s fid z) := modFib_sound h

theorem stall_sound {c w} (h : Sound Q s) : Sound Q (stall s c w) := by
  unfold stall
  extract_lets s1 s2
  have hs1 : Sound Q s1 := modFib_sound h
  have hs2 : Sound Q s2 := .unissue hs1
  split
  · exact goWaiting_sound hs2
  · exact hs2

theorem ricWrap_sound {fid} (h : Sound Q s) : Sound Q (ricWrap s fid) := by
  unfold ricWrap
  extract_lets n
  exact modFib_sound (produce_sound h)

theorem chunkLimit_sound {fid} (h : Sound Q s) : Sound Q (chunkLimit s fid) := by
  unfold chunkLimit
  split
  · split
    · exact chunkEnd_sound h
    · exact h
  · exact h

theorem countWord_sound {fid} (h : Sound Q s) : Sound Q (countWord s fid) := by
  unfold countWord
  split
  · exact h
  · extract_lets s1
    have hs1 : Sound Q s1 := .ite (ricWrap_sound h) (modFib_sound h)
    exact chunkLimit_sound hs1

theorem replayAfter_sound {fid} (h : Sound Q s) : Sound Q (replayAfter s fid) := by
  unfold replayAfter
  split
  · exact h
  · extract_lets s1
    have hs1 : Sound Q s1 := replayDrops_sound h
    split
    · split
      · exact replayDrops_sound (chunkEnd_sound hs1)
      · split
        · exact mismatch_sound hs1
        · exact hs1
    · exact hs1

theorem countIssue_sound {c} (h : Sound Q s) : Sound Q (countIssue s c) := by
  unfold countIssue
  extract_lets k sl n rest s1 s2
  have hs1 : Sound Q s1 := .ite (replayAfter_sound (countWord_sound h)) (countWord_sound h)
  have hs2 : Sound Q s2 := pmCount_sound (pmCount_sound (pmCount_sound hs1))
  exact .unissue hs2

theorem endRun_sound {c} (h : Sound Q s) : Sound Q (endRun s c) := by
  unfold endRun
  extract_lets s1
  have hs1 : Sound Q s1 := modFib_sound h
  split
  · exact yieldPoint_sound hs1
  · exact hs1

theorem stepDone_sound {c} (h : Sound Q s) : Sound Q (stepDone s c) := modFib_sound h

theorem advance_sound {c} (h : Sound Q s) : Sound Q (advance s c) := by
  unfold advance
  split
  · exact endRun_sound (modFib_sound h)
  · extract_lets s1
    have hs1 : Sound Q s1 := modFib_sound h
    split
    · exact modFib_sound hs1
    · exact hs1

theorem retire_sound {c} (h : Sound Q s) : Sound Q (retire s c) := stepDone_sound (advance_sound (countIssue_sound h))

theorem retireTo_sound {c target} (h : Sound Q s) : Sound Q (retireTo s c target) :=
  stepDone_sound (endRun_sound (modFib_sound (countIssue_sound h)))

theorem holdLanes_sound {c h'} (h : Sound Q s) : Sound Q (holdLanes s c h') := by
  unfold holdLanes
  extract_lets s1
  have hs1 : Sound Q s1 := modFib_sound h
  exact .unissue hs1

theorem holdSync_sound {c h'} (h : Sound Q s) : Sound Q (holdSync s c h') := by
  unfold holdSync
  extract_lets s1 s2
  have hs1 : Sound Q s1 := countIssue_sound h
  have hs2 : Sound Q s2 := modFib_sound hs1
  exact stepDone_sound (.ite (yieldPoint_sound hs2) hs2)

theorem regGate_sound {c f vs ds ss k} (h : Sound Q s) (hk : Sound Q k) : Sound Q (regGate s c f vs ds ss k) := by
  unfold regGate
  split
  · exact raiseCause_sound h
  · split
    · exact stall_sound h
    · exact hk

theorem gate_sound {u k} (h : Sound Q s) (hk : ∀ x1 x2, Sound Q (k x1 x2)) : SoundOut Q (gate s u k) := by
  unfold gate
  split
  · exact .fault
  · split
    · exact .fault
    · split
      · exact .next (illegal_sound h)
      · split
        · exact .next (raiseCause_sound h)
        · exact .next (regGate_sound h (hk _ _))

theorem event_sound (h : Sound Q s) : SoundOut Q (event s) := .next h

/-! ### Writing operands, and words of one shape (Machine/Operands.lean) -/

theorem wr_sound {c f r tag val} (h : Sound Q s) : Sound Q (Issue.wr c s f r tag val) := by
  unfold Issue.wr
  extract_lets act zer old t
  split
  · exact h
  · exact writeReg_sound h

theorem wrP_sound {c f r tag val} (h : Sound Q s) : Sound Q (Issue.wrP c s f r tag val) := wr_sound (wr_sound h)

theorem wrPred_sound {c f p val} (h : Sound Q s) : Sound Q (Issue.wrPred c s f p val) := modFib_sound h

theorem wrS_sound {c f sd val} (h : Sound Q s) : Sound Q (Issue.wrS c s f sd val) := putS_sound h

theorem lane1_sound {d srcs vc tag val} (h : Sound Q s) : SoundOut Q (lane1 s d srcs vc tag val) :=
  gate_sound h fun _ _ => retire_sound (wr_sound h)

theorem lane2_sound {d srcs ss tag val} (h : Sound Q s) : SoundOut Q (lane2 s d srcs ss tag val) :=
  gate_sound h fun _ _ => retire_sound (wrP_sound h)

theorem lanePred_sound {p srcs val} (h : Sound Q s) : SoundOut Q (lanePred s p srcs val) := gate_sound h fun _ _ => retire_sound (wrPred_sound h)

theorem uniform_sound {d srcs val} (h : Sound Q s) : SoundOut Q (uniform s d srcs val) := gate_sound h fun _ _ => retire_sound (wrS_sound h)

/-! ### Words that accrue flags, and class B words (Machine/Flags.lean) -/

theorem accrue_sound {fid fl} (h : Sound Q s) : Sound Q (accrue s fid fl) := modFib_sound h

theorem flag1_sound {d srcs vc val} (h : Sound Q s) : SoundOut Q (flag1 s d srcs vc val) :=
  gate_sound h fun _ _ => retire_sound (accrue_sound (wr_sound h))

theorem flag2_sound {d srcs vc val} (h : Sound Q s) : SoundOut Q (flag2 s d srcs vc val) :=
  gate_sound h fun _ _ => retire_sound (accrue_sound (wrP_sound h))

theorem flagPred_sound {p srcs val} (h : Sound Q s) : SoundOut Q (flagPred s p srcs val) :=
  gate_sound h fun _ _ => retire_sound (accrue_sound (wrPred_sound h))

theorem applyWrite_sound {fid leader ric div w} (h : Sound Q s) : Sound Q (applyWrite fid leader ric div s w) := by
  unfold applyWrite
  split
  · split
    · exact h
    · extract_lets old
      exact writeReg_sound h
  · exact putS_sound h

theorem issueB_sound {c f ws fl fp} (h : Sound Q s) : Sound Q (issueB s c f ws fl fp) := by
  unfold issueB
  extract_lets setb o s1
  have hs1 : Sound Q s1 := addOp_sound h
  split
  · exact retire_sound (.foldl (fun _ _ k1 => applyWrite_sound k1) _ (accrue_sound (endOp_sound hs1)))
  · exact retire_sound hs1

theorem classB1_sound {d srcs val} (h : Sound Q s) : SoundOut Q (classB1 s d srcs val) := gate_sound h fun _ _ => issueB_sound h

theorem classB2_sound {d srcs val} (h : Sound Q s) : SoundOut Q (classB2 s d srcs val) := gate_sound h fun _ _ => issueB_sound h

/-! ### Integer words (Machine/IntOps.lean) -/

theorem int2_sound {d a b tag op} (h : Sound Q s) : SoundOut Q (int2 s d a b tag op) := lane1_sound h

theorem int1_sound {d a tag op} (h : Sound Q s) : SoundOut Q (int1 s d a tag op) := lane1_sound h

theorem int3_sound {d a b op} (h : Sound Q s) : SoundOut Q (int3 s d a b op) := lane1_sound h

theorem pair2_sound {d a b op} (h : Sound Q s) : SoundOut Q (pair2 s d a b op) := lane2_sound h

theorem pairShift_sound {d a b op} (h : Sound Q s) : SoundOut Q (pairShift s d a b op) := lane2_sound h

theorem pairImm_sound {d a op} (h : Sound Q s) : SoundOut Q (pairImm s d a op) := lane2_sound h

theorem pred2_sound {d a b op} (h : Sound Q s) : SoundOut Q (pred2 s d a b op) := lanePred_sound h

theorem dot_sound {d a b op} (h : Sound Q s) : SoundOut Q (dot s d a b op) := lane1_sound h

theorem execMovFromUniform_sound {d sa} (h : Sound Q s) : SoundOut Q (execMovFromUniform d sa s) :=
  gate_sound h fun _ _ => retire_sound (wr_sound h)

/-! ### What follows at once from a step (Machine/Settle.lean) -/

theorem wakeOne_sound {fid} (h : Sound Q s) : Sound Q (wakeOne s fid) := by
  unfold wakeOne
  split
  · exact h
  · split
    · exact h
    · split
      · exact h
      · split
        · exact goReady_sound h
        · exact modFib_sound h

theorem freeAbsent_sound {fid} (h : Sound Q s) : Sound Q (freeAbsent s fid) := by
  unfold freeAbsent
  split
  · exact h
  · extract_lets gone m
    split
    · exact h
    · exact modFib_sound h

theorem releaseCross_sound {fid set} (h : Sound Q s) : Sound Q (releaseCross s fid set) := modFib_sound h

theorem settleCross_sound {fid} (h : Sound Q s) : Sound Q (settleCross s fid) := by
  unfold settleCross
  split
  · exact h
  · dsimp only
    split
    · exact releaseCross_sound h
    · split
      · exact h
      · exact .ite h (releaseCross_sound h)

theorem postDue_sound {fid} (h : Sound Q s) : Sound Q (postDue s fid) := by
  unfold postDue
  split
  · exact h
  · split
    · exact h
    · exact postRecord_sound (modFib_sound h)

theorem haltMark_sound {p} (h : Sound Q s) : Sound Q (haltMark s p) := modPart_sound h

theorem settleDiverge_sound {fid} (h : Sound Q s) : Sound Q (settleDiverge s fid) := by
  unfold settleDiverge
  split
  · exact h
  · extract_lets p s1
    have hs1 : Sound Q s1 := modPart_sound (modFib_sound h)
    exact haltMark_sound (asyncFault_sound hs1)

theorem settleBreak_sound {fid} (h : Sound Q s) : Sound Q (settleBreak s fid) := by
  unfold settleBreak
  split
  · extract_lets p
    exact haltMark_sound (asyncFault_sound (modFib_sound h))
  · exact h

theorem loggedFault_sound {fid r} (h : Sound Q s) : Sound Q (loggedFault s fid r) := asyncFault_sound h

theorem dueFault_sound {fid f} (h : Sound Q s) : SoundOpt Q (dueFault s fid f) := by
  unfold dueFault
  split
  · split
    · exact .some (loggedFault_sound h)
    · exact .none
  · split
    · exact .none
    · split
      · exact .some (asyncFault_sound h)
      · split
        · exact .some (asyncFault_sound h)
        · exact .none

theorem settleHalt_sound {fid} (h : Sound Q s) : Sound Q (settleHalt s fid) := by
  unfold settleHalt
  split
  · exact h
  · extract_lets p s1 stop
    have hs1 : Sound Q s1 := .ite (produce_sound (chunkEnd_sound h)) h
    split
    · exact h
    · split
      · next _ _ e1 =>
          exact dueFault_sound h _ e1
      · exact leaveSet_sound (modFib_sound hs1)

theorem settleQuiet_sound {p} (h : Sound Q s) : Sound Q (settleQuiet s p) := by
  unfold settleQuiet
  split
  · exact .foldl (fun _ _ k1 => writeBackAll_sound k1) _ (modPart_sound h)
  · exact h

theorem settleHeld_sound {fid} (h : Sound Q s) : Sound Q (settleHeld s fid) := by
  unfold settleHeld
  split
  · exact h
  · split
    · extract_lets s1
      have hs1 : Sound Q s1 := modFib_sound h
      exact goWaiting_sound hs1
    · exact h

theorem settleFence_sound (h : Sound Q s) : Sound Q (settleFence s) := by
  unfold settleFence
  split
  · exact h
  · exact .foldl (fun _ _ k1 => .foldl (fun _ _ k2 => .ite (postSystem_sound k2) k2) _ k1) _ (.set h)

theorem settle_sound (h : Sound Q s) : Sound Q (settle s) := by
  unfold settle
  extract_lets s1 s2
  have hs1 : Sound Q s1 := settleFence_sound h
  have hs2 : Sound Q s2 := .foldl (fun _ _ k1 => settleHalt_sound (settleHeld_sound (wakeOne_sound (settleCross_sound (freeAbsent_sound
    (settleBreak_sound (settleDiverge_sound (postDue_sound k1)))))))) _ hs1
  exact .foldl (fun _ _ k1 => settleQuiet_sound k1) _ hs2

/-! ### Loads, stores and atomics performed (Machine/Perform.lean) -/

theorem abortGrid_sound {gid status} (h : Sound Q s) : Sound Q (abortGrid s gid status) := by
  unfold abortGrid
  split
  · exact h
  · split
    · exact h
    · extract_lets s1 s2
      have hs1 : Sound Q s1 := modGrid_sound h
      have hs2 : Sound Q s2 := .ite (modPart_sound hs1) hs1
      exact .set hs2

theorem poisonFault_sound {o lanes va breg bidx} (h : Sound Q s) : Sound Q (poisonFault s o lanes va breg bidx) := by
  unfold poisonFault
  split
  · exact h
  · split
    · exact h
    · extract_lets l at_ s1
      have hs1 : Sound Q s1 := freeze_sound h
      split
      · exact abortGrid_sound hs1
      · exact hs1

theorem granted_sound {b ln write} (h : Sound Q s) : Sound Q (granted s b ln write) := by
  unfold granted
  split
  · exact h
  · exact modLine_sound h

theorem touchLines_sound {o kind} (h : Sound Q s) : Sound Q (touchLines s o kind) := by
  unfold touchLines
  refine .foldl (fun _ _ k1 => ?_) _ h
  extract_lets hit s1
  have hs1 : Sound Q s1 := pmCount_sound (lineAccess_sound k1)
  split
  · exact granted_sound hs1
  · exact hs1

theorem readAcc_sound {pre o a nt} (hs : Sound Q s) : Sound Q (readAcc pre s o a nt).2.2 := by
  unfold readAcc
  extract_lets ga ln s1
  have hs1 : Sound Q s1 := fetchLine_sound hs
  split
  · exact hs1
  · split
    · exact hs
    · exact l1Read_sound hs

theorem readAccs_sound {pre o nt as} (h : Sound Q s) : Sound Q (readAccs pre s o nt as).2 := by
  induction as generalizing s with
  | nil => exact h
  | cons a r ih => exact ih (readAcc_sound h)

theorem l1Drop_sound {c a n} (h : Sound Q s) : Sound Q (l1Drop s c a n) := by
  unfold l1Drop
  extract_lets m cut
  exact modCore_sound h

theorem slicePut_sound {c a n v} (h : Sound Q s) : Sound Q (slicePut s c a n v) := l1Drop_sound (homeWriteN_sound h)

theorem stageWrite_sound {tid t home pa n v} (h : Sound Q s) : Sound Q (stageWrite s tid t home pa n v) := by
  unfold stageWrite
  extract_lets s1
  have hs1 : Sound Q s1 := modTeam_sound h
  split
  · exact homeWriteN_sound hs1
  · exact hs1

theorem stir_sound {w ga n} (h : Sound Q s) : Sound Q (stir s w ga n) := by
  unfold stir
  extract_lets after
  exact .set h

theorem nearWrite_sound {o a v} (h : Sound Q s) : Sound Q (nearWrite s o a v) := modTeam_sound (l1Write_sound h)

theorem writeAcc_sound {o a} (h : Sound Q s) : Sound Q (writeAcc o s a) := by
  unfold writeAcc
  extract_lets ga s'
  have hs' : Sound Q s' := stir_sound h
  split
  · split
    · exact nearWrite_sound hs'
    · exact stageWrite_sound hs'
  · split
    · exact slicePut_sound (writeBack_sound hs')
    · exact l1Write_sound hs'

theorem askLines_sound {o} (h : Sound Q s) : Sound Q (askLines s o) := .foldl (fun _ _ k1 => .ite k1 (askFor_sound k1)) _ h

theorem releaseAt_sound {c x} (h : Sound Q s) : Sound Q (releaseAt s c x) := by
  unfold releaseAt
  split
  · exact h
  · exact writeBackAll_sound h

theorem acquireAt_sound {c x} (h : Sound Q s) : Sound Q (acquireAt s c x) := by
  unfold acquireAt
  split
  · exact h
  · exact selfInvalidate_sound h

theorem noteRelease_sound {fid} (h : Sound Q s) : Sound Q (noteRelease s fid) := by
  unfold noteRelease
  split
  · exact h
  · exact modTeam_sound (.set h)

theorem noteAcquire_sound {fid} (h : Sound Q s) : Sound Q (noteAcquire s fid) := by
  unfold noteAcquire
  split
  · exact h
  · exact modTeam_sound (.set h)

theorem releaseBy_sound {fid x} (h : Sound Q s) : Sound Q (releaseBy s fid x) := by
  unfold releaseBy
  split
  · exact h
  · exact noteRelease_sound (releaseAt_sound h)

theorem acquireBy_sound {fid x} (h : Sound Q s) : Sound Q (acquireBy s fid x) := by
  unfold acquireBy
  split
  · exact h
  · exact noteAcquire_sound (acquireAt_sound h)

theorem putRegs_sound {fid vd z res n} (h : Sound Q s) : Sound Q (putRegs s fid vd z res n) := by
  induction n with
  | zero => exact h
  | succ n ih => exact writeReg_sound ih

theorem endPoisoned_sound {o bad b} (h : Sound Q s) : Sound Q (endPoisoned s o bad b) := poisonFault_sound (endOp_sound h)

theorem performLoad_sound {o accs b k vd z acq} (h : Sound Q s) : Sound Q (performLoad s o accs b k vd z acq) := by
  unfold performLoad
  extract_lets s0 r bad s1
  have hs0 : Sound Q s0 := by
    unfold s0
    split
    · exact acquireAt_sound h
    · exact h
  have hr : Sound Q r.2 := readAccs_sound (touchLines_sound hs0)
  have hs1 : Sound Q s1 := endOp_sound (putRegs_sound hr)
  split
  · exact endPoisoned_sound hr
  · split
    · exact acquireBy_sound hs1
    · exact hs1

theorem performUload_sound {o a b sd div} (h : Sound Q s) : Sound Q (performUload s o a b sd div) := by
  unfold performUload
  extract_lets r
  have hr : Sound Q r.2.2 := readAcc_sound (touchLines_sound h)
  split
  · exact endPoisoned_sound hr
  · exact endOp_sound (putS_sound hr)

theorem touchScratch_sound {o kind} (h : Sound Q s) : Sound Q (touchScratch s o kind) := .foldl (fun _ _ k1 => scratchAccess_sound k1) _ h

theorem performLds_sound {o accs vd z} (h : Sound Q s) : Sound Q (performLds s o accs vd z) := by
  unfold performLds
  extract_lets res n
  exact endOp_sound (putRegs_sound (pmCount_sound (touchScratch_sound h)))

theorem execLoadDataReturn_sound {op} (h : Sound Q s) : SoundOut Q (execLoadDataReturn op s) := by
  unfold execLoadDataReturn
  refine event_sound ?_
  split
  · exact h
  · split
    · exact h
    · split
      · exact askLines_sound h
      · refine ifRecorded_sound h ?_
        split
        · exact performLoad_sound h
        · exact performUload_sound h
        · exact performLds_sound h
        · exact h

theorem performStore_sound {o accs rel} (h : Sound Q s) : Sound Q (performStore s o accs rel) := by
  unfold performStore
  extract_lets s0 s1 s2
  have hs0 : Sound Q s0 := by
    unfold s0
    split
    · exact releaseBy_sound h
    · exact h
  have hs1 : Sound Q s1 := .foldl (fun _ _ k1 => writeAcc_sound k1) _ (touchLines_sound hs0)
  have hs2 : Sound Q s2 := by
    unfold s2
    split
    · exact releaseAt_sound hs1
    · exact hs1
  exact endOp_sound hs2

theorem loosenAll_sound {w l} (h : Sound Q s) : Sound Q (loosenAll s w l) := .set h

theorem wroteScratch_sound {o l} (h : Sound Q s) : Sound Q (wroteScratch s o l) := loosenAll_sound (modTeam_sound h)

theorem performSts_sound {o accs} (h : Sound Q s) : Sound Q (performSts s o accs) := by
  unfold performSts
  extract_lets s1 s2
  have hs1 : Sound Q s1 := wroteScratch_sound (pmCount_sound (touchScratch_sound h))
  have hs2 : Sound Q s2 := modCore_sound hs1
  exact endOp_sound hs2

theorem execStorePerformed_sound {op} (h : Sound Q s) : SoundOut Q (execStorePerformed op s) := by
  unfold execStorePerformed
  refine event_sound ?_
  split
  · exact h
  · split
    · exact h
    · split
      · exact askLines_sound h
      · refine ifRecorded_sound h ?_
        split
        · split
          · exact h
          · exact performStore_sound h
        · exact performSts_sound h
        · exact h

theorem ownWord_sound {c a n} (h : Sound Q s) : Sound Q (ownWord s c a n) := by
  unfold ownWord
  split
  · exact h
  · exact registerWords_sound (l1Fill_sound h)

theorem atomRead_sound {o sc a} (h : Sound Q s) : Sound Q (atomRead s o sc a).2.2 := by
  unfold atomRead
  extract_lets c ga near r s1 s1'
  have hr : Sound Q r.2.2 := l1Read_sound h
  have hs1 : Sound Q s1 := homeRead_sound h
  have hs1' : Sound Q s1' := homeRead_sound (writeBack_sound h)
  split
  · split
    · exact hr
    · exact hs1
  · split
    · exact l1Read_sound (ownWord_sound h)
    · exact hs1'

theorem atomWrite_sound {o sc a v} (h : Sound Q s) : Sound Q (atomWrite s o sc a v) := by
  unfold atomWrite
  extract_lets c ga near s'
  have hs' : Sound Q s' := stir_sound h
  split
  · split
    · exact nearWrite_sound hs'
    · exact stageWrite_sound hs'
  · split
    · exact l1Write_sound hs'
    · exact slicePut_sound hs'

theorem atomLanes_sound {o op sc as} (h : Sound Q s) : Sound Q (atomLanes o op sc as s).2 := by
  induction as generalizing s with
  | nil => exact h
  | cons a r ih => exact ih (atomWrite_sound (atomRead_sound h))

theorem performAtom_sound {o op sc accs b vd z} (h : Sound Q s) : Sound Q (performAtom s o op sc accs b vd z) := by
  unfold performAtom
  extract_lets s0 t bad items r s1
  have hs0 : Sound Q s0 := setOp_sound h
  have ht : Sound Q t := touchLines_sound hs0
  have hitems : ∀ x1 x2, Sound Q x1 → Sound Q (items x1 x2) := fun _ _ k1 => addItemsAt_sound k1
  have hr : Sound Q r.2 := atomLanes_sound (touchLines_sound (noteLate_sound (.foldl hitems _ hs0)))
  have hs1 : Sound Q s1 := pmCount_sound hr
  split
  · exact endPoisoned_sound (touchLines_sound (noteLate_sound hs0))
  · exact endOp_sound (putRegs_sound hs1)

theorem ownersBack_sound {ln m} (h : Sound Q s) : Sound Q (ownersBack s ln m) := .foldl (fun _ _ k1 => writeBack_sound k1) _ h

theorem accAdd_sound {o ga p} (h : Sound Q s) : Sound Q (accAdd s o ga p) := by
  unfold accAdd
  extract_lets s0 s1
  have hs0 : Sound Q s0 := ownersBack_sound (writeBack_sound (stir_sound h))
  have hs1 : Sound Q s1 := homeRead_sound hs0
  exact slicePut_sound hs1

theorem fetchAccs_sound {accs} (h : Sound Q s) : Sound Q (fetchAccs s accs) := .foldl (fun _ _ k1 => homeRead_sound k1) _ h

theorem performAacc_sound {o f accs b} (h : Sound Q s) : Sound Q (performAacc s o f accs b) := by
  unfold performAacc
  extract_lets s0 bad
  have hs0 : Sound Q s0 := fetchAccs_sound (touchLines_sound h)
  split
  · exact endPoisoned_sound hs0
  · exact endOp_sound (.foldl (fun _ _ k1 => accAdd_sound k1) _ (pmCount_sound hs0))

theorem execAtomicPerformed_sound {op} (h : Sound Q s) : SoundOut Q (execAtomicPerformed op s) := by
  unfold execAtomicPerformed
  refine event_sound ?_
  split
  · exact h
  · split
    · exact h
    · split
      · exact askLines_sound h
      · refine ifRecorded_sound h ?_
        split
        · split
          · exact h
          · exact performAtom_sound h
        · exact performAacc_sound h
        · exact h

theorem execClassBComplete_sound {op} (h : Sound Q s) : SoundOut Q (execClassBComplete op s) := by
  unfold execClassBComplete
  refine event_sound ?_
  split
  · exact h
  · split
    · exact endOp_sound (.foldl (fun _ _ k2 => applyWrite_sound k2) _ (accrue_sound h))
    · exact h

theorem walkOne_sound {fid r} (h : Sound Q s) : Sound Q (walkOne fid s r) := by
  have hs : Sound Q (walkReads (s.viOf fid) r.1 s) := walkReads_sound h
  unfold walkOne
  dsimp only
  split
  · split
    · exact modFib_sound (tlbAdd_sound hs)
    · exact modFib_sound hs
  · split
    · exact .ite hs (modFib_sound hs)
    · exact hs

theorem execPageWalkComplete_sound {fid} (h : Sound Q s) : SoundOut Q (execPageWalkComplete fid s) := by
  unfold execPageWalkComplete
  refine event_sound ?_
  split
  · exact h
  · exact .foldl (fun _ _ k2 => walkOne_sound k2) _ h

/-! ### Words that access memory (Machine/MemInstr.lean) -/

theorem askWalk_sound {c pages} (h : Sound Q s) : Sound Q (askWalk s c pages) := stall_sound (modFib_sound (pmCount_sound h))

theorem flagErr_sound {fid flag} (h : Sound Q s) : Sound Q (flagErr s fid flag) := by
  unfold flagErr
  split
  · exact modFib_sound h
  · exact h

theorem checkFail_sound {c uni f} (h : Sound Q s) : Sound Q (checkFail s c uni f) := by
  unfold checkFail
  split
  · extract_lets ric g s1
    have hs1 : Sound Q s1 := postSystem_sound h
    exact askWalk_sound hs1
  · extract_lets s1
    have hs1 : Sound Q s1 := modFib_sound h
    exact raise_sound (.ite (flagErr_sound hs1) hs1)

theorem issueA_sound {c f kind} (h : Sound Q s) : Sound Q (issueA s c f kind) := retire_sound (modFib_sound (addOp_sound h))

theorem issueDone_sound {c f} (h : Sound Q s) : Sound Q (issueDone s c f) := by
  unfold issueDone
  extract_lets o
  exact retire_sound (endOp_sound (addOp_sound h))

theorem claimStaging_sound {c accs k} (h : Sound Q s) (hk : ∀ x1, Sound Q x1 → Sound Q (k x1)) : Sound Q (claimStaging s c accs k) := by
  unfold claimStaging
  split
  · extract_lets new s1
    have hs1 : Sound Q s1 := .ite h (.foldr (fun _ _ k1 => homeWriteN_sound k1) _ h)
    split
    · exact hk _ (modTeam_sound h)
    · split
      · exact hk _ (modTeam_sound hs1)
      · exact stall_sound h
  · exact hk _ h

theorem bufWordOf_sound {uni c f breg whole items size align need k} (h : Sound Q s) (hk : ∀ x1 x2 x3, Sound Q x1 → Sound Q (k x1 x2 x3)) :
    Sound Q (bufWordOf uni s c f breg whole items size align need k) := by
  unfold bufWordOf
  split
  · exact stall_sound h
  · split
    · exact stall_sound h
    · extract_lets reg
      split
      · exact checkFail_sound h
      · exact askWalk_sound h
      · exact hk _ _ _ (cacheEntry_sound h)

theorem bufWord_sound {c f breg whole items size align need k} (h : Sound Q s) (hk : ∀ x1 x2 x3, Sound Q x1 → Sound Q (k x1 x2 x3)) :
    Sound Q (bufWord s c f breg whole items size align need k) :=
  bufWordOf_sound h hk

theorem zeroRegs_sound {c f vd n} (h : Sound Q s) : Sound Q (zeroRegs s c f vd n) := by
  unfold zeroRegs
  split
  · exact h
  · exact putRegs_sound h

theorem loadWord_sound {d a b imm k acq} (h : Sound Q s) : SoundOut Q (loadWord s d a b imm k acq) := by
  unfold loadWord
  refine gate_sound h fun _ _ => ?_
  split
  · exact issueDone_sound (zeroRegs_sound h)
  · exact bufWord_sound h fun _ _ _ k2 => issueA_sound k2

theorem hashAccs_sound {fid accs} (h : Sound Q s) : Sound Q (hashAccs s fid accs) := .foldl (fun _ _ k1 => addItems_sound k1) _ h

theorem storeWord_sound {d a b imm k rel} (h : Sound Q s) : SoundOut Q (storeWord s d a b imm k rel) := by
  unfold storeWord
  extract_lets n
  refine gate_sound h fun _ _ => ?_
  split
  · exact issueDone_sound h
  · exact bufWord_sound h fun _ _ _ k2 => claimStaging_sound k2 fun _ k3 => issueA_sound (hashAccs_sound k3)

theorem ldsWord_sound {c f a imm size k} (h : Sound Q s) (hk : ∀ x1, Sound Q (k x1)) : Sound Q (ldsWord s c f a imm size k) := by
  unfold ldsWord
  split
  · exact stall_sound h
  · extract_lets t bytes base items flt accs gone lines
    have hflt : ∀ x1 x2 x3, Sound Q (flt x1 x2 x3) := fun _ _ _ => raise_sound h
    split
    · exact hflt _ _ _
    · split
      · exact hflt _ _ _
      · split
        · exact holdLanes_sound h
        · exact hk _

theorem ldsLoad_sound {d a imm n} (h : Sound Q s) : SoundOut Q (ldsLoad s d a imm n) := by
  unfold ldsLoad
  refine gate_sound h fun _ _ => ?_
  split
  · exact issueDone_sound (zeroRegs_sound h)
  · exact ldsWord_sound h fun _ => issueA_sound h

theorem stsStore_sound {d a imm n} (h : Sound Q s) : SoundOut Q (stsStore s d a imm n) := by
  unfold stsStore
  refine gate_sound h fun _ _ => ?_
  split
  · exact issueDone_sound h
  · exact ldsWord_sound h fun _ => issueA_sound (.foldl (fun _ _ k2 => addItems_sound k2) _ h)

theorem atomWord_sound {op n d a b sc} (h : Sound Q s) : SoundOut Q (atomWord s op n d a b sc) := by
  unfold atomWord
  refine gate_sound h fun _ _ => ?_
  split
  · exact issueDone_sound (zeroRegs_sound h)
  · exact bufWord_sound h fun _ _ _ k2 => claimStaging_sound k2 fun _ k3 => issueA_sound k3

theorem execPf_sound {a b lv} (h : Sound Q s) : SoundOut Q (execPf a b lv s) := by
  unfold execPf
  refine gate_sound h fun _ _ => .ite (stall_sound h) (issueDone_sound (.foldl (fun _ _ k => ?_) _ h))
  have hfill {c ctx va icl w} := fillTlb_sound (c := c) (ctx := ctx) (va := va) (icl := icl) (write := w) k
  refine .ite k ?_
  extract_lets s1
  split
  · exact .ite (l1Fill_sound hfill) (homeRead_sound hfill)
  · exact hfill

theorem execAacc_sound {d a b k} (h : Sound Q s) : SoundOut Q (execAacc d a b k s) := by
  unfold execAacc
  refine gate_sound h fun _ _ => ?_
  split
  · exact issueDone_sound h
  · extract_lets items
    split
    · exact raise_sound h
    · exact bufWord_sound h fun _ _ _ k2 => issueA_sound (.foldl (fun _ _ k3 => addItem_sound k3) _ k2)

theorem execArsv_sound {d b} (h : Sound Q s) : SoundOut Q (execArsv d b s) := by
  unfold execArsv
  refine gate_sound h fun _ _ => ?_
  split
  · exact issueDone_sound (zeroRegs_sound h)
  · extract_lets reg flt want
    have hflt : ∀ x1, Sound Q (flt x1) := fun _ => raise_sound h
    split
    · exact hflt _
    · split
      · exact hflt _
      · split
        · exact hflt _
        · extract_lets sh r s1
          have hs1 : Sound Q s1 := putRegs_sound h
          exact issueDone_sound (modFib_sound hs1)

theorem execUld_sound {d a b o} (h : Sound Q s) : SoundOut Q (execUld d a b o s) :=
  gate_sound h fun _ _ => bufWordOf_sound h fun _ _ _ k1 => issueA_sound k1

theorem execUst_sound {d a b o} (h : Sound Q s) : SoundOut Q (execUst d a b o s) :=
  gate_sound h fun _ _ => bufWordOf_sound h fun _ _ _ k1 => claimStaging_sound k1 fun _ k2 => issueA_sound (hashAccs_sound k2)

/-! ### Messages, queues and special registers (Machine/System.lean) -/

theorem popArrive_sound {m} (h : Sound Q s) : Sound Q (popArrive s m) := by
  unfold popArrive
  extract_lets p
  exact modPart_sound h

theorem slotReads_sound {n idx} (h : Sound Q s) : Sound Q (slotReads s n idx) := walkReads_sound h

theorem endSend_sound {m err} (h : Sound Q s) : Sound Q (endSend s m err) := by
  unfold endSend
  split
  · split
    · exact endOp_sound h
    · exact h
  · split
    · exact tellTo_sound h
    · exact h

theorem enterRing_sound {m ga} (h : Sound Q s) : Sound Q (enterRing s m ga) := by
  unfold enterRing
  extract_lets s1
  have hs1 : Sound Q s1 := .foldl (fun _ _ k1 => homeWriteN_sound k1) _ h
  exact endSend_sound (modMbox_sound (popArrive_sound hs1))

theorem holdArrival_sound {m c} (h : Sound Q s) : Sound Q (holdArrival s m c) := by
  unfold holdArrival
  extract_lets b _
  exact postSystem_sound (.set h)

theorem unhold_sound {m} (h : Sound Q s) : Sound Q (unhold s m) := .set h

theorem drainMbox_sound {n k} (h : Sound Q s) : Sound Q (drainMbox s n k) := by
  induction k generalizing s with
  | zero => exact h
  | succ k ih =>
    unfold drainMbox
    split
    · exact h
    · extract_lets b s0
      have hs0 : Sound Q s0 := slotReads_sound h
      split
      · exact h
      · split
        · split
          · exact h
          · exact holdArrival_sound (unhold_sound hs0)
        · exact ih (enterRing_sound (unhold_sound hs0))

theorem drainAll_sound (h : Sound Q s) : Sound Q (drainAll s) := .foldl (fun _ _ k1 => drainMbox_sound k1) _ h

theorem takeIn_sound {m} (h : Sound Q s) : Sound Q (takeIn s m) := by
  unfold takeIn
  extract_lets b _ s0
  have hs0 : Sound Q s0 := slotReads_sound h
  split
  · exact .set h
  · split
    · exact enterRing_sound hs0
    · exact holdArrival_sound hs0

theorem arrive_sound {m} (h : Sound Q s) : Sound Q (arrive s m) := by
  unfold arrive
  split
  · exact endSend_sound h
  · split
    · exact .set h
    · exact takeIn_sound h

theorem execMessageArrival_sound {mbox sender spart sseq payload} (h : Sound Q s) :
    SoundOut Q (execMessageArrival mbox sender spart sseq payload s) :=
  event_sound (arrive_sound h)

theorem execMailboxAdmissionSignal_sound {dev mbox} (h : Sound Q s) : SoundOut Q (execMailboxAdmissionSignal dev mbox s) :=
  event_sound (.ite h (.foldl (fun _ _ k1 => arrive_sound k1) _ (.set h)))

theorem execMsgSend_sound {a b} (h : Sound Q s) : SoundOut Q (execMsgSend a b s) :=
  gate_sound h fun _ _ => .ite (illegal_sound h) (issueA_sound (addItem_sound (.set h)))

theorem execMsgAccepted_sound {op} (h : Sound Q s) : SoundOut Q (execMsgAccepted op s) := by
  unfold execMsgAccepted
  refine event_sound ?_
  split
  · exact h
  · split
    · split
      · exact h
      · split
        · extract_lets m
          split
          · exact endOp_sound (releaseBy_sound h)
          · split
            · exact h
            · exact takeIn_sound (releaseBy_sound h)
        · split
          · exact h
          · exact endOp_sound (releaseBy_sound h)
    · exact h

theorem sendError_sound {op} (h : Sound Q s) : Sound Q (sendError s op) := by
  unfold sendError
  split
  · exact h
  · split
    · split
      · exact h
      · exact endOp_sound h
    · exact h

theorem popMessage_sound {c f d b n ga} (h : Sound Q s) : Sound Q (popMessage s c f d b n ga) := by
  unfold popMessage
  extract_lets m i s0 data s1 s2 p s2' put s3 s4
  have hs0 : Sound Q s0 := homeRead_sound (acquireBy_sound h)
  have hs1 : Sound Q s1 := modMbox_sound hs0
  have hs2 : Sound Q s2 := produce_sound hs1
  have hs2' : Sound Q s2' := .ite (modPart_sound hs2) hs2
  have hput : ∀ x1 x2 x3, Sound Q x1 → Sound Q (put x1 x2 x3) := fun _ _ _ k1 => putS_sound k1
  have hs3 : Sound Q s3 := .foldl (fun _ _ k1 => hput _ _ _ k1) _ hs2'
  have hs4 : Sound Q s4 := hput _ _ _ hs3
  exact issueDone_sound hs4

theorem execMsgRecv_sound {d a b} (h : Sound Q s) : SoundOut Q (execMsgRecv d a b s) := by
  unfold execMsgRecv
  refine gate_sound h fun _ _ => ?_
  extract_lets n m o reg off
  split
  · exact retire_sound (modFib_sound (endOp_sound (addOp_sound h)))
  · split
    · exact raise_sound h
    · split
      · exact stall_sound h
      · split
        · exact stall_sound h
        · split
          · exact stall_sound h
          · split
            · exact checkFail_sound h
            · exact askWalk_sound h
            · split
              · exact popMessage_sound h
              · exact h

theorem ringBell_sound {q v} (h : Sound Q s) : Sound Q (ringBell s q v) := by
  unfold ringBell
  extract_lets x w
  split
  · exact modQueue_sound h
  · exact h

theorem execQdbWrite_sound {q v} (h : Sound Q s) : SoundOut Q (execQdbWrite q v s) := event_sound (ringBell_sound h)

theorem execGlaunch_sound {a b} (h : Sound Q s) : SoundOut Q (execGlaunch a b s) := by
  unfold execGlaunch
  refine gate_sound h fun c f => ?_
  extract_lets n x sum k ric bad st
  have hbad : ∀ t, Sound Q t → Sound Q (bad t) := fun _ k => retire_sound (endOp_sound (addOp_sound (addItem_sound k)))
  have hst : Sound Q st := releaseAt_sound (virtReads_sound h)
  split
  · exact stall_sound h
  · split
    · exact hbad _ h
    · split
      · exact hbad _ hst
      · extract_lets s0 i slot s1
        have hs0 : Sound Q s0 := walkReads_sound hst
        split
        · exact stall_sound h
        · split
          · exact hbad _ hs0
          · split
            · exact stall_sound h
            · extract_lets s2 s3
              have hs1 : Sound Q s1 := lineAccess_sound hs0
              have hs2 : Sound Q s2 := lineAccess_sound (slicePut_sound hs1)
              have hs3 : Sound Q s3 := .foldr (fun _ _ k => slicePut_sound k) _ hs2
              exact issueDone_sound (addItem_sound (ringBell_sound hs3))

theorem sregRead_sound {c f i} (h : Sound Q s) : Sound Q (sregRead s c f i).2 := by
  unfold sregRead
  extract_lets p
  split
  · exact h
  · exact h
  · exact h
  · exact valueRead_sound h
  · exact valueRead_sound h
  · exact h
  · exact h
  · exact h
  · exact h
  · exact h

theorem fpstatWait_sound {c i k} (h : Sound Q s) (hk : Sound Q k) : Sound Q (fpstatWait s c i k) := by
  unfold fpstatWait
  split
  · exact stall_sound h
  · exact hk

theorem execSregRdVector_sound {d i} (h : Sound Q s) : SoundOut Q (execSregRdVector d i s) := by
  unfold execSregRdVector
  extract_lets wide
  exact gate_sound h fun _ _ => fpstatWait_sound h (.ite (retire_sound (wr_sound h)) (retire_sound (.ite (wrP_sound (sregRead_sound h))
    (wr_sound (sregRead_sound h)))))

theorem execSregRdUniform_sound {d i} (h : Sound Q s) : SoundOut Q (execSregRdUniform d i s) := by
  unfold execSregRdUniform
  refine gate_sound h (fun _ _ => fpstatWait_sound h ?_)
  extract_lets r
  have hr : Sound Q r.2 := by
    unfold r
    split
    · exact h
    · exact sregRead_sound h
  exact retire_sound (wrS_sound hr)

theorem execSregWr_sound {a i} (h : Sound Q s) : SoundOut Q (execSregWr a i s) := by
  unfold execSregWr
  refine gate_sound h fun _ _ => ?_
  extract_lets v
  split
  · exact illegal_sound h
  · exact fpstatWait_sound h (retire_sound (modFib_sound (logUwrite_sound h)))

theorem execTemit_sound {a ch} (h : Sound Q s) : SoundOut Q (execTemit a ch s) :=
  gate_sound h fun _ _ => .ite (stall_sound h) (retire_sound (pmCount_sound (modCore_sound h)))

theorem execCtrRd_sound {d n} (h : Sound Q s) :
    SoundOut Q (execCtrRd d n s) := gate_sound h fun _ _ => retire_sound (wrS_sound (valueRead_sound h))

theorem execCtrCtl_sound {a n} (h : Sound Q s) : SoundOut Q (execCtrCtl a n s) := by
  unfold execCtrCtl
  refine gate_sound h fun _ _ => ?_
  extract_lets v
  split
  · exact illegal_sound h
  · split
    · exact raiseCause_sound h
    · exact retire_sound (modCore_sound h)

theorem execRtag_sound {d g} (h : Sound Q s) : SoundOut Q (execRtag d g s) :=
  gate_sound h fun _ _ => .ite (stall_sound h) (retire_sound (wrS_sound h))

/-! ### Cairns (Machine/Cairn.lean) -/

theorem packetReads_sound {q} (h : Sound Q s) : Sound Q (packetReads s q) := virtReads_sound h

theorem applyMode_sound {p} (h : Sound Q s) : Sound Q (applyMode s p) := by
  unfold applyMode
  extract_lets t s1
  have hs1 : Sound Q s1 := by
    unfold s1
    split
    · exact modPart_sound h
    · exact h
  split
  · exact hs1
  · extract_lets rec_ s2
    have hs2 : Sound Q s2 := .ite (flushRecorders_sound (endLogs_sound hs1)) hs1
    exact modPart_sound hs2

theorem execModeChangeApply_sound {part} (h : Sound Q s) : SoundOut Q (execModeChangeApply part s) := event_sound (.ite (applyMode_sound h) h)

theorem clearEpochs_sound {p pod} (h : Sound Q s) : Sound Q (clearEpochs s p pod) := by
  unfold clearEpochs
  extract_lets lines slots
  exact .set h

theorem recallHost_sound {p} (h : Sound Q s) : Sound Q (recallHost s p) := .foldl (fun _ _ k1 => .ite (homeTakes_sound k1) k1) _ h

theorem saveMboxes_sound {p} (h : Sound Q s) : Sound Q (saveMboxes s p) := by
  unfold saveMboxes
  extract_lets mine s1 _
  have hs1 : Sound Q s1 := modPart_sound h
  exact .set hs1

theorem anchorAll_sound {p} (h : Sound Q s) : Sound Q (anchorAll s p) := by
  unfold anchorAll
  extract_lets r
  exact .foldl (fun _ _ k1 => modRecorder_sound k1) _ (modPart_sound h)

theorem openEpoch_sound {p guarded number} (h : Sound Q s) : Sound Q (openEpoch s p guarded number) := by
  unfold openEpoch
  extract_lets rec_ s1 s2 s3 s4
  have hs1 : Sound Q s1 := .foldl (fun _ _ k1 => writeBackAll_sound k1) _ h
  have hs2 : Sound Q s2 := .ite (flushRecorders_sound (recallHost_sound hs1)) hs1
  have hs3 : Sound Q s3 := saveMboxes_sound (clearEpochs_sound hs2)
  have hs4 : Sound Q s4 := modPart_sound hs3
  split
  · exact anchorAll_sound hs4
  · exact hs4

theorem twinDiffers_sound {p q at_} (h : Sound Q s) : Sound Q (twinDiffers s p q at_) := by
  unfold twinDiffers
  extract_lets post
  have hpost : ∀ x1 x2, Sound Q x1 → Sound Q (post x1 x2) := fun _ _ k1 => postSystem_sound k1
  exact haltMark_sound (haltMark_sound (hpost _ _ (hpost _ _ h)))

theorem takeCairn_sound {p guarded number} (h : Sound Q s) : Sound Q (takeCairn s p guarded number) := by
  unfold takeCairn
  split
  · split
    · exact twinDiffers_sound h
    · exact openEpoch_sound h
  · exact openEpoch_sound h

theorem closePages_sound {p} (h : Sound Q s) : Sound Q (closePages s p) := by
  unfold closePages
  split
  · exact flushRecorders_sound h
  · exact h

theorem execCairn_sound {part} (h : Sound Q s) : SoundOut Q (execCairn part s) := by
  unfold execCairn
  refine event_sound ?_
  extract_lets t
  split
  · exact h
  · split
    · exact takeCairn_sound h
    · exact closePages_sound h

theorem execEpochScrub_sound {part} (h : Sound Q s) : SoundOut Q (execEpochScrub part s) := event_sound (modPart_sound (.set h))

theorem execSequenceExhausted_sound {line} (h : Sound Q s) :
    SoundOut Q (execSequenceExhausted line s) := event_sound (.ite (cairnLost_sound h) h)

theorem execRecorderBufferFree_sound {part rec_} (h : Sound Q s) : SoundOut Q (execRecorderBufferFree part rec_ s) :=
  event_sound (.ite (appendRecords_sound (.ite (appendLaunches_sound h) h)) (.ite (appendLaunches_sound h) h))

/-! ### Requests of other devices and of hosts (Machine/Coherence.lean) -/

theorem execL1Eviction_sound {core line} (h : Sound Q s) : SoundOut Q (execL1Eviction core line s) :=
  event_sound (modCore_sound (writeBack_sound h))

theorem remoteTouch_sound {dev fibre ln kind order} (h : Sound Q s) : Sound Q (remoteTouch s dev fibre ln kind order) := by
  unfold remoteTouch
  extract_lets p e out r s1
  have hout : ∀ x1, Sound Q x1 → Sound Q (out x1) := fun _ k1 => .ite k1 (clearCopies_sound k1)
  have hs1 : Sound Q s1 := modLine_sound h
  split
  · exact modLine_sound (hout _ h)
  · split
    · exact hs1
    · split
      · exact hs1
      · extract_lets s2 s3
        have hs2 : Sound Q s2 := by
          unfold s2
          split
          · split
            · exact dropLine_sound hs1
            · exact hs1
          · exact hs1
        have hs3 : Sound Q s3 := modPart_sound (hout _ hs2)
        split
        · exact cairnLost_sound hs3
        · exact hs3

theorem dropRecords_sound {ln} (h : Sound Q s) : Sound Q (dropRecords s ln) := modLine_sound h

theorem deviceRead_sound {d sgrp ln} (h : Sound Q s) : Sound Q (deviceRead s d sgrp ln) := by
  unfold deviceRead
  extract_lets m s1
  have hs1 : Sound Q s1 := modLine_sound (gather_sound h)
  split
  · exact setMd_sound hs1
  · exact setMd_sound hs1
  · split
    · exact hs1
    · exact setMd_sound hs1
  · split
    · exact hs1
    · exact setMd_sound hs1
  · exact setMd_sound (.ite (snoopData_sound hs1) hs1)
  · exact hs1

theorem deviceOwn_sound {d sgrp ln} (h : Sound Q s) : Sound Q (deviceOwn s d sgrp ln) := by
  unfold deviceOwn
  extract_lets m s1
  have hs1 : Sound Q s1 := dropRecords_sound (modLine_sound (gather_sound h))
  split
  · exact setMd_sound (.ite hs1 (recallData_sound hs1))
  · split
    · exact hs1
    · exact setMd_sound (recallData_sound hs1)
  · exact setMd_sound (.ite (snoopData_sound hs1) hs1)
  · exact setMd_sound hs1

theorem stirMask_sound {ln mask} (h : Sound Q s) : Sound Q (stirMask s ln mask) := stir_sound h

theorem settledWrite_sound {ln data mask} (h : Sound Q s) : Sound Q (settledWrite s ln data mask) := by
  unfold settledWrite
  split
  · exact h
  · extract_lets s1 s2
    have hs1 : Sound Q s1 := undoCapture_sound (stirMask_sound h)
    have hs2 : Sound Q s2 := .ite (setPoison_sound hs1) hs1
    exact dropOwn_sound (lineWrite_sound hs2)

theorem deviceAsks_sound {dev line u order decide_} (h : Sound Q s) (hdecide_ : ∀ x1, Sound Q x1 → Sound Q (decide_ x1)) :
    Sound Q (deviceAsks s dev line u order decide_) := by
  unfold deviceAsks
  split
  · split
    · exact h
    · exact askFor_sound h
  · exact hdecide_ _ h

theorem execCoherenceRead_sound {who line via} (h : Sound Q s) : SoundOut Q (execCoherenceRead who line via s) :=
  event_sound (.ite (deviceAsks_sound (fetchLine_sound h) fun _ k1 => deviceRead_sound (remoteTouch_sound k1)) (.ite h (remoteTouch_sound
    (fetchLine_sound h))))

theorem execCoherenceOwnership_sound {who line via} (h : Sound Q s) : SoundOut Q (execCoherenceOwnership who line via s) :=
  event_sound (.ite h (deviceAsks_sound (fetchLine_sound h) fun _ k1 => deviceOwn_sound (remoteTouch_sound k1)))

theorem execCoherenceWriteback_sound {who line data mask} (h : Sound Q s) : SoundOut Q (execCoherenceWriteback who line data mask s) := by
  unfold execCoherenceWriteback
  refine event_sound (.ite h ?_)
  extract_lets s1
  have hs1 : Sound Q s1 := fetchLine_sound h
  split
  · exact setMd_sound (settledWrite_sound hs1)
  · exact setMd_sound (settledWrite_sound hs1)
  · exact deviceAsks_sound hs1 fun _ k2 => homeWrite_sound (stirMask_sound (remoteTouch_sound k2))

theorem execEvictionNotice_sound {dev line} (h : Sound Q s) : SoundOut Q (execEvictionNotice dev line s) := event_sound (.ite (setMd_sound h) h)

theorem dropCopy_sound {home line} (h : Sound Q s) : Sound Q (dropCopy s home line) := by
  unfold dropCopy
  extract_lets ln
  exact tellTo_sound (modLine_sound h)

theorem execInvalidation_sound {home line} (h : Sound Q s) : SoundOut Q (execInvalidation home line s) := event_sound (dropCopy_sound h)

theorem execRecallLine_sound {home line} (h : Sound Q s) : SoundOut Q (execRecallLine home line s) :=
  event_sound (dropCopy_sound (.foldl (fun _ _ k1 => writeBack_sound k1) _ h))

theorem execLostCopiesNotice_sound {dev} (h : Sound Q s) : SoundOut Q (execLostCopiesNotice dev s) :=
  event_sound (.foldl (fun _ _ k1 => .ite k1 (.ite (setMd_sound (setPoison_sound k1)) (.ite (setMd_sound k1) k1))) _ h)

theorem foreignWrite_sound {line data mask poison} (h : Sound Q s) : Sound Q (foreignWrite s line data mask poison) := by
  unfold foreignWrite
  split
  · exact h
  · exact dropOwn_sound (setPoison_sound (lineWrite_sound (stirMask_sound h)))

theorem lineAcked_sound {line who} (h : Sound Q s) : Sound Q (lineAcked s line who) := modLine_sound h

theorem hostRead_sound {port ln} (h : Sound Q s) : Sound Q (hostRead s port ln) := by
  unfold hostRead
  extract_lets m s1
  have hs1 : Sound Q s1 := gather_sound h
  split
  · exact setMd_sound (recallData_sound hs1)
  · exact setMd_sound (recallData_sound hs1)
  · split
    · exact setMd_sound (snoopData_sound hs1)
    · exact hs1
  · exact setMd_sound hs1

theorem hostOwn_sound {port ln} (h : Sound Q s) : Sound Q (hostOwn s port ln) := by
  unfold hostOwn
  extract_lets m s1
  have hs1 : Sound Q s1 := gather_sound h
  split
  · exact setMd_sound (recallData_sound hs1)
  · exact setMd_sound (recallData_sound hs1)
  · exact setMd_sound (.ite (snoopData_sound hs1) hs1)
  · exact setMd_sound hs1

theorem hostLine_sound {port ln} (h : Sound Q s) : Sound Q (hostLine s port ln).2.2 := by
  unfold hostLine
  split
  · exact h
  · extract_lets s1
    have hs1 : Sound Q s1 := hostRead_sound (fetchLine_sound h)
    split
    · exact hs1
    · exact hs1

theorem hostAsks_sound {port ln own go} (h : Sound Q s) (hgo : ∀ x1, Sound Q x1 → Sound Q (go x1)) : Sound Q (hostAsks s port ln own go) := by
  unfold hostAsks
  split
  · exact hgo _ h
  · split
    · exact h
    · exact askFor_sound h

theorem execHostMemRead_sound {port h' len} (h : Sound Q s) : SoundOut Q (execHostMemRead port h' len s) :=
  event_sound (hostAsks_sound h fun _ k1 => modMgmt_sound (hostLine_sound k1))

theorem hostPut_sound {x} (h : Sound Q s) : Sound Q (hostPut s x) := by
  unfold hostPut
  extract_lets ln told s0 s1 n
  have htold : ∀ x1 x2, Sound Q x1 → Sound Q (told x1 x2) := fun _ _ k1 => modMgmt_sound k1
  have hs0 : Sound Q s0 := htold _ _ (fetchLine_sound h)
  have hs1 : Sound Q s1 := hostOwn_sound hs0
  split
  · exact htold _ _ h
  · split
    · exact hs0
    · split
      · exact modMgmt_sound (dropRecords_sound hs1)
      · exact settledWrite_sound (modMgmt_sound hs1)

theorem hostRequest_sound {x} (h : Sound Q s) : Sound Q (hostRequest s x) := by
  unfold hostRequest
  extract_lets ln
  split
  · exact modMgmt_sound h
  · exact hostAsks_sound h fun _ k1 => hostPut_sound k1

theorem execHostMemWrite_sound {port h' data} (h : Sound Q s) : SoundOut Q (execHostMemWrite port h' data s) := event_sound (hostRequest_sound h)

theorem execHostCacheOwnership_sound {port line} (h : Sound Q s) : SoundOut Q (execHostCacheOwnership port line s) :=
  event_sound (hostRequest_sound h)

theorem releaseHost_sound {p} (h : Sound Q s) : Sound Q (releaseHost s p) := by
  unfold releaseHost
  split
  · exact h
  · extract_lets mine now
    exact .foldl (fun _ _ k1 => hostPut_sound k1) _ (modMgmt_sound h)

theorem execH2dSnoop_sound {port addr} (h : Sound Q s) : SoundOut Q (execH2dSnoop port addr s) := event_sound (tell_sound h)

/-! ### Launch (Machine/Launch.lean) -/

theorem launchReads_sound {ctx w} (h : Sound Q s) : Sound Q (launchReads s ctx w) := by
  unfold launchReads
  extract_lets far
  have hfar : ∀ x1 x2 x3, Sound Q x1 → Sound Q (far x1 x2 x3) := fun _ _ _ k1 => .foldl (fun _ _ k2 => virtReads_sound k2) _ k1
  split
  · exact h
  · exact hfar _ _ _ (hfar _ _ _ h)

theorem writeCompletion_sound {p ctx w entry} (h : Sound Q s) : Sound Q (writeCompletion s p ctx w entry) := by
  unfold writeCompletion
  extract_lets a s0
  have hs0 : Sound Q s0 := walkReads_sound h
  split
  · exact h
  · split
    · exact .foldl (fun _ _ k1 => homeWriteN_sound k1) _ hs0
    · exact postSystem_sound hs0
    · exact hs0

theorem takePacket_sound {q pa} (h : Sound Q s) : Sound Q (takePacket s q pa) := modQueue_sound (homeWriteN_sound h)

theorem noteLaunch_sound {p q w args} (h : Sound Q s) : Sound Q (noteLaunch s p q w args) := modPart_sound h

theorem openPacket_sound {p q idx} (h : Sound Q s) : Sound Q (openPacket s p q idx) := by
  unfold openPacket
  split
  · exact h
  · exact modQueue_sound h

theorem beginGrid_sound {q idx p v w args k} (h : Sound Q s) : Sound Q (beginGrid s q idx p v w args k) := by
  unfold beginGrid
  extract_lets g s1
  have hs1 : Sound Q s1 := openPacket_sound (noteLaunch_sound h)
  exact modPart_sound (.set hs1)

theorem settleMarks_sound {n ms} (h : Sound Q s) : Sound Q (settleMarks s n ms) := by
  induction ms generalizing s with
  | nil => exact h
  | cons m r ih =>
    unfold settleMarks
    split
    · exact ih h
    · exact ih (modQueue_sound (writeCompletion_sound h))

theorem packetDone_sound {q idx} (h : Sound Q s) : Sound Q (packetDone s q idx) := by
  unfold packetDone
  extract_lets s1
  have hs1 : Sound Q s1 := modQueue_sound h
  exact settleMarks_sound hs1

theorem takeMarker_sound {p q idx w} (h : Sound Q s) : Sound Q (takeMarker s p q idx w) := by
  unfold takeMarker
  extract_lets s1 s2
  have hs1 : Sound Q s1 := noteLaunch_sound h
  have hs2 : Sound Q s2 := modQueue_sound (openPacket_sound hs1)
  exact settleMarks_sound hs2

theorem replayLaunch_sound {p queue} (h : Sound Q s) : Sound Q (replayLaunch s p queue) := by
  unfold replayLaunch
  split
  · split
    · extract_lets x w v s0 ck idx
      have hs0 : Sound Q s0 := launchReads_sound (modPart_sound h)
      split
      · exact h
      · split
        · exact writeCompletion_sound (noteLaunch_sound hs0)
        · split
          · split
            · exact writeCompletion_sound (noteLaunch_sound hs0)
            · exact takeMarker_sound hs0
          · split
            · exact beginGrid_sound hs0
            · exact h
    · exact h
  · exact h

theorem execPacketConsume_sound {queue} (h : Sound Q s) : SoundOut Q (execPacketConsume queue s) := by
  unfold execPacketConsume
  refine event_sound ?_
  extract_lets x v p st idx
  have hst : Sound Q st := packetReads_sound h
  split
  · exact replayLaunch_sound h
  · split
    · exact h
    · extract_lets w s0 ck
      have hs0 : Sound Q s0 := launchReads_sound hst
      split
      · exact h
      · split
        · exact writeCompletion_sound (noteLaunch_sound (takePacket_sound hs0))
        · split
          · split
            · exact takeMarker_sound (takePacket_sound hs0)
            · exact h
          · split
            · exact beginGrid_sound (takePacket_sound hs0)
            · exact h

theorem writeStack_sound {g f0} (h : Sound Q s) : Sound Q (writeStack s g f0) := by
  unfold writeStack
  extract_lets idx sz a d2 s1
  have hs1 : Sound Q s1 := homeWriteN_sound (homeWriteN_sound (homeWriteN_sound (homeWriteN_sound h)))
  exact .set hs1

theorem claimSlot_sound {tid c k b f} (h : Sound Q s) : Sound Q (claimSlot s tid c k b f) := by
  unfold claimSlot
  extract_lets n s1 mine _
  have hs1 : Sound Q s1 := .ite h (modSlot_sound h)
  split
  · exact hs1
  · exact modTeam_sound (modSlot_sound hs1)

theorem applyHeld_sound {p v} (h : Sound Q s) : Sound Q (applyHeld s p v) := by
  unfold applyHeld
  split
  · exact h
  · exact .foldl (fun _ _ k1 => modCore_sound k1) _ (modCtx_sound h)

theorem bindTeam_sound {gid index rank c fit} (h : Sound Q s) : Sound Q (bindTeam s gid index rank c fit) := by
  unfold bindTeam
  split
  · exact h
  · extract_lets k tid fidOf bs f0 fs rings t mine _ s1 s2 s3 stk one vacant s5 s6
    have hs1 : Sound Q s1 := modCore_sound (.set h)
    have hs2 : Sound Q s2 := selfInvalidate_sound (applyHeld_sound hs1)
    have hs3 : Sound Q s3 := .ite (writeStack_sound hs2) hs2
    have hone : ∀ x1 x2, Sound Q x1 → Sound Q (one x1 x2) := fun _ _ k1 => .ite (modPart_sound (.ite (emit_sound (claimSlot_sound (.set
      k1))) (claimSlot_sound (.set k1)))) (.ite (emit_sound (claimSlot_sound (.set k1))) (claimSlot_sound (.set k1)))
    have hs5 : Sound Q s5 := .foldl (fun _ _ k1 => modSlot_sound k1) _ hs3
    have hs6 : Sound Q s6 := .foldl hone _ hs5
    exact modGrid_sound hs6

theorem bindCluster_sound {gid first cores n k} (h : Sound Q s) : Sound Q (bindCluster s gid first cores n k) := by
  unfold bindCluster
  refine .foldl (fun _ _ k1 => ?_) _ h
  split
  · exact bindTeam_sound k1
  · exact k1

theorem execClusterPlace_sound {grid} (h : Sound Q s) : SoundOut Q (execClusterPlace grid s) := by
  unfold execClusterPlace
  refine event_sound ?_
  split
  · exact h
  · extract_lets done n
    have hdone : ∀ x1 x2, Sound Q x1 → Sound Q (done x1 x2) := fun _ _ k2 => modPart_sound (modGrid_sound k2)
    split
    · exact h
    · split
      · split
        · exact hdone _ _ (bindTeam_sound h)
        · exact h
      · split
        · exact hdone _ _ (bindCluster_sound h)
        · exact modGrid_sound h

theorem execPriorityWaitLimit_sound {grid} (h : Sound Q s) : SoundOut Q (execPriorityWaitLimit grid s) := by
  unfold execPriorityWaitLimit
  refine event_sound ?_
  split
  · split
    · split
      · exact modGrid_sound h
      · exact h
    · exact h
  · exact h

/-! ### Teams and grids that end (Machine/Retire.lean) -/

theorem freeTeam_sound {tid} (h : Sound Q s) : Sound Q (freeTeam s tid) := by
  unfold freeTeam
  split
  · exact h
  · extract_lets rings s1
    have hs1 : Sound Q s1 := modCore_sound h
    exact .foldl (fun _ _ k1 => modSlot_sound k1) _ hs1

theorem endTeam_sound {tid} (h : Sound Q s) : Sound Q (endTeam s tid) := by
  unfold endTeam
  split
  · exact h
  · split
    · exact h
    · extract_lets s1 s2
      have hs1 : Sound Q s1 := freeTeam_sound h
      have hs2 : Sound Q s2 := .set hs1
      split
      · exact .set hs1
      · split
        · exact modTeam_sound hs1
        · split
          · exact hs2
          · exact modGrid_sound hs2

theorem releaseFibre_sound {fid} (h : Sound Q s) : Sound Q (releaseFibre s fid) := by
  unfold releaseFibre
  split
  · exact h
  · extract_lets p s1 rest back s2 gid s3 s4
    have hs1 : Sound Q s1 := handOver_sound (leaveSet_sound (chunkEnd_sound (noteLate_sound h)))
    have hs2 : Sound Q s2 := modPart_sound hs1
    have hs3 : Sound Q s3 := modSlot_sound (modGrid_sound hs2)
    have hs4 : Sound Q s4 := modTeam_sound (.set hs3)
    exact looseDrops_sound (endTeam_sound hs4)

theorem execFibreRelease_sound {fibre} (h : Sound Q s) : SoundOut Q (execFibreRelease fibre s) := event_sound (.ite (releaseFibre_sound h) h)

theorem performStaged_sound {t} (h : Sound Q s) : Sound Q (performStaged s t) := by
  unfold performStaged
  split
  · exact h
  · exact .foldr (fun _ _ k1 => homeWriteN_sound k1) _ h

theorem execTeamRetire_sound {grid} (h : Sound Q s) : SoundOut Q (execTeamRetire grid s) := by
  unfold execTeamRetire
  refine event_sound ?_
  split
  · exact h
  · split
    · exact h
    · extract_lets s1
      have hs1 : Sound Q s1 := performStaged_sound h
      exact modGrid_sound (.set hs1)

theorem endGrid_sound {gid status} (h : Sound Q s) : Sound Q (endGrid s gid status) := by
  unfold endGrid
  split
  · exact h
  · extract_lets s1 s2 s3 rec_ s4
    have hs1 : Sound Q s1 := .foldl (fun _ _ k1 => writeBackAll_sound k1) _ h
    have hs2 : Sound Q s2 := writeCompletion_sound hs1
    have hs3 : Sound Q s3 := packetDone_sound (.set hs2)
    have hs4 : Sound Q s4 := modPart_sound hs3
    exact releaseHost_sound hs4

theorem execGridComplete_sound {grid} (h : Sound Q s) : SoundOut Q (execGridComplete grid s) := by
  unfold execGridComplete
  refine event_sound ?_
  split
  · split
    · exact endGrid_sound h
    · exact h
  · exact h

theorem dropTeams_sound {gid} (h : Sound Q s) : Sound Q (dropTeams s gid) := by
  unfold dropTeams
  extract_lets ts s1 s2
  have hs1 : Sound Q s1 := .set h
  have hs2 : Sound Q s2 := .foldl (fun _ _ k1 => releaseFibre_sound k1) _ hs1
  exact .set hs2

theorem stashCtx_sound {p u} (h : Sound Q s) : Sound Q (stashCtx s p u) := by
  unfold stashCtx
  extract_lets here fs ts sl os keep _ bare cs
  exact modPart_sound (.set h)

theorem loadCtx_sound {p v} (h : Sound Q s) : Sound Q (loadCtx s p v) := by
  unfold loadCtx
  split
  · exact modPart_sound h
  · extract_lets put s1
    have hs1 : Sound Q s1 := .foldl (fun _ _ k1 => modCore_sound k1) _ h
    exact modPart_sound (.set hs1)

theorem withVi_sound {p v k} (h : Sound Q s) (hk : ∀ x1, Sound Q x1 → Sound Q (k x1)) : Sound Q (withVi s p v k) := by
  unfold withVi
  extract_lets t flag out s1 s2
  have hout : Sound Q out := by
    unfold out
    split
    · exact stashCtx_sound h
    · exact h
  have hs1 : Sound Q s1 := stashCtx_sound (hk _ (loadCtx_sound hout))
  have hs2 : Sound Q s2 := modPart_sound hs1
  split
  · exact hk _ h
  · split
    · exact loadCtx_sound hs2
    · exact hs2

theorem execAbortDrained_sound {grid} (h : Sound Q s) : SoundOut Q (execAbortDrained grid s) := by
  unfold execAbortDrained
  refine event_sound ?_
  split
  · exact h
  · split
    · exact h
    · refine withVi_sound h fun _ k2 => ?_
      split
      · exact k2
      · extract_lets s0 s1
        have hs0 : Sound Q s0 := .ite (endLogs_sound k2) k2
        have hs1 : Sound Q s1 := dropTeams_sound hs0
        split
        · exact modPart_sound hs1
        · exact endGrid_sound hs1

theorem entryRead_sound {p k} (h : Sound Q s) : Sound Q (entryRead s p k) := fetchLine_sound (fetchLine_sound h)

theorem dropOutside_sound {ln} (h : Sound Q s) : Sound Q (dropOutside s ln) := by
  unfold dropOutside
  extract_lets s1
  have hs1 : Sound Q s1 := by
    unfold s1
    split
    · exact h
    · exact tellTo_sound h
    · exact tellTo_sound h
    · exact tellTo_sound h
  exact modMgmt_sound hs1

theorem applyUndo_sound {p k} (h : Sound Q s) : Sound Q (applyUndo p s k) := by
  unfold applyUndo
  extract_lets a w ln md data s0 _ s1 old
  have hs0 : Sound Q s0 := dropOutside_sound h
  have hs1 : Sound Q s1 := .set hs0
  exact modLine_sound (lineWrite_sound (activate_sound hs1))

theorem applyEntries_sound {p ks} (h : Sound Q s) : Sound Q (applyEntries p ks s).1 := by
  induction ks generalizing s with
  | nil => exact h
  | cons k r ih =>
    simp only [applyEntries]
    split
    · exact entryRead_sound h
    · exact ih (applyUndo_sound (entryRead_sound h))

theorem restoreImage_sound {p} (h : Sound Q s) : Sound Q (restoreImage s p).1 := by
  unfold restoreImage
  extract_lets s1 r
  have hs1 : Sound Q s1 := .foldl (fun _ _ k1 => modCore_sound k1) _ h
  have hr : Sound Q r.1 := applyEntries_sound hs1
  split
  · exact modPart_sound hr
  · exact hr

theorem failRestore_sound {p} (h : Sound Q s) : Sound Q (failRestore s p) := haltMark_sound (modPart_sound h)

theorem relaunchGrid_sound {gid g} (h : Sound Q s) : Sound Q (relaunchGrid s gid g) := by
  unfold relaunchGrid
  extract_lets s' args g1
  have hs' : Sound Q s' := launchReads_sound h
  exact .set hs'

theorem endAborted_sound {p status} (h : Sound Q s) : Sound Q (endAborted s p status) := .foldl (fun _ _ k1 => endGrid_sound k1) _ h

theorem restoreAbort_sound {p} (h : Sound Q s) : Sound Q (restoreAbort s p) := by
  unfold restoreAbort
  extract_lets r s1 gs
  have hr : Sound Q r.1 := restoreImage_sound h
  have hs1 : Sound Q s1 := hr
  split
  · exact endAborted_sound (failRestore_sound hr)
  · split
    · exact .foldl (fun _ _ k1 => relaunchGrid_sound k1) _ (modPart_sound hs1)
    · exact endAborted_sound (modPart_sound hs1)

/-! ### Recovery and replay (Machine/Replay.lean) -/

theorem answerData_sound {status result data} (h : Sound Q s) : Sound Q (answerData s status result data) := modMgmt_sound h

theorem answer_sound {status result} (h : Sound Q s) : Sound Q (answer s status result) := answerData_sound h

theorem pageRead_sound {p k} (h : Sound Q s) : Sound Q (pageRead s p k) := .foldl (fun _ _ k1 => fetchLine_sound k1) _ h

theorem execReplay_sound {part cairn flags} (h : Sound Q s) : SoundOut Q (execReplay part cairn flags s) :=
  event_sound (.ite (answer_sound h) (answer_sound (modPart_sound (.foldl (fun _ _ k1 => abortGrid_sound k1) _ h))))

theorem goCold_sound {p} (h : Sound Q s) : Sound Q (goCold s p) := by
  unfold goCold
  extract_lets s1
  have hs1 : Sound Q s1 := .foldl (fun _ _ k1 => modCore_sound (writeBackAll_sound k1)) _ h
  exact .foldl (fun _ _ k1 => .ite k1 (modLine_sound (homeTakes_sound k1))) _ hs1

theorem restoreMboxes_sound {p} (h : Sound Q s) : Sound Q (restoreMboxes s p) := by
  unfold restoreMboxes
  extract_lets s1 _
  have hs1 : Sound Q s1 := .foldl (fun _ _ k1 => modMbox_sound k1) _ h
  exact .set hs1

theorem startReplay_sound {p cold prior} (h : Sound Q s) : Sound Q (startReplay s p cold prior) := by
  unfold startReplay
  extract_lets t s0 s1 i r s2 s3
  have hs0 : Sound Q s0 := .ite (flushRecorders_sound (.ite h (endLogs_sound h))) h
  have hs1 : Sound Q s1 := .foldl (fun _ _ k1 => pageRead_sound k1) _ hs0
  have hi : Sound Q i.1 := restoreImage_sound hs1
  have hs2 : Sound Q s2 := clearEpochs_sound (restoreMboxes_sound hi)
  have hs3 : Sound Q s3 := .ite (goCold_sound hs2) hs2
  split
  · exact failRestore_sound hi
  · exact modPart_sound hs3

theorem execRestoreComplete_sound {part} (h : Sound Q s) : SoundOut Q (execRestoreComplete part s) := by
  unfold execRestoreComplete
  refine event_sound ?_
  split
  · split
    · exact startReplay_sound h
    · exact h
  · split
    · exact restoreAbort_sound h
    · exact h

theorem postEnded_sound {p fid} (h : Sound Q s) : Sound Q (postEnded p s fid) := by
  unfold postEnded
  split
  · exact h
  · extract_lets a
    exact postSystem_sound h

theorem resendAll_sound {p} (h : Sound Q s) : Sound Q (resendAll s p) := by
  unfold resendAll
  extract_lets mine now _
  exact .foldl (fun _ _ k1 => arrive_sound k1) _ (.set h)

theorem execReplayLogEnd_sound {part} (h : Sound Q s) : SoundOut Q (execReplayLogEnd part s) :=
  event_sound (.ite (resendAll_sound h) (.ite h (resendAll_sound (modPart_sound (.foldl (fun _ _ k1 => postEnded_sound k1) _
    (haltMark_sound h))))))

theorem twinAdd_sound {q x} (h : Sound Q s) : Sound Q (twinAdd s q x) := by
  unfold twinAdd
  split
  · split
    · exact modPart_sound h
    · exact modFib_sound h
  · exact modPart_sound h

theorem twinPage_sound {p q k rs ls} (h : Sound Q s) : Sound Q (twinPage s p q k rs ls) := by
  unfold twinPage
  extract_lets note n used
  exact .foldl (fun _ _ k1 => twinAdd_sound k1) _ (modPart_sound h)

theorem execTwinPageConsumed_sound {part} (h : Sound Q s) : SoundOut Q (execTwinPageConsumed part s) := by
  unfold execTwinPageConsumed
  refine event_sound ?_
  split
  · exact h
  · extract_lets t s0 l done lost
    have hs0 : Sound Q s0 := pageRead_sound h
    have hdone : ∀ x1, Sound Q x1 → Sound Q (done x1) := fun _ k2 => modPart_sound k2
    split
    · exact h
    · split
      · exact hdone _ (modPart_sound hs0)
      · split
        · split
          · exact hdone _ (twinPage_sound hs0)
          · split
            · exact hdone _ (twinPage_sound (openEpoch_sound hs0))
            · exact hs0
        · exact hdone _ (twinPage_sound hs0)

/-! ### Gang switches, congestion and trace (Machine/Gang.lean) -/

theorem readmit_sound {fid} (h : Sound Q s) : Sound Q (readmit s fid) := by
  unfold readmit
  split
  · split
    · exact modCore_sound h
    · exact h
  · exact h

theorem unhaltPart_sound {p} (h : Sound Q s) : Sound Q (unhaltPart s p) := by
  unfold unhaltPart
  extract_lets fs s1 s2 s3
  have hs1 : Sound Q s1 := .foldl (fun _ _ k1 => modFib_sound k1) _ h
  have hs2 : Sound Q s2 := .foldl (fun _ _ k1 => modCore_sound (selfInvalidate_sound k1)) _ hs1
  have hs3 : Sound Q s3 := .foldl (fun _ _ k1 => readmit_sound k1) _ hs2
  exact modPart_sound hs3

theorem throttle_sound {c} (h : Sound Q s) : Sound Q (throttle s c) := by
  unfold throttle
  extract_lets k late
  exact pmCount_sound (modCore_sound h)

theorem execThrottleSignal_sound {core} (h : Sound Q s) : SoundOut Q (execThrottleSignal core s) := event_sound (throttle_sound h)

theorem execQuietInterval_sound {core} (h : Sound Q s) : SoundOut Q (execQuietInterval core s) := event_sound (.ite (modCore_sound h) h)

theorem signalChan_sound {chan more} (h : Sound Q s) : Sound Q (signalChan s chan more) := by
  unfold signalChan
  extract_lets here far _ s1
  have hs1 : Sound Q s1 := .foldl (fun _ _ k1 => throttle_sound k1) _ (.set h)
  split
  · exact hs1
  · exact tellTo_sound hs1

theorem execQueueCongestion_sound {channel cores} (h : Sound Q s) : SoundOut Q (execQueueCongestion channel cores s) :=
  event_sound (.ite h (signalChan_sound h))

theorem execCongestionRepeat_sound {channel cores} (h : Sound Q s) : SoundOut Q (execCongestionRepeat channel cores s) := by
  unfold execCongestionRepeat
  refine event_sound ?_
  split
  · exact h
  · split
    · exact .set h
    · split
      · exact signalChan_sound h
      · exact h

theorem armAt_sound {t p} (h : Sound Q s) : Sound Q (armAt t s p) := modPart_sound h

theorem disarm_sound {t p} (h : Sound Q s) : Sound Q (disarm t s p) := modPart_sound h

theorem propose_sound {p t} (h : Sound Q s) : Sound Q (propose s p t) := by
  unfold propose
  extract_lets s1
  have hs1 : Sound Q s1 := .ite h (tellTo_sound h)
  exact modPart_sound (.foldl (fun _ _ k1 => armAt_sound k1) _ hs1)

theorem execGangSwitchPropose_sound {part t} (h : Sound Q s) :
    SoundOut Q (execGangSwitchPropose part t s) := event_sound (.ite (propose_sound h) h)

theorem execGangTimeMessage_sound {part t} (h : Sound Q s) :
    SoundOut Q (execGangTimeMessage part t s) := event_sound (armAt_sound (tell_sound h))

theorem execGangCancellation_sound {what} (h : Sound Q s) : SoundOut Q (execGangCancellation what s) := event_sound (disarm_sound h)

theorem gangAcked_sound {p t dev mpart} (h : Sound Q s) : Sound Q (gangAcked s p t dev mpart) := modPart_sound h

theorem cancel_sound {p t} (h : Sound Q s) : Sound Q (cancel p s t) := by
  unfold cancel
  extract_lets s1
  have hs1 : Sound Q s1 := .ite h (tellTo_sound h)
  exact modPart_sound (.foldl (fun _ _ k1 => disarm_sound k1) _ hs1)

theorem execGangAckDeadline_sound {part t} (h : Sound Q s) : SoundOut Q (execGangAckDeadline part t s) := by
  unfold execGangAckDeadline
  refine event_sound ?_
  split
  · exact h
  · extract_lets s1
    have hs1 : Sound Q s1 := .foldl (fun _ _ k2 => cancel_sound k2) _ h
    split
    · exact propose_sound hs1
    · exact hs1

theorem reportLoss_sound {p} (h : Sound Q s) : Sound Q (reportLoss s p) := by
  unfold reportLoss
  split
  · exact postSystem_sound h
  · exact h

theorem switched_sound {p} (h : Sound Q s) : Sound Q (switched s p) := by
  unfold switched
  extract_lets now
  exact modPart_sound h

theorem switchCtx_sound {p} (h : Sound Q s) : Sound Q (switchCtx s p) := by
  unfold switchCtx
  split
  · exact unhaltPart_sound (switched_sound h)
  · extract_lets v t out s1
    have hout : Sound Q out := by
      unfold out
      split
      · exact stashCtx_sound h
      · exact h
    have hs1 : Sound Q s1 := .ite h (loadCtx_sound hout)
    split
    · exact h
    · exact reportLoss_sound (unhaltPart_sound (modPart_sound (switched_sound hs1)))

theorem firstSlice_sound {p} (h : Sound Q s) : Sound Q (firstSlice s p) := by
  unfold firstSlice
  split
  · exact modPart_sound (loadCtx_sound h)
  · exact h

theorem execGangSwitch_sound {part} (h : Sound Q s) : SoundOut Q (execGangSwitch part s) :=
  event_sound (.ite (firstSlice_sound h) (.ite h (.ite (haltMark_sound h) (.ite (switchCtx_sound h) h))))

theorem execPodCairnPropose_sound {part t number} (h : Sound Q s) : SoundOut Q (execPodCairnPropose part t number s) :=
  event_sound (modPart_sound (tell_sound h))

theorem execPodCairnInstant_sound {part} (h : Sound Q s) : SoundOut Q (execPodCairnInstant part s) :=
  event_sound (.ite (modPart_sound (tell_sound h)) h)

theorem execPodCairnAcknowledged_sound {part t2} (h : Sound Q s) : SoundOut Q (execPodCairnAcknowledged part t2 s) :=
  event_sound (.ite (modPart_sound h) h)

theorem execPodCairnAckTimeout_sound {part} (h : Sound Q s) : SoundOut Q (execPodCairnAckTimeout part s) := by
  unfold execPodCairnAckTimeout
  refine event_sound ?_
  split
  · split
    · exact modPart_sound (tell_sound h)
    · exact h
  · exact h

theorem execPodCairnTake_sound {part} (h : Sound Q s) : SoundOut Q (execPodCairnTake part s) := by
  unfold execPodCairnTake
  refine event_sound ?_
  split
  · extract_lets done
    have hdone : ∀ x1, Sound Q x1 → Sound Q (done x1) := fun _ k2 => modPart_sound k2
    split
    · exact h
    · split
      · split
        · exact hdone _ (startReplay_sound h)
        · exact h
      · split
        · exact hdone _ (takeCairn_sound h)
        · exact closePages_sound h
  · exact h

/-! ### Commands for fibres (Machine/Handler.lean) -/

theorem respondRing_sound {fn slot code tag payload} (h : Sound Q s) : Sound Q (respondRing s fn slot code tag payload) := by
  unfold respondRing
  extract_lets m result body h1 ring
  exact .setHost h (Mem.writeL_wf (Mem.writeL_wf h.host_wf _ _) _ _)

theorem respondPort_sound {code tag} (h : Sound Q s) : Sound Q (respondPort s code tag) := by
  unfold respondPort
  extract_lets m result body
  exact modMgmt_sound h

theorem respond_sound {x} (h : Sound Q s) : Sound Q (respond s x) := by
  unfold respond
  split
  · exact respondRing_sound h
  · exact respondPort_sound h

theorem forFibre_sound {fid k} (h : Sound Q s) (hk : ∀ x1 x2, Sound Q x1 → Sound Q (k x1 x2)) : Sound Q (forFibre s fid k) := by
  unfold forFibre
  split
  · exact answer_sound h
  · refine withVi_sound h fun _ k1 => ?_
    split
    · exact hk _ _ k1
    · exact answer_sound k1

theorem unlessConf_sound {fid k} (h : Sound Q s) (hk : Sound Q k) : Sound Q (unlessConf s fid k) := by
  unfold unlessConf
  split
  · exact answer_sound h
  · exact hk

theorem execResume_sound {fibre} (h : Sound Q s) : SoundOut Q (execResume fibre s) :=
  event_sound (forFibre_sound h fun _ _ k1 => .ite (answer_sound (resume_sound k1)) (answer_sound k1))

theorem execSkip_sound {fibre} (h : Sound Q s) : SoundOut Q (execSkip fibre s) := by
  unfold execSkip
  refine event_sound (forFibre_sound h fun _ _ k1 => ?_)
  split
  · split
    · exact answer_sound (resume_sound (.ite k1 (skipWord_sound k1)))
    · exact answer_sound k1
  · exact answer_sound k1

theorem execRdreg_sound {fibre sel lane} (h : Sound Q s) : SoundOut Q (execRdreg fibre sel lane s) := by
  unfold execRdreg
  refine event_sound (forFibre_sound h fun _ _ k1 => unlessConf_sound k1 ?_)
  split
  · exact answerData_sound k1
  · exact answer_sound k1

theorem writeSel_sound {fid f sel l x} (h : Sound Q s) : SoundOpt Q (writeSel s fid f sel l x) := by
  unfold writeSel
  extract_lets n put
  have hput : ∀ x1, SoundOpt Q (put x1) := fun _ => .some (modFib_sound h)
  split
  · split
    · exact .some (writeReg_sound h)
    · exact .none
  · split
    · exact hput _
    · exact .none
  · split
    · exact hput _
    · exact .none
  · split
    · exact hput _
    · exact .none
  · split
    · exact hput _
    · exact .none
  · split
    · exact hput _
    · exact .none
  · split
    · exact .none
    · exact hput _
  · exact .some h
  · split
    · exact .none
    · exact hput _

theorem execWrreg_sound {fibre sel lane value} (h : Sound Q s) : SoundOut Q (execWrreg fibre sel lane value s) := by
  unfold execWrreg
  refine event_sound (forFibre_sound h fun _ _ k1 => unlessConf_sound k1 (.ite (answer_sound k1) (.ite (answer_sound k1) ?_)))
  split
  · next _ _ e3 =>
      exact answer_sound (SoundOpt.ite (writeSel_sound k1) .none _ e3)
  · exact answer_sound k1

theorem intrOne_sound {fid} (h : Sound Q s) : Sound Q (intrOne s fid) := modFib_sound h

theorem execIntr_sound {target wholeGrid} (h : Sound Q s) : SoundOut Q (execIntr target wholeGrid s) := by
  unfold execIntr
  refine event_sound (.ite ?_ (forFibre_sound h fun _ _ k1 => unlessConf_sound k1 (.ite (answer_sound k1) (.ite (answer_sound
    (intrOne_sound k1)) (answer_sound k1)))))
  split
  · exact answer_sound h
  · split
    · exact answer_sound h
    · split
      · exact answer_sound h
      · split
        · exact answer_sound h
        · split
          · exact answer_sound h
          · refine withVi_sound h fun _ k2 => ?_
            extract_lets fs
            split
            · exact answer_sound (.foldl (fun _ _ k4 => intrOne_sound k4) _ k2)
            · exact answer_sound k2

theorem execHalt_sound {part} (h : Sound Q s) : SoundOut Q (execHalt part s) :=
  event_sound (.ite (answer_sound h) (answer_sound (haltMark_sound h)))

theorem execUnhalt_sound {part} (h : Sound Q s) : SoundOut Q (execUnhalt part s) :=
  event_sound (.ite (answer_sound h) (answer_sound (.ite (unhaltPart_sound h) h)))

theorem execTerminate_sound {handle} (h : Sound Q s) : SoundOut Q (execTerminate handle s) := by
  unfold execTerminate
  refine event_sound ?_
  split
  · exact answer_sound h
  · split
    · exact answer_sound (abortGrid_sound h)
    · exact answer_sound h

theorem postStep_sound {fid l sub held} (h : Sound Q s) : Sound Q (postStep s fid l sub held) := by
  unfold postStep
  split
  · exact h
  · extract_lets k flt t
    have ht : Sound Q t.2 := recordTime_sound h
    exact postRecord_sound ht

theorem beginStep_sound {fid l} (h : Sound Q s) : Sound Q (beginStep s fid l) := by
  unfold beginStep
  extract_lets start s1
  have hs1 : Sound Q s1 := modFib_sound h
  split
  · exact modMgmt_sound hs1
  · exact hs1

theorem execStep_sound {fibre lane} (h : Sound Q s) : SoundOut Q (execStep fibre lane s) := by
  unfold execStep
  refine event_sound (forFibre_sound h fun _ _ k1 => ?_)
  extract_lets l
  exact unlessConf_sound k1 (.ite (answer_sound k1) (.ite (answer_sound k1) (.ite (answer_sound (postStep_sound k1)) (answer_sound
    (beginStep_sound k1)))))

theorem stepReply_sound {fid} (h : Sound Q s) : Sound Q (stepReply s fid) := by
  unfold stepReply
  split
  · exact modMgmt_sound (respond_sound h)
  · exact h

theorem execStepComplete_sound {fibre} (h : Sound Q s) : SoundOut Q (execStepComplete fibre s) := by
  unfold execStepComplete
  refine event_sound ?_
  split
  · exact h
  · split
    · exact h
    · split
      · exact h
      · extract_lets s1
        have hs1 : Sound Q s1 := postStep_sound h
        exact stepReply_sound (answer_sound (modFib_sound hs1))

theorem settleSteps_sound (h : Sound Q s) : Sound Q (settleSteps s) := .foldl (fun _ _ k1 => .ite k1 (stepReply_sound (answer_sound k1))) _ h

/-! ### The context area (Machine/Area.lean) -/

theorem spillOne_sound {p e} (h : Sound Q s) : Sound Q (spillOne p s e) := by
  unfold spillOne
  split
  · exact h
  · extract_lets pctl img
    exact modPart_sound (.setMem h (Mem.writeL_wf h.mem_wf _ _))

theorem execBivouacSpill_sound {part} (h : Sound Q s) : SoundOut Q (execBivouacSpill part s) :=
  event_sound (.foldl (fun _ _ k1 => spillOne_sound k1) _ h)

theorem execBivouacFill_sound {part} (h : Sound Q s) : SoundOut Q (execBivouacFill part s) := by
  unfold execBivouacFill
  refine event_sound ?_
  split
  · extract_lets v
    split
    · exact h
    · extract_lets ok _ y
      exact modPart_sound (.set h)
  · exact h

/-! ### Clause fetch and fibre events (Machine/Clause.lean) -/

theorem fetchFault_sound {fid lanes pc word f after} (h : Sound Q s) : Sound Q (fetchFault s fid lanes pc word f after) := raiseAt_sound h

theorem startRun_sound {fid lanes pc word ws} (h : Sound Q s) : Sound Q (startRun s fid lanes pc word ws) := modFib_sound h

theorem fetchHeld_sound {fid lanes pc word f} (h : Sound Q s) : Sound Q (fetchHeld s fid lanes pc word f) := by
  unfold fetchHeld
  extract_lets g
  exact modFib_sound (postSystem_sound h)

theorem fetchFor_sound {fid lanes pc word} (h : Sound Q s) : Sound Q (fetchFor s fid lanes pc word) := by
  unfold fetchFor
  extract_lets ctx
  split
  · exact fetchFault_sound h
  · split
    · exact modFib_sound (pmCount_sound h)
    · extract_lets flt
      split
      · exact fetchHeld_sound h
      · exact fetchFault_sound (modFib_sound h)
    · extract_lets s1 ws
      have hs1 : Sound Q s1 := homeRead_sound h
      split
      · exact fetchFault_sound hs1
      · exact startRun_sound hs1

theorem execClauseFetch_sound {fid} (h : Sound Q s) : SoundOut Q (execClauseFetch fid s) := by
  unfold execClauseFetch
  refine event_sound ?_
  split
  · exact h
  · extract_lets lanes s1 l
    have hs1 : Sound Q s1 := .ite h (modFib_sound (chunkEnd_sound h))
    split
    · exact h
    · exact fetchFor_sound hs1

theorem badPrefix_sound {c} (h : Sound Q s) : Sound Q (badPrefix s c) := raiseAt_sound h

theorem execXPrefix_sound {gp z gn rm vc lk k ls} (h : Sound Q s) : SoundOut Q (execXPrefix gp z gn rm vc lk k ls s) := by
  unfold execXPrefix
  split
  · exact .fault
  · next c hc =>
    split
    · exact .fault
    · extract_lets x
      split
      · exact .next (badPrefix_sound h)
      · extract_lets bad
        exact .ite (.next (badPrefix_sound h)) (.next (h.issuing hc))

theorem execWPrefix_sound {sw m} (h : Sound Q s) : SoundOut Q (execWPrefix sw m s) := by
  unfold execWPrefix
  split
  · exact .fault
  · next c hc =>
    split
    · exact .fault
    · split
      · exact .next (badPrefix_sound h)
      · exact .ite (.next (badPrefix_sound h)) (.ite (.next (stall_sound h)) (.next (h.issuing hc)))

theorem execRicWrap_sound {fid} (h : Sound Q s) : SoundOut Q (execRicWrap fid s) := by
  unfold execRicWrap
  refine event_sound ?_
  split
  · split
    · exact ricWrap_sound h
    · exact h
  · exact h

theorem execWatchdogFault_sound {fid} (h : Sound Q s) : SoundOut Q (execWatchdogFault fid s) := by
  unfold execWatchdogFault
  refine event_sound ?_
  split
  · split
    · exact asyncFault_sound h
    · exact h
  · exact h

theorem execDrowsyRetention_sound {fid} (h : Sound Q s) : SoundOut Q (execDrowsyRetention fid s) := by
  unfold execDrowsyRetention
  refine event_sound ?_
  split
  · split
    · exact modFib_sound h
    · exact h
  · exact h

theorem execChunkLimit_sound {fid} (h : Sound Q s) : SoundOut Q (execChunkLimit fid s) := event_sound (chunkLimit_sound h)

theorem execIntrFreeze_sound {fid} (h : Sound Q s) : SoundOut Q (execIntrFreeze fid s) := by
  unfold execIntrFreeze
  refine event_sound ?_
  split
  · split
    · exact asyncFault_sound h
    · exact h
  · exact h

/-! ### Uniform words (Machine/Uniform.lean) -/

theorem uni2_sound {d a b op} (h : Sound Q s) : SoundOut Q (uni2 s d a b op) := uniform_sound h

/-! ### Control words (Machine/Control.lean) -/

theorem writeLink_sound {fid take link} (h : Sound Q s) : Sound Q (writeLink s fid take link) := by
  unfold writeLink
  split
  · exact h
  · extract_lets put
    have hput : ∀ x1 x2 x3, Sound Q x1 → Sound Q (put x1 x2 x3) := fun _ _ _ k1 => writeReg_sound k1
    exact hput _ _ _ (hput _ _ _ h)

theorem transfer_sound {p n regs link target} (h : Sound Q s) : SoundOut Q (transfer s p n regs link target) := by
  unfold transfer
  refine gate_sound h fun _ _ => ?_
  extract_lets take vs ds bad next s1
  have hs1 : Sound Q s1 := .ite (writeLink_sound h) h
  exact regGate_sound h (.ite (raise_sound h) (retireTo_sound hs1))

theorem execExit_sound {p n} (h : Sound Q s) : SoundOut Q (execExit p n s) := gate_sound h fun _ _ => retireTo_sound (modFib_sound h)

theorem execYield_sound (h : Sound Q s) : SoundOut Q (execYield s) :=
  gate_sound h fun _ _ => .ite (retire_sound h) (yieldPoint_sound (retire_sound h))

theorem trapWord_sound {p n code cause} (h : Sound Q s) : SoundOut Q (trapWord s p n code cause) :=
  gate_sound h fun _ _ => .ite (retire_sound h) (raise_sound h)

theorem execNop_sound (h : Sound Q s) : SoundOut Q (execNop s) := gate_sound h fun _ _ => retire_sound h

theorem uniTransfer_sound {taken ss link target} (h : Sound Q s) : SoundOut Q (uniTransfer s taken ss link target) := by
  unfold uniTransfer
  refine gate_sound h fun _ _ => ?_
  split
  · exact retireTo_sound h
  · exact regGate_sound h (.ite (raise_sound h) (retireTo_sound (.ite (wrS_sound h) h)))

/-! ### Binary floating point (Machine/Fp.lean) -/

theorem fpF32two_sound {d a b g} (h : Sound Q s) : SoundOut Q (fpF32two s d a b g) := flag1_sound h

theorem fpF32three_sound {d a b g} (h : Sound Q s) : SoundOut Q (fpF32three s d a b g) := flag1_sound h

theorem fpF64two_sound {d a b g} (h : Sound Q s) : SoundOut Q (fpF64two s d a b g) := flag2_sound h

theorem fpF64three_sound {d a b g} (h : Sound Q s) : SoundOut Q (fpF64three s d a b g) := flag2_sound h

/-! ### Conversions (Machine/Convert.lean) -/

theorem cvtWord_sound {t d a g vc val} (h : Sound Q s) : SoundOut Q (cvtWord s t d a g vc val) := by
  unfold cvtWord
  extract_lets src
  split
  · exact flag2_sound h
  · exact flag1_sound h

/-! ### Cross-lane words (Machine/CrossLane.lean) -/

theorem cross_sound {vs ds ss k} (h : Sound Q s) (hk : ∀ x1 x2 x3 x4, Sound Q x4 → Sound Q (k x1 x2 x3 x4)) : SoundOut Q (cross s vs ds ss k) :=
  gate_sound h fun _ _ => .ite (holdLanes_sound h) (hk _ _ _ _ h)

theorem shfl_sound {w d a b kind} (h : Sound Q s) : SoundOut Q (shfl s w d a b kind) := by
  unfold shfl
  extract_lets n
  exact cross_sound h fun _ _ _ _ k1 => retire_sound (.ite (wrP_sound k1) (wr_sound k1))

theorem votePred_sound {d g} (h : Sound Q s) : SoundOut Q (votePred s d g) := cross_sound h fun _ _ _ _ k1 => retire_sound (wrPred_sound k1)

theorem execVoteBallot_sound {d a} (h : Sound Q s) :
    SoundOut Q (execVoteBallot d a s) := cross_sound h fun _ _ _ _ k1 => retire_sound (wr_sound k1)

theorem execVoteEq_sound {d a} (h : Sound Q s) : SoundOut Q (execVoteEq d a s) := cross_sound h fun _ _ _ _ k1 => retire_sound (wrPred_sound k1)

theorem execMatchB32_sound {d a} (h : Sound Q s) : SoundOut Q (execMatchB32 d a s) := cross_sound h fun _ _ _ _ k1 => retire_sound (wr_sound k1)

theorem execMatchB64_sound {d a} (h : Sound Q s) : SoundOut Q (execMatchB64 d a s) := cross_sound h fun _ _ _ _ k1 => retire_sound (wr_sound k1)

theorem execRed_sound {k sd a} (h : Sound Q s) : SoundOut Q (execRed k sd a s) := cross_sound h fun _ _ _ _ k1 => issueB_sound k1

theorem execScan_sound {k d a sd} (h : Sound Q s) : SoundOut Q (execScan k d a sd s) := cross_sound h fun _ _ _ _ k1 => issueB_sound k1

/-! ### Barriers and rings (Machine/Sync.lean) -/

theorem askRel_sound {fid} (h : Sound Q s) : Sound Q (askRel s fid) := .foldl (fun _ _ k1 => askFor_sound k1) _ h

theorem fenceWord_sound {w x rel acq after} (h : Sound Q s) (hafter : ∀ x1 x2, Sound Q x2 → Sound Q (after x1 x2)) :
    SoundOut Q (fenceWord s w x rel acq after) := by
  unfold fenceWord
  refine gate_sound h fun _ _ => ?_
  split
  · exact stall_sound h
  · split
    · exact stall_sound (askRel_sound h)
    · extract_lets s1 s2
      have hs1 : Sound Q s1 := .ite (releaseBy_sound h) h
      have hs2 : Sound Q s2 := .ite (acquireBy_sound hs1) hs1
      exact retire_sound (hafter _ _ hs2)

theorem execFence_sound {x} (h : Sound Q s) : SoundOut Q (execFence x s) := fenceWord_sound h fun _ _ k1 => k1

theorem execFenceAcq_sound {x} (h : Sound Q s) : SoundOut Q (execFenceAcq x s) := fenceWord_sound h fun _ _ k1 => k1

theorem execFenceRel_sound {x} (h : Sound Q s) : SoundOut Q (execFenceRel x s) := fenceWord_sound h fun _ _ k1 => k1

theorem execFenceLrec_sound (h : Sound Q s) : SoundOut Q (execFenceLrec s) := fenceWord_sound h fun _ _ k1 => modCore_sound k1

theorem putStatusOf_sound {fid sd leader ric div status} (h : Sound Q s) : Sound Q (putStatusOf s fid sd leader ric div status) := by
  unfold putStatusOf
  split
  · exact modFib_sound (popLog_sound h)
  · exact putS_sound h

theorem freeOne_sound {fid status w} (h : Sound Q s) : Sound Q (freeOne fid status s w) := by
  unfold freeOne
  split
  · exact h
  · extract_lets m s1
    have hs1 : Sound Q s1 := putStatusOf_sound h
    exact modFib_sound hs1

theorem freeFibre_sound {p status fid} (h : Sound Q s) : Sound Q (freeFibre p status s fid) := by
  unfold freeFibre
  split
  · exact h
  · exact .foldl (fun _ _ k1 => freeOne_sound k1) _ h

theorem freeHeld_sound {core fids p status} (h : Sound Q s) : Sound Q (freeHeld s core fids p status) := by
  unfold freeHeld
  extract_lets s1
  have hs1 : Sound Q s1 := by
    unfold s1
    split
    · exact .foldl (fun _ _ k1 => noteAcquire_sound k1) _ (acquireAt_sound (.foldl (fun _ _ k1 => noteRelease_sound k1) _ (releaseAt_sound h)))
    · exact h
  exact .foldl (fun _ _ k1 => freeFibre_sound k1) _ hs1

theorem releaseWait_sound {c ends k} (h : Sound Q s) (hk : Sound Q k) : Sound Q (releaseWait s c ends k) := by
  unfold releaseWait
  split
  · exact stall_sound h
  · exact hk

theorem statusNow_sound {c f sd status} (h : Sound Q s) : Sound Q (statusNow s c f sd status) := by
  unfold statusNow
  extract_lets s1
  have hs1 : Sound Q s1 := .ite (acquireBy_sound h) h
  exact retire_sound (putStatusOf_sound hs1)

theorem waitOn_sound {c f on sd} (h : Sound Q s) : Sound Q (waitOn s c f on sd) := holdSync_sound h

theorem modBar_sound {tid n g} (h : Sound Q s) : Sound Q (modBar s tid n g) := modTeam_sound h

theorem endBar_sound {tid n err status} (h : Sound Q s) : Sound Q (endBar s tid n err status) := by
  unfold endBar
  split
  · exact h
  · extract_lets b s1
    have hs1 : Sound Q s1 := modBar_sound h
    exact freeHeld_sound hs1

theorem arriveBar_sound {tid n g} (h : Sound Q s) : Sound Q (arriveBar s tid n g) := by
  unfold arriveBar
  split
  · exact h
  · extract_lets b s1
    have hs1 : Sound Q s1 := modBar_sound h
    split
    · exact h
    · split
      · exact endBar_sound hs1
      · exact hs1

theorem waitBar_sound {c f sd n tok} (h : Sound Q s) : Sound Q (waitBar s c f sd n tok) := by
  unfold waitBar
  split
  · exact statusNow_sound h
  · extract_lets b
    split
    · exact statusNow_sound h
    · split
      · exact waitOn_sound h
      · split
        · exact statusNow_sound h
        · exact statusNow_sound h

theorem execBarInit_sound {a n} (h : Sound Q s) : SoundOut Q (execBarInit a n s) := by
  unfold execBarInit
  refine gate_sound h fun _ _ => ?_
  extract_lets k b live s1
  have hs1 : Sound Q s1 := .ite (endBar_sound h) h
  split
  · exact raise_sound h
  · exact retire_sound (modBar_sound hs1)

theorem execBarArrive_sound {d n} (h : Sound Q s) : SoundOut Q (execBarArrive d n s) :=
  gate_sound h fun _ _ => releaseWait_sound h (retire_sound (wrS_sound (arriveBar_sound h)))

theorem execBarWait_sound {d a n} (h : Sound Q s) : SoundOut Q (execBarWait d a n s) := gate_sound h fun _ _ => waitBar_sound h

theorem execBarSync_sound {d n} (h : Sound Q s) : SoundOut Q (execBarSync d n s) :=
  gate_sound h fun _ _ => releaseWait_sound h (waitBar_sound (arriveBar_sound h))

theorem execBarInval_sound {n} (h : Sound Q s) : SoundOut Q (execBarInval n s) :=
  gate_sound h fun _ _ => retire_sound (modBar_sound (.ite (endBar_sound h) h))

theorem endFbar_sound {slot n status} (h : Sound Q s) : Sound Q (endFbar s slot n status) := by
  unfold endFbar
  extract_lets s1
  have hs1 : Sound Q s1 := modSlot_sound h
  exact freeHeld_sound hs1

theorem execFbarSync_sound {d n k} (h : Sound Q s) : SoundOut Q (execFbarSync d n k s) := by
  unfold execFbarSync
  refine gate_sound h fun _ _ => ?_
  extract_lets slot want
  split
  · exact illegal_sound h
  · extract_lets b
    split
    · exact waitOn_sound h
    · split
      · exact statusNow_sound (endFbar_sound h)
      · split
        · exact releaseWait_sound h (statusNow_sound (endFbar_sound h))
        · exact waitOn_sound (modSlot_sound h)

theorem modRing_sound {c r g} (h : Sound Q s) : Sound Q (modRing s c r g) := modCore_sound h

theorem flipSide_sound {tid core r st full status} (h : Sound Q s) : Sound Q (flipSide s tid core r st full status) := by
  unfold flipSide
  extract_lets s1
  have hs1 : Sound Q s1 := modRing_sound h
  exact freeHeld_sound hs1

theorem arriveSide_sound {tid core r st full grp} (h : Sound Q s) : Sound Q (arriveSide s tid core r st full grp) := by
  unfold arriveSide
  extract_lets g x counted
  split
  · exact h
  · split
    · exact flipSide_sound h
    · exact modRing_sound h

theorem reinitOps_sound {tid n} (h : Sound Q s) : Sound Q (reinitOps s tid n) := .set h

theorem execRingInit_sound {a r} (h : Sound Q s) : SoundOut Q (execRingInit a r s) := by
  unfold execRingInit
  refine gate_sound h fun _ _ => ?_
  split
  · exact illegal_sound h
  · extract_lets v st fe ee core s1 _ s2
    have hs1 : Sound Q s1 := freeHeld_sound h
    have hs2 : Sound Q s2 := modRing_sound hs1
    split
    · exact raise_sound h
    · exact retire_sound (reinitOps_sound hs2)

theorem ringWord_sound {c f a r k} (h : Sound Q s) (hk : ∀ x1 x2, Sound Q (k x1 x2)) : Sound Q (ringWord s c f a r k) := by
  unfold ringWord
  split
  · exact illegal_sound h
  · extract_lets st
    split
    · exact raise_sound h
    · exact hk _ _

theorem ringArrive_sound {a r full} (h : Sound Q s) : SoundOut Q (ringArrive s a r full) :=
  gate_sound h fun _ _ => ringWord_sound h fun _ _ => releaseWait_sound h (retire_sound (arriveSide_sound h))

theorem ringWait_sound {d a r full par} (h : Sound Q s) : SoundOut Q (ringWait s d a r full par) :=
  gate_sound h fun _ _ => ringWord_sound h fun _ _ => .ite (waitOn_sound h) (statusNow_sound h)

theorem engineArrive_sound {tid core e code} (h : Sound Q s) : Sound Q (engineArrive s tid core e code) := by
  unfold engineArrive
  split
  · exact h
  · extract_lets n s1 st
    have hs1 : Sound Q s1 := modBar_sound h
    split
    · exact h
    · split
      · exact h
      · extract_lets b
        split
        · exact h
        · split
          · exact endBar_sound h
          · split
            · exact endBar_sound hs1
            · exact hs1
      · split
        · exact h
        · split
          · exact flipSide_sound h
          · exact arriveSide_sound h

theorem execCftest_sound {d n} (h : Sound Q s) : SoundOut Q (execCftest d n s) :=
  gate_sound h fun _ _ => retire_sound (wrS_sound (valueRead_sound h))

/-! ### Tapered words and exact accumulators (Machine/Tapered.lean) -/

theorem qWord_sound {q srcs g} (h : Sound Q s) : SoundOut Q (qWord s q srcs g) :=
  gate_sound h fun _ _ => retire_sound (accrue_sound (modFib_sound h))

theorem execQround_sound {d q t} (h : Sound Q s) : SoundOut Q (execQround d q t s) := by
  unfold execQround
  split
  · exact flag2_sound h
  · exact flag1_sound h

/-! ### Engine words (Machine/Engine.lean) -/

theorem withRecord_sound {c f off k} (h : Sound Q s) (hk : ∀ x1 x2, Sound Q x1 → Sound Q (k x1 x2)) : Sound Q (withRecord s c f off k) := by
  unfold withRecord
  refine bufWord_sound h fun _ _ _ k1 => ?_
  split
  · extract_lets ga
    split
    · exact hk _ _ k1
    · exact stall_sound (modFib_sound k1)
  · exact k1

theorem execLrecFillComplete_sound {fid} (h : Sound Q s) : SoundOut Q (execLrecFillComplete fid s) := by
  unfold execLrecFillComplete
  refine event_sound ?_
  split
  · exact h
  · extract_lets o s0 home pa r
    have hs0 : Sound Q s0 := modFib_sound (lineAccess_sound h)
    have hr : Sound Q r.2.2 := readAcc_sound hs0
    split
    · exact h
    · exact ifRecorded_sound h (.ite (poisonFault_sound hr) (modCore_sound hr))

theorem beginEngine_sound {o e} (h : Sound Q s) : Sound Q (beginEngine s o e) := by
  unfold beginEngine
  extract_lets e' e1 s1
  have hs1 : Sound Q s1 := .set h
  split
  · exact addOp_sound h
  · split
    · exact addOp_sound hs1
    · extract_lets lines s2 s3
      have hs2 : Sound Q s2 := .ite (loosenAll_sound hs1) hs1
      have hs3 : Sound Q s3 := modCore_sound hs2
      exact addOp_sound hs3

theorem issueEngine_sound {c f major sum e} (h : Sound Q s) : Sound Q (issueEngine s c f major sum e) := by
  unfold issueEngine
  extract_lets s1
  have hs1 : Sound Q s1 := addItem_sound h
  exact retire_sound (modFib_sound (beginEngine_sound hs1))

theorem copyWord_sound {form a b sc} (h : Sound Q s) : SoundOut Q (copyWord s form a b sc) := by
  unfold copyWord
  refine gate_sound h fun _ _ => ?_
  extract_lets d gofs d1 d3 saddr sync reg flt _
  have hflt : ∀ x1 x2, Sound Q (flt x1 x2) := fun _ _ => raise_sound h
  split
  · exact hflt _ _
  · split
    · exact hflt _ _
    · split
      · exact hflt _ _
      · split
        · exact hflt _ _
        · split
          · exact hflt _ _
          · split
            · exact hflt _ _
            · exact withRecord_sound h fun _ _ k2 => issueEngine_sound k2

theorem setCv_sound {tid n c} (h : Sound Q s) : Sound Q (setCv s tid n c) := modTeam_sound h

theorem blurRegs_sound {fid m rs} (h : Sound Q s) : Sound Q (blurRegs s fid m rs) := by
  induction rs generalizing s with
  | nil => exact h
  | cons r l ih => exact ih (writeReg_sound (drawFree_sound h))

theorem unsign_sound {g} (h : Sound Q s) : Sound Q (unsign s g) := by
  unfold unsign
  extract_lets s1
  have hs1 : Sound Q s1 := by
    unfold s1
    split
    · exact endOp_sound h
    · exact h
  exact .foldl (fun _ _ k1 => writeReg_sound k1) _ hs1

theorem execCvinit_sound {a cv} (h : Sound Q s) : SoundOut Q (execCvinit a cv s) := by
  unfold execCvinit
  refine gate_sound h fun _ _ => ?_
  extract_lets e old s1 _
  have hs1 : Sound Q s1 := .foldl (fun _ _ k2 => unsign_sound k2) _ h
  split
  · exact raise_sound h
  · exact retire_sound (setCv_sound hs1)

theorem dispatchMma_sound {c f cv x} (h : Sound Q s) : Sound Q (dispatchMma s c f cv x) := by
  unfold dispatchMma
  extract_lets d sh d2 who open_ _ e id _ s1 mark s2 s3
  have hs1 : Sound Q s1 := beginEngine_sound (setCv_sound h)
  have hs2 : Sound Q s2 := .set hs1
  have hs3 : Sound Q s3 := .ite (.foldl (fun _ _ k1 => writeReg_sound k1) _ hs2) hs2
  exact pmCount_sound hs3

theorem execMma_sound {a cv} (h : Sound Q s) : SoundOut Q (execMma a cv s) := by
  unfold execMma
  refine gate_sound h fun _ _ => ?_
  extract_lets d x n sh s1 accs opnds s0 y s2
  have hs1 : Sound Q s1 := addItem_sound h
  have hs0 : Sound Q s0 := blurRegs_sound hs1
  have hs2 : Sound Q s2 := addOp_sound (setCv_sound hs0)
  split
  · exact raiseCause_sound h
  · exact retire_sound (.ite (dispatchMma_sound hs2) hs2)

theorem wbloadWord_sound {mask a b} (h : Sound Q s) : SoundOut Q (wbloadWord s mask a b) :=
  gate_sound h fun _ _ => .ite (raiseCause_sound h) (issueEngine_sound h)

theorem accWord_sound {form a} (h : Sound Q s) : SoundOut Q (accWord s form a) := by
  unfold accWord
  refine gate_sound h fun _ _ => ?_
  extract_lets d d2 e
  split
  · exact raiseCause_sound h
  · split
    · exact issueEngine_sound h
    · exact withRecord_sound h fun _ _ k2 => issueEngine_sound k2

theorem execOpfence_sound (h : Sound Q s) : SoundOut Q (execOpfence s) :=
  gate_sound h fun _ _ => .ite (stall_sound h) (retire_sound (modTeam_sound h))

theorem xformWord_sound {k a b} (h : Sound Q s) : SoundOut Q (xformWord s k a b) := by
  unfold xformWord
  refine gate_sound h fun _ _ => ?_
  extract_lets d d2 d4 reg flt _
  have hflt : ∀ x1 x2, Sound Q (flt x1 x2) := fun _ _ => raise_sound h
  split
  · exact hflt _ _
  · split
    · exact hflt _ _
    · split
      · exact hflt _ _
      · exact withRecord_sound h fun _ _ k2 => issueEngine_sound k2

/-! ### Engine operations that complete (Machine/EngineDone.lean) -/

theorem postEngine_sound {o e f} (h : Sound Q s) : Sound Q (postEngine s o e f) := by
  unfold postEngine
  extract_lets v
  exact postRecord_sound h

theorem logFail_sound {o f} (h : Sound Q s) : Sound Q (logFail s o f) := produce_sound h

theorem reportFails_sound {o e fs} (h : Sound Q s) : Sound Q (reportFails s o e fs) := by
  unfold reportFails
  extract_lets s1
  have hs1 : Sound Q s1 := by
    unfold s1
    split
    · exact postEngine_sound h
    · exact h
  exact .foldl (fun _ _ k1 => logFail_sound k1) _ hs1

theorem touchAccs_sound {o accs kind} (h : Sound Q s) : Sound Q (touchAccs s o accs kind) := .foldl (fun _ _ k1 => lineAccess_sound k1) _ h

theorem touchPad_sound {o lines kind} (h : Sound Q s) : Sound Q (touchPad s o lines kind) := .foldl (fun _ _ k1 => scratchAccess_sound k1) _ h

theorem noteHeld_sound {o e f} (h : Sound Q s) : Sound Q (noteHeld s o e f) := by
  unfold noteHeld
  split
  · exact h
  · extract_lets s1
    have hs1 : Sound Q s1 := postSystem_sound h
    exact setOp_sound hs1

theorem padPut_sound {core a clash keep bs} (h : Sound Q s) : Sound Q (padPut s core a clash keep bs) := by
  induction bs generalizing s a with
  | nil => exact h
  | cons b r ih => exact ih (.ite h (.ite (modCore_sound (drawFree_sound h)) (modCore_sound h)))

theorem setPresent_sound {core lines} (h : Sound Q s) : Sound Q (setPresent s core lines) := modCore_sound h

theorem spend_sound {e} (h : Sound Q s) : Sound Q (EngOp.spend e s) := by
  unfold EngOp.spend
  split
  · exact h
  · exact .set h

theorem copyIn_sound {o e l es vals keep} (h : Sound Q s) : Sound Q (copyIn s o e l es vals keep) := by
  unfold copyIn
  extract_lets base
  exact spend_sound (.foldl (fun _ _ k1 => padPut_sound k1) _ h)

theorem runCopy_sound {o e l es} (h : Sound Q s) : Sound Q (runCopy s o e l es).1 := by
  unfold runCopy
  extract_lets base lines s0 fails left todo accs r s1 accs' s1' lost accs'' s1'' bad ok
  have hs0 : Sound Q s0 := releaseAt_sound h
  have hr : Sound Q r.2 := readAccs_sound (touchAccs_sound hs0)
  have hs1 : Sound Q s1 := copyIn_sound (touchPad_sound hr)
  have hs1' : Sound Q s1' := spend_sound (touchAccs_sound (touchPad_sound hs0))
  have hs1'' : Sound Q s1'' := fetchAccs_sound (spend_sound (touchAccs_sound (touchPad_sound hs0)))
  split
  · exact hs1
  · exact .foldl (fun _ _ k1 => writeAcc_sound k1) _ hs1'
  · exact .foldl (fun _ _ k1 => accAdd_sound k1) _ hs1''

theorem walkElems_sound {o e as} (h : Sound Q s) : Sound Q (walkElems s o e as) := by
  unfold walkElems
  extract_lets ctx icl pages
  exact .foldl (fun _ _ k1 => fillTlb_sound k1) _ h

theorem runWbload_sound {o e st} (h : Sound Q s) : Sound Q (runWbload s o e st).1 :=
  spend_sound (modCore_sound (readAccs_sound (touchAccs_sound (releaseAt_sound h))))

theorem putLane_sound {fid r l v} (h : Sound Q s) : Sound Q (putLane s fid r l v) := by
  unfold putLane
  extract_lets one
  have hone : ∀ x1 x2 x3, Sound Q x1 → Sound Q (one x1 x2 x3) := fun _ _ _ k1 => writeReg_sound k1
  exact hone _ _ _ (hone _ _ _ h)

theorem mmaElem_sound {s0 o e x st r c} (hst : Sound Q st.1) : Sound Q (mmaElem s0 o e x st r c).1 := by
  unfold mmaElem
  split
  · extract_lets p
    split
    · extract_lets y whole
      exact putLane_sound hst
    · exact hst
  · extract_lets i old d y v
    exact modCore_sound hst

theorem runMma_sound {o e} (h : Sound Q s) : Sound Q (runMma s o e).1 :=
  spend_sound (.foldl_fst (fun _ _ k1 => .foldl_fst (fun _ _ k2 => mmaElem_sound k2) _ k1) _ h)

theorem runAcczero_sound {o e} (h : Sound Q s) : Sound Q (runAcczero s o e) := by
  unfold runAcczero
  extract_lets l
  exact spend_sound (.foldl (fun _ _ k1 => modCore_sound k1) _ h)

theorem runAccld_sound {o e l dbl} (h : Sound Q s) : Sound Q (runAccld s o e l dbl).1 := by
  unfold runAccld
  extract_lets s0 r
  have hs0 : Sound Q s0 := touchPad_sound h
  refine spend_sound (.foldl_fst (fun _ _ k => ?_) _ hs0)
  exact modCore_sound k

theorem runAccst_sound {o e l dbl} (h : Sound Q s) : Sound Q (runAccst s o e l dbl).1 :=
  spend_sound (.foldl_fst (fun _ _ k1 => padPut_sound k1) _ (touchPad_sound h))

theorem bankRead_sound {pre o a} (hs : Sound Q s) : Sound Q (bankRead pre s o a).2.2 := by
  unfold bankRead
  extract_lets ga s1 s1'
  have hs1 : Sound Q s1 := fetchLine_sound hs
  have hs1' : Sound Q s1' := homeRead_sound hs
  split
  · exact hs1
  · split
    · exact hs
    · exact hs1'

theorem bankWrite_sound {o a v} (h : Sound Q s) : Sound Q (bankWrite s o a v) := by
  unfold bankWrite
  extract_lets ga s'
  have hs' : Sound Q s' := stir_sound h
  split
  · exact stageWrite_sound hs'
  · exact homeWriteN_sound hs'

theorem xRun_sound {pre o e l k st as} (h : Sound Q st.1) : Sound Q (xRun pre o e l k st as).1 := by
  unfold xRun
  split
  · exact h
  · extract_lets accs src
    split
    · extract_lets r v f
      have hr : Sound Q r.2.2 := by
        unfold r
        split
        · exact bankRead_sound h
        · exact h
      split
      · exact hr
      · split
        · exact bankWrite_sound (drawFree_sound hr)
        · exact bankWrite_sound hr
    · exact h

theorem runXform_sound {o e l k es} (h : Sound Q s) : Sound Q (runXform s o e l k es).1 :=
  .foldl_fst (fun _ _ k1 => xRun_sound k1) _ (touchAccs_sound (touchAccs_sound h))

theorem putStatus_sound {o e code elem flags} (h : Sound Q s) : Sound Q (putStatus s o e code elem flags).2 := by
  unfold putStatus
  extract_lets w
  split
  · exact h
  · split
    · extract_lets a s1
      have hs1 : Sound Q s1 := .ite h (touchPad_sound h)
      exact modCore_sound hs1
    · extract_lets x s'
      have hs' : Sound Q s' := walkElems_sound h
      split
      · extract_lets a s1
        have hs1 : Sound Q s1 := writeAcc_sound (touchAccs_sound hs')
        exact releaseAt_sound hs1
      · extract_lets f s1
        have hs1 : Sound Q s1 := .ite (postEngine_sound hs') hs'
        exact logFail_sound hs1

theorem endSigners_sound {mma err} (h : Sound Q s) : Sound Q (endSigners s mma err) := by
  unfold endSigners
  refine .foldl (fun _ _ k1 => ?_) _ h
  split
  · split
    · exact endOp_sound k1
    · exact k1
  · exact k1

theorem finishEngine_sound {o e code elem flags} (h : Sound Q s) : Sound Q (finishEngine s o e code elem flags) := by
  unfold finishEngine
  extract_lets s1 s2 r s3
  have hs1 : Sound Q s1 := setPresent_sound h
  have hs2 : Sound Q s2 := by
    unfold s2
    split
    · exact releaseAt_sound hs1
    · exact releaseAt_sound hs1
    · exact releaseAt_sound hs1
    · exact releaseAt_sound hs1
    · exact hs1
  have hr : Sound Q r.2 := putStatus_sound hs2
  have hs3 : Sound Q s3 := engineArrive_sound hr
  exact endOp_sound (endSigners_sound hs3)

theorem stagingClaim_sound {o accs} (h : Sound Q s) : Sound Q (stagingClaim s o accs) := by
  unfold stagingClaim
  split
  · extract_lets new s1
    have hs1 : Sound Q s1 := .ite h (.foldr (fun _ _ k1 => homeWriteN_sound k1) _ h)
    exact modTeam_sound hs1
  · exact h

theorem finishFails_sound {o e fs flags} (h : Sound Q s) : Sound Q (finishFails s o e fs flags) := by
  unfold finishFails
  extract_lets c
  exact finishEngine_sound (reportFails_sound h)

theorem completeCopy_sound {o e l} (h : Sound Q s) : Sound Q (completeCopy s o e l) := by
  unfold completeCopy
  extract_lets es base writes r s1
  have hr : Sound Q r.1 := runCopy_sound (stagingClaim_sound (walkElems_sound h))
  have hs1 : Sound Q s1 := pmCount_sound hr
  split
  · exact noteHeld_sound h
  · split
    · exact h
    · exact finishFails_sound hs1

theorem completeWbload_sound {o e mask} (h : Sound Q s) : Sound Q (completeWbload s o e mask) := by
  unfold completeWbload
  extract_lets st base r
  have hr : Sound Q r.1 := runWbload_sound (walkElems_sound h)
  split
  · exact noteHeld_sound h
  · split
    · exact h
    · exact finishFails_sound hr

theorem completeXform_sound {o e l k} (h : Sound Q s) : Sound Q (completeXform s o e l k) := by
  unfold completeXform
  extract_lets es base good accs writes walks r
  have hr : Sound Q r.1 := runXform_sound (stagingClaim_sound (walkElems_sound h))
  split
  · exact noteHeld_sound h
  · split
    · exact h
    · exact finishFails_sound hr

theorem completeMatrix_sound {o e l} (h : Sound Q s) : Sound Q (completeMatrix s o e l) := by
  unfold completeMatrix
  split
  · extract_lets r
    have hr : Sound Q r.1 := runMma_sound h
    exact finishEngine_sound hr
  · split
    · exact h
    · extract_lets r
      have hr : Sound Q r.1 := runAccld_sound h
      exact finishEngine_sound hr
  · split
    · exact h
    · extract_lets r
      have hr : Sound Q r.1 := runAccst_sound h
      exact finishEngine_sound hr
  · exact finishEngine_sound (runAcczero_sound h)
  · exact h
  · exact h
  · exact h
  · exact h
  · exact h

theorem completeEngine_sound {o e l} (h : Sound Q s) : Sound Q (completeEngine s o e l) := by
  unfold completeEngine
  split
  · exact completeCopy_sound h
  · exact completeCopy_sound h
  · exact completeCopy_sound h
  · exact completeWbload_sound h
  · exact completeXform_sound h
  · exact completeMatrix_sound h
  · exact completeMatrix_sound h
  · exact completeMatrix_sound h
  · exact completeMatrix_sound h

theorem execEngineOperationComplete_sound {op} (h : Sound Q s) : SoundOut Q (execEngineOperationComplete op s) := by
  unfold execEngineOperationComplete
  refine event_sound ?_
  split
  · exact h
  · split
    · extract_lets l
      split
      · split
        · exact h
        · split
          · exact noteHeld_sound h
          · split
            · exact h
            · exact finishEngine_sound (stagingClaim_sound h)
      · split
        · exact ifRecorded_sound h (completeEngine_sound h)
        · exact h
    · exact h

theorem execCopyLineArrival_sound {op line} (h : Sound Q s) : SoundOut Q (execCopyLineArrival op line s) := by
  unfold execCopyLineArrival
  refine event_sound ?_
  split
  · exact h
  · split
    · split
      · exact h
      · extract_lets base es accs s0 r s1
        have hs0 : Sound Q s0 := releaseAt_sound h
        have hr : Sound Q r.2 := readAccs_sound (touchAccs_sound hs0)
        have hs1 : Sound Q s1 := copyIn_sound (touchPad_sound hr)
        split
        · exact h
        · split
          · exact h
          · exact ifRecorded_sound h (setPresent_sound (setOp_sound hs1))
    · exact h

theorem heldApplied_wf {m : Mem} (h : m.wf = true) (l : List (Nat × BitVec 1024 × BitVec 128)) : (heldApplied m l).wf = true := by
  unfold heldApplied
  induction l generalizing m with
  | nil => exact h
  | cons e r ih => exact ih (Mem.writeMask_wf h _ _ _ _)

/-! ### Main-memory control (Machine/Hbm.lean) -/

theorem execPageRecompress_sound {part page} (h : Sound Q s) : SoundOut Q (execPageRecompress part page s) := by
  unfold execPageRecompress
  refine event_sound ?_
  split
  · exact h
  · split
    · exact h
    · extract_lets m lens v a
      split
      · exact .setMem h (heldApplied_wf h.mem_wf _)
      · exact postSystem_sound (.set h)

theorem execRmThreshold_sound {bank row} (h : Sound Q s) : SoundOut Q (execRmThreshold bank row s) :=
  event_sound (.ite h (.ite (.set h) (rmThreshold_sound (.set h))))

theorem execRmHoldEnd_sound {bank} (h : Sound Q s) : SoundOut Q (execRmHoldEnd bank s) := by
  unfold execRmHoldEnd
  refine event_sound ?_
  split
  · split
    · exact .set h
    · exact h
  · exact h

theorem execPeriodicRefresh_sound {bank row} (h : Sound Q s) : SoundOut Q (execPeriodicRefresh bank row s) := event_sound (.set h)

theorem rowMoved_sound {channel pc bank row} (h : Sound Q s) : Sound Q (rowMoved s channel pc bank row) := by
  unfold rowMoved
  extract_lets here
  exact .foldl (fun _ _ k1 => eccRead_sound k1) _ h

theorem execRemapAdd_sound {channel pc bank row} (h : Sound Q s) : SoundOut Q (execRemapAdd channel pc bank row s) :=
  event_sound (.ite (answer_sound h) (.ite (answer_sound h) (.ite (answer_sound h) (answer_sound (rowMoved_sound (modStack_sound
    (drawFree_sound h)))))))

theorem execHbmErrRead_sound {stack} (h : Sound Q s) : SoundOut Q (execHbmErrRead stack s) := event_sound (modStack_sound (answer_sound h))

/-! ### The fabric (Machine/Fabric.lean) -/

theorem modPort_sound {n g} (h : Sound Q s) : Sound Q (modPort s n g) := .set h

theorem execLinkFailure_sound {port} (h : Sound Q s) : SoundOut Q (execLinkFailure port s) := event_sound (modPort_sound h)

theorem execLinkRetrained_sound {port} (h : Sound Q s) : SoundOut Q (execLinkRetrained port s) := event_sound (modPort_sound h)

theorem lostDevice_sound {dev} (h : Sound Q s) : Sound Q (lostDevice s dev) := .foldl (fun _ _ k1 => .ite (postSystem_sound k1) k1) _ h

theorem execLinkTimeout_sound {port} (h : Sound Q s) : SoundOut Q (execLinkTimeout port s) :=
  event_sound (.ite h (.foldl (fun _ _ k1 => lostDevice_sound k1) _ (.set h)))

theorem execFlitCrcRetry_sound {port} (h : Sound Q s) : SoundOut Q (execFlitCrcRetry port s) := event_sound (modPort_sound h)

theorem creditsOut_sound {port vc} (h : Sound Q s) : Sound Q (creditsOut port vc s) := modPort_sound h

theorem execGuylineCreditReturn_sound {port vc} (h : Sound Q s) : SoundOut Q (execGuylineCreditReturn port vc s) :=
  event_sound (.ite (.foldl (fun _ _ k1 => arrive_sound k1) _ (.set (modPort_sound h))) (modPort_sound h))

theorem execPtpTimeUpdate_sound {time} (h : Sound Q s) : SoundOut Q (execPtpTimeUpdate time s) := event_sound (modMgmt_sound h)

/-! ### Management (Machine/Mgmt.lean) -/

theorem execCfgrd_sound {space inst} (h : Sound Q s) : SoundOut Q (execCfgrd space inst s) := by
  unfold execCfgrd
  refine event_sound ?_
  split
  · split
    · exact answer_sound h
    · exact answer_sound h
  · exact answer_sound h

theorem writePctl_sound {p x mask} (h : Sound Q s) : SoundCfg Q (writePctl s p x mask) := by
  unfold writePctl
  extract_lets t m w q mode now wq s1
  have hs1 : Sound Q s1 := modPart_sound h
  split
  · exact .inr
  · exact .inl (.ite (applyMode_sound hs1) hs1)

theorem writePart_sound {p x} (h : Sound Q s) : SoundCfg Q (writePart s p x) := by
  unfold writePart
  extract_lets new die en ok
  split
  · exact .inr
  · exact .inl (modPart_sound h)

theorem freeRegion_sound {n} (h : Sound Q s) : Sound Q (freeRegion s n) :=
  .foldl (fun _ _ k1 => .setMem (drawFree_sound k1) (Mem.writeN_wf ((drawFree_sound k1).mem_wf) _ _ _)) _ (.set h)

theorem writeRegion_sound {n x} (h : Sound Q s) : SoundCfg Q (writeRegion s n x) := by
  unfold writeRegion
  extract_lets old new s0 put give cls s1 got take _
  have hs0 : Sound Q s0 := .ite (freeRegion_sound h) h
  have hput : ∀ x1 x2, Sound Q x1 → Sound Q (put x1 x2) := fun _ _ k1 => .set k1
  have hgive : ∀ x1, Sound Q x1 → Sound Q (give x1) := fun _ k1 => .set k1
  have hs1 : Sound Q s1 := hgive _ hs0
  split
  · exact .inl h
  · split
    · exact .inl (hput _ _ (hgive _ hs0))
    · split
      · exact .inl (hput _ _ hs0)
      · split
        · exact .inr
        · exact .inl (hput _ _ (.set hs1))

theorem writeConf_sound {c x} (h : Sound Q s) : Sound Q (writeConf s c x) := by
  unfold writeConf
  extract_lets on s1
  have hs1 : Sound Q s1 := modCtx_sound h
  split
  · exact hs1
  · exact modMgmt_sound hs1

theorem writeQueue_sound {i x} (h : Sound Q s) : Sound Q (writeQueue s i x) := modQueue_sound h

theorem closeMbox_sound {n} (h : Sound Q s) : Sound Q (closeMbox s n) := by
  unfold closeMbox
  extract_lets keep stop out _
  exact .foldl (fun _ _ k1 => endSend_sound k1) _ (.set h)

theorem writeMbox_sound {i x} (h : Sound Q s) : SoundCfg Q (writeMbox s i x) := by
  unfold writeMbox
  extract_lets n m lg cfg s1
  have hs1 : Sound Q s1 := modMbox_sound h
  split
  · exact .inl h
  · split
    · exact .inl (.ite (closeMbox_sound hs1) hs1)
    · exact .inl (modMbox_sound h)

theorem writeGroup_sound {i x} (h : Sound Q s) : SoundCfg Q (writeGroup s i x) := by
  unfold writeGroup
  extract_lets g ws _ put
  have hput : ∀ x1, SoundCfg Q (put x1) := fun _ => .inl (.set h)
  split
  · exact hput _
  · exact hput _

theorem writeRoute_sound {i x} (h : Sound Q s) : SoundCfg Q (writeRoute s i x) := .inl (.set h)

theorem writeSlice_sound {i x} (h : Sound Q s) : SoundCfg Q (writeSlice s i x) := by
  unfold writeSlice
  extract_lets new len
  split
  · exact .inr
  · exact .inl (modPart_sound h)

theorem writeVi_sound {n x} (h : Sound Q s) : SoundCfg Q (writeVi s n x) := by
  unfold writeVi
  extract_lets new old
  split
  · exact .inr
  · exact .inl (modVi_sound h)

theorem cfgPut_sound {space i x ones mask} (h : Sound Q s) : SoundCfg Q (cfgPut s space i x ones mask) := by
  unfold cfgPut
  extract_lets part base
  have hpart : ∀ x1, SoundCfg Q (part x1) := fun _ => .inl (modPart_sound h)
  split
  · exact writePctl_sound h
  · exact writePart_sound h
  · exact writeRegion_sound h
  · exact hpart _
  · exact hpart _
  · exact .inl (modStack_sound h)
  · exact hpart _
  · exact hpart _
  · exact .inl (modPart_sound h)
  · exact hpart _
  · exact hpart _
  · exact .inl (modCtx_sound h)
  · exact .inl (modCtx_sound h)
  · exact .inl (writeConf_sound h)
  · exact .inl (writeQueue_sound h)
  · exact writeMbox_sound h
  · exact writeGroup_sound h
  · exact writeRoute_sound h
  · exact writeSlice_sound h
  · exact writeVi_sound h
  · exact .inl h

theorem execCfgwr_sound {space inst value mask} (h : Sound Q s) : SoundOut Q (execCfgwr space inst value mask s) := by
  unfold execCfgwr
  refine event_sound ?_
  split
  · exact answer_sound h
  · split
    · exact answer_sound h
    · split
      · next _ _ e2 =>
          exact answer_sound (cfgPut_sound h _ e2)
      · exact answer_sound h

theorem execBtinval_sound {ctx first count} (h : Sound Q s) : SoundOut Q (execBtinval ctx first count s) :=
  event_sound (.ite (answer_sound h) (.ite h (answer_sound (.set h))))

theorem releasePage_sound {page new} (h : Sound Q s) : Sound Q (releasePage s page new) := by
  unfold releasePage
  extract_lets l _ s1
  have hs1 : Sound Q s1 := .set h
  exact .foldl (fun _ _ k1 => homeWrite_sound k1) _ hs1

theorem movePage_sound {page ctx va} (h : Sound Q s) : Sound Q (movePage s page ctx va) := by
  unfold movePage
  split
  · extract_lets new
    split
    · exact releasePage_sound h
    · exact h
  · exact h

theorem movePages_sound {ctx va len} (h : Sound Q s) : Sound Q (movePages s ctx va len) := by
  unfold movePages
  refine .foldl (fun _ _ k1 => ?_) _ h
  split
  · split
    · exact movePage_sound k1
    · exact k1
  · exact k1

theorem execTlbinval_sound {ctx va len} (h : Sound Q s) : SoundOut Q (execTlbinval ctx va len s) :=
  event_sound (.ite (answer_sound h) (answer_sound (movePages_sound (.set h))))

theorem execFqcfgWrite_sound {vi value} (h : Sound Q s) : SoundOut Q (execFqcfgWrite vi value s) := event_sound (postHeld_sound (modVi_sound h))

theorem execFqptrWrite_sound {vi value} (h : Sound Q s) : SoundOut Q (execFqptrWrite vi value s) := event_sound (postHeld_sound (modVi_sound h))

theorem execFqstatRead_sound {vi} (h : Sound Q s) : SoundOut Q (execFqstatRead vi s) := event_sound (modVi_sound (answer_sound h))

theorem execSrstatRead_sound (h : Sound Q s) : SoundOut Q (execSrstatRead s) := event_sound (modMgmt_sound (answer_sound h))

theorem execTrstatRead_sound {vi} (h : Sound Q s) : SoundOut Q (execTrstatRead vi s) := event_sound (modVi_sound (answer_sound h))

theorem execTrptrWrite_sound {vi value} (h : Sound Q s) : SoundOut Q (execTrptrWrite vi value s) := event_sound (modVi_sound h)

theorem execUrstatFailClear_sound {part} (h : Sound Q s) : SoundOut Q (execUrstatFailClear part s) := event_sound (modPart_sound h)

theorem execRegisterWrite_sound {reg inst value} (h : Sound Q s) : SoundOut Q (execRegisterWrite reg inst value s) := by
  unfold execRegisterWrite
  refine event_sound ?_
  cases reg
  case fqirq | trcfg | trirq | trstat => exact modVi_sound h
  case srcfg | srptr | srirq | mrcfg => exact modMgmt_sound h
  all_goals exact modStack_sound h

theorem execInfo_sound (h : Sound Q s) : SoundOut Q (execInfo s) := event_sound (answer_sound h)

theorem execStoreManifest_sound {bytes} (h : Sound Q s) : SoundOut Q (execStoreManifest bytes s) :=
  event_sound (.ite (answer_sound h) (.ite (answer_sound h) (.ite (answer_sound h) (modMgmt_sound (answer_sound h)))))

theorem execCompareManifest_sound {index} (h : Sound Q s) : SoundOut Q (execCompareManifest index s) := by
  unfold execCompareManifest
  refine event_sound ?_
  split
  · exact answer_sound h
  · exact answer_sound h

theorem execAttest_sound {x p a} (h : Sound Q s) : SoundOut Q (execAttest x p a s) := by
  unfold execAttest
  refine event_sound (.ite (answer_sound h) (.ite (answer_sound h) ?_))
  extract_lets r data host
  have hhost : host.wf = true := by
    unfold host
    split
    · exact h.host_wf
    · exact Mem.writeL_wf h.host_wf _ _
  exact answerData_sound (modMgmt_sound (.setHost h hhost))

theorem execOpenSession_sound {ctx ct} (h : Sound Q s) : SoundOut Q (execOpenSession ctx ct s) :=
  event_sound (.ite (answer_sound h) (modCtx_sound (modMgmt_sound (answer_sound h))))

theorem execMrdbWrite_sound {fn value} (h : Sound Q s) : SoundOut Q (execMrdbWrite fn value s) := event_sound (modMgmt_sound h)

theorem execMgmtDatagram_sound {bytes} (h : Sound Q s) : SoundOut Q (execMgmtDatagram bytes s) :=
  event_sound (.ite h (.ite (modMgmt_sound h) (.set (modMgmt_sound h))))

/-! ### Counters and trace (Machine/Monitor.lean) -/

theorem traceWrite_sound {r tag} (h : Sound Q s) : SoundOpt Q (traceWrite s r tag) := by
  unfold traceWrite
  extract_lets v n
  split
  · exact .none
  · exact .map (writeVirt_sound h) (fun _ k1 => modVi_sound k1)

theorem filterLeft_sound {v x} (h : Sound Q s) : Sound Q (filterLeft s v x) := by
  unfold filterLeft
  extract_lets old s1
  have hs1 : Sound Q s1 := modVi_sound h
  split
  · exact hs1
  · exact signal_sound hs1

theorem execTraceFilter_sound {core} (h : Sound Q s) : SoundOut Q (execTraceFilter core s) := by
  unfold execTraceFilter
  refine event_sound ?_
  split
  · exact h
  · extract_lets v took x
    have htook : Sound Q took := modCore_sound h
    split
    · exact htook
    · split
      · exact filterLeft_sound htook
      · split
        · next _ _ e2 =>
            exact filterLeft_sound (traceWrite_sound htook _ e2)
        · split
          · exact h
          · exact filterLeft_sound (modVi_sound htook)

theorem execLanternLoad_sound {vi addr len} (h : Sound Q s) : SoundOut Q (execLanternLoad vi addr len s) :=
  event_sound (.ite (answer_sound h) (.ite (answer_sound h) (.ite (answer_sound h) (answer_sound (modVi_sound h)))))

theorem execLanternRead_sound {vi} (h : Sound Q s) : SoundOut Q (execLanternRead vi s) :=
  event_sound (.ite (answer_sound h) (.ite (answer_sound h) (answerData_sound h)))

theorem execCtrtot_sound {vi} (h : Sound Q s) : SoundOut Q (execCtrtot vi s) := event_sound (.ite (answer_sound h) (answerData_sound h))

theorem execCtrgrant_sound {vi grant} (h : Sound Q s) : SoundOut Q (execCtrgrant vi grant s) :=
  event_sound (.ite (answer_sound h) (.ite (answer_sound h) (answer_sound (modCtx_sound h))))

theorem execCtrprog_sound {vi c0 c1 c2 c3} (h : Sound Q s) : SoundOut Q (execCtrprog vi c0 c1 c2 c3 s) :=
  event_sound (.ite (answer_sound h) (.ite (answer_sound h) (.ite (answer_sound h) (answer_sound (modCtx_sound h)))))

theorem execCtrread_sound {v a} (h : Sound Q s) : SoundOut Q (execCtrread v a s) := by
  unfold execCtrread
  refine event_sound (.ite (answer_sound h) (.ite (answer_sound h) ?_))
  extract_lets data host
  have hhost : host.wf = true := by
    unfold host
    split
    · exact h.host_wf
    · exact Mem.writeL_wf h.host_wf _ _
  exact answerData_sound (.setHost h hhost)

/-! ### Resets and power states (Machine/Power.lean) -/

theorem loseL3_sound (h : Sound Q s) : Sound Q (loseL3 s) :=
  .foldl (fun _ _ k1 => .setMem (drawFree_sound k1) (Mem.writeN_wf ((drawFree_sound k1).mem_wf) _ _ _)) _ h

theorem scrubCheck_sound (h : Sound Q s) : Sound Q (scrubCheck s) := .foldl (fun _ _ k1 => .ite (badMeta_sound k1) k1) _ h

theorem warm_sound (h : Sound Q s) : Sound Q (warm s) := by
  have hs : Sound Q (loseL3 (s.tell 8 s.fabric.device)) := loseL3_sound (tell_sound h)
  refine scrubCheck_sound ⟨⟨Mem.filter_sortedFrom hs.mem_wf _, hs.host_wf⟩, fun _ => rfl⟩

theorem execWarmReset_sound (h : Sound Q s) : SoundOut Q (execWarmReset s) := event_sound (.ite (answer_sound (warm_sound h)) (answer_sound h))

theorem execCxlHotReset_sound {port} (h : Sound Q s) : SoundOut Q (execCxlHotReset port s) := event_sound (.ite (warm_sound h) h)

theorem offState_sound (h : Sound Q s) : Sound Q (offState s) := ⟨⟨rfl, h.host_wf⟩, fun _ => rfl⟩

theorem cold_sound (h : Sound Q s) : Sound Q (cold s) := by
  unfold cold
  extract_lets o boot
  have ho : Sound Q o := offState_sound h
  exact modMgmt_sound ho

theorem execColdReset_sound (h : Sound Q s) : SoundOut Q (execColdReset s) := event_sound (cold_sound h)

theorem execPowerState_sound {target} (h : Sound Q s) : SoundOut Q (execPowerState target s) :=
  event_sound (.ite (answer_sound h) (.ite (answer_sound h) (.ite (.ite (answer_sound h) (modMgmt_sound (answer_sound (cold_sound h))))
    (.ite (answer_sound h) (.ite (modMgmt_sound (answer_sound (offState_sound h))) (.ite (modMgmt_sound (answer_sound (warm_sound h)))
      (modMgmt_sound (answer_sound h))))))))

theorem execThermalWarning_sound (h : Sound Q s) : SoundOut Q (execThermalWarning s) := event_sound (modMgmt_sound (drawFree_sound h))

theorem execThermalTrip_sound (h : Sound Q s) : SoundOut Q (execThermalTrip s) := event_sound (offState_sound h)

theorem execPowerLoss_sound (h : Sound Q s) : SoundOut Q (execPowerLoss s) := event_sound (modMgmt_sound (offState_sound (drawFree_sound h)))

theorem execFwUpdate_sound {bytes} (h : Sound Q s) : SoundOut Q (execFwUpdate bytes s) :=
  event_sound (.ite (answer_sound h) (.ite (answer_sound h) (.ite (answer_sound h) (modMgmt_sound (answer_sound h)))))

/-! ### Special functions (Machine/Special.lean) -/

theorem special_sound {d a g} (h : Sound Q s) : SoundOut Q (special s d a g) := classB1_sound h

/-! ### The meaning of every instruction (Machine/Dispatch.lean) -/

/-- The meaning of every instruction and event keeps the memories in canonical form. -/
theorem exec_sound {i} (h : Sound Q s) : SoundOut Q (exec i s) := by
  unfold exec
  cases i with
  | iadd | isub | imul | imulhSg | imulhUs | iminSg | iminUs | imaxSg | imaxUs | and | or | xor | andn | shr | sar | rot | bfeUs | bfeSg =>
    exact int2_sound h
  | imad | bfi => exact int3_sound h
  | iabs | clz | popc | brev | mov | iaddImm | andImm | shlImm | shrImm | sarImm | rotImm => exact int1_sound h
  | shl | movi | sel => exact lane1_sound h
  | movFromUniform => exact execMovFromUniform_sound h
  | movB64 => exact lane2_sound h
  | iadd64 | isub64 | imul64 => exact pair2_sound h
  | shl64 | shr64 | sar64 => exact pairShift_sound h
  | shl64Imm | shr64Imm | sar64Imm => exact pairImm_sound h
  | icmp | icmp64 | pnot => exact lanePred_sound h
  | pand | por | pxor => exact pred2_sound h
  | idp4Sg | idp4Us | idp2Sg | idp2Us => exact dot_sound h
  | faddF32 | fsubF32 | fmulF32 | fminF32 | fmaxF32 => exact fpF32two_sound h
  | ffmaF32 => exact fpF32three_sound h
  | faddF64 | fsubF64 | fmulF64 | fminF64 | fmaxF64 => exact fpF64two_sound h
  | ffmaF64 => exact fpF64three_sound h
  | fcmpF32 | fcmpF64 | trcmp => exact flagPred_sound h
  | fdivF32 | fsqrtF32 | frcpF32 | frsqF32 => exact classB1_sound h
  | fdivF64 | fsqrtF64 | frcpF64 | frsqF64 => exact classB2_sound h
  | tradd | trsub | trmul | trfma | trmin | trmax | trenc => exact flag1_sound h
  | trdec => exact flag2_sound h
  | qmac | qclr | qadd => exact qWord_sound h
  | qround => exact execQround_sound h
  | fex2F32 | flg2F32 | fsinF32 | fcosF32 => exact special_sound h
  | cvt | cvtClamp => exact cvtWord_sound h
  | shflIdx | shflUp | shflDown | shflXor => exact shfl_sound h
  | voteAny | voteAll => exact votePred_sound h
  | voteBallot => exact execVoteBallot_sound h
  | voteEq => exact execVoteEq_sound h
  | matchB32 => exact execMatchB32_sound h
  | matchB64 => exact execMatchB64_sound h
  | red => exact execRed_sound h
  | scan => exact execScan_sound h
  | ldB32 | ldB64 | ldB128 | ldExtended => exact loadWord_sound h
  | stB32 | stB64 | stB128 | stExtended => exact storeWord_sound h
  | pf => exact execPf_sound h
  | ldsB32 | ldsB64 => exact ldsLoad_sound h
  | stsB32 | stsB64 => exact stsStore_sound h
  | atomAddB32 | atomMinSgB32 | atomMinUsB32 | atomMaxSgB32 | atomMaxUsB32 | atomAndB32 | atomOrB32 | atomXorB32 | atomXchgB32
  | atomCasB32 | atomAddB64 | atomMinSgB64 | atomMinUsB64 | atomMaxSgB64 | atomMaxUsB64 | atomAndB64 | atomOrB64 | atomXorB64
  | atomXchgB64 | atomCasB64 | acasB128 => exact atomWord_sound h
  | aacc => exact execAacc_sound h
  | arsv => exact execArsv_sound h
  | bra | call | callr | ret | jmpr => exact transfer_sound h
  | exit => exact execExit_sound h
  | yield => exact execYield_sound h
  | trap | bkpt => exact trapWord_sound h
  | nop => exact execNop_sound h
  | xPrefix => exact execXPrefix_sound h
  | wPrefix => exact execWPrefix_sound h
  | uadd | usub | umul | uand | uor | uxor | ushl | ushr | usar | uminSg | uminUs | umaxSg | umaxUs | ucmp => exact uni2_sound h
  | umov | usel | uaddImm | umoviLo | umoviHi => exact uniform_sound h
  | uld => exact execUld_sound h
  | ust => exact execUst_sound h
  | ubra | ucall | ubraReg | ucallReg => exact uniTransfer_sound h
  | fence => exact execFence_sound h
  | fenceAcq => exact execFenceAcq_sound h
  | fenceRel => exact execFenceRel_sound h
  | fenceLrec => exact execFenceLrec_sound h
  | barInit => exact execBarInit_sound h
  | barArrive => exact execBarArrive_sound h
  | barWait => exact execBarWait_sound h
  | barSync => exact execBarSync_sound h
  | barInval => exact execBarInval_sound h
  | fbarSync => exact execFbarSync_sound h
  | ringInit => exact execRingInit_sound h
  | ringArriveFull | ringArriveEmpty => exact ringArrive_sound h
  | ringWaitFull | ringWaitEmpty => exact ringWait_sound h
  | cftest => exact execCftest_sound h
  | copy | copySt | copyAcc => exact copyWord_sound h
  | cvinit => exact execCvinit_sound h
  | mma => exact execMma_sound h
  | wbload | wbloadMask => exact wbloadWord_sound h
  | accld | accldF64 | accst | accstF64 | acczero => exact accWord_sound h
  | opfence => exact execOpfence_sound h
  | xformCvt | xformRound | xformScale | xformFill | xformZero => exact xformWord_sound h
  | msgSend => exact execMsgSend_sound h
  | msgRecv => exact execMsgRecv_sound h
  | sregRdVector => exact execSregRdVector_sound h
  | sregRdUniform => exact execSregRdUniform_sound h
  | sregWr => exact execSregWr_sound h
  | temit => exact execTemit_sound h
  | ctrRd => exact execCtrRd_sound h
  | ctrCtl => exact execCtrCtl_sound h
  | rtag => exact execRtag_sound h
  | glaunch => exact execGlaunch_sound h
  | clauseFetch => exact execClauseFetch_sound h
  | ricWrap => exact execRicWrap_sound h
  | watchdogFault => exact execWatchdogFault_sound h
  | drowsyRetention => exact execDrowsyRetention_sound h
  | loadDataReturn => exact execLoadDataReturn_sound h
  | storePerformed => exact execStorePerformed_sound h
  | atomicPerformed => exact execAtomicPerformed_sound h
  | classBComplete => exact execClassBComplete_sound h
  | pageWalkComplete => exact execPageWalkComplete_sound h
  | lrecFillComplete => exact execLrecFillComplete_sound h
  | copyLineArrival => exact execCopyLineArrival_sound h
  | engineOperationComplete => exact execEngineOperationComplete_sound h
  | fibreRelease => exact execFibreRelease_sound h
  | messageArrival => exact execMessageArrival_sound h
  | msgAccepted => exact execMsgAccepted_sound h
  | mailboxAdmissionSignal => exact execMailboxAdmissionSignal_sound h
  | qdbWrite => exact execQdbWrite_sound h
  | packetConsume => exact execPacketConsume_sound h
  | clusterPlace => exact execClusterPlace_sound h
  | priorityWaitLimit => exact execPriorityWaitLimit_sound h
  | gridComplete => exact execGridComplete_sound h
  | teamRetire => exact execTeamRetire_sound h
  | modeChangeApply => exact execModeChangeApply_sound h
  | throttleSignal => exact execThrottleSignal_sound h
  | quietInterval => exact execQuietInterval_sound h
  | queueCongestion => exact execQueueCongestion_sound h
  | congestionRepeat => exact execCongestionRepeat_sound h
  | gangSwitchPropose => exact execGangSwitchPropose_sound h
  | gangTimeMessage => exact execGangTimeMessage_sound h
  | gangCancellation => exact execGangCancellation_sound h
  | gangAckDeadline => exact execGangAckDeadline_sound h
  | gangSwitch => exact execGangSwitch_sound h
  | bivouacFill => exact execBivouacFill_sound h
  | bivouacSpill => exact execBivouacSpill_sound h
  | cairn => exact execCairn_sound h
  | podCairnPropose => exact execPodCairnPropose_sound h
  | podCairnAckTimeout => exact execPodCairnAckTimeout_sound h
  | podCairnTake => exact execPodCairnTake_sound h
  | chunkLimit => exact execChunkLimit_sound h
  | sequenceExhausted => exact execSequenceExhausted_sound h
  | replayLogEnd => exact execReplayLogEnd_sound h
  | abortDrained => exact execAbortDrained_sound h
  | restoreComplete => exact execRestoreComplete_sound h
  | epochScrub => exact execEpochScrub_sound h
  | l1Eviction => exact execL1Eviction_sound h
  | coherenceRead => exact execCoherenceRead_sound h
  | coherenceOwnership => exact execCoherenceOwnership_sound h
  | coherenceWriteback => exact execCoherenceWriteback_sound h
  | evictionNotice => exact execEvictionNotice_sound h
  | invalidation => exact execInvalidation_sound h
  | recallLine => exact execRecallLine_sound h
  | lostCopiesNotice => exact execLostCopiesNotice_sound h
  | hostMemRead => exact execHostMemRead_sound h
  | hostMemWrite => exact execHostMemWrite_sound h
  | hostCacheOwnership => exact execHostCacheOwnership_sound h
  | pageRecompress => exact execPageRecompress_sound h
  | rmThreshold => exact execRmThreshold_sound h
  | rmHoldEnd => exact execRmHoldEnd_sound h
  | periodicRefresh => exact execPeriodicRefresh_sound h
  | traceFilter => exact execTraceFilter_sound h
  | linkFailure => exact execLinkFailure_sound h
  | linkTimeout => exact execLinkTimeout_sound h
  | ptpTimeUpdate => exact execPtpTimeUpdate_sound h
  | intrFreeze => exact execIntrFreeze_sound h
  | stepComplete => exact execStepComplete_sound h
  | resume => exact execResume_sound h
  | skip => exact execSkip_sound h
  | step => exact execStep_sound h
  | rdreg => exact execRdreg_sound h
  | wrreg => exact execWrreg_sound h
  | intr => exact execIntr_sound h
  | halt => exact execHalt_sound h
  | unhalt => exact execUnhalt_sound h
  | terminate => exact execTerminate_sound h
  | replay => exact execReplay_sound h
  | ctrtot => exact execCtrtot_sound h
  | ctrgrant => exact execCtrgrant_sound h
  | lanternLoad => exact execLanternLoad_sound h
  | lanternRead => exact execLanternRead_sound h
  | ctrprog => exact execCtrprog_sound h
  | ctrread => exact execCtrread_sound h
  | cfgrd => exact execCfgrd_sound h
  | cfgwr => exact execCfgwr_sound h
  | btinval => exact execBtinval_sound h
  | tlbinval => exact execTlbinval_sound h
  | mrdbWrite => exact execMrdbWrite_sound h
  | mgmtDatagram => exact execMgmtDatagram_sound h
  | info => exact execInfo_sound h
  | storeManifest => exact execStoreManifest_sound h
  | compareManifest => exact execCompareManifest_sound h
  | attest => exact execAttest_sound h
  | openSession => exact execOpenSession_sound h
  | remapAdd => exact execRemapAdd_sound h
  | powerState => exact execPowerState_sound h
  | warmReset => exact execWarmReset_sound h
  | fwUpdate => exact execFwUpdate_sound h
  | cxlHotReset => exact execCxlHotReset_sound h
  | coldReset => exact execColdReset_sound h
  | thermalWarning => exact execThermalWarning_sound h
  | thermalTrip => exact execThermalTrip_sound h
  | fqcfgWrite => exact execFqcfgWrite_sound h
  | fqptrWrite => exact execFqptrWrite_sound h
  | fqstatRead => exact execFqstatRead_sound h
  | srstatRead => exact execSrstatRead_sound h
  | trstatRead => exact execTrstatRead_sound h
  | hbmErrRead => exact execHbmErrRead_sound h
  | trptrWrite => exact execTrptrWrite_sound h
  | urstatFailClear => exact execUrstatFailClear_sound h
  | registerWrite => exact execRegisterWrite_sound h
  | recorderBufferFree => exact execRecorderBufferFree_sound h
  | twinPageConsumed => exact execTwinPageConsumed_sound h
  | powerLoss => exact execPowerLoss_sound h
  | linkRetrained => exact execLinkRetrained_sound h
  | flitCrcRetry => exact execFlitCrcRetry_sound h
  | guylineCreditReturn => exact execGuylineCreditReturn_sound h
  | podCairnInstant => exact execPodCairnInstant_sound h
  | podCairnAcknowledged => exact execPodCairnAcknowledged_sound h
  | h2dSnoop => exact execH2dSnoop_sound h

/-! ### Issuing a word, clocks, and the device by itself (Machine/Policy.lean) -/

theorem runCode_sound {code pay addr} (h : Sound Q s) : SoundOut Q (runCode code pay addr s) := by
  unfold runCode
  extract_lets a w need
  split
  · exact execInfo_sound h
  · exact execStoreManifest_sound h
  · exact .ite (execCompareManifest_sound h) (.next (answer_sound h))
  · exact .ite (execAttest_sound h) (.next (answer_sound h))
  · exact .ite (execOpenSession_sound h) (.next (answer_sound h))
  · exact .ite (execRemapAdd_sound h) (.next (answer_sound h))
  · exact .ite (execPowerState_sound h) (.next (answer_sound h))
  · exact execWarmReset_sound h
  · exact execFwUpdate_sound h
  · exact .ite (execResume_sound h) (.next (answer_sound h))
  · exact .ite (execSkip_sound h) (.next (answer_sound h))
  · exact .ite (execStep_sound h) (.next (answer_sound h))
  · exact .ite (execRdreg_sound h) (.next (answer_sound h))
  · exact .ite (execWrreg_sound h) (.next (answer_sound h))
  · exact .ite (execIntr_sound h) (.next (answer_sound h))
  · exact .ite (execHalt_sound h) (.next (answer_sound h))
  · exact .ite (execUnhalt_sound h) (.next (answer_sound h))
  · exact .ite (execTerminate_sound h) (.next (answer_sound h))
  · exact .ite (execReplay_sound h) (.next (answer_sound h))
  · exact .ite (execCtrtot_sound h) (.next (answer_sound h))
  · exact .ite (execCtrgrant_sound h) (.next (answer_sound h))
  · exact .ite (execLanternLoad_sound h) (.next (answer_sound h))
  · exact .ite (execLanternRead_sound h) (.next (answer_sound h))
  · exact .ite (execCtrprog_sound h) (.next (answer_sound h))
  · exact .ite (execCtrread_sound h) (.next (answer_sound h))
  · exact .ite (execCfgrd_sound h) (.next (answer_sound h))
  · exact .ite (execCfgwr_sound h) (.next (answer_sound h))
  · exact .ite (execBtinval_sound h) (.next (answer_sound h))
  · exact .ite (execTlbinval_sound h) (.next (answer_sound h))
  · exact .next (answer_sound h)

theorem runRequest_sound {src code pay addr rep} (h : Sound Q s) : SoundOut Q (runRequest src code pay addr rep s) := by
  unfold runRequest
  split
  · next _ _ e1 =>
      split
      · exact .next (modMgmt_sound (respond_sound (runCode_sound (modMgmt_sound h) _ e1)))
      · exact .next (runCode_sound (modMgmt_sound h) _ e1)
  · exact runCode_sound (modMgmt_sound h)

theorem noWord_sound {c w} (h : Sound Q s) : Sound Q (noWord s c w) := by
  unfold noWord
  split
  · exact badPrefix_sound h
  · exact illegal_sound h

theorem issueWord_sound {c w} (h : Sound False s) : SoundOut False (issueWord c w s) := by
  have hs : Sound False { s with issue := some c } := h.word
  unfold issueWord
  extract_lets s1
  have hno : SoundOut False (.next (noWord s1 c w)) := .next (noWord_sound hs)
  split
  · exact .ite (exec_sound hs) hno
  · exact hno

theorem issueNext_sound {c ws o} (h : SoundOut False o) : SoundOut False (issueNext c ws o) := by
  unfold issueNext
  split
  · next t =>
    have ht : Sound False t := h t rfl
    split
    · exact .ite (.next (.unissue ht)) (issueWord_sound ht)
    · exact .next ht
  · exact h

theorem issueBundle_sound {c ws} (h : Sound False s) : SoundOut False (issueBundle c ws s) := issueNext_sound (issueWord_sound h)

theorem loggedSwitch_sound {fid r} (h : Sound Q s) : Sound Q (loggedSwitch s fid r) := handOver_sound (modFib_sound (chunkEnd_sound h))

theorem restBefore_sound {fid f c} (h : Sound Q s) : Sound Q (restBefore s fid f c) := by
  unfold restBefore
  split
  · exact h
  · split
    · exact modFib_sound h
    · split
      · exact modFib_sound h
      · exact h

theorem restAfter_sound {old fid f c} (hs : Sound Q s) : Sound Q (restAfter old fid f c s) := by
  unfold restAfter
  split
  · exact hs
  · extract_lets before
    exact modFib_sound hs

theorem loggedWalk_sound {s' c ws r} (h : Sound False s) : Sound False (loggedWalk s s' c ws r) := by
  have hs : Sound False { s with issue := some c } := h.word
  unfold loggedWalk
  extract_lets f s1
  split
  · exact raise_sound hs
  · exact raise_sound (.ite (flagErr_sound hs) hs)

theorem parkLanes_sound {fid f m} (h : Sound Q s) : Sound Q (parkLanes s fid f m) := modFib_sound h

theorem holdPassed_sound {old fid f c w} (hs : Sound Q s) : Sound Q (holdPassed old fid f c w s) := by
  unfold holdPassed
  split
  · exact hs
  · split
    · extract_lets passed
      split
      · exact hs
      · exact parkLanes_sound hs
    · exact hs

theorem parkFreed_sound {fid f} (h : Sound Q s) : Sound Q (parkFreed s fid f) := by
  unfold parkFreed
  split
  · split
    · exact parkLanes_sound h
    · exact h
  · exact h

theorem afterIssue_sound {fid f c ws o} (h : Sound False s) (ho : SoundOut False o) : SoundOut False (afterIssue s fid f c ws o) := by
  unfold afterIssue
  split
  · next t =>
    have ht : Sound False t := ho t rfl
    have hs : Sound False { s with issue := some c } := h.word
    extract_lets wrong
    split
    · exact .next (stall_sound hs)
    · split
      · exact .next (modFib_sound h)
      · split
        · exact .next (stall_sound hs)
        · split
          · exact .ite (.next (loggedWalk_sound h)) (.next (restAfter_sound ht))
          · exact .next (holdPassed_sound (restAfter_sound ht))
  · exact ho

theorem runWord_sound {fid f r} (h : Sound False s) : SoundOut False (runWord s fid f r) := by
  unfold runWord
  extract_lets c m
  split
  · exact .next (stall_sound h)
  · split
    · exact .next (mismatch_sound h)
    · split
      · exact .next (stall_sound h)
      · exact afterIssue_sound h (issueBundle_sound (restBefore_sound h))

theorem boundary_sound {fid f} (h : Sound Q s) : SoundOpt Q (boundary s fid f) := by
  unfold boundary
  split
  · exact dueFault_sound h
  · split
    · exact .some (loggedSwitch_sound h)
    · exact .none
  · split
    · exact .none
    · exact dueFault_sound h

theorem stepFibre_sound {fid} (h : Sound False s) : SoundOut False (stepFibre fid s) := by
  unfold stepFibre
  extract_lets s1
  have hs1 : Sound False s1 := by
    unfold s1
    split
    · exact parkFreed_sound h
    · exact h
  split
  · exact .next hs1
  · split
    · exact .next (modFib_sound hs1)
    · split
      · next e => exact .next (boundary_sound hs1 _ e)
      · split
        · exact runWord_sound hs1
        · split
          · next e =>
            have ht := execClauseFetch_sound hs1 _ e
            split
            · split
              · exact .ite (.next ht) (runWord_sound ht)
              · exact .next ht
            · exact .next ht
          · exact execClauseFetch_sound hs1

theorem watch_sound {n} (h : Sound Q s) : Sound Q (watch s n) := by
  unfold watch
  split
  · split
    · extract_lets p
      split
      · exact modFib_sound h
      · exact h
    · exact h
  · exact h

theorem yieldNow_sound {f x} (h : Sound Q s) : Sound Q (yieldNow s f x) := by
  unfold yieldNow
  split
  · next _ _ e1 =>
      exact SoundOpt.ite (dueFault_sound h) .none _ e1
  · extract_lets s1 shut s2
    have hs1 : Sound Q s1 := modFib_sound h
    have hs2 : Sound Q s2 := .ite (leaveSet_sound hs1) hs1
    split
    · exact handOver_sound (modFib_sound hs2)
    · exact hs2

theorem yieldSlot_sound {n} (h : Sound Q s) : Sound Q (yieldSlot s n) := by
  unfold yieldSlot
  split
  · exact h
  · split
    · split
      · exact settleHeld_sound (yieldNow_sound h)
      · exact h
    · exact h

theorem dropRecord_sound {p f r} (h : Sound Q s) : Sound Q (dropRecord s p f r) := by
  unfold dropRecord
  split
  · exact modFib_sound h
  · extract_lets s1
    have hs1 : Sound Q s1 := modPart_sound h
    exact looseDrops_sound hs1

theorem takeSlot_sound {n g} (h : Sound Q s) : Sound Q (takeSlot s n g) := by
  unfold takeSlot
  extract_lets sl charged shared
  exact modCore_sound (modSlot_sound (modFib_sound h))

theorem chooseFibre_sound {n} (h : Sound Q s) : Sound Q (chooseFibre s n) := by
  unfold chooseFibre
  extract_lets sl p
  split
  · exact h
  · split
    · split
      · exact takeSlot_sound h
      · exact h
    · split
      · split
        · extract_lets g
          split
          · exact takeSlot_sound (dropRecord_sound h)
          · exact h
        · exact h
      · split
        · split
          · split
            · exact h
            · exact takeSlot_sound (produce_sound h)
          · exact takeSlot_sound h
        · exact h

theorem tick_sound (h : Sound Q s) : Sound Q (tick s) := by
  unfold tick
  extract_lets held on s1 s2 on' cyc s3 s4 _ s4' s5
  have hs1 : Sound Q s1 := .set h
  have hs2 : Sound Q s2 := .foldl (fun _ _ k1 => yieldSlot_sound k1) _ (.foldl (fun _ _ k1 => watch_sound k1) _ hs1)
  have hs3 : Sound Q s3 := .set hs2
  have hs4 : Sound Q s4 := .foldl (fun _ _ k1 => chooseFibre_sound k1) _ hs3
  have hs4' : Sound Q s4' := .ite hs4 (.set hs4)
  have hs5 : Sound Q s5 := modMgmt_sound (.set hs4')
  split
  · exact hs5
  · exact drainAll_sound hs5

theorem completeOp_sound {o} (h : Sound Q s) : SoundOut Q (completeOp o s) := by
  unfold completeOp
  cases o.kind
  case load | uload | lds => exact execLoadDataReturn_sound h
  case store | sts => exact execStorePerformed_sound h
  case atom | aacc => exact execAtomicPerformed_sound h
  case classB => exact execClassBComplete_sound h
  case engine => exact execEngineOperationComplete_sound h
  case send => exact execMsgAccepted_sound h
  case sign | done => exact .next h

theorem firstChange_sound {l} (hl : ∀ e ∈ l, SoundOut Q (e s)) : SoundOpt Q (firstChange s l) := by
  induction l with
  | nil => exact .none
  | cons e r ih =>
    have hr := ih fun x hx => hl x (.tail _ hx)
    unfold firstChange
    split
    · next s1 h1 => exact .ite hr (.some (hl e (.head _) s1 h1))
    · exact hr

/-- Every event of a list, taken in a sound state, answers a sound state. -/
def KeepsAll (Q : Prop) (l : List (State → Host.Outcome State Fault Refusal)) : Prop := ∀ e ∈ l, ∀ s, Sound Q s → SoundOut Q (e s)

theorem KeepsAll.nil : KeepsAll Q [] := fun _ h => nomatch h

theorem KeepsAll.one {e : State → Host.Outcome State Fault Refusal} (h : ∀ s, Sound Q s → SoundOut Q (e s)) : KeepsAll Q [e] := fun x hx => by
  rw [List.mem_singleton.1 hx]
  exact h

theorem KeepsAll.append {l m} (h : KeepsAll Q l) (k : KeepsAll Q m) : KeepsAll Q (l ++ m) := fun e he =>
  (List.mem_append.1 he).elim (h e) (k e)

theorem KeepsAll.map {α : Type} {l : List α} {f : α → State → Host.Outcome State Fault Refusal}
    (h : ∀ x s, Sound Q s → SoundOut Q (f x s)) : KeepsAll Q (l.map f) := fun e he => by
  obtain ⟨x, _, rfl⟩ := List.mem_map.1 he
  exact h x

theorem KeepsAll.forEach {α : Type} {m : AMap α} {p : Nat → α → Bool} {f : Nat → State → Host.Outcome State Fault Refusal}
    (h : ∀ n s, Sound Q s → SoundOut Q (f n s)) : KeepsAll Q (forEach m p f) := .map fun x => h x.1

theorem KeepsAll.flatMap {α : Type} {l : List α} {f : α → List (State → Host.Outcome State Fault Refusal)}
    (h : ∀ x, KeepsAll Q (f x)) : KeepsAll Q (l.flatMap f) := fun e he => by
  obtain ⟨x, _, hx⟩ := List.mem_flatMap.1 he
  exact h x e hx

theorem fibreEvents_keeps : KeepsAll Q (fibreEvents s) := by
  unfold fibreEvents
  refine .append (.append (.append (.append (.append ?_ ?_) ?_) ?_) ?_) ?_
  · exact .forEach fun _ _ => execPageWalkComplete_sound
  · exact .forEach fun _ _ => execLrecFillComplete_sound
  · exact .forEach fun _ _ => execFibreRelease_sound
  · exact .forEach fun _ _ => execStepComplete_sound
  · exact .forEach fun _ _ => execIntrFreeze_sound
  · exact .forEach fun _ _ => execDrowsyRetention_sound

theorem partEvents_keeps : KeepsAll Q (partEvents s) := by
  unfold partEvents
  refine .append (.append (.append (.append (.append (.append (.append (.append (.append (.append (.append (.append (.append (.append
    ?_ ?_) ?_) ?_) ?_) ?_) ?_) ?_) ?_) ?_) ?_) ?_) ?_) ?_) ?_
  · exact .forEach fun _ _ => execAbortDrained_sound
  · exact .forEach fun _ _ => execRestoreComplete_sound
  · exact .forEach fun _ _ => execGangSwitch_sound
  · exact .forEach fun _ _ => execGangSwitchPropose_sound
  · exact .forEach fun _ _ => execGangAckDeadline_sound
  · exact .forEach fun _ _ => execReplayLogEnd_sound
  · exact .flatMap fun _ => .forEach fun _ _ => execRecorderBufferFree_sound
  · exact .map fun _ _ => execRecorderBufferFree_sound
  · exact .forEach fun _ _ => execTwinPageConsumed_sound
  · exact .forEach fun _ _ => execModeChangeApply_sound
  · exact .forEach fun _ _ => execEpochScrub_sound
  · exact .forEach fun _ _ => execBivouacSpill_sound
  · exact .forEach fun _ _ => execBivouacFill_sound
  · exact .forEach fun _ _ => execPodCairnInstant_sound
  · exact .forEach fun _ _ => execPodCairnTake_sound

theorem deviceEvents_keeps : KeepsAll Q (deviceEvents s) := by
  unfold deviceEvents
  refine .append (.append (.append (.append (.append (.append ?_ ?_) ?_) ?_) ?_) ?_) ?_
  · exact .forEach fun _ _ => execTraceFilter_sound
  · exact .forEach fun _ _ => execQuietInterval_sound
  · exact .map fun _ _ => execPageRecompress_sound
  · exact .map fun _ _ => execQueueCongestion_sound
  · exact .forEach fun _ _ => execCongestionRepeat_sound
  · exact .forEach fun _ _ => execRmHoldEnd_sound
  · exact .map fun _ _ => execMailboxAdmissionSignal_sound

theorem trailheadEvents_keeps : KeepsAll Q (trailheadEvents s) := by
  unfold trailheadEvents
  refine .append (.append (.append (.append (.append ?_ ?_) ?_) ?_) ?_) ?_
  · exact .forEach fun _ _ => execTeamRetire_sound
  · exact .forEach fun _ _ => execGridComplete_sound
  · split
    · exact .nil
    · exact .map fun _ _ => execCairn_sound
  · exact .map fun _ _ => execPacketConsume_sound
  · exact .map fun _ _ => execClusterPlace_sound
  · exact .forEach fun _ _ => execPriorityWaitLimit_sound

theorem requestEvent_sound (h : Sound Q s) : SoundOut Q (requestEvent s) := by
  unfold requestEvent
  split
  · split
    · exact .next h
    · exact runRequest_sound h
  · exact .next h

theorem KeepsAll.rotateLeft {l n} (h : KeepsAll Q l) : KeepsAll Q (l.rotateLeft n) := fun e he => by
  simp only [List.rotateLeft] at he
  split at he
  · exact h e he
  · exact h e ((List.mem_append.1 he).elim List.mem_of_mem_drop List.mem_of_mem_take)

theorem serve_sound (h : Sound Q s) : SoundOpt Q (serve s) := by
  have hops : KeepsAll Q ((s.ops.filter (opDue s)).map completeOp) := .map fun _ _ => completeOp_sound
  have hrequest : KeepsAll Q (if (nextRequest s).isSome then [requestEvent] else []) := by
    split
    · exact .one fun _ => requestEvent_sound
    · exact .nil
  have hrest : KeepsAll Q (fibreEvents s ++ (if (nextRequest s).isSome then [requestEvent] else []) ++ partEvents s ++ deviceEvents s) :=
    .append (.append (.append fibreEvents_keeps hrequest) partEvents_keeps) deviceEvents_keeps
  unfold serve
  refine firstChange_sound fun e he => ?_
  split at he
  · exact KeepsAll.append (.append hops hrest) trailheadEvents_keeps e he s h
  · exact KeepsAll.append (.append hrest.rotateLeft trailheadEvents_keeps) hops e he s h

theorem replayFault_sound {fid} (h : Sound Q s) : Sound Q (replayFault s fid) := by
  unfold replayFault
  split
  · split
    · split
      · exact loggedFault_sound h
      · exact h
    · exact h
  · exact h

theorem settleAll_sound (h : Sound False s) : Sound True (settleAll s) := by
  have h0 : Sound True { s with issue := none } := h.settled
  unfold settleAll
  extract_lets rep
  have hrep : ∀ x f, Sound True x → Sound True (rep x f) := fun _ _ k =>
    .ite k (.ite (replayFault_sound (replayAfter_sound (stepMet_sound k))) k)
  exact settleSteps_sound (settle_sound (.foldl hrep _ h0))

theorem thenSettle_sound {o} (h : SoundOut False o) : SoundOut True (thenSettle o) := by
  cases o with
  | next t => exact .next (settleAll_sound (h t rfl))
  | fault r => exact .fault
  | refused r => exact .refused

theorem byItself_sound (h : Sound False s) : SoundOut True (byItself s) := by
  unfold byItself
  split
  · next e => exact thenSettle_sound (.next (.set ((SoundOpt.ite .none (serve_sound h)) _ e)))
  · split
    · exact thenSettle_sound (stepFibre_sound (.set h))
    · split
      · exact thenSettle_sound (.next (tick_sound h))
      · split
        · next e => exact thenSettle_sound (.next (serve_sound h _ e))
        · exact thenSettle_sound (.next (tick_sound h))

theorem outside_sound {i} (h : Sound Q s) : SoundOut Q (outside i s) := exec_sound (modMgmt_sound h)

theorem takeInput_sound {x x'} (h : Sound Q x') : Sound Q (takeInput x x') := by
  unfold takeInput
  split
  · exact lineAcked_sound h
  · exact foreignWrite_sound h
  · exact gangAcked_sound h
  · exact creditsOut_sound h
  · exact sendError_sound h

theorem keepTurn_sound {t o} (h : SoundOut Q o) : SoundOut Q (keepTurn t o) := by
  unfold keepTurn
  split
  · next x => exact .next (.set (h x rfl))
  · exact h

theorem runTurn_sound {t} (h : Sound False s) : SoundOut True (runTurn t s) := by
  cases t with
  | issue f => exact thenSettle_sound (.ite (stepFibre_sound (.set h)) (.next h))
  | tick => exact thenSettle_sound (.next (tick_sound h))
  | event i => exact thenSettle_sound (.ite (keepTurn_sound (outside_sound h)) (outside_sound h))
  | input x => exact thenSettle_sound (.next (takeInput_sound h))
  | request src code pay addr rep => exact thenSettle_sound (runRequest_sound h)

theorem stepOnce_sound (h : Sound True s) : SoundOut True (stepOnce s) := by
  unfold stepOnce
  split
  · exact .ite (byItself_sound h.anyTime) (.next h)
  · split
    · exact .next (.set h)
    · split
      · exact runTurn_sound (.set h.anyTime)
      · exact byItself_sound h.anyTime

/-! ### The step (Machine/Step.lean) -/

theorem step_sound (h : Sound True s) : SoundOut True (step s) := stepOnce_sound h

/-- Settles O59: each function of the model keeps the canonical form (its lemma `…_sound`), and what follows a turn leaves no word in issue. -/
theorem stepKeepsMemory : Obligations.StepKeepsMemory := by
  unfold Obligations.StepKeepsMemory
  intro s t e hm hs
  obtain ⟨hmem, hset⟩ := step_sound (s := s) ⟨hm, fun _ => hs⟩ t e
  exact ⟨hmem, hset trivial⟩

end Sys2Proof.Machine
end

section
/-!
O54: the device as a whole. What the memory system and the records it posts leave alone (the fabric, and of a fault queue its configuration and HEAD);
the routes of a link that is cut; what a warm reset leaves, as the tables before its scrub check and what that check may change; what a loss of supply
leaves; the power states; the registers of the CXL.io space.
-/

namespace Sys2Proof.Machine

section Frames

variable {s t : State}

/-! ### The memory system leaves the fabric alone -/

/-- A fold leaves the fabric alone where each of its steps does. -/
theorem foldl_fabric {α : Type} {g : State → α → State} (h : ∀ s x, (g s x).fabric = s.fabric) (l : List α) (s : State) :
    (l.foldl g s).fabric = s.fabric := by
  induction l generalizing s with
  | nil => rfl
  | cons x r ih => exact (ih _).trans (h s x)

@[simp] theorem signal_fabric (fn : Nat) (irq : DWord) : (signal s fn irq).fabric = s.fabric := by
  unfold signal
  split <;> rfl

@[simp] theorem rmThreshold_fabric (b r : Nat) : (rmThreshold s b r).fabric = s.fabric := by
  simp [rmThreshold, apply_ite State.fabric]

@[simp] theorem activate_fabric (ln : Nat) : (activate s ln).fabric = s.fabric := by
  simp [activate, apply_ite State.fabric]

@[simp] theorem tellTo_fabric (w ln : Nat) (l : List Nat) : (s.tellTo w ln l).fabric = s.fabric := rfl

@[simp] theorem setMd_fabric (ln o st : Nat) : (s.setMd ln o st).fabric = s.fabric := rfl

@[simp] theorem uncorrectable_fabric (ln : Nat) : (uncorrectable s ln).fabric = s.fabric := rfl

@[simp] theorem badMeta_fabric (ln : Nat) : (badMeta s ln).fabric = s.fabric := by simp [badMeta]

@[simp] theorem remapError_fabric (ln : Nat) : (remapError s ln).fabric = s.fabric := by
  unfold remapError
  simp only
  split <;> rfl

@[simp] theorem eccRead_fabric (ln : Nat) : (eccRead s ln).fabric = s.fabric := by
  unfold eccRead
  split <;> simp [apply_ite State.fabric]

@[simp] theorem l3Room_fabric (ln : Nat) : (l3Room s ln).fabric = s.fabric := by
  simp [l3Room, apply_ite State.fabric]

@[simp] theorem fetchLine_fabric (ln : Nat) (nt : Bool) : (fetchLine s ln nt).fabric = s.fabric := by
  simp [fetchLine, apply_ite State.fabric]

@[simp] theorem undoCapture_fabric (ln : Nat) : (undoCapture s ln).fabric = s.fabric := by
  unfold undoCapture
  split
  · rfl
  · simp only
    split
    · rfl
    · split <;> split <;> simp

@[simp] theorem compWrite_fabric (ln : Nat) (d : BitVec 1024) (m : BitVec 128) : (compWrite s ln d m).fabric = s.fabric := by
  unfold compWrite
  simp only
  split <;> rfl

@[simp] theorem lineWrite_fabric (ln : Nat) (d : BitVec 1024) (m : BitVec 128) : (lineWrite s ln d m).fabric = s.fabric := by
  unfold lineWrite
  split
  · exact compWrite_fabric ln d m
  · rfl

@[simp] theorem dropOwn_fabric (ln : Nat) (w : BitVec 32) : (dropOwn s ln w).fabric = s.fabric := rfl

@[simp] theorem recallData_fabric (ln : Nat) : (recallData s ln).fabric = s.fabric := by
  simp [recallData]

@[simp] theorem snoopData_fabric (ln : Nat) : (snoopData s ln).fabric = s.fabric := by
  unfold snoopData
  split <;> simp

@[simp] theorem gather_fabric (ln : Nat) (u : LineUse) : (gather s ln u).fabric = s.fabric := by
  unfold gather
  split
  · rfl
  · exact foldl_fabric (fun _ _ => tellTo_fabric ..) _ _

@[simp] theorem homeRead_fabric (ln : Nat) (nt : Bool) : (homeRead s ln nt).fabric = s.fabric := by
  unfold homeRead
  simp only
  split
  · simp
  · split <;> simp [apply_ite State.fabric]

@[simp] theorem homeTakes_fabric (ln : Nat) : (homeTakes s ln).fabric = s.fabric := by
  unfold homeTakes
  split
  · rfl
  · simp only
    split <;> simp [apply_ite State.fabric]

@[simp] theorem walkRead_fabric (va lvl table : Nat) : (walkRead va lvl table s).fabric = s.fabric := by
  induction lvl generalizing table s with
  | zero => rfl
  | succ lvl ih => simp [walkRead, apply_ite State.fabric, ih]

@[simp] theorem homeWrite_fabric (ln : Nat) (d : BitVec 1024) (m : BitVec 128) : (homeWrite s ln d m).fabric = s.fabric := by
  unfold homeWrite
  split
  · rfl
  · split
    · split <;> rfl
    · simp only
      split
      · simp
      · rw [dropOwn_fabric, lineWrite_fabric]
        split <;> simp [State.setPoison]

theorem writeVirt_fabric {v va : Nat} {l : List Byte} {captured : Bool} (h : writeVirt s v va l captured = some t) : t.fabric = s.fabric := by
  unfold writeVirt at h
  simp only at h
  split at h
  · cases h
    split
    · simp [homeWriteN, walkReads]
    · split <;> simp [walkReads]
  · cases h

/-! ### Posting a record -/

theorem postOne_fabric {v : Nat} (h : postOne s v = some t) : t.fabric = s.fabric := by
  unfold postOne at h
  simp only at h
  split at h
  · cases h
  · split at h
    · cases h
    · split at h
      · next hw => cases h; simpa using writeVirt_fabric hw
      · cases h

@[simp] theorem postHeld_fabric (v n : Nat) : (postHeld s v n).fabric = s.fabric := by
  induction n generalizing s with
  | zero => rfl
  | succ n ih =>
    unfold postHeld
    split
    · next h => exact ih.trans (postOne_fabric h)
    · rfl

@[simp] theorem postSummary_fabric (b : BitVec 512) : (postSummary s b).fabric = s.fabric := by
  simp [postSummary, apply_ite State.fabric]

@[simp] theorem postRecord_fabric (v : Nat) (b : BitVec 512) (soft : Bool) : (postRecord s v b soft).fabric = s.fabric := by
  simp [postRecord, apply_ite State.fabric]

theorem lostDevice_fabric (s : State) (d : Nat) : (lostDevice s d).fabric = s.fabric :=
  foldl_fabric (fun _ _ => by simp [postSystem, apply_ite State.fabric]) _ _

/-- The reads of a walk keep what every home read keeps. -/
theorem walkRead_kept (va lvl table : Nat) : Kept s (walkRead va lvl table s) := by
  induction lvl generalizing table s with
  | zero => exact .refl s
  | succ lvl ih =>
    simp only [walkRead]
    split
    · exact homeRead_kept _ _
    · exact (homeRead_kept _ _).trans (ih _)

/-- So does what a home slice does before a write of Trailhead's at a virtual address. -/
theorem walkTakes_kept (v va ln : Nat) : Kept s (homeTakes (fetchLine (walkReads v va s) ln false) ln) :=
  ((walkRead_kept _ _ _).trans (fetchLine_kept _ _)).trans (homeTakes_kept _)

/-- A write that is not captured at a virtual address, as Trailhead makes it, leaves the interfaces alone. -/
theorem writeVirt_vis {v va : Nat} {l : List Byte} (h : writeVirt s v va l false = some t) : t.vis = s.vis := by
  unfold writeVirt at h
  simp only [Bool.false_eq_true, if_false] at h
  split at h
  · cases h
    split
    · exact (walkTakes_kept _ _ _).vis
    · exact ((walkTakes_kept _ _ _).trans ((lineWrite_kept _ _ _).trans (dropOwn_kept _ _))).vis
  · cases h

/-- Posting a record leaves the configuration of the fault queue and HEAD alone. -/
theorem postOne_head {v : Nat} (h : postOne s v = some t) :
    ((t.vi v).fqcfg, (t.vi v).fqHead) = ((s.vi v).fqcfg, (s.vi v).fqHead) := by
  unfold postOne at h
  simp only at h
  split at h
  · cases h
  · split at h
    · cases h
    · split at h
      · next s1 hw =>
        cases h
        have told : ∀ g fn irq, (signal (s1.modVi v g) fn irq).vi v = g (s.vi v) := fun g fn irq => by
          rw [State.vi, (signal_kept fn irq).vis]
          exact (State.vi_modVi s1 v g v).trans (by simp [State.vi, writeVirt_vis hw])
        rw [told]
      · cases h

/-- Posting what is held leaves the configuration of the fault queue and HEAD alone. -/
theorem postHeld_head (v n : Nat) : (((postHeld s v n).vi v).fqcfg, ((postHeld s v n).vi v).fqHead) = ((s.vi v).fqcfg, (s.vi v).fqHead) := by
  induction n generalizing s with
  | zero => rfl
  | succ n ih =>
    unfold postHeld
    split
    · next h => exact ih.trans (postOne_head h)
    · rfl

/-! ### Routes (R353, R354) -/

theorem routePorts_eq (x : DWord) : routePorts x = (List.range (min 4 (x.toNat % 8))).map fun k => x.toNat / 2 ^ (4 + 4 * k) % 16 := by
  unfold routePorts
  simp only [fieldOf, bitsOf, Nat.pow_zero, Nat.div_one, Nat.reduceAdd, Nat.reduceSub, Nat.reducePow]
  refine List.map_congr_left fun k _ => ?_
  rw [show 7 + 4 * k + 1 - (4 + 4 * k) = 4 by omega]
  rfl

theorem routePorts_lt {x : DWord} {p : Nat} (h : p ∈ routePorts x) : p < 16 := by
  rw [routePorts_eq] at h
  obtain ⟨k, _, rfl⟩ := List.mem_map.1 h
  exact Nat.mod_lt _ (by decide)

/-- The word that lists at most four ports reads back as those ports. -/
theorem routePorts_routeOf {l : List Nat} (hlen : l.length ≤ 4) (hlt : ∀ p ∈ l, p < 16) : routePorts (routeOf l) = l := by
  have digits : ∀ n x : Nat, n ≤ 4 → x < 2 ^ 24 → x % 8 = n →
      routePorts (BitVec.ofNat 64 x) = (List.range n).map fun k => x / 2 ^ (4 + 4 * k) % 16 := by
    intro n x hn hx hm
    rw [routePorts_eq, BitVec.toNat_ofNat, Nat.mod_eq_of_lt (by omega), hm, Nat.min_eq_right hn]
  unfold routeOf
  match l, hlen with
  | [], _ => rfl
  | [a], h | [a, b], h | [a, b, c], h | [a, b, c, d], h =>
    simp only [List.mem_cons, List.not_mem_nil, or_false, forall_eq_or_imp, forall_eq] at hlt
    rw [digits _ _ h]
    all_goals simp [List.zipIdx, List.range_succ]
    all_goals omega

/-- A route entry without a port: what is left of its ports, in their order. -/
theorem routePorts_filter (x : DWord) (n : Nat) :
    routePorts (if (routePorts x).contains n then routeOf ((routePorts x).filter fun p => p != n) else x) =
      (routePorts x).filter fun p => p != n := by
  split
  · refine routePorts_routeOf ((List.length_filter_le _ _).trans (by simp [routePorts])) fun p hp => ?_
    exact routePorts_lt (List.mem_of_mem_filter hp)
  · next h =>
    refine (List.filter_eq_self.2 fun p hp => ?_).symm
    have : p ≠ n := fun e => h (List.contains_iff_mem.2 (e ▸ hp))
    simpa using this

/-- LINK_TIMEOUT does nothing while the link is up or LINKTO has not passed. -/
theorem execLinkTimeout_early {n : Nat} (h : (s.fabric.ports.getD n Port.init).up = true ∨
    ¬ (s.fabric.ports.getD n Port.init).downAt + s.fabric.linkTo * 1000000 ≤ s.mgmt.gts.toNat) : execLinkTimeout n s = .next s := by
  unfold execLinkTimeout
  rw [if_pos]
  simpa using h

/-- LINK_TIMEOUT of a link that stays down takes it from every route entry; the records it posts leave the routes alone. -/
theorem execLinkTimeout_late {n : Nat} (hup : (s.fabric.ports.getD n Port.init).up = false)
    (hlate : (s.fabric.ports.getD n Port.init).downAt + s.fabric.linkTo * 1000000 ≤ s.mgmt.gts.toNat) :
    ∃ t, execLinkTimeout n s = .next t ∧
      ∀ d, routePorts (t.fabric.routes.getD d 0) = (routePorts (s.fabric.routes.getD d 0)).filter fun p => p != n := by
  unfold execLinkTimeout
  rw [if_neg (by simpa [hup] using hlate)]
  refine ⟨_, rfl, fun d => ?_⟩
  rw [foldl_fabric lostDevice_fabric, AMap.getD, AMap.get?_mapVals, AMap.getD]
  cases s.fabric.routes.get? d with
  | none => simp [routePorts_eq]
  | some x => exact routePorts_filter x n

end Frames

/-! ### Warm reset (R368) -/

/-- A changed table reads back entry by entry, where the change leaves the default as it is. -/
theorem AMap.getD_mapVals {α : Type} (m : AMap α) (f : Nat → α → α) (n : Nat) {d : α} (hd : f n d = d) :
    (m.mapVals f).getD n d = f n (m.getD n d) := by
  unfold AMap.getD
  rw [AMap.get?_mapVals]
  cases m.get? n with
  | none => exact hd.symm
  | some x => rfl

theorem AMap.keys_mapVals {α β : Type} (m : AMap α) (f : Nat → α → β) : (m.mapVals f).keys = m.keys := by
  simp [AMap.keys, AMap.mapVals]

/-- A key of a table reads as one of the table's entries. -/
theorem AMap.get?_of_mem_keys {α : Type} {m : AMap α} {k : Nat} (h : k ∈ m.keys) : ∃ v, m.get? k = some v ∧ (k, v) ∈ m := by
  induction m with
  | nil => cases h
  | cons e r ih =>
    obtain ⟨j, v⟩ := e
    unfold AMap.get?
    split
    · next hj => exact ⟨v, rfl, by simp [hj]⟩
    · next hj =>
      have hr : k ∈ AMap.keys r := (List.mem_cons.1 h).resolve_left fun e => hj (by simpa using e)
      obtain ⟨x, hx, hm⟩ := ih hr
      exact ⟨x, hx, .tail _ hm⟩

/-- What a change of the metadata of bad lines leaves: all but that metadata, the counts of errors and what has gone out. -/
structure Scrubbed (bad : Nat → Prop) (s t : State) : Prop where
  frame : { t with lines := s.lines, hbm := s.hbm, mgmt := s.mgmt } = s
  hbm   : { t.hbm with stk := s.hbm.stk } = s.hbm
  mgmt  : { t.mgmt with remoteOut := s.mgmt.remoteOut } = s.mgmt
  stack : ∀ n, ((t.stack n).remap, (t.stack n).rmcnt) = ((s.stack n).remap, (s.stack n).rmcnt)
  lines : ∀ n, (t.line n).inL3 = (s.line n).inL3 ∧ (t.line n).own = (s.line n).own ∧ (¬ bad n → t.md n = s.md n)
  sent  : ∃ l, t.mgmt.remoteOut = s.mgmt.remoteOut ++ l

namespace Scrubbed

variable {bad : Nat → Prop} {s t u : State}

theorem refl (s : State) : Scrubbed bad s s := ⟨rfl, rfl, rfl, fun _ => rfl, fun _ => ⟨rfl, rfl, fun _ => rfl⟩, [], by simp⟩

theorem trans (h : Scrubbed bad s t) (k : Scrubbed bad t u) : Scrubbed bad s u where
  frame := (congrArg (fun x : State => { x with lines := s.lines, hbm := s.hbm, mgmt := s.mgmt }) k.frame).trans h.frame
  hbm   := (congrArg (fun x : Hbm => { x with stk := s.hbm.stk }) k.hbm).trans h.hbm
  mgmt  := (congrArg (fun x : Mgmt => { x with remoteOut := s.mgmt.remoteOut }) k.mgmt).trans h.mgmt
  stack := fun n => (k.stack n).trans (h.stack n)
  lines := fun n => by
    obtain ⟨hl3, hown, hmd⟩ := h.lines n
    obtain ⟨kl3, kown, kmd⟩ := k.lines n
    exact ⟨kl3.trans hl3, kown.trans hown, fun hn => (kmd hn).trans (hmd hn)⟩
  sent  := by
    obtain ⟨l, hl⟩ := h.sent
    obtain ⟨m, hm⟩ := k.sent
    exact ⟨l ++ m, by rw [hm, hl, List.append_assoc]⟩

theorem modLine {ln : Nat} {g : LineInfo → LineInfo} (hb : bad ln) (hg : ∀ l, (g l).inL3 = l.inL3 ∧ (g l).own = l.own) :
    Scrubbed bad s (s.modLine ln g) where
  frame := rfl
  hbm   := rfl
  mgmt  := rfl
  stack := fun _ => rfl
  lines := fun n => by
    rw [State.md, State.line_modLine]
    split
    · next e => exact ⟨e ▸ (hg _).1, e ▸ (hg _).2, fun hn => absurd (e ▸ hb) hn⟩
    · exact ⟨rfl, rfl, fun _ => rfl⟩
  sent  := ⟨[], (List.append_nil _).symm⟩

theorem modStack {k : Nat} {g : Stack → Stack} (hg : ∀ x, ((g x).remap, (g x).rmcnt) = (x.remap, x.rmcnt)) :
    Scrubbed bad s (s.modStack k g) where
  frame := rfl
  hbm   := rfl
  mgmt  := rfl
  stack := fun n => by
    rw [State.stack, State.modStack, AMap.getD_upd]
    split
    · next e => exact e ▸ hg _
    · rfl
  lines := fun _ => ⟨rfl, rfl, fun _ => rfl⟩
  sent  := ⟨[], (List.append_nil _).symm⟩

theorem tellTo (w ln : Nat) (to_ : List Nat) : Scrubbed bad s (s.tellTo w ln to_) where
  frame := rfl
  hbm   := rfl
  mgmt  := rfl
  stack := fun _ => rfl
  lines := fun _ => ⟨rfl, rfl, fun _ => rfl⟩
  sent  := ⟨[(w, ln, to_)], rfl⟩

/-- Uncorrectable metadata of a bad line. -/
theorem badMeta {ln : Nat} (hb : bad ln) : Scrubbed bad s (badMeta s ln) := by
  have poisoned : Scrubbed bad s (uncorrectable s ln) := by
    refine trans (t := s.setPoison ln true) (modLine hb ?_) (modStack ?_)
    · exact fun _ => ⟨rfl, rfl⟩
    · exact fun _ => rfl
  refine trans ((poisoned.trans (tellTo ..)).trans (tellTo ..)) (modLine hb ?_)
  exact fun _ => ⟨rfl, rfl⟩

end Scrubbed

/-- Metadata that the scrub check handles as an uncorrectable error (R328, R368). -/
def BadMd (m : BitVec 16) : Prop := 6 ≤ mdState m ∨ m.getLsbD 15 = true

/-- The scrub check changes the metadata of lines only where it is bad. -/
theorem scrubCheck_scrubbed (s : State) : Scrubbed (fun n => BadMd (s.md n)) s (scrubCheck s) := by
  have fold : ∀ (l : List Nat) (x : State), Scrubbed (fun n => BadMd (s.md n)) s x → Scrubbed (fun n => BadMd (s.md n)) s
      (l.foldl (fun s ln => if 6 ≤ mdState (s.md ln) || (s.md ln).getLsbD 15 then badMeta s ln else s) x) := by
    intro l
    induction l with
    | nil => exact fun _ h => h
    | cons ln r ih =>
      refine fun x h => ih _ ?_
      dsimp only
      split
      · next hb =>
        refine h.trans (Scrubbed.badMeta (Classical.byContradiction fun hn => hn ?_))
        have same := (h.lines ln).2.2 hn
        simpa [BadMd, same] using hb
      · exact h
  exact fold _ s (.refl s)

/-- The scrub check of lines that are good does nothing. -/
theorem scrubCheck_good {s : State} (h : ∀ n ∈ s.lines.keys, ¬ BadMd (s.md n)) : scrubCheck s = s := by
  unfold scrubCheck
  generalize s.lines.keys = l at h
  induction l with
  | nil => rfl
  | cons n r ih =>
    have hn := h n (.head _)
    rw [List.foldl_cons, if_neg (by simpa [BadMd] using hn)]
    exact ih fun m hm => h m (.tail _ hm)

/-- What the L3 loses is bytes of main memory. -/
theorem loseL3_frame (s : State) : { loseL3 s with mem := s.mem, free := s.free } = s := by
  unfold loseL3
  generalize List.filter _ s.lines = l
  have fold : ∀ (l : List (Nat × LineInfo)) (x : State), { x with mem := s.mem, free := s.free } = s →
      { l.foldl (fun s e =>
          let d := s.drawFree
          { d.2 with mem := d.2.mem.writeN (e.1 * 128) 128 d.1.toNat }) x with mem := s.mem, free := s.free } = s := by
    intro l
    induction l with
    | nil => exact fun _ h => h
    | cons e r ih => exact fun x h => ih _ h
  exact fold l s rfl

/-- With no line in an L3 nothing is lost. -/
theorem loseL3_none {s : State} (h : ∀ e ∈ s.lines, e.2.inL3 = false) : loseL3 s = s := by
  unfold loseL3
  rw [List.filter_eq_nil_iff.2 fun e he => by simp [h e he]]
  rfl

/-- The state that a warm reset leaves before its scrub check. -/
def warmBase (s : State) : State :=
  let s0 := loseL3 (s.tell 8 s.fabric.device)
  let m := s0.mgmt
  { State.reset with
    agenda := s0.agenda, clock := s0.clock, nextOp := s0.nextOp, nextTeam := s0.nextTeam, nextGrid := s0.nextGrid, free := s0.free
    mem := s0.mem.filter fun c => isRemote (lineOf c.1) || (confOf s (lineOf c.1)).isNone
    lines := s0.lines.mapVals fun _ => warmLine, hostMem := s0.hostMem
    vis := s0.vis.mapVals fun _ => warmVi, parts := s0.parts.mapVals warmPart, queues := s0.queues.mapVals fun _ => warmQueue
    fabric := { Fabric.init with device := s0.fabric.device, mboxes := s0.fabric.mboxes.mapVals fun _ => warmMbox }
    hbm := warmHbm s0.hbm
    mgmt := { nvMgmt m with gts := m.gts, gtsFrac := m.gtsFrac, slew := m.slew, slewBig := m.slewBig } }

theorem warm_eq (s : State) : warm s = scrubCheck (warmBase s) := rfl

section Base

variable (s : State)

/-- What is lost of the L3 is in no other field. -/
theorem lost_field {α : Type} (f : State → α) (h : ∀ x m n, f { x with mem := m, free := n } = f x) :
    f (loseL3 (s.tell 8 s.fabric.device)) = f (s.tell 8 s.fabric.device) :=
  (h (loseL3 _) _ _).symm.trans (congrArg f (loseL3_frame _))

theorem warmBase_lines : (warmBase s).lines = s.lines.mapVals fun _ => warmLine :=
  congrArg (fun l : AMap LineInfo => l.mapVals fun _ => warmLine) (lost_field s State.lines fun _ _ _ => rfl)

theorem warmBase_vi (n : Nat) : (warmBase s).vi n = warmVi (s.vi n) :=
  (congrArg (fun v : AMap Vi => (v.mapVals fun _ => warmVi).getD n Vi.init) (lost_field s State.vis fun _ _ _ => rfl)).trans
    (AMap.getD_mapVals s.vis (fun _ => warmVi) n rfl)

theorem warmBase_part (n : Nat) : (warmBase s).part n = warmPart n (s.part n) :=
  (congrArg (fun v : AMap Part => (v.mapVals warmPart).getD n (Part.init n)) (lost_field s State.parts fun _ _ _ => rfl)).trans
    (AMap.getD_mapVals s.parts warmPart n rfl)

theorem warmBase_queue (n : Nat) : (warmBase s).queue n = warmQueue (s.queue n) :=
  (congrArg (fun v : AMap Queue => (v.mapVals fun _ => warmQueue).getD n Queue.init) (lost_field s State.queues fun _ _ _ => rfl)).trans
    (AMap.getD_mapVals s.queues (fun _ => warmQueue) n rfl)

theorem warmBase_mbox (n : Nat) : (warmBase s).mbox n = warmMbox (s.mbox n) :=
  (congrArg (fun v : Fabric => (v.mboxes.mapVals fun _ => warmMbox).getD n Mailbox.init) (lost_field s State.fabric fun _ _ _ => rfl)).trans
    (AMap.getD_mapVals s.fabric.mboxes (fun _ => warmMbox) n rfl)

theorem warmBase_hbm : (warmBase s).hbm = warmHbm s.hbm := congrArg warmHbm (lost_field s State.hbm fun _ _ _ => rfl)

theorem warmBase_stack (n : Nat) : (warmBase s).stack n = warmStack (s.stack n) := by
  unfold State.stack
  rw [warmBase_hbm]
  exact AMap.getD_mapVals s.hbm.stk (fun _ => warmStack) n rfl

theorem warmBase_freshLine (n : Nat) : (warmBase s).freshLine n = s.freshLine n := by
  unfold State.freshLine
  rw [warmBase_part, warmBase_hbm]
  rfl

theorem warmBase_line (n : Nat) : (warmBase s).line n = warmLine (s.line n) := by
  unfold State.line
  rw [warmBase_lines, warmBase_freshLine]
  refine AMap.getD_mapVals _ _ _ ?_
  unfold State.freshLine
  split <;> rfl

theorem warmBase_md (n : Nat) : (warmBase s).md n = s.md n :=
  (congrArg LineInfo.md (warmBase_line s n)).trans rfl

/-- The management state of the base: what survives any reset, the lost-copies notice and the time. -/
theorem warmBase_mgmt : (warmBase s).mgmt =
    { nvMgmt s.mgmt with
      remoteOut := s.mgmt.remoteOut ++ [(8, s.fabric.device, [])], gts := s.mgmt.gts, gtsFrac := s.mgmt.gtsFrac, slew := s.mgmt.slew
      slewBig := s.mgmt.slewBig } :=
  congrArg (fun m : Mgmt => { nvMgmt m with gts := m.gts, gtsFrac := m.gtsFrac, slew := m.slew, slewBig := m.slewBig })
    (lost_field s State.mgmt fun _ _ _ => rfl)

theorem warmBase_mem (h : ∀ e ∈ s.lines, e.2.inL3 = false) (hc : ∀ n, confOf s n = none) : (warmBase s).mem = s.mem := by
  unfold warmBase
  rw [loseL3_none (s := s.tell 8 s.fabric.device) h]
  exact List.filter_eq_self.2 fun c _ => by simp [hc]

end Base

/-- What a warm reset leaves. -/
theorem warm_warmed (s : State) : Warmed s (warm s) := by
  rw [warm_eq]
  have h := scrubCheck_scrubbed (warmBase s)
  generalize ht : scrubCheck (warmBase s) = t at h
  have field : ∀ {α : Type} (f : State → α), (∀ x l b m, f { x with lines := l, hbm := b, mgmt := m } = f x) → f t = f (warmBase s) :=
    fun f hf => (hf t _ _ _).symm.trans (congrArg f h.frame)
  have mfield : ∀ {α : Type} (f : Mgmt → α), (∀ x l, f { x with remoteOut := l } = f x) → f t.mgmt = f (warmBase s).mgmt :=
    fun f hf => (hf t.mgmt _).symm.trans (congrArg f h.mgmt)
  refine ⟨?lost, ?mem, ?lines, ?hbm, ?vis, ?queue, ?mbox, ?rings, ?fuses, ?sent⟩
  case lost =>
    exact ⟨field State.fibres fun _ _ _ _ => rfl, field State.teams fun _ _ _ _ => rfl, field State.grids fun _ _ _ _ => rfl,
      field State.slots fun _ _ _ _ => rfl, field State.cores fun _ _ _ _ => rfl, field State.ops fun _ _ _ _ => rfl,
      field State.ctxs fun _ _ _ _ => rfl, field State.issue fun _ _ _ _ => rfl, (mfield Mgmt.sessions fun _ _ => rfl).trans rfl⟩
  case mem => exact fun hl hc => (field State.mem fun _ _ _ _ => rfl).trans (warmBase_mem s hl hc)
  case lines =>
    intro n
    obtain ⟨hl3, hown, hmd⟩ := h.lines n
    refine ⟨hl3.trans ?_, hown.trans ?_, fun h6 h15 => (hmd ?_).trans (warmBase_md s n)⟩
    · rw [warmBase_line]; rfl
    · rw [warmBase_line]; rfl
    · rw [warmBase_md]
      rintro (h | h)
      · omega
      · exact absurd (h15.symm.trans h) nofun
  case hbm =>
    have regions : t.hbm.regions = s.hbm.regions := (congrArg Hbm.regions h.hbm).trans (by rw [warmBase_hbm]; rfl)
    refine ⟨fun n => by rw [region, regions]; rfl, fun n => ?_⟩
    have hk := h.stack n
    rw [warmBase_stack] at hk
    exact ⟨congrArg Prod.fst hk, congrArg Prod.snd hk⟩
  case vis => exact fun n => (congrArg Vi.cfg (field (·.vi n) fun _ _ _ _ => rfl)).trans (by rw [warmBase_vi]; rfl)
  case queue =>
    intro n
    have hq : t.queue n = warmQueue (s.queue n) := (field (·.queue n) fun _ _ _ _ => rfl).trans (warmBase_queue s n)
    rw [hq]
    exact ⟨rfl, rfl⟩
  case mbox =>
    intro n
    have hq : t.mbox n = warmMbox (s.mbox n) := (field (·.mbox n) fun _ _ _ _ => rfl).trans (warmBase_mbox s n)
    rw [hq]
    exact ⟨rfl, rfl⟩
  case rings =>
    intro n
    have hq : t.part n = warmPart n (s.part n) := (field (·.part n) fun _ _ _ _ => rfl).trans (warmBase_part s n)
    rw [hq]
    rfl
  case fuses =>
    have hm := mfield (fun m => (m.hssCount, m.manifests, m.fwWords)) fun _ _ => rfl
    rw [warmBase_mgmt] at hm
    exact hm
  case sent =>
    obtain ⟨l, hl⟩ := h.sent
    rw [warmBase_mgmt] at hl
    refine ⟨l, hl.trans (by simp), fun good => ?_⟩
    have same : scrubCheck (warmBase s) = warmBase s := scrubCheck_good fun n hn => by
      rw [warmBase_lines, AMap.keys_mapVals] at hn
      obtain ⟨v, hv, hm⟩ := AMap.get?_of_mem_keys hn
      obtain ⟨h6, h15⟩ := good _ hm
      have hmd : s.md n = v.md := by simp [State.md, State.line, AMap.getD, hv]
      rw [warmBase_md, hmd]
      rintro (h | h)
      · exact absurd h6 (Nat.not_lt.2 h)
      · exact absurd (h15.symm.trans h) nofun
    rw [← ht, same, warmBase_mgmt] at hl
    exact List.append_cancel_left (hl.symm.trans (List.append_nil _).symm)

/-! ### Power (R365, R367, R369, R370) -/

/-- The supply gone, with any count of free values drawn and any management state that keeps what is in non-volatile storage. -/
theorem offState_emptied (s : State) (n : Nat) {m : Mgmt} (hf : (m.manifests, m.ownerKey) = (s.mgmt.manifests, s.mgmt.ownerKey))
    (hg : m.sessions = [] ∧ m.gts = Mgmt.init.gts ∧ m.summary = Mgmt.init.summary ∧ m.rings = Mgmt.init.rings) :
    Emptied s { offState s with free := n, mgmt := m } :=
  ⟨rfl, ⟨rfl, rfl⟩, hf, hg⟩

theorem offState_emptied_self (s : State) : Emptied s (offState s) := offState_emptied s s.free rfl ⟨rfl, rfl, rfl, rfl⟩

theorem cold_emptied (s : State) : Emptied s (cold s) := by
  unfold cold
  refine offState_emptied s s.free ?_ ?_
  all_goals
    dsimp only
    split
  · rfl
  · split <;> rfl
  · exact ⟨rfl, rfl, rfl, rfl⟩
  · split <;> exact ⟨rfl, rfl, rfl, rfl⟩

theorem cold_mgmt (s : State) : (cold s).mgmt.power = .ps0 ∧ (cold s).mgmt.bootErr = s.mgmt.fwBad := ⟨rfl, rfl⟩

/-- The state that POWER_STATE has reached, in its response. -/
def reached (t : State) (n : Nat) : State := (answer t 0 (BitVec.ofNat 64 n)).modMgmt fun m => { m with power := powerOf n }

theorem reached_mgmt (t : State) (n : Nat) : (reached t n).mgmt.power = powerOf n ∧ (reached t n).mgmt.status = 0 ∧
    (reached t n).mgmt.result = BitVec.ofNat 64 n := ⟨rfl, rfl, rfl⟩

theorem Emptied.reached {s t : State} (h : Emptied s t) (n : Nat) : Emptied s (reached t n) := ⟨h.reset, h.host, h.fuses, h.gone⟩

theorem Warmed.answered {s t : State} (h : Warmed s t) (st : Nat) (r : DWord) : Warmed s (answer t st r) :=
  ⟨h.lost, h.mem, h.lines, h.hbm, h.vis, h.queue, h.mbox, h.rings, h.fuses, h.sent⟩

theorem Warmed.reached {s t : State} (h : Warmed s t) (n : Nat) : Warmed s (reached t n) :=
  ⟨h.lost, h.mem, h.lines, h.hbm, h.vis, h.queue, h.mbox, h.rings, h.fuses, h.sent⟩

theorem srcPf0_iff {s : State} : srcPf0 s = true ↔ s.mgmt.src = .pf0 ∨ s.mgmt.src = .mgmt := by
  simp [srcPf0]

/-- POWER_STATE leaves a device whose supply is on for PS4 or PS3 by way of what the target asks. -/
theorem execPowerState_eq {s : State} {n : Nat} (hn : n ≤ 4) (may : srcPf0 s = true) :
    execPowerState n s = .next (if s.mgmt.power = .ps4 then (if n = 4 then answer s 0 4 else reached (cold s) n)
      else if 3 ≤ n ∧ s.grids ≠ [] then answer s 2 0
      else if n = 4 then reached (offState s) n
      else if n = 3 ∨ s.mgmt.power = .ps3 then reached (warm s) n
      else reached s n) := by
  unfold execPowerState
  simp [may, Nat.not_lt.2 hn, reached]

/-! ### Registers of the CXL.io space by their access codes (R9, R271, R295, R338, R380) -/

/-- The fields of a ring register as it is written: BASE, LOG in its range or its default, the low bits. -/
theorem normRing_fields (x : DWord) {lo hi d n : Nat} (hhi : hi < 16) (hd : d < 16) (hn : n ≤ 8) :
    fieldOf (normRing x lo hi d n) 63 12 = fieldOf x 63 12 ∧
    fieldOf (normRing x lo hi d n) 11 8 = (if lo ≤ fieldOf x 11 8 ∧ fieldOf x 11 8 ≤ hi then fieldOf x 11 8 else d) ∧
    fieldOf (normRing x lo hi d n) 7 0 = x.toNat % 2 ^ n := by
  have hlow : x.toNat % 2 ^ n < 256 := (Nat.mod_lt _ (Nat.two_pow_pos n)).trans_le (Nat.pow_le_pow_right (by decide) hn)
  have hlog : orElseIn (fieldOf x 11 8) lo hi d < 16 := by
    unfold orElseIn
    split <;> omega
  have hbase : fieldOf x 63 12 < 2 ^ 52 := Nat.mod_lt _ (by decide)
  have hval : (normRing x lo hi d n).toNat = fieldOf x 63 12 * 2 ^ 12 + orElseIn (fieldOf x 11 8) lo hi d * 2 ^ 8 + x.toNat % 2 ^ n := by
    rw [normRing, BitVec.toNat_ofNat]
    exact Nat.mod_eq_of_lt (by omega)
  change _ = _ ∧ _ = orElseIn (fieldOf x 11 8) lo hi d ∧ _
  generalize fieldOf x 63 12 = base at *
  generalize orElseIn (fieldOf x 11 8) lo hi d = log at *
  generalize x.toNat % 2 ^ n = low at *
  simp only [fieldOf, bitsOf, hval]
  omega

/-- The configuration register of the fault queue reads as it is written, whatever held records are posted. -/
theorem execFqcfgWrite_fqcfg (s : State) (v : Nat) (x : DWord) :
    ∃ t, execFqcfgWrite v x s = .next t ∧ (t.vi v).fqcfg = normRing x 6 15 6 1 := by
  refine ⟨_, rfl, (congrArg Prod.fst (postHeld_head _ _)).trans ?_⟩
  rw [State.vi_modVi, if_pos rfl]

theorem execFqptrWrite_fqHead (s : State) (v : Nat) (x : DWord) :
    ∃ t, execFqptrWrite v x s = .next t ∧ (t.vi v).fqHead = x.setWidth 16 := by
  refine ⟨_, rfl, (congrArg Prod.snd (postHeld_head _ _)).trans ?_⟩
  rw [State.vi_modVi, if_pos rfl]

theorem stack_modStack (s : State) (n : Nat) (g : Stack → Stack) : (s.modStack n g).stack n = g (s.stack n) :=
  (AMap.getD_upd _ _ _ _ _).trans (if_pos rfl)

theorem registerWrite_mrcfg (s : State) (v : Nat) (x : DWord) :
    ∃ t, exec (.registerWrite .mrcfg v x) s = .next t ∧ (t.mgmt.rings.getD v ReqRing.init).cfg = normRing x 4 10 4 1 := by
  refine ⟨s.modMgmt fun m => { m with rings := m.rings.upd v ReqRing.init fun r => { r with cfg := normRing x 4 10 4 1 } }, rfl, ?_⟩
  rw [State.modMgmt, AMap.getD_upd, if_pos rfl]

/-- Of HBM.ALERT a written one clears a bit of the upper two and no other. -/
theorem alert_clear (a x : DWord) {i : Nat} (hi : i < 64) :
    (a &&& ~~~ (x &&& 0xC000000000000000#64)).getLsbD i = (a.getLsbD i && !(decide (62 ≤ i) && x.getLsbD i)) := by
  have upper : ∀ i < 64, (0xC000000000000000#64).getLsbD i = decide (62 ≤ i) := by decide
  rw [BitVec.getLsbD_and, BitVec.getLsbD_not, BitVec.getLsbD_and, upper i hi, Bool.and_comm (x.getLsbD i)]
  simp [hi]

/-! ### Messages sent again (R352, R356) -/

/-- A credit of VC 3 sends the one message that was kept as if it arrived anew. -/
theorem execGuylineCreditReturn_retry {s t : State} {n : Nat} {m : Msg}
    (ht : t = modPort s n fun p => { p with stalled := p.stalled.filter (· != 3) }) (hr : s.fabric.retry = [m])
    (hb : m.mbox < 2 ^ 14) (hs : m.seq < 2 ^ 32) (ho : m.op = none) :
    execGuylineCreditReturn n 3 s = execMessageArrival m.mbox m.dev m.part m.seq m.payload { t with fabric := { t.fabric with retry := [] } } := by
  have hm : (⟨m.mbox % 2 ^ 14, m.dev, m.part, m.seq % 2 ^ 32, m.payload, none⟩ : Msg) = m := by
    rw [Nat.mod_eq_of_lt hb, Nat.mod_eq_of_lt hs, ← ho]
  subst ht
  unfold execGuylineCreditReturn execMessageArrival
  rw [hm]
  dsimp only [modPort]
  rw [if_pos rfl, hr]
  rfl

theorem execGuylineCreditReturn_none {s : State} {n vc : Nat} (h : vc ≠ 3 ∨ s.fabric.retry = []) :
    execGuylineCreditReturn n vc s = .next (modPort s n fun p => { p with stalled := p.stalled.filter (· != vc) }) := by
  unfold execGuylineCreditReturn
  dsimp only [modPort]
  rcases h with h | h
  · rw [if_neg h]
  · rw [h]
    split <;> simp

/-! ### Time (R360) -/

/-- The slew of a clock: a correction above 1 ms rests while a partition records, any other goes one unit toward zero. -/
theorem gtsClock_slew (rec_ : Bool) (m : Mgmt) :
    (gtsClock rec_ m).slew = if m.slewBig = true ∧ rec_ = true then m.slew else if 0 < m.slew then m.slew - 1
      else if m.slew < 0 then m.slew + 1 else 0 := by
  simp only [gtsClock, Bool.and_eq_true]
  split_ifs <;> omega

/-! ### The device's events -/

theorem coldReset_starts (s : State) :
    Gives .coldReset s fun t => Emptied s t ∧ t.mgmt.power = .ps0 ∧ t.mgmt.bootErr = s.mgmt.fwBad :=
  ⟨cold s, rfl, cold_emptied s, cold_mgmt s⟩

theorem thermalTrip_empties (s : State) :
    Gives .thermalTrip s fun t => Emptied s t ∧ t.mgmt.power = .ps4 ∧ t.mgmt.hssCount = s.mgmt.hssCount :=
  ⟨offState s, rfl, offState_emptied_self s, rfl, rfl⟩

theorem powerLoss_empties (s : State) :
    Gives .powerLoss s fun t => Emptied s t ∧ t.mgmt.power = .ps4 ∧ t.mgmt.fwWords = s.mgmt.fwWords ∧
      (t.mgmt.hssCount = s.mgmt.hssCount ∨ t.mgmt.hssCount = min (2 ^ 40) (s.mgmt.hssCount + 1)) := by
  refine ⟨_, rfl, offState_emptied s (s.free + 1) rfl ⟨rfl, rfl, rfl, rfl⟩, rfl, rfl, ?_⟩
  dsimp only [State.modMgmt]
  split
  · exact .inr rfl
  · exact .inl rfl

theorem thermalWarning_signals (s : State) :
    Gives .thermalWarning s fun t => ∃ n, n < 2 ^ 16 ∧
      t = { s with free := s.free + 1, mgmt := { s.mgmt with msix := s.mgmt.msix ++ [(0, n)] } } :=
  ⟨_, rfl, (s.drawFree.1.setWidth 16).toNat, BitVec.isLt _, rfl⟩

theorem warmReset_accepted {s : State} (h : srcPf0 s = true) : Gives .warmReset s fun t => Warmed s t ∧ t.mgmt.status = 0 := by
  refine ⟨answer (warm s) 0 0, ?_, (warm_warmed s).answered 0 0, rfl⟩
  show execWarmReset s = _
  rw [execWarmReset, if_pos h]

theorem warmReset_refused {s : State} (h : srcPf0 s = false) : exec .warmReset s = .next (Answered s 2) := by
  show execWarmReset s = _
  rw [execWarmReset, h]
  rfl

theorem cxlHotReset_port (s : State) (p : Nat) :
    (p < 2 → Gives (.cxlHotReset p) s (Warmed s)) ∧ (2 ≤ p → exec (.cxlHotReset p) s = .next s) := by
  refine ⟨fun h => ⟨warm s, ?_, warm_warmed s⟩, fun h => ?_⟩
  all_goals
    show execCxlHotReset p s = _
    rw [execCxlHotReset]
  · rw [if_pos h]
  · rw [if_neg (Nat.not_lt.2 h)]

theorem powerState_refused {s : State} (h : srcPf0 s = false) (n : Nat) : exec (.powerState n) s = .next (Answered s 2) := by
  show execPowerState n s = _
  rw [execPowerState, h]
  rfl

theorem powerState_bad {s : State} (h : srcPf0 s = true) {n : Nat} (hn : 4 < n) : exec (.powerState n) s = .next (Answered s 4) := by
  show execPowerState n s = _
  simp only [execPowerState, h, Bool.not_true, Bool.false_eq_true, if_false, if_pos hn]
  rfl

/-- POWER_STATE in PS4: it stays, or a cold reset leaves it. -/
theorem powerState_ps4 {s : State} (h : srcPf0 s = true) (h4 : s.mgmt.power = .ps4) {n : Nat} :
    (n = 4 → exec (.powerState n) s = .next (Answered s 0 4)) ∧
    (n < 4 → exec (.powerState n) s = .next (reached (cold s) n)) := by
  refine ⟨fun hn => (execPowerState_eq (by omega) h).trans ?_, fun hn => (execPowerState_eq (by omega) h).trans ?_⟩
  · rw [if_pos h4, if_pos hn]
    rfl
  · rw [if_pos h4, if_neg (by omega)]

/-- POWER_STATE in every other state, by its target. -/
theorem powerState_on {s : State} (h : srcPf0 s = true) (h4 : s.mgmt.power ≠ .ps4) {n : Nat} :
    (n = 3 ∨ n = 4 → s.grids ≠ [] → exec (.powerState n) s = .next (Answered s 2)) ∧
    (n = 4 → s.grids = [] → exec (.powerState n) s = .next (reached (offState s) n)) ∧
    (n = 3 → s.grids = [] → exec (.powerState n) s = .next (reached (warm s) n)) ∧
    (n < 3 → s.mgmt.power = .ps3 → exec (.powerState n) s = .next (reached (warm s) n)) ∧
    (n < 3 → s.mgmt.power ≠ .ps3 → exec (.powerState n) s = .next (reached s n)) := by
  refine ⟨fun hn hg => ?_, fun hn hg => ?_, fun hn hg => ?_, fun hn h3 => ?_, fun hn h3 => ?_⟩
  all_goals refine (execPowerState_eq (by omega) h).trans ?_
  all_goals rw [if_neg h4]
  · rw [if_pos ⟨by omega, hg⟩]
    rfl
  · rw [if_neg (fun c => c.2 hg), if_pos hn]
  · rw [if_neg (fun c => c.2 hg), if_neg (by omega), if_pos (.inl hn)]
  · rw [if_neg (by omega), if_neg (by omega), if_pos (.inr h3)]
  · rw [if_neg (by omega), if_neg (by omega), if_neg (by simp [h3]; omega)]

/-- FW_UPDATE by its source, its length and its signature. -/
theorem execFwUpdate_cases (s : State) (b : List (BitVec 8)) :
    (srcPf0 s = false → execFwUpdate b s = .next (Answered s 2)) ∧
    (srcPf0 s = true → b.length < 5716 → execFwUpdate b s = .next (Answered s 4)) ∧
    (srcPf0 s = true → 5716 ≤ b.length → Config.signatureValid 0 b = false → execFwUpdate b s = .next (Answered s 6)) ∧
    (srcPf0 s = true → 5716 ≤ b.length → Config.signatureValid 0 b = true → execFwUpdate b s =
      .next (Answered { s with mgmt := { s.mgmt with fwImage := some (b.take (b.length - 5716)), ownerKey := true } } 0)) := by
  unfold execFwUpdate
  refine ⟨fun h => ?_, fun h hl => ?_, fun h hl hv => ?_, fun h hl hv => ?_⟩
  · simp only [h, Bool.not_false, if_true]
    rfl
  · simp only [h, Bool.not_true, Bool.false_eq_true, if_false, if_pos hl]
    rfl
  · simp only [h, hv, Bool.not_true, Bool.not_false, Bool.false_eq_true, if_false, if_true, if_neg (Nat.not_lt.2 hl)]
    rfl
  · simp only [h, hv, Bool.not_true, Bool.false_eq_true, if_false, if_neg (Nat.not_lt.2 hl)]
    rfl

/-- HBM_ERR_READ answers the counts and clears them. -/
theorem hbmErrRead_clears (s : State) (v : Nat) : Gives (.hbmErrRead v) s fun t =>
    t.mgmt = (Answered s 0 (BitVec.ofNat 64 ((s.stack v).ce % 2 ^ 32 * 2 ^ 32 + (s.stack v).ue % 2 ^ 16 * 2 ^ 16 +
      if (s.stack v).rmbad then 2 else 0))).mgmt ∧ t.stack v = { s.stack v with ce := 0, ue := 0 } :=
  ⟨_, rfl, rfl, stack_modStack _ _ _⟩

theorem vi_modVi_self (s : State) (n : Nat) (g : Vi → Vi) : (s.modVi n g).vi n = g (s.vi n) :=
  (State.vi_modVi s n g n).trans (if_pos rfl)

/-- A ring register that holds what is written reads by its access codes. -/
theorem ringed_of_eq {y x : DWord} {lo hi d n : Nat} (h : y = normRing x lo hi d n) (hhi : hi < 16) (hd : d < 16) (hn : n ≤ 8) :
    fieldOf y 63 12 = fieldOf x 63 12 ∧
    fieldOf y 11 8 = (if lo ≤ fieldOf x 11 8 ∧ fieldOf x 11 8 ≤ hi then fieldOf x 11 8 else d) ∧ fieldOf y 7 0 = x.toNat % 2 ^ n :=
  h ▸ normRing_fields x hhi hd hn

end Sys2Proof.Machine

namespace Sys2Proof.Proofs

open Machine

/-- Settles O54, event by event: the resets and power states by what the device keeps of its non-volatile storage and its tables, the registers by
their access codes, the links by their ports and routes, time by its slew. -/
theorem deviceEvents : Obligations.DeviceEvents := by
  unfold Obligations.DeviceEvents
  intro s says_ mayAll started
  have may : mayAll → srcPf0 s = true := srcPf0_iff.2
  have mayNot : ¬ mayAll → srcPf0 s = false := fun h => Bool.eq_false_iff.2 fun e => h (srcPf0_iff.1 e)
  refine ⟨coldReset_starts s, thermalTrip_empties s, powerLoss_empties s, thermalWarning_signals s, fun h => warmReset_accepted (may h),
    fun h => warmReset_refused (mayNot h), cxlHotReset_port s, ?power, ?firmware, ?registers, rfl, ?links, fun time => ⟨rfl, gtsClock_slew⟩⟩
  case power =>
    intro n to_
    refine ⟨fun h => powerState_refused (mayNot h) n, fun h hn => powerState_bad (may h) hn, fun h hn h4 => (powerState_ps4 (may h) h4).1 hn,
      fun h hn h4 => ⟨_, (powerState_ps4 (may h) h4).2 hn, (cold_emptied s).reached n, reached_mgmt _ n⟩, fun h h4 => ?_⟩
    obtain ⟨busy, off, rest, wake, on⟩ := powerState_on (n := n) (may h) h4
    refine ⟨busy, fun hn hg => ⟨_, off hn hg, (offState_emptied_self s).reached n, ?_⟩,
      fun hn hg => ⟨_, rest hn hg, (warm_warmed s).reached n, ?_⟩,
      fun hn h3 => ⟨_, wake hn h3, (warm_warmed s).reached n, reached_mgmt _ n⟩, fun hn h3 => ⟨_, on hn h3, reached_mgmt _ n, rfl⟩⟩
    all_goals
      subst hn
      exact reached_mgmt _ _
  case firmware =>
    intro b
    obtain ⟨source, short, forged, good⟩ := execFwUpdate_cases s b
    exact ⟨fun h => source (mayNot h), fun h => short (may h), fun h => forged (may h), fun h => good (may h)⟩
  case registers =>
    intro v x log ringed irq reg
    obtain ⟨fq, hfq, efq⟩ := execFqcfgWrite_fqcfg s v x
    obtain ⟨mr, hmr, emr⟩ := registerWrite_mrcfg s v x
    refine ⟨⟨fq, hfq, ringed_of_eq efq (by decide) (by decide) (by decide)⟩, execFqptrWrite_fqHead s v x, rfl, rfl, rfl, rfl, rfl,
      ⟨_, rfl, ringed_of_eq (congrArg Vi.trcfg (vi_modVi_self _ _ _)) (by decide) (by decide) (by decide)⟩,
      ⟨_, rfl, ringed_of_eq rfl (by decide) (by decide) (by decide)⟩,
      ⟨mr, hmr, ringed_of_eq emr (by decide) (by decide) (by decide)⟩, rfl, rfl, rfl, rfl, rfl, rfl, rfl, rfl,
      ⟨_, rfl, fun i hi => ?_⟩, hbmErrRead_clears s v, rfl⟩
    rw [stack_modStack]
    exact alert_clear _ _ hi
  case links =>
    intro n q ports
    refine ⟨rfl, rfl, rfl, execLinkTimeout_early, execLinkTimeout_late, fun vc => ?_⟩
    intro t
    refine ⟨execGuylineCreditReturn_none, fun m hv hr hb hs ho => ?_⟩
    subst hv
    exact execGuylineCreditReturn_retry rfl hr hb hs ho

end Sys2Proof.Proofs
end

section
/-!
Faults and stalls: what a word that raises a fault or stalls leaves in its fibre and in the record that will be posted (R72, R76, R267, R269).
-/

namespace Sys2Proof.Machine

variable {s t : State} {c : Issue} {f : Fibre}

/-! ### Fields of a fault record (R269) -/

/-- A field within the dword that stands 2^lo above the rest of a number is a field of that dword. -/
theorem bitsOf_dword {d low high lo : Nat} (hi l : Nat) (hl : low < 2 ^ lo) (h : hi < 64) (hle : l ≤ hi) :
    bitsOf (low + (d + high * 2 ^ 64) * 2 ^ lo) (lo + hi) (lo + l) = bitsOf d hi l := by
  have e : lo + hi + 1 - (lo + l) = hi + 1 - l := by omega
  have h1 : (low + (d + high * 2 ^ 64) * 2 ^ lo) / 2 ^ lo = d + high * 2 ^ 64 := by
    rw [Nat.add_mul_div_right _ _ (Nat.two_pow_pos lo), Nat.div_eq_of_lt hl, Nat.zero_add]
  have h2 : high * 2 ^ 64 = high * 2 ^ (63 - hi) * 2 ^ (hi + 1 - l) * 2 ^ l := by
    rw [Nat.mul_assoc, Nat.mul_assoc, ← Nat.pow_add, ← Nat.pow_add]; congr 2; omega
  unfold bitsOf
  rw [e, Nat.pow_add, ← Nat.div_div_eq_div_mul, h1, h2, Nat.add_mul_div_right _ _ (Nat.two_pow_pos l), Nat.add_mul_mod_self_right]

/-- Dword n of eight, and what stands below and above it. -/
theorem fieldOf_dwords {d : Nat → Nat} (hd : ∀ i, d i < 2 ^ 64) {n hi l : Nat} (hn : n < 8) (h : hi < 64) (hle : l ≤ hi) :
    fieldOf (BitVec.ofNat 512 (d 0 + d 1 * 2 ^ 64 + d 2 * 2 ^ 128 + d 3 * 2 ^ 192 + d 4 * 2 ^ 256 + d 5 * 2 ^ 320 + d 6 * 2 ^ 384 + d 7 * 2 ^ 448))
      (64 * n + hi) (64 * n + l) = bitsOf (d n) hi l := by
  have h0 := hd 0; have h1 := hd 1; have h2 := hd 2; have h3 := hd 3; have h4 := hd 4; have h5 := hd 5; have h6 := hd 6; have h7 := hd 7
  rw [fieldOf, BitVec.toNat_ofNat, Nat.mod_eq_of_lt (by omega)]
  have key : ∀ low high, low < 2 ^ (64 * n) → d 0 + d 1 * 2 ^ 64 + d 2 * 2 ^ 128 + d 3 * 2 ^ 192 + d 4 * 2 ^ 256 + d 5 * 2 ^ 320 +
      d 6 * 2 ^ 384 + d 7 * 2 ^ 448 = low + (d n + high * 2 ^ 64) * 2 ^ (64 * n) →
      bitsOf (d 0 + d 1 * 2 ^ 64 + d 2 * 2 ^ 128 + d 3 * 2 ^ 192 + d 4 * 2 ^ 256 + d 5 * 2 ^ 320 + d 6 * 2 ^ 384 + d 7 * 2 ^ 448)
        (64 * n + hi) (64 * n + l) = bitsOf (d n) hi l := fun low high hl e => by rw [e]; exact bitsOf_dword hi l hl h hle
  have hcases : n = 0 ∨ n = 1 ∨ n = 2 ∨ n = 3 ∨ n = 4 ∨ n = 5 ∨ n = 6 ∨ n = 7 := by omega
  rcases hcases with rfl | rfl | rfl | rfl | rfl | rfl | rfl | rfl
  · exact key 0 (d 1 + d 2 * 2 ^ 64 + d 3 * 2 ^ 128 + d 4 * 2 ^ 192 + d 5 * 2 ^ 256 + d 6 * 2 ^ 320 + d 7 * 2 ^ 384) (by omega) (by omega)
  · exact key (d 0) (d 2 + d 3 * 2 ^ 64 + d 4 * 2 ^ 128 + d 5 * 2 ^ 192 + d 6 * 2 ^ 256 + d 7 * 2 ^ 320) (by omega) (by omega)
  · exact key (d 0 + d 1 * 2 ^ 64) (d 3 + d 4 * 2 ^ 64 + d 5 * 2 ^ 128 + d 6 * 2 ^ 192 + d 7 * 2 ^ 256) (by omega) (by omega)
  · exact key (d 0 + d 1 * 2 ^ 64 + d 2 * 2 ^ 128) (d 4 + d 5 * 2 ^ 64 + d 6 * 2 ^ 128 + d 7 * 2 ^ 192) (by omega) (by omega)
  · exact key (d 0 + d 1 * 2 ^ 64 + d 2 * 2 ^ 128 + d 3 * 2 ^ 192) (d 5 + d 6 * 2 ^ 64 + d 7 * 2 ^ 128) (by omega) (by omega)
  · exact key (d 0 + d 1 * 2 ^ 64 + d 2 * 2 ^ 128 + d 3 * 2 ^ 192 + d 4 * 2 ^ 256) (d 6 + d 7 * 2 ^ 64) (by omega) (by omega)
  · exact key (d 0 + d 1 * 2 ^ 64 + d 2 * 2 ^ 128 + d 3 * 2 ^ 192 + d 4 * 2 ^ 256 + d 5 * 2 ^ 320) (d 7) (by omega) (by omega)
  · exact key (d 0 + d 1 * 2 ^ 64 + d 2 * 2 ^ 128 + d 3 * 2 ^ 192 + d 4 * 2 ^ 256 + d 5 * 2 ^ 320 + d 6 * 2 ^ 384) 0 (by omega) (by omega)

/-- The dwords of a fault record, in order (R269). -/
def recordDwords (s : State) (f : Flt) (time : DWord) : Nat → Nat
  | 0 => (if s.conf f.ctx then 2 ^ 35 else 0) + f.part % 8 * 2 ^ 32 + f.fibre % 2 ^ 14 * 2 ^ 17 + f.sub % 16 * 2 ^ 12 + f.kind % 16 * 2 ^ 8 + f.cause % 256
  | 1 => time.toNat
  | 2 => f.clause.toNat / 64 * 64 + f.word % 16 * 4
  | 3 => f.rclause.toNat / 64 * 64 + f.rword % 16 * 4
  | 4 => f.ric.toNat * 2 ^ 32 + f.lanes.toNat
  | 5 => f.addr % 2 ^ 64
  | 6 => f.held % 256 * 2 ^ 56 + f.info % 2 ^ 32 * 2 ^ 24 + f.breg % 16 * 2 ^ 20 + f.bidx % 2 ^ 20
  | 7 => f.hgot % 2 ^ 16 * 2 ^ 32 + f.hexp % 2 ^ 16 * 2 ^ 16 + f.ctx % 2 ^ 16
  | _ => 0

theorem recordDwords_lt (s : State) (f : Flt) (time : DWord) : ∀ i, recordDwords s f time i < 2 ^ 64
  | 0 => by
    have : (if s.conf f.ctx then 2 ^ 35 else 0) ≤ 2 ^ 35 := by split <;> omega
    simp only [recordDwords]; omega
  | 1 => time.isLt
  | 2 => by have := f.clause.isLt; simp only [recordDwords]; omega
  | 3 => by have := f.rclause.isLt; simp only [recordDwords]; omega
  | 4 => by have := f.ric.isLt; have := f.lanes.isLt; simp only [recordDwords]; omega
  | 5 => by simp only [recordDwords]; omega
  | 6 => by simp only [recordDwords]; omega
  | 7 => by simp only [recordDwords]; omega
  | _ + 8 => by simp only [recordDwords]; omega

/-- A field of dword n of a fault record. -/
theorem fieldOf_faultBits (s : State) (f : Flt) (time : DWord) {n hi l : Nat} (hn : n < 8) (h : hi < 64) (hle : l ≤ hi) :
    fieldOf (faultBits s f time) (64 * n + hi) (64 * n + l) = bitsOf (recordDwords s f time n) hi l :=
  fieldOf_dwords (recordDwords_lt s f time) hn h hle

/-- The fields of a fault record that say what happened, where and to whom. -/
theorem faultBits_fields (s : State) (f : Flt) (time : DWord) : let r := faultBits s f time
    fieldOf r 7 0 = f.cause % 256 ∧ fieldOf r 11 8 = f.kind % 16 ∧ fieldOf r 15 12 = f.sub % 16 ∧ fieldOf r 30 17 = f.fibre % 2 ^ 14 ∧
    fieldOf r 287 256 = f.lanes.toNat ∧ fieldOf r 319 288 = f.ric.toNat ∧ fieldOf r 383 320 = f.addr % 2 ^ 64 ∧
    fieldOf r 403 384 = f.bidx % 2 ^ 20 ∧ fieldOf r 407 404 = f.breg % 16 ∧ fieldOf r 439 408 = f.info % 2 ^ 32 := by
  intro r
  have at_ : ∀ {n : Nat} (hi l : Nat), n < 8 → hi < 64 → l ≤ hi → fieldOf r (64 * n + hi) (64 * n + l) = bitsOf (recordDwords s f time n) hi l :=
    fun hi l a b c => fieldOf_faultBits s f time a b c
  have low : bitsOf (recordDwords s f time 0) 7 0 = f.cause % 256 ∧ bitsOf (recordDwords s f time 0) 11 8 = f.kind % 16 ∧
      bitsOf (recordDwords s f time 0) 15 12 = f.sub % 16 ∧ bitsOf (recordDwords s f time 0) 30 17 = f.fibre % 2 ^ 14 := by
    have : (if s.conf f.ctx then 2 ^ 35 else 0) = (if s.conf f.ctx then 4 else 0) * 2 ^ 33 := by split <;> rfl
    simp only [recordDwords, bitsOf]
    rw [this]
    omega
  obtain ⟨e1, e2, e3, e4⟩ := low
  have hl := f.lanes.isLt
  have hr := f.ric.isLt
  refine ⟨(at_ (n := 0) 7 0 (by omega) (by omega) (by omega)).trans e1, (at_ (n := 0) 11 8 (by omega) (by omega) (by omega)).trans e2,
    (at_ (n := 0) 15 12 (by omega) (by omega) (by omega)).trans e3, (at_ (n := 0) 30 17 (by omega) (by omega) (by omega)).trans e4,
    (at_ (n := 4) 31 0 (by omega) (by omega) (by omega)).trans ?_, (at_ (n := 4) 63 32 (by omega) (by omega) (by omega)).trans ?_,
    (at_ (n := 5) 63 0 (by omega) (by omega) (by omega)).trans ?_, (at_ (n := 6) 19 0 (by omega) (by omega) (by omega)).trans ?_,
    (at_ (n := 6) 23 20 (by omega) (by omega) (by omega)).trans ?_, (at_ (n := 6) 55 24 (by omega) (by omega) (by omega)).trans ?_⟩
  all_goals
    simp only [recordDwords, bitsOf]
    omega

/-! ### Taking a fault (R267) -/

theorem valueRead_placed (g a i : Nat) (x : DWord) : Placed s (valueRead s g a i x).2 := by
  have h : Placed s (chunkEnd s g 0 0) := chunkEnd_placed _ _ _
  unfold valueRead
  split
  · exact .refl s
  · simp only []
    split
    · exact produce_placed _ _ _ _ _
    · split
      · split
        · exact h
        · split
          · split
            · exact h.trans (meetRec_placed _ _ _ _)
            · exact h.trans (mismatch_placed _)
          · exact h.trans (mismatch_placed _)
      · exact .refl s

theorem recordTime_placed (g : Nat) (x : Flt) : Placed s (recordTime s g x).2 := by
  have h : ∀ (p : Prop) [Decidable p], Placed s (if p then (s.mgmt.gts, s) else valueRead s g 4 0 s.mgmt.gts).2 := by
    intro p _
    split
    · exact .refl s
    · exact valueRead_placed _ _ _ _
  exact h _

theorem handOver_sameFib (g w : Nat) : SameFib s (handOver s g w) := by
  unfold handOver
  simp only []
  split
  · exact SameFib.trans .slot (pmCount_sameFib _ _ _ _)
  · exact .refl s

/-- The state that a fault's record is formed in: the chunk has ended, and the ASYNC record stands where the log has one (R267, R297). -/
def faultLogged (s : State) (fid : Nat) (y : Flt) (w : Option Nat) (ric : Word) : State :=
  let s1 := if w.isSome && s.recording (s.partOf fid) then chunkEnd s fid 3 0 else s
  match w with
  | some w => produce s1 fid 7 ric.toNat (y.cause * 2 ^ 54 + y.sub * 2 ^ 50 + w * 2 ^ 46) 0
  | none => if s1.recording (s1.partOf fid) then chunkEnd s1 fid 3 0 else s1

/-- The fibre as a fault leaves it, with the record that is due. -/
def Fibre.froze (a : StopAt) (cause : Nat) (bits : BitVec 512) (y : Fibre) : Fibre :=
  { y with
    sched := .frozen, halted := false, wait := none, run := none, intr := false, yielded := false, wdDue := false, step := none, walkReq := [], walkRes := []
    frozen := some ⟨a.clause, a.word, a.resume, a.after, a.lanes, cause, a.sync⟩
    postDue := some bits }

/-- The report of a fault of fibre fid, as its record carries it. -/
def Flt.of (y : Flt) (s : State) (fid : Nat) (ric : Word) : Flt :=
  { y with fibre := fid, part := s.partOf fid, ric := y.ricAt.getD ric, ctx := s.viOf fid }

theorem freeze_eq {fid : Nat} {y : Flt} {a : StopAt} {w : Option Nat} (hf : s.fib fid = some f) :
    let u := recordTime (faultLogged s fid y w f.ric) fid y
    freeze s fid y a w =
      { handOver (leaveSet (u.2.modFib fid (Fibre.froze a y.cause (faultBits u.2 (y.of s fid f.ric) u.1))) fid) fid 4 with issue := none } := by
  unfold freeze
  rw [hf]
  rfl

theorem faultLogged_placed (fid : Nat) (y : Flt) (w : Option Nat) (ric : Word) : Placed s (faultLogged s fid y w ric) := by
  have h : ∀ (u : State) (p : Prop) [Decidable p], Placed u (if p then chunkEnd u fid 3 0 else u) := by
    intro u p _
    split
    · exact chunkEnd_placed _ _ _
    · exact .refl u
  unfold faultLogged
  cases w with
  | some w => exact (h _ _).trans (produce_placed _ _ _ _ _)
  | none => exact (h _ _).trans (h _ _)

/-- A fibre that has taken a fault: it is Frozen where it was stopped, its lanes and count stand, and its record is due. -/
theorem freeze_some {fid : Nat} {y : Flt} {a : StopAt} {w : Option Nat} (hf : s.fib fid = some f) :
    (freeze s fid y a w).issue = none ∧ ∃ (x : Fibre) (u : State) (time : DWord), (freeze s fid y a w).fib fid = some (x.froze a y.cause (faultBits u (y.of s fid f.ric) time)) ∧
      x.lanes = f.lanes ∧ x.ric = f.ric := by
  rw [freeze_eq hf]
  obtain ⟨z, hz, hl, hr⟩ := ((faultLogged_placed fid y w f.ric).trans (recordTime_placed fid y)).some hf
  exact ⟨rfl, z, _, _, (State.fib_congr (handOver_sameFib fid 4).fibres fid).trans (modFib_some hz), hl, hr⟩

/-- What a fault record needs of a report so that it carries the report whole. -/
structure Flt.Fits (y : Flt) : Prop where
  ric   : y.ricAt = none
  cause : y.cause < 256
  sub   : y.sub < 16
  addr  : y.addr < 2 ^ 64
  bidx  : y.bidx < 2 ^ 20
  breg  : y.breg < 16
  info  : y.info < 2 ^ 32

theorem freeze_faults {y : Flt} {a : StopAt} {w : Option Nat} {x : Fibre} (hf : s.fib c.fibre = some x) (hr : x.ric = f.ric) (hy : y.Fits)
    (hk : y.kind = 0) (ha : a.clause = c.clause ∧ a.word = c.word ∧ a.resume = c.first ∧ a.lanes = c.lanes ∧ a.sync = true)
    (hl : ∀ l, x.lane l = if inMask c.lanes l then { f.lane l with pc := c.clause, word := c.first } else f.lane l) :
    Faults c f (freeze s c.fibre y a w) y.cause y.lanes y.addr y.info y.sub y.breg y.bidx a.after := by
  obtain ⟨hi, z, u, time, hz, k1, k2⟩ := freeze_some (y := y) (a := a) (w := w) hf
  obtain ⟨e1, e2, e3, e4, e5, e6, e7, e8, e9, e10⟩ := faultBits_fields u (y.of s c.fibre x.ric) time
  obtain ⟨a1, a2, a3, a4, a5⟩ := ha
  refine ⟨hi, _, _, hz, rfl, rfl, k2.trans hr, ?_, rfl, e1.trans (Nat.mod_eq_of_lt hy.cause), e2.trans (by rw [Flt.of, hk]), e3.trans (Nat.mod_eq_of_lt hy.sub), e4, e5,
    ?_, e7.trans (Nat.mod_eq_of_lt hy.addr), e8.trans (Nat.mod_eq_of_lt hy.bidx), e9.trans (Nat.mod_eq_of_lt hy.breg),
    e10.trans (Nat.mod_eq_of_lt hy.info), fun l => ?_⟩
  · rw [← a1, ← a2, ← a3, ← a4, ← a5]; rfl
  · rw [e6, Flt.of, hy.ric, Option.getD_none, hr]
  · exact (congrArg (fun v : Vector Lane 32 => v[l]) k1).trans (hl l)

theorem raiseAt_faults {y : Flt} {after : Nat} (hf : s.fib c.fibre = some f) (hy : y.Fits) :
    Faults c f (raiseAt s c y after) y.cause y.lanes y.addr y.info y.sub y.breg y.bidx after  := by
  have h1 := modFib_some (g := fun x => x.onLanes c.lanes fun l => { l with pc := c.clause, word := c.first }) hf
  have hfit : Flt.Fits { y with kind := 0, clause := c.clause, word := c.word, rclause := c.clause, rword := c.first } :=
    ⟨hy.ric, hy.cause, hy.sub, hy.addr, hy.bidx, hy.breg, hy.info⟩
  unfold raiseAt
  simp only []
  exact freeze_faults (a := ⟨c.clause, c.word, c.first, after, c.lanes, true⟩) h1 (by simp only [Fibre.onLanes]) hfit rfl ⟨rfl, rfl, rfl, rfl, rfl⟩
    fun l => onLanes_lane f c.lanes _ l

/-- A cause that names the lanes of the bundle (R269). -/
theorem raiseCause_faults {cause : Nat} (hf : s.fib c.fibre = some f) (h : cause < 256) : Faults c f (raiseCause s c cause) cause c.lanes 0 0 :=
  raiseAt_faults hf (y := { cause := cause, lanes := c.lanes }) ⟨rfl, h, Nat.zero_lt_succ _, Nat.two_pow_pos _, Nat.two_pow_pos _, Nat.zero_lt_succ _, Nat.two_pow_pos _⟩

theorem illegal_faults (hf : s.fib c.fibre = some f) : Faults c f (illegal s c) 0x01 c.lanes 0 0 := raiseCause_faults hf (by decide)

/-- A fault changes nothing that a program names. -/
theorem raiseAt_only (y : Flt) (after fid : Nat) (w : Writes) : Only s (raiseAt s c y after) fid w :=
  .of_kept (raiseAt_kept _ _ _) fid w fun _ _ => raiseAt_sameMem _ _ _

theorem raiseCause_only (cause fid : Nat) (w : Writes) : Only s (raiseCause s c cause) fid w := raiseAt_only _ _ _ _

/-! ### Stalls (R72, R74) -/

theorem stall_waits {w : Wait} (hf : s.fib c.fibre = some f) : Waits c f (stall s c w) w := by
  have h1 := modFib_some (g := fun x => { x with wait := some w, run := x.run.map fun r => { r with word := c.first } }) hf
  have key : ∀ u : State, u.fib c.fibre = some { f with wait := some w, run := f.run.map fun r => { r with word := c.first } } → u.issue = none →
      Waits c f u w := fun u hu hi => ⟨hi, _, hu, rfl, rfl, fun _ => rfl⟩
  unfold stall
  simp only []
  split
  · unfold goWaiting
    split
    · refine ⟨?_, _, (State.fib_congr (handOver_sameFib _ _).fibres _).trans (modFib_some h1), rfl, rfl, fun _ => rfl⟩
      unfold handOver
      simp only []
      split
      · unfold State.pmCount; split <;> rfl
      · rfl
    · exact key _ h1 rfl
  · exact key _ h1 rfl

theorem stall_only (x : Wait) (fid : Nat) (w : Writes) : Only s (stall s c x) fid w :=
  .of_kept (stall_kept _ _) fid w fun _ _ => stall_sameMem _ _

end Sys2Proof.Machine
end

section
/-!
O26: the checks that every word makes before its own meaning, in their order (R23, R74, R85, R266).
-/

namespace Sys2Proof.Machine

variable {s : State} {c : Issue} {f : Fibre}

/-- What the checks before a word's own meaning leave where one of them stops it. -/
def Stopped (s : State) (c : Issue) (f : Fibre) (u : Uses) (t : State) : Prop :=
  if c.badVc u = true then Faults c f t 0x01 c.lanes 0 0 ∧ Only s t c.fibre {}
  else if u.role ≠ none ∧ u.role ≠ some f.role then Faults c f t 0x10 c.lanes 0 0 ∧ Only s t c.fibre {}
  else if c.active f ≠ 0 ∧ ∃ r ∈ c.vregs u, f.hasReg r = false then Faults c f t 0x0B c.lanes 0 0 ∧ Only s t c.fibre {}
  else if (∃ r ∈ c.reads u, f.hasReg r = true ∧ s.vPending c.fibre r = true) ∨ (∃ r ∈ u.d, f.hasReg r = true ∧ s.vOwn c.fibre r = true) ∨
      ∃ r ∈ u.s, s.sPending c.fibre r = true then
    Waits c f t (.regs ((c.reads u).filter fun r => f.hasReg r) (u.d.filter fun r => f.hasReg r) u.s) ∧ Only s t c.fibre {}
  else True

/-- A cause that the checks of a word raise. -/
theorem raiseCause_checked (hf : s.fib c.fibre = some f) {n : Nat} (hn : n < 256) :
    Faults c f (raiseCause s c n) n c.lanes 0 0 ∧ Only s (raiseCause s c n) c.fibre {} :=
  ⟨raiseCause_faults hf hn, raiseCause_only _ _ _⟩

/-- Of the windows and the pending registers, the checks say what regGate answers (R23, R74). -/
theorem regGate_checked (u : Uses) (k : State) (hf : s.fib c.fibre = some f) (hv : ¬ c.badVc u = true)
    (hr : ¬ (u.role ≠ none ∧ u.role ≠ some f.role)) : Stopped s c f u (regGate s c f (c.reads u) u.d u.s k) := by
  have windows : (c.active f != 0 && (c.reads u ++ u.d).any fun r => !f.hasReg r) = true ↔ c.active f ≠ 0 ∧ ∃ r ∈ c.vregs u, f.hasReg r = false := by
    simp only [Bool.and_eq_true, bne_iff_ne, List.any_eq_true, Bool.not_eq_true', Issue.vregs]
  have pending : ((c.reads u).any (fun r => f.hasReg r && s.vPending c.fibre r) || u.d.any (fun r => f.hasReg r && s.vOwn c.fibre r) ||
      u.s.any (s.sPending c.fibre)) = true ↔ (∃ r ∈ c.reads u, f.hasReg r = true ∧ s.vPending c.fibre r = true) ∨
        (∃ r ∈ u.d, f.hasReg r = true ∧ s.vOwn c.fibre r = true) ∨ ∃ r ∈ u.s, s.sPending c.fibre r = true := by
    simp only [Bool.or_eq_true, List.any_eq_true, Bool.and_eq_true, or_assoc]
  unfold Stopped regGate
  rw [if_neg hv, if_neg hr]
  simp only [windows, pending]
  split
  · exact raiseCause_checked hf (by decide)
  · split
    · exact ⟨stall_waits hf, stall_only _ _ _⟩
    · trivial

/-- Every word that goes through the gate is checked first. -/
theorem gate_checked {u : Uses} {k : Issue → Fibre → State} (hi : s.issue = some c) (hf : s.fib c.fibre = some f) :
    ∃ t, gate s u k = .next t ∧ Stopped s c f u t := by
  have role : (u.role.isSome && u.role != some f.role) = true ↔ u.role ≠ none ∧ u.role ≠ some f.role := by
    simp only [Bool.and_eq_true, bne_iff_ne, Option.isSome_iff_ne_none]
  unfold gate
  rw [hi]
  simp only [hf, role]
  by_cases hv : c.badVc u = true
  · rw [if_pos hv]
    exact ⟨_, rfl, by unfold Stopped; rw [if_pos hv]; exact raiseCause_checked hf (by decide)⟩
  · rw [if_neg hv]
    by_cases hr : u.role ≠ none ∧ u.role ≠ some f.role
    · rw [if_pos hr]
      exact ⟨_, rfl, by unfold Stopped; rw [if_neg hv, if_pos hr]; exact raiseCause_checked hf (by decide)⟩
    · rw [if_neg hr]
      exact ⟨_, rfl, regGate_checked u _ hf hv hr⟩

end Sys2Proof.Machine

namespace Sys2Proof.Proofs

open Machine

/-- Settles O26: each of these words goes through the gate, whose checks `gate_checked` gives in order. -/
theorem sharedChecks : Obligations.SharedChecks := by
  unfold Obligations.SharedChecks
  intro d a b u v n i sc k word
  have gated : ∀ (w : Instr) (uses : Uses), (∀ s, ∃ g, exec w s = gate s uses g) → word w uses := by
    intro w uses hw s c f hi hf
    obtain ⟨g, hg⟩ := hw s
    rw [hg]
    exact gate_checked hi hf
  exact ⟨gated _ _ fun _ => ⟨_, rfl⟩, gated _ _ fun _ => ⟨_, rfl⟩, gated _ _ fun _ => ⟨_, rfl⟩, gated _ _ fun _ => ⟨_, rfl⟩,
    gated _ _ fun _ => ⟨_, rfl⟩, gated _ _ fun _ => ⟨_, rfl⟩, gated _ _ fun _ => ⟨_, rfl⟩, gated _ _ fun _ => ⟨_, rfl⟩,
    gated _ _ fun _ => ⟨_, rfl⟩, gated _ _ fun _ => ⟨_, rfl⟩, gated _ _ fun _ => ⟨_, rfl⟩⟩

end Sys2Proof.Proofs
end

section
/-!
O57: a turn of the agenda in which a fibre issues runs the word at its place; outside the recording, replaying and ordered modes nothing comes between
(R18, R69, R83, R84). The turns of the agenda are the model's own (log entry 3).
-/

namespace Sys2Proof.Machine

variable {s t : State} {c : Issue} {f : Fibre} {fid : Nat}

/-! ### With no log replayed -/

theorem parkFreed_live (h : s.replaying (s.partOf fid) = false) : parkFreed s fid f = s := by
  unfold parkFreed
  split
  · rw [h]; rfl
  · rfl

theorem dueRecord_live (h : s.replaying (s.partOf fid) = false) (kind : Nat) : dueRecord s fid f kind = none := by
  unfold dueRecord
  rw [h]
  rfl

theorem restOf_live (h : s.replaying (s.partOf fid) = false) (m : LaneMask) : restOf s fid f m = f.stepRest := by
  unfold restOf
  rw [h]
  rfl

theorem restBefore_live (h : s.replaying (s.partOf fid) = false) : restBefore s fid f c = s := by
  unfold restBefore
  rw [h]
  rfl

theorem restAfter_live (h : s.replaying (s.partOf fid) = false) : restAfter s fid f c t = t := by
  unfold restAfter
  rw [h]
  rfl

theorem holdPassed_live (h : s.replaying (s.partOf fid) = false) (w : Word) : holdPassed s fid f c w t = t := by
  unfold holdPassed
  rw [h]
  rfl

theorem stepEarly_live (h : s.replaying (s.partOf fid) = false) : stepEarly s t fid f = false := by
  unfold stepEarly
  rw [h, Bool.and_false, Bool.false_and]

/-- A word whose fibre neither records nor replays nor diverges anew takes effect as it is. -/
theorem afterIssue_live {ws : List Word} (h : s.replaying (s.partOf fid) = false) (hr : t.recording (s.partOf fid) = false)
    (hd : f.diverged.isSome = true ∨ ((t.fib fid).bind (·.diverged)) = none) : afterIssue s fid f c ws (.next t) = .next t := by
  have stored : overRecorded s t (s.partOf fid) = false := by unfold overRecorded; rw [hr]; rfl
  have right : (if f.diverged.isSome then none else (((t.fib fid).bind (·.diverged)).filter fun d => d.1 != 0)) = none := by
    rcases hd with e | e
    · rw [if_pos e]
    · rw [e]; split <;> rfl
  unfold afterIssue
  simp only [stored, right, stepEarly_live h, dueRecord_live h, restAfter_live h, holdPassed_live h, Option.isSome_none, Bool.false_eq_true, if_false]

/-- Outside the recording and replaying modes a fault logs nothing: the fibre freezes as it is. -/
theorem freeze_live {y : Flt} {a : StopAt} {w : Option Nat} (hf : s.fib fid = some f) (hr : s.recording (s.partOf fid) = false)
    (h : s.replaying (s.partOf fid) = false) :
    ∃ time, (freeze s fid y a w).fib fid = some (f.froze a y.cause (faultBits s (y.of s fid f.ric) time)) := by
  have logged : faultLogged s fid y w f.ric = s := by
    unfold faultLogged
    simp only [hr, Bool.and_false, Bool.false_eq_true, if_false]
    cases w with
    | none => rfl
    | some w => unfold produce; simp only [hr, h, Bool.false_eq_true, if_false]
  have timed : recordTime s fid y = (s.mgmt.gts, s) := by
    unfold recordTime valueRead
    simp only [hf, hr, h, Bool.false_and, Bool.false_eq_true, if_false]
  rw [freeze_eq hf, logged, timed]
  exact ⟨_, (State.fib_congr (handOver_sameFib fid 4).fibres fid).trans (modFib_some hf)⟩

theorem freeze_diverged {y : Flt} {a : StopAt} {w : Option Nat} (hf : s.fib fid = some f) (hr : s.recording (s.partOf fid) = false)
    (h : s.replaying (s.partOf fid) = false) : ((freeze s fid y a w).fib fid).bind (·.diverged) = f.diverged := by
  obtain ⟨time, e⟩ := freeze_live (y := y) (a := a) (w := w) hf hr h
  rw [e]
  rfl

/-- There a word that faults leaves its fibre's divergence as it was. -/
theorem raiseAt_diverged {y : Flt} {after : Nat} (hf : s.fib c.fibre = some f) (hr : s.recording (s.partOf c.fibre) = false)
    (h : s.replaying (s.partOf c.fibre) = false) : ((raiseAt s c y after).fib c.fibre).bind (·.diverged) = f.diverged := by
  have h1 := modFib_some (g := fun x => x.onLanes c.lanes fun l => { l with pc := c.clause, word := c.first }) hf
  have hp : (s.modFib c.fibre fun x => x.onLanes c.lanes fun l => { l with pc := c.clause, word := c.first }).partOf c.fibre = s.partOf c.fibre :=
    partOf_kept (.fib (by intro _; simp only [Fibre.onLanes, Fibre.regs])) .fib _
  unfold raiseAt
  simp only []
  exact (freeze_diverged h1 (by rw [hp]; exact hr) (by rw [hp]; exact h)).trans (by simp only [Fibre.onLanes])

theorem illegal_diverged (hf : s.fib c.fibre = some f) (hr : s.recording (s.partOf c.fibre) = false)
    (h : s.replaying (s.partOf c.fibre) = false) : ((illegal s c).fib c.fibre).bind (·.diverged) = f.diverged := by
  unfold illegal raiseCause raise
  exact raiseAt_diverged hf hr h

theorem illegal_sameMem : SameMem s (illegal s c) := raiseAt_sameMem c { cause := 0x01, lanes := c.lanes } (afterWord c.hdr c.word)

theorem recording_same (k : SameMem s t) (p : Nat) : t.recording p = s.recording p := by
  unfold State.recording
  rw [(k.parts p).2.1]

/-- There an illegal word is its fibre's fault and nothing more. -/
theorem afterIssue_illegal {ws : List Word} (hf : s.fib c.fibre = some f) (hr : s.recording (s.partOf c.fibre) = false)
    (h : s.replaying (s.partOf c.fibre) = false) {old : State} (ho : old.replaying (old.partOf c.fibre) = false)
    (hp : old.partOf c.fibre = s.partOf c.fibre) :
    afterIssue old c.fibre f c ws (issueNext c ws (.next (illegal s c))) = .next (illegal s c) := by
  have next : issueNext c ws (.next (illegal s c)) = .next (illegal s c) := by simp only [issueNext, (illegal_faults hf).1]
  have hd : ((illegal s c).fib c.fibre).bind (·.diverged) = f.diverged := illegal_diverged hf hr h
  rw [next]
  refine afterIssue_live ho (by rw [hp, recording_same illegal_sameMem, hr]) ?_
  rw [hd]
  cases f.diverged with
  | none => exact .inr rfl
  | some d => exact .inl rfl

/-- A fibre that executes a clause meets nothing before its next word. -/
theorem boundary_live (h : s.replaying (s.partOf fid) = false) (hr : f.run.isSome = true) : boundary s fid f = none := by
  unfold boundary
  rw [dueRecord_live h, dueRecord_live h]
  simp only [hr, Bool.true_or, if_true]

/-- The next word of a running bundle issues, its WAIT met. -/
theorem runWord_live {r : ClauseRun} (h : s.replaying (s.partOf fid) = false)
    (hw : r.waited = true ∨ s.cfWaits fid ((nth r.words 0 0).setWidth 12) = false) :
    runWord s fid f r = afterIssue s fid f (issueOf fid f r) r.words (issueBundle (issueOf fid f r) r.words s) := by
  have waits : ¬ (!r.waited && s.cfWaits fid ((issueOf fid f r).hdr.setWidth 12)) = true := by
    rcases hw with e | e
    · rw [e]; simp
    · rw [show (issueOf fid f r).hdr = nth r.words 0 0 from rfl, e]; simp
  unfold runWord
  simp only [restOf_live h, restBefore_live h, h, Bool.false_and, Bool.false_eq_true, if_false]
  rw [if_neg waits]

/-- A fibre that executes a clause, offered its turn, issues the next word. -/
theorem stepFibre_live {r : ClauseRun} (hf : s.fib fid = some f) (hr : f.run = some r) (ha : atomHolds s fid = false)
    (h : s.replaying (s.partOf fid) = false) (hw : r.waited = true ∨ s.cfWaits fid ((nth r.words 0 0).setWidth 12) = false) :
    stepFibre fid s = afterIssue s fid f (issueOf fid f r) r.words (issueBundle (issueOf fid f r) r.words s) := by
  unfold stepFibre
  simp only [hf, parkFreed_live h, ha, boundary_live h (by rw [hr]; rfl), hr, Bool.false_eq_true, if_false]
  exact runWord_live h hw

/-- The head of the agenda is the turn of a device that is on, unless it waits with nothing to do. -/
theorem step_turn {t : Turn} {rest : List Turn} (ha : alive s = true) (h : s.agenda = t :: rest) (ht : turnIdle s t = false) :
    step s = runTurn t { s with agenda := rest } := by
  have first : pickTurn s (t :: rest) [] = some (t, rest) := by
    have none_held : ∀ l : List Src, l.any ([] : List Src).contains = false := fun l => List.any_eq_false.2 fun _ _ => by simp
    simp only [pickTurn, ht, none_held, Bool.false_or, Bool.false_eq_true, if_false]
  unfold step stepOnce
  rw [h]
  simp only [ha, first, Bool.not_true, Bool.false_and, Bool.false_eq_true, if_false]

end Sys2Proof.Machine

namespace Sys2Proof.Proofs

open Machine

/-- Settles O57: a turn of a fibre by `stepFibre_live`, an event by the turn that it takes. -/
theorem stepRunsDecodedWord : Obligations.StepRunsDecodedWord := by
  unfold Obligations.StepRunsDecodedWord
  intro s rest on
  refine ⟨fun fid f r turn hf hr may atom mode waited => ?_, fun i turn => ?_⟩
  case refine_2 =>
    intro out
    refine ⟨fun h => ?_, fun h => ?_⟩
    · have ht : turnIdle s (.event i) = false := by rw [turnIdle, h s.agenda]; rfl
      rw [step_turn on turn ht, runTurn, h rest]
      rfl
    · have ht : turnIdle s (.event i) = false := by rw [turnIdle, h s.agenda]; rfl
      rw [step_turn on turn ht, runTurn, h rest]
      rfl
  case refine_1 =>
    intro c w s1
    have live : ({ s with agenda := rest, tried := slotOf fid :: s.tried } : State).replaying (s.partOf fid) = false := mode.2.1
    have taken : step s = thenSettle (afterIssue { s with agenda := rest, tried := slotOf fid :: s.tried } fid f c r.words
        (issueNext c r.words (issueWord c w { s with agenda := rest, tried := slotOf fid :: s.tried }))) := by
      rw [step_turn on turn rfl, runTurn, if_pos (show mayIssue { s with agenda := rest } fid = true from may)]
      exact congrArg thenSettle (stepFibre_live hf hr atom live waited)
    refine ⟨rfl, rfl, rfl, rfl, fun i hi hwf => ?_, fun bad pre => ?_⟩
    · have issued : issueWord c w { s with agenda := rest, tried := slotOf fid :: s.tried } = exec i s1 := by
        unfold issueWord
        simp only [hi, hwf, if_true]
        rfl
      rw [issued] at taken
      refine ⟨taken, fun t ht hn hrec hdiv => ?_⟩
      have next : issueNext c r.words (exec i s1) = .next t := by rw [ht]; simp only [issueNext, hn]
      rw [taken, next, afterIssue_live live hrec (.inr hdiv)]
      rfl
    · have faulted : issueWord c w { s with agenda := rest, tried := slotOf fid :: s.tried } = .next (illegal s1 c) := by
        unfold issueWord noWord
        rw [pre]
        cases hd : decodeWord w with
        | ok i => simp only [bad i hd, Bool.false_eq_true, if_false]; rfl
        | error e => rfl
      have fault := afterIssue_illegal (s := s1) (c := c) (ws := r.words) hf mode.1 live live rfl
      refine ⟨_, illegal_faults (s := s1) (c := c) hf, ?_⟩
      rw [taken, faulted]
      exact congrArg thenSettle fault

end Sys2Proof.Proofs
end

section
/-!
O37: the special registers (R36, R66, R209): what each reads as, and FPSTAT as sreg.wr writes it.
-/

namespace Sys2Proof.Machine

variable {s t u : State} {c : Issue} {f x : Fibre}

/-! ### A word that retires passes (R71) -/

/-- A lane of the bundle that leaves its clause execution stands at its next clause (R248). -/
theorem stamped_at {m : LaneMask} {y : Lane} {l : Fin 32} {now : Nat} {pc : DWord} (h : inMask m l = true) :
    stamped now m { y with pc := pc, word := 1, hold := .none } l = y.at_ pc now := by
  unfold stamped Lane.at_
  rw [h]
  cases y.live <;> rfl

/-- Where no lane has moved, a word that retires passes. -/
theorem retire_passes (hp : Placed s t) (hf : s.fib c.fibre = some f) : Passes s c f (retire t c) := by
  obtain ⟨y, hy, hl, hr⟩ := hp.some hf
  obtain ⟨z, hz, hc, hz'⟩ := retire_some hy
  have lane : ∀ l, y.lane l = f.lane l := fun l => congrArg (fun v : Vector Lane 32 => v[l]) hl
  refine ⟨z, hz, by rw [hc, hr], fun l => ?_⟩
  rw [hz' l, lane l, hp.clock]
  by_cases hm : inMask c.lanes l = true
  · rw [if_pos hm, if_pos hm]
    split
    · exact stamped_at hm
    · rfl
  · rw [if_neg hm, if_neg hm]

theorem writeReg_placed (fid r : Nat) (v : VReg) : Placed s (writeReg s fid r v) := by
  unfold writeReg
  split
  · exact .refl s
  · split
    · exact .fib fun _ => rfl
    · split
      · exact .of_fib .slot
      · exact .refl s

theorem wr_placed (r : Nat) (tag : Tag) (val : Fin 32 → Word) : Placed s (c.wr s f r tag val) := by
  unfold Issue.wr
  simp only []
  split
  · exact .refl s
  · exact writeReg_placed _ _ _

theorem wrP_placed (r : Nat) (tag : Tag) (val : Fin 32 → DWord) : Placed s (c.wrP s f r tag val) := (wr_placed _ _ _).trans (wr_placed _ _ _)

theorem writeS_placed (fid n : Nat) (v : DWord) : Placed s (s.modFib fid fun x => x.writeS n v) :=
  .fib fun x => by unfold Fibre.writeS; split <;> rfl

theorem logUwrite_placed (fid r l n : Nat) (d : Bool) (v : DWord) : Placed s (logUwrite s fid r l n d v) := by
  unfold logUwrite
  split
  · exact .refl s
  · exact (produce_placed _ _ _ _ _).trans (.fib fun _ => rfl)

theorem putS_placed (fid r l n : Nat) (d : Bool) (v : DWord) : Placed s (putS s fid r l n d v) := by
  unfold putS
  split
  · exact .refl s
  · exact (logUwrite_placed _ _ _ _ _ _).trans (writeS_placed _ _ _)

/-! ### Guarded writes of a fibre with the same predicates and lanes -/

theorem active_congr (h : x.p = f.p) : c.active x = c.active f := by simp only [Issue.active, guardMask, Fibre.readP, h]

theorem zeroed_congr (h : x.p = f.p) : c.zeroed x = c.zeroed f := by simp only [Issue.zeroed, guardMask, Fibre.readP, h]

theorem full_congr (h : x.lanes = f.lanes) : c.full x = c.full f := by simp only [Issue.full, Fibre.liveMask, Fibre.lane, h]

theorem wr_congr (hp : x.p = f.p) (hl : x.lanes = f.lanes) (r : Nat) (tag : Tag) (val : Fin 32 → Word) :
    c.wr s x r tag val = c.wr s f r tag val := by
  simp only [Issue.wr, active_congr hp, zeroed_congr hp, full_congr hl]

theorem wrP_congr (hp : x.p = f.p) (hl : x.lanes = f.lanes) (r : Nat) (tag : Tag) (val : Fin 32 → DWord) :
    c.wrP s x r tag val = c.wrP s f r tag val := by
  simp only [Issue.wrP, wr_congr hp hl]

theorem Spread.of_congr {d : Nat} (hp : x.p = f.p) (hl : x.lanes = f.lanes) : Spread c x t d ↔ Spread c f t d := by
  unfold Spread
  rw [active_congr hp, full_congr hl]

/-- A pair that holds a value for a state in which the registers read the same. -/
theorem Holds2.of_kept {d : Nat} {val : Fin 32 → DWord} (h : Holds2 t c x u d val) (k : Kept s t) (hp : x.p = f.p) (hl : x.lanes = f.lanes) :
    Holds2 s c f u d val := by
  intro l
  have same : readPair t c.fibre d l = readPair s c.fibre d l := by unfold readPair; rw [readLane_kept k, readLane_kept k]
  rw [h l]
  simp only [Spread.of_congr hp hl, active_congr hp, zeroed_congr hp, same]

/-! ### What special registers read as (R36) -/

/-- A logged read gives the present value, unless a log is replayed. -/
theorem valueRead_fst (h : s.replaying (s.partOf c.fibre) = false) (src : Nat) (now : DWord) : (valueRead s c.fibre src 0 now).1 = now := by
  unfold valueRead
  split
  · rfl
  · simp only [h, Bool.false_eq_true, if_false]
    split <;> rfl

/-- The value of a special register other than LANE, by its index. -/
def sregVal (s : State) (c : Issue) (f : Fibre) (tm : Team) (g : Grid) (i : Nat) : DWord :=
  let k := nth g.kdesc 1 0
  let dims := nth g.packet 1 0
  let gx := fieldOf dims 31 0
  let gy := fieldOf dims 47 32
  let n : Nat := match i with
    | 0x01 => c.fibre
    | 0x02 => f.group
    | 0x03 => tm.index
    | 0x04 => tm.index / max 1 (fieldOf k 10 8 * fieldOf k 7 6)
    | 0x05 => c.fibre / 32
    | 0x06 => tm.index % max 1 gx
    | 0x07 => tm.index / max 1 gx % max 1 gy
    | 0x08 => tm.index / max 1 gx / max 1 gy
    | 0x09 => gx
    | 0x0A => gy
    | 0x0B => fieldOf dims 63 48
    | 0x0C => s.mgmt.gts.toNat
    | 0x0D => (s.part (s.partOf c.fibre)).cycle.toNat
    | 0x0E => f.fpstat.toNat
    | 0x0F => f.ric.toNat
    | 0x10 => (s.part (s.partOf c.fibre)).mode
    | _ => match f.role with
      | .vector => 0
      | .copy => 1
      | .matrix => 2
  BitVec.ofNat 64 n

/-- A special register other than LANE reads as its value; GTS and CYCLE do while no log is replayed. -/
theorem sregRead_fst {tm : Team} {g : Grid} {i : Nat} (ht : s.team f.team = some tm) (hg : s.grid tm.grid = some g) (h1 : 1 ≤ i) (h2 : i ≤ 0x11)
    (h : i = 0x0C ∨ i = 0x0D → s.replaying (s.partOf c.fibre) = false) : (sregRead s c f i).1 = sregVal s c f tm g i := by
  have place : placeOfFibre s f = some (tm, g) := by unfold placeOfFibre; rw [ht]; simp only [Option.bind_some, hg, Option.map_some]
  have wide : ∀ v : DWord, v = BitVec.ofNat 64 v.toNat := fun v => by simp
  have timed : i = 0x0C ∨ i = 0x0D → (sregRead s c f i).1 = sregVal s c f tm g i := by
    rintro (rfl | rfl)
    · exact (valueRead_fst (h (.inl rfl)) _ _).trans (wide _)
    · exact (valueRead_fst (h (.inr rfl)) _ _).trans (wide _)
  have role : i = 0x11 → (sregRead s c f i).1 = sregVal s c f tm g i := by
    rintro rfl
    unfold sregRead sregVal
    cases f.role <;> rfl
  have launched : i = 3 ∨ i = 4 ∨ (6 ≤ i ∧ i ≤ 11) → (sregRead s c f i).1 = sregVal s c f tm g i := by
    rintro (rfl | rfl | ⟨h6, h11⟩)
    rotate_left 2
    · interval_cases i
      all_goals
        refine congrArg (BitVec.ofNat 64) (?_ : launchReg s f _ = _)
        unfold launchReg
        rw [place]
        rfl
    all_goals
      refine congrArg (BitVec.ofNat 64) (?_ : launchReg s f _ = _)
      unfold launchReg
      rw [place]
      rfl
  have direct : i = 1 ∨ i = 2 ∨ i = 5 ∨ i = 0x10 → (sregRead s c f i).1 = sregVal s c f tm g i := by rintro (rfl | rfl | rfl | rfl) <;> rfl
  have counts : i = 0x0E ∨ i = 0x0F → (sregRead s c f i).1 = sregVal s c f tm g i := by
    rintro (rfl | rfl)
    · exact (BitVec.ofNat_toNat 64 f.fpstat).symm
    · exact (BitVec.ofNat_toNat 64 f.ric).symm
  by_cases e1 : i = 0x0C ∨ i = 0x0D
  · exact timed e1
  · by_cases e2 : i = 3 ∨ i = 4 ∨ (6 ≤ i ∧ i ≤ 11)
    · exact launched e2
    · by_cases e3 : i = 0x11
      · exact role e3
      · by_cases e4 : i = 0x0E ∨ i = 0x0F
        · exact counts e4
        · exact direct (by omega)

/-- What a read of a special register may leave in the logs and the replaying fibre (R306, R314). -/
theorem sregRead_cases {i : Nat} : (sregRead s c f i).2 = s ∨ ((i = 0x0C ∨ i = 0x0D) ∧ ∃ src now, (sregRead s c f i).2 = (valueRead s c.fibre src 0 now).2) := by
  unfold sregRead
  split
  case h_4 => exact .inr ⟨.inl rfl, _, _, rfl⟩
  case h_5 => exact .inr ⟨.inr rfl, _, _, rfl⟩
  all_goals exact .inl rfl

theorem sregRead_kept (i : Nat) : Kept s (sregRead s c f i).2 := by
  rcases sregRead_cases (s := s) (c := c) (f := f) (i := i) with e | ⟨-, src, now, e⟩
  · rw [e]; exact .refl s
  · rw [e]; exact valueRead_kept _ _ _ _

theorem sregRead_sameMem (i : Nat) : SameMem s (sregRead s c f i).2 := by
  rcases sregRead_cases (s := s) (c := c) (f := f) (i := i) with e | ⟨-, src, now, e⟩
  · rw [e]; exact .refl s
  · rw [e]; exact valueRead_sameMem _ _ _ _

theorem sregRead_placed (i : Nat) : Placed s (sregRead s c f i).2 := by
  rcases sregRead_cases (s := s) (c := c) (f := f) (i := i) with e | ⟨-, src, now, e⟩
  · rw [e]; exact .refl s
  · rw [e]; exact valueRead_placed _ _ _ _

/-- A frame after a kept change that moves no memory. -/
theorem Only.after {w : Writes} {fid : Nat} (k : Kept s t) (m : SameMem s t) (h : Only t u fid w) (hw : w.teams = false) : Only s u fid w := by
  have hs : Only s t fid w := .of_kept k fid w fun _ _ => m
  exact hs.trans h fun _ hr => by rw [hs.partOf hw m, replaying_kept m]; exact hr

/-- A read or write of FPSTAT waits for what raises flags (R66). -/
theorem fpstatWait_late {i : BitVec 6} {k : State} (h : i = 0x0E ∧ opsPending s c.fibre .flagging = true) :
    fpstatWait s c i k = stall s c (.ops .flagging) := by
  unfold fpstatWait
  rw [if_pos (by simpa using h)]

theorem fpstatWait_now {i : BitVec 6} {k : State} (h : ¬ (i = 0x0E ∧ opsPending s c.fibre .flagging = true)) : fpstatWait s c i k = k := by
  unfold fpstatWait
  rw [if_neg (by simpa using h)]

/-- A value written to a register whole. -/
theorem wr_post {d : Nat} {tag : Tag} {val : Fin 32 → Word} (h : Ready s c f { d := [d] }) : let t := retire (c.wr s f d tag val) c
    Only s t c.fibre { v := [d] } ∧ Passes s c f t ∧ Holds1 s c f t d val :=
  ⟨(wr_only _ _ _ _ (by simp)).retire rfl (wr_sameMem _ _ _), retire_passes (wr_placed _ _ _) h.fibre,
    (wr_holds h.fibre h.area (h.regs.imp_right fun hr => hr d (by simp [Issue.vregs]))).kept (retire_kept c)⟩

/-- A value written to a pair, after what the read of it leaves in the logs. -/
theorem wrP_post {d : Nat} {tag : Tag} {val : Fin 32 → DWord} (h : Ready s c f { d := [d, d + 1] }) (k : Kept s u) (m : SameMem s u)
    (p : Placed s u) : let t := retire (c.wrP u f d tag val) c
    Only s t c.fibre { v := [d, d + 1] } ∧ Passes s c f t ∧ Holds2 s c f t d val := by
  obtain ⟨x, hx, hr⟩ := k.some h.fibre
  obtain ⟨y, hy, hl, -⟩ := p.some h.fibre
  obtain rfl : y = x := Option.some.inj (hy.symm.trans hx)
  have hp : y.p = f.p := congrArg Regs.p hr
  have win : ∀ r, y.hasReg r = f.hasReg r := hasReg_congr (congrArg Regs.priv hr) (congrArg Regs.shared hr)
  have regs : c.active y = 0 ∨ (y.hasReg d = true ∧ y.hasReg (d + 1) = true) := by
    rw [active_congr hp, win, win]
    exact h.regs.imp_right fun e => ⟨e d (by simp [Issue.vregs]), e (d + 1) (by simp [Issue.vregs])⟩
  have area : y.region < 4 := by rw [show y.region = f.region from congrArg Regs.region hr]; exact h.area
  have wrote := (wrP_holds (tag := tag) (val := val) hx area regs).of_kept k hp hl
  rw [wrP_congr hp hl] at wrote
  exact ⟨.after k m ((wrP_only _ _ _ _ (by simp) (by simp) rfl).retire rfl (wrP_sameMem _ _ _)) rfl,
    retire_passes (p.trans (wrP_placed _ _ _)) h.fibre, wrote.kept (retire_kept c)⟩

/-- A value written to a uniform register, after what the read of it leaves in the logs. -/
theorem wrS_post {d : Nat} {val : DWord} (hf : s.fib c.fibre = some f) (hd : d < 64) (k : Kept s u) (m : SameMem s u)
    (p : Placed s u) : let t := retire (c.wrS u f d val) c
    Only s t c.fibre { s := [d] } ∧ Passes s c f t ∧ HoldsS c t d val := by
  obtain ⟨x, hx, -⟩ := k.some hf
  exact ⟨.after k m ((putS_only _ _ _ _ _ _ _ (by simp) rfl).retire rfl (putS_sameMem _ _ _ _ _ _)) rfl,
    retire_passes (p.trans (putS_placed _ _ _ _ _ _)) hf, (putS_holds hx hd).kept (retire_kept c)⟩

/-- FPSTAT written whole, after what its log takes (R30, R306). -/
theorem wrFpstat_post {v : Word} (hf : s.fib c.fibre = some f) (k : Kept s u) (m : SameMem s u) (p : Placed s u) :
    let t := retire (u.modFib c.fibre fun x => { x with fpstat := v }) c
    Passes s c f t ∧ Only s t c.fibre { fpstat := true } ∧ ∃ x, t.fib c.fibre = some x ∧ x.fpstat = v := by
  obtain ⟨x, hx, -⟩ := k.some hf
  obtain ⟨y, hy, hr⟩ := (retire_kept (s := u.modFib c.fibre fun x => { x with fpstat := v }) c).some (modFib_some hx)
  have wrote : Only u (u.modFib c.fibre fun x => { x with fpstat := v }) c.fibre { fpstat := true } := by
    refine modFib_only _ ?_ ?_ ?_ ?_ ?_ ?_ ?_ ?_
    case refine_5 => intro _ e; exact absurd e (by decide)
    all_goals intros; rfl
  exact ⟨retire_passes (p.trans (.fib fun _ => rfl)) hf, .after k m (wrote.retire rfl .fib) rfl, y, hy, congrArg Regs.fpstat hr⟩

/-! ### SREG_RD (R209) -/

/-- The registers that SREG_RD_VECTOR writes. -/
abbrev sregDst (d : BitVec 7) (i : BitVec 6) : List Nat := regRange d.toNat (if i = 0x0C ∨ i = 0x0D then 2 else 1)

theorem sregRdVector_late {d : BitVec 7} {i : BitVec 6} (h : Ready s c f { d := sregDst d i }) (hl : i = 0x0E ∧ opsPending s c.fibre .flagging = true) :
    exec (.sregRdVector d i) s = .next (stall s c (.ops .flagging)) :=
  (gate_ready h).trans (by rw [fpstatWait_late hl])

theorem sregRdVector_now {d : BitVec 7} {i : BitVec 6} (h : Ready s c f { d := sregDst d i })
    (hl : ¬ (i = 0x0E ∧ opsPending s c.fibre .flagging = true)) : exec (.sregRdVector d i) s = .next (
      if i = 0 then retire (c.wr s f d.toNat .a fun l => BitVec.ofNat 32 l.val) c
      else retire (if i = 0x0C ∨ i = 0x0D then c.wrP (sregRead s c f i.toNat).2 f d.toNat .u fun _ => (sregRead s c f i.toNat).1
        else c.wr (sregRead s c f i.toNat).2 f d.toNat .u fun _ => (sregRead s c f i.toNat).1.setWidth 32) c) :=
  (gate_ready h).trans (by rw [fpstatWait_now hl])

theorem sregRdUniform_late {u i : BitVec 6} (h : Ready s c f { s := [u.toNat] }) (hl : i = 0x0E ∧ opsPending s c.fibre .flagging = true) :
    exec (.sregRdUniform u i) s = .next (stall s c (.ops .flagging)) :=
  (gate_ready h).trans (by rw [fpstatWait_late hl])

theorem sregRdUniform_now {u i : BitVec 6} (h : Ready s c f { s := [u.toNat] }) (hl : ¬ (i = 0x0E ∧ opsPending s c.fibre .flagging = true)) :
    exec (.sregRdUniform u i) s = .next (
      if i = 0 then retire (c.wrS s f u.toNat (BitVec.ofNat 64 (lowLane c.lanes).val)) c
      else retire (c.wrS (sregRead s c f i.toNat).2 f u.toNat (sregRead s c f i.toNat).1) c) :=
  (gate_ready h).trans (by rw [fpstatWait_now hl]; split <;> rfl)

/-- The state of a read that is not wide is as it was. -/
theorem sregRead_snd {i : Nat} (h : ¬ (i = 0x0C ∨ i = 0x0D)) : (sregRead s c f i).2 = s :=
  (sregRead_cases (s := s) (c := c) (f := f) (i := i)).resolve_right fun e => h e.1

end Sys2Proof.Machine

namespace Sys2Proof.Proofs

open Machine

/-- Settles O37: a special register's value is `sregVal`, written by the guarded writes of any word; FPSTAT waits by `fpstatWait`. -/
theorem specialRegisters : Obligations.SpecialRegisters := by
  unfold Obligations.SpecialRegisters
  intro d u a i val wide logged late
  have index : ∀ n : BitVec 6, i = n ↔ i.toNat = n.toNat := fun n => ⟨fun e => by rw [e], BitVec.eq_of_toNat_eq⟩
  have isWide : i = 0x0C ∨ i = 0x0D ↔ i.toNat = 0x0C ∨ i.toNat = 0x0D := or_congr (index _) (index _)
  have live : ∀ {s c}, ¬ logged s c → i.toNat = 0x0C ∨ i.toNat = 0x0D → s.replaying (s.partOf c.fibre) = false := by
    intro s c hn hw
    exact Bool.eq_false_iff.2 fun hr => hn ⟨decide_eq_true (isWide.2 hw), hr⟩
  have past : i ≠ 0 → 1 ≤ i.toNat := fun h => by
    have : i.toNat ≠ 0 := fun e => h ((index 0).2 e)
    omega
  have value : ∀ s c f tm g, s.team f.team = some tm → s.grid tm.grid = some g → i ≠ 0 → i.toNat ≤ 0x11 → ¬ logged s c →
      (sregRead s c f i.toNat).1 = val s c f tm g := by
    intro s c f tm g ht hg h0 hi hn
    rw [sregRead_fst ht hg (past h0) hi (live hn)]
    simp only [val, sregVal] <;>
      (revert hi
       generalize i.toNat = n
       intro hi
       interval_cases n <;> rfl)
  refine ⟨?vector, ?uniform, ?write⟩
  case vector =>
    intro s c f tm g h ht hg hi
    have dst : (if wide = true then [d.toNat, d.toNat + 1] else [d.toNat]) = sregDst d i := by
      by_cases hw : i = 0x0C ∨ i = 0x0D
      · rw [if_pos (decide_eq_true hw), sregDst, if_pos hw]; rfl
      · rw [if_neg (by simpa [wide] using hw), sregDst, if_neg hw]; rfl
    rw [dst] at h ⊢
    by_cases hl : late s c
    · refine ⟨_, sregRdVector_late h hl, ?_⟩
      rw [if_pos hl]
      exact ⟨stall_waits h.fibre, stall_only _ _ _⟩
    · refine ⟨_, sregRdVector_now h hl, ?_⟩
      rw [if_neg hl]
      by_cases h0 : i = 0
      · have narrow : sregDst d i = [d.toNat] := by rw [h0]; rfl
        rw [narrow] at h ⊢
        rw [if_pos h0, if_pos h0]
        obtain ⟨only, passes, holds⟩ := wr_post (tag := .a) (val := fun l => BitVec.ofNat 32 l.val) h
        exact ⟨only, fun _ => ⟨passes, holds⟩⟩
      · rw [if_neg h0, if_neg h0]
        by_cases hw : i = 0x0C ∨ i = 0x0D
        · have pair : sregDst d i = [d.toNat, d.toNat + 1] := by rw [sregDst, if_pos hw]; rfl
          rw [pair] at h ⊢
          rw [if_pos hw, if_pos (decide_eq_true hw)]
          obtain ⟨only, passes, holds⟩ := wrP_post (tag := .u) (val := fun _ => (sregRead s c f i.toNat).1) h (sregRead_kept i.toNat)
            (sregRead_sameMem _) (sregRead_placed _)
          refine ⟨only, fun hn => ⟨passes, ?_⟩⟩
          rw [← value s c f tm g ht hg h0 hi hn]
          exact holds
        · have narrow : sregDst d i = [d.toNat] := by rw [sregDst, if_neg hw]; rfl
          rw [narrow] at h ⊢
          rw [if_neg hw, if_neg (show ¬ wide = true by simpa [wide] using hw), sregRead_snd fun e => hw (isWide.2 e)]
          obtain ⟨only, passes, holds⟩ := wr_post (tag := .u) (val := fun _ => (sregRead s c f i.toNat).1.setWidth 32) h
          refine ⟨only, fun hn => ⟨passes, ?_⟩⟩
          rw [← value s c f tm g ht hg h0 hi hn]
          exact holds
  case uniform =>
    intro s c f tm g h ht hg hi
    by_cases hl : late s c
    · refine ⟨_, sregRdUniform_late h hl, ?_⟩
      rw [if_pos hl]
      exact ⟨stall_waits h.fibre, stall_only _ _ _⟩
    · refine ⟨_, sregRdUniform_now h hl, ?_⟩
      rw [if_neg hl]
      by_cases h0 : i = 0
      · rw [if_pos h0, if_pos h0]
        obtain ⟨only, passes, holds⟩ := wrS_post (val := BitVec.ofNat 64 (lowLane c.lanes).val) h.fibre u.isLt (.refl s) (.refl s) (.refl s)
        exact ⟨only, fun _ => ⟨passes, holds⟩⟩
      · rw [if_neg h0, if_neg h0]
        obtain ⟨only, passes, holds⟩ := wrS_post (val := (sregRead s c f i.toNat).1) h.fibre u.isLt (sregRead_kept i.toNat) (sregRead_sameMem _)
          (sregRead_placed _)
        refine ⟨only, fun hn => ⟨passes, ?_⟩⟩
        rw [← value s c f tm g ht hg h0 hi hn]
        exact holds
  case write =>
    intro s c f h
    refine ⟨_, gate_ready h, ?_⟩
    simp only []
    by_cases hb : fieldOf (f.readS a.toNat) 31 0 / 2 ^ 12 ≠ 0 ∨ 5 ≤ fieldOf (f.readS a.toNat) 31 0 % 8
    · rw [if_pos hb, if_pos hb]
      exact ⟨illegal_faults h.fibre, raiseCause_only _ _ _⟩
    · rw [if_neg hb, if_neg hb]
      by_cases hl : late s c
      · rw [if_pos hl, fpstatWait_late hl]
        exact ⟨stall_waits h.fibre, stall_only _ _ _⟩
      · rw [if_neg hl, fpstatWait_now hl]
        exact wrFpstat_post h.fibre (logUwrite_kept _ _ _ _ _ _) (logUwrite_sameMem _ _ _ _ _ _) (logUwrite_placed _ _ _ _ _ _)

end Sys2Proof.Proofs
end

section
/-!
O58: a step always answers. The only fault of the model is that of a word with no fibre to issue it, so that what is to show is that a bound fibre issues
each word: a prefix leaves the fibre issuing the next one, and every other word ends its own issue (R18, R83, R84).
-/

namespace Sys2Proof.Machine

variable {s t : State} {c d : Issue} {f : Fibre}

/-! ### What is being issued after the operations that end a word -/

/-- No word is being issued but the word of issue c. -/
def Ends (c : Issue) (t : State) : Prop := ∀ d, t.issue = some d → d.word = c.word

theorem Ends.of_none (h : t.issue = none) : Ends c t := fun _ e => nomatch h.symm.trans e

theorem Ends.of_eq (h : Ends c s) (e : t.issue = s.issue) : Ends c t := fun d hd => h d (e ▸ hd)

theorem Ends.modFib {n : Nat} {g : Fibre → Fibre} (h : Ends c s) : Ends c (s.modFib n g) := h.of_eq rfl

theorem Ends.ite {p : Prop} [Decidable p] (h : Ends c s) (k : Ends c t) : Ends c (if p then s else t) := by
  split
  · exact h
  · exact k

theorem pmCount_issue (k : Nat) (sl : Option Nat) (ev n : Nat) : (s.pmCount k sl ev n).issue = s.issue := by
  unfold State.pmCount
  split <;> rfl

theorem handOver_issue (n why : Nat) : (handOver s n why).issue = s.issue := by
  unfold handOver
  extract_lets n
  split
  · exact pmCount_issue _ _ _ _
  · rfl

theorem goWaiting_issue (n why : Nat) : (goWaiting s n why).issue = s.issue := by
  unfold goWaiting
  split
  · exact handOver_issue n why
  · rfl

theorem endRun_issue : (endRun s c).issue = s.issue := by
  unfold endRun
  split <;> rfl

theorem advance_issue : (advance s c).issue = s.issue := by
  unfold advance
  split
  · exact endRun_issue
  · split <;> rfl

theorem cacheEntry_issue (k ctx i : Nat) : (cacheEntry s k ctx i).issue = s.issue := by
  unfold cacheEntry
  split <;> rfl

theorem flagErr_issue (fid : Nat) (flag : Option Nat) : (flagErr s fid flag).issue = s.issue := by
  unfold flagErr
  split <;> rfl

theorem retire_ends : Ends d (retire s c) := .of_none (advance_issue (s := countIssue s c))

theorem retireTo_ends {target : Fin 32 → DWord} : Ends d (retireTo s c target) :=
  .of_none (endRun_issue (s := (countIssue s c).modFib c.fibre (sendTo c.lanes target)))

theorem stall_ends {w : Wait} : Ends d (stall s c w) := by
  unfold stall
  exact .ite (.of_none ((goWaiting_issue _ _).trans rfl)) (.of_none rfl)

theorem holdLanes_ends {h : Hold} : Ends d (holdLanes s c h) := .of_none rfl

theorem holdSync_ends {h : SyncHold} : Ends d (holdSync s c h) := by
  unfold holdSync
  exact Ends.modFib (.ite (.of_none rfl) (.of_none rfl))

theorem freeze_ends {fid : Nat} {y : Flt} {a : StopAt} {w : Option Nat} (h : Ends d s) : Ends d (freeze s fid y a w) := by
  unfold freeze
  split
  · exact h
  · exact .of_none rfl

theorem raiseAt_ends {y : Flt} {after : Nat} (h : Ends d s) : Ends d (raiseAt s c y after) := freeze_ends h.modFib

theorem raise_ends {y : Flt} (h : Ends d s) : Ends d (raise s c y) := raiseAt_ends h

theorem raiseCause_ends {cause : Nat} (h : Ends d s) : Ends d (raiseCause s c cause) := raise_ends h

theorem illegal_ends (h : Ends d s) : Ends d (illegal s c) := raiseCause_ends h

/-! ### The operations that words share -/

theorem regGate_ends {k : State} {vs ds ss : List Nat} (h : Ends d s) (hk : Ends d k) : Ends d (regGate s c f vs ds ss k) :=
  .ite (raiseCause_ends h) (.ite stall_ends hk)

theorem issueA_ends {k : OpKind} : Ends d (issueA s c f k) := retire_ends

theorem issueB_ends {ws : List RegWrite} {fl : Word} {fp : Bool} : Ends d (issueB s c f ws fl fp) := by
  unfold issueB
  exact .ite retire_ends retire_ends

theorem issueDone_ends : Ends d (issueDone s c f) := retire_ends

theorem issueEngine_ends {major sum : Nat} {e : EngOp} : Ends d (issueEngine s c f major sum e) := retire_ends

theorem askWalk_ends {pages : List (Nat × Bool × Bool × Nat)} : Ends d (askWalk s c pages) := stall_ends

theorem checkFail_ends {uni : Bool} {y : Flt} (h : Ends d s) : Ends d (checkFail s c uni y) := by
  unfold checkFail
  exact .ite askWalk_ends (raise_ends (.ite (h.modFib.of_eq (flagErr_issue _ _)) h.modFib))

theorem bufWordOf_ends {uni : Bool} {breg size align : Nat} {whole : Option LaneMask} {items : List Item} {need : Need}
    {k : State → List Acc → BufInfo → State} (h : Ends d s) (hk : ∀ t accs b, Ends d t → Ends d (k t accs b)) :
    Ends d (bufWordOf uni s c f breg whole items size align need k) := by
  unfold bufWordOf
  refine .ite stall_ends (.ite stall_ends ?_)
  extract_lets reg
  split
  · exact checkFail_ends h
  · exact askWalk_ends
  · exact hk _ _ _ (h.of_eq (cacheEntry_issue _ _ _))

theorem ldsWord_ends {a : BitVec 7} {imm : BitVec 11} {size : Nat} {k : List Acc → State} (h : Ends d s) (hk : ∀ accs, Ends d (k accs)) :
    Ends d (ldsWord s c f a imm size k) := by
  unfold ldsWord
  refine .ite stall_ends ?_
  extract_lets t bytes base items flt
  split
  · exact raise_ends h
  · split
    · exact raise_ends h
    · exact .ite holdLanes_ends (hk _)

theorem claimStaging_ends {accs : List Acc} {k : State → State} (hk : ∀ t, Ends d (k t)) : Ends d (claimStaging s c accs k) := by
  unfold claimStaging
  split
  · exact .ite (hk _) (.ite (hk _) stall_ends)
  · exact hk _

theorem withRecord_ends {off : DWord} {k : State → BitVec 512 → State} (h : Ends d s) (hk : ∀ t r, Ends d (k t r)) :
    Ends d (withRecord s c f off k) := by
  unfold withRecord
  refine bufWordOf_ends h fun t accs b ht => ?_
  split
  · extract_lets ga
    split
    · exact hk _ _
    · exact stall_ends
  · exact ht

theorem ringWord_ends {a r : BitVec 6} {k : Nat → Nat → State} (h : Ends d s) (hk : ∀ p st, Ends d (k p st)) : Ends d (ringWord s c f a r k) := by
  unfold ringWord
  split
  · exact illegal_ends h
  · exact .ite (raise_ends h) (hk _ _)

theorem releaseWait_ends {e : Bool} {k : State} (hk : Ends d k) : Ends d (releaseWait s c e k) := .ite stall_ends hk

theorem waitOn_ends {on : SyncOn} {sd : Nat} : Ends d (waitOn s c f on sd) := holdSync_ends

theorem statusNow_ends {sd status : Nat} : Ends d (statusNow s c f sd status) := retire_ends

theorem waitBar_ends {sd n : Nat} {tok : BitVec 16} : Ends d (waitBar s c f sd n tok) := by
  unfold waitBar
  split
  · exact statusNow_ends
  · exact .ite statusNow_ends (.ite waitOn_ends (.ite statusNow_ends statusNow_ends))

theorem popMessage_ends {e b n ga : Nat} : Ends d (popMessage s c f e b n ga) := issueDone_ends

theorem fpstatWait_ends {i : BitVec 6} {k : State} (hk : Ends d k) : Ends d (fpstatWait s c i k) := .ite stall_ends hk

/-! ### Words of one shape -/

/-- Word c of fibre f is being issued. -/
structure Begun (s : State) (c : Issue) (f : Fibre) : Prop where
  issue : s.issue = some c
  fibre : s.fib c.fibre = some f

theorem Begun.ends (h : Begun s c f) : Ends c s := fun d e => by rw [h.issue] at e; cases e; rfl

/-- After the word of issue c no other word is being issued, or a bound fibre issues the one that follows. -/
def Onward (c : Issue) (t : State) : Prop := ∀ d, t.issue = some d → d.word = c.word ∨ ∃ g, Begun t d g

theorem Ends.onward (h : Ends c t) : Onward c t := fun d e => .inl (h d e)

/-- The word answers, and what follows it can issue. -/
def Issues (c : Issue) (o : Host.Outcome State Fault Refusal) : Prop := ∃ t, o = .next t ∧ Onward c t

theorem Issues.next (h : Onward c t) : Issues c (.next t) := ⟨t, rfl, h⟩

theorem gate_issues {u : Uses} {k : Issue → Fibre → State} (h : Begun s c f) (hk : Ends c (k c f)) : Issues c (gate s u k) := by
  unfold gate
  simp only [h.issue, h.fibre]
  split
  · exact .next (illegal_ends h.ends).onward
  · split
    · exact .next (raiseCause_ends h.ends).onward
    · exact .next (regGate_ends h.ends hk).onward

theorem Issues.ite {p : Prop} [Decidable p] {x y : Host.Outcome State Fault Refusal} (h : Issues c x) (k : Issues c y) :
    Issues c (if p then x else y) := by
  split
  · exact h
  · exact k

theorem cvtWord_issues {t : CvtFmt} {e a : BitVec 7} {g : CvtFmt} {vc : Nat} {val : Issue → Fibre → Fin 32 → DWord × Word} (h : Begun s c f) :
    Issues c (cvtWord s t e a g vc val) := .ite (gate_issues h retire_ends) (gate_issues h retire_ends)

theorem qround_issues {e : BitVec 7} {q : BitVec 1} {t : QTarget} (h : Begun s c f) : Issues c (execQround e q t s) :=
  .ite (gate_issues h retire_ends) (gate_issues h retire_ends)

/-- A cross-lane word holds its lanes, or issues for all of them at once (R141). -/
theorem cross_issues {vs ds ss : List Nat} {k : Issue → Fibre → (Fin 32 → LaneMask) → State → State} (h : Begun s c f)
    (hk : ∀ c1 m, Ends c (k c1 f m s)) : Issues c (cross s vs ds ss k) := by
  unfold cross
  exact gate_issues h (.ite holdLanes_ends (hk _ _))

theorem shfl_issues {w : Bool} {e a b : BitVec 7} {kind : Nat → Nat → Option Nat} (h : Begun s c f) : Issues c (shfl s w e a b kind) := by
  unfold shfl
  exact cross_issues h fun _ _ => retire_ends

theorem votePred_issues {p : BitVec 3} {g : Issue → Fibre → (Fin 32 → LaneMask) → Fin 32 → Bool} (h : Begun s c f) : Issues c (votePred s p g) :=
  cross_issues h fun _ _ => retire_ends

theorem loadWord_issues {e a : BitVec 7} {b : BitVec 4} {imm : BitVec 7} {k : LdKind} {acq : Option Scope} (h : Begun s c f) :
    Issues c (loadWord s e a b imm k acq) :=
  gate_issues h (.ite issueDone_ends (bufWordOf_ends h.ends fun _ _ _ _ => issueA_ends))

theorem storeWord_issues {e a : BitVec 7} {b : BitVec 4} {imm : BitVec 7} {k : StKind} {rel : Option Scope} (h : Begun s c f) :
    Issues c (storeWord s e a b imm k rel) :=
  gate_issues h (.ite issueDone_ends (bufWordOf_ends h.ends fun _ _ _ _ => claimStaging_ends fun _ => issueA_ends))

theorem ldsLoad_issues {e a : BitVec 7} {imm : BitVec 11} {n : Nat} (h : Begun s c f) : Issues c (ldsLoad s e a imm n) :=
  gate_issues h (.ite issueDone_ends (ldsWord_ends h.ends fun _ => issueA_ends))

theorem stsStore_issues {e a : BitVec 7} {imm : BitVec 11} {n : Nat} (h : Begun s c f) : Issues c (stsStore s e a imm n) :=
  gate_issues h (.ite issueDone_ends (ldsWord_ends h.ends fun _ => issueA_ends))

theorem atomWord_issues {op : AtomOp} {n : Nat} {e a : BitVec 7} {b : BitVec 4} {sc : Scope} (h : Begun s c f) :
    Issues c (atomWord s op n e a b sc) :=
  gate_issues h (.ite issueDone_ends (bufWordOf_ends h.ends fun _ _ _ _ => claimStaging_ends fun _ => issueA_ends))

theorem transfer_issues {p : BitVec 3} {n : Bool} {regs : List Nat} {link : Bool} {target : Issue → Fin 32 → DWord} (h : Begun s c f) :
    Issues c (transfer s p n regs link target) :=
  gate_issues h (regGate_ends h.ends (.ite (raise_ends h.ends) retireTo_ends))

theorem uniTransfer_issues {taken : Fibre → Bool} {ss : List Nat} {link : Bool} {target : Issue → Fibre → DWord} (h : Begun s c f) :
    Issues c (uniTransfer s taken ss link target) :=
  gate_issues h (.ite retireTo_ends (regGate_ends h.ends (.ite (raise_ends h.ends) retireTo_ends)))

theorem trapWord_issues {p : BitVec 3} {n : Bool} {code : BitVec 16} {cause : Nat} (h : Begun s c f) : Issues c (trapWord s p n code cause) :=
  gate_issues h (.ite retire_ends (raise_ends h.ends))

theorem fenceWord_issues {w : OpsWait} {x : Scope} {rel acq : Bool} {after : Nat → State → State} (h : Begun s c f) :
    Issues c (fenceWord s w x rel acq after) := gate_issues h (.ite stall_ends (.ite stall_ends retire_ends))

theorem ringArrive_issues {a r : BitVec 6} {full : Bool} (h : Begun s c f) : Issues c (ringArrive s a r full) :=
  gate_issues h (ringWord_ends h.ends fun _ _ => releaseWait_ends retire_ends)

theorem ringWait_issues {e a r : BitVec 6} {full par : Bool} (h : Begun s c f) : Issues c (ringWait s e a r full par) :=
  gate_issues h (ringWord_ends h.ends fun _ _ => .ite waitOn_ends statusNow_ends)

theorem copyWord_issues {form : EngForm} {a : BitVec 6} {b : BitVec 4} {sc : Scope} (h : Begun s c f) : Issues c (copyWord s form a b sc) := by
  refine gate_issues h (.ite (raise_ends h.ends) (.ite (raise_ends h.ends) (.ite (raise_ends h.ends) (.ite (raise_ends h.ends)
    (.ite (raise_ends h.ends) ?_)))))
  split
  · exact raise_ends h.ends
  · exact withRecord_ends h.ends fun _ _ => issueEngine_ends

theorem wbloadWord_issues {mask : Bool} {a : BitVec 6} {b : BitVec 4} (h : Begun s c f) : Issues c (wbloadWord s mask a b) :=
  gate_issues h (.ite (raiseCause_ends h.ends) issueEngine_ends)

theorem accWord_issues {form : EngForm} {a : BitVec 6} (h : Begun s c f) : Issues c (accWord s form a) :=
  gate_issues h (.ite (raiseCause_ends h.ends) (.ite issueEngine_ends (withRecord_ends h.ends fun _ _ => issueEngine_ends)))

theorem xformWord_issues {k : XForm} {a : BitVec 6} {b : BitVec 4} (h : Begun s c f) : Issues c (xformWord s k a b) :=
  gate_issues h (.ite (raise_ends h.ends) (.ite (raise_ends h.ends) (.ite (raise_ends h.ends) (withRecord_ends h.ends fun _ _ => issueEngine_ends))))

/-! ### Words of their own shape -/

theorem pf_issues {a : BitVec 7} {b : BitVec 4} {lv : PfLevel} (h : Begun s c f) : Issues c (execPf a b lv s) :=
  gate_issues h (.ite stall_ends issueDone_ends)

theorem aacc_issues {e a : BitVec 7} {b : BitVec 4} {k : AaccFmt} (h : Begun s c f) : Issues c (execAacc e a b k s) := by
  refine gate_issues h (.ite issueDone_ends ?_)
  extract_lets items
  split
  · exact raise_ends h.ends
  · exact bufWordOf_ends h.ends fun _ _ _ _ => issueA_ends

theorem arsv_issues {e : BitVec 7} {b : BitVec 4} (h : Begun s c f) : Issues c (execArsv e b s) := by
  refine gate_issues h (.ite issueDone_ends (.ite (raise_ends h.ends) ?_))
  split
  · exact raise_ends h.ends
  · split
    · exact raise_ends h.ends
    · exact issueDone_ends

theorem yield_issues (h : Begun s c f) : Issues c (execYield s) := gate_issues h (.ite retire_ends (Ends.modFib retire_ends))

theorem uld_issues {e a : BitVec 6} {b : BitVec 4} {o : BitVec 8} (h : Begun s c f) : Issues c (execUld e a b o s) :=
  gate_issues h (bufWordOf_ends h.ends fun _ _ _ _ => issueA_ends)

theorem ust_issues {e a : BitVec 6} {b : BitVec 4} {o : BitVec 8} (h : Begun s c f) : Issues c (execUst e a b o s) :=
  gate_issues h (bufWordOf_ends h.ends fun _ _ _ _ => claimStaging_ends fun _ => issueA_ends)

theorem fbarSync_issues {e n : BitVec 6} {k : BitVec 3} (h : Begun s c f) : Issues c (execFbarSync e n k s) := by
  refine gate_issues h ?_
  extract_lets slot
  split
  · exact illegal_ends h.ends
  · exact .ite waitOn_ends (.ite statusNow_ends (.ite (releaseWait_ends statusNow_ends) waitOn_ends))

theorem ringInit_issues {a r : BitVec 6} (h : Begun s c f) : Issues c (execRingInit a r s) := by
  refine gate_issues h ?_
  split
  · exact illegal_ends h.ends
  · exact .ite (raise_ends h.ends) retire_ends

/-- A message is received, or its word waits for it or faults (R206, R207). -/
theorem msgRecv_issues {e b a : BitVec 6} (h : Begun s c f) : Issues c (execMsgRecv e b a s) := by
  refine gate_issues h (.ite retire_ends (.ite (raise_ends h.ends) (.ite stall_ends (.ite stall_ends (.ite stall_ends ?_)))))
  extract_lets reg off
  split
  · exact checkFail_ends h.ends
  · exact askWalk_ends
  · split
    · exact popMessage_ends
    · exact h.ends

/-- A packet is rung, or its word waits or completes in error (R208). -/
theorem glaunch_issues {a q : BitVec 6} (h : Begun s c f) : Issues c (execGlaunch a q s) := by
  refine gate_issues h (.ite stall_ends (.ite retire_ends ?_))
  extract_lets st
  split
  · exact retire_ends
  · extract_lets s0
    refine .ite stall_ends ?_
    split
    · exact retire_ends
    · exact .ite stall_ends issueDone_ends

theorem badPrefix_ends (h : Ends d s) : Ends d (badPrefix s c) := raiseAt_ends h

/-- After a prefix its fibre issues the word that follows (R84). -/
theorem nextIssue_onward {px : Option XPre} {sw : Bool} (h : Begun s c f) :
    Onward c { s with issue := some { c with word := c.word + 1, px := px, sw := sw } } :=
  fun d e => .inr ⟨f, e, by cases e; exact h.fibre⟩

theorem xPrefix_issues {gp z gn rm vc lk k ls} (h : Begun s c f) : Issues c (execXPrefix gp z gn rm vc lk k ls s) := by
  unfold execXPrefix
  simp only [h.issue, h.fibre]
  split
  · exact .next (badPrefix_ends h.ends).onward
  · exact .ite (.next (badPrefix_ends h.ends).onward) (.next (nextIssue_onward h))

theorem wPrefix_issues {sw p} (h : Begun s c f) : Issues c (execWPrefix sw p s) := by
  unfold execWPrefix
  simp only [h.issue, h.fibre]
  split
  · exact .next (badPrefix_ends h.ends).onward
  · exact .ite (.next (badPrefix_ends h.ends).onward) (.ite (.next stall_ends.onward) (.next (nextIssue_onward h)))

/-- A bound fibre issues any word, and then what follows it (R18, R83, R84). -/
theorem exec_issues {i : Instr} (hw : i.isWord = true) (h : Begun s c f) : Issues c (exec i s) := by
  unfold exec
  cases i with
  | iadd | isub | imul | imulhSg | imulhUs | iminSg | iminUs | imaxSg | imaxUs | and | or | xor | andn | shr | sar | rot | bfeUs | bfeSg | imad
  | bfi | iabs | clz | popc | brev | mov | iaddImm | andImm | shlImm | shrImm | sarImm | rotImm | shl | movi | sel | movFromUniform | movB64
  | iadd64 | isub64 | imul64 | shl64 | shr64 | sar64 | shl64Imm | shr64Imm | sar64Imm | icmp | icmp64 | pnot | pand | por | pxor | idp4Sg | idp4Us
  | idp2Sg | idp2Us | faddF32 | fsubF32 | fmulF32 | fminF32 | fmaxF32 | ffmaF32 | faddF64 | fsubF64 | fmulF64 | fminF64 | fmaxF64 | ffmaF64
  | fcmpF32 | fcmpF64 | trcmp | tradd | trsub | trmul | trfma | trmin | trmax | trenc | trdec | qmac | qclr | qadd | nop | uadd | usub | umul
  | uand | uor | uxor | ushl | ushr | usar | uminSg | uminUs | umaxSg | umaxUs | ucmp | umov | usel | uaddImm | umoviLo | umoviHi | barInval
  | cftest | ctrRd =>
    exact gate_issues h retire_ends
  | fdivF32 | fsqrtF32 | frcpF32 | frsqF32 | fdivF64 | fsqrtF64 | frcpF64 | frsqF64 | fex2F32 | flg2F32 | fsinF32 | fcosF32 =>
    exact gate_issues h issueB_ends
  | qround => exact qround_issues h
  | cvt | cvtClamp => exact cvtWord_issues h
  | shflIdx | shflUp | shflDown | shflXor => exact shfl_issues h
  | voteAny | voteAll => exact votePred_issues h
  | voteBallot | voteEq | matchB32 | matchB64 => exact cross_issues h fun _ _ => retire_ends
  | red | scan => exact cross_issues h fun _ _ => issueB_ends
  | ldB32 | ldB64 | ldB128 | ldExtended => exact loadWord_issues h
  | stB32 | stB64 | stB128 | stExtended => exact storeWord_issues h
  | pf => exact pf_issues h
  | ldsB32 | ldsB64 => exact ldsLoad_issues h
  | stsB32 | stsB64 => exact stsStore_issues h
  | atomAddB32 | atomMinSgB32 | atomMinUsB32 | atomMaxSgB32 | atomMaxUsB32 | atomAndB32 | atomOrB32 | atomXorB32 | atomXchgB32 | atomCasB32
  | atomAddB64 | atomMinSgB64 | atomMinUsB64 | atomMaxSgB64 | atomMaxUsB64 | atomAndB64 | atomOrB64 | atomXorB64 | atomXchgB64 | atomCasB64
  | acasB128 =>
    exact atomWord_issues h
  | aacc => exact aacc_issues h
  | arsv => exact arsv_issues h
  | bra | call | callr | ret | jmpr => exact transfer_issues h
  | exit => exact gate_issues h retireTo_ends
  | yield => exact yield_issues h
  | trap | bkpt => exact trapWord_issues h
  | xPrefix => exact xPrefix_issues h
  | wPrefix => exact wPrefix_issues h
  | uld => exact uld_issues h
  | ust => exact ust_issues h
  | ubra | ucall | ubraReg | ucallReg => exact uniTransfer_issues h
  | fence | fenceAcq | fenceRel | fenceLrec => exact fenceWord_issues h
  | barInit | cvinit => exact gate_issues h (.ite (raise_ends h.ends) retire_ends)
  | barArrive => exact gate_issues h (releaseWait_ends retire_ends)
  | barWait => exact gate_issues h waitBar_ends
  | barSync => exact gate_issues h (releaseWait_ends waitBar_ends)
  | fbarSync => exact fbarSync_issues h
  | ringInit => exact ringInit_issues h
  | ringArriveFull | ringArriveEmpty => exact ringArrive_issues h
  | ringWaitFull | ringWaitEmpty => exact ringWait_issues h
  | copy | copySt | copyAcc => exact copyWord_issues h
  | mma => exact gate_issues h (.ite (raiseCause_ends h.ends) retire_ends)
  | wbload | wbloadMask => exact wbloadWord_issues h
  | accld | accldF64 | accst | accstF64 | acczero => exact accWord_issues h
  | opfence | temit | rtag => exact gate_issues h (.ite stall_ends retire_ends)
  | xformCvt | xformRound | xformScale | xformFill | xformZero => exact xformWord_issues h
  | msgSend => exact gate_issues h (.ite (illegal_ends h.ends) issueA_ends)
  | msgRecv => exact msgRecv_issues h
  | sregRdVector => exact gate_issues h (fpstatWait_ends (.ite retire_ends retire_ends))
  | sregRdUniform => exact gate_issues h (fpstatWait_ends retire_ends)
  | sregWr => exact gate_issues h (.ite (illegal_ends h.ends) (fpstatWait_ends retire_ends))
  | ctrCtl => exact gate_issues h (.ite (illegal_ends h.ends) (.ite (raiseCause_ends h.ends) retire_ends))
  | glaunch => exact glaunch_issues h
  | _ => exact absurd hw Bool.false_ne_true

theorem gate_noIssue {u : Uses} {k : Issue → Fibre → State} (h : s.issue = none) : gate s u k = .fault .noIssue := by
  unfold gate
  rw [h]

theorem ite_noIssue {p : Prop} [Decidable p] {x y : Host.Outcome State Fault Refusal} (h : x = .fault .noIssue) (k : y = .fault .noIssue) :
    (if p then x else y) = .fault .noIssue := by
  split
  · exact h
  · exact k

/-- With no fibre to issue it a word faults. -/
theorem exec_noIssue {i : Instr} (hw : i.isWord = true) (h : s.issue = none) : exec i s = .fault .noIssue := by
  unfold exec
  cases i with
  | xPrefix => unfold execXPrefix; rw [h]
  | wPrefix => unfold execWPrefix; rw [h]
  | qround =>
    exact ite_noIssue (gate_noIssue h) (gate_noIssue h)
  | cvt | cvtClamp => exact ite_noIssue (gate_noIssue h) (gate_noIssue h)
  | iadd | isub | imul | imulhSg | imulhUs | iminSg | iminUs | imaxSg | imaxUs | and | or | xor | andn | shr | sar | rot | bfeUs | bfeSg | imad
  | bfi | iabs | clz | popc | brev | mov | iaddImm | andImm | shlImm | shrImm | sarImm | rotImm | shl | movi | sel | movFromUniform | movB64
  | iadd64 | isub64 | imul64 | shl64 | shr64 | sar64 | shl64Imm | shr64Imm | sar64Imm | icmp | icmp64 | pnot | pand | por | pxor | idp4Sg | idp4Us
  | idp2Sg | idp2Us | faddF32 | fsubF32 | fmulF32 | fminF32 | fmaxF32 | ffmaF32 | faddF64 | fsubF64 | fmulF64 | fminF64 | fmaxF64 | ffmaF64
  | fcmpF32 | fcmpF64 | trcmp | fdivF32 | fsqrtF32 | frcpF32 | frsqF32 | fdivF64 | fsqrtF64 | frcpF64 | frsqF64 | tradd | trsub | trmul | trfma
  | trmin | trmax | trenc | trdec | qmac | qclr | qadd | fex2F32 | flg2F32 | fsinF32 | fcosF32 | shflIdx | shflUp | shflDown | shflXor | voteAny
  | voteAll | voteBallot | voteEq | matchB32 | matchB64 | red | scan | ldB32 | ldB64 | ldB128 | ldExtended | stB32 | stB64 | stB128 | stExtended
  | pf | ldsB32 | ldsB64 | stsB32 | stsB64 | atomAddB32 | atomMinSgB32 | atomMinUsB32 | atomMaxSgB32 | atomMaxUsB32 | atomAndB32 | atomOrB32
  | atomXorB32 | atomXchgB32 | atomCasB32 | atomAddB64 | atomMinSgB64 | atomMinUsB64 | atomMaxSgB64 | atomMaxUsB64 | atomAndB64 | atomOrB64
  | atomXorB64 | atomXchgB64 | atomCasB64 | acasB128 | aacc | arsv | bra | call | callr | ret | jmpr | exit | yield | trap | bkpt | nop | uadd
  | usub | umul | uand | uor | uxor | ushl | ushr | usar | uminSg | uminUs | umaxSg | umaxUs | ucmp | umov | usel | uaddImm | umoviLo | umoviHi
  | uld | ust | ubra | ucall | ubraReg | ucallReg | fence | fenceAcq | fenceRel | fenceLrec | barInit | barArrive | barWait | barSync | barInval
  | fbarSync | ringInit | ringArriveFull | ringArriveEmpty | ringWaitFull | ringWaitEmpty | cftest | copy | copySt | copyAcc | cvinit | mma
  | wbload | wbloadMask | accld | accldF64 | accst | accstF64 | acczero | opfence | xformCvt | xformRound | xformScale | xformFill | xformZero
  | msgSend | msgRecv | sregRdVector | sregRdUniform | sregWr | temit | ctrRd | ctrCtl | rtag | glaunch =>
    exact gate_noIssue h
  | _ => exact absurd hw Bool.false_ne_true

/-! ### Outcomes that are a next state -/

/-- The outcome is a next state. -/
def Answers (o : Host.Outcome State Fault Refusal) : Prop := ∃ t, o = .next t

theorem Answers.next : Answers (.next s) := ⟨s, rfl⟩

theorem Answers.ite {p : Prop} [Decidable p] {x y : Host.Outcome State Fault Refusal} (h : Answers x) (k : Answers y) :
    Answers (if p then x else y) := by
  split
  · exact h
  · exact k

/-- An event of the device always answers (R83). -/
theorem exec_answers {i : Instr} (hw : i.isWord = false) : Answers (exec i s) := by
  unfold exec
  cases i with
  | clauseFetch | ricWrap | watchdogFault | drowsyRetention | loadDataReturn | storePerformed | atomicPerformed | classBComplete | pageWalkComplete
  | lrecFillComplete | copyLineArrival | engineOperationComplete | fibreRelease | messageArrival | msgAccepted | mailboxAdmissionSignal | qdbWrite
  | packetConsume | clusterPlace | priorityWaitLimit | gridComplete | teamRetire | modeChangeApply | throttleSignal | quietInterval
  | queueCongestion | congestionRepeat | gangSwitchPropose | gangTimeMessage | gangCancellation | gangAckDeadline | gangSwitch | bivouacFill
  | bivouacSpill | cairn | podCairnPropose | podCairnAckTimeout | podCairnTake | chunkLimit | sequenceExhausted | replayLogEnd | abortDrained
  | restoreComplete | epochScrub | l1Eviction | coherenceRead | coherenceOwnership | coherenceWriteback | evictionNotice | invalidation
  | recallLine | lostCopiesNotice | hostMemRead | hostMemWrite | hostCacheOwnership | pageRecompress | rmThreshold | rmHoldEnd | periodicRefresh
  | traceFilter | linkFailure | linkTimeout | ptpTimeUpdate | intrFreeze | stepComplete | resume | skip | step | rdreg | wrreg | intr | halt
  | unhalt | terminate | replay | ctrtot | ctrgrant | lanternLoad | lanternRead | ctrprog | ctrread | cfgrd | cfgwr | btinval | tlbinval
  | mrdbWrite | mgmtDatagram | info | storeManifest | compareManifest | attest | openSession | remapAdd | powerState | warmReset | fwUpdate
  | cxlHotReset | coldReset | thermalWarning | thermalTrip | fqcfgWrite | fqptrWrite | fqstatRead | srstatRead | trstatRead | hbmErrRead
  | trptrWrite | urstatFailClear | registerWrite | recorderBufferFree | twinPageConsumed | powerLoss | linkRetrained | flitCrcRetry
  | guylineCreditReturn | podCairnInstant | podCairnAcknowledged | h2dSnoop =>
    exact ⟨_, rfl⟩
  | _ => exact absurd hw.symm Bool.false_ne_true

/-! ### Every word that decodes is a word of the tables -/

/-- Whatever is decoded is a word. -/
def Words (o : Option Instr) : Prop := ∀ i, o = some i → i.isWord = true

theorem Words.none : Words none := fun _ e => nomatch e

theorem Words.some {i : Instr} (h : i.isWord = true) : Words (some i) := fun _ e => by cases e; exact h

theorem Words.ite {p : Prop} [Decidable p] {x : Option Instr} (h : Words x) : Words (if p then x else .none) := by
  split
  · exact h
  · exact .none

theorem Words.bind {α : Type} {o : Option α} {g : α → Option Instr} (h : ∀ a, Words (g a)) : Words (o.bind g) := by
  cases o with
  | none => exact .none
  | some a => exact h a

theorem Words.orElse {x y : Option Instr} (h : Words x) (k : Words y) : Words (x <|> y) := by
  cases x with
  | none => exact k
  | some i => exact h

/-- The decoder is a table of guarded words, some with a code of their own (R77-R82). -/
theorem decodeNat_words (w : Nat) : Words (decodeNat w) := by
  unfold decodeNat
  split <;> repeat' first
    | exact .none
    | exact .some rfl
    | refine .orElse ?_ ?_
    | refine .ite ?_
    | refine .bind fun _ => ?_

theorem decodeWord_isWord {w : Word} {i : Instr} (h : decodeWord w = .ok i) : i.isWord = true := by
  unfold decodeWord at h
  split at h
  · next j hj => cases h; exact decodeNat_words _ _ hj
  · cases h

/-! ### Issuing a bundle -/

theorem noWord_ends {w : Word} (h : Ends c s) : Ends c (noWord s c w) := .ite (badPrefix_ends h) (illegal_ends h)

theorem issueWord_issues {w : Word} (hf : s.fib c.fibre = some f) : Issues c (issueWord c w s) := by
  have begun : Begun { s with issue := some c } c f := ⟨rfl, hf⟩
  unfold issueWord
  dsimp only
  split
  · next i hi => exact .ite (exec_issues (decodeWord_isWord hi) begun) (.next (noWord_ends begun.ends).onward)
  · exact .next (noWord_ends begun.ends).onward

theorem issueNext_answers {ws : List Word} {o : Host.Outcome State Fault Refusal} (h : Issues c o) : Answers (issueNext c ws o) := by
  obtain ⟨t, rfl, on⟩ := h
  unfold issueNext
  dsimp only
  split
  · next d hd =>
    split
    · exact .next
    · next other =>
      obtain ⟨g, begun⟩ := (on d hd).resolve_left other
      obtain ⟨u, hu, -⟩ := issueWord_issues (w := nth ws d.word 0) begun.fibre
      exact ⟨u, hu⟩
  · exact .next

theorem afterIssue_answers {old : State} {fid : Nat} {ws : List Word} {o : Host.Outcome State Fault Refusal} (h : Answers o) :
    Answers (afterIssue old fid f c ws o) := by
  obtain ⟨t, rfl⟩ := h
  unfold afterIssue
  refine .ite .next (.ite .next (.ite .next ?_))
  split
  · exact .ite .next .next
  · exact .next

theorem restBefore_bound {fid : Nat} {g : Fibre} (h : s.fib fid = some f) : ∃ x, (restBefore s fid g c).fib fid = some x := by
  unfold restBefore
  split
  · exact ⟨f, h⟩
  · split
    · exact ⟨_, modFib_some h⟩
    · split
      · exact ⟨_, modFib_some h⟩
      · exact ⟨f, h⟩

theorem runWord_answers {fid : Nat} {g : Fibre} {r : ClauseRun} (h : s.fib fid = some f) : Answers (runWord s fid g r) := by
  unfold runWord
  refine .ite .next (.ite .next (.ite .next (afterIssue_answers (issueNext_answers ?_))))
  obtain ⟨x, hx⟩ := restBefore_bound (g := g) (c := issueOf fid { g with stepRest := restOf s fid g r.lanes } r) h
  exact issueWord_issues (c := issueOf fid { g with stepRest := restOf s fid g r.lanes } r) hx

theorem stepFibre_answers {fid : Nat} : Answers (stepFibre fid s) := by
  unfold stepFibre
  extract_lets s0
  split
  · exact .next
  · next f hf =>
    refine .ite .next ?_
    split
    · exact .next
    · split
      · exact runWord_answers hf
      · unfold execClauseFetch
        dsimp only
        split
        · next g hg =>
          split
          · exact .ite .next (runWord_answers hg)
          · exact .next
        · exact .next

/-! ### A step of the device -/

theorem thenSettle_answers {o : Host.Outcome State Fault Refusal} (h : Answers o) : Answers (thenSettle o) := by
  obtain ⟨t, rfl⟩ := h
  exact .next

theorem keepTurn_answers {x : Turn} {o : Host.Outcome State Fault Refusal} (h : Answers o) : Answers (keepTurn x o) := by
  obtain ⟨t, rfl⟩ := h
  exact .next

theorem byItself_answers : Answers (byItself s) := by
  unfold byItself
  split
  · exact .next
  · split
    · exact thenSettle_answers stepFibre_answers
    · refine .ite .next ?_
      split
      · exact .next
      · exact .next

/-- A request without the arguments that its command needs has an answer of its own (R362). -/
theorem withArgs_answers {n : Nat} {pay : List Byte} {k : State → Host.Outcome State Fault Refusal} (h : Answers (k s)) :
    Answers (if 8 * n ≤ pay.length then k s else .next (answer s 4 0)) := .ite h .next

/-- Whatever a request asks for, it is answered (R362). -/
theorem runCode_answers {code : Nat} {pay : List Byte} {addr : Nat} : Answers (runCode code pay addr s) := by
  unfold runCode
  extract_lets a w need
  split
  case h_1 | h_2 | h_8 | h_9 | h_30 => exact ⟨_, rfl⟩
  all_goals exact withArgs_answers ⟨_, rfl⟩

theorem runRequest_answers {src : Src} {code : Nat} {pay : List Byte} {addr : Nat} {rep : Reply} : Answers (runRequest src code pay addr rep s) := by
  obtain ⟨t, ht⟩ := runCode_answers (code := code) (pay := pay) (addr := addr)
    (s := s.modMgmt fun m => { m with src := src, reply := some rep })
  unfold runRequest
  rw [ht]
  dsimp only
  split <;> exact .next

theorem runTurn_answers {x : Turn} (hx : ∀ i, x = .event i → i.isWord = false) : Answers (runTurn x s) := by
  cases x with
  | issue fid => exact thenSettle_answers (.ite stepFibre_answers .next)
  | tick => exact .next
  | event i =>
    have h : Answers (outside i s) := exec_answers (hx i rfl)
    exact thenSettle_answers (.ite (keepTurn_answers h) h)
  | input y => exact .next
  | request src code pay addr rep => exact thenSettle_answers runRequest_answers

/-- The turn that is taken stands in the agenda. -/
theorem pickTurn_mem {x : Turn} {rest : List Turn} : ∀ {l held}, pickTurn s l held = some (x, rest) → x ∈ l
  | [], _, h => nomatch h
  | y :: l, held, h => by
    unfold pickTurn at h
    extract_lets src at h
    split at h
    · obtain ⟨⟨z, zs⟩, hz, e⟩ := Option.map_eq_some_iff.1 h
      cases e
      exact List.mem_cons_of_mem y (pickTurn_mem hz)
    · cases h
      exact List.mem_cons_self

/-- No word waits for a line of memory, for its turn in a replay or for accesses in flight. -/
theorem eventHolds_word {i : Instr} (hw : i.isWord = true) : eventHolds s i = none := by
  unfold eventHolds
  cases i with
  | coherenceRead | coherenceOwnership | coherenceWriteback | hostMemRead | hostMemWrite | hostCacheOwnership | btinval =>
    exact absurd hw Bool.false_ne_true
  | _ => rfl

end Sys2Proof.Machine

namespace Sys2Proof.Proofs

open Machine

/-- Settles O58: every turn but a word's own event answers, by `runTurn_answers`; a word as an event is issued by no fibre, `exec_noIssue`. -/
theorem stepAnswers : Obligations.StepAnswers := by
  unfold Obligations.StepAnswers
  intro s
  refine ⟨fun events => ?_, fun i rest turn hw on settled => ?_⟩
  case refine_1 =>
    change Answers (step s)
    unfold step stepOnce
    split
    · exact .ite byItself_answers .next
    · next x rest turn =>
      refine .ite .next ?_
      split
      · next y hy => exact runTurn_answers fun i hi => events i (turn ▸ hi ▸ pickTurn_mem (rest := y.2) hy)
      · exact byItself_answers
  case refine_2 =>
    have idle : turnIdle s (.event i) = false := by rw [turnIdle, eventHolds_word hw]; rfl
    have stuck : outside i { s with agenda := rest } = .fault .noIssue := exec_noIssue hw settled
    rw [step_turn on turn idle, runTurn, eventHolds_word hw, stuck]
    rfl

end Sys2Proof.Proofs
end

section
/-!
What the home slices and main memory's control may change: lines, bytes, free values, channel state, an undo ring's TAIL and the messages sent out. All else
in the machine stays as it is when a line is read or written at its home (R329, R331, R337, R339, R345).
-/

namespace Sys2Proof.Machine

variable {s t u : State}

/-- A home slice served requests between two states: nothing differs but what it may change; regions and extents stay, no capture begins, and where no
remap table is in error no channel is fenced. -/
structure Slices (s t : State) : Prop where
  frame : { t with lines := s.lines, mem := s.mem, free := s.free, hbm := s.hbm, parts := s.parts, mgmt := s.mgmt } = s
  mgmt  : { t.mgmt with remoteOut := s.mgmt.remoteOut, msix := s.mgmt.msix, hostOwned := s.mgmt.hostOwned } = s.mgmt
  parts : ∀ p, { t.part p with urTail := (s.part p).urTail, urState := (s.part p).urState, unprot := (s.part p).unprot } = s.part p
  undo  : ∀ p, capturing t p = true → capturing s p = true
  route : t.hbm.regions = s.hbm.regions ∧ t.hbm.extents = s.hbm.extents
  errs  : (∀ n, s.hbm.remapErr.get? n = none) → (∀ n, t.hbm.remapErr.get? n = none) ∧ ∀ n, (t.stack n).fence = (s.stack n).fence

namespace Slices

theorem refl (s : State) : Slices s s := ⟨rfl, rfl, fun _ => rfl, fun _ h => h, ⟨rfl, rfl⟩, fun h => ⟨h, fun _ => rfl⟩⟩

theorem trans (h : Slices s t) (k : Slices t u) : Slices s u where
  frame := by
    have e := congrArg (fun x : State => { x with lines := s.lines, mem := s.mem, free := s.free, hbm := s.hbm, parts := s.parts, mgmt := s.mgmt }) k.frame
    exact e.trans h.frame
  mgmt := by
    have e := congrArg (fun x : Mgmt => { x with remoteOut := s.mgmt.remoteOut, msix := s.mgmt.msix, hostOwned := s.mgmt.hostOwned }) k.mgmt
    exact e.trans h.mgmt
  parts p := by
    have e := congrArg (fun x : Part => { x with urTail := (s.part p).urTail, urState := (s.part p).urState, unprot := (s.part p).unprot }) (k.parts p)
    exact e.trans (h.parts p)
  undo p hp := h.undo p (k.undo p hp)
  route := ⟨k.route.1.trans h.route.1, k.route.2.trans h.route.2⟩
  errs hs := ⟨(k.errs (h.errs hs).1).1, fun n => ((k.errs (h.errs hs).1).2 n).trans ((h.errs hs).2 n)⟩

theorem line {n : Nat} {g : LineInfo → LineInfo} : Slices s (s.modLine n g) :=
  ⟨rfl, rfl, fun _ => rfl, fun _ h => h, ⟨rfl, rfl⟩, fun h => ⟨h, fun _ => rfl⟩⟩

theorem mem {m : Mem} : Slices s { s with mem := m } := ⟨rfl, rfl, fun _ => rfl, fun _ h => h, ⟨rfl, rfl⟩, fun h => ⟨h, fun _ => rfl⟩⟩

theorem sent {l : List (Nat × Nat × List Nat)} {x : List (Nat × Nat)} {o : List Nat} :
    Slices s (s.modMgmt fun m => { m with remoteOut := l, msix := x, hostOwned := o }) :=
  ⟨rfl, rfl, fun _ => rfl, fun _ h => h, ⟨rfl, rfl⟩, fun h => ⟨h, fun _ => rfl⟩⟩

theorem drawFree : Slices s s.drawFree.2 := ⟨rfl, rfl, fun _ => rfl, fun _ h => h, ⟨rfl, rfl⟩, fun h => ⟨h, fun _ => rfl⟩⟩

/-- Main memory's control changed beside its routing, its controllers and its remap tables. -/
theorem control {g : Hbm} (h : { g with acts := s.hbm.acts, openRow := s.hbm.openRow, bankHold := s.hbm.bankHold, cdir := s.hbm.cdir, cheld := s.hbm.cheld, errs := s.hbm.errs } = s.hbm) :
    Slices s { s with hbm := g } := by
  have regions : g.regions = s.hbm.regions := (congrArg Hbm.regions h :)
  have extents : g.extents = s.hbm.extents := (congrArg Hbm.extents h :)
  have remap : g.remapErr = s.hbm.remapErr := (congrArg Hbm.remapErr h :)
  have stk : g.stk = s.hbm.stk := (congrArg Hbm.stk h :)
  refine ⟨rfl, rfl, fun _ => rfl, fun _ h => h, ⟨regions, extents⟩, fun hs => ⟨?_, fun n => ?_⟩⟩
  · rw [show ({ s with hbm := g } : State).hbm.remapErr = s.hbm.remapErr from remap]; exact hs
  · rw [show ({ s with hbm := g } : State).stack n = s.stack n from congrArg (fun m => AMap.getD m n Stack.init) stk]

theorem stack_modStack (n j : Nat) (g : Stack → Stack) : (s.modStack n g).stack j = if j = n then g (s.stack n) else s.stack j :=
  AMap.getD_upd _ _ _ _ _

theorem stack {n : Nat} {g : Stack → Stack} (h : ∀ k, (g k).fence = k.fence) : Slices s (s.modStack n g) := by
  refine ⟨rfl, rfl, fun _ => rfl, fun _ h => h, ⟨rfl, rfl⟩, fun hs => ⟨hs, fun j => ?_⟩⟩
  rw [stack_modStack]
  split
  · next e => subst e; exact h _
  · rfl

theorem foldl {α : Type} {g : State → α → State} (h : ∀ s x, Slices s (g s x)) (l : List α) (s : State) : Slices s (l.foldl g s) := by
  induction l generalizing s with
  | nil => exact refl s
  | cons x r ih => exact (h s x).trans (ih (g s x))

theorem foldl_to {α : Type} {g : State → α → State} (k : Slices s t) (h : ∀ s x, Slices s (g s x)) (l : List α) : Slices s (l.foldl g t) :=
  k.trans (foldl h l t)

theorem ite {p : Prop} [Decidable p] (h : Slices s t) (k : Slices s u) : Slices s (if p then t else u) := by
  split
  · exact h
  · exact k

/-! ### What follows -/

section Fields
variable (h : Slices s t)
include h

theorem fibres : t.fibres = s.fibres := (congrArg State.fibres h.frame :)
theorem clock : t.clock = s.clock := (congrArg State.clock h.frame :)
theorem issue : t.issue = s.issue := (congrArg State.issue h.frame :)
theorem teams : t.teams = s.teams := (congrArg State.teams h.frame :)
theorem slots : t.slots = s.slots := (congrArg State.slots h.frame :)
theorem cores : t.cores = s.cores := (congrArg State.cores h.frame :)
theorem ops : t.ops = s.ops := (congrArg State.ops h.frame :)
theorem hostMem : t.hostMem = s.hostMem := (congrArg State.hostMem h.frame :)
theorem ctxs : t.ctxs = s.ctxs := (congrArg State.ctxs h.frame :)
theorem vis : t.vis = s.vis := (congrArg State.vis h.frame :)
theorem queues : t.queues = s.queues := (congrArg State.queues h.frame :)
theorem grids : t.grids = s.grids := (congrArg State.grids h.frame :)
theorem fabric : t.fabric = s.fabric := (congrArg State.fabric h.frame :)
theorem nextGrid : t.nextGrid = s.nextGrid := (congrArg State.nextGrid h.frame :)
theorem nextTeam : t.nextTeam = s.nextTeam := (congrArg State.nextTeam h.frame :)
theorem nextOp : t.nextOp = s.nextOp := (congrArg State.nextOp h.frame :)
theorem gts : t.mgmt.gts = s.mgmt.gts := (congrArg Mgmt.gts h.mgmt :)

theorem queue (q : Nat) : t.queue q = s.queue q := congrArg (fun m => AMap.getD m q Queue.init) h.queues
theorem vi (n : Nat) : t.vi n = s.vi n := congrArg (fun m => AMap.getD m n Vi.init) h.vis
theorem ctx (n : Nat) : t.ctx n = s.ctx n := congrArg (fun m => AMap.getD m n Ctx.init) h.ctxs
theorem core (n : Nat) : t.core n = s.core n := congrArg (fun m => AMap.getD m n Core.init) h.cores
theorem fib (n : Nat) : t.fib n = s.fib n := congrArg (fun m => AMap.get? m n) h.fibres
theorem team (n : Nat) : t.team n = s.team n := congrArg (fun m => AMap.get? m n) h.teams
theorem grid (n : Nat) : t.grid n = s.grid n := congrArg (fun m => AMap.get? m n) h.grids
theorem region (n : Nat) : region t n = region s n := congrArg (fun m => AMap.getD m n 0) h.route.1

theorem kept : Kept s t := .of_eq h.fibres h.slots h.cores h.teams h.ops h.ctxs h.vis h.queues h.hostMem

theorem mode (p : Nat) : (t.part p).mode = (s.part p).mode := (congrArg Part.mode (h.parts p) :)
theorem cfg (p : Nat) : (t.part p).cfg = (s.part p).cfg := (congrArg Part.cfg (h.parts p) :)

theorem recording (p : Nat) : t.recording p = s.recording p := by unfold State.recording; rw [h.mode]
theorem replaying (p : Nat) : t.replaying p = s.replaying p := by
  unfold State.replaying State.inReplayMode
  rw [h.mode, (congrArg Part.replay (h.parts p) :)]
theorem ordered (p : Nat) : t.ordered p = s.ordered p := by unfold State.ordered; rw [h.mode]

theorem placeOf (ln : Nat) : placeOf t ln = placeOf s ln := by
  unfold Machine.placeOf Machine.region
  rw [h.route.1, h.route.2]

/-- A line whose writes take effect at once stays one: no channel is fenced, no capture begins, no page is compressed. -/
theorem plain (wf : t.mem.wf = true) {ln : Nat} (k : Plain s ln) : Plain t ln where
  wf := wf
  near := k.near
  fenced := by
    have e := k.fenced
    unfold Machine.fenced at e ⊢
    simp only [h.placeOf, (h.errs k.errs).2]
    exact e
  errs := (h.errs k.errs).1
  comp := by rw [h.region]; exact k.comp
  undo p := Bool.eq_false_iff.2 fun c => Bool.eq_false_iff.1 (k.undo p) (h.undo p c)

end Fields
end Slices

/-! ### The functions of the home slice -/

theorem signal_slices (fn : Nat) (irq : DWord) : Slices s (signal s fn irq) := by
  unfold signal
  split
  · exact .sent
  · exact .refl s

theorem tellTo_slices (w ln : Nat) (l : List Nat) : Slices s (s.tellTo w ln l) := .sent

theorem gather_slices (ln : Nat) (r : LineUse) : Slices s (gather s ln r) := by
  unfold gather
  split
  · exact .line
  · exact .foldl (fun _ _ => tellTo_slices _ _ _) _ _

theorem setMd_slices (ln o st : Nat) : Slices s (s.setMd ln o st) := .line

theorem setPoison_slices (ln : Nat) (p : Bool) : Slices s (s.setPoison ln p) := .line

theorem rmThreshold_slices (b r : Nat) : Slices s (rmThreshold s b r) := by
  unfold rmThreshold
  extract_lets st k had alert s1 s2
  have h1 : Slices s s1 := .stack fun _ => rfl
  have h2 : Slices s s2 := .ite h1 (h1.trans (signal_slices _ _))
  exact h2.trans (.control rfl)

theorem activate_slices (ln : Nat) : Slices s (activate s ln) := by
  unfold activate
  extract_lets p b n src s1
  split
  · exact .refl s
  · have h1 : Slices s s1 := .control rfl
    exact .ite (h1.trans (rmThreshold_slices _ _)) h1

theorem uncorrectable_slices (ln : Nat) : Slices s (uncorrectable s ln) := (setPoison_slices _ _).trans (.stack fun _ => rfl)

theorem remapError_slices (ln : Nat) : Slices s (remapError s ln) := by
  unfold remapError
  extract_lets p
  split
  · next e => exact ⟨rfl, rfl, fun _ => rfl, fun _ h => h, ⟨rfl, rfl⟩, fun hs => by rw [hs] at e; cases e⟩
  · next e => exact ⟨rfl, rfl, fun _ => rfl, fun _ h => h, ⟨rfl, rfl⟩, fun hs => by rw [hs] at e; cases e⟩
  · exact .refl s

theorem badMeta_slices (ln : Nat) : Slices s (badMeta s ln) :=
  (((uncorrectable_slices _).trans (tellTo_slices _ _ _)).trans (tellTo_slices _ _ _)).trans .line

theorem l3Room_slices (ln : Nat) : Slices s (l3Room s ln) := by
  unfold l3Room
  split
  · exact .refl s
  · extract_lets n held d out s1
    split
    · exact .refl s
    · have h1 : Slices s s1 := .ite (Slices.drawFree.trans (activate_slices _)) .drawFree
      exact h1.trans .line

theorem eccRead_slices (ln : Nat) : Slices s (eccRead s ln) := by
  unfold eccRead
  extract_lets s1
  have h1 : Slices s s1 := by
    unfold s1
    split
    · exact .stack fun _ => rfl
    · exact uncorrectable_slices _
    · exact badMeta_slices _
    · exact .ite (badMeta_slices _) (.refl s)
  exact h1.trans (.control rfl)

theorem fetchLine_slices (ln : Nat) (nt : Bool) : Slices s (fetchLine s ln nt) := by
  unfold fetchLine
  split
  · exact .refl s
  · extract_lets s0 s4
    have h0 : Slices s s0 := Slices.trans (.ite (.refl s) (l3Room_slices _)) (remapError_slices _)
    have h4 : Slices s s4 := (h0.trans (activate_slices _)).trans (eccRead_slices _)
    exact .ite h4 (h4.trans .line)

/-- A partition's undo ring advanced, or lost its protection: no capture begins. -/
theorem Slices.ring {p : Nat} {g : Part → Part}
    (h : ∀ t, { g t with urTail := t.urTail, urState := t.urState, unprot := t.unprot } = t)
    (hu : ∀ t, (g t).urState = t.urState ∨ (g t).urState = .noprot) : Slices s (s.modPart p g) := by
  refine ⟨rfl, rfl, fun q => ?_, fun q hq => ?_, ⟨rfl, rfl⟩, fun hs => ⟨hs, fun _ => rfl⟩⟩
  · by_cases e : q = p
    · subst e
      rw [State.part_modPart_self]
      exact h _
    · rw [State.part_modPart_ne s g e]
  · unfold capturing at hq ⊢
    by_cases e : q = p
    · subst e
      rw [State.part_modPart_self] at hq
      rcases hu (s.part q) with k | k
      · rw [k] at hq; exact hq
      · rw [k] at hq; exact absurd hq (by decide)
    · rw [State.part_modPart_ne s g e] at hq
      exact hq

theorem undoCapture_slices (ln : Nat) : Slices s (undoCapture s ln) := by
  unfold undoCapture
  by_cases near : isRemote ln = true
  · rw [if_pos near]; exact .refl s
  rw [if_neg near]
  extract_lets p pt l mark
  have marked : ∀ {x : State}, Slices s x → Slices s (mark x) := fun h => h.trans .line
  split
  · exact .refl s
  · split
    · split
      · refine marked ?_
        exact .ring (fun _ => rfl) fun _ => .inr rfl
      · refine marked (Slices.trans ?_ (activate_slices _))
        refine Slices.trans ?_ (.ring (fun _ => rfl) fun _ => .inl rfl)
        exact .mem
    · exact .ite (marked (.refl s)) (.refl s)

theorem compWrite_slices (ln : Nat) (d : BitVec 1024) (m : BitVec 128) : Slices s (compWrite s ln d m) := by
  unfold compWrite
  extract_lets page m1 i
  split
  · exact Slices.trans .mem (.control (s := { s with mem := m1 }) rfl)
  · exact .control rfl

theorem lineWrite_slices (ln : Nat) (d : BitVec 1024) (m : BitVec 128) : Slices s (lineWrite s ln d m) := .ite (compWrite_slices _ _ _) .mem

theorem dropOwn_slices (ln : Nat) (w : BitVec 32) : Slices s (dropOwn s ln w) := .line

theorem recallData_slices (ln : Nat) : Slices s (recallData s ln) :=
  (((undoCapture_slices _).trans .drawFree).trans (lineWrite_slices _ _ _)).trans .line

theorem snoopData_slices (ln : Nat) : Slices s (snoopData s ln) := by
  unfold snoopData
  exact .ite ((recallData_slices _).trans .sent) (.refl s)

theorem homeTakes_slices (ln : Nat) : Slices s (homeTakes s ln) := by
  unfold homeTakes
  split
  · exact .refl s
  · extract_lets m s1
    have h1 : Slices s s1 := gather_slices _ _
    split
    · exact h1
    · exact (h1.trans (recallData_slices _)).trans (setMd_slices _ _ _)
    · exact (h1.trans (recallData_slices _)).trans (setMd_slices _ _ _)
    · exact (Slices.ite (h1.trans (snoopData_slices _)) h1).trans (setMd_slices _ _ _)
    · exact h1.trans (setMd_slices _ _ _)

theorem homeRead_slices (ln : Nat) (nt : Bool) : Slices s (homeRead s ln nt) := by
  unfold homeRead
  extract_lets s1 m s2
  have h1 : Slices s s1 := fetchLine_slices _ _
  split
  · exact h1
  · have h2 : Slices s s2 := h1.trans (gather_slices _ _)
    split
    · exact (h2.trans (recallData_slices _)).trans (setMd_slices _ _ _)
    · exact (h2.trans (recallData_slices _)).trans (setMd_slices _ _ _)
    · exact .ite ((h2.trans (snoopData_slices _)).trans (setMd_slices _ _ _)) h2
    · exact h2

theorem homeWrite_slices (ln : Nat) (d : BitVec 1024) (m : BitVec 128) : Slices s (homeWrite s ln d m) := by
  unfold homeWrite
  split
  · exact .refl s
  · split
    · exact .ite (Slices.mem.trans (dropOwn_slices _ _)) (.refl s)
    · extract_lets s0 s1 s2
      have h0 : Slices s s0 := fetchLine_slices _ _
      split
      · exact h0
      · have h1 : Slices s s1 := (h0.trans (homeTakes_slices _)).trans (undoCapture_slices _)
        have h2 : Slices s s2 := .ite (h1.trans (setPoison_slices _ _)) h1
        exact (h2.trans (lineWrite_slices _ _ _)).trans (dropOwn_slices _ _)

theorem homeWriteN_slices (a n v : Nat) : Slices s (homeWriteN s a n v) := homeWrite_slices _ _ _

theorem walkRead_slices (va : Nat) : ∀ (lvl table : Nat) (s : State), Slices s (walkRead va lvl table s)
  | 0, _, s => .refl s
  | lvl + 1, table, s => by
    unfold walkRead
    extract_lets a s1 e
    have h1 : Slices s s1 := homeRead_slices _ _
    exact .ite h1 (h1.trans (walkRead_slices va lvl _ s1))

theorem walkReads_slices (ctx va : Nat) : Slices s (walkReads ctx va s) := walkRead_slices _ _ _ _

theorem virtReads_slices (ctx va n : Nat) : Slices s (virtReads s ctx va n) := by
  unfold virtReads
  extract_lets s0
  have h0 : Slices s s0 := walkReads_slices _ _
  split
  · exact .foldl_to h0 (fun _ _ => homeRead_slices _ _) _
  · exact h0

theorem writeVirt_slices {ctx va : Nat} {l : List Byte} {cap : Bool} (h : writeVirt s ctx va l cap = some t) : Slices s t := by
  unfold writeVirt at h
  extract_lets s0 at h
  have h0 : Slices s s0 := walkReads_slices _ _
  split at h
  · extract_lets ln mask r at h
    have hr : Slices s r := (h0.trans (fetchLine_slices _ _)).trans (homeTakes_slices _)
    cases h
    exact .ite (h0.trans (homeWriteN_slices _ _ _)) (.ite hr ((hr.trans (lineWrite_slices _ _ _)).trans (dropOwn_slices _ _)))
  · cases h

end Sys2Proof.Machine
end

section
/-!
What a log and a fault queue may change: the recorders and replayed logs change what a fibre has logged and its partition's recorders; a record that is posted
changes its interface's queue, the summaries and the memory that the queue lies in (R271, R272, R294, R302-R316).
-/

namespace Sys2Proof.Machine

variable {s t u : State}

/-! ### Logs -/

/-- A fibre beside what it has logged, or has left to meet of its log. -/
def Fibre.unlogged (f : Fibre) : Fibre := { f with log := [], stepSeen := [], diverged := none, chFrom := 0, chItems := [], bpHit := false }

/-- A log was written or consumed between two states: nothing differs but what fibres have logged, event counts and recorders. -/
structure Logs (s t : State) : Prop where
  fibs  : ∀ g, (t.fib g).map Fibre.unlogged = (s.fib g).map Fibre.unlogged
  frame : { t with fibres := s.fibres, cores := s.cores, parts := s.parts } = s
  parts : ∀ p, { t.part p with recs := (s.part p).recs } = s.part p

namespace Logs

theorem refl (s : State) : Logs s s := ⟨fun _ => rfl, rfl, fun _ => rfl⟩

theorem trans (h : Logs s t) (k : Logs t u) : Logs s u where
  fibs g := (k.fibs g).trans (h.fibs g)
  frame := by
    have e := congrArg (fun x : State => { x with fibres := s.fibres, cores := s.cores, parts := s.parts }) k.frame
    exact e.trans h.frame
  parts p := by
    have e := congrArg (fun x : Part => { x with recs := (s.part p).recs }) (k.parts p)
    exact e.trans (h.parts p)

theorem fib {n : Nat} {g : Fibre → Fibre} (h : ∀ x, (g x).unlogged = x.unlogged) : Logs s (s.modFib n g) := by
  refine ⟨fun k => ?_, rfl, fun _ => rfl⟩
  rw [State.fib_modFib]
  split
  · next e =>
    subst e
    cases s.fib k with
    | none => rfl
    | some x => exact congrArg some (h x)
  · rfl

theorem count {k : Nat} {sl : Option Nat} {ev n : Nat} : Logs s (s.pmCount k sl ev n) := by
  unfold State.pmCount
  split
  · exact .refl s
  · exact ⟨fun _ => rfl, rfl, fun _ => rfl⟩

theorem recorder {p k : Nat} {g : Recorder → Recorder} : Logs s (modRecorder s p k g) := by
  refine ⟨fun _ => rfl, rfl, fun q => ?_⟩
  unfold modRecorder
  by_cases e : q = p
  · subst e
    rw [State.part_modPart_self]
  · rw [State.part_modPart_ne s _ e]

theorem ite {p : Prop} [Decidable p] (h : Logs s t) (k : Logs s u) : Logs s (if p then t else u) := by
  split
  · exact h
  · exact k

theorem foldl {α : Type} {g : State → α → State} (h : ∀ s x, Logs s (g s x)) (l : List α) (s : State) : Logs s (l.foldl g s) := by
  induction l generalizing s with
  | nil => exact refl s
  | cons x r ih => exact (h s x).trans (ih (g s x))

section Fields
variable (h : Logs s t)
include h

theorem some {g : Nat} {x : Fibre} (hs : s.fib g = some x) : ∃ y, t.fib g = .some y ∧ y.unlogged = x.unlogged := by
  have e := h.fibs g
  rw [hs] at e
  cases ht : t.fib g with
  | none => rw [ht] at e; cases e
  | some y => rw [ht] at e; exact ⟨y, rfl, Option.some.inj e⟩

theorem none {g : Nat} (hs : s.fib g = none) : t.fib g = .none := by
  have e := h.fibs g
  rw [hs] at e
  cases ht : t.fib g with
  | none => rfl
  | some y => rw [ht] at e; cases e

theorem clock : t.clock = s.clock := (congrArg State.clock h.frame :)
theorem teams : t.teams = s.teams := (congrArg State.teams h.frame :)
theorem grids : t.grids = s.grids := (congrArg State.grids h.frame :)
theorem slots : t.slots = s.slots := (congrArg State.slots h.frame :)
theorem ops : t.ops = s.ops := (congrArg State.ops h.frame :)
theorem mgmt : t.mgmt = s.mgmt := (congrArg State.mgmt h.frame :)
theorem mem : t.mem = s.mem := (congrArg State.mem h.frame :)
theorem lines : t.lines = s.lines := (congrArg State.lines h.frame :)
theorem mode (p : Nat) : (t.part p).mode = (s.part p).mode := (congrArg Part.mode (h.parts p) :)
theorem ordered (p : Nat) : t.ordered p = s.ordered p := by unfold State.ordered; rw [h.mode]

end Fields
end Logs

theorem emit_logs (p k : Nat) (r : BitVec 128) : Logs s (emit s p k r) := by
  unfold emit
  exact .ite (.refl s) ((Logs.ite .count (.refl s)).trans .recorder)

theorem popLog_logs (f : Nat) (r : BitVec 128) : Logs s (popLog s f r) := .fib fun _ => rfl

theorem meetRec_logs (f : Nat) (r : BitVec 128) (ln n : Nat) : Logs s (meetRec s f r ln n) := .fib fun x => by split <;> rfl

theorem diverge_logs (f a b k : Nat) : Logs s (diverge s f a b k) := .fib fun _ => rfl

theorem mismatch_logs (f : Nat) : Logs s (mismatch s f) := diverge_logs _ _ _ _

theorem replayChunk_logs (f : Nat) : Logs s (replayChunk s f) := by
  unfold replayChunk
  split
  · exact .refl s
  · split
    · split
      · extract_lets h bp s1
        have h1 : Logs s s1 := (popLog_logs _ _).trans (.fib fun _ => rfl)
        exact .ite h1 (h1.trans (diverge_logs _ _ _ _))
      · exact .refl s
    · exact .refl s

theorem chunkEnd_logs (f a b : Nat) : Logs s (chunkEnd s f a b) := by
  unfold chunkEnd
  split
  · exact .refl s
  · extract_lets p r d x
    exact .ite (.ite (.refl s) ((emit_logs _ _ _).trans (.fib fun _ => rfl))) (.ite (replayChunk_logs _) (.refl s))

theorem noteRec_logs (p f : Nat) (r : BitVec 128) : Logs s (noteRec s p f r) := by
  unfold noteRec
  exact .ite (.fib fun _ => rfl) ((chunkEnd_logs _ _ _).trans (emit_logs _ _ _))

theorem noteLate_logs (f : Nat) : Logs s (noteLate s f) := by
  unfold noteLate
  split
  · exact .refl s
  · extract_lets p
    split
    · exact .refl s
    · refine Logs.trans ?_ (.foldl (fun _ _ => emit_logs _ _ _) _ _)
      exact (chunkEnd_logs _ _ _).trans (.fib fun _ => rfl)

theorem produce_logs (f k r m q : Nat) (ln n : Nat) : Logs s (produce s f k r m q ln n) := by
  unfold produce
  extract_lets p s1 part same
  have h1 : Logs s s1 := chunkEnd_logs _ _ _
  split
  · exact noteRec_logs _ _ _
  · split
    · split
      · exact h1
      · split
        · exact .ite (h1.trans (meetRec_logs _ _ _ _)) (h1.trans (mismatch_logs _))
        · exact .ite h1 (h1.trans (mismatch_logs _))
    · exact .refl s

theorem valueRead_logs (f src idx : Nat) (now : DWord) : Logs s (valueRead s f src idx now).2 := by
  unfold valueRead
  split
  · exact .refl s
  · extract_lets p s1 same value
    have h1 : Logs s s1 := chunkEnd_logs _ _ _
    split
    · exact produce_logs _ _ _ _ _ _ _
    · split
      · split
        · exact h1
        · split
          · split
            · exact h1.trans (meetRec_logs _ _ _ _)
            · exact h1.trans (mismatch_logs _)
          · exact h1.trans (mismatch_logs _)
      · exact .refl s

theorem recordTime_logs (f : Nat) (y : Flt) : Logs s (recordTime s f y).2 := by
  unfold recordTime
  extract_lets logged added
  split
  · exact .refl s
  · exact valueRead_logs _ _ _ _

/-! ### Posted records -/

/-- A record was posted, or a completion entry written, between two states: nothing differs but what home slices may change, fault queues, summaries and
host memory. -/
structure Posts (s t : State) : Prop where
  frame : { t with lines := s.lines, mem := s.mem, free := s.free, hbm := s.hbm, parts := s.parts, mgmt := s.mgmt, vis := s.vis, hostMem := s.hostMem } = s
  mgmt  : { t.mgmt with remoteOut := s.mgmt.remoteOut, msix := s.mgmt.msix, hostOwned := s.mgmt.hostOwned, summary := s.mgmt.summary } = s.mgmt
  parts : ∀ p, { t.part p with urTail := (s.part p).urTail, urState := (s.part p).urState, unprot := (s.part p).unprot } = s.part p
  undo  : ∀ p, capturing t p = true → capturing s p = true

namespace Posts

theorem refl (s : State) : Posts s s := ⟨rfl, rfl, fun _ => rfl, fun _ h => h⟩

theorem trans (h : Posts s t) (k : Posts t u) : Posts s u where
  frame := by
    have e := congrArg (fun x : State => { x with lines := s.lines, mem := s.mem, free := s.free, hbm := s.hbm, parts := s.parts, mgmt := s.mgmt, vis := s.vis, hostMem := s.hostMem }) k.frame
    exact e.trans h.frame
  mgmt := by
    have e := congrArg (fun x : Mgmt => { x with remoteOut := s.mgmt.remoteOut, msix := s.mgmt.msix, hostOwned := s.mgmt.hostOwned, summary := s.mgmt.summary }) k.mgmt
    exact e.trans h.mgmt
  parts p := by
    have e := congrArg (fun x : Part => { x with urTail := (s.part p).urTail, urState := (s.part p).urState, unprot := (s.part p).unprot }) (k.parts p)
    exact e.trans (h.parts p)
  undo p hp := h.undo p (k.undo p hp)

theorem of_slices (h : Slices s t) : Posts s t where
  frame := by
    have e := congrArg (fun x : State => { x with vis := s.vis, hostMem := s.hostMem }) h.frame
    exact e
  mgmt := by
    have e := congrArg (fun x : Mgmt => { x with summary := s.mgmt.summary }) h.mgmt
    exact e
  parts := h.parts
  undo := h.undo

theorem vi {n : Nat} {g : Vi → Vi} : Posts s (s.modVi n g) := ⟨rfl, rfl, fun _ => rfl, fun _ h => h⟩

theorem summary {g : Summary} : Posts s (s.modMgmt fun m => { m with summary := g }) := ⟨rfl, rfl, fun _ => rfl, fun _ h => h⟩

theorem host {m : Mem} : Posts s { s with hostMem := m } := ⟨rfl, rfl, fun _ => rfl, fun _ h => h⟩

theorem ite {p : Prop} [Decidable p] (h : Posts s t) (k : Posts s u) : Posts s (if p then t else u) := by
  split
  · exact h
  · exact k

section Fields
variable (h : Posts s t)
include h

theorem fibres : t.fibres = s.fibres := (congrArg State.fibres h.frame :)
theorem clock : t.clock = s.clock := (congrArg State.clock h.frame :)
theorem teams : t.teams = s.teams := (congrArg State.teams h.frame :)
theorem grids : t.grids = s.grids := (congrArg State.grids h.frame :)
theorem queues : t.queues = s.queues := (congrArg State.queues h.frame :)
theorem cores : t.cores = s.cores := (congrArg State.cores h.frame :)
theorem ctxs : t.ctxs = s.ctxs := (congrArg State.ctxs h.frame :)
theorem fabric : t.fabric = s.fabric := (congrArg State.fabric h.frame :)
theorem sent : t.mgmt.sent = s.mgmt.sent := (congrArg Mgmt.sent h.mgmt :)
theorem gts : t.mgmt.gts = s.mgmt.gts := (congrArg Mgmt.gts h.mgmt :)
theorem hostHeld : t.mgmt.hostHeld = s.mgmt.hostHeld := (congrArg Mgmt.hostHeld h.mgmt :)
theorem stepReplies : t.mgmt.stepReplies = s.mgmt.stepReplies := (congrArg Mgmt.stepReplies h.mgmt :)
theorem queue (q : Nat) : t.queue q = s.queue q := congrArg (fun m => AMap.getD m q Queue.init) h.queues
theorem fib (n : Nat) : t.fib n = s.fib n := congrArg (fun m => AMap.get? m n) h.fibres
theorem team (n : Nat) : t.team n = s.team n := congrArg (fun m => AMap.get? m n) h.teams
theorem grid (n : Nat) : t.grid n = s.grid n := congrArg (fun m => AMap.get? m n) h.grids
theorem core (n : Nat) : t.core n = s.core n := congrArg (fun m => AMap.getD m n Core.init) h.cores

end Fields
end Posts

theorem postSummary_posts (bits : BitVec 512) : Posts s (postSummary s bits) := by
  unfold postSummary
  extract_lets m log hi a
  split
  · refine Posts.trans ?_ (.of_slices (signal_slices _ _))
    exact Posts.trans .host .summary
  · exact .summary

theorem postOne_posts {v : Nat} (h : postOne s v = some t) : Posts s t := by
  unfold postOne at h
  extract_lets q log at h
  split at h
  · cases h
  · split at h
    · cases h
    · extract_lets bits at h
      split at h
      · next s1 e =>
        cases h
        exact (Posts.trans (.of_slices (writeVirt_slices e)) .vi).trans (.of_slices (signal_slices _ _))
      · cases h

theorem postHeld_posts (v : Nat) : ∀ (n : Nat) (s : State), Posts s (postHeld s v n)
  | 0, s => .refl s
  | n + 1, s => by
    unfold postHeld
    split
    · next s1 e => exact (postOne_posts e).trans (postHeld_posts v n s1)
    · exact .refl s

theorem postRecord_posts (v : Nat) (bits : BitVec 512) (soft : Bool) : Posts s (postRecord s v bits soft) := by
  unfold postRecord
  extract_lets s0 q s1
  have h0 : Posts s s0 := .ite (postSummary_posts _) (.refl s)
  have h1 : Posts s s1 := h0.trans .vi
  exact .ite (h0.trans .vi) (h1.trans (postHeld_posts _ _ _))

theorem postSystem_posts (p : Nat) (y : Flt) (c : Option Nat) : Posts s (postSystem s p y c) := postRecord_posts _ _ _

end Sys2Proof.Machine
end

section
/-!
O50: the commands for one fibre. Each acts on the fibre where it is bound, and answers with the status that R273 to R277 give.
-/

namespace Sys2Proof.Machine

variable {s t : State} {fid : Nat} {f : Fibre}

theorem AMap.get?_del_self {α : Type} (m : AMap α) (k : Nat) : (m.del k).get? k = none := by
  induction m with
  | nil => rfl
  | cons e r ih =>
    obtain ⟨j, v⟩ := e
    unfold AMap.del
    split
    · exact ih
    · next h => simp only [AMap.get?, if_neg h, ih]

theorem AMap.get?_del_ne {α : Type} (m : AMap α) {k j : Nat} (h : j ≠ k) : (m.del k).get? j = m.get? j := by
  induction m with
  | nil => rfl
  | cons e r ih =>
    obtain ⟨i, v⟩ := e
    unfold AMap.del
    split
    · next e => subst e; simp only [AMap.get?, if_neg h, ih]
    · simp only [AMap.get?, ih]

theorem AMap.adj_congr {α : Type} {m : AMap α} {k : Nat} {x : α} {g h : α → α} (hx : m.get? k = some x) (e : g x = h x) : m.adj k g = m.adj k h := by
  unfold AMap.adj
  rw [hx]
  exact congrArg (m.set k) e

/-- A change of a fibre is what it does to that fibre. -/
theorem modFib_eq {g h : Fibre → Fibre} (hf : s.fib fid = some f) (e : g f = h f) : s.modFib fid g = s.modFib fid h := by
  unfold State.modFib
  rw [AMap.adj_congr hf e]

/-! ### The fibre of a command (R273, R362) -/

theorem forFibre_unbound (h : fibreCtxs s fid = []) (k : State → Fibre → State) : forFibre s fid k = Answered s (if fid < 9216 then 1 else 4) := by
  unfold forFibre
  rw [h]
  simp only [List.find?_nil, List.isEmpty_nil, Bool.and_true, decide_eq_true_eq]
  rfl

theorem forFibre_bound (h : Commands s fid f) (k : State → Fibre → State) : forFibre s fid k = k s f := by
  have first : (fibreCtxs s fid).find? (fun e => srcMay s e.2) = some (s.partOf fid, s.viOf fid) := by
    unfold fibreCtxs
    simp only [h.fibre, Option.isSome_some, if_true, List.cons_append, List.nil_append]
    exact List.find?_cons_of_pos h.src
  unfold forFibre
  rw [first]
  unfold withVi
  simp only [h.place, decide_true, Bool.true_or, if_true, h.fibre]

theorem unlessConf_open (h : Commands s fid f) (k : State) : unlessConf s fid k = k := by
  unfold unlessConf
  rw [h.open_]
  rfl

theorem answered_kept {st : Nat} {r : DWord} {d : List Byte} : Kept t (Answered t st r d) := .of_eq rfl rfl rfl rfl rfl rfl rfl rfl rfl

theorem answered_only {st : Nat} {r : DWord} {d : List Byte} {w : Writes} (h : Only s t fid w) : Only s (Answered t st r d) fid w :=
  h.kept answered_kept fun _ _ => .of_eq rfl rfl rfl rfl rfl

/-- What each command does where the fibre is bound and its context in place. -/
theorem exec_resume (h : Commands s fid f) : exec (.resume fid) s = .next (if f.sched = .frozen then Answered (resume s fid) 0 else Answered s 1) :=
  congrArg Host.Outcome.next (forFibre_bound h _)

theorem exec_skip (h : Commands s fid f) : exec (.skip fid) s = .next (match f.frozen with
    | some z => if f.sched = .frozen && z.sync then Answered (resume (if z.cause = 0x0A then s else skipWord s fid z) fid) 0 else Answered s 1
    | none => Answered s 1) :=
  congrArg Host.Outcome.next (forFibre_bound h _)

theorem exec_step (h : Commands s fid f) (l : Fin 32) : exec (.step fid l.val) s = .next (
    if !(f.sched == .frozen || (f.halted && (s.part (s.partOf fid)).halted)) then Answered s 1
    else if !(f.lane l).live then Answered s 4
    else if heldCode f l ≠ 0 then Answered (postStep s fid l 4 (heldCode f l)) 5
    else Answered (beginStep s fid l) 0) := by
  refine congrArg Host.Outcome.next ((forFibre_bound h _).trans ((unlessConf_open h _).trans ?_))
  have lane : Fin.ofNat 32 l.val = l := Fin.ext (Nat.mod_eq_of_lt l.isLt)
  have low : decide (32 ≤ l.val) = false := decide_eq_false (by omega)
  rw [lane, low]
  rfl

theorem exec_rdreg (h : Commands s fid f) (sel : RegSel) (n : Nat) : exec (.rdreg fid sel n) s =
    .next (match if n < 32 then readSel s fid f sel (Fin.ofNat 32 n) else none with
      | some r => Answered s 0 r.1 r.2
      | none => Answered s 4) :=
  congrArg Host.Outcome.next ((forFibre_bound h _).trans (unlessConf_open h _))

theorem exec_wrreg (h : Commands s fid f) (sel : RegSel) (l : Fin 32) (x : BitVec 320) : exec (.wrreg fid sel l.val x) s = .next (
    if !(f.sched == .frozen || f.halted) then Answered s 1
    else if s.inReplayMode (s.partOf fid) then Answered s 2
    else
      match writeSel s fid f sel l x with
      | some s1 => Answered s1 0
      | none => Answered s 4) := by
  refine congrArg Host.Outcome.next ((forFibre_bound h _).trans ((unlessConf_open h _).trans ?_))
  have lane : Fin.ofNat 32 l.val = l := Fin.ext (Nat.mod_eq_of_lt l.isLt)
  rw [lane, if_pos l.isLt]
  rfl

theorem exec_intr (h : Commands s fid f) : exec (.intr fid false) s = .next (
    if s.inReplayMode (s.partOf fid) then Answered s 2 else if mayIntr f then Answered (intrOne s fid) 0 else Answered s 1) :=
  congrArg Host.Outcome.next ((forFibre_bound h _).trans (unlessConf_open h _))

/-! ### RESUME and SKIP (R274) -/

/-- A fibre that returns from its fault. -/
def wokenBy (s : State) (fid : Nat) (x : Fibre) : Fibre :=
  { x with sched := .ready, readyAt := s.clock, frozen := none, halted := (s.part (s.partOf fid)).halted, wait := none, drowsy := false }

theorem resume_eq : resume s fid = s.modFib fid (wokenBy s fid) := rfl

theorem wokenBy_lane (x : Fibre) (l : Fin 32) : (wokenBy s fid x).lane l = x.lane l := rfl

/-- The lanes of a faulting bundle past its word. -/
def skippedTo (s : State) (z : Frozen) (x : Fibre) : Fibre :=
  x.onLanes z.lanes fun l => if z.after = 16 then { l with pc := z.clause + 64, word := 1, stamp := s.clock } else { l with pc := z.clause, word := z.after }

theorem skippedTo_lane (z : Frozen) (x : Fibre) (l : Fin 32) :
    (((skippedTo s z x).lane l).pc, ((skippedTo s z x).lane l).word) =
      if inMask z.lanes l then (if z.after = 16 then (z.clause + 64, 1) else (z.clause, z.after)) else ((x.lane l).pc, (x.lane l).word) := by
  unfold skippedTo
  rw [onLanes_lane]
  split
  · split <;> rfl
  · rfl

theorem skipWord_partOf (z : Frozen) : (skipWord s fid z).partOf fid = s.partOf fid :=
  partOf_kept (.fib (by intro _; simp only [Fibre.onLanes, Fibre.regs])) .fib _

theorem skip_fib (hf : s.fib fid = some f) (z : Frozen) :
    (resume (skipWord s fid z) fid).fib fid = some (wokenBy s fid (skippedTo s z f)) := by
  have h1 : (skipWord s fid z).fib fid = some (skippedTo s z f) := modFib_some hf
  rw [resume_eq, modFib_some h1]
  unfold wokenBy
  rw [skipWord_partOf]
  rfl

theorem skip_fib_ne (z : Frozen) {g : Nat} (h : g ≠ fid) : (resume (skipWord s fid z) fid).fib g = s.fib g := by
  unfold resume skipWord
  rw [State.fib_modFib, if_neg h, State.fib_modFib, if_neg h]

/-- SKIP changes the fibre alone, and of it what RESUME changes and the places of lanes (R274). -/
theorem skip_answers (hf : s.fib fid = some f) (z : Frozen) : ∃ x,
    resume (skipWord s fid z) fid = { s with fibres := (resume (skipWord s fid z) fid).fibres } ∧
    (∀ g, g ≠ fid → (resume (skipWord s fid z) fid).fib g = s.fib g) ∧ (resume (skipWord s fid z) fid).fib fid = some x ∧
    x = wokenBy s fid { f with lanes := x.lanes } ∧
    ∀ l, ((x.lane l).pc, (x.lane l).word) =
      if inMask z.lanes l then (if z.after = 16 then (z.clause + 64, 1) else (z.clause, z.after)) else ((f.lane l).pc, (f.lane l).word) := by
  have rest : resume (skipWord s fid z) fid = { s with fibres := (resume (skipWord s fid z) fid).fibres } := rfl
  have lanes : wokenBy s fid (skippedTo s z f) = wokenBy s fid { f with lanes := (wokenBy s fid (skippedTo s z f)).lanes } := rfl
  refine ⟨_, rest, fun _ => skip_fib_ne z, skip_fib hf z, lanes, fun l => ?_⟩
  rw [wokenBy_lane]
  exact skippedTo_lane z f l

/-! ### STEP (R276) -/

/-- The record of a step is timed by its fibre's log, then posted. -/
theorem postStep_logged (l : Fin 32) (sub held : Nat) : ∃ u, Logs s u ∧ Posts u (postStep s fid l sub held) := by
  unfold postStep
  split
  · exact ⟨s, .refl s, .refl s⟩
  · extract_lets k y t
    exact ⟨t.2, recordTime_logs fid y, postRecord_posts _ _ _⟩

theorem postStep_fib (hf : s.fib fid = some f) (l : Fin 32) (sub held : Nat) :
    ∃ x, (postStep s fid l sub held).fib fid = some x ∧ x.unlogged = f.unlogged := by
  obtain ⟨u, logs, posts⟩ := postStep_logged (s := s) (fid := fid) l sub held
  obtain ⟨x, hx, e⟩ := logs.some hf
  exact ⟨x, (posts.fib fid).trans hx, e⟩

theorem postStep_mgmt (l : Fin 32) (sub held : Nat) :
    (postStep s fid l sub held).mgmt.sent = s.mgmt.sent ∧ (postStep s fid l sub held).mgmt.stepReplies = s.mgmt.stepReplies := by
  obtain ⟨u, logs, posts⟩ := postStep_logged (s := s) (fid := fid) l sub held
  exact ⟨by rw [posts.sent, logs.mgmt], by rw [posts.stepReplies, logs.mgmt]⟩

theorem beginStep_fib (hf : s.fib fid = some f) (l : Fin 32) : (beginStep s fid l).fib fid = some
    { f with step := some ⟨l.val, false, s.nextOp, f.halted, f.sched⟩, sched := .running, halted := false, run := none, wait := none, walkReq := [], walkRes := [] } := by
  unfold beginStep
  extract_lets start s1
  have h1 : s1.fib fid = some (start f) := modFib_some hf
  split
  · exact h1
  · exact h1

theorem beginStep_reply (l : Fin 32) {r : Reply} (h : s.mgmt.reply = some r) :
    (beginStep s fid l).mgmt.reply = none ∧ (beginStep s fid l).mgmt.stepReplies.get? fid = some r := by
  unfold beginStep
  extract_lets start s1
  have h1 : s1.mgmt.reply = some r := h
  rw [h1]
  exact ⟨rfl, AMap.get?_set_self _ _ _⟩

/-- The HELD code with which a step that has ended ends. -/
theorem stepEnds_some {t0 : StepRun} (h : if t0.issued then stepOpsDone s fid t0 = true
      else (if t0.issued ∨ heldCode f (Fin.ofNat 32 t0.lane) ≠ 0 then heldCode f (Fin.ofNat 32 t0.lane) else waitCode (s.replaying (s.partOf fid)) f.wait) ≠ 0) :
    stepEnds s fid f t0 = some (if t0.issued ∨ heldCode f (Fin.ofNat 32 t0.lane) ≠ 0 then heldCode f (Fin.ofNat 32 t0.lane)
      else waitCode (s.replaying (s.partOf fid)) f.wait) := by
  unfold stepEnds
  cases hi : t0.issued with
  | true =>
    rw [hi, if_pos rfl] at h
    simp only [if_true, h, true_or]
  | false =>
    rw [hi, if_neg Bool.false_ne_true] at h
    by_cases hh : heldCode f (Fin.ofNat 32 t0.lane) = 0
    · simp only [Bool.false_eq_true, hh, ne_eq, not_true_eq_false, or_self, if_false] at h ⊢
      exact if_pos h
    · simp only [Bool.false_eq_true, hh, ne_eq, not_false_eq_true, or_true, if_true, if_false]

/-- A stepped fibre returns to where it was: the lanes and the count that it has, the state that it had. -/
theorem endStep_fields {t0 : StepRun} {x : Fibre} (h : x.liveMask ≠ 0) :
    (endStep t0 x).step = none ∧ (endStep t0 x).lanes = x.lanes ∧ (endStep t0 x).ric = x.ric ∧ (endStep t0 x).halted = t0.wasHalted ∧
    (endStep t0 x).sched = if t0.wasHalted then (if t0.back = .waiting then .ready else t0.back) else .frozen := by
  refine ⟨rfl, rfl, rfl, ?_, ?_⟩
  · change (t0.wasHalted && x.liveMask != 0) = _
    rw [show (x.liveMask != 0) = true from bne_iff_ne.2 h, Bool.and_true]
  · exact if_neg h

theorem respond_fib (r : Reply) (g : Nat) : (respond s r).fib g = s.fib g := by
  have e : (respond s r).fibres = s.fibres := by
    cases r with
    | ring =>
      unfold respond respondRing
      dsimp only
    | port =>
      unfold respond respondPort
      dsimp only [State.modMgmt]
  exact State.fib_congr e g

theorem stepReply_fib (g : Nat) : (stepReply s fid).fib g = s.fib g := by
  unfold stepReply
  split
  · exact respond_fib _ g
  · rfl

/-- A response by datagram names its request and carries the status (R362). -/
theorem respondPort_sent (c tag : Nat) : ∃ b, (respondPort s c tag).mgmt.sent = s.mgmt.sent ++ [b] ∧
    (b.drop 2).take 6 = natBytes 2 tag ++ natBytes 4 s.mgmt.status := by
  refine ⟨_, rfl, ?_⟩
  simp only [List.append_assoc]
  rfl

/-- The response that a step kept back goes to its port, with the status of its end. -/
theorem stepReply_port {c tag : Nat} (h : s.mgmt.stepReplies.get? fid = some (.port c tag)) :
    (stepReply s fid).mgmt.stepReplies.get? fid = none ∧ ∃ b, (stepReply s fid).mgmt.sent = s.mgmt.sent ++ [b] ∧
      (b.drop 2).take 6 = natBytes 2 tag ++ natBytes 4 s.mgmt.status := by
  have e : stepReply s fid = (respondPort s c tag).modMgmt fun m => { m with stepReplies := m.stepReplies.del fid } := by
    unfold stepReply
    simp only [h]
    rfl
  rw [e]
  exact ⟨AMap.get?_del_self _ _, respondPort_sent c tag⟩

/-! ### WRREG (R275) -/

theorem inMask_lane (l k : Fin 32) : inMask (1#32 <<< l.val) k = decide (k = l) := by
  unfold inMask
  rw [BitVec.getLsbD_shiftLeft, BitVec.getLsbD_one, decide_eq_true k.isLt]
  by_cases h : k = l
  · simp [h]
  · have := Fin.val_ne_of_ne h
    simp [h]; omega

theorem setLane_get {α : Type} (v : Lanes α) (l k : Fin 32) (x : α) : (setLane v l x)[k] = if k = l then x else v[k] := by
  unfold setLane
  simp

/-- Every other lane of a written register keeps its value. -/
theorem writeV_reads {n : Nat} (h : Commands s fid f) (hr : f.hasReg n = true) (l : Fin 32) (x : Word) :
    let t := writeReg s fid n ⟨setLane (readReg s fid n).vals l x, .g⟩
    (readReg t fid n).tag = .g ∧ ∀ k, readLane t fid n k = if k = l then x else readLane s fid n k := by
  intro t
  have e : readReg t fid n = ⟨setLane (readReg s fid n).vals l x, .g⟩ := readReg_writeReg_self h.fibre h.area hr
  refine ⟨by rw [e], fun k => ?_⟩
  unfold readLane
  rw [e]
  exact setLane_get _ _ _ _

/-- One lane of a predicate is written. -/
theorem writeP_reads {n : Nat} (hn : n < 7) (l k : Fin 32) (b : Bool) :
    inMask ((f.writeP n (1#32 <<< l.val) (if b then BitVec.allOnes 32 else 0)).readP n) k = if k = l then b else inMask (f.readP n) k := by
  rw [inMask_readP_writeP (by omega), inMask_lane, show (n == 7) = false from beq_false_of_ne (by omega), Bool.false_or]
  by_cases e : k = l
  · rw [if_pos e, if_pos (decide_eq_true e)]
    cases b with
    | true => exact inMask_allOnes k
    | false => exact inMask_zero k
  · rw [if_neg e, if_neg (by simpa using e)]

/-- One flag's error is written. -/
theorem setErr_reads (e : BitVec 12) {n k : Nat} (hk : k < 12) (b : Bool) :
    (if b then e ||| (1#12 <<< n) else e &&& ~~~(1#12 <<< n)).getLsbD k = if k = n then b else e.getLsbD k := by
  have bit : (1#12 <<< n).getLsbD k = decide (k = n) := by
    rw [BitVec.getLsbD_shiftLeft, BitVec.getLsbD_one]
    by_cases h : k = n
    · simp [h]; omega
    · simp [h]; omega
  cases b with
  | true =>
    rw [if_pos rfl, BitVec.getLsbD_or, bit]
    by_cases h : k = n <;> simp only [h, decide_true, decide_false, Bool.or_true, Bool.or_false, if_true, if_false]
  | false =>
    rw [if_neg Bool.false_ne_true, BitVec.getLsbD_and, BitVec.getLsbD_not, bit, decide_eq_true hk]
    by_cases h : k = n <;> simp only [h, decide_true, decide_false, Bool.not_true, Bool.not_false, Bool.and_true, Bool.and_false, if_true, if_false]

/-- A predicate write changes nothing but its predicate; one of p7 changes nothing (R29). -/
theorem writeP_only (n : Nat) (m v : LaneMask) (w : Writes) (hw : n = 7 ∨ n ∈ w.p) : Only s (s.modFib fid fun x => x.writeP n m v) fid w := by
  refine modFib_only w ?_ (fun x k hk => ?_) ?_ ?_ ?_ ?_ ?_ ?_
  case refine_2 =>
    rcases hw with e | e
    · subst e
      rfl
    · exact readP_writeP_ne fun h => hk (h ▸ e)
  all_goals intro x; unfold Fibre.writeP; split <;> intros <;> rfl

/-- One lane of an accumulator is written (R275). -/
theorem writeQ_only (l : Fin 32) (x : BitVec 320) {n : Nat} {w : Writes} (hw : n ∈ w.q) :
    Only s (s.modFib fid fun f => { f with q := vset f.q n (setLane (vget f.q n (lanesOf 0)) l x) }) fid w := by
  refine modFib_only w ?_ ?_ ?_ (fun x k hk => ?_) ?_ ?_ ?_ ?_
  case refine_4 =>
    have ne : n ≠ k := fun e => hk (e ▸ hw)
    unfold vget vset
    rw [Vector.getElem?_setIfInBounds_ne ne]
  all_goals intros; rfl

theorem writeQ_reads {n : Nat} (hn : n < 2) (l k : Fin 32) (x : BitVec 320) :
    (vget (vset f.q n (setLane (vget f.q n (lanesOf 0)) l x)) n (lanesOf 0))[k] = if k = l then x else (vget f.q n (lanesOf 0))[k] := by
  unfold vget vset
  rw [Vector.getElem?_setIfInBounds_self_of_lt hn, Option.getD_some]
  exact setLane_get _ _ _ _

theorem onLanes_ric (m : LaneMask) (g : Lane → Lane) : (f.onLanes m g).ric = f.ric := by
  simp only [Fibre.onLanes]

/-- The place of one lane is written (R39). -/
theorem writePc_lane (l k : Fin 32) (pc : DWord) :
    let y := f.onLanes (1#32 <<< l.val) fun k => { k with pc := pc, word := 1, hold := .none }
    y.ric = f.ric ∧ if k = l then (y.lane k).pc = pc ∧ (y.lane k).word = 1 ∧ (y.lane k).live = (f.lane k).live else y.lane k = f.lane k := by
  intro y
  have e : y.lane k = if inMask (1#32 <<< l.val) k then { f.lane k with pc := pc, word := 1, hold := .none } else f.lane k := onLanes_lane f _ _ k
  rw [inMask_lane] at e
  refine ⟨onLanes_ric _ _, ?_⟩
  by_cases own : k = l
  · rw [if_pos (decide_eq_true own)] at e
    rw [if_pos own, e]
    exact ⟨rfl, rfl, rfl⟩
  · rw [if_neg (by simpa using own)] at e
    rw [if_neg own, e]

theorem onLanes_only (m : LaneMask) (g : Lane → Lane) (w : Writes) : Only s (s.modFib fid fun x => x.onLanes m g) fid w :=
  .of_kept (.fib (by intro _; simp only [Fibre.onLanes, Fibre.regs])) fid w fun _ _ => .fib

theorem writeReg_mgmt (r : Nat) (x : VReg) : (writeReg s fid r x).mgmt = s.mgmt := by
  unfold writeReg
  split
  · rfl
  · split
    · rfl
    · split <;> rfl

theorem mayIntr_iff : mayIntr f = true ↔ f.sched ≠ .frozen ∧ f.halted = false := by
  simp [mayIntr]

theorem mayIntr_not (h : ¬ (f.sched ≠ .frozen ∧ f.halted = false)) : mayIntr f = false := Bool.eq_false_iff.2 fun e => h (mayIntr_iff.1 e)

/-- A write of one register answers with the state that it makes, or refuses. -/
theorem exec_wrreg_stopped (h : Commands s fid f) (stop : mayIntr f = false) (mode : s.inReplayMode (s.partOf fid) = false)
    {sel : RegSel} {l : Fin 32} {x : BitVec 320} {o : Option State} (w : writeSel s fid f sel l x = o) :
    exec (.wrreg fid sel l.val x) s = .next (o.elim (Answered s 4) (Answered · 0)) := by
  rw [exec_wrreg h, show (!(f.sched == .frozen || f.halted)) = false from (Bool.not_or _ _).trans stop, mode, w]
  cases o <;> rfl

/-- A read of one register answers with its value, or refuses. -/
theorem exec_rdreg_lane (h : Commands s fid f) {sel : RegSel} {l : Fin 32} {o : Option (DWord × List Byte)} (e : readSel s fid f sel l = o) :
    exec (.rdreg fid sel l.val) s = .next (o.elim (Answered s 4) fun r => Answered s 0 r.1 r.2) := by
  have lane : Fin.ofNat 32 l.val = l := Fin.ext (Nat.mod_eq_of_lt l.isLt)
  rw [exec_rdreg h, if_pos l.isLt, lane, e]
  cases o <;> rfl

theorem exec_stepComplete (hf : s.fib fid = some f) {t0 : StepRun} (hs : f.step = some t0) {code : Nat} (e : stepEnds s fid f t0 = some code) :
    exec (.stepComplete fid) s = .next (stepReply (Answered ((postStep s fid (Fin.ofNat 32 t0.lane) (if code = 0 then 3 else 4) code).modFib fid
      (endStep t0)) (if code = 0 then 0 else 5)) fid) := by
  refine congrArg Host.Outcome.next ?_
  simp only [hf, hs, e]
  rfl

/-- The end of a step (R276 step 4): the fibre is as it was, and the response that was kept back goes out. -/
theorem stepComplete_answers (hf : s.fib fid = some f) {t0 : StepRun} (hs : f.step = some t0) (live : f.liveMask ≠ 0) {code : Nat}
    (e : stepEnds s fid f t0 = some code) : Gives (.stepComplete fid) s fun t =>
      (∃ x, t.fib fid = some x ∧ x.step = none ∧ x.lanes = f.lanes ∧ x.ric = f.ric ∧ x.halted = t0.wasHalted ∧
        x.sched = if t0.wasHalted then (if t0.back = .waiting then .ready else t0.back) else .frozen) ∧
      ∀ c tag, s.mgmt.stepReplies.get? fid = some (.port c tag) → t.mgmt.stepReplies.get? fid = none ∧
        ∃ b, t.mgmt.sent = s.mgmt.sent ++ [b] ∧ (b.drop 2).take 6 = natBytes 2 tag ++ natBytes 4 (if code = 0 then 0 else 5) := by
  refine ⟨_, exec_stepComplete hf hs e, ?_, fun c tag reply => ?_⟩
  · obtain ⟨x, hx, same⟩ := postStep_fib hf (Fin.ofNat 32 t0.lane) (if code = 0 then 3 else 4) code
    have lanes : x.lanes = f.lanes := (congrArg Fibre.lanes same :)
    have ric : x.ric = f.ric := (congrArg Fibre.ric same :)
    have live' : x.liveMask ≠ 0 := by
      unfold Fibre.liveMask Fibre.lane
      rw [lanes]
      exact live
    obtain ⟨step, lanes', ric', halted, sched⟩ := endStep_fields (t0 := t0) live'
    exact ⟨endStep t0 x, (stepReply_fib _).trans (modFib_some hx), step, lanes'.trans lanes, ric'.trans ric, halted, sched⟩
  · obtain ⟨sent, replies⟩ := postStep_mgmt (s := s) (fid := fid) (Fin.ofNat 32 t0.lane) (if code = 0 then 3 else 4) code
    obtain ⟨gone, b, sent', bytes⟩ := stepReply_port (s := Answered ((postStep s fid (Fin.ofNat 32 t0.lane) (if code = 0 then 3 else 4)
      code).modFib fid (endStep t0)) (if code = 0 then 0 else 5)) ((congrArg (fun m => AMap.get? m fid) replies).trans reply)
    exact ⟨gone, b, sent'.trans (congrArg (· ++ [b]) sent), bytes⟩

theorem mayStep_iff {b : Bool} : (!(f.sched == .frozen || (f.halted && b))) = true ↔ ¬ (f.sched = .frozen ∨ (f.halted = true ∧ b = true)) := by
  cases b <;> simp

theorem mayStep_of {b : Bool} (h : f.sched = .frozen ∨ (f.halted = true ∧ b = true)) : ¬ (!(f.sched == .frozen || (f.halted && b))) = true :=
  fun e => mayStep_iff.1 e h

/-- A step that cannot begin tells why (R276 step 2). -/
theorem step_held (h : Commands s fid f) (l : Fin 32) (may : f.sched = .frozen ∨ (f.halted = true ∧ (s.part (s.partOf fid)).halted = true))
    (live : (f.lane l).live = true) (held : heldCode f l ≠ 0) : Gives (.step fid l.val) s fun t => t.mgmt.status = 5 ∧
      ∃ x, t.fib fid = some x ∧ x.sched = f.sched ∧ x.step = f.step ∧ x.lanes = f.lanes ∧ x.ric = f.ric := by
  obtain ⟨x, hx, same⟩ := postStep_fib h.fibre l 4 (heldCode f l)
  refine ⟨Answered (postStep s fid l 4 (heldCode f l)) 5, ?_, rfl, x, hx, (congrArg Fibre.sched same :), (congrArg Fibre.step same :),
    (congrArg Fibre.lanes same :), (congrArg Fibre.ric same :)⟩
  rw [exec_step h, if_neg (mayStep_of may), if_neg (by simp [live]), if_pos held]

theorem step_begins (h : Commands s fid f) (l : Fin 32) (may : f.sched = .frozen ∨ (f.halted = true ∧ (s.part (s.partOf fid)).halted = true))
    (live : (f.lane l).live = true) (free : heldCode f l = 0) : exec (.step fid l.val) s = .next (Answered (beginStep s fid l) 0) := by
  rw [exec_step h, if_neg (mayStep_of may), if_neg (by simp [live]), if_neg (not_not.2 free)]

end Sys2Proof.Machine

namespace Sys2Proof.Proofs

open Machine

/-- Settles O50: each command by what it does where the fibre is bound, `forFibre_bound`. -/
theorem fibreCommands : Obligations.FibreCommands := by
  unfold Obligations.FibreCommands
  refine ⟨fun s fid l sel x none_ i hi => ?_, fun s fid f h => ?_⟩
  case refine_1 =>
    have unbound := forFibre_unbound none_
    simp only [List.mem_cons, List.not_mem_nil, or_false] at hi
    rcases hi with rfl | rfl | rfl | rfl | rfl | rfl <;> exact congrArg Host.Outcome.next (unbound _)
  case refine_2 =>
    intro p says_ may woken
    refine ⟨fun fr => ?_, fun fr => ?_, fun z hz => ⟨fun fr sy ca => ?_, fun fr sy ca => ?_, fun fr => ?_⟩, fun l => ?step,
      fun t0 ht live => ?stepEnd, fun l n => ?rd, fun l n x => ?wr, fun m => ?_, fun m no => ?_, fun m yes => ?_⟩
    case step =>
      refine ⟨fun no => ?_, fun may live => ?_, fun may live free => ?_, step_held h l⟩
      · exact (exec_step h l).trans (by rw [if_pos (mayStep_iff.2 no)])
      · exact (exec_step h l).trans (by rw [if_neg (mayStep_of may), if_pos (by simp [live])])
      · exact ⟨_, step_begins h l may live free, rfl, fun r => beginStep_reply l, _, beginStep_fib h.fibre l, rfl, rfl, rfl, rfl, rfl, rfl, rfl⟩
    case stepEnd =>
      intro held code e
      exact stepComplete_answers h.fibre ht live (stepEnds_some e)
    case rd =>
      intro reads
      have reads_ (sel : RegSel) {o : Option (DWord × List Byte)} := exec_rdreg_lane h (sel := sel) (l := l) (o := o)
      refine ⟨fun hn hr => ?_, fun hn => ?_, fun hn => ?_, fun hn => ?_, fun hn => ?_, fun hn => ?_, ?_, ?_, ?_, fun hr => ?_, fun sel k hk => ?_⟩
      · exact reads_ ⟨.v, n⟩ (o := some _) (if_pos (by simp only [hn, hr, decide_true, Bool.and_self]))
      · exact reads_ ⟨.p, n⟩ (o := some _) (if_pos hn)
      · exact reads_ ⟨.s, n⟩ (o := some _) (if_pos hn)
      · exact reads_ ⟨.b, n⟩ (o := some _) (if_pos hn)
      · exact reads_ ⟨.cf, n⟩ (o := some _) (if_pos hn)
      · exact reads_ ⟨.q, n⟩ (o := some _) (if_pos hn)
      · exact reads_ ⟨.fpstat, n⟩ rfl
      · exact reads_ ⟨.ric, n⟩ rfl
      · exact reads_ ⟨.pc, n⟩ rfl
      · exact reads_ ⟨.v, n⟩ (o := none) (if_neg (by simp only [hr, Bool.and_false, Bool.false_eq_true, not_false_eq_true]))
      · exact (exec_rdreg h sel k).trans (by rw [if_neg (by omega)])
    case wr =>
      intro i puts
      refine ⟨fun run c => ?_, fun stop mode c => ?_, fun stop mode => ?_⟩
      · exact (exec_wrreg h _ _ _).trans (by rw [show (!(f.sched == .frozen || f.halted)) = true from (Bool.not_or _ _).trans (mayIntr_iff.2 run)]; rfl)
      · exact (exec_wrreg h _ _ _).trans (by
          rw [show (!(f.sched == .frozen || f.halted)) = false from (Bool.not_or _ _).trans (mayIntr_not stop), mode]; rfl)
      · have writes (c : RegClass) {o : Option State} := exec_wrreg_stopped h (mayIntr_not stop) mode (sel := ⟨c, n⟩) (l := l) (x := x) (o := o)
        refine ⟨fun hn hr => ?v, fun hn => ?p, fun hn => ?s, fun hn => ?b, fun hn => ?cf, fun hn => ?q, fun hi lo => ?fpstat, writes .ric rfl, fun hn => ?p7,
          fun hx => ?_, fun hr => ?_, fun hx => ?pc⟩
        case v =>
          exact ⟨_, writes .v (o := some _) (if_pos (by simp only [hn, hr, decide_true, Bool.and_self])),
            congrArg (fun m : Mgmt => { m with status := 0, result := 0, data := [] }) (writeReg_mgmt _ _),
            answered_only (writeReg_only _ _ _ _ (List.mem_singleton_self n)), writeV_reads h hr l _⟩
        case p =>
          exact ⟨_, writes .p (o := some _) (if_pos (by dsimp only; omega)), rfl,
            answered_only (writeP_only n _ _ _ (.inr (List.mem_singleton_self n))), _, modFib_some h.fibre, fun k => writeP_reads hn l k _⟩
        case s =>
          exact ⟨_, writes .s (o := some _) (if_pos hn), rfl, answered_only (writeS_only _ _ _ _ (List.mem_singleton_self n)), _,
            modFib_some h.fibre, readS_writeS_self hn⟩
        case b =>
          refine (writes .b (o := some _) (if_pos hn)).trans ?_
          exact congrArg (fun t => Host.Outcome.next (Answered t 0)) (modFib_eq h.fibre rfl)
        case cf =>
          refine ⟨_, writes .cf (o := some _) (if_pos hn), rfl, answered_only ?_, _, modFib_some h.fibre, fun k hk => setErr_reads f.cfErr hk _⟩
          refine modFib_only _ ?_ ?_ ?_ ?_ ?_ (fun _ no => nomatch no) ?_ ?_ <;> intros <;> rfl
        case q =>
          refine ⟨_, writes .q (o := some _) (if_pos hn), rfl, answered_only (writeQ_only _ _ (List.mem_singleton_self n)), _, modFib_some h.fibre,
            fun k => writeQ_reads hn l k x⟩
        case fpstat =>
          refine (writes .fpstat (o := some _) (if_neg ?_)).trans ?_
          · simp only [hi, ne_eq, not_true_eq_false, decide_false, Bool.false_or, decide_eq_true_eq]
            exact Nat.not_le_of_lt lo
          · exact congrArg (fun t => Host.Outcome.next (Answered t 0)) (modFib_eq h.fibre rfl)
        case p7 =>
          exact ⟨_, writes .p (o := some _) (if_pos (by dsimp only; omega)), answered_only (writeP_only n _ _ _ (.inl hn)), rfl⟩
        case pc =>
          have at_ := fun k => writePc_lane (f := f) l k (x.setWidth 64)
          exact ⟨_, writes .pc (o := some _) (if_neg (not_not.2 hx)), rfl, answered_only (onLanes_only _ _ _), _, modFib_some h.fibre,
            (at_ 0).1, fun k => (at_ k).2⟩
        · exact writes .pc (o := none) (if_pos hx)
        · exact writes .v (o := none) (if_neg (by simp only [hr, Bool.and_false, Bool.false_eq_true, not_false_eq_true]))
    · rw [exec_resume h, if_pos fr]
      rfl
    · exact (exec_resume h).trans (by rw [if_neg fr])
    · rw [exec_skip h, exec_resume h, hz]
      simp only [fr, sy, ca, decide_true, Bool.and_true, if_true]
    · obtain ⟨x, rest, other, own, e, lanes⟩ := skip_answers h.fibre z
      refine ⟨Answered (resume (skipWord s fid z) fid) 0, ?_, x, congrArg (Answered · 0) rest, other, own, e, lanes⟩
      rw [exec_skip h, hz]
      simp only [fr, sy, ca, decide_true, Bool.and_true, if_true, if_false]
    · have stay : (decide (f.sched = .frozen) && z.sync) = false := by
        rcases fr with e | e
        · rw [decide_eq_false e, Bool.false_and]
        · rw [e, Bool.and_false]
      refine (exec_skip h).trans ?_
      rw [hz]
      simp only [stay, Bool.false_eq_true, if_false]
    · exact (exec_intr h).trans (by rw [if_pos m])
    · exact (exec_intr h).trans (by rw [m, mayIntr_not no]; rfl)
    · refine (exec_intr h).trans ?_
      rw [m, mayIntr_iff.2 yes]
      refine congrArg (fun t => Host.Outcome.next (Answered t 0)) (modFib_eq h.fibre ?_)
      exact if_pos (mayIntr_iff.2 yes)

end Sys2Proof.Proofs
end

section
/-!
Reads at a home slice: where no copy outside holds a line's data newer, no byte of memory changes, and a line keeps its STATE or becomes I by an error in its
metadata (R329, R331, R339).
-/

namespace Sys2Proof.Machine

variable {s t u : State}

theorem AMap.get?_del (m : AMap α) (k j : Nat) : (m.del k).get? j = if j = k then none else m.get? j := by
  split
  · next h => subst h; exact AMap.get?_del_self _ _
  · next h => exact AMap.get?_del_ne _ h

theorem line_congr (hl : t.lines = s.lines) (hp : t.parts = s.parts) (hr : t.hbm.regions = s.hbm.regions) (n : Nat) : t.line n = s.line n := by
  unfold State.line State.freshLine State.part
  rw [hl, hp, hr]

theorem mdState_mdMake (p : Bool) (e o st : Nat) : mdState (mdMake p e o st) = st % 8 := by
  unfold mdState mdMake fieldOf bitsOf
  rw [BitVec.toNat_ofNat]
  split <;> omega

/-- No error stands on a line, and its metadata can be read (R328, R339). -/
structure Good (s : State) (n : Nat) : Prop where
  errs : s.hbm.errs.get? n = none
  md   : (s.md n).getLsbD 15 = false ∧ mdState (s.md n) < 6

/-- A home slice read between two states: no byte changed, every line kept its STATE or became I, and the metadata of a line without an error stand. -/
structure Reads (s t : State) : Prop where
  mem    : t.mem = s.mem
  states : ∀ n, mdState (t.md n) = mdState (s.md n) ∨ mdState (t.md n) = 0
  good   : ∀ n, Good s n → t.hbm.errs.get? n = none ∧ t.md n = s.md n

namespace Reads

theorem refl (s : State) : Reads s s := ⟨rfl, fun _ => .inl rfl, fun _ h => ⟨h.errs, rfl⟩⟩

theorem good_of (h : Reads s t) {n : Nat} (g : Good s n) : Good t n := by
  obtain ⟨errs, md⟩ := h.good n g
  exact ⟨errs, by rw [md]; exact g.md⟩

theorem trans (h : Reads s t) (k : Reads t u) : Reads s u where
  mem := k.mem.trans h.mem
  states n := (k.states n).elim (fun e => (h.states n).imp e.trans e.trans) .inr
  good n g := ⟨(k.good n (h.good_of g)).1, (k.good n (h.good_of g)).2.trans (h.good n g).2⟩

/-- Nothing of the lines, their errors and the bytes changes. -/
theorem of_eq (hm : t.mem = s.mem) (hl : t.lines = s.lines) (hp : t.parts = s.parts) (hr : t.hbm.regions = s.hbm.regions)
    (he : t.hbm.errs = s.hbm.errs) : Reads s t :=
  have md n : t.md n = s.md n := congrArg LineInfo.md (line_congr hl hp hr n)
  ⟨hm, fun n => .inl (by rw [md n]), fun n g => ⟨by rw [he]; exact g.errs, md n⟩⟩

/-- A line changes beside its metadata. -/
theorem line {n : Nat} {g : LineInfo → LineInfo} (h : ∀ l, (g l).md = l.md) : Reads s (s.modLine n g) := by
  have md j : (s.modLine n g).md j = s.md j := by
    unfold State.md
    rw [State.line_modLine]
    split
    · next e => subst e; exact h _
    · rfl
  exact ⟨rfl, fun j => .inl (by rw [md j]), fun j k => ⟨k.errs, md j⟩⟩

theorem ite {p : Prop} [Decidable p] (h : Reads s t) (k : Reads s u) : Reads s (if p then t else u) := by
  split
  · exact h
  · exact k

theorem foldl {α : Type} {g : State → α → State} (h : ∀ s x, Reads s (g s x)) (l : List α) (s : State) : Reads s (l.foldl g s) := by
  induction l generalizing s with
  | nil => exact refl s
  | cons x r ih => exact (h s x).trans (ih (g s x))

end Reads

theorem signal_reads (fn : Nat) (irq : DWord) : Reads s (signal s fn irq) := .ite (.of_eq rfl rfl rfl rfl rfl) (.refl s)

theorem tellTo_reads (w ln : Nat) (l : List Nat) : Reads s (s.tellTo w ln l) := .of_eq rfl rfl rfl rfl rfl

theorem gather_reads (ln : Nat) (r : LineUse) : Reads s (gather s ln r) := by
  unfold gather
  split
  · exact .line fun _ => rfl
  · exact .foldl (fun _ _ => tellTo_reads _ _ _) _ _

theorem rmThreshold_reads (b r : Nat) : Reads s (rmThreshold s b r) := by
  unfold rmThreshold
  extract_lets st k had alert s1 s2
  have h1 : Reads s s1 := .of_eq rfl rfl rfl rfl rfl
  have h2 : Reads s s2 := .ite h1 (h1.trans (signal_reads _ _))
  exact h2.trans (.of_eq rfl rfl rfl rfl rfl)

theorem activate_reads (ln : Nat) : Reads s (activate s ln) := by
  unfold activate
  extract_lets p b n src s1
  split
  · exact .refl s
  · have h1 : Reads s s1 := .of_eq rfl rfl rfl rfl rfl
    exact .ite (h1.trans (rmThreshold_reads _ _)) h1

theorem remapError_reads (ln : Nat) : Reads s (remapError s ln) := by
  unfold remapError
  extract_lets p
  split
  · exact .of_eq rfl rfl rfl rfl rfl
  · exact .of_eq rfl rfl rfl rfl rfl
  · exact .refl s

theorem l3Room_reads (ln : Nat) : Reads s (l3Room s ln) := by
  unfold l3Room
  split
  · exact .refl s
  · extract_lets n held d out s1
    split
    · exact .refl s
    · have hd : Reads s d.2 := .of_eq rfl rfl rfl rfl rfl
      have h1 : Reads s s1 := .ite (hd.trans (activate_reads _)) hd
      exact h1.trans (.line fun _ => rfl)

/-- What an error on line ln may do: no byte changes, and of the metadata that of the line alone, whose STATE stays or becomes 0. -/
structure Errs (s t : State) (ln : Nat) : Prop where
  mem    : t.mem = s.mem
  errs   : t.hbm.errs = s.hbm.errs
  own    : mdState (t.md ln) = mdState (s.md ln) ∨ mdState (t.md ln) = 0
  others : ∀ n, n ≠ ln → t.md n = s.md n

theorem uncorrectable_errs (ln : Nat) : Errs s (uncorrectable s ln) ln := by
  have line n : (uncorrectable s ln).line n = (s.setPoison ln true).line n := line_congr rfl rfl rfl n
  refine ⟨rfl, rfl, .inl ?_, fun n h => ?_⟩
  · unfold State.md
    rw [line, State.setPoison, State.line_modLine, if_pos rfl, mdState_mdMake]
    unfold mdState fieldOf bitsOf
    omega
  · unfold State.md
    rw [line, State.setPoison, State.line_modLine, if_neg h]

theorem badMeta_errs (ln : Nat) : Errs s (badMeta s ln) ln := by
  obtain ⟨mem, errs, _, others⟩ := uncorrectable_errs (s := s) ln
  unfold badMeta
  refine ⟨mem, errs, .inr ?_, fun n h => ?_⟩
  · unfold State.md
    rw [State.line_modLine, if_pos rfl, mdState_mdMake]
  · unfold State.md
    rw [State.line_modLine, if_neg h]
    exact others n h

theorem Errs.refl (ln : Nat) : Errs s s ln := ⟨rfl, rfl, .inl rfl, fun _ _ => rfl⟩

theorem Errs.states (h : Errs s t ln) (n : Nat) : mdState (t.md n) = mdState (s.md n) ∨ mdState (t.md n) = 0 := by
  by_cases e : n = ln
  · rw [e]; exact h.own
  · exact .inl (by rw [h.others n e])

theorem eccRead_reads (ln : Nat) : Reads s (eccRead s ln) := by
  unfold eccRead
  extract_lets s1
  have h1 : Errs s s1 ln := by
    unfold s1
    split
    · exact ⟨rfl, rfl, .inl rfl, fun _ _ => rfl⟩
    · exact uncorrectable_errs _
    · exact badMeta_errs _
    · split
      · exact badMeta_errs _
      · exact .refl _
  have sound : Good s ln → s1 = s := by
    intro g
    unfold s1
    obtain ⟨none_, bit, low⟩ := g
    rw [none_]
    simp only [bit, Bool.or_false, decide_eq_true_eq, if_neg (Nat.not_le_of_lt low)]
  have md n : ({ s1 with hbm := { s1.hbm with errs := s1.hbm.errs.del ln } } : State).md n = s1.md n :=
    congrArg LineInfo.md (line_congr rfl rfl rfl n)
  refine ⟨h1.mem, fun n => by rw [md n]; exact h1.states n, fun n g => ⟨?_, (md n).trans ?_⟩⟩
  · change (s1.hbm.errs.del ln).get? n = none
    rw [AMap.get?_del, h1.errs, g.errs, ite_self]
  · by_cases e : n = ln
    · subst e
      rw [sound g]
    · exact h1.others n e

theorem fetchLine_reads (ln : Nat) (nt : Bool) : Reads s (fetchLine s ln nt) := by
  unfold fetchLine
  split
  · exact .refl s
  · extract_lets s0 s4
    have h0 : Reads s s0 := Reads.trans (.ite (.refl s) (l3Room_reads _)) (remapError_reads _)
    have h4 : Reads s s4 := (h0.trans (activate_reads _)).trans (eccRead_reads _)
    exact .ite h4 (h4.trans (.line fun _ => rfl))

/-- A home read of a line of which no copy outside holds the data newer (R331). -/
theorem homeRead_reads {ln : Nat} (nt : Bool) (h : mdState (s.md ln) < 3) : Reads s (homeRead s ln nt) := by
  unfold homeRead
  extract_lets s1 m s2
  have h1 : Reads s s1 := fetchLine_reads _ _
  have h2 : Reads s s2 := h1.trans (gather_reads _ _)
  have low : mdState m < 3 := by
    rcases h1.states ln with e | e
    · exact e ▸ h
    · exact e ▸ (by omega : 0 < 3)
  split
  · exact h1
  · split
    · next e => exact absurd low (by rw [e]; omega)
    · next e => exact absurd low (by rw [e]; omega)
    · next e => exact absurd low (by rw [e]; omega)
    · exact h2

end Sys2Proof.Machine
end

section
/-!
What befalls a fibre between its words (R18, R34, R42, R70, R184, R248, R277, R288, R302).
-/

namespace Sys2Proof.Machine

variable {s t u : State} {fid : Nat} {f : Fibre}

/-! ### Forming a bundle (R18, R248) -/

/-- Lane b has waited longer than lane l, or as long and is the lower (R248). -/
def Older (f : Fibre) (b l : Fin 32) : Prop := (f.lane b).stamp < (f.lane l).stamp ∨ ((f.lane b).stamp = (f.lane l).stamp ∧ b ≤ l)

theorem Older.trans {a b l : Fin 32} (h : Older f a b) (k : Older f b l) : Older f a l := by
  unfold Older at *
  omega

/-- The lane that is taken of two, b the lower. -/
theorem older_pick {b l : Fin 32} (h : b < l) :
    let m := if (f.lane l).stamp < (f.lane b).stamp then l else b
    (m = l ∨ m = b) ∧ Older f m l ∧ Older f m b := by
  unfold Older
  split <;> refine ⟨by tauto, ?_, ?_⟩ <;> omega

/-- Of lanes in rising order the fold takes the one that has waited longest. -/
theorem oldest_of_sorted (rest : List (Fin 32)) (b : Fin 32) (h : (b :: rest).Pairwise (· < ·)) :
    let m := rest.foldl (fun b l => if (f.lane l).stamp < (f.lane b).stamp then l else b) b
    m ∈ b :: rest ∧ ∀ l ∈ b :: rest, Older f m l := by
  induction rest generalizing b with
  | nil =>
    refine ⟨List.mem_singleton_self b, fun l hl => ?_⟩
    rw [List.mem_singleton.1 hl]
    exact .inr ⟨rfl, Nat.le_refl _⟩
  | cons l r ih =>
    rw [List.pairwise_cons] at h
    obtain ⟨low, sorted⟩ := h
    obtain ⟨own, oldL, oldB⟩ := older_pick (f := f) (low l List.mem_cons_self)
    rw [List.foldl_cons]
    generalize (if (f.lane l).stamp < (f.lane b).stamp then l else b) = m at own oldL oldB
    have below : ∀ x ∈ r, m < x := by
      rcases own with rfl | rfl
      · exact (List.pairwise_cons.1 sorted).1
      · exact fun x hx => low x (List.mem_cons_of_mem _ hx)
    obtain ⟨mem, old⟩ := ih m (List.pairwise_cons.2 ⟨below, (List.pairwise_cons.1 sorted).2⟩)
    refine ⟨?_, fun x hx => ?_⟩
    · rcases List.mem_cons.1 mem with e | e
      · rcases own with rfl | rfl
        · rw [e]; exact List.mem_cons_of_mem _ List.mem_cons_self
        · rw [e]; exact List.mem_cons_self
      · exact List.mem_cons_of_mem _ (List.mem_cons_of_mem _ e)
    · have first := old m List.mem_cons_self
      rcases List.mem_cons.1 hx with rfl | hx
      · exact first.trans oldB
      · rcases List.mem_cons.1 hx with rfl | hx
        · exact first.trans oldL
        · exact old x (List.mem_cons_of_mem _ hx)

theorem laneList_sorted (m : LaneMask) : (laneList m).Pairwise (· < ·) := by
  refine List.Pairwise.filter _ ?_
  rw [← List.ofFn_id, List.pairwise_ofFn]
  exact fun _ _ h => h

/-- A lane that the next bundle may hold: live, and not held at a word. -/
def Free (f : Fibre) (l : Fin 32) : Prop := (f.lane l).live = true ∧ ((f.lane l).hold = .none ∨ (f.lane l).hold = .crossGo)

theorem inMask_candidates (h : s.replaying (s.partOf fid) = false) (l : Fin 32) : inMask (candidates s fid f) l = true ↔ Free f l := by
  unfold candidates Free
  simp only [h, Bool.false_eq_true, if_false, inMask_maskOf, Bool.and_eq_true, Bool.or_eq_true, beq_iff_eq]

/-- Of lanes in rising order, the one that has waited longest. -/
def oldestOf (f : Fibre) (l0 : Fin 32) (rest : List (Fin 32)) : Fin 32 :=
  rest.foldl (fun b l => if (f.lane l).stamp < (f.lane b).stamp then l else b) l0

section
variable (h0 : f.step = none) (h1 : f.stepRest = 0)
include h0 h1

theorem formBundle_nil (h : laneList (candidates s fid f) = []) : formBundle s fid f = 0 := by
  have z : candidates s fid f &&& f.stepRest = 0 := by rw [h1]; exact BitVec.and_zero
  unfold formBundle
  rw [h0]
  simp only [z, if_true, h]

theorem formBundle_cons {l0 : Fin 32} {rest : List (Fin 32)} (h : laneList (candidates s fid f) = l0 :: rest) :
    let b := oldestOf f l0 rest
    formBundle s fid f = maskOf fun l => inMask (candidates s fid f) l && (f.lane l).pc == (f.lane b).pc && (f.lane l).word == (f.lane b).word &&
      ((f.lane l).hold == .crossGo) == ((f.lane b).hold == .crossGo) := by
  have z : candidates s fid f &&& f.stepRest = 0 := by rw [h1]; exact BitVec.and_zero
  unfold formBundle
  rw [h0]
  simp only [z, if_true, h]
  rfl

/-- The next bundle where no step is under way, of the lanes that may issue. -/
theorem formBundle_free (h : s.replaying (s.partOf fid) = false) :
    (formBundle s fid f = 0 ∧ ∀ l, ¬ Free f l) ∨ ∃ b, Free f b ∧ (∀ l, Free f l → Older f b l) ∧
      ∀ l, inMask (formBundle s fid f) l = true ↔ Free f l ∧ (f.lane l).pc = (f.lane b).pc ∧ (f.lane l).word = (f.lane b).word ∧
        ((f.lane l).hold = .crossGo ↔ (f.lane b).hold = .crossGo) := by
  have free := inMask_candidates (f := f) h
  have mem l : l ∈ laneList (candidates s fid f) ↔ Free f l := (mem_laneList _ l).trans (free l)
  have sorted := laneList_sorted (candidates s fid f)
  cases hl : laneList (candidates s fid f) with
  | nil =>
    refine .inl ⟨formBundle_nil h0 h1 hl, fun l k => ?_⟩
    have := (mem l).2 k
    rw [hl] at this
    cases this
  | cons l0 rest =>
    have e := formBundle_cons h0 h1 hl
    rw [hl] at sorted
    obtain ⟨own, old⟩ := oldest_of_sorted (f := f) rest l0 sorted
    rw [← hl] at own old
    refine .inr ⟨oldestOf f l0 rest, (mem _).1 own, fun l k => old l ((mem l).2 k), fun l => ?_⟩
    have same : ((((f.lane l).hold == .crossGo) == ((f.lane (oldestOf f l0 rest)).hold == .crossGo)) = true) ↔
        ((f.lane l).hold = .crossGo ↔ (f.lane (oldestOf f l0 rest)).hold = .crossGo) := by
      rw [beq_iff_eq, Bool.eq_iff_iff, beq_iff_eq, beq_iff_eq]
    rw [e, inMask_maskOf, Bool.and_eq_true, Bool.and_eq_true, Bool.and_eq_true, free, beq_iff_eq, beq_iff_eq, same, and_assoc, and_assoc]

end

/-! ### Asynchronous faults (R42, R265, R277) -/

/-- The report of an asynchronous fault of a fibre that stands at word n of clause pc. -/
def asyncFlt (f : Fibre) (cause sub : Nat) (pc : DWord) (n : Nat) : Flt :=
  { cause := cause, sub := sub, kind := 1, clause := pc, word := n, rclause := pc, rword := n, lanes := f.liveMask }

theorem freeze_faultsAsync {cause sub n : Nat} {pc : DWord} {w : Option Nat} (hf : s.fib fid = some f) (hc : cause < 256) (hs : sub < 16) :
    FaultsAsync fid f (freeze s fid (asyncFlt f cause sub pc n) ⟨pc, n, n, n, f.liveMask, false⟩ w) cause sub := by
  obtain ⟨issue, x, v, time, hx, lanes, ric⟩ := freeze_some (y := asyncFlt f cause sub pc n) (a := ⟨pc, n, n, n, f.liveMask, false⟩) (w := w) hf
  obtain ⟨e1, e2, e3, e4, e5, e6, -⟩ := faultBits_fields v ((asyncFlt f cause sub pc n).of s fid f.ric) time
  exact ⟨issue, _, _, _, hx, rfl, rfl, ric, lanes, rfl, rfl, rfl, rfl, rfl, e1.trans (Nat.mod_eq_of_lt hc), e2, e3.trans (Nat.mod_eq_of_lt hs),
    e4, e5, e6⟩

theorem asyncFault_faults {cause sub : Nat} {w : Option Nat} (hf : s.fib fid = some f) (hc : cause < 256) (hs : sub < 16) :
    FaultsAsync fid f (asyncFault s fid cause sub w 0 0) cause sub := by
  unfold asyncFault
  rw [hf]
  exact freeze_faultsAsync hf hc hs

theorem asyncFault_only {cause sub : Nat} (v : Option Nat) (w : Writes) : Only s (asyncFault s fid cause sub v 0 0) fid w := by
  refine .of_kept (asyncFault_kept _ _ _ _ _ _) fid w fun _ _ => ?_
  unfold asyncFault
  split
  · exact .refl s
  · exact freeze_sameMem _ _ _ _

/-! ### The count wraps (R34) -/

theorem ricWrap_fib (hf : s.fib fid = some f) : ∃ x, (ricWrap s fid).fib fid = some x ∧ x.ric = 0 ∧ x.wraps = f.wraps + 1 ∧ x.lanes = f.lanes := by
  obtain ⟨x, hx, e⟩ := (produce_logs (s := s) fid 0xB 0xFFFFFFFF ((((s.fib fid).map (·.wraps)).getD 0 + 1) * 2 ^ 30) 0 0 0).some hf
  refine ⟨_, modFib_some hx, rfl, ?_, (congrArg Fibre.lanes e :)⟩
  rw [hf]
  rfl

end Sys2Proof.Machine
end

section
/-!
A chunk that has reached its limit (R302, R306), and the fetch of a clause (R70, R289).
-/

namespace Sys2Proof.Machine

variable {s t u : State} {fid : Nat} {f : Fibre}

/-! ### The record of a chunk (R306) -/

theorem mkRec_toNat (kind fibre ric mid seq : Nat) : (mkRec kind fibre ric mid seq).toNat =
    kind % 16 * 2 ^ 124 + fibre % 2 ^ 14 * 2 ^ 110 + ric % 2 ^ 32 * 2 ^ 78 + mid % 2 ^ 62 * 2 ^ 16 + seq % 2 ^ 16 := by
  unfold mkRec
  rw [BitVec.toNat_ofNat, Nat.mod_eq_of_lt (by omega)]

/-- The CHUNK record of a chunk of d words, ended by its limit. -/
theorem chunkRec_fields (fibre ric d hash : Nat) : let r := mkRec 1 fibre ric (d % 2 ^ 16 * 2 ^ 46 + 1 * 2 ^ 44 + 0 % 2 ^ 32 * 2 ^ 12) hash
    recKind r = 1 ∧ recFibre r = fibre % 2 ^ 14 ∧ recRic r = ric % 2 ^ 32 ∧ fieldOf r 77 62 = d % 2 ^ 16 ∧ fieldOf r 61 60 = 1 ∧ fieldOf r 59 28 = 0 ∧
      fieldOf r 15 0 = hash % 2 ^ 16 := by
  intro r
  have e := mkRec_toNat 1 fibre ric (d % 2 ^ 16 * 2 ^ 46 + 1 * 2 ^ 44 + 0 % 2 ^ 32 * 2 ^ 12) hash
  simp only [recKind, recFibre, recRic, fieldOf, bitsOf, r, e]
  omega

theorem recorder_modRecorder (p k : Nat) (g : Recorder → Recorder) : recorder (modRecorder s p k g) p k = g (recorder s p k) := by
  unfold recorder modRecorder
  rw [State.part_modPart_self]
  exact (AMap.getD_upd _ _ _ _ _).trans (if_pos rfl)

theorem emit_appends {p k : Nat} {r : BitVec 128} (h : (recorder s p k).ended = false) : Appends s (emit s p k r) p k r := by
  unfold Appends emit
  rw [h]
  simp only [Bool.false_eq_true, if_false]
  rw [recorder_modRecorder]
  split <;> rfl

/-- A chunk with words that ends in a recording mode. -/
theorem chunkEnd_recording {reason freed : Nat} (hf : s.fib fid = some f) (h : s.recording (s.partOf fid) = true) (hd : 0 < ricPast f.ric.toNat f.chFrom) :
    chunkEnd s fid reason freed = (emit s (s.partOf fid) (recorderOf fid) (mkRec 1 fid f.ric.toNat ((ricPast f.ric.toNat f.chFrom).toNat % 2 ^ 16 * 2 ^ 46 +
      reason * 2 ^ 44 + freed % 2 ^ 32 * 2 ^ 12) (chunkHash f f.ric.toNat).toNat)).modFib fid fun f' => cutChunk f' f.ric.toNat := by
  unfold chunkEnd
  rw [hf]
  simp only [h, if_true]
  exact if_neg fun k => absurd hd (Int.not_lt.2 k.1)

/-! ### Fetching a clause (R70, R75, R289) -/

/-- The place at which a bundle's fetch faults. -/
def fetchIssue (fid : Nat) (lanes : LaneMask) (pc : DWord) (word : Nat) : Issue := ⟨fid, lanes, pc, word, 0, none, false, 0, false⟩

theorem fetchFault_faults {lanes : LaneMask} {pc : DWord} {word after : Nat} {y : Flt} (hf : s.fib fid = some f) (hy : y.Fits) :
    Faults (fetchIssue fid lanes pc word) f (fetchFault s fid lanes pc word y after) y.cause lanes y.addr y.info y.sub y.breg y.bidx after :=
  raiseAt_faults (c := fetchIssue fid lanes pc word) hf (y := { y with lanes := lanes }) ⟨hy.ric, hy.cause, hy.sub, hy.addr, hy.bidx, hy.breg, hy.info⟩

theorem fetchFault_kept (lanes : LaneMask) (pc : DWord) (word after : Nat) (y : Flt) : Kept s (fetchFault s fid lanes pc word y after) :=
  raiseAt_kept _ _ _

theorem fetchFault_sameMem (lanes : LaneMask) (pc : DWord) (word after : Nat) (y : Flt) : SameMem s (fetchFault s fid lanes pc word y after) :=
  raiseAt_sameMem _ _ _

/-- The report of an address that a fetch cannot use. -/
def fetchFlt (cause sub : Nat) (pc : DWord) : Flt := { cause := cause, sub := sub, addr := pc.toNat, bidx := 1 }

theorem fetchFlt_fits {cause sub : Nat} (pc : DWord) (hc : cause < 256) (hs : sub < 16) : (fetchFlt cause sub pc).Fits :=
  ⟨rfl, hc, hs, pc.isLt, show 1 < 2 ^ 20 by omega, show 0 < 16 by omega, show 0 < 2 ^ 32 by omega⟩

theorem exec_clauseFetch (hf : s.fib fid = some f) (run : f.run = none) (freed : f.freed = 0) (some_ : formBundle s fid f ≠ 0) :
    let l := f.lane (lowLane (formBundle s fid f))
    exec (.clauseFetch fid) s = .next (fetchFor s fid (formBundle s fid f) l.pc l.word) := by
  refine congrArg Host.Outcome.next ?_
  simp only [hf, run, freed, some_, Option.isSome_none, decide_false, Bool.or_false, Bool.false_eq_true, if_false, if_true]

section
variable {lanes : LaneMask} {pc : DWord} {word : Nat}

theorem fetchFor_far (hf : s.fib fid = some f) (h : 2 ^ 57 < pc.toNat + 64) :
    Faults (fetchIssue fid lanes pc word) f (fetchFor s fid lanes pc word) 0x05 lanes pc.toNat 0 0 0 1 word ∧ Only s (fetchFor s fid lanes pc word) fid {} := by
  have e : fetchFor s fid lanes pc word = fetchFault s fid lanes pc word (fetchFlt 0x05 0 pc) word := if_pos h
  rw [e]
  exact ⟨fetchFault_faults hf (fetchFlt_fits pc (by omega) (by omega)),
    .of_kept (fetchFault_kept _ _ _ _ _) _ _ fun _ _ => fetchFault_sameMem _ _ _ _ _⟩

variable (near : ¬ 2 ^ 57 < pc.toNat + 64)
include near

theorem fetchFor_miss (hf : s.fib fid = some f) (h : transWord s fid (s.viOf fid) pc.toNat 512 false true = .miss) :
    Only s (fetchFor s fid lanes pc word) fid {} ∧ ∃ x, (fetchFor s fid lanes pc word).fib fid = some x ∧ x.wait = some .walk ∧
      x.walkReq = [(pc.toNat, false, true, 512)] ∧ x.lanes = f.lanes ∧ x.ric = f.ric := by
  have e : fetchFor s fid lanes pc word = (s.pmCount (coreOf fid) none 9 1).modFib fid fun x =>
      { x with wait := some .walk, walkReq := [(pc.toNat, false, true, 512)] } := by
    unfold fetchFor
    simp only [near, if_false, h]
  rw [e]
  have waits := Kept.fib (s := s.pmCount (coreOf fid) none 9 1) (n := fid) (g := fun x => { x with wait := some .walk, walkReq := [(pc.toNat, false, true, 512)] }) fun _ => rfl
  refine ⟨.of_kept ((pmCount_kept _ _ _ _).trans waits) _ _ fun _ _ => (pmCount_sameMem _ _ _ _).trans .fib, _,
    modFib_some ((State.fib_congr (pmCount_sameFib _ _ _ _).fibres fid).trans hf), rfl, rfl, rfl, rfl⟩

theorem fetchFor_bad {cause sub order : Nat} (hf : s.fib fid = some f) (h : transWord s fid (s.viOf fid) pc.toNat 512 false true = .bad cause sub order)
    (hc : cause < 256) (hs : sub < 16) (mode : s.replaying (s.partOf fid) = false) :
    Faults (fetchIssue fid lanes pc word) f (fetchFor s fid lanes pc word) cause lanes pc.toNat 0 sub 0 1 word ∧ Only s (fetchFor s fid lanes pc word) fid {} := by
  have e : fetchFor s fid lanes pc word = fetchFault (s.modFib fid fun x => { x with walkRes := [] }) fid lanes pc word
      (fetchFlt cause sub pc) word := by
    unfold fetchFor
    simp only [near, if_false, h, mode, Bool.false_and, Bool.false_eq_true, fetchFlt]
  rw [e]
  have hf' := modFib_some (g := fun x => { x with walkRes := [] }) hf
  exact ⟨(fetchFault_faults hf' (fetchFlt_fits pc hc hs) :),
    .of_kept (Kept.trans (Kept.fib (g := fun x => { x with walkRes := [] }) fun _ => rfl) (fetchFault_kept _ _ _ _ _)) _ _ fun _ _ => SameMem.trans .fib (fetchFault_sameMem _ _ _ _ _)⟩

end

/-- What a word's bits must say to transfer control (R75). -/
theorem isTransfer_eq : isTransfer = fun w => decide ((w.getLsbD 31 = true ∧ 0x14 ≤ fieldOf w 30 25 ∧ fieldOf w 30 25 ≤ 0x17) ∨
    (w.getLsbD 31 = false ∧ fieldOf w 30 25 = 0x3E ∧ fieldOf w 24 21 ≤ 5)) := by
  funext w
  unfold isTransfer
  cases h : w.getLsbD 31 <;> simp [Bool.beq_eq_decide_eq]

/-- The header and placement checks of a clause, as R70 lists them. -/
theorem clauseBad_iff (ws : List Word) :
    let h := ws.headD 0
    let flagBad := fun (k : Nat) => k = 12 ∨ k = 13 ∨ k = 14
    clauseBad ws = true ↔ fieldOf h 23 20 = 0 ∨ fieldOf h 31 26 ≠ 0 ∨ flagBad (fieldOf h 15 12) ∨ flagBad (fieldOf h 19 16) ∨
      ((ws.take (fieldOf h 23 20)).drop 1).any isTransfer = true := by
  intro h flagBad
  have head : nth ws 0 0 = h := by cases ws <;> rfl
  have bad (k : Nat) : (12 ≤ k ∧ k < 15) ↔ flagBad k := by unfold flagBad; omega
  have part : ((ws.drop 1).take (fieldOf h 23 20 - 1)) = (ws.take (fieldOf h 23 20)).drop 1 := List.drop_take.symm
  unfold clauseBad
  simp only [head, part, Bool.or_eq_true, Bool.and_eq_true, decide_eq_true_eq, bad, beq_iff_eq, bne_iff_ne, or_assoc]

theorem clauseWords_congr {pa : Nat} (h : t.mem = s.mem) : clauseWords t pa = clauseWords s pa := by
  unfold clauseWords
  rw [h]

/-- A fetch that translates reads its sixteen words at their home, checks them and starts their execution, or faults. -/
theorem fetchFor_ok {lanes : LaneMask} {pc : DWord} {word pa : Nat} (near : ¬ 2 ^ 57 < pc.toNat + 64) (hf : s.fib fid = some f)
    (h : transWord s fid (s.viOf fid) pc.toNat 512 false true = .ok pa) (low : mdState (s.md (lineOf pa)) < 3) :
    Only s (fetchFor s fid lanes pc word) fid { mem := true } ∧ (∀ a, (fetchFor s fid lanes pc word).mem.read a = s.mem.read a) ∧
    if clauseBad (clauseWords s pa) = true then
      Faults (fetchIssue fid lanes pc word) f (fetchFor s fid lanes pc word) 0x02 lanes 0 0 0 0 0
        (if fieldOf ((clauseWords s pa).headD 0) 23 20 = 0 then 16 else word)
    else ∃ x, (fetchFor s fid lanes pc word).fib fid = some x ∧ x.run = some ⟨pc, clauseWords s pa, lanes, word, decide (word ≠ 1)⟩ ∧ x.wait = none ∧
      x.lanes = f.lanes ∧ x.ric = f.ric := by
  have mem := (homeRead_reads false low).mem
  have hf1 := (State.fib_congr (homeRead_slices (s := s) (lineOf pa) false).fibres fid).trans hf
  have head : nth (clauseWords s pa) 0 0 = (clauseWords s pa).headD 0 := rfl
  by_cases bad : clauseBad (clauseWords s pa) = true
  · have e : fetchFor s fid lanes pc word = fetchFault (homeRead s (lineOf pa) false) fid lanes pc word { cause := 0x02 }
        (if fieldOf ((clauseWords s pa).headD 0) 23 20 = 0 then 16 else word) := by
      unfold fetchFor
      simp only [near, if_false, h, clauseWords_congr mem, bad, if_true, head]
    rw [e, if_pos bad]
    refine ⟨.of_kept ((homeRead_kept _ _).trans (fetchFault_kept _ _ _ _ _)) _ _ (fun no => nomatch no), fun a => ?_,
      fetchFault_faults hf1 ⟨rfl, show 0x02 < 256 by omega, show 0 < 16 by omega, Nat.two_pow_pos 64, Nat.two_pow_pos 20, show 0 < 16 by omega,
        Nat.two_pow_pos 32⟩⟩
    rw [(fetchFault_sameMem _ _ _ _ _).mem, mem]
  · have e : fetchFor s fid lanes pc word = startRun (homeRead s (lineOf pa) false) fid lanes pc word (clauseWords s pa) := by
      unfold fetchFor
      simp only [near, if_false, h, clauseWords_congr mem, bad]
      rfl
    rw [e, if_neg bad]
    refine ⟨.of_kept ((homeRead_kept (lineOf pa) false).trans ?_) _ _ (fun no => nomatch no), fun a => congrArg (fun m => Mem.read m a) mem, _, modFib_some hf1, ?_, rfl, rfl,
      rfl⟩
    · exact .fib fun _ => rfl
    · have own : (word != 1) = decide (word ≠ 1) := by
        simp only [ne_eq, decide_not]
        rfl
      exact congrArg (fun b => some (ClauseRun.mk pc (clauseWords s pa) lanes word b)) own

/-! ### Page walks (R288, R290) -/

section
variable (low : ∀ n, mdState (s.md n) < 3)
include low

theorem walkRead_reads (va lvl table : Nat) : Reads s (walkRead va lvl table s) := by
  induction lvl generalizing table s with
  | zero => exact .refl s
  | succ lvl ih =>
    unfold walkRead
    extract_lets a s1 e
    have h1 : Reads s s1 := homeRead_reads _ (low _)
    refine .ite h1 (h1.trans (ih (fun n => ?_) _))
    rcases h1.states n with e | e
    · exact e ▸ low n
    · omega

end

/-- A walk depends on the bytes, the regions and the context's table alone. -/
theorem walk_congr {ctx va : Nat} (hm : t.mem = s.mem) (hr : ∀ n, region t n = region s n) (hc : t.ctx ctx = s.ctx ctx) : walk t ctx va = walk s ctx va := by
  have level lvl table : walkLevel t va lvl table = walkLevel s va lvl table := by
    induction lvl generalizing table with
    | zero => rfl
    | succ lvl ih =>
      unfold walkLevel leafBad
      simp only [hm, hr, ih]
  unfold walk
  rw [hc, level]

theorem finish_congr {w : WalkRes} {va icl : Nat} {wr fe : Bool} (hr : ∀ n, region t n = region s n) : finish t w va icl wr fe = finish s w va icl wr fe := by
  unfold finish leafCheck
  simp only [hr]

/-- What a finished walk leaves with its fibre: the request is answered, and the result stands for the page. -/
def walkKept (r : Nat × Bool × Bool × Nat) (w : WalkRes) (f : Fibre) : Fibre :=
  { f with walkReq := f.walkReq.filter (· != r), walkRes := (r.1 / 2 ^ 16, w) :: f.walkRes.filter fun x => x.1 != r.1 / 2 ^ 16 }

/-- A walk where no failure is withheld: its reads, and its result with the fibre; a leaf that serves the access enters the TLB as well. -/
theorem walkOne_cases (fid : Nat) {r : Nat × Bool × Bool × Nat} (mode : (walkReads (s.viOf fid) r.1 s).replaying ((walkReads (s.viOf fid) r.1 s).partOf fid) = false)
    {x : Fibre} (hx : (walkReads (s.viOf fid) r.1 s).fib fid = some x) :
    let u := walkReads (s.viOf fid) r.1 s
    let w := walk u (s.viOf fid) r.1
    walkOne fid s r = u.modFib fid (walkKept r w) ∨
      ∃ e big, w = .ok e big ∧ walkOne fid s r = (tlbAdd u (coreOf fid) (s.viOf fid) r.1 e big).modFib fid (walkKept r w) := by
  intro u w
  cases hw : w with
  | ok e big =>
    by_cases serves : ∃ pa, finish u (.ok e big) r.1 r.2.2.2 r.2.1 r.2.2.1 = .ok pa
    · obtain ⟨pa, hp⟩ := serves
      refine .inr ⟨e, big, rfl, ?_⟩
      unfold walkOne
      simp only [show walk (walkReads (s.viOf fid) r.1 s) (s.viOf fid) r.1 = .ok e big from hw, hp, u]
      rfl
    · refine .inl ?_
      unfold walkOne
      simp only [show walk (walkReads (s.viOf fid) r.1 s) (s.viOf fid) r.1 = .ok e big from hw]
      split
      · next pa hp => exact absurd ⟨pa, hp⟩ serves
      · rfl
  | bad cause sub order =>
    refine .inl ?_
    unfold walkOne
    simp only [show walk (walkReads (s.viOf fid) r.1 s) (s.viOf fid) r.1 = .bad cause sub order from hw, hx, mode, Bool.false_and, Bool.false_eq_true, if_false]
    rfl

theorem Slices.partOf (h : Slices s t) (n : Nat) : t.partOf n = s.partOf n := by
  have own : t.gridOf n = s.gridOf n := by
    unfold State.gridOf
    simp only [h.fib, h.team, h.grid]
  unfold State.partOf State.partOfCore
  simp only [own, h.cfg]

/-- A leaf that has just entered the TLB serves its page. -/
theorem tlbFind_tlbAdd (c ctx va : Nat) (e : DWord) (big : Bool) : tlbFind (tlbAdd s c ctx va e big) c ctx va =
    some ⟨ctx, if big then va / 2 ^ 29 else va / 2 ^ 16, big, e⟩ := by
  unfold tlbFind tlbAdd
  rw [State.core_modCore, if_pos rfl]
  simp only [List.take_succ_cons, List.find?_cons, beq_self_eq_true, Bool.and_self]

theorem tlbAdd_kept (c ctx va : Nat) (e : DWord) (big : Bool) : Kept s (tlbAdd s c ctx va e big) := .core fun _ => rfl

section
variable {r : Nat × Bool × Bool × Nat} {w : WalkRes}

theorem walkKept_regs (x : Fibre) : (walkKept r w x).regs = x.regs := rfl

theorem walkKept_req (h : f.walkReq = [r]) : (walkKept r w f).walkReq = [] := by
  unfold walkKept
  rw [h]
  simp

/-- Where the TLB misses, the result that has just come back is the page's. -/
theorem transWord_walked {ctx icl : Nat} {wr fe : Bool} (hf : t.fib fid = some (walkKept r w f)) (miss : tlbFind t (coreOf fid) ctx r.1 = none) :
    transWord t fid ctx r.1 icl wr fe = finish t w r.1 icl wr fe := by
  unfold transWord
  rw [miss, hf]
  simp only [walkKept, Option.map_some, Option.getD_some, List.find?_cons, beq_self_eq_true]

/-- Where the leaf has entered the TLB, the TLB serves it. -/
theorem transWord_filled {ctx icl : Nat} {wr fe : Bool} {e : DWord} {big : Bool} {va : Nat} {g : Fibre → Fibre} :
    transWord ((tlbAdd s (coreOf fid) ctx va e big).modFib fid g) fid ctx va icl wr fe =
      finish ((tlbAdd s (coreOf fid) ctx va e big).modFib fid g) (.ok e big) va icl wr fe := by
  have found : tlbFind ((tlbAdd s (coreOf fid) ctx va e big).modFib fid g) (coreOf fid) ctx va =
      some ⟨ctx, if big then va / 2 ^ 29 else va / 2 ^ 16, big, e⟩ := tlbFind_tlbAdd (coreOf fid) ctx va e big
  unfold transWord
  rw [found]

end

theorem pageWalk_answers {va il : Nat} {w e : Bool} (hf : s.fib fid = some f) (req : f.walkReq = [(va, w, e, il)])
    (mode : s.replaying (s.partOf fid) = false) (miss : tlbFind s (coreOf fid) (s.viOf fid) va = none) (low : ∀ n, mdState (s.md n) < 3) :
    Gives (.pageWalkComplete fid) s fun t => Only s t fid { mem := true } ∧ (∀ a, t.mem.read a = s.mem.read a) ∧
      (∃ x, t.fib fid = some x ∧ x.walkReq = [] ∧ x.lanes = f.lanes ∧ x.ric = f.ric) ∧
      ∀ icl wr fe, transWord t fid (s.viOf fid) va icl wr fe = finish s (walk s (s.viOf fid) va) va icl wr fe := by
  have run : exec (.pageWalkComplete fid) s = .next (walkOne fid s (va, w, e, il)) := by
    refine congrArg Host.Outcome.next ?_
    rw [hf]
    simp only [req, List.foldl_cons, List.foldl_nil]
  have slices : Slices s (walkReads (s.viOf fid) va s) := walkReads_slices _ _
  have mem : (walkReads (s.viOf fid) va s).mem = s.mem := (walkRead_reads low _ _ _).mem
  have cases_ := walkOne_cases (s := s) fid (r := (va, w, e, il)) (x := f)
  dsimp only at cases_
  generalize walkReads (s.viOf fid) va s = u at slices mem cases_
  have hx : u.fib fid = some f := (slices.fib fid).trans hf
  have result : walk u (s.viOf fid) va = walk s (s.viOf fid) va := walk_congr mem slices.region (slices.ctx _)
  refine ⟨_, run, ?_⟩
  rcases cases_ (by rw [slices.partOf, slices.replaying, mode]) hx with h | ⟨leaf, big, hw, h⟩
  · rw [h, result]
    refine ⟨.of_kept (slices.kept.then_fib walkKept_regs) _ _ (fun no => nomatch no), fun a => congrArg (fun m => Mem.read m a) mem,
      ⟨_, modFib_some hx, walkKept_req req, rfl, rfl⟩, fun icl wr fe => ?_⟩
    have miss' : tlbFind (u.modFib fid (walkKept (va, w, e, il) (walk s (s.viOf fid) va))) (coreOf fid) (s.viOf fid) va = none :=
      (congrArg (fun k : Core => k.tlb.find? _) (slices.core _)).trans miss
    exact (transWord_walked (modFib_some hx) miss').trans (finish_congr slices.region)
  · rw [h]
    have hx' : (tlbAdd u (coreOf fid) (s.viOf fid) va leaf big).fib fid = some f := hx
    refine ⟨.of_kept ((slices.kept.trans (tlbAdd_kept _ _ _ _ _)).then_fib walkKept_regs) _ _ (fun no => nomatch no),
      fun a => congrArg (fun m => Mem.read m a) mem, ⟨_, modFib_some hx', walkKept_req req, rfl, rfl⟩, fun icl wr fe => ?_⟩
    rw [transWord_filled, ← result, hw]
    exact finish_congr slices.region

end Sys2Proof.Machine
end

section
/-!
Bytes of a line as its core holds them, and the read of a line through the L1 where its home's bytes are current (R220, R221).
-/

namespace Sys2Proof.Machine

variable {s t u : State} {fid : Nat} {f : Fibre}

/-! ### Bytes of a line -/

/-- Byte j of 128. -/
def lineByte (x : BitVec 1024) (j : Nat) : Byte := x.extractLsb' (8 * j) 8

/-- The number whose bytes a predicate sets. -/
theorem setBytes_spec (p : Nat → Bool) (n : Nat) : let x := (List.range n).foldl (fun a i => if p i then a + 255 * 2 ^ (8 * i) else a) 0
    x < 2 ^ (8 * n) ∧ ∀ b, x.testBit b = (decide (b < 8 * n) && p (b / 8)) := by
  induction n with
  | zero => exact ⟨Nat.one_pos, fun b => by simp⟩
  | succ n ih =>
    obtain ⟨lt, bits⟩ := ih
    rw [List.range_succ, List.foldl_append]
    simp only [List.foldl_cons, List.foldl_nil]
    generalize (List.range n).foldl (fun a i => if p i then a + 255 * 2 ^ (8 * i) else a) 0 = x at lt bits
    have pow : 2 ^ (8 * (n + 1)) = 256 * 2 ^ (8 * n) := by rw [Nat.mul_add, Nat.pow_add]; omega
    cases hp : p n with
    | true =>
      simp only [if_true]
      refine ⟨by omega, fun b => ?_⟩
      rw [Nat.add_comm, Nat.mul_comm, Nat.testBit_two_pow_mul_add _ lt]
      split
      · next h =>
        rw [bits, decide_eq_true h, decide_eq_true (by omega : b < 8 * (n + 1))]
      · next h =>
        rw [show (255 : Nat) = 2 ^ 8 - 1 from rfl, Nat.testBit_two_pow_sub_one]
        by_cases k : b < 8 * (n + 1)
        · rw [decide_eq_true k, decide_eq_true (by omega), show b / 8 = n by omega, hp]
          rfl
        · rw [decide_eq_false k, decide_eq_false (by omega)]
          rfl
    | false =>
      simp only [Bool.false_eq_true, if_false]
      refine ⟨by omega, fun b => ?_⟩
      rw [bits]
      by_cases h : b < 8 * n
      · rw [decide_eq_true h, decide_eq_true (by omega : b < 8 * (n + 1))]
      · rw [decide_eq_false h]
        by_cases k : b < 8 * (n + 1)
        · rw [show b / 8 = n by omega, hp, Bool.and_false, Bool.and_false]
        · rw [decide_eq_false k]

theorem bitMask_getLsbD (m : BitVec 128) {b : Nat} (h : b < 1024) : (bitMask m).getLsbD b = m.getLsbD (b / 8) := by
  obtain ⟨lt, bits⟩ := setBytes_spec (fun i => m.getLsbD i) 128
  unfold bitMask
  rw [BitVec.getLsbD_ofNat, bits, decide_eq_true h, Bool.true_and, Bool.true_and]

theorem lineByte_merge (old new : BitVec 1024) (m : BitVec 128) {j : Nat} (h : j < 128) :
    lineByte (mergeBytes old new m) j = if m.getLsbD j then lineByte new j else lineByte old j := by
  unfold lineByte mergeBytes
  refine BitVec.eq_of_getLsbD_eq fun b hb => ?_
  have own : (8 * j + b) / 8 = j := by omega
  have low : 8 * j + b < 1024 := by omega
  cases hm : m.getLsbD j <;>
    simp only [BitVec.getLsbD_extractLsb', BitVec.getLsbD_or, BitVec.getLsbD_and, BitVec.getLsbD_not, bitMask_getLsbD m low, own, hm, hb, low,
      decide_true, Bool.true_and, Bool.and_true, Bool.and_false, Bool.or_false, Bool.false_or, Bool.not_true, Bool.not_false, if_true, if_false,
      Bool.false_eq_true]

/-- The low n bytes of a number, as its bytes give them. -/
theorem bytes_sum (x n : Nat) : x % 256 ^ n = ((List.range n).map fun i => x / 256 ^ i % 256 * 256 ^ i).sum := by
  induction n with
  | zero => simp [Nat.mod_one]
  | succ n ih =>
    rw [List.range_succ, List.map_append, List.sum_append, ← ih, Nat.pow_succ, Nat.mod_mul]
    simp [Nat.mul_comm]

/-- Bytes o up to o + n of a line's data as a number. -/
theorem lineBytes_value (x : BitVec 1024) (o n : Nat) : x.toNat / 2 ^ (8 * o) % 2 ^ (8 * n) =
    ((List.range n).map fun i => (lineByte x (o + i)).toNat * 256 ^ i).sum := by
  rw [show 2 ^ (8 * n) = 256 ^ n from Nat.pow_mul 2 8 n, bytes_sum]
  refine congrArg List.sum (List.map_congr_left fun i _ => ?_)
  unfold lineByte
  rw [BitVec.extractLsb'_toNat, Nat.shiftRight_eq_div_pow, Nat.mul_add, Nat.pow_add, ← Nat.div_div_eq_div_mul, Nat.pow_mul 2 8 i]

theorem readN_sum (m : Mem) (a n : Nat) : m.readN a n = ((List.range n).map fun i => (m.read (a + i)).toNat * 256 ^ i).sum := by
  induction n generalizing a with
  | zero => rfl
  | succ n ih =>
    rw [Mem.readN, ih, List.range_succ_eq_map, List.map_cons, List.sum_cons, List.map_map, ← List.sum_map_mul_left]
    congr 1
    · simp
    · refine congrArg List.sum (List.map_congr_left fun i _ => ?_)
      simp only [Function.comp_apply, Nat.add_assoc, Nat.add_comm 1 i, Nat.pow_succ]
      ring

/-- Byte j of n bytes as memory holds them. -/
theorem readN_byte (m : Mem) (a : Nat) {n j : Nat} (h : j < n) : m.readN a n / 256 ^ j % 256 = (m.read (a + j)).toNat := by
  induction n generalizing a j with
  | zero => omega
  | succ n ih =>
    have := (m.read a).isLt
    rw [Mem.readN]
    cases j with
    | zero =>
      change _ = (m.read a).toNat
      rw [Nat.pow_zero, Nat.div_one]
      omega
    | succ j =>
      rw [Nat.pow_succ', ← Nat.div_div_eq_div_mul, show ((m.read a).toNat + 256 * m.readN (a + 1) n) / 256 = m.readN (a + 1) n by omega,
        ih (a + 1) (by omega), Nat.add_assoc, Nat.add_comm 1 j]

theorem lineByte_memLine (ln : Nat) {j : Nat} (h : j < 128) : lineByte (memLine s ln) j = s.mem.read (ln * 128 + j) := by
  refine BitVec.eq_of_getLsbD_eq fun b hb => ?_
  have e := congrArg (·.testBit b) (readN_byte s.mem (ln * 128) h)
  rw [show (256 : Nat) = 2 ^ 8 from rfl, ← Nat.pow_mul 2 8 j] at e
  simp only [Nat.testBit_mod_two_pow, Nat.testBit_div_two_pow, hb, decide_true, Bool.true_and] at e
  unfold lineByte memLine
  rw [BitVec.getLsbD_extractLsb', BitVec.getLsbD_ofNat, decide_eq_true hb, decide_eq_true (by omega : 8 * j + b < 1024), Bool.true_and, Bool.true_and,
    Nat.add_comm, e]
  rfl

end Sys2Proof.Machine
end

section
/-!
A read through the L1 of a line whose home's bytes are current: it gives the bytes that the core sees, and no byte of memory changes (R220, R221).
-/

namespace Sys2Proof.Machine

variable {s t u : State} {fid : Nat} {f : Fibre}

/-- A read of core k at a line meets no error, no copy outside that is newer and no full L1. -/
structure Served (s : State) (k ln : Nat) : Prop where
  low   : mdState (s.md ln) < 3
  good  : Good s ln
  errs  : ∀ n, s.hbm.remapErr.get? n = none
  clean : linePoison s ln = false ∧ (s.l1 k ln).poison = false
  fresh : ∀ i < 128, (s.l1 k ln).valid.getLsbD i = true → (s.l1 k ln).dirty.getLsbD i = false → lineByte (s.l1 k ln).data i = s.mem.read (ln * 128 + i)
  room  : (s.core k).l1.length < 1024

/-- What a read through the L1 of core k leaves alone. -/
structure L1Reads (s t : State) (k : Nat) : Prop where
  kept   : Kept s t
  mem    : t.mem = s.mem
  fibres : t.fibres = s.fibres
  lrec   : (t.core k).lrec = (s.core k).lrec
  modes  : ∀ p, t.recording p = s.recording p

theorem L1Reads.refl (s : State) (k : Nat) : L1Reads s s k := ⟨.refl s, rfl, rfl, rfl, fun _ => rfl⟩

theorem L1Reads.trans {k : Nat} (h : L1Reads s t k) (j : L1Reads t u k) : L1Reads s u k :=
  ⟨h.kept.trans j.kept, j.mem.trans h.mem, j.fibres.trans h.fibres, j.lrec.trans h.lrec, fun p => (j.modes p).trans (h.modes p)⟩

/-- Bytes o up to o + n of a line's data, byte by byte those that the core sees, are the number that it sees. -/
theorem seenN_of_bytes {k a n : Nat} {x : BitVec 1024} (e : ∀ i < n, lineByte x (a % 128 + i) = seenByte s k (a + i)) :
    x.toNat / 2 ^ (8 * (a % 128)) % 2 ^ (8 * n) = seenN s k a n := by
  rw [lineBytes_value]
  unfold seenN bytesOf
  refine congrArg List.sum (List.map_congr_left fun i hi => ?_)
  rw [e i (List.mem_range.1 hi)]

/-- The byte that core k sees at place j of a line. -/
theorem seenByte_at {k a i : Nat} (h : a % 128 + i < 128) : seenByte s k (a + i) =
    if ((s.l1 k (a / 128)).valid ||| (s.l1 k (a / 128)).dirty).getLsbD (a % 128 + i) then lineByte (s.l1 k (a / 128)).data (a % 128 + i)
    else s.mem.read (a / 128 * 128 + (a % 128 + i)) := by
  unfold seenByte lineByte
  rw [show (a + i) / 128 = a / 128 by omega, show (a + i) % 128 = a % 128 + i by omega, show a / 128 * 128 + (a % 128 + i) = a + i by omega]

theorem byteMask_getLsbD {o n j : Nat} (h : j < 128) : (byteMask o n).getLsbD j = (decide (o ≤ j) && decide (j - o < n)) := by
  unfold byteMask
  rw [BitVec.getLsbD_ofNat, decide_eq_true h, Bool.true_and, Nat.testBit_mul_two_pow, Nat.testBit_two_pow_sub_one]

/-- Where the L1 holds every byte of an access, its data are what the core sees. -/
theorem l1_hit {k a n : Nat} (h : a % 128 + n ≤ 128) (hit : byteMask (a % 128) n &&& ~~~ ((s.l1 k (a / 128)).valid ||| (s.l1 k (a / 128)).dirty) = 0)
    {i : Nat} (hi : i < n) : lineByte (s.l1 k (a / 128)).data (a % 128 + i) = seenByte s k (a + i) := by
  have low : a % 128 + i < 128 := by omega
  have bit := congrArg (·.getLsbD (a % 128 + i)) (show _ = 0#128 from hit)
  simp only [BitVec.getLsbD_and, BitVec.getLsbD_not, byteMask_getLsbD low, low, decide_true, Bool.true_and, show a % 128 ≤ a % 128 + i by omega,
    show a % 128 + i - a % 128 < n by omega, BitVec.getLsbD_zero, Bool.not_eq_false'] at bit
  rw [seenByte_at low, if_pos bit]

/-- Memory's bytes under the core's own dirty bytes are what the core sees. -/
theorem l1_fill {k a n : Nat} (h : a % 128 + n ≤ 128) (hs : Served s k (a / 128)) {i : Nat} (hi : i < n) :
    lineByte (mergeBytes (memLine s (a / 128)) (s.l1 k (a / 128)).data (s.l1 k (a / 128)).dirty) (a % 128 + i) = seenByte s k (a + i) := by
  have low : a % 128 + i < 128 := by omega
  rw [seenByte_at low, lineByte_merge _ _ _ low, lineByte_memLine _ low, BitVec.getLsbD_or]
  cases hd : (s.l1 k (a / 128)).dirty.getLsbD (a % 128 + i) with
  | true => simp only [Bool.or_true, if_true]
  | false =>
    cases hv : (s.l1 k (a / 128)).valid.getLsbD (a % 128 + i) with
    | true => simp only [Bool.or_false, Bool.false_eq_true, if_false, if_true, hs.fresh _ low hv hd]
    | false => simp only [Bool.or_false, Bool.false_eq_true, if_false]

/-- What counting leaves alone beside the counters. -/
theorem pmCount_reads (j : Nat) (sl : Option Nat) (ev n k : Nat) : L1Reads s (s.pmCount j sl ev n) k := by
  refine ⟨pmCount_kept _ _ _ _, (pmCount_sameMem _ _ _ _).mem, (pmCount_sameFib _ _ _ _).fibres, ?_, fun p => ?_⟩
  · unfold State.pmCount
    split
    · rfl
    · rw [State.core_modCore]
      split
      · next e =>
        subst e
        unfold Core.pmCount
        split <;> rfl
      · rfl
  · unfold State.recording
    rw [((pmCount_sameMem _ _ _ _).parts p).2.1]

/-- A count changes nothing that a read through the L1 keeps, nor an L1. -/
theorem countRequest_reads (k ln : Nat) : L1Reads t (countRequest s k ln t) k ∧ ∀ j, ((countRequest s k ln t).core j).l1 = (t.core j).l1 := by
  unfold countRequest
  split
  · exact ⟨pmCount_reads _ _ _ _ _, (pmCount_sameMem _ _ _ _).l1⟩
  · extract_lets s2
    have h2 : L1Reads t s2 k := (pmCount_reads _ _ _ _ _).trans (pmCount_reads _ _ _ _ _)
    have l2 : ∀ j, (s2.core j).l1 = (t.core j).l1 := ((pmCount_sameMem _ _ _ _).trans (pmCount_sameMem _ _ _ _)).l1
    split
    · exact ⟨h2.trans (pmCount_reads _ _ _ _ _), fun j => ((pmCount_sameMem _ _ _ _).l1 j).trans (l2 j)⟩
    · exact ⟨h2, l2⟩

/-- A home read where nothing is newer elsewhere, as the core that asks for it sees it. -/
theorem homeRead_l1Reads {ln : Nat} (nt : Bool) (k : Nat) (low : mdState (s.md ln) < 3) : L1Reads s (homeRead s ln nt) k :=
  ⟨homeRead_kept _ _, (homeRead_reads nt low).mem, (homeRead_slices ln nt).fibres, congrArg Core.lrec ((homeRead_slices ln nt).core k),
    (homeRead_slices ln nt).recording⟩

/-- A home read of a line without an error finds no poison. -/
theorem homeRead_clean {k ln : Nat} (nt : Bool) (h : Served s k ln) : linePoison (homeRead s ln nt) ln = false := by
  have slices : Slices s (homeRead s ln nt) := homeRead_slices _ _
  have md := ((homeRead_reads nt h.low).good ln h.good).2
  have fence := (slices.errs h.errs).2
  have e : linePoison (homeRead s ln nt) ln = linePoison s ln := by
    unfold linePoison reachable homeOf fenced
    simp only [md, slices.fabric, slices.placeOf, fence]
  rw [e, h.clean.1]

/-- The L1 line that a fill makes. -/
def filled (s s1 : State) (k ln : Nat) : L1Line :=
  { s.l1 k ln with data := mergeBytes (memLine s1 ln) (s.l1 k ln).data (s.l1 k ln).dirty, valid := BitVec.allOnes 128, poison := linePoison s1 ln }

theorem l1Fill_reads {k ln : Nat} (nt : Bool) (h : Served s k ln) :
    L1Reads s (l1Fill s k ln nt) k ∧ (l1Fill s k ln nt).l1 k ln = filled s (homeRead s ln nt) k ln := by
  unfold l1Fill
  extract_lets s1 s2
  have h1 : L1Reads s s1 k := homeRead_l1Reads nt k h.low
  obtain ⟨counted, l1⟩ := countRequest_reads (s := s) (t := s1) k ln
  have own : (countRequest s k ln s1).l1 k ln = s.l1 k ln := by
    unfold State.l1
    rw [l1, (homeRead_slices ln nt).core]
  have room : s2 = countRequest s k ln s1 := by
    unfold s2 l1Room
    rw [l1, (homeRead_slices ln nt).core]
    simp only [h.room, decide_true, Bool.true_or, if_true]
  rw [room]
  refine ⟨(h1.trans counted).trans ⟨.core fun _ => rfl, rfl, rfl, ?_, fun _ => rfl⟩, ?_⟩
  · rw [State.core_modCore, if_pos rfl]
  · unfold filled
    rw [← own]
    unfold State.l1
    rw [State.core_modCore, if_pos rfl]
    dsimp only
    rw [AMap.getD_upd, if_pos rfl]

/-- A read through the L1 gives what the core sees, without poison. -/
theorem l1Read_sees {k a n : Nat} (h : a % 128 + n ≤ 128) (hs : Served s k (lineOf a)) :
    let r := l1Read s k a n false false
    r.1 = seenN s k a n ∧ r.2.1 = false ∧ L1Reads s r.2.2 k := by
  intro r
  by_cases hit : byteMask (a % 128) n &&& ~~~ ((s.l1 k (a / 128)).valid ||| (s.l1 k (a / 128)).dirty) = 0
  · have e : r = ((s.l1 k (a / 128)).data.toNat / 2 ^ (8 * (a % 128)) % 2 ^ (8 * n),
        (s.l1 k (a / 128)).poison && (byteMask (a % 128) n &&& ~~~ (s.l1 k (a / 128)).dirty != 0), s) := if_pos hit
    rw [e]
    exact ⟨seenN_of_bytes fun i hi => l1_hit h hit hi, by rw [hs.clean.2, Bool.false_and], .refl s k⟩
  · have e : r = (((l1Fill s k (a / 128) false).l1 k (a / 128)).data.toNat / 2 ^ (8 * (a % 128)) % 2 ^ (8 * n),
        ((l1Fill s k (a / 128) false).l1 k (a / 128)).poison && (byteMask (a % 128) n &&& ~~~ ((l1Fill s k (a / 128) false).l1 k (a / 128)).dirty != 0),
        l1Fill s k (a / 128) false) := if_neg hit
    obtain ⟨reads, own⟩ := l1Fill_reads false hs
    have mem : memLine (homeRead s (a / 128) false) (a / 128) = memLine s (a / 128) := by
      unfold memLine
      rw [(homeRead_reads false hs.low).mem]
    rw [e, own]
    refine ⟨seenN_of_bytes fun i hi => ?_, ?_, reads⟩
    · unfold filled
      rw [mem]
      exact l1_fill h hs hi
    · unfold filled
      rw [homeRead_clean false hs, Bool.false_and]

end Sys2Proof.Machine
end

section
/-!
O40: what befalls a fibre between its words. The record fill reads its line through the L1 and enters the core's record cache (R184); each other event is
settled by what it leaves in its fibre.
-/

namespace Sys2Proof.Machine

variable {s t u : State} {fid : Nat} {f : Fibre}

/-- Where nothing is logged or replayed, an access advances its line's epoch state alone. -/
theorem lineAccess_plain {ric ln va kind : Nat} (rec_ : s.recording (s.partOf fid) = false) (rep : s.replaying (s.partOf fid) = false) :
    ∃ g, (∀ l, (g l).md = l.md) ∧ lineAccess s fid ric ln va kind = s.modLine ln g := by
  refine ⟨fun l => { l with ep := { (epNext (s.line ln).ep s.fabric.device fid kind).1 with
    vline := if l.ep.st = .untouched then va / 128 else l.ep.vline } }, fun _ => rfl, ?_⟩
  unfold lineAccess
  simp only [rec_, rep, Bool.false_and, Bool.or_false, Bool.false_eq_true, if_false]
  split
  · rfl
  · rfl

/-- A read where nothing is staged or replayed goes through the L1. -/
theorem readAcc_plain {o : Op} {a : Acc} {nt : Bool} {ga n : Nat} (of_ : o.fibre = fid) (ord : t.ordered (t.partOf fid) = false)
    (rec_ : t.recording (t.partOf fid) = false) (rep : t.replaying (t.partOf fid) = false) (rep0 : s.replaying (s.partOf fid) = false)
    (at_ : gaddr t a.home a.pa = ga) (size : a.size = n) : readAcc s t o a nt = l1Read t (coreOf fid) ga n nt false := by
  subst of_ at_ size
  unfold readAcc stagingTeam readsCairn slicePerformed
  simp only [ord, rec_, rep, rep0, Bool.false_and, Bool.or_false, Bool.false_eq_true, if_false]

theorem ifRecorded_plain {p : Nat} (h : t.recording p = false) : ifRecorded s p t = t := by
  unfold ifRecorded overRecorded
  rw [h]
  rfl

/-- Nothing stands in the way of a read that a core sees, once its epoch state has advanced. -/
theorem Sees.served {k ln : Nat} (h : Sees s k ln) (room : (s.core k).l1.length < 1024) (r : Reads s t) (hc : t.cores = s.cores)
    (hh : t.hbm = s.hbm) (hf : t.fabric = s.fabric) : Served t k ln := by
  obtain ⟨bit, errs, remap⟩ := h.good
  have good : Good s ln := ⟨errs, bit, Nat.lt_of_lt_of_le h.home (by omega)⟩
  have md := (r.good ln good).2
  have l1 j : t.l1 k j = s.l1 k j := congrArg (fun m => ((AMap.getD m k Core.init).l1).getD j L1Line.empty) hc
  refine ⟨md ▸ h.home, r.good_of good, by rw [hh]; exact remap, ⟨?_, by rw [l1]; exact h.poison.2⟩, fun i hi hv hd => ?_, ?_⟩
  · have e : linePoison t ln = linePoison s ln := by
      unfold linePoison reachable homeOf fenced placeOf region State.stack
      simp only [md, hh, hf]
    rw [e]
    exact h.poison.1
  · rw [l1] at hv hd ⊢
    rw [r.mem]
    exact h.fresh i hi hv hd
  · exact (congrArg (fun m => ((AMap.getD m k Core.init).l1).length) hc).trans_lt room

/-- A core with a record in its cache (R184). -/
def cacheRec (ga v : Nat) (k : Core) : Core := { k with lrec := ((ga, BitVec.ofNat 512 v) :: k.lrec).take 64 }

theorem cacheRec_pads (ga v : Nat) (k : Core) : (cacheRec ga v k).pads = k.pads := rfl

theorem lrecFill_answers {ga va : Nat} (hf : s.fib fid = some f) (req : f.lrecReq = some (ga, va)) (mode : PlainMode s (s.partOf fid))
    (al : ga % 64 = 0) (near : ga < 2 ^ 41) (sees : Sees s (coreOf fid) (lineOf ga)) (room : (s.core (coreOf fid)).l1.length < 1024) :
    Gives (.lrecFillComplete fid) s fun t => Only s t fid { mem := true } ∧ (∀ a, t.mem.read a = s.mem.read a) ∧
      (t.core (coreOf fid)).lrec = ((ga, BitVec.ofNat 512 (seenN s (coreOf fid) ga 64)) :: (s.core (coreOf fid)).lrec).take 64 ∧
      ∃ x, t.fib fid = some x ∧ x.lrecReq = none ∧ x.lanes = f.lanes ∧ x.ric = f.ric := by
  obtain ⟨rec_, rep, ord⟩ := mode
  have local_ : isRemote (lineOf ga) = false := decide_eq_false (by unfold lineOf; omega)
  obtain ⟨g, hg, acc⟩ := lineAccess_plain (ric := (heldOp s fid).ric.toNat) (ln := lineOf ga) (va := va) (kind := 0) rec_ rep
  -- The state in which the line is read.
  obtain ⟨s0, hs0⟩ : ∃ s0, s0 = (s.modLine (lineOf ga) g).modFib fid fun x => { x with lrecReq := none } := ⟨_, rfl⟩
  have reads : Reads s s0 := hs0 ▸ (Reads.line hg).trans (.of_eq rfl rfl rfl rfl rfl)
  have kept : Kept s s0 := hs0 ▸ Kept.line.then_fib fun _ => rfl
  have part : s0.partOf fid = s.partOf fid :=
    hs0 ▸ (partOf_kept (Kept.fib (g := fun x => { x with lrecReq := none }) fun _ => rfl) .fib fid).trans (Slices.line.partOf fid)
  have parts : s0.parts = s.parts := hs0 ▸ rfl
  have cores : s0.cores = s.cores := hs0 ▸ rfl
  have hf0 : s0.fib fid = some { f with lrecReq := none } := hs0 ▸ modFib_some hf
  have served : Served s0 (coreOf fid) (lineOf ga) := sees.served room reads cores (hs0 ▸ rfl) (hs0 ▸ rfl)
  have flat p : s0.recording p = s.recording p ∧ s0.replaying p = s.replaying p ∧ s0.ordered p = s.ordered p := by
    unfold State.recording State.replaying State.ordered State.inReplayMode State.part
    simp only [parts, and_self]
  have addr : gaddr s0 (homeOf s (lineOf ga)) ga = ga := by
    have dev : s0.fabric.device = s.fabric.device := hs0 ▸ rfl
    unfold gaddr homeOf
    rw [local_, dev]
    exact if_pos rfl
  have seen : seenN s0 (coreOf fid) ga 64 = seenN s (coreOf fid) ga 64 := by
    unfold seenN seenByte State.l1 State.core
    rw [cores, reads.mem]
  obtain ⟨value, clean, rest⟩ := l1Read_sees (n := 64) (by omega) served
  have run : exec (.lrecFillComplete fid) s = .next ((l1Read s0 (coreOf fid) ga 64 false false).2.2.modCore (coreOf fid)
      (cacheRec ga (l1Read s0 (coreOf fid) ga 64 false false).1)) := by
    refine congrArg Host.Outcome.next ?_
    have turn : replayTurn s fid (heldOp s fid).ric.toNat (lineOf ga) va = true := by
      unfold replayTurn
      rw [rep]
      rfl
    have read : readAcc s s0 (heldOp s fid) ⟨0, 0, va, ga, homeOf s (lineOf ga), 64, 0, 0⟩ false = l1Read s0 (coreOf fid) ga 64 false false :=
      readAcc_plain rfl (by rw [part, (flat _).2.2, ord]) (by rw [part, (flat _).1, rec_]) (by rw [part, (flat _).2.1, rep]) rep addr rfl
    simp only [hf, Option.bind_some, req, sees.held, turn, Bool.not_true, Bool.or_false, Bool.false_eq_true, if_false, acc, ← hs0, local_,
      read, clean]
    exact ifRecorded_plain (((rest.modes _).trans (flat _).1).trans rec_)
  refine ⟨_, run, .of_kept ((kept.trans rest.kept).then_core (cacheRec_pads _ _)) _ _ (fun no => nomatch no), fun a => ?_, ?_, { f with lrecReq := none }, ?_, rfl,
    rfl, rfl⟩
  · exact congrArg (fun m => Mem.read m a) (rest.mem.trans reads.mem)
  · rw [State.core_modCore, if_pos rfl]
    unfold cacheRec
    rw [value, seen, rest.lrec]
    unfold State.core
    rw [cores]
  · exact (congrArg (fun m => AMap.get? m fid) rest.fibres).trans hf0

theorem chunkLimit_answers (hf : s.fib fid = some f) (mode : s.recording (s.partOf fid) = true)
    (open_ : (recorder s (s.partOf fid) (recorderOf fid)).ended = false) (some_ : 0 < ricPast f.ric.toNat f.chFrom)
    (full : (fieldOf (s.part (s.partOf fid)).rrctl 31 16 : Int) ≤ ricPast f.ric.toNat f.chFrom) :
    Gives (.chunkLimit fid) s fun t => Only s t fid {} ∧ (∃ x, t.fib fid = some x ∧ x.chFrom = f.ric ∧ x.lanes = f.lanes ∧ x.ric = f.ric) ∧
      ∃ r, Appends s t (s.partOf fid) (recorderOf fid) r ∧ recKind r = 1 ∧ recFibre r = fid % 2 ^ 14 ∧ recRic r = f.ric.toNat ∧
        fieldOf r 77 62 = (ricPast f.ric.toNat f.chFrom).toNat % 2 ^ 16 ∧ fieldOf r 61 60 = 1 ∧ fieldOf r 59 28 = 0 ∧
        fieldOf r 15 0 = (chunkHash f f.ric.toNat).toNat := by
  have run : exec (.chunkLimit fid) s = .next (chunkEnd s fid 1 0) := by
    refine congrArg Host.Outcome.next ?_
    unfold chunkLimit chMax
    rw [hf]
    simp only [mode, full, decide_true, Bool.and_self, if_true]
  refine ⟨_, run, .of_kept (chunkEnd_kept _ _ _) _ _ fun _ _ => chunkEnd_sameMem _ _ _, ?_⟩
  rw [chunkEnd_recording hf mode some_]
  obtain ⟨x, hx, e⟩ := (emit_logs (s := s) (s.partOf fid) (recorderOf fid) (mkRec 1 fid f.ric.toNat ((ricPast f.ric.toNat f.chFrom).toNat % 2 ^ 16 * 2 ^ 46 +
    1 * 2 ^ 44 + 0 % 2 ^ 32 * 2 ^ 12) (chunkHash f f.ric.toNat).toNat)).some hf
  obtain ⟨kind, fibre, ric, past, reason, free, hash⟩ := chunkRec_fields fid f.ric.toNat (ricPast f.ric.toNat f.chFrom).toNat (chunkHash f f.ric.toNat).toNat
  refine ⟨⟨_, modFib_some hx, ?_, (congrArg Fibre.lanes e :), (congrArg Fibre.ric e :)⟩, _, emit_appends open_, kind, fibre, ?_, past, reason, free, ?_⟩
  · unfold cutChunk
    exact BitVec.ofNat_toNat _ _ |>.trans (BitVec.setWidth_eq _)
  · exact ric.trans (Nat.mod_eq_of_lt f.ric.isLt)
  · exact hash.trans (Nat.mod_eq_of_lt (chunkHash f f.ric.toNat).isLt)

end Sys2Proof.Machine

namespace Sys2Proof.Proofs

open Machine

/-- Settles O40: each event by what it leaves in its fibre. -/
theorem fibreEvents : Obligations.FibreEvents := by
  unfold Obligations.FibreEvents
  intro s fid f hf
  refine ⟨fun h0 h1 mode => ?bundle, fun run freed some_ => ?fetch, fun va w e il req mode miss low => pageWalk_answers hf req mode miss low,
    fun ga va req mode al near sees room => lrecFill_answers hf req mode al near sees room, fun full => ?wrap, fun sched run atom mode due => ?watch,
    fun intr atom stop sched => ?intr, fun sched late => ?drowsy, fun mode open_ some_ full => chunkLimit_answers hf mode open_ some_ full⟩
  case bundle =>
    intro may lanes
    rcases formBundle_free h0 h1 mode with ⟨none_, no⟩ | ⟨b, free, old, in_⟩
    · exact ⟨⟨fun _ => no, fun _ => none_⟩, fun some_ => absurd none_ some_⟩
    · have own : inMask lanes b = true := (in_ b).2 ⟨free, rfl, rfl, Iff.rfl⟩
      have some_ : lanes ≠ 0 := fun z => by
        rw [z, inMask_zero] at own
        cases own
      exact ⟨⟨fun z => absurd z some_, fun no => absurd free (no b)⟩, fun _ => ⟨b, free, old, in_⟩⟩
  case fetch =>
    refine ⟨_, exec_clauseFetch hf run freed some_, ?_⟩
    beta_reduce
    intro lanes pc word c
    by_cases far : 2 ^ 57 < pc.toNat + 64
    · rw [if_pos far]
      exact fetchFor_far hf far
    · rw [if_neg far]
      split
      · next h => exact fetchFor_miss far hf h
      · next h => exact fun hc hs mode => fetchFor_bad far hf h hc hs mode
      · next pa h =>
        intro low ws hd n flagBad transfer
        obtain ⟨only, mem, post⟩ := fetchFor_ok (lanes := lanes) (word := word) far hf h low
        refine ⟨only, mem, ?_⟩
        have checks := clauseBad_iff (clauseWords s pa)
        rw [isTransfer_eq] at checks
        by_cases bad : clauseBad (clauseWords s pa) = true
        · rw [if_pos bad] at post
          exact (if_pos (checks.1 bad)).mpr post
        · rw [if_neg bad] at post
          exact (if_neg fun k => bad (checks.2 k)).mpr post
  case wrap =>
    have run : exec (.ricWrap fid) s = .next (ricWrap s fid) := by
      refine congrArg Host.Outcome.next ?_
      rw [hf]
      exact if_pos full
    exact ⟨_, run, .of_kept (ricWrap_kept _) _ _ fun _ _ => ricWrap_sameMem _, ricWrap_fib hf⟩
  case watch =>
    have due_ : watchDue s fid f = true := by
      unfold watchDue
      simp only [mode, due, decide_true, Bool.or_true, Bool.not_false, Bool.and_self]
    have run_ : exec (.watchdogFault fid) s = .next (asyncFault s fid 0x0C 0 (some 0) 0 0) := by
      refine congrArg Host.Outcome.next ?_
      rw [hf]
      simp only [sched, run, atom, due_, decide_true, Option.isNone_none, Bool.not_false, Bool.and_self, if_true]
    exact ⟨_, run_, asyncFault_faults hf (by omega) (by omega), asyncFault_only _ _⟩
  case intr =>
    have stop_ : (f.run.isNone || f.wait.isSome) = true := by
      rcases stop with h | h
      · rw [h]; rfl
      · rw [h, Bool.or_true]
    have run_ : exec (.intrFreeze fid) s = .next (asyncFault s fid 0x0E 1 (some 0) 0 0) := by
      refine congrArg Host.Outcome.next ?_
      rw [hf]
      simp only [intr, atom, stop_, bne_iff_ne.2 sched, Bool.not_false, Bool.and_self, if_true]
    exact ⟨_, run_, asyncFault_faults hf (by omega) (by omega), asyncFault_only _ _⟩
  case drowsy =>
    refine congrArg Host.Outcome.next ?_
    rw [hf]
    simp only [sched, late, decide_true, Bool.and_self, if_true]

end Sys2Proof.Proofs
end

section
/-!
Writes at the home slice of a line of this device, where nothing is fenced, captured or compressed: the bytes written are there, the line has no copy outside
any more, and where none was newer every other byte stands (R331, R341, R345).
-/

namespace Sys2Proof.Machine

variable {s t u : State} {fid : Nat} {f : Fibre}

/-! ### Memory -/

/-- Bytes of a masked write. -/
theorem Mem.read_writeMask_in {m : Mem} (h : m.wf = true) {a n x : Nat} (v k : Nat) (lo : a ≤ x) (hi : x < a + n) :
    (m.writeMask a n v k).read x = if k.testBit (x - a) then BitVec.ofNat 8 (v / 256 ^ (x - a)) else m.read x := by
  induction n generalizing m a v k with
  | zero => omega
  | succ n ih =>
    have wf : (if k % 2 = 1 then m.write a (BitVec.ofNat 8 (v % 256)) else m).wf = true := by
      split
      · exact Mem.write_wf h _ _
      · exact h
    rw [Mem.writeMask]
    by_cases e : x = a
    · subst e
      rw [Mem.read_writeMask_out wf _ _ (.inl (Nat.lt_succ_self _)), Nat.sub_self, Nat.testBit_zero, Nat.pow_zero, Nat.div_one]
      by_cases bit : k % 2 = 1
      · rw [if_pos bit, Mem.read_write_self h, if_pos (decide_eq_true bit)]
        exact BitVec.eq_of_toNat_eq (by simp)
      · rw [if_neg bit, if_neg (by simpa using bit)]
    · rw [ih wf _ _ (by omega) (by omega)]
      have next : x - a = x - (a + 1) + 1 := by omega
      rw [next, Nat.testBit_succ, Nat.pow_succ', ← Nat.div_div_eq_div_mul]
      have kept : (if k % 2 = 1 then m.write a (BitVec.ofNat 8 (v % 256)) else m).read x = m.read x := by
        split
        · exact Mem.read_write_ne h _ e
        · rfl
      rw [kept]

/-- A memory differs from another in the bytes of one line alone. -/
structure Within (ln : Nat) (m m0 : Mem) : Prop where
  wf  : m0.wf = true
  out : ∀ y, y / 128 ≠ ln → m0.read y = m.read y

theorem Within.writeMask {ln : Nat} {m : Mem} (h : m.wf = true) (v k : Nat) : Within ln m (m.writeMask (ln * 128) 128 v k) :=
  ⟨Mem.writeMask_wf h _ _ _ _, fun y hy => Mem.read_writeMask_out h _ _ (by omega)⟩

/-! ### The steps of a write -/

/-- The STATE of every line is as it was, or I. -/
def States (s t : State) : Prop := ∀ n, mdState (t.md n) = mdState (s.md n) ∨ mdState (t.md n) = 0

theorem States.refl (s : State) : States s s := fun _ => .inl rfl

theorem States.trans (h : States s t) (k : States t u) : States s u := fun n => (k n).elim (fun e => (h n).imp e.trans e.trans) .inr

theorem States.of_md (h : ∀ n, t.md n = s.md n) : States s t := fun n => .inl (by rw [h n])

/-- The metadata of a line are set to a STATE that it has, or to I. -/
theorem States.line {ln : Nat} {g : LineInfo → LineInfo} (h : mdState (g (s.line ln)).md = mdState (s.md ln) ∨ mdState (g (s.line ln)).md = 0) :
    States s (s.modLine ln g) := by
  intro n
  unfold State.md
  rw [State.line_modLine]
  split
  · next e => subst e; exact h
  · exact .inl rfl

theorem mdState_lt (m : BitVec 16) : mdState m < 8 := by
  unfold mdState fieldOf bitsOf
  omega

section Steps
variable {ln : Nat}

theorem lineWrite_plain (h : Plain s ln) (d : BitVec 1024) (m : BitVec 128) :
    lineWrite s ln d m = { s with mem := s.mem.writeMask (ln * 128) 128 d.toNat m.toNat } := by
  unfold lineWrite
  rw [h.comp, Bool.and_false]
  rfl

/-- Where nothing is captured, the capture check at most renews the line's EPOCH. -/
theorem undoCapture_plain (h : Plain s ln) : (undoCapture s ln).mem = s.mem ∧ States s (undoCapture s ln) := by
  unfold undoCapture
  extract_lets p pt l mark
  have none_ : capturing s p = false := h.undo p
  have marked : (mark s).mem = s.mem ∧ States s (mark s) := by
    refine ⟨rfl, .line (.inl ?_)⟩
    rw [mdState_mdMake]
    exact Nat.mod_eq_of_lt (mdState_lt _)
  rw [none_]
  simp only [Bool.false_eq_true, if_false]
  split
  · exact ⟨rfl, .refl s⟩
  · split
    · exact ⟨rfl, .refl s⟩
    · split
      · exact marked
      · exact ⟨rfl, .refl s⟩

/-- A recall changes the line's own bytes alone. -/
theorem recallData_plain (h : Plain s ln) : Within ln s.mem (recallData s ln).mem ∧ States s (recallData s ln) := by
  obtain ⟨mem, states⟩ := undoCapture_plain h
  have plain : Plain (undoCapture s ln).drawFree.2 ln :=
    ((undoCapture_slices ln).trans .drawFree).plain (by rw [show (undoCapture s ln).drawFree.2.mem = (undoCapture s ln).mem from rfl, mem]; exact h.wf) h
  unfold recallData
  extract_lets s1 d
  obtain ⟨k, e⟩ : ∃ k, lineWrite d.2 ln d.1 (BitVec.allOnes 128) = { d.2 with mem := d.2.mem.writeMask (ln * 128) 128 d.1.toNat k } :=
    ⟨_, lineWrite_plain plain _ _⟩
  rw [e]
  have drawn : d.2.mem = s.mem := mem
  have written : Within ln s.mem (d.2.mem.writeMask (ln * 128) 128 d.1.toNat k) := by
    rw [drawn]
    exact .writeMask h.wf _ _
  refine ⟨written, (states.trans ?_).trans (.line (.inl rfl))⟩
  · exact .of_md fun n => congrArg LineInfo.md (line_congr rfl rfl rfl n)

theorem snoopData_plain (h : Plain s ln) : Within ln s.mem (snoopData s ln).mem ∧ States s (snoopData s ln) := by
  unfold snoopData
  split
  · obtain ⟨mem, states⟩ := recallData_plain h
    exact ⟨mem, states.trans (.of_md fun n => congrArg LineInfo.md (line_congr rfl rfl rfl n))⟩
  · exact ⟨⟨h.wf, fun _ _ => rfl⟩, .refl s⟩

theorem setMd_states (o : Nat) : States s (s.setMd ln o 0) ∧ mdState ((s.setMd ln o 0).md ln) = 0 := by
  have zero : ∀ l : LineInfo, mdState (mdMake (mdPoison l.md) (mdEpoch l.md) o 0) = 0 := fun _ => mdState_mdMake _ _ _ _
  refine ⟨.line (.inr (zero _)), ?_⟩
  unfold State.md State.setMd
  rw [State.line_modLine, if_pos rfl]
  exact zero _

/-- Copies outside are gathered: the line is in I, and where none was newer no byte changes. -/
theorem homeTakes_plain (h : Plain s ln) : Within ln s.mem (homeTakes s ln).mem ∧ States s (homeTakes s ln) ∧ mdState ((homeTakes s ln).md ln) = 0 ∧
    (mdState (s.md ln) < 3 → (homeTakes s ln).mem = s.mem) := by
  unfold homeTakes
  rw [h.near]
  simp only [Bool.false_eq_true, if_false]
  have asked := gather_reads (s := s) ln (.home true)
  have plain : Plain (gather s ln (.home true)) ln := (gather_slices ln (.home true)).plain (by rw [asked.mem]; exact h.wf) h
  have same : Within ln s.mem (gather s ln (.home true)).mem := ⟨plain.wf, fun _ _ => by rw [asked.mem]⟩
  have states : States s (gather s ln (.home true)) := asked.states
  have recalled := recallData_plain plain
  rw [asked.mem] at recalled
  have snooped := snoopData_plain plain
  rw [asked.mem] at snooped
  split
  · next e =>
    exact ⟨same, states, (states ln).elim (fun k => k.trans e) id, fun _ => asked.mem⟩
  · next e => exact ⟨recalled.1, (states.trans recalled.2).trans (setMd_states 0).1, (setMd_states 0).2, fun low => absurd low (by omega)⟩
  · next e => exact ⟨recalled.1, (states.trans recalled.2).trans (setMd_states 0).1, (setMd_states 0).2, fun low => absurd low (by omega)⟩
  · next e =>
    refine ⟨?_, States.trans ?_ (setMd_states 0).1, (setMd_states 0).2, fun low => absurd low (by omega)⟩
    · split
      · exact snooped.1
      · exact same
    · split
      · exact states.trans snooped.2
      · exact states
  · exact ⟨same, states.trans (setMd_states 0).1, (setMd_states 0).2, fun _ => asked.mem⟩

/-- A write of some bytes at the home slice. -/
theorem homeWrite_plain (h : Plain s ln) {d : BitVec 1024} {m : BitVec 128} (some_ : m ≠ 0) :
    (∃ m0, Within ln s.mem m0 ∧ (homeWrite s ln d m).mem = m0.writeMask (ln * 128) 128 d.toNat m.toNat ∧ (mdState (s.md ln) < 3 → m0 = s.mem)) ∧
      States s (homeWrite s ln d m) ∧ mdState ((homeWrite s ln d m).md ln) = 0 := by
  unfold homeWrite
  rw [if_neg some_, h.near]
  simp only [Bool.false_eq_true, if_false]
  have fetched := fetchLine_reads (s := s) ln false
  have slices0 : Slices s (fetchLine s ln false) := fetchLine_slices ln false
  have plain0 : Plain (fetchLine s ln false) ln := slices0.plain (by rw [fetched.mem]; exact h.wf) h
  rw [plain0.fenced]
  simp only [Bool.false_eq_true, if_false]
  obtain ⟨taken, states1, free, quiet⟩ := homeTakes_plain plain0
  have slices1 : Slices s (homeTakes (fetchLine s ln false) ln) := slices0.trans (homeTakes_slices ln)
  have plain1 : Plain (homeTakes (fetchLine s ln false) ln) ln := slices1.plain taken.wf h
  obtain ⟨mem2, states2⟩ := undoCapture_plain plain1
  generalize hu : (if m = BitVec.allOnes 128 then (undoCapture (homeTakes (fetchLine s ln false) ln) ln).setPoison ln false
    else undoCapture (homeTakes (fetchLine s ln false) ln) ln) = v
  have clean : Slices (undoCapture (homeTakes (fetchLine s ln false) ln) ln) v ∧ v.mem = (undoCapture (homeTakes (fetchLine s ln false) ln) ln).mem ∧
      States (undoCapture (homeTakes (fetchLine s ln false) ln) ln) v := by
    rw [← hu]
    split
    · refine ⟨setPoison_slices _ _, rfl, .line (.inl ?_)⟩
      rw [mdState_mdMake]
      exact Nat.mod_eq_of_lt (mdState_lt _)
    · exact ⟨.refl _, rfl, .refl _⟩
  obtain ⟨slices3, mem3, states3⟩ := clean
  have mem : v.mem = (homeTakes (fetchLine s ln false) ln).mem := mem3.trans mem2
  have plain3 : Plain v ln := ((slices1.trans (undoCapture_slices ln)).trans slices3).plain (by rw [mem]; exact taken.wf) h
  have written : (lineWrite v ln d m) = { v with mem := v.mem.writeMask (ln * 128) 128 d.toNat m.toNat } := lineWrite_plain plain3 _ _
  have last : States v (dropOwn (lineWrite v ln d m) ln (wordMask m)) := by
    rw [written]
    exact States.trans (.of_md fun n => congrArg LineInfo.md (line_congr rfl rfl rfl n)) (.line (.inl rfl))
  have after : States (homeTakes (fetchLine s ln false) ln) (dropOwn (lineWrite v ln d m) ln (wordMask m)) := (states2.trans states3).trans last
  refine ⟨⟨v.mem, ?_, ?_, fun low => ?_⟩, (States.trans fetched.states states1).trans after, ?_⟩
  · rw [mem]
    rw [fetched.mem] at taken
    exact taken
  · rw [written]
    rfl
  · rw [mem, quiet ?_, fetched.mem]
    rcases fetched.states ln with e | e <;> omega
  · rcases after ln with e | e
    · exact e.trans free
    · exact e

end Steps

/-! ### Bytes of one line written at an address -/

theorem mask_pos {o n : Nat} (hn : 0 < n) (h : o + n ≤ 128) : BitVec.ofNat 128 ((2 ^ n - 1) * 2 ^ o) ≠ 0 := fun e => by
  have bit := congrArg (·.getLsbD o) e
  simp only [byteMask_getLsbD (n := n) (show o < 128 by omega), Nat.le_refl, Nat.sub_self, hn, decide_true, Bool.and_self] at bit
  exact absurd bit (by simp)

/-- The byte of a shifted value that stands at a place of its line. -/
theorem shiftedByte (v : Nat) {n o j : Nat} (h : o + n ≤ 128) (lo : o ≤ j) (hi : j - o < n) :
    BitVec.ofNat 8 ((BitVec.ofNat 1024 (v % 2 ^ (8 * n) * 2 ^ (8 * o))).toNat / 256 ^ j) = BitVec.ofNat 8 (v / 256 ^ (j - o)) := by
  refine BitVec.eq_of_getLsbD_eq fun b hb => ?_
  have low : 8 * j + b < 1024 := by omega
  have at_ : 8 * j + b - 8 * o = 8 * (j - o) + b := by omega
  rw [show (256 : Nat) = 2 ^ 8 from rfl, ← Nat.pow_mul, ← Nat.pow_mul]
  simp only [BitVec.getLsbD_ofNat, hb, decide_true, Bool.true_and, Nat.testBit_div_two_pow, BitVec.toNat_ofNat, Nat.testBit_mod_two_pow,
    Nat.testBit_mul_two_pow, Nat.add_comm b, low, at_, show 8 * o ≤ 8 * j + b by omega, show 8 * (j - o) + b < 8 * n by omega]

/-- A write of n bytes within a line: the line's other bytes stand where no copy outside was newer, and those of other lines always. -/
theorem homeWriteN_plain {a n v : Nat} (h : Plain s (lineOf a)) (hn : 0 < n) (fits : a % 128 + n ≤ 128) :
    (homeWriteN s a n v).mem.wf = true ∧ States s (homeWriteN s a n v) ∧ mdState ((homeWriteN s a n v).md (lineOf a)) = 0 ∧
    ∃ m0, Within (lineOf a) s.mem m0 ∧ (mdState (s.md (lineOf a)) < 3 → m0 = s.mem) ∧
      ∀ y, (homeWriteN s a n v).mem.read y = if a ≤ y ∧ y < a + n then BitVec.ofNat 8 (v / 256 ^ (y - a)) else m0.read y := by
  have start : a / 128 * 128 + a % 128 = a := by omega
  obtain ⟨⟨m0, within, mem, quiet⟩, states, free⟩ := homeWrite_plain h (d := BitVec.ofNat 1024 (v % 2 ^ (8 * n) * 2 ^ (8 * (a % 128))))
    (mask_pos hn fits)
  refine ⟨(congrArg Mem.wf mem).trans (Mem.writeMask_wf within.wf _ _ _ _), states, free, m0, within, quiet, fun y => ?_⟩
  refine (congrArg (fun m => Mem.read m y) mem).trans ?_
  by_cases here : y / 128 = a / 128
  · have lo : a / 128 * 128 ≤ y := by omega
    have hi : y < a / 128 * 128 + 128 := by omega
    rw [Mem.read_writeMask_in within.wf _ _ lo hi]
    have bit : (BitVec.ofNat 128 ((2 ^ n - 1) * 2 ^ (a % 128))).toNat.testBit (y - a / 128 * 128) = decide (a ≤ y ∧ y < a + n) := by
      refine (byteMask_getLsbD (n := n) (show y - a / 128 * 128 < 128 by omega)).trans ?_
      rw [← Bool.decide_and]
      exact decide_eq_decide.2 (by omega)
    rw [bit]
    by_cases own : a ≤ y ∧ y < a + n
    · rw [if_pos (decide_eq_true own), if_pos own, shiftedByte v fits (by omega) (by omega), show y - a / 128 * 128 - a % 128 = y - a by omega]
    · rw [if_neg (by simpa using own), if_neg own]
  · rw [Mem.read_writeMask_out within.wf _ _ (by unfold lineOf; omega), if_neg (by omega)]

end Sys2Proof.Machine
end

section
/-!
Two states that differ in work queues, host memory and what a partition notes of its launches alone: every home read does the same in both, so a walk gives
the same translation (R236, R241, R288, R308).
-/

namespace Sys2Proof.Machine

variable {s t u : State}

/-- A state with other partitions, queues and host memory. -/
def State.withRest (s : State) (P : AMap Part) (Q : AMap Queue) (H : Mem) : State := { s with parts := P, queues := Q, hostMem := H }

/-- Two states differ in queues, host memory and the launch numbers and launch pages of partitions alone. -/
structure Alike (s t : State) : Prop where
  rest  : t = s.withRest t.parts t.queues t.hostMem
  parts : ∀ p, { t.part p with launchNo := (s.part p).launchNo, lpages := (s.part p).lpages } = s.part p

namespace Alike

theorem refl (s : State) : Alike s s := ⟨rfl, fun _ => rfl⟩

section Fields
variable (h : Alike s t)
include h

theorem mem : t.mem = s.mem := (congrArg State.mem h.rest :)
theorem lines : t.lines = s.lines := (congrArg State.lines h.rest :)
theorem ctxs : t.ctxs = s.ctxs := (congrArg State.ctxs h.rest :)
theorem fabric : t.fabric = s.fabric := (congrArg State.fabric h.rest :)
theorem hbm : t.hbm = s.hbm := (congrArg State.hbm h.rest :)
theorem mgmt : t.mgmt = s.mgmt := (congrArg State.mgmt h.rest :)
theorem free : t.free = s.free := (congrArg State.free h.rest :)

theorem freshLine (n : Nat) : t.freshLine n = s.freshLine n := by
  unfold State.freshLine
  rw [h.hbm, (congrArg Part.urFresh (h.parts _) :)]

theorem line (n : Nat) : t.line n = s.line n := by
  unfold State.line
  rw [h.lines, h.freshLine]

theorem md (n : Nat) : t.md n = s.md n := congrArg LineInfo.md (h.line n)

end Fields

/-- A function that neither reads nor changes partitions, queues and host memory. -/
theorem of_comm {F : State → State} (hF : ∀ (s : State) P Q H, F (s.withRest P Q H) = (F s).withRest P Q H) (hp : ∀ s : State, (F s).parts = s.parts)
    (h : Alike s t) : Alike (F s) (F t) := by
  have e : F t = (F s).withRest t.parts t.queues t.hostMem := by
    conv => lhs; rw [h.rest]
    exact hF _ _ _ _
  have part p : (F t).part p = t.part p := by rw [e]; rfl
  have part' p : (F s).part p = s.part p := congrArg (fun m => AMap.getD m p (Part.init p)) (hp s)
  exact ⟨by rw [e]; rfl, fun p => by rw [part, part']; exact h.parts p⟩

theorem modLine (h : Alike s t) (n : Nat) (g : LineInfo → LineInfo) : Alike (s.modLine n g) (t.modLine n g) := by
  refine ⟨?_, h.parts⟩
  have e : t.lines.upd n (t.freshLine n) g = s.lines.upd n (s.freshLine n) g := by rw [h.lines, h.freshLine]
  unfold State.modLine
  rw [e]
  exact congrArg (fun x : State => { x with lines := s.lines.upd n (s.freshLine n) g }) h.rest

theorem ite {c : Prop} [Decidable c] {s' t' : State} (h : Alike s t) (k : Alike s' t') : Alike (if c then s else s') (if c then t else t') := by
  split
  · exact h
  · exact k

theorem foldl {α : Type} {g : State → α → State} (hg : ∀ s t x, Alike s t → Alike (g s x) (g t x)) (l : List α) (h : Alike s t) :
    Alike (l.foldl g s) (l.foldl g t) := by
  induction l generalizing s t with
  | nil => exact h
  | cons x r ih => exact ih (hg s t x h)

theorem modStack (h : Alike s t) (n : Nat) (g : Stack → Stack) : Alike (s.modStack n g) (t.modStack n g) :=
  of_comm (F := fun s => s.modStack n g) (fun _ _ _ _ => rfl) (fun _ => rfl) h

theorem tellTo (h : Alike s t) (w ln : Nat) (l : List Nat) : Alike (s.tellTo w ln l) (t.tellTo w ln l) :=
  of_comm (F := fun s => s.tellTo w ln l) (fun _ _ _ _ => rfl) (fun _ => rfl) h

theorem setMd (h : Alike s t) (ln o st : Nat) : Alike (s.setMd ln o st) (t.setMd ln o st) := h.modLine _ _

theorem drawFree (h : Alike s t) : s.drawFree.1 = t.drawFree.1 ∧ Alike s.drawFree.2 t.drawFree.2 := by
  refine ⟨?_, of_comm (F := fun s => s.drawFree.2) (fun _ _ _ _ => rfl) (fun _ => rfl) h⟩
  unfold State.drawFree
  rw [h.free]

theorem mgmt' (h : Alike s t) (g : Mgmt → Mgmt) : Alike (s.modMgmt g) (t.modMgmt g) :=
  of_comm (F := fun s => s.modMgmt g) (fun _ _ _ _ => rfl) (fun _ => rfl) h

theorem hbm' (h : Alike s t) {a b : Hbm} (e : b = a) : Alike { s with hbm := a } { t with hbm := b } := by
  subst e
  exact of_comm (F := fun s : State => { s with hbm := b }) (fun _ _ _ _ => rfl) (fun _ => rfl) h

theorem hbmMap (h : Alike s t) (g : Hbm → Hbm) : Alike { s with hbm := g s.hbm } { t with hbm := g t.hbm } := h.hbm' (by rw [h.hbm])

theorem mem' (h : Alike s t) {a b : Mem} (e : b = a) : Alike { s with mem := a } { t with mem := b } := by
  subst e
  exact of_comm (F := fun s : State => { s with mem := b }) (fun _ _ _ _ => rfl) (fun _ => rfl) h

/-- A partition changes beside what it notes of its launches. -/
theorem modPart (h : Alike s t) (p : Nat) {g g' : Part → Part}
    (hg : { g' (t.part p) with launchNo := (g (s.part p)).launchNo, lpages := (g (s.part p)).lpages } = g (s.part p)) :
    Alike (s.modPart p g) (t.modPart p g') := by
  refine ⟨congrArg (fun x : State => { x with parts := (t.modPart p g').parts }) h.rest, fun q => ?_⟩
  by_cases e : q = p
  · subst e
    rw [State.part_modPart_self, State.part_modPart_self]
    exact hg
  · rw [State.part_modPart_ne _ _ e, State.part_modPart_ne _ _ e]
    exact h.parts q

section Reading
variable (h : Alike s t) (ln : Nat)
include h

theorem placeOf : Machine.placeOf t ln = Machine.placeOf s ln := by
  unfold Machine.placeOf region
  rw [h.hbm]

theorem stack (n : Nat) : t.stack n = s.stack n := congrArg (fun b : Hbm => AMap.getD b.stk n Stack.init) h.hbm

theorem groupDevs (g : Nat) : Machine.groupDevs t g = Machine.groupDevs s g := by
  unfold Machine.groupDevs
  rw [h.fabric]

theorem asks (r : LineUse) : Machine.asks t ln r = Machine.asks s ln r := by
  have sharers : Machine.sharers t ln r = Machine.sharers s ln r := by
    unfold Machine.sharers
    simp only [h.line, h.groupDevs]
  unfold Machine.asks
  rw [h.md, sharers]

theorem region (n : Nat) : Machine.region t n = Machine.region s n := congrArg (fun b : Hbm => AMap.getD b.regions n 0) h.hbm

theorem urTail (p : Nat) : (t.part p).urTail = (s.part p).urTail := (congrArg Part.urTail (h.parts p) :)
theorem urEpst (p : Nat) : (t.part p).urEpst = (s.part p).urEpst := (congrArg Part.urEpst (h.parts p) :)
theorem urNow (p : Nat) : (t.part p).urNow = (s.part p).urNow := (congrArg Part.urNow (h.parts p) :)
theorem urState (p : Nat) : (t.part p).urState = (s.part p).urState := (congrArg Part.urState (h.parts p) :)
theorem urEpoch (p : Nat) : (t.part p).urEpoch = (s.part p).urEpoch := (congrArg Part.urEpoch (h.parts p) :)

end Reading

section Home
variable (h : Alike s t) (ln : Nat)
include h

theorem signal (fn : Nat) (irq : DWord) : Alike (signal s fn irq) (signal t fn irq) := by
  unfold Machine.signal
  exact ite (h.mgmt' _) h

theorem rmThreshold (b r : Nat) : Alike (rmThreshold s b r) (rmThreshold t b r) := by
  obtain ⟨P, Q, H, rfl⟩ : ∃ P Q H, t = s.withRest P Q H := ⟨_, _, _, h.rest⟩
  unfold Machine.rmThreshold
  extract_lets st k had alert s1 s2 sb k' had' alert' t1 t2 tb
  have h1 : Alike s1 t1 := h.modStack _ _
  have h2 : Alike s2 t2 := ite h1 (h1.signal _ _)
  refine h2.hbm' ?_
  have base : tb = sb := h2.hbm
  have clock : t2.clock = s2.clock := (congrArg State.clock h2.rest :)
  have stack : k' = k := rfl
  rw [base, h2.hbm, clock, stack]

theorem activate : Alike (activate s ln) (activate t ln) := by
  unfold Machine.activate
  rw [h.placeOf, h.hbm]
  extract_lets p b n sb s1 t1
  rw [h.stack]
  have h1 : Alike s1 t1 := h.hbm' rfl
  exact ite h (ite (h1.rmThreshold _ _) h1)

theorem setPoison (p : Bool) : Alike (s.setPoison ln p) (t.setPoison ln p) := h.modLine _ _

theorem uncorrectable : Alike (uncorrectable s ln) (uncorrectable t ln) := by
  unfold Machine.uncorrectable
  rw [h.placeOf]
  exact (h.setPoison ln true).modStack _ _

theorem remapError : Alike (remapError s ln) (remapError t ln) := by
  unfold Machine.remapError
  rw [h.placeOf, h.hbm]
  extract_lets p
  split
  · exact (h.modStack p.stack fun k => { k with rmbad := true }).hbmMap fun g => { g with remapErr := g.remapErr.del p.chan }
  · exact (h.modStack p.stack fun k => { k with fence := k.fence ||| (1#32 <<< p.channel) }).hbmMap
      fun g => { g with remapErr := g.remapErr.del p.chan, fenceDue := g.fenceDue ++ [p.chan] }
  · exact h

theorem badMeta : Alike (badMeta s ln) (badMeta t ln) := by
  unfold Machine.badMeta
  rw [h.groupDevs, h.line]
  exact (((h.uncorrectable ln).tellTo _ _ _).tellTo _ _ _).modLine _ _

theorem l3Room : Alike (l3Room s ln) (l3Room t ln) := by
  have slice n : sliceOf t n = sliceOf s n := by
    unfold sliceOf
    rw [h.placeOf]
  unfold Machine.l3Room
  rw [h.lines]
  simp only [slice, h.line]
  obtain ⟨drawn, k⟩ := h.drawFree
  rw [← drawn]
  exact ite h (ite h (modLine (ite (k.activate _) k) _ _))

theorem eccRead : Alike (eccRead s ln) (eccRead t ln) := by
  unfold Machine.eccRead
  rw [h.placeOf, h.md, h.hbm]
  extract_lets s1 sb t1 tb
  have h1 : Alike s1 t1 := by
    unfold s1 t1
    split
    · exact h.modStack _ _
    · exact h.uncorrectable _
    · exact h.badMeta _
    · exact ite (h.badMeta _) h
  exact h1.hbmMap fun g => { g with errs := g.errs.del ln }

theorem fetchLine (nt : Bool) : Alike (fetchLine s ln nt) (fetchLine t ln nt) := by
  unfold Machine.fetchLine
  rw [h.line]
  extract_lets s0 s4 t0 t4
  have h0 : Alike s0 t0 := (ite h (h.l3Room ln)).remapError ln
  have h4 : Alike s4 t4 := (h0.activate ln).eccRead ln
  exact ite h (ite h4 (h4.modLine _ _))

theorem gather (r : LineUse) : Alike (gather s ln r) (gather t ln r) := by
  unfold Machine.gather
  rw [h.line, h.asks]
  exact ite (h.modLine _ _) (h.foldl (g := fun s (e : Nat × List Nat) => s.tellTo e.1 ln e.2) (fun _ _ e k => k.tellTo e.1 ln e.2) _)

theorem undoCapture : Alike (undoCapture s ln) (undoCapture t ln) := by
  have size p : undoSize t p = undoSize s p := by
    unfold undoSize
    rw [h.urNow]
  have addr p k : undoAddr t p k = undoAddr s p k := by
    unfold undoAddr
    rw [h.urNow, size]
  have capt p : capturing t p = capturing s p := by
    unfold capturing
    rw [h.urState]
  unfold Machine.undoCapture lineRegionPart
  simp only [h.region, h.line, h.urEpoch, h.urTail, h.urEpst, size, addr, capt, h.urState, h.mem]
  have lost := fun p => h.modPart p (g := fun x => { x with unprot := true, urState := .noprot }) (g' := fun x => { x with unprot := true, urState := .noprot })
    (congrArg (fun x : Part => { x with unprot := true, urState := .noprot }) (h.parts p))
  have took := fun p m => (h.mem' (a := m) (b := m) rfl).modPart p (g := fun x => { x with urTail := x.urTail + 1 }) (g' := fun x => { x with urTail := x.urTail + 1 })
    (congrArg (fun x : Part => { x with urTail := x.urTail + 1 }) (h.parts p))
  exact ite h (ite h (ite (ite ((lost _).modLine _ _) (((took _ _).activate _).modLine _ _)) (ite (h.modLine _ _) h)))

theorem lineWrite (d : BitVec 1024) (m : BitVec 128) : Alike (lineWrite s ln d m) (lineWrite t ln d m) := by
  have comp : Alike (compWrite s ln d m) (compWrite t ln d m) := by
    refine of_comm (F := fun s => compWrite s ln d m) (fun s P Q H => ?_) (fun s => ?_) h
    · unfold compWrite pageDir State.withRest
      dsimp only
      split <;> rfl
    · unfold compWrite
      dsimp only
      split <;> rfl
  unfold Machine.lineWrite
  rw [h.region]
  exact ite comp (h.mem' (by rw [h.mem]))

theorem recallData : Alike (recallData s ln) (recallData t ln) := by
  obtain ⟨drawn, k⟩ := (h.undoCapture ln).drawFree
  unfold Machine.recallData
  simp only [← drawn]
  exact (k.lineWrite ln _ _).modLine _ _

theorem snoopData : Alike (snoopData s ln) (snoopData t ln) := by
  unfold Machine.snoopData
  rw [h.mgmt]
  exact ite ((h.recallData ln).mgmt' _) h

theorem homeRead (nt : Bool) : Alike (homeRead s ln nt) (homeRead t ln nt) := by
  have h1 := h.fetchLine ln nt
  unfold Machine.homeRead
  extract_lets s1 m s2 t1 m' t2
  have same : m' = m := h1.md ln
  have h2 : Alike s2 t2 := h1.gather ln _
  rw [same]
  refine ite h1 ?_
  split
  · exact (h2.recallData ln).setMd _ _ _
  · exact (h2.recallData ln).setMd _ _ _
  · exact ite ((h2.snoopData ln).setMd _ _ _) h2
  · exact h2

end Home

theorem walkRead (va : Nat) : ∀ (lvl table : Nat) {s t : State}, Alike s t → Alike (walkRead va lvl table s) (walkRead va lvl table t)
  | 0, _, _, _, h => h
  | lvl + 1, table, s, t, h => by
    have h1 := h.homeRead (lineOf (table + 8 * walkIdx lvl va)) false
    unfold Machine.walkRead
    extract_lets a s1 e t1 e'
    have same : e' = e := congrArg (fun m : Mem => BitVec.ofNat 64 (m.readN a 8)) h1.mem
    rw [same]
    exact ite h1 (walkRead va lvl _ h1)

theorem walkReads (h : Alike s t) (ctx va : Nat) : Alike (walkReads ctx va s) (walkReads ctx va t) := by
  have same : t.ctx ctx = s.ctx ctx := congrArg (fun m => AMap.getD m ctx Ctx.init) h.ctxs
  unfold Machine.walkReads
  rw [same]
  exact walkRead _ _ _ h

/-- A translation that a walk has brought in is the same. -/
theorem transNow (h : Alike s t) (ctx va icl : Nat) (write : Bool) : transNow t ctx va icl write = transNow s ctx va icl write := by
  unfold Machine.transNow
  rw [walk_congr h.mem h.region (congrArg (fun m => AMap.getD m ctx Ctx.init) h.ctxs), finish_congr h.region]

end Alike

/-- A walk keeps memory in its form. -/
theorem walkReads_wf (h : s.mem.wf = true) (ctx va : Nat) : (walkReads ctx va s).mem.wf = true := by
  have alike : Alike s { s with hostMem := [] } := ⟨rfl, fun _ => rfl⟩
  have sound : Sound False { s with hostMem := [] } := ⟨⟨h, rfl⟩, False.elim⟩
  rw [← (alike.walkReads ctx va).mem]
  exact (walkReads_sound sound).mem_wf

end Sys2Proof.Machine
end

section
/-!
Completion entries: eight dwords at a place of 64 bytes, written one at a time into one line (R241).
-/

namespace Sys2Proof.Machine

variable {s t u : State}

/-- Dwords written one after another at places of one line. -/
def dwordWrites (s : State) (a : Nat) (entry : List DWord) (n : Nat) : State :=
  (List.range n).foldl (fun s i => homeWriteN s (a + 8 * i) 8 (nth entry i 0).toNat) s

theorem dwordWrites_succ (a : Nat) (entry : List DWord) (n : Nat) :
    dwordWrites s a entry (n + 1) = homeWriteN (dwordWrites s a entry n) (a + 8 * n) 8 (nth entry n 0).toNat := by
  unfold dwordWrites
  rw [List.range_succ, List.foldl_append]
  rfl

theorem dwordWrites_slices (a : Nat) (entry : List DWord) (n : Nat) : Slices s (dwordWrites s a entry n) :=
  .foldl (fun _ _ => homeWriteN_slices _ _ _) _ _

/-- Every dword written stands; after the first the line has no copy outside, so the later ones leave it. -/
theorem dwordWrites_bytes {a : Nat} (h : Plain s (lineOf a)) (al : a % 64 = 0) (entry : List DWord) {n : Nat} (hn : n ≤ 8) :
    (dwordWrites s a entry n).mem.wf = true ∧ (0 < n → mdState ((dwordWrites s a entry n).md (lineOf a)) = 0) ∧
    ∀ i < n, ∀ j < 8, (dwordWrites s a entry n).mem.read (a + 8 * i + j) = BitVec.ofNat 8 ((nth entry i 0).toNat / 256 ^ j) := by
  induction n with
  | zero => exact ⟨h.wf, fun c => absurd c (Nat.lt_irrefl 0), fun i c => absurd c (Nat.not_lt_zero i)⟩
  | succ n ih =>
    obtain ⟨wf, free, bytes⟩ := ih (by omega)
    have line : lineOf (a + 8 * n) = lineOf a := by unfold lineOf; omega
    have plain : Plain (dwordWrites s a entry n) (lineOf (a + 8 * n)) := by
      rw [line]
      exact (dwordWrites_slices _ _ _).plain wf h
    obtain ⟨wf', states, free', m0, within, quiet, reads⟩ := homeWriteN_plain (n := 8) (v := (nth entry n 0).toNat) plain (by omega) (by omega)
    rw [line] at free' quiet
    rw [dwordWrites_succ]
    refine ⟨wf', fun _ => free', fun i hi j hj => ?_⟩
    rw [reads]
    by_cases last : i = n
    · subst last
      rw [if_pos (by omega), show a + 8 * i + j - (a + 8 * i) = j by omega]
    · rw [if_neg (by omega), quiet (by rw [free (by omega)]; omega)]
      exact bytes i (by omega) j hj

/-- A dword read where it was written. -/
theorem readN_of_bytes {m : Mem} {a v : Nat} (hv : v < 2 ^ 64) (h : ∀ j < 8, m.read (a + j) = BitVec.ofNat 8 (v / 256 ^ j)) : m.readN a 8 = v := by
  rw [readN_sum, ← Nat.mod_eq_of_lt (show v < 256 ^ 8 by omega), bytes_sum]
  refine congrArg List.sum (List.map_congr_left fun j hj => ?_)
  rw [h j (List.mem_range.1 hj), BitVec.toNat_ofNat]

theorem leafPa_aligned {e : DWord} {big : Bool} {va : Nat} (h : va % 64 = 0) : leafPa e big va % 64 = 0 := by
  unfold leafPa
  split <;> omega

theorem transNow_aligned {ctx va icl cp : Nat} {write : Bool} (h : va % 64 = 0) (ok : transNow s ctx va icl write = .ok cp) : cp % 64 = 0 := by
  unfold transNow finish at ok
  split at ok
  · cases ok
  · split at ok
    · cases ok
    · cases ok
      exact leafPa_aligned h

/-! ### Completion entries -/

section Entry
variable {p v : Nat} {w entry : List DWord}

theorem writeCompletion_none (h : pkCpl w = false) : writeCompletion s p v w entry = s := by
  unfold writeCompletion
  rw [h]
  rfl

theorem writeCompletion_posts (p v : Nat) (w entry : List DWord) : Posts s (writeCompletion s p v w entry) := by
  unfold writeCompletion
  extract_lets a s0
  have h0 : Posts s s0 := .of_slices (walkReads_slices _ _)
  split
  · exact .refl s
  · split
    · exact h0.trans (.of_slices (.foldl (fun _ _ => homeWriteN_slices _ _ _) _ _))
    · exact h0.trans (postSystem_posts _ _ _)
    · exact h0

/-- Where its place translates, the entry's dwords stand there. -/
theorem writeCompletion_writes {cp : Nat} (cpl : pkCpl w = true) (al : (nth w 6 0).toNat % 64 = 0)
    (ok : transNow (walkReads v (nth w 6 0).toNat s) v (nth w 6 0).toNat 512 true = .ok cp) (plain : Plain s (lineOf cp)) :
    ∀ i < 8, (writeCompletion s p v w entry).mem.readN (cp + 8 * i) 8 = (nth entry i 0).toNat := by
  have written : writeCompletion s p v w entry = dwordWrites (walkReads v (nth w 6 0).toNat s) cp entry 8 := by
    unfold writeCompletion
    simp only [cpl, al, ok]
    rfl
  have plain0 := (walkReads_slices (s := s) v (nth w 6 0).toNat).plain (walkReads_wf plain.wf _ _) plain
  obtain ⟨_, _, bytes⟩ := dwordWrites_bytes plain0 (transNow_aligned al ok) entry (Nat.le_refl 8)
  intro i hi
  rw [written]
  exact readN_of_bytes (nth entry i 0).isLt (bytes i hi)

end Entry

end Sys2Proof.Machine
end

section
/-!
The packet at HEAD of a queue: what consuming it leaves in its queue, its partition and memory, in each of its three courses (R236, R237, R240, R241, R308).
-/

namespace Sys2Proof.Machine

variable {s t u : State}

theorem launchReads_slices (v : Nat) (w : List DWord) : Slices s (launchReads s v w) := by
  unfold launchReads
  extract_lets far
  have fars : ∀ (s : State) va n, Slices s (far s va n) := fun _ _ _ => .foldl (fun _ _ => virtReads_slices _ _ _) _ _
  split
  · exact .refl s
  · exact (fars _ _ _).trans (fars _ _ _)

/-- The packet at HEAD of a queue that a partition may consume: its interface, partition, place, dwords, the state with what it names read, and what
the checks answer. -/
structure AtHead (s : State) (q pa v p : Nat) (w : List DWord) (s0 : State) (ck : Nat × List DWord × List DWord) : Prop where
  vi       : (s.queue q).vi = v
  part     : (s.vi v).part = p
  place    : headPlace (packetReads s q) q = some pa
  dwords   : dwordsAt (packetReads s q) pa 8 = w
  reads    : launchReads (packetReads s q) v w = s0
  checks   : checkPacket s0 p v w (argsOf s0 v w) = ck
  live     : s.replaying (packetPart s q) = false
  typed    : pkType w ≠ 0
  on       : (s.part p).cfg.getLsbD 8 = true
  open_    : ((gridsOf s p).any fun e => isGuarded s p e.2.packet) = false

/-- What a consumed packet leaves: HEAD one on, a launch number taken, in a recording mode a launch page entry, and its TYPE cleared. -/
def Gone (s s0 t : State) (q p pa : Nat) (w args : List DWord) (quiet : Prop) : Prop :=
  (∀ k, (t.queue k).head = if k = q then (s.queue q).head + 1 else (s.queue k).head) ∧
  (t.part p).launchNo = (s.part p).launchNo + 1 ∧
  (t.part p).lpages = (if s.recording p then (s.part p).lpages ++ [launchEntry s0 p q w args] else (s.part p).lpages) ∧
  (Plain s0 (lineOf pa) → mdState (s0.md (lineOf pa)) < 3 → quiet → t.mem.read pa = 0 ∧ ∀ y, y ≠ pa → t.mem.read y = s0.mem.read y)

/-- The completion entry that a consumed packet leaves. -/
def EntryOf (took t : State) (v : Nat) (w : List DWord) (status : Nat) : Prop :=
  ∀ cp, pkCpl w = true → (nth w 6 0).toNat % 64 = 0 → transNow (walkReads v (nth w 6 0).toNat took) v (nth w 6 0).toNat 512 true = .ok cp →
    Plain took (lineOf cp) → EntryAt t cp (BitVec.ofNat 64 status :: List.replicate 7 0)

/-! ### TYPE cleared and HEAD advanced -/

section Taken
variable {q pa p : Nat} {w args : List DWord}

theorem takePacket_queue (k : Nat) : (takePacket s q pa).queue k = if k = q then { s.queue q with head := (s.queue q).head + 1 } else s.queue k := by
  unfold takePacket
  rw [State.queue_modQueue, (homeWriteN_slices _ _ _).queue, (homeWriteN_slices _ _ _).queue]

/-- TYPE stands as 0, and where no copy outside held its line newer no other byte changed. -/
theorem takePacket_mem (h : Plain s (lineOf pa)) (low : mdState (s.md (lineOf pa)) < 3) :
    (takePacket s q pa).mem.read pa = 0 ∧ ∀ y, y ≠ pa → (takePacket s q pa).mem.read y = s.mem.read y := by
  obtain ⟨_, _, _, m0, _, quiet, reads⟩ := homeWriteN_plain (n := 1) (v := 0) h Nat.one_pos (by omega)
  have same : (takePacket s q pa).mem = (homeWriteN s pa 1 0).mem := rfl
  rw [same]
  refine ⟨?_, fun y hy => ?_⟩
  · rw [reads, if_pos (by omega), Nat.zero_div]
    rfl
  · rw [reads, if_neg (by omega), quiet low]

theorem launchEntry_congr (parts : (t.part p).launchNo = (s.part p).launchNo) (gts : t.mgmt.gts = s.mgmt.gts) :
    launchEntry t p q w args = launchEntry s p q w args := by
  unfold launchEntry
  rw [parts, gts]

theorem noteLaunch_part : ((noteLaunch s p q w args).part p).launchNo = (s.part p).launchNo + 1 ∧
    ((noteLaunch s p q w args).part p).lpages = if s.recording p then (s.part p).lpages ++ [launchEntry s p q w args] else (s.part p).lpages := by
  unfold noteLaunch
  rw [State.part_modPart_self]
  exact ⟨rfl, rfl⟩

/-- A launch number taken is nothing that a home read looks at. -/
theorem noteLaunch_alike : Alike s (noteLaunch s p q w args) := by
  refine ⟨rfl, fun k => ?_⟩
  unfold noteLaunch
  by_cases e : k = p
  · subst e
    rw [State.part_modPart_self]
  · rw [State.part_modPart_ne _ _ e]

/-- A queue changed is nothing that a home read looks at. -/
theorem Alike.modQueue (h : Alike s t) (k : Nat) (g : Queue → Queue) : Alike s (t.modQueue k g) :=
  ⟨congrArg (fun x : State => { x with queues := (t.modQueue k g).queues }) h.rest, h.parts⟩

theorem Alike.plain (h : Alike s t) {ln : Nat} (k : Plain s ln) : Plain t ln where
  wf := by rw [h.mem]; exact k.wf
  near := k.near
  fenced := by
    have e := k.fenced
    unfold Machine.fenced at e ⊢
    simp only [h.placeOf, h.stack]
    exact e
  errs := by rw [h.hbm]; exact k.errs
  comp := by rw [h.region]; exact k.comp
  undo p := by
    have e := k.undo p
    unfold capturing at e ⊢
    rw [h.urState]
    exact e

/-- An entry written in a state that differs in what no home read looks at. -/
theorem entryOf_writeCompletion (h : Alike s t) (v status : Nat) (p : Nat) :
    EntryOf s (writeCompletion t p v w (shortEntry status)) v w status := by
  intro cp cpl al ok plain i d hd
  have same := (h.walkReads v (nth w 6 0).toNat).transNow v (nth w 6 0).toNat 512 true
  rw [ok] at same
  have lt : i < 8 := by
    obtain ⟨k, _⟩ := List.getElem?_eq_some_iff.1 hd
    simpa using k
  rw [writeCompletion_writes cpl al same (h.plain plain) i lt]
  unfold shortEntry
  rw [nth, List.getD_eq_getElem?_getD, hd]
  rfl

end Taken

/-! ### Markers -/

/-- The state in which a marker stands among its queue's marks. -/
def marked (s : State) (p q idx : Nat) (w : List DWord) : State :=
  (openPacket (noteLaunch s p q w []) p q idx).modQueue q fun x => { x with marks := x.marks ++ [(idx, w, (s.queue q).open_)] }

section Marks
variable {p q idx : Nat} {w : List DWord}

theorem takeMarker_eq : takeMarker s p q idx w = settleMarks (marked s p q idx w) q ((marked s p q idx w).queue q).marks := rfl

theorem openPacket_queue (k : Nat) : (openPacket s p q idx).queue k =
    if k = q then { s.queue q with open_ := if isTwin s p then (s.queue q).open_ else (s.queue q).open_ ++ [idx] } else s.queue k := by
  unfold openPacket
  by_cases twin : isTwin s p = true
  · rw [if_pos twin, if_pos twin]
    split
    · next e => rw [e]
    · rfl
  · rw [if_neg twin, State.queue_modQueue, if_neg twin]

/-- A packet opened changes queues alone. -/
theorem openPacket_alike (h : Alike s t) (p q idx : Nat) : Alike s (openPacket t p q idx) := by
  unfold openPacket
  split
  · exact h
  · exact h.modQueue _ _

theorem openPacket_frame : { openPacket s p q idx with queues := s.queues } = s := by
  unfold openPacket
  split <;> rfl

theorem marked_queue (k : Nat) : (marked s p q idx w).queue k = if k = q then { s.queue q with
    open_ := if isTwin (noteLaunch s p q w []) p then (s.queue q).open_ else (s.queue q).open_ ++ [idx]
    marks := (s.queue q).marks ++ [(idx, w, (s.queue q).open_)] } else s.queue k := by
  unfold marked
  rw [State.queue_modQueue, openPacket_queue, if_pos rfl]
  split
  · rfl
  · next ne => rw [openPacket_queue, if_neg ne]; rfl

theorem marked_alike : Alike s (marked s p q idx w) := (openPacket_alike noteLaunch_alike p q idx).modQueue _ _

theorem marked_frame : { marked s p q idx w with queues := s.queues } = noteLaunch s p q w [] :=
  (openPacket_frame (s := noteLaunch s p q w []) (p := p) (q := q) (idx := idx) :)

theorem settleMarks_one (m : Nat × List DWord × List Nat) : settleMarks s q [m] =
    if (s.queue q).open_.any fun i => m.2.2.contains i then s
    else (writeCompletion s (s.vi (s.queue q).vi).part (s.queue q).vi m.2.1 (shortEntry 0)).modQueue q fun x =>
      { x with open_ := x.open_.erase m.1, marks := x.marks.erase m } := by
  simp only [settleMarks]

end Marks

/-! ### The courses of a consumption -/

namespace AtHead

variable {q pa v p : Nat} {w : List DWord} {s0 : State} {ck : Nat × List DWord × List DWord} (h : AtHead s q pa v p w s0 ck)
include h

theorem slices : Slices s s0 := by
  rw [← h.reads]
  exact (virtReads_slices _ _ _).trans (launchReads_slices _ _)

/-- What consuming the packet comes to, by its checks and its TYPE. -/
theorem consumed : exec (.packetConsume q) s = .next (
    if ck.1 ≠ 0 then writeCompletion (noteLaunch (takePacket s0 q pa) p q w ck.2.1) p v w (shortEntry ck.1)
    else if pkType w = 2 then
      if (!pkBar w || (s.queue q).open_.isEmpty) && viRuns s p v && dispatches s p then
        takeMarker (takePacket s0 q pa) p q (s.queue q).head.toNat w else s
    else if mayBegin s q w && cairnDone s p (isGuarded s p w) then
      beginGrid (takePacket s0 q pa) q (s.queue q).head.toNat p v w ck.2.1 ck.2.2
    else s) := by
  obtain ⟨rfl, rfl, place, rfl, rfl, rfl, live, typed, on, open_⟩ := h
  refine (show exec (.packetConsume q) s = execPacketConsume q s from rfl).trans ?_
  unfold execPacketConsume
  simp only [place, live, typed, on, open_, Bool.false_eq_true, if_false, decide_false, Bool.not_true, Bool.or_false]

/-- A packet taken with its launch number noted has left what a consumed packet leaves, and so has every state like it. -/
theorem gone {args : List DWord} {quiet : Prop} (heads : ∀ k, (t.queue k).head = ((takePacket s0 q pa).queue k).head)
    (parts : (t.part p).launchNo = ((noteLaunch (takePacket s0 q pa) p q w args).part p).launchNo ∧
      (t.part p).lpages = ((noteLaunch (takePacket s0 q pa) p q w args).part p).lpages)
    (mem : quiet → t.mem = (takePacket s0 q pa).mem) : Gone s s0 t q p pa w args quiet := by
  have slices0 := h.slices
  have slices : Slices s0 (homeWriteN s0 pa 1 0) := homeWriteN_slices _ _ _
  have no : ((takePacket s0 q pa).part p).launchNo = (s0.part p).launchNo := (congrArg Part.launchNo (slices.parts p) :)
  have no0 : (s0.part p).launchNo = (s.part p).launchNo := (congrArg Part.launchNo (slices0.parts p) :)
  have pages : ((takePacket s0 q pa).part p).lpages = (s0.part p).lpages := (congrArg Part.lpages (slices.parts p) :)
  have pages0 : (s0.part p).lpages = (s.part p).lpages := (congrArg Part.lpages (slices0.parts p) :)
  have rec_ : (takePacket s0 q pa).recording p = s.recording p := (slices.recording p).trans (slices0.recording p)
  have gts : (takePacket s0 q pa).mgmt.gts = s0.mgmt.gts := slices.gts
  refine ⟨fun k => ?_, ?_, ?_, fun plain low hq => ?_⟩
  · rw [heads, takePacket_queue, slices0.queue, slices0.queue]
    split <;> rfl
  · rw [parts.1, noteLaunch_part.1, no, no0]
  · rw [parts.2, noteLaunch_part.2, rec_, pages, pages0, launchEntry_congr no gts]
  · rw [mem hq]
    exact takePacket_mem plain low

/-- A packet that the checks refuse. -/
theorem refused (bad : ck.1 ≠ 0) : Gives (.packetConsume q) s fun t =>
    Gone s s0 t q p pa w ck.2.1 (pkCpl w = false) ∧ EntryOf (takePacket s0 q pa) t v w ck.1 ∧ t.grids = s.grids := by
  have posts := writeCompletion_posts (s := noteLaunch (takePacket s0 q pa) p q w ck.2.1) p v w (shortEntry ck.1)
  refine ⟨_, h.consumed, ?_⟩
  rw [if_pos bad]
  refine ⟨h.gone ?_ ⟨?_, ?_⟩ fun quiet => ?_, entryOf_writeCompletion noteLaunch_alike _ _ _, ?_⟩
  · exact fun k => congrArg Queue.head (posts.queue k)
  · exact (congrArg Part.launchNo (posts.parts p) :)
  · exact (congrArg Part.lpages (posts.parts p) :)
  · rw [writeCompletion_none quiet]
    rfl
  · exact posts.grids.trans (((homeWriteN_slices _ _ _).grids).trans h.slices.grids)

/-- The checks answer no argument block for a marker. -/
theorem marker_args (good : ck.1 = 0) (marker : pkType w = 2) : ck.2.1 = [] := by
  rw [← h.checks] at good ⊢
  unfold checkPacket at good ⊢
  split at good
  · exact absurd good (by decide)
  · rw [if_neg ‹_›, if_pos marker]

theorem isTwin_took (args : List DWord) : isTwin (noteLaunch (takePacket s0 q pa) p q w args) p = isTwin s p := by
  have twin : ((noteLaunch (takePacket s0 q pa) p q w args).part p).twin = (s.part p).twin := by
    unfold noteLaunch
    rw [State.part_modPart_self]
    exact (congrArg Part.twin ((h.slices.trans (homeWriteN_slices pa 1 0)).parts p) :)
  unfold isTwin
  rw [twin]

/-- A marker behind packets that have not completed waits among its queue's marks; one behind none completes at once. -/
theorem marker (good : ck.1 = 0) (ty : pkType w = 2) (bar : pkBar w = true → (s.queue q).open_ = []) (runs : viRuns s p v = true)
    (disp : dispatches s p = true) (marks : (s.queue q).marks = []) : Gives (.packetConsume q) s fun t =>
    Gone s s0 t q p pa w ck.2.1 (pkCpl w = false ∨ (s.queue q).open_ ≠ []) ∧ ((s.queue q).open_ = [] → EntryOf (takePacket s0 q pa) t v w 0) ∧
    t.grids = s.grids ∧ ((s.queue q).open_ ≠ [] → isTwin s p = false →
      (t.queue q).open_ = (s.queue q).open_ ++ [(s.queue q).head.toNat] ∧ (t.queue q).marks = [((s.queue q).head.toNat, w, (s.queue q).open_)]) := by
  have may : ((!pkBar w || (s.queue q).open_.isEmpty) && viRuns s p v && dispatches s p) = true := by
    rw [runs, disp, Bool.and_true, Bool.and_true]
    cases b : pkBar w with
    | false => rfl
    | true => rw [bar b]; rfl
  have slices := h.slices.trans (homeWriteN_slices pa 1 0)
  have own : (takePacket s0 q pa).queue q = { s.queue q with head := (s.queue q).head + 1 } := by
    rw [takePacket_queue, if_pos rfl, h.slices.queue]
  have twin := h.isTwin_took []
  generalize hm : marked (takePacket s0 q pa) p q (s.queue q).head.toNat w = m at *
  have queue k : m.queue k = if k = q then { s.queue q with
      head := (s.queue q).head + 1
      open_ := if isTwin s p then (s.queue q).open_ else (s.queue q).open_ ++ [(s.queue q).head.toNat]
      marks := [((s.queue q).head.toNat, w, (s.queue q).open_)] } else (takePacket s0 q pa).queue k := by
    rw [← hm, marked_queue, own, twin, marks]
    rfl
  have frame : { m with queues := (takePacket s0 q pa).queues } = noteLaunch (takePacket s0 q pa) p q w [] := hm ▸ marked_frame
  have parts : m.parts = (noteLaunch (takePacket s0 q pa) p q w []).parts := (congrArg State.parts frame :)
  have grids : m.grids = s.grids := (congrArg State.grids frame :).trans slices.grids
  have heads k : (m.queue k).head = ((takePacket s0 q pa).queue k).head := by
    rw [queue]
    split
    · next e => rw [e, own]
    · rfl
  have noted : (m.part p).launchNo = ((noteLaunch (takePacket s0 q pa) p q w ck.2.1).part p).launchNo ∧
      (m.part p).lpages = ((noteLaunch (takePacket s0 q pa) p q w ck.2.1).part p).lpages := by
    rw [h.marker_args good ty]
    unfold State.part
    rw [parts]
    exact ⟨rfl, rfl⟩
  have consumed : exec (.packetConsume q) s = .next (settleMarks m q [((s.queue q).head.toNat, w, (s.queue q).open_)]) := by
    rw [h.consumed, if_neg (not_not.2 good), if_pos ty, if_pos may, takeMarker_eq, hm, queue, if_pos rfl]
  refine ⟨_, consumed, ?_⟩
  rw [settleMarks_one]
  by_cases first : (s.queue q).open_ = []
  · have posts := writeCompletion_posts (s := m) (m.vi (m.queue q).vi).part (m.queue q).vi w (shortEntry 0)
    have vi : (m.queue q).vi = v := by
      rw [queue, if_pos rfl]
      exact h.vi
    rw [if_neg (by rw [first]; simp)]
    refine ⟨h.gone (fun k => ?_) ⟨?_, ?_⟩ fun quiet => ?_, fun _ => ?_, ?_, fun c => absurd first c⟩
    · rw [State.queue_modQueue, ← heads]
      split
      · next e => rw [e]; exact (congrArg Queue.head (posts.queue q) :)
      · exact congrArg Queue.head (posts.queue k)
    · exact (congrArg Part.launchNo (posts.parts p) :).trans noted.1
    · exact (congrArg Part.lpages (posts.parts p) :).trans noted.2
    · rcases quiet with c | c
      · rw [writeCompletion_none c]
        exact (congrArg State.mem frame :)
      · exact absurd first c
    · rw [vi]
      exact entryOf_writeCompletion (hm ▸ marked_alike) v 0 _
    · exact posts.grids.trans grids
  · have waits : ((m.queue q).open_.any fun i => (s.queue q).open_.contains i) = true := by
      obtain ⟨i, hi⟩ := List.exists_mem_of_ne_nil _ first
      refine List.any_eq_true.2 ⟨i, ?_, List.contains_iff_mem.2 hi⟩
      rw [queue, if_pos rfl]
      change i ∈ if isTwin s p then _ else _
      split
      · exact hi
      · exact List.mem_append_left _ hi
    rw [if_pos waits]
    refine ⟨h.gone heads noted fun _ => ?_, fun c => absurd c first, grids, fun _ alone => ?_⟩
    · exact (congrArg State.mem frame :)
    · rw [queue, if_pos rfl, alone]
      exact ⟨rfl, rfl⟩

/-- A launch that may begin becomes a grid. -/
theorem launch (good : ck.1 = 0) (ty : pkType w ≠ 2) (may : mayBegin s q w = true) (cairn : cairnDone s p (isGuarded s p w) = true) :
    Gives (.packetConsume q) s fun t => Gone s s0 t q p pa w ck.2.1 True ∧
      (t.queue q).open_ = (if isTwin s p then (s.queue q).open_ else (s.queue q).open_ ++ [(s.queue q).head.toNat]) ∧
      t.nextGrid = s.nextGrid + 1 ∧ (∀ n, n ≠ s.nextGrid → t.grid n = s.grid n) ∧
      ∃ g, t.grid s.nextGrid = some g ∧ g.queue = q ∧ g.idx = (s.queue q).head.toNat ∧ g.part = p ∧ g.vi = v ∧ g.packet = w ∧ g.args = ck.2.1 ∧
        g.kdesc = ck.2.2 ∧ g.placed = 0 ∧ g.teamsEnd = 0 ∧ g.abort = none := by
  have slices := h.slices.trans (homeWriteN_slices pa 1 0)
  have own : (takePacket s0 q pa).queue q = { s.queue q with head := (s.queue q).head + 1 } := by
    rw [takePacket_queue, if_pos rfl, h.slices.queue]
  have frame := openPacket_frame (s := noteLaunch (takePacket s0 q pa) p q w ck.2.1) (p := p) (q := q) (idx := (s.queue q).head.toNat)
  have queue := openPacket_queue (s := noteLaunch (takePacket s0 q pa) p q w ck.2.1) (p := p) (q := q) (idx := (s.queue q).head.toNat)
  have twin := h.isTwin_took ck.2.1
  have consumed : exec (.packetConsume q) s = .next (beginGrid (takePacket s0 q pa) q (s.queue q).head.toNat p v w ck.2.1 ck.2.2) := by
    rw [h.consumed, if_neg (not_not.2 good), if_neg ty, if_pos (by rw [may, cairn]; rfl)]
  refine ⟨_, consumed, ?_⟩
  unfold beginGrid
  generalize hm : openPacket (noteLaunch (takePacket s0 q pa) p q w ck.2.1) p q (s.queue q).head.toNat = m at frame queue
  have grids : m.grids = s.grids := (congrArg State.grids frame :).trans slices.grids
  have next : m.nextGrid = s.nextGrid := (congrArg State.nextGrid frame :).trans slices.nextGrid
  have parts : m.parts = (noteLaunch (takePacket s0 q pa) p q w ck.2.1).parts := (congrArg State.parts frame :)
  have noted : (m.part p).launchNo = ((noteLaunch (takePacket s0 q pa) p q w ck.2.1).part p).launchNo ∧
      (m.part p).lpages = ((noteLaunch (takePacket s0 q pa) p q w ck.2.1).part p).lpages := by
    unfold State.part
    rw [parts]
    exact ⟨rfl, rfl⟩
  refine ⟨h.gone (fun k => ?_) ⟨?_, ?_⟩ fun _ => (congrArg State.mem frame :), ?_, congrArg (· + 1) next, fun n hn => ?_,
    newGrid (takePacket s0 q pa) q (s.queue q).head.toNat p v w ck.2.1 ck.2.2, ?_, rfl, rfl, rfl, rfl, rfl, rfl, rfl, rfl, rfl, rfl⟩
  · refine (congrArg Queue.head (queue k)).trans ?_
    split
    · next e => rw [e]; rfl
    · rfl
  · rw [State.part_modPart_self]
    exact noted.1
  · rw [State.part_modPart_self]
    exact noted.2
  · refine (congrArg Queue.open_ (queue q)).trans ?_
    rw [if_pos rfl, twin]
    change (if _ then ((takePacket s0 q pa).queue q).open_ else ((takePacket s0 q pa).queue q).open_ ++ _) = _
    rw [own]
  · change (m.grids.set m.nextGrid _).get? n = s.grids.get? n
    rw [AMap.get?_set_ne _ _ (by rw [next]; exact hn), grids]
  · change (m.grids.set m.nextGrid _).get? s.nextGrid = _
    rw [← next, AMap.get?_set_self]

end AtHead

end Sys2Proof.Machine
end

section
/-!
Doorbells, waiting grids and retiring teams: what a queue's TAIL becomes, when a grid shuts the lower ones out, and the staged writes that a team performs
as it retires (R235, R246, R257).
-/

namespace Sys2Proof.Machine

variable {s t u : State}

/-! ### Doorbells and waiting grids -/

/-- A doorbell value is taken ahead of TAIL within 2^15 of HEAD, and then it is TAIL (R235). -/
theorem qdbWrite_answers (s : State) (q : Nat) (v : BitVec 64) : Gives (.qdbWrite q v) s fun t =>
    let x := s.queue q
    let w : BitVec 16 := v.setWidth 16
    let taken := (w - x.head).toNat ≤ 2 ^ 15 ∧ (x.tail - x.head).toNat < (w - x.head).toNat
    (∀ k, t.queue k = if k = q ∧ taken then { s.queue k with tail := w } else s.queue k) ∧ { t with queues := s.queues } = s := by
  have low : (BitVec.ofNat 16 (fieldOf v 15 0)) = v.setWidth 16 := by
    refine BitVec.eq_of_toNat_eq ?_
    rw [BitVec.toNat_ofNat, BitVec.toNat_setWidth]
    unfold fieldOf bitsOf
    omega
  refine ⟨ringBell s q (fieldOf v 15 0), rfl, ?_⟩
  unfold ringBell
  rw [low]
  dsimp only
  split
  · next ahead =>
    refine ⟨fun k => ?_, rfl⟩
    rw [State.queue_modQueue]
    simp only [ahead, and_self, and_true]
    split
    · next e => rw [e]
    · rfl
  · next behind =>
    refine ⟨fun k => ?_, rfl⟩
    rw [if_neg fun c => behind c.2]

/-- A grid that has waited 100 us shuts the lower grids out (R246). -/
theorem priorityWaitLimit_blocks {gid t0 : Nat} {g : Grid} (hg : s.grid gid = some g) (hw : g.waitFrom = some t0) (late : t0 + 100000 ≤ s.mgmt.gts.toNat) :
    exec (.priorityWaitLimit gid) s = .next (s.modGrid gid fun g => { g with blocks := true }) := by
  refine (show exec (.priorityWaitLimit gid) s = execPriorityWaitLimit gid s from rfl).trans ?_
  unfold execPriorityWaitLimit
  simp only [hg, hw, if_pos late]

/-! ### Retiring teams -/

theorem State.grid_modGrid (s : State) (n : Nat) (g : Grid → Grid) (j : Nat) :
    (s.modGrid n g).grid j = if j = n then (s.grid n).map g else s.grid j := AMap.get?_adj _ _ _ _

/-- A byte that the head of a list of staged writes does not name is what the rest leaves; where none names it, what memory held. -/
theorem staged_performed {l : Staged} (wf : s.mem.wf = true)
    (plain : ∀ e ∈ l, e.1 = s.fabric.device ∧ e.2.1 < 2 ^ 41 ∧ Plain s (lineOf e.2.1) ∧ mdState (s.md (lineOf e.2.1)) < 3) :
    let t := l.foldr (fun e s => homeWriteN s (gaddr s e.1 e.2.1) 1 e.2.2.toNat) s
    Slices s t ∧ t.mem.wf = true ∧ States s t ∧ ∀ y, t.mem.read y = match l.find? fun e => e.2.1 == y with
      | some e => e.2.2
      | none => s.mem.read y := by
  induction l with
  | nil => exact ⟨.refl s, wf, .refl s, fun _ => rfl⟩
  | cons e l ih =>
    obtain ⟨slices, wf', states, reads⟩ := ih fun x hx => plain x (.tail _ hx)
    obtain ⟨home, _, own, low⟩ := plain e (.head _)
    rw [List.foldr_cons]
    generalize l.foldr (fun e s => homeWriteN s (gaddr s e.1 e.2.1) 1 e.2.2.toNat) s = m at slices wf' states reads
    have at_ : gaddr m e.1 e.2.1 = e.2.1 := by
      unfold gaddr
      rw [slices.fabric, if_pos home]
    obtain ⟨wf2, states2, _, m0, _, quiet, reads2⟩ := homeWriteN_plain (n := 1) (v := e.2.2.toNat) (slices.plain wf' own) Nat.one_pos (by omega)
    have low' : mdState (m.md (lineOf e.2.1)) < 3 := by
      rcases states (lineOf e.2.1) with c | c <;> omega
    rw [at_]
    refine ⟨slices.trans (homeWriteN_slices _ _ _), wf2, states.trans states2, fun y => ?_⟩
    rw [reads2, quiet low', List.find?_cons]
    by_cases here : e.2.1 = y
    · rw [if_pos (by omega), beq_iff_eq.2 here, here, Nat.sub_self, Nat.pow_zero, Nat.div_one]
      exact BitVec.ofNat_toNat _ _ |>.trans (BitVec.setWidth_eq _)
    · rw [if_neg (by omega), beq_eq_false_iff_ne.2 here, reads]

theorem performStaged_slices (tm : Team) : Slices s (performStaged s tm) := by
  unfold performStaged
  split
  · exact .refl s
  · induction tm.staged with
    | nil => exact .refl s
    | cons e l ih => exact ih.trans (homeWriteN_slices _ _ _)

/-- The team that retires next is gone, its grid counts it, and what it staged stands in memory. -/
theorem teamRetire_answers {gid tid : Nat} {g : Grid} {tm : Team} (hg : s.grid gid = some g) (hn : nextToRetire s gid = some tid) (ht : s.team tid = some tm) :
    Gives (.teamRetire gid) s fun t => t.team tid = none ∧
      t.grid gid = some { g with nextRet := g.nextRet + 1, teamsEnd := g.teamsEnd + 1, tend := s.mgmt.gts } ∧
      (tm.stLines.length ≤ 64 → s.mem.wf = true →
        (∀ e ∈ tm.staged, e.1 = s.fabric.device ∧ e.2.1 < 2 ^ 41 ∧ Plain s (lineOf e.2.1) ∧ mdState (s.md (lineOf e.2.1)) < 3) →
        ∀ y, t.mem.read y = match tm.staged.find? fun e => e.2.1 == y with
          | some e => e.2.2
          | none => s.mem.read y) := by
  have retired : exec (.teamRetire gid) s = .next ({ performStaged s tm with teams := (performStaged s tm).teams.del tid }.modGrid gid fun g =>
      { g with nextRet := g.nextRet + 1, teamsEnd := g.teamsEnd + 1, tend := s.mgmt.gts }) := by
    refine (show exec (.teamRetire gid) s = execTeamRetire gid s from rfl).trans ?_
    unfold execTeamRetire
    simp only [hn, ht]
  refine ⟨_, retired, AMap.get?_del_self _ _, ?_, fun few wf plain => ?_⟩
  · rw [State.grid_modGrid, if_pos rfl]
    have kept : ({ performStaged s tm with teams := (performStaged s tm).teams.del tid } : State).grid gid = some g :=
      ((performStaged_slices tm).grid gid).trans hg
    rw [kept]
    rfl
  · have all : performStaged s tm = tm.staged.foldr (fun e s => homeWriteN s (gaddr s e.1 e.2.1) 1 e.2.2.toNat) s := by
      unfold performStaged
      rw [if_neg (by simpa [Team.direct] using few)]
    have mem : ∀ x : State, (({ x with teams := x.teams.del tid } : State).modGrid gid fun g =>
      { g with nextRet := g.nextRet + 1, teamsEnd := g.teamsEnd + 1, tend := s.mgmt.gts }).mem = x.mem := fun _ => rfl
    rw [mem, all]
    exact (staged_performed wf plain).2.2.2

end Sys2Proof.Machine
end

section
/-!
What stays bound while lines are written back, records are posted, logs are written and held host requests are performed: fibres but for their logs, teams,
grids, the time and the modes (R220, R231, R312).
-/

namespace Sys2Proof.Machine

variable {s t u : State}

theorem regs_of_unlogged {a b : Option Fibre} (h : a.map Fibre.unlogged = b.map Fibre.unlogged) : a.map Fibre.regs = b.map Fibre.regs := by
  have e := congrArg (Option.map Fibre.regs) h
  rw [Option.map_map, Option.map_map] at e
  exact e

theorem none_iff_of_unlogged {a b : Option Fibre} (h : a.map Fibre.unlogged = b.map Fibre.unlogged) : a = none ↔ b = none := by
  rw [← Option.map_eq_none_iff, h, Option.map_eq_none_iff]

/-- What is bound stands between two states: fibres but for their logs, teams, grids, the time, the modes. -/
structure Stays (s t : State) : Prop where
  fibs  : ∀ g, (t.fib g).map Fibre.unlogged = (s.fib g).map Fibre.unlogged
  teams : t.teams = s.teams
  grids : t.grids = s.grids
  gts   : t.mgmt.gts = s.mgmt.gts
  mode  : ∀ p, (t.part p).mode = (s.part p).mode

namespace Stays

theorem refl (s : State) : Stays s s := ⟨fun _ => rfl, rfl, rfl, rfl, fun _ => rfl⟩

theorem trans (h : Stays s t) (k : Stays t u) : Stays s u :=
  ⟨fun g => (k.fibs g).trans (h.fibs g), k.teams.trans h.teams, k.grids.trans h.grids, k.gts.trans h.gts, fun p => (k.mode p).trans (h.mode p)⟩

/-- Nothing of what is bound is written. -/
theorem of_eq (hf : t.fibres = s.fibres) (ht : t.teams = s.teams) (hg : t.grids = s.grids) (hm : t.mgmt.gts = s.mgmt.gts)
    (hp : ∀ p, (t.part p).mode = (s.part p).mode) : Stays s t :=
  ⟨fun g => by rw [State.fib_congr hf], ht, hg, hm, hp⟩

theorem of_slices (h : Slices s t) : Stays s t := of_eq h.fibres h.teams h.grids h.gts h.mode

theorem of_logs (h : Logs s t) : Stays s t := ⟨h.fibs, h.teams, h.grids, by rw [h.mgmt], h.mode⟩

theorem of_posts (h : Posts s t) : Stays s t := of_eq h.fibres h.teams h.grids h.gts fun p => (congrArg Part.mode (h.parts p) :)

theorem core {c : Nat} {g : Core → Core} : Stays s (s.modCore c g) := of_eq rfl rfl rfl rfl fun _ => rfl
theorem slot {n : Nat} {g : Slot → Slot} : Stays s (s.modSlot n g) := of_eq rfl rfl rfl rfl fun _ => rfl
theorem queue {n : Nat} {g : Queue → Queue} : Stays s (s.modQueue n g) := of_eq rfl rfl rfl rfl fun _ => rfl

theorem part {p : Nat} {g : Part → Part} (h : ∀ x, (g x).mode = x.mode) : Stays s (s.modPart p g) := by
  refine of_eq rfl rfl rfl rfl fun q => ?_
  by_cases e : q = p
  · subst e
    rw [State.part_modPart_self]
    exact h _
  · rw [State.part_modPart_ne _ _ e]

theorem count {c : Nat} {sl : Option Nat} {ev n : Nat} : Stays s (s.pmCount c sl ev n) := by
  unfold State.pmCount
  split
  · exact refl s
  · exact core

theorem ite {p : Prop} [Decidable p] (h : Stays s t) (k : Stays s u) : Stays s (if p then t else u) := by
  split
  · exact h
  · exact k

theorem foldl {α : Type} {g : State → α → State} (h : ∀ s x, Stays s (g s x)) (l : List α) (s : State) : Stays s (l.foldl g s) := by
  induction l generalizing s with
  | nil => exact refl s
  | cons x r ih => exact (h s x).trans (ih (g s x))

section Fields
variable (h : Stays s t)
include h

theorem team (n : Nat) : t.team n = s.team n := congrArg (fun m => AMap.get? m n) h.teams
theorem grid (n : Nat) : t.grid n = s.grid n := congrArg (fun m => AMap.get? m n) h.grids
theorem ordered (p : Nat) : t.ordered p = s.ordered p := by unfold State.ordered; rw [h.mode]

theorem none_ {g : Nat} (hs : s.fib g = none) : t.fib g = none := (none_iff_of_unlogged (h.fibs g)).2 hs

theorem regs (g : Nat) : (t.fib g).map Fibre.regs = (s.fib g).map Fibre.regs := regs_of_unlogged (h.fibs g)

end Fields
end Stays

/-! ### Lines written back -/

/-- An entry that a table answers stands in it. -/
theorem AMap.mem_of_get? {α : Type} {m : AMap α} {k : Nat} {v : α} (h : m.get? k = some v) : (k, v) ∈ m := by
  induction m with
  | nil => cases h
  | cons e r ih =>
    obtain ⟨k', v'⟩ := e
    rw [AMap.get?] at h
    split at h
    · next own => cases h; subst own; exact .head _
    · exact .tail _ (ih h)

/-- Bytes were written back between two states: what is bound stays, and no L1 holds dirty bytes of a line of which it held none. -/
structure Backs (s t : State) : Prop where
  stays : Stays s t
  clean : ∀ c ln, (s.l1 c ln).dirty = 0 → (t.l1 c ln).dirty = 0

namespace Backs

theorem refl (s : State) : Backs s s := ⟨.refl s, fun _ _ h => h⟩

theorem trans (h : Backs s t) (k : Backs t u) : Backs s u := ⟨h.stays.trans k.stays, fun c ln e => k.clean c ln (h.clean c ln e)⟩

/-- The cores keep their L1s. -/
theorem of_stays (h : Stays s t) (hl : ∀ c, (t.core c).l1 = (s.core c).l1) : Backs s t :=
  ⟨h, fun c ln e => by rw [State.l1, hl c]; exact e⟩

theorem of_slices (h : Slices s t) : Backs s t := of_stays (.of_slices h) fun c => by rw [h.core]

/-- A core changes its L1 in a way that makes no line dirty. -/
theorem core {c : Nat} {g : Core → Core} (h : ∀ k ln, (k.l1.getD ln L1Line.empty).dirty = 0 → ((g k).l1.getD ln L1Line.empty).dirty = 0) :
    Backs s (s.modCore c g) := by
  refine ⟨.core, fun j ln e => ?_⟩
  unfold State.l1
  rw [State.core_modCore]
  split
  · next o => subst o; exact h _ _ e
  · exact e

theorem count {c : Nat} {sl : Option Nat} {ev n : Nat} : Backs s (s.pmCount c sl ev n) := by
  refine of_stays .count fun j => ?_
  unfold State.pmCount
  split
  · rfl
  · rw [State.core_modCore]
    split
    · next o =>
      subst o
      unfold Core.pmCount
      split <;> rfl
    · rfl

theorem ite {p : Prop} [Decidable p] (h : Backs s t) (k : Backs s u) : Backs s (if p then t else u) := by
  split
  · exact h
  · exact k

theorem foldl {α : Type} {g : State → α → State} (h : ∀ s x, Backs s (g s x)) (l : List α) (s : State) : Backs s (l.foldl g s) := by
  induction l generalizing s with
  | nil => exact refl s
  | cons x r ih => exact (h s x).trans (ih (g s x))

end Backs

theorem cleanLine_backs (c ln : Nat) : Backs s (cleanLine s c ln) ∧ ((cleanLine s c ln).l1 c ln).dirty = 0 := by
  unfold cleanLine
  extract_lets l s0 s1
  have h0 : Backs s s0 := .of_slices (homeWrite_slices _ _ _)
  have h1 : Backs s s1 := .ite (h0.trans .count) h0
  refine ⟨h1.trans (.core fun k j e => ?_), ?_⟩
  · change ((k.l1.upd ln L1Line.empty fun l => { l with valid := l.valid ||| l.dirty, dirty := 0 }).getD j L1Line.empty).dirty = 0
    rw [AMap.getD_upd]
    split
    · rfl
    · exact e
  · unfold State.l1
    rw [State.core_modCore, if_pos rfl]
    change ((AMap.upd _ ln L1Line.empty fun l => { l with valid := l.valid ||| l.dirty, dirty := 0 }).getD ln L1Line.empty).dirty = 0
    rw [AMap.getD_upd, if_pos rfl]

theorem ownRoom_backs (c ln : Nat) : Backs s (ownRoom s c ln) := by
  unfold ownRoom
  split
  · exact .ite (.refl s) ((cleanLine_backs _ _).1.trans (.of_slices .line))
  · exact .refl s

theorem freshWords_backs (c ln : Nat) (m : BitVec 32) : Backs s (freshWords s c ln m) := by
  refine .core fun k j e => ?_
  change ((k.l1.adj ln fun l => { l with data := _ }).getD j L1Line.empty).dirty = 0
  unfold AMap.getD at e ⊢
  rw [AMap.get?_adj]
  split
  · next o =>
    subst o
    cases h : k.l1.get? j with
    | none => rfl
    | some l => rw [h] at e; exact e
  · exact e

theorem registerWords_backs (c ln : Nat) (m : BitVec 32) : Backs s (registerWords s c ln m) :=
  ((ownRoom_backs _ _).trans (freshWords_backs _ _ _)).trans (.of_slices .line)

theorem writeBack_backs (c ln : Nat) : Backs s (writeBack s c ln) ∧ ((writeBack s c ln).l1 c ln).dirty = 0 := by
  unfold writeBack
  extract_lets d
  split
  · next clean => exact ⟨.refl s, clean⟩
  · have cleaned := cleanLine_backs (s := ownRoom s c ln) c ln
    exact ⟨((ownRoom_backs _ _).trans cleaned.1).trans (registerWords_backs _ _ _), (registerWords_backs _ _ _).clean _ _ cleaned.2⟩

/-- Every dirty byte of a core is written back. -/
theorem writeBackAll_backs (c : Nat) : Backs s (writeBackAll s c) ∧ ∀ ln, ((writeBackAll s c).l1 c ln).dirty = 0 := by
  have each : ∀ (l : List Nat) (s : State), Backs s (l.foldl (fun s ln => writeBack s c ln) s) ∧
      ∀ ln ∈ l, ((l.foldl (fun s ln => writeBack s c ln) s).l1 c ln).dirty = 0 := by
    intro l
    induction l with
    | nil => exact fun s => ⟨.refl s, fun _ h => nomatch h⟩
    | cons x r ih =>
      intro s
      obtain ⟨backs, all⟩ := ih (writeBack s c x)
      refine ⟨(writeBack_backs c x).1.trans backs, fun ln h => ?_⟩
      rcases List.mem_cons.1 h with e | e
      · rw [e]
        exact backs.clean _ _ (writeBack_backs c x).2
      · exact all ln e
  obtain ⟨backs, all⟩ := each (s.core c).l1.keys s
  refine ⟨backs, fun ln => ?_⟩
  by_cases held : ln ∈ (s.core c).l1.keys
  · exact all ln held
  · refine backs.clean c ln ?_
    have none_ : (s.core c).l1.get? ln = none := by
      cases e : (s.core c).l1.get? ln with
      | none => rfl
      | some x => exact absurd (List.mem_map_of_mem (f := (·.1)) (AMap.mem_of_get? e)) held
    rw [State.l1, AMap.getD, none_]
    rfl

/-- Nothing is written back where nothing is dirty. -/
theorem writeBackAll_clean {c : Nat} (h : ∀ ln, (s.l1 c ln).dirty = 0) : writeBackAll s c = s := by
  have one ln : writeBack s c ln = s := by
    unfold writeBack
    rw [h ln]
    rfl
  unfold writeBackAll
  induction (s.core c).l1.keys with
  | nil => rfl
  | cons x r ih => rw [List.foldl_cons, one, ih]

theorem writeBackAll_each (l : List Nat) (s : State) : Backs s (l.foldl writeBackAll s) ∧ ∀ c ∈ l, ∀ ln, ((l.foldl writeBackAll s).l1 c ln).dirty = 0 := by
  induction l generalizing s with
  | nil => exact ⟨.refl s, fun _ h => nomatch h⟩
  | cons x r ih =>
    obtain ⟨backs, all⟩ := ih (writeBackAll s x)
    refine ⟨(writeBackAll_backs x).1.trans backs, fun c h ln => ?_⟩
    rcases List.mem_cons.1 h with e | e
    · rw [e]
      exact backs.clean _ _ ((writeBackAll_backs x).2 ln)
    · exact all c e ln

theorem writeBackAll_idle {l : List Nat} (h : ∀ c ln, (s.l1 c ln).dirty = 0) : l.foldl writeBackAll s = s := by
  induction l with
  | nil => rfl
  | cons x r ih => rw [List.foldl_cons, writeBackAll_clean (h x), ih]

/-! ### Held host requests -/

/-- Host requests were performed between two states: beside what home slices may change, what engine operations note of writes, and what management notes of
hosts, nothing differs. -/
structure Hosts (s t : State) : Prop where
  frame : { t with lines := s.lines, mem := s.mem, free := s.free, hbm := s.hbm, parts := s.parts, mgmt := s.mgmt, ops := s.ops } = s
  gts   : t.mgmt.gts = s.mgmt.gts
  mode  : ∀ p, (t.part p).mode = (s.part p).mode

namespace Hosts

theorem refl (s : State) : Hosts s s := ⟨rfl, rfl, fun _ => rfl⟩

theorem trans (h : Hosts s t) (k : Hosts t u) : Hosts s u where
  frame := by
    have e := congrArg (fun x : State => { x with lines := s.lines, mem := s.mem, free := s.free, hbm := s.hbm, parts := s.parts, mgmt := s.mgmt, ops := s.ops }) k.frame
    exact e.trans h.frame
  gts := k.gts.trans h.gts
  mode p := (k.mode p).trans (h.mode p)

theorem of_slices (h : Slices s t) : Hosts s t :=
  ⟨congrArg (fun x : State => { x with ops := s.ops }) h.frame, h.gts, h.mode⟩

theorem told {g : Mgmt → Mgmt} (h : (g s.mgmt).gts = s.mgmt.gts) : Hosts s (s.modMgmt g) := ⟨rfl, h, fun _ => rfl⟩

theorem ite {p : Prop} [Decidable p] (h : Hosts s t) (k : Hosts s u) : Hosts s (if p then t else u) := by
  split
  · exact h
  · exact k

theorem foldl {α : Type} {g : State → α → State} (h : ∀ s x, Hosts s (g s x)) (l : List α) (s : State) : Hosts s (l.foldl g s) := by
  induction l generalizing s with
  | nil => exact refl s
  | cons x r ih => exact (h s x).trans (ih (g s x))

section Fields
variable (h : Hosts s t)
include h

theorem cores : t.cores = s.cores := (congrArg State.cores h.frame :)
theorem queues : t.queues = s.queues := (congrArg State.queues h.frame :)
theorem stays : Stays s t := .of_eq (congrArg State.fibres h.frame :) (congrArg State.teams h.frame :) (congrArg State.grids h.frame :) h.gts h.mode

end Fields
end Hosts

theorem hostOwn_slices (port ln : Nat) : Slices s (hostOwn s port ln) := by
  unfold hostOwn
  extract_lets m s1
  have h1 : Slices s s1 := gather_slices _ _
  split
  · exact (h1.trans (recallData_slices _)).trans (setMd_slices _ _ _)
  · exact (h1.trans (recallData_slices _)).trans (setMd_slices _ _ _)
  · exact (Slices.ite (h1.trans (snoopData_slices _)) h1).trans (setMd_slices _ _ _)
  · exact h1.trans (setMd_slices _ _ _)

theorem settledWrite_hosts (ln : Nat) (d : BitVec 1024) (m : BitVec 128) : Hosts s (settledWrite s ln d m) := by
  unfold settledWrite
  extract_lets s1 s2
  have h0 : Hosts s (stirMask s ln m) := ⟨rfl, rfl, fun _ => rfl⟩
  have h2 : Slices (stirMask s ln m) s2 := .ite ((undoCapture_slices _).trans (setPoison_slices _ _)) (undoCapture_slices _)
  exact .ite (.refl s) (h0.trans (.of_slices ((h2.trans (lineWrite_slices _ _ _)).trans (dropOwn_slices _ _))))

theorem hostPut_hosts (x : HeldHost) : Hosts s (hostPut s x) := by
  unfold hostPut
  extract_lets ln told s0 s1 n
  have h0 : Hosts s s0 := (Hosts.of_slices (fetchLine_slices _ _)).trans (.told rfl)
  have h1 : Hosts s s1 := h0.trans (.of_slices (hostOwn_slices _ _))
  refine .ite (.told rfl) (.ite h0 (.ite ?_ ?_))
  · exact (h1.trans (.of_slices .line)).trans (.told rfl)
  · exact (h1.trans (.told rfl)).trans (settledWrite_hosts _ _ _)

theorem releaseHost_hosts (p : Nat) : Hosts s (releaseHost s p) := by
  unfold releaseHost
  extract_lets mine now
  refine .ite (.refl s) (Hosts.trans (.told rfl) (.foldl (fun _ _ => hostPut_hosts _) _ _))

theorem releaseHost_idle {p : Nat} (h : s.mgmt.hostHeld = []) : (releaseHost s p).mem = s.mem := by
  unfold releaseHost
  rw [h]
  split
  · rfl
  · rfl

end Sys2Proof.Machine
end

section
/-!
The end of a grid: its lines written back, its entry posted, its packet no longer open, and the held host requests performed (R231, R237, R241, R312).
-/

namespace Sys2Proof.Machine

variable {s t u : State}

/-- A grid deleted from both states. -/
theorem Stays.delGrid (h : Stays s t) (gid : Nat) : Stays { s with grids := s.grids.del gid } { t with grids := t.grids.del gid } :=
  ⟨h.fibs, h.teams, congrArg (·.del gid) h.grids, h.gts, h.mode⟩

theorem Backs.delGrid (h : Backs s t) (gid : Nat) : Backs { s with grids := s.grids.del gid } { t with grids := t.grids.del gid } :=
  ⟨h.stays.delGrid gid, h.clean⟩

theorem Backs.of_posts (h : Posts s t) : Backs s t := .of_stays (.of_posts h) fun c => by rw [h.core]

theorem settleMarks_backs (q : Nat) (l : List (Nat × List DWord × List Nat)) (s : State) : Backs s (settleMarks s q l) := by
  induction l generalizing s with
  | nil => exact .refl s
  | cons m r ih =>
    unfold settleMarks
    extract_lets v s1
    have h1 : Backs s s1 := .of_posts (writeCompletion_posts _ _ _ _)
    exact .ite (ih s) ((h1.trans (.of_stays .queue fun _ => rfl)).trans (ih _))

theorem packetDone_backs (q idx : Nat) : Backs s (packetDone s q idx) :=
  Backs.trans (.of_stays .queue fun _ => rfl) (settleMarks_backs q _ _)

/-- Where no marker waits, a packet that has completed is open no more, and no more changes. -/
theorem packetDone_unmarked {q idx : Nat} (h : (s.queue q).marks = []) :
    packetDone s q idx = s.modQueue q fun x => { x with open_ := x.open_.erase idx } := by
  unfold packetDone
  extract_lets s1
  have none_ : (s1.queue q).marks = [] := by
    unfold s1
    rw [State.queue_modQueue, if_pos rfl]
    exact h
  rw [none_]
  rfl

/-! ### The states that the end of a grid goes through -/

/-- The grid's cores have written back what they held dirty. -/
def releasedBy (s : State) (g : Grid) : State := (s.coresOf g.part).foldl writeBackAll s

/-- The grid's entry is posted, and the grid is no more. -/
def entered (s : State) (gid : Nat) (g : Grid) (status : Nat) : State :=
  let s2 := writeCompletion (releasedBy s g) g.part g.vi g.packet (completionEntry s g status)
  { s2 with grids := s2.grids.del gid }

theorem writeBackAll_kept (c : Nat) : Kept s (writeBackAll s c) := .foldl (fun _ _ => writeBack_kept _ _) _ _

theorem releasedBy_kept (s : State) (g : Grid) : Kept s (releasedBy s g) := .foldl (fun _ _ => writeBackAll_kept _) _ _

theorem entered_backs (s : State) (gid : Nat) (g : Grid) (status : Nat) : Backs { s with grids := s.grids.del gid } (entered s gid g status) :=
  ((writeBackAll_each _ _).1.trans (.of_posts (writeCompletion_posts _ _ _ _))).delGrid gid

theorem entered_queue (s : State) (gid : Nat) (g : Grid) (status q : Nat) : (entered s gid g status).queue q = s.queue q :=
  ((writeCompletion_posts _ _ _ _).queue q).trans (congrArg (fun m => AMap.getD m q Queue.init) (releasedBy_kept s g).queues)

theorem entered_clean (s : State) (gid : Nat) (g : Grid) (status : Nat) {c : Nat} (h : c ∈ s.coresOf g.part) (ln : Nat) :
    ((entered s gid g status).l1 c ln).dirty = 0 :=
  (Backs.of_posts (writeCompletion_posts _ _ _ _)).clean _ _ ((writeBackAll_each (s.coresOf g.part) s).2 c h ln)

section End
variable {gid status : Nat} {g : Grid} (hg : s.grid gid = some g)
include hg

theorem endGrid_eq : ∃ h : Part → Part, (∀ x, (h x).mode = x.mode) ∧
    endGrid s gid status = releaseHost ((packetDone (entered s gid g status) g.queue g.idx).modPart g.part h) g.part := by
  refine ⟨fun t => { t with urState := if t.urState = .guarded then (if s.recording g.part then .capture else .idle) else t.urState }, fun _ => rfl, ?_⟩
  unfold endGrid
  rw [hg]
  rfl

/-- The end of a grid leaves what is bound, but the grid. -/
theorem endGrid_backs : Backs { s with grids := s.grids.del gid } (endGrid s gid status) := by
  obtain ⟨h, mode, e⟩ := endGrid_eq (status := status) hg
  rw [e]
  have done : Backs (packetDone (entered s gid g status) g.queue g.idx) ((packetDone (entered s gid g status) g.queue g.idx).modPart g.part h) :=
    .of_stays (.part mode) fun _ => rfl
  refine (((entered_backs s gid g status).trans (packetDone_backs _ _)).trans done).trans ?_
  exact .of_stays (releaseHost_hosts _).stays fun c => congrArg (fun m => (AMap.getD m c Core.init).l1) (releaseHost_hosts g.part).cores

theorem endGrid_clean {c : Nat} (hc : c ∈ s.coresOf g.part) (ln : Nat) : ((endGrid s gid status).l1 c ln).dirty = 0 := by
  obtain ⟨h, mode, e⟩ := endGrid_eq (status := status) hg
  rw [e, State.l1, State.core, (releaseHost_hosts g.part).cores]
  exact (packetDone_backs g.queue g.idx).clean _ _ (entered_clean s gid g status hc ln)

theorem endGrid_open (none_ : (s.queue g.queue).marks = []) :
    ((endGrid s gid status).queue g.queue).open_ = (s.queue g.queue).open_.erase g.idx := by
  obtain ⟨h, mode, e⟩ := endGrid_eq (status := status) hg
  have own := entered_queue s gid g status g.queue
  rw [e, State.queue, (releaseHost_hosts g.part).queues, packetDone_unmarked (by rw [own]; exact none_)]
  change (((entered s gid g status).modQueue g.queue fun x => { x with open_ := x.open_.erase g.idx }).queue g.queue).open_ = _
  rw [State.queue_modQueue, if_pos rfl, own]

/-- Where nothing is dirty, no request is held and no marker waits, memory is what the entry left. -/
theorem endGrid_mem (clean : ∀ c ln, (s.l1 c ln).dirty = 0) (held : s.mgmt.hostHeld = []) (none_ : (s.queue g.queue).marks = []) :
    (endGrid s gid status).mem = (writeCompletion s g.part g.vi g.packet (completionEntry s g status)).mem := by
  obtain ⟨h, mode, e⟩ := endGrid_eq (status := status) hg
  have own := entered_queue s gid g status g.queue
  have same : entered s gid g status = { writeCompletion s g.part g.vi g.packet (completionEntry s g status) with
      grids := (writeCompletion s g.part g.vi g.packet (completionEntry s g status)).grids.del gid } := by
    unfold entered releasedBy
    rw [writeBackAll_idle clean]
  have hosts : (writeCompletion s g.part g.vi g.packet (completionEntry s g status)).mgmt.hostHeld = [] :=
    (writeCompletion_posts _ _ _ _).hostHeld.trans held
  rw [e, packetDone_unmarked (by rw [own]; exact none_), releaseHost_idle]
  · rw [same]
    rfl
  · rw [same]
    exact hosts

end End

/-- The completed grid is no more, its packet no longer open, its cores hold nothing dirty, and its entry stands. -/
theorem gridComplete_answers {gid : Nat} {g : Grid} (hg : s.grid gid = some g) (bound : boundHere s g = true) (runs : g.abort = none)
    (placed : g.placed = gridTeams g.packet) (ended : g.teamsEnd = gridTeams g.packet) : Gives (.gridComplete gid) s fun t =>
      t.grid gid = none ∧ ((s.queue g.queue).marks = [] → (t.queue g.queue).open_ = (s.queue g.queue).open_.erase g.idx) ∧
      (∀ k ∈ s.coresOf g.part, ∀ ln, (t.l1 k ln).dirty = 0) ∧
      ∀ cp, (∀ k ln, (s.l1 k ln).dirty = 0) → s.mgmt.hostHeld = [] → (s.queue g.queue).marks = [] → pkCpl g.packet = true →
        (nth g.packet 6 0).toNat % 64 = 0 → transNow (walkReads g.vi (nth g.packet 6 0).toNat s) g.vi (nth g.packet 6 0).toNat 512 true = .ok cp → Plain s (lineOf cp) →
        EntryAt t cp [BitVec.ofNat 64 (gridTeams g.packet * 2 ^ 32 + (if g.anclost then 2 ^ 10 else 0) +
          (if g.unprot || (s.part g.part).urState == .noprot then 2 ^ 9 else 0) + (if g.relaunch = 0 then 0 else 2 ^ 8)), g.tstart.getD 0, g.tend] := by
  have completed : exec (.gridComplete gid) s = .next (endGrid s gid 0) := by
    refine (show exec (.gridComplete gid) s = execGridComplete gid s from rfl).trans ?_
    unfold execGridComplete
    simp only [hg, bound, runs, placed, ended, Option.isNone_none, beq_self_eq_true, Bool.and_self, if_true]
  refine ⟨_, completed, ?_, endGrid_open hg, fun k hk ln => endGrid_clean hg hk ln, fun cp clean held none_ cpl al ok plain i d hd => ?_⟩
  · exact ((endGrid_backs hg).stays.grid gid).trans (AMap.get?_del_self _ _)
  · have lt : i < 3 := by
      obtain ⟨k, _⟩ := List.getElem?_eq_some_iff.1 hd
      simpa using k
    rw [endGrid_mem hg clean held none_, writeCompletion_writes cpl al ok plain i (by omega)]
    unfold completionEntry
    rw [nth, List.getD_eq_getElem?_getD, List.append_assoc, List.getElem?_append_left (by simpa using lt), ended]
    simp only [Nat.add_zero, hd, Option.getD_some]

end Sys2Proof.Machine
end

section
/-!
Fibres released and grids aborted: what the release of a fibre leaves of its team and its grid, and what an aborted grid leaves (R17, R115, R167, R257, R263).
-/

namespace Sys2Proof.Machine

variable {s t u : State}

/-! ### What stays -/

theorem freeTeam_stays (tid : Nat) : Stays s (freeTeam s tid) := by
  unfold freeTeam
  split
  · exact .refl s
  · extract_lets rings s1
    exact Stays.trans .core (.foldl (fun _ _ => .slot) _ _)

theorem handOver_stays (f why : Nat) : Stays s (handOver s f why) := by
  unfold handOver
  extract_lets n ric s1
  exact .ite (Stays.trans .slot .count) (.refl s)

theorem dropNow_stays (f : Nat) (r : BitVec 128) : Stays s (dropNow s f r) := by
  unfold dropNow
  extract_lets c
  split
  · split
    · exact ((writeBack_backs _ _).1.stays.trans .core).trans (.of_slices .line)
    · exact .refl s
  · exact .core

theorem looseDrops_stays (p f : Nat) : ∀ (n : Nat) (s : State), Stays s (looseDrops s p f n)
  | 0, s => .refl s
  | n + 1, s => by
    unfold looseDrops
    split
    · refine .ite (.refl s) (Stays.trans ?_ (looseDrops_stays p f n _))
      exact (dropNow_stays _ _).trans (.part fun _ => rfl)
    · exact .refl s

theorem endLogs_stays (p reason : Nat) : Stays s (endLogs s p reason) := by
  unfold endLogs
  refine Stays.trans (t := (((s.fibresOf p).foldl (fun s f => chunkEnd s f 3 0) s).modPart p fun t => { t with ended := true })) ?_ (.foldl (fun s k => ?_) _ _)
  · exact Stays.trans (.foldl (fun s f => .of_logs (chunkEnd_logs f 3 0)) _ _) (.part fun _ => rfl)
  · exact .ite (.refl s) (.of_logs ((emit_logs _ _ _).trans .recorder))

/-! ### The states that a release goes through -/

/-- The fibre has ended its chunk and left the admitted set and its slot. -/
def departed (s : State) (fid : Nat) : State := handOver (leaveSet (chunkEnd (noteLate s fid) fid 3 0) fid) fid 5

theorem departed_stays (fid : Nat) : Stays s (departed s fid) :=
  (((Stays.of_logs (noteLate_logs _)).trans (.of_logs (chunkEnd_logs _ _ _))).trans .core).trans (handOver_stays _ _)

/-- The fibre is gone from its grid's counts, its slot and its team. -/
def parted (s : State) (fid : Nat) (f : Fibre) (gid : Nat) : State :=
  let s3 := (s.modGrid gid (addAppend f)).modSlot (slotOf fid) (leaveRegion fid f)
  { s3 with fibres := s3.fibres.del fid }.modTeam f.team fun t => { t with live := t.live.filter (· != fid) }

section Parted
variable {fid gid : Nat} {f : Fibre}

theorem parted_fib (g : Nat) : (parted s fid f gid).fib g = if g = fid then none else s.fib g := AMap.get?_del _ _ _

theorem parted_grid (n : Nat) : (parted s fid f gid).grid n = if n = gid then (s.grid gid).map (addAppend f) else s.grid n := AMap.get?_adj _ _ _ _

theorem parted_team (n : Nat) : (parted s fid f gid).team n =
    if n = f.team then (s.team f.team).map fun t => { t with live := t.live.filter (· != fid) } else s.team n := AMap.get?_adj _ _ _ _

end Parted

/-- What a partition notes of a fibre released: its last count, and what its log still holds. -/
def noteReleased (fid ric : Nat) (rest : List (BitVec 128)) (t : Part) : Part :=
  { t with lastRic := t.lastRic.set fid ric, replay := t.replay.map fun r => if rest.isEmpty then r else { r with logs := r.logs.set fid rest } }

/-- Releasing a fibre is departing, parting, ending its team, and the drops that are left of its log; only logs differ between departing and parting. -/
theorem releaseFibre_eq {fid : Nat} {f : Fibre} (hf : s.fib fid = some f) : ∃ v n, Stays s v ∧
    releaseFibre s fid = looseDrops (endTeam (parted v fid f (((s.team f.team).map (·.grid)).getD 0)) f.team) (s.partOf fid) fid n := by
  have stays : ∀ rest, Stays s ((departed s fid).modPart (s.partOf fid) (noteReleased fid f.ric.toNat rest)) :=
    fun _ => (departed_stays fid).trans (.part fun _ => rfl)
  refine ⟨_, ((((departed s fid).fib fid).map (·.log)).getD []).length, stays ((((departed s fid).fib fid).map (·.log)).getD []), ?_⟩
  unfold releaseFibre
  rw [hf]
  rfl

/-! ### Teams that end -/

section EndTeam
variable {tid : Nat} {tm : Team} {g : Grid}

/-- A team with live fibres goes on. -/
theorem endTeam_live (ht : s.team tid = some tm) (live : tm.live ≠ []) : endTeam s tid = s := by
  unfold endTeam
  simp only [ht]
  rw [if_pos (by simpa using live)]

/-- A team without live fibres in an ordered mode waits for its turn to retire. -/
theorem endTeam_ordered (ht : s.team tid = some tm) (hg : s.grid tm.grid = some g) (live : tm.live = []) (h : (s.ordered g.part && g.abort.isNone) = true) :
    endTeam s tid = (freeTeam s tid).modTeam tid fun t => { t with finished := true } := by
  unfold endTeam
  simp only [ht, hg, live, h, List.isEmpty_nil, Bool.not_true, Bool.false_eq_true, if_false, if_true]

/-- A team of an aborted grid without live fibres is gone. -/
theorem endTeam_aborted (ht : s.team tid = some tm) (hg : s.grid tm.grid = some g) (live : tm.live = []) (h : g.abort.isSome = true) :
    endTeam s tid = { freeTeam s tid with teams := (freeTeam s tid).teams.del tid } := by
  have no : (s.ordered g.part && g.abort.isNone) = false := by
    cases e : g.abort with
    | none => rw [e] at h; cases h
    | some x => simp
  unfold endTeam
  simp only [ht, hg, live, h, no, List.isEmpty_nil, Bool.not_true, Bool.false_eq_true, if_false, if_true]

/-- A team without live fibres is gone, and its grid counts it. -/
theorem endTeam_counted (ht : s.team tid = some tm) (hg : s.grid tm.grid = some g) (live : tm.live = []) (ord : s.ordered g.part = false)
    (h : g.abort = none) : endTeam s tid = { freeTeam s tid with teams := (freeTeam s tid).teams.del tid }.modGrid tm.grid fun g =>
      { g with teamsEnd := g.teamsEnd + 1, tend := s.mgmt.gts } := by
  unfold endTeam
  simp only [ht, hg, live, h, ord, List.isEmpty_nil, Bool.not_true, Bool.false_and, Bool.false_eq_true, Option.isSome_none, if_false]

/-- The end of a team binds and releases no fibre, and ends no grid. -/
theorem endTeam_fewer : (∀ f, ((endTeam s tid).fib f).map Fibre.unlogged = (s.fib f).map Fibre.unlogged) ∧
    ∀ n, ((endTeam s tid).grid n).isSome = (s.grid n).isSome := by
  have freed := freeTeam_stays (s := s) tid
  have grids : ∀ n, ((freeTeam s tid).grid n).isSome = (s.grid n).isSome := fun n => by rw [freed.grid]
  unfold endTeam
  split
  · exact ⟨fun _ => rfl, fun _ => rfl⟩
  · split
    · exact ⟨fun _ => rfl, fun _ => rfl⟩
    · extract_lets s1
      split
      · exact ⟨freed.fibs, grids⟩
      · split
        · exact ⟨freed.fibs, grids⟩
        · split
          · exact ⟨freed.fibs, grids⟩
          · refine ⟨freed.fibs, fun n => ?_⟩
            rw [State.grid_modGrid]
            split
            · next e => subst e; rw [Option.isSome_map]; exact grids _
            · exact grids n

/-- What a team leaves of itself and of its grid when its end is due. -/
theorem endTeam_answers (ht : s.team tid = some tm) (hg : s.grid tm.grid = some g) :
    let ends := tm.live.isEmpty && !s.ordered g.part && g.abort.isNone
    (endTeam s tid).grid tm.grid = some (if ends then { g with teamsEnd := g.teamsEnd + 1, tend := s.mgmt.gts } else g) ∧
    (ends = true → (endTeam s tid).team tid = none) ∧ (tm.live ≠ [] → (endTeam s tid).team tid = some tm) := by
  intro ends
  have freed := freeTeam_stays (s := s) tid
  have grid : (freeTeam s tid).grid tm.grid = some g := (freed.grid _).trans hg
  by_cases live : tm.live = []
  · by_cases run : g.abort = none
    · by_cases ord : s.ordered g.part = true
      · have no : ends = false := by simp [ends, ord]
        rw [endTeam_ordered ht hg live (by rw [ord, run]; rfl), no]
        exact ⟨grid, (fun c => nomatch c), fun c => absurd live c⟩
      · rw [Bool.not_eq_true] at ord
        have yes : ends = true := by simp [ends, live, ord, run]
        rw [endTeam_counted ht hg live ord run, yes]
        refine ⟨?_, fun _ => AMap.get?_del_self _ _, fun c => absurd live c⟩
        rw [State.grid_modGrid, if_pos rfl]
        change Option.map _ ((freeTeam s tid).grid tm.grid) = _
        rw [grid]
        rfl
    · have abort : g.abort.isNone = false := Option.isNone_eq_false_iff.2 (Option.isSome_iff_ne_none.2 run)
      have no : ends = false := by
        unfold ends
        rw [abort, Bool.and_false]
      rw [endTeam_aborted ht hg live (Option.isSome_iff_ne_none.2 run), no]
      exact ⟨grid, (fun c => nomatch c), fun c => absurd live c⟩
  · have no : ends = false := by simp [ends, live]
    rw [endTeam_live ht live, no]
    exact ⟨hg, (fun c => nomatch c), fun _ => ht⟩

end EndTeam

/-! ### Fibres released -/

section Release
variable {fid : Nat} {f : Fibre}

/-- A release ends no grid and binds no fibre, and the fibre is gone. -/
theorem releaseFibre_fewer (fid : Nat) : (releaseFibre s fid).fib fid = none ∧ (∀ h, s.fib h = none → (releaseFibre s fid).fib h = none) ∧
    ∀ n, ((releaseFibre s fid).grid n).isSome = (s.grid n).isSome := by
  cases hf : s.fib fid with
  | none =>
    have idle : releaseFibre s fid = s := by
      unfold releaseFibre
      rw [hf]
    rw [idle]
    exact ⟨hf, fun _ h => h, fun _ => rfl⟩
  | some f =>
    obtain ⟨v, n, stays, e⟩ := releaseFibre_eq hf
    have drops := looseDrops_stays (s.partOf fid) fid n (endTeam (parted v fid f (((s.team f.team).map (·.grid)).getD 0)) f.team)
    obtain ⟨fibs, grids⟩ := endTeam_fewer (s := parted v fid f (((s.team f.team).map (·.grid)).getD 0)) (tid := f.team)
    rw [e]
    refine ⟨drops.none_ ((none_iff_of_unlogged (fibs _)).2 ?_), fun h hn => drops.none_ ((none_iff_of_unlogged (fibs _)).2 ?_), fun k => ?_⟩
    · rw [parted_fib, if_pos rfl]
    · rw [parted_fib]
      split
      · rfl
      · exact stays.none_ hn
    · rw [drops.grid, grids, parted_grid]
      split
      · next e => rw [Option.isSome_map, stays.grid, e]
      · rw [stays.grid]

/-- A fibre whose lanes have all exited is gone with its counts in its grid; the last of its team ends the team. -/
theorem fibreRelease_answers (hf : s.fib fid = some f) (done : f.liveMask = 0) (idle : f.run = none) (thawed : f.sched ≠ .frozen)
    (ops : ∀ o ∈ s.ops, o.fibre ≠ fid) : Gives (.fibreRelease fid) s fun t =>
      t.fib fid = none ∧ (∀ h, h ≠ fid → (t.fib h).map Fibre.regs = (s.fib h).map Fibre.regs) ∧
      ∀ tm g, s.team f.team = some tm → s.grid tm.grid = some g →
        let rest := tm.live.filter fun h => h != fid
        let ends := rest.isEmpty && !s.ordered g.part && g.abort.isNone
        (∃ g1, t.grid tm.grid = some g1 ∧ g1.teamsEnd = g.teamsEnd + ends.toNat ∧ g1.tend = (if ends then s.mgmt.gts else g.tend) ∧
          ∀ j < 4, vget g1.used j 0 = min (2 ^ 32 - 1) (vget g.used j 0 + (vget f.append j 0).toNat) ∧
            vget g1.ovf j false = (vget g.ovf j false || vget f.ovf j false)) ∧
        (ends = true → t.team f.team = none) ∧ (rest ≠ [] → t.team f.team = some { tm with live := rest }) := by
  have may : releasable s fid = true := by
    have none_ : (s.ops.any fun o => o.fibre == fid) = false := by
      rw [List.any_eq_false]
      exact fun o ho => by simpa using ops o ho
    unfold releasable
    simp only [hf, done, idle, none_]
    simpa using thawed
  have released : exec (.fibreRelease fid) s = .next (releaseFibre s fid) := by
    refine (show exec (.fibreRelease fid) s = execFibreRelease fid s from rfl).trans ?_
    unfold execFibreRelease
    rw [if_pos may]
  obtain ⟨v, n, stays, e⟩ := releaseFibre_eq hf
  refine ⟨_, released, (releaseFibre_fewer fid).1, fun h hh => ?_, fun tm g ht hg => ?_⟩
  · rw [e, (looseDrops_stays _ _ _ _).regs, regs_of_unlogged (endTeam_fewer.1 h), parted_fib, if_neg hh, stays.regs]
  · intro rest ends
    rw [e, ht]
    have team : (parted v fid f tm.grid).team f.team = some { tm with live := rest } := by
      rw [parted_team, if_pos rfl, stays.team, ht]
      rfl
    have grid : (parted v fid f tm.grid).grid tm.grid = some (addAppend f g) := by
      rw [parted_grid, if_pos rfl, stays.grid, hg]
      rfl
    have ord : (parted v fid f tm.grid).ordered g.part = s.ordered g.part := stays.ordered _
    obtain ⟨counted, gone, goes⟩ := endTeam_answers team grid
    rw [show (addAppend f g).part = g.part from rfl, ord, show (addAppend f g).abort = g.abort from rfl] at counted gone
    have drops := looseDrops_stays (s.partOf fid) fid n (endTeam (parted v fid f tm.grid) f.team)
    refine ⟨⟨_, (drops.grid _).trans counted, ?_, ?_, fun j hj => ?_⟩, fun c => (drops.team _).trans (gone c), fun c => (drops.team _).trans (goes c)⟩
    · change (if ends then _ else _ : Grid).teamsEnd = _
      cases ends <;> rfl
    · change (if ends then _ else _ : Grid).tend = _
      cases ends
      · rfl
      · exact stays.gts
    · change vget (if ends then _ else _ : Grid).used j 0 = _ ∧ vget (if ends then _ else _ : Grid).ovf j false = _
      have same : vget (addAppend f g).used j 0 = min (2 ^ 32 - 1) (vget g.used j 0 + (vget f.append j 0).toNat) ∧
          vget (addAppend f g).ovf j false = (vget g.ovf j false || vget f.ovf j false) := by
        simp only [addAppend, vget, Vector.getElem?_eq_getElem hj, Vector.getElem_ofFn, Option.getD_some]
        exact ⟨rfl, rfl⟩
      cases ends <;> exact same

end Release

end Sys2Proof.Machine
end

section
/-!
An aborted grid that has drained: every fibre of its teams is released, its teams are gone, and it goes on to its restore or ends (R263, R306, R348).
-/

namespace Sys2Proof.Machine

variable {s t u : State}

/-- Fibres released one after another: each is gone, none is bound and no grid ends. -/
theorem releases_fewer (l : List Nat) (s : State) : (∀ f ∈ l, (l.foldl releaseFibre s).fib f = none) ∧
    (∀ h, s.fib h = none → (l.foldl releaseFibre s).fib h = none) ∧ ∀ n, ((l.foldl releaseFibre s).grid n).isSome = (s.grid n).isSome := by
  induction l generalizing s with
  | nil => exact ⟨fun _ h => (nomatch h), fun _ h => h, fun _ => rfl⟩
  | cons x r ih =>
    obtain ⟨all, free, grids⟩ := ih (releaseFibre s x)
    obtain ⟨own, keep, same⟩ := releaseFibre_fewer (s := s) x
    refine ⟨fun f h => ?_, fun h hn => free h (keep h hn), fun n => (grids n).trans (same n)⟩
    rcases List.mem_cons.1 h with e | e
    · rw [e]
      exact free x own
    · exact all f e

/-- What is left of a grid whose teams are dropped. -/
theorem dropTeams_answers (gid : Nat) : (∀ n tm, (dropTeams s gid).team n = some tm → tm.grid ≠ gid) ∧
    (∀ n tm, s.team n = some tm → tm.grid = gid → ∀ f ∈ tm.live, (dropTeams s gid).fib f = none) ∧
    ∀ n, ((dropTeams s gid).grid n).isSome = (s.grid n).isSome := by
  obtain ⟨all, _, grids⟩ := releases_fewer ((teamsOf s gid).flatMap fun e => e.2.live) { s with ops := s.ops.filter fun o => !(teamsOf s gid).keys.contains o.team }
  refine ⟨fun n tm h => ?_, fun n tm h own f hf => ?_, grids⟩
  · obtain ⟨_, other⟩ := List.mem_filter.1 (AMap.mem_of_get? h)
    exact bne_iff_ne.1 other
  · refine all f (List.mem_flatMap.2 ⟨(n, tm), List.mem_filter.2 ⟨AMap.mem_of_get? h, beq_iff_eq.2 own⟩, hf⟩)

section Abort
variable {gid status : Nat} {g : Grid} (hg : s.grid gid = some g)
include hg

/-- The states that an aborted grid goes through where its context runs. -/
theorem abortDrained_eq (ab : g.abort = some status) (runs : (s.part g.part).runVi = some g.vi) (ready : abortReady s gid = true) :
    exec (.abortDrained gid) s = .next (
      if (s.part g.part).urState = .restoring ∨ (s.part g.part).urState = .failed then s
      else
        let s1 := dropTeams (if s.recording g.part && !(s.part g.part).ended then endLogs s g.part 1 else s) gid
        if (s.part g.part).urState = .aborting then s1.modPart g.part fun t => { t with urState := .restoring } else endGrid s1 gid status) := by
  refine (show exec (.abortDrained gid) s = execAbortDrained gid s from rfl).trans ?_
  unfold execAbortDrained withVi
  simp only [hg, ab, runs, ready, decide_true, Bool.true_or, if_true, Bool.not_true, Bool.false_or, Bool.or_eq_true, decide_eq_true_eq]

/-- An aborted grid that has drained. -/
theorem abortDrained_answers (ab : g.abort = some status) (runs : (s.part g.part).runVi = some g.vi) (ready : abortReady s gid = true) :
    Gives (.abortDrained gid) s fun t =>
      let u := (s.part g.part).urState
      if u = .restoring ∨ u = .failed then t = s
      else (∀ n tm, t.team n = some tm → tm.grid ≠ gid) ∧
        (∀ n tm, s.team n = some tm → tm.grid = gid → ∀ f ∈ tm.live, t.fib f = none) ∧
        if u = .aborting then (t.part g.part).urState = .restoring ∧ (t.grid gid).isSome = true else t.grid gid = none := by
  refine ⟨_, abortDrained_eq hg ab runs ready, ?_⟩
  dsimp only
  have logs : Stays s (if s.recording g.part && !(s.part g.part).ended then endLogs s g.part 1 else s) := .ite (endLogs_stays _ _) (.refl s)
  generalize (if s.recording g.part && !(s.part g.part).ended then endLogs s g.part 1 else s) = s0 at logs
  obtain ⟨teams, fibs, grids⟩ := dropTeams_answers (s := s0) gid
  have live : ((dropTeams s0 gid).grid gid).isSome = true := by
    rw [grids, logs.grid, hg]
    rfl
  have released : ∀ n tm, s.team n = some tm → tm.grid = gid → ∀ f ∈ tm.live, (dropTeams s0 gid).fib f = none :=
    fun n tm h => fibs n tm ((logs.team n).trans h)
  split
  · rfl
  · split
    · exact ⟨teams, released, by rw [State.part_modPart_self], live⟩
    · obtain ⟨g1, hg1⟩ := Option.isSome_iff_exists.1 live
      have ended := (endGrid_backs (status := status) hg1).stays
      exact ⟨fun n tm h => teams n tm ((ended.team n).symm.trans h), fun n tm h own f hf => ended.none_ (released n tm h own f hf),
        (ended.grid gid).trans (AMap.get?_del_self _ _)⟩

end Abort

end Sys2Proof.Machine
end

section
/-!
How a team fits a core, and that the binding of a team on another core changes nothing of it (R242-R244).
-/

namespace Sys2Proof.Machine

variable {s t u : State}

/-! ### Tables beside one entry -/

/-- Entries that a filter drops may be set. -/
theorem AMap.filter_set {α : Type} (p : Nat × α → Bool) {m : AMap α} {k : Nat} {v : α} (hv : p (k, v) = false)
    (old : ∀ x, m.get? k = some x → p (k, x) = false) : (m.set k v).filter p = m.filter p := by
  induction m with
  | nil => exact List.filter_cons_of_neg (by rw [hv]; decide)
  | cons e r ih =>
    obtain ⟨j, x⟩ := e
    rw [AMap.get?] at old
    rw [AMap.set]
    split
    · next same =>
      subst same
      have gone := old x (if_pos rfl)
      rw [List.filter_cons_of_neg (by rw [hv]; decide), List.filter_cons_of_neg (by rw [gone]; decide)]
    · next other =>
      rw [if_neg other] at old
      split
      · exact List.filter_cons_of_neg (by rw [hv]; decide)
      · rw [List.filter_cons, List.filter_cons, ih old]

theorem AMap.filter_adj {α : Type} (p : Nat × α → Bool) {m : AMap α} {k : Nat} {f : α → α}
    (h : ∀ x, m.get? k = some x → p (k, x) = false ∧ p (k, f x) = false) : (m.adj k f).filter p = m.filter p := by
  unfold AMap.adj
  split
  · next x e => exact AMap.filter_set p (h x e).2 fun y hy => (h y hy).1
  · rfl

/-! ### What the fit of a team on a core reads -/

/-- What the fit of a team on core c reads: the core's rings, its teams, and the regions, barriers and fibres of its slots. -/
structure SameRoom (c : Nat) (s t : State) : Prop where
  pads  : (t.core c).pads = (s.core c).pads
  teams : teamsOn t c = teamsOn s c
  slots : ∀ n, n / 4 = c → (t.slot n).regions = (s.slot n).regions ∧ (t.slot n).fbars = (s.slot n).fbars ∧ slotFibres t n = slotFibres s n
  fibs  : ∀ f, coreOf f = c → t.fib f = s.fib f

namespace SameRoom

variable {c : Nat}

theorem refl (c : Nat) (s : State) : SameRoom c s s := ⟨rfl, rfl, fun _ _ => ⟨rfl, rfl, rfl⟩, fun _ _ => rfl⟩

theorem trans (h : SameRoom c s t) (k : SameRoom c t u) : SameRoom c s u where
  pads := k.pads.trans h.pads
  teams := k.teams.trans h.teams
  slots n hn := by
    obtain ⟨a, b, d⟩ := h.slots n hn
    obtain ⟨a', b', d'⟩ := k.slots n hn
    exact ⟨a'.trans a, b'.trans b, d'.trans d⟩
  fibs f hf := (k.fibs f hf).trans (h.fibs f hf)

variable (h : SameRoom c s t)
include h

theorem scratch : (t.core c).scratch = (s.core c).scratch := (congrArg Pads.scratch h.pads :)

theorem slotRoom {n : Nat} (hn : n / 4 = c) : slotRoom t n = slotRoom s n := by
  obtain ⟨regions, fbars, fibres⟩ := h.slots n hn
  have granules : ((slotFibres s n).map fun f => ((t.fib f).map (·.priv / 8)).getD 0) = (slotFibres s n).map fun f => ((s.fib f).map (·.priv / 8)).getD 0 := by
    refine List.map_congr_left fun f hf => ?_
    have own : slotOf f = n := beq_iff_eq.1 (List.mem_filter.1 hf).2
    rw [h.fibs f (by unfold slotOf at own; unfold coreOf; omega)]
  unfold Machine.slotRoom
  simp only [regions, fbars, fibres, granules]

/-- A team fits the core as before. -/
theorem coreFit (k : List DWord) : coreFit t c k = coreFit s c k := by
  have rings : freeRings t c = freeRings s c := by
    unfold freeRings
    rw [show (t.core c).rings = (s.core c).rings from (congrArg Pads.rings h.pads :)]
  have run : freeRun t c (kLines k) = freeRun s c (kLines k) := by
    unfold freeRun
    rw [h.teams]
  have rooms : ((List.range 4).map fun n => Machine.slotRoom t (4 * c + n)) = (List.range 4).map fun n => Machine.slotRoom s (4 * c + n) :=
    List.map_congr_left fun n hn => h.slotRoom (by have := List.mem_range.1 hn; omega)
  unfold Machine.coreFit
  rw [rings, run, rooms, h.teams]

end SameRoom

/-! ### What a binding leaves -/

/-- What is bound, and the storage of every core that programs name, stand between two states. -/
structure Quiet (s t : State) : Prop where
  fibres : t.fibres = s.fibres
  teams  : t.teams = s.teams
  grids  : t.grids = s.grids
  next   : t.nextTeam = s.nextTeam
  gts    : t.mgmt.gts = s.mgmt.gts
  pads   : ∀ c, (t.core c).pads = (s.core c).pads
  slots  : ∀ n, (t.slot n).regions = (s.slot n).regions ∧ (t.slot n).fbars = (s.slot n).fbars

namespace Quiet

theorem refl (s : State) : Quiet s s := ⟨rfl, rfl, rfl, rfl, rfl, fun _ => rfl, fun _ => ⟨rfl, rfl⟩⟩

theorem trans (h : Quiet s t) (k : Quiet t u) : Quiet s u :=
  ⟨k.fibres.trans h.fibres, k.teams.trans h.teams, k.grids.trans h.grids, k.next.trans h.next, k.gts.trans h.gts, fun c => (k.pads c).trans (h.pads c),
    fun n => ⟨(k.slots n).1.trans (h.slots n).1, (k.slots n).2.trans (h.slots n).2⟩⟩

theorem of_slices (h : Slices s t) : Quiet s t :=
  ⟨h.fibres, h.teams, h.grids, h.nextTeam, h.gts, fun c => by rw [h.core], fun n => by
    rw [show t.slot n = s.slot n from congrArg (fun m => AMap.getD m n Slot.init) h.slots]
    exact ⟨rfl, rfl⟩⟩

theorem core {c : Nat} {g : Core → Core} (h : ∀ k, (g k).pads = k.pads) : Quiet s (s.modCore c g) := by
  refine ⟨rfl, rfl, rfl, rfl, rfl, fun j => ?_, fun _ => ⟨rfl, rfl⟩⟩
  rw [State.core_modCore]
  split
  · next e => rw [e]; exact h _
  · rfl

theorem slot {n : Nat} {g : Slot → Slot} (h : ∀ x, (g x).regions = x.regions ∧ (g x).fbars = x.fbars) : Quiet s (s.modSlot n g) := by
  refine ⟨rfl, rfl, rfl, rfl, rfl, fun _ => rfl, fun j => ?_⟩
  rw [State.slot_modSlot]
  split
  · next e => rw [e]; exact h _
  · exact ⟨rfl, rfl⟩

/-- Every core changes beside its pads. -/
theorem cores {g : Nat → Core → Core} (h : ∀ n k, (g n k).pads = k.pads) (init : ∀ n, g n Core.init = Core.init) :
    Quiet s { s with cores := s.cores.mapVals g } := by
  refine ⟨rfl, rfl, rfl, rfl, rfl, fun c => ?_, fun _ => ⟨rfl, rfl⟩⟩
  change ((s.cores.mapVals g).getD c Core.init).pads = _
  rw [AMap.getD_mapVals _ _ _ (init c)]
  exact h c _

theorem part {p : Nat} {g : Part → Part} : Quiet s (s.modPart p g) := ⟨rfl, rfl, rfl, rfl, rfl, fun _ => rfl, fun _ => ⟨rfl, rfl⟩⟩

theorem ctx {n : Nat} {g : Ctx → Ctx} : Quiet s (s.modCtx n g) := ⟨rfl, rfl, rfl, rfl, rfl, fun _ => rfl, fun _ => ⟨rfl, rfl⟩⟩

theorem count {c : Nat} {sl : Option Nat} {ev n : Nat} : Quiet s (s.pmCount c sl ev n) := by
  unfold State.pmCount
  split
  · exact refl s
  · refine core fun k => ?_
    unfold Core.pmCount
    split <;> rfl

theorem ite {p : Prop} [Decidable p] (h : Quiet s t) (k : Quiet s u) : Quiet s (if p then t else u) := by
  split
  · exact h
  · exact k

theorem foldl {α : Type} {g : State → α → State} (h : ∀ s x, Quiet s (g s x)) (l : List α) (s : State) : Quiet s (l.foldl g s) := by
  induction l generalizing s with
  | nil => exact refl s
  | cons x r ih => exact (h s x).trans (ih (g s x))

section Fields
variable (h : Quiet s t)
include h

theorem fib (f : Nat) : t.fib f = s.fib f := State.fib_congr h.fibres f
theorem team (n : Nat) : t.team n = s.team n := congrArg (fun m => AMap.get? m n) h.teams
theorem grid (n : Nat) : t.grid n = s.grid n := congrArg (fun m => AMap.get? m n) h.grids
theorem scratch (c : Nat) : (t.core c).scratch = (s.core c).scratch := (congrArg Pads.scratch (h.pads c) :)

theorem room (c : Nat) : SameRoom c s t := by
  refine ⟨h.pads c, ?_, fun n _ => ⟨(h.slots n).1, (h.slots n).2, ?_⟩, fun f _ => h.fib f⟩
  · unfold teamsOn
    rw [h.teams]
  · unfold slotFibres
    rw [h.fibres]

end Fields
end Quiet

theorem emit_quiet (p k : Nat) (r : BitVec 128) : Quiet s (emit s p k r) := by
  unfold emit
  exact .ite (.refl s) ((Quiet.ite .count (.refl s)).trans .part)

theorem selfInvalidate_quiet (c : Nat) : Quiet s (selfInvalidate s c) := .core fun _ => rfl

theorem applyHeld_quiet (p v : Nat) : Quiet s (applyHeld s p v) := by
  unfold applyHeld
  split
  · exact .refl s
  · refine Quiet.trans ?_ (.foldl (fun _ _ => .core ?_) _ _)
    · exact .ctx
    · exact fun _ => rfl

theorem writeStack_quiet (g : Grid) (f0 : Nat) : Quiet s (writeStack s g f0) := by
  unfold writeStack
  extract_lets idx sz a d2 s1
  have h1 : Quiet s s1 := .of_slices ((((homeWriteN_slices _ _ _).trans (homeWriteN_slices _ _ _)).trans (homeWriteN_slices _ _ _)).trans (homeWriteN_slices _ _ _))
  exact h1.trans (.cores (fun _ _ => rfl) fun _ => rfl)

end Sys2Proof.Machine
end

section
/-!
The bindings of a team: every group is bound once, each to a place of its own (R243, R244).
-/

namespace Sys2Proof.Machine

variable {s t u : State}

/-! ### Units -/

/-- Whether a unit has a group that names the region of group g (R244). -/
def sharesWith (k : List DWord) (g : Nat) (u : List Nat) : Bool := u.any fun h => kShared k h != 0 && kRegion k h == kRegion k g

/-- One group joins the units (R244). -/
def joinUnit (k : List DWord) (us : List (List Nat)) (g : Nat) : List (List Nat) :=
  if kShared k g = 0 then us ++ [[g]]
  else if us.any (sharesWith k g) then us.map fun u => if sharesWith k g u then u ++ [g] else u else us ++ [[g]]

theorem unitsOf_eq (k : List DWord) : unitsOf k = (List.range (kGroups k)).foldl (joinUnit k) [] := rfl

/-- No region is named by two units. -/
def Apart (k : List DWord) (u v : List Nat) : Prop := ∀ h ∈ u, ∀ h' ∈ v, kShared k h ≠ 0 → kShared k h' ≠ 0 → kRegion k h ≠ kRegion k h'

section Units
variable {k : List DWord} {g : Nat} {us : List (List Nat)} {u v : List Nat}

theorem sharesWith_iff : sharesWith k g u = true ↔ ∃ h ∈ u, kShared k h ≠ 0 ∧ kRegion k h = kRegion k g := by
  simp only [sharesWith, List.any_eq_true, Bool.and_eq_true, bne_iff_ne, beq_iff_eq]

/-- A unit apart from one that a group may join shares nothing with the group. -/
theorem sharesWith_apart (h : Apart k u v) (own : sharesWith k g u = true) : sharesWith k g v = false := by
  obtain ⟨a, ha, sa, ra⟩ := sharesWith_iff.1 own
  rw [← Bool.not_eq_true, sharesWith_iff]
  rintro ⟨b, hb, sb, rb⟩
  exact h a ha b hb sa sb (ra.trans rb.symm)

theorem apart_append (h : Apart k u v) (no : kShared k g ≠ 0 → ∀ a ∈ u, kShared k a ≠ 0 → kRegion k a ≠ kRegion k g) : Apart k u (v ++ [g]) := by
  intro a ha b hb sa sb
  rcases List.mem_append.1 hb with hb | hb
  · exact h a ha b hb sa sb
  · rw [List.mem_singleton.1 hb] at sb ⊢
    exact no sb a ha sa

theorem Apart.symm (h : Apart k u v) : Apart k v u := fun a ha b hb sa sb e => h b hb a ha sb sa e.symm

/-- A group that shares nothing with a unit keeps its region apart. -/
theorem regions_ne_of_not_shares (h : ¬ sharesWith k g u = true) : ∀ a ∈ u, kShared k a ≠ 0 → kRegion k a ≠ kRegion k g :=
  fun a ha sa e => h (sharesWith_iff.2 ⟨a, ha, sa, e⟩)

/-- A group that joins the one unit that names its region. -/
theorem joined (apart : us.Pairwise (Apart k)) (some_ : us.any (sharesWith k g) = true) :
    (us.map fun u => if sharesWith k g u then u ++ [g] else u).Pairwise (Apart k) ∧
    (us.map fun u => if sharesWith k g u then u ++ [g] else u).flatten.Perm (us.flatten ++ [g]) := by
  induction us with
  | nil => cases some_
  | cons u r ih =>
    obtain ⟨first, rest⟩ := List.pairwise_cons.1 apart
    rw [List.map_cons]
    by_cases own : sharesWith k g u = true
    · have same : (r.map fun u => if sharesWith k g u then u ++ [g] else u) = r := by
        refine (List.map_congr_left fun v hv => ?_).trans (List.map_id r)
        rw [sharesWith_apart (first v hv) own]
        rfl
      rw [same, if_pos own]
      refine ⟨List.pairwise_cons.2 ⟨fun v hv => (apart_append (first v hv).symm fun _ => ?_).symm, rest⟩, ?_⟩
      · exact regions_ne_of_not_shares (by rw [sharesWith_apart (first v hv) own]; decide)
      · rw [List.flatten_cons, List.flatten_cons, List.append_assoc, List.append_assoc]
        exact List.perm_append_comm.append_left _
    · rw [if_neg own]
      obtain ⟨apart', perm⟩ := ih rest (by simpa [own] using some_)
      refine ⟨List.pairwise_cons.2 ⟨fun v hv => ?_, apart'⟩, ?_⟩
      · obtain ⟨v0, hv0, e⟩ := List.mem_map.1 hv
        rw [← e]
        split
        · exact apart_append (first v0 hv0) fun _ => regions_ne_of_not_shares own
        · exact first v0 hv0
      · rw [List.flatten_cons, List.flatten_cons, List.append_assoc]
        exact perm.append_left _

theorem joinUnit_spec (apart : us.Pairwise (Apart k)) :
    (joinUnit k us g).Pairwise (Apart k) ∧ (joinUnit k us g).flatten.Perm (us.flatten ++ [g]) := by
  have alone : (∀ u ∈ us, kShared k g ≠ 0 → ∀ a ∈ u, kShared k a ≠ 0 → kRegion k a ≠ kRegion k g) →
      (us ++ [[g]]).Pairwise (Apart k) ∧ (us ++ [[g]]).flatten.Perm (us.flatten ++ [g]) := by
    refine fun no => ⟨List.pairwise_append.2 ⟨apart, List.pairwise_singleton _ _, fun u hu v hv => ?_⟩, ?_⟩
    · rw [List.mem_singleton.1 hv]
      exact apart_append (v := []) (fun _ _ _ hb => nomatch hb) (no u hu)
    · rw [List.flatten_append]
      exact .refl _
  unfold joinUnit
  split
  · next private_ => exact alone fun _ _ c => absurd private_ c
  · split
    · next some_ => exact joined apart some_
    · next none_ => exact alone fun u hu _ => regions_ne_of_not_shares fun c => none_ (List.any_eq_true.2 ⟨u, hu, c⟩)

end Units

/-- The groups of a kernel stand once each in its units. -/
theorem unitsOf_perm (k : List DWord) : (unitsOf k).flatten.Perm (List.range (kGroups k)) := by
  have all : ∀ (l : List Nat) (us : List (List Nat)), us.Pairwise (Apart k) → (l.foldl (joinUnit k) us).flatten.Perm (us.flatten ++ l) := by
    intro l
    induction l with
    | nil => exact fun us _ => by rw [List.append_nil]; exact .refl _
    | cons g r ih =>
      intro us apart
      obtain ⟨apart', perm⟩ := joinUnit_spec (g := g) apart
      refine (ih _ apart').trans ?_
      rw [show us.flatten ++ g :: r = us.flatten ++ [g] ++ r by rw [List.append_assoc]; rfl]
      exact perm.append_right _
  rw [unitsOf_eq]
  exact all _ [] .nil

/-! ### Places -/

theorem map_snd_zip_take {α β : Type} (l : List α) (m : List β) (h : l.length ≤ m.length) : (l.zip m).map Prod.snd = m.take l.length := by
  induction l generalizing m with
  | nil => rfl
  | cons a l ih =>
    cases m with
    | nil => cases h
    | cons b m => rw [List.zip_cons_cons, List.map_cons, ih m (Nat.le_of_succ_le_succ h)]; rfl

/-- Every group of the units is bound, in order; each binding lies in a slot at a place that was free there, no two at one place. -/
theorem assignUnits_spec {k : List DWord} {us : List (List Nat)} {rooms : List SlotRoom} {l : List Bound} (h : assignUnits k us rooms = some l)
    (nodup : ∀ r ∈ rooms, r.places.Nodup) : l.map (·.group) = us.flatten ∧
    (∀ b ∈ l, ∃ r, rooms[b.slot]? = some r ∧ b.place ∈ r.places) ∧ (l.map fun b => (b.slot, b.place)).Nodup := by
  induction us generalizing rooms l with
  | nil =>
    cases h
    exact ⟨rfl, fun _ h => (nomatch h), .nil⟩
  | cons u us ih =>
    rw [assignUnits] at h
    split at h
    · cases h
    · next n hn =>
      obtain ⟨lt, takes, _⟩ := List.findIdx?_eq_some_iff_getElem.1 hn
      rw [Option.map_eq_some_iff] at h
      obtain ⟨rest, hrest, rfl⟩ := h
      have own : nth rooms n SlotRoom.empty = rooms[n] := by
        rw [nth, List.getD_eq_getElem?_getD, List.getElem?_eq_getElem lt]
        rfl
      rw [own] at hrest ⊢
      have fits : u.length ≤ rooms[n].places.length := by
        unfold SlotRoom.takes at takes
        simp only [Bool.and_eq_true, decide_eq_true_eq] at takes
        exact takes.1.1.1
      have nd : rooms[n].places.Nodup := nodup _ (List.getElem_mem lt)
      obtain ⟨groups, places, distinct⟩ := ih hrest fun r hr => by
        rcases List.mem_or_eq_of_mem_set hr with c | c
        · exact nodup r c
        · rw [c]
          exact nd.sublist (List.drop_sublist _ _)
      have first : (rooms[n].bind k n u).2.map (fun b => (b.slot, b.place)) = (rooms[n].places.take u.length).map fun p => (n, p) := by
        rw [← map_snd_zip_take _ _ fits, List.map_map]
        exact List.map_map
      refine ⟨?_, fun b hb => ?_, ?_⟩
      · rw [List.map_append, groups, List.flatten_cons]
        refine congrArg (· ++ us.flatten) ?_
        exact (List.map_map (f := fun e : Nat × Nat => (⟨e.1, n, e.2, rooms[n].regions.headD 0⟩ : Bound))).trans (List.map_fst_zip fits)
      · rcases List.mem_append.1 hb with c | c
        · obtain ⟨p, hp, e⟩ := List.mem_map.1 (first ▸ List.mem_map_of_mem (f := fun b : Bound => (b.slot, b.place)) c)
          obtain ⟨es, ep⟩ := Prod.mk.inj e
          exact ⟨rooms[n], by rw [← es]; exact List.getElem?_eq_getElem lt, ep ▸ List.mem_of_mem_take hp⟩
        · obtain ⟨r, hr, hp⟩ := places b c
          by_cases e : n = b.slot
          · rw [List.getElem?_set, if_pos e, if_pos lt] at hr
            cases hr
            exact ⟨rooms[n], by rw [← e]; exact List.getElem?_eq_getElem lt, List.mem_of_mem_drop hp⟩
          · rw [List.getElem?_set, if_neg e] at hr
            exact ⟨r, hr, hp⟩
      · rw [List.map_append, first]
        refine List.nodup_append'.2 ⟨(nd.sublist (List.take_sublist _ _)).map fun a b e => (Prod.mk.inj e).2, distinct, fun x hx hx' => ?_⟩
        obtain ⟨p, hp, rfl⟩ := List.mem_map.1 hx
        obtain ⟨b, hb, e⟩ := List.mem_map.1 hx'
        obtain ⟨es, ep⟩ := Prod.mk.inj e
        obtain ⟨r, hr, hpr⟩ := places b hb
        rw [List.getElem?_set, if_pos es.symm, if_pos lt] at hr
        cases hr
        exact List.disjoint_take_drop nd (Nat.le_refl _) hp (ep ▸ hpr)

/-- The fibre of a binding on a core. -/
def Bound.fid (c : Nat) (b : Bound) : Nat := 32 * c + 8 * b.slot + b.place

/-- How a team fits a core: its groups bound once each, to fibres of the core that differ. -/
structure Fits (c : Nat) (k : List DWord) (bs : List Bound) : Prop where
  groups : (bs.map (·.group)).Perm (List.range (kGroups k))
  places : ∀ b ∈ bs, b.slot < 4 ∧ b.place < 8
  nodup  : (bs.map (·.fid c)).Nodup

theorem Fits.core {c : Nat} {k : List DWord} {bs : List Bound} (h : Fits c k bs) {b : Bound} (hb : b ∈ bs) :
    coreOf (b.fid c) = c ∧ slotOf (b.fid c) = 4 * c + b.slot := by
  obtain ⟨hs, hp⟩ := h.places b hb
  unfold Bound.fid coreOf slotOf
  omega

theorem Fits.perm {c : Nat} {k : List DWord} {bs cs : List Bound} (h : Fits c k bs) (p : cs.Perm bs) : Fits c k cs :=
  ⟨(p.map _).trans h.groups, fun b hb => h.places b (p.subset hb), ((p.map _).nodup_iff).2 h.nodup⟩

theorem coreFit_fits {c b : Nat} {k : List DWord} {bs : List Bound} (h : coreFit s c k = some (bs, b)) : Fits c k bs := by
  unfold coreFit at h
  split at h
  · cases h
  · split at h
    · next b' l _ hl =>
      cases h
      obtain ⟨groups, places, distinct⟩ := assignUnits_spec hl fun r hr => by
        obtain ⟨n, _, rfl⟩ := List.mem_map.1 hr
        exact List.nodup_range.filter _
      have low : ∀ x ∈ bs, x.slot < 4 ∧ x.place < 8 := fun x hx => by
        obtain ⟨r, hr, hp⟩ := places x hx
        obtain ⟨lt, e⟩ := List.getElem?_eq_some_iff.1 hr
        have lt4 : x.slot < 4 := by simpa using lt
        rw [List.getElem_map] at e
        rw [← e] at hp
        exact ⟨lt4, List.mem_range.1 (List.mem_filter.1 hp).1⟩
      refine ⟨groups ▸ unitsOf_perm k, low, ?_⟩
      refine List.Nodup.of_map (fun f => (f % 32 / 8, f % 8)) ?_
      rw [List.map_map]
      have same : bs.map ((fun f => (f % 32 / 8, f % 8)) ∘ fun x => x.fid c) = bs.map fun x => (x.slot, x.place) := by
        refine List.map_congr_left fun x hx => ?_
        obtain ⟨hs, hp⟩ := low x hx
        simp only [Function.comp, Bound.fid, Prod.mk.injEq]
        omega
      rw [same]
      exact distinct
    · cases h

end Sys2Proof.Machine
end

section
/-!
The binding of one team: its record, its fibres as R37 says, its scratchpad zero; every other core and every other team stands (R37, R193, R245).
-/

namespace Sys2Proof.Machine

variable {s t u : State}

/-! ### Fibres as bound -/

theorem vget_ofFn {α : Type} {m n : Nat} (f : Fin m → α) (d : α) (h : n < m) : vget (Vector.ofFn f) n d = f ⟨n, h⟩ := by
  unfold vget
  rw [Vector.getElem?_eq_getElem h, Vector.getElem_ofFn]
  rfl

theorem vget_replicate {α : Type} {m n : Nat} (d : α) : vget (Vector.replicate m d) n d = d := by
  unfold vget
  rw [Vector.getElem?_replicate]
  split <;> rfl

theorem newFibre_fresh (s : State) (tid : Nat) (g : Grid) (b : Bound) (stk : Option Nat) (log : List (BitVec 128)) :
    Fresh { newFibre s tid g b stk with log := log } tid b.group g := by
  refine ⟨rfl, rfl, rfl, rfl, rfl, rfl, rfl, rfl, rfl, rfl, rfl, fun l => ?_, fun n hn => ?_, fun n hn => ?_,
    (vget_ofFn _ _ (by decide : 0 < 16)).trans (if_pos rfl)⟩
  · have lane : ({ newFibre s tid g b stk with log := log } : Fibre).lane l =
        if 32 * b.group + l.val < fieldOf (nth g.packet 0 0) 26 16 then ⟨true, nth g.kdesc 0 0, 1, .none, s.clock⟩ else Lane.dead :=
      Vector.getElem_ofFn _
    rw [lane]
    split
    · next below => exact ⟨(decide_eq_true below).symm, fun _ => ⟨rfl, rfl⟩⟩
    · next beyond => exact ⟨(decide_eq_false beyond).symm, (fun c => nomatch c)⟩
  · unfold Fibre.readP
    rw [if_neg (Nat.ne_of_lt hn)]
    exact vget_replicate 0
  · unfold Fibre.readS
    split
    · next z => rw [if_neg (by omega)]
    · exact vget_ofFn _ _ hn

/-! ### Slots claimed -/

/-- What claiming a slot of core c for a team leaves: beside the slots of the core and the team's fibre barriers, all. -/
structure Claims (c tid : Nat) (s t : State) : Prop where
  frame : { t with slots := s.slots, teams := s.teams } = s
  slots : ∀ n, n / 4 ≠ c → t.slot n = s.slot n
  teams : t.teams = s.teams ∨ ∃ v : Team → AMap (List Nat), t.teams = s.teams.adj tid fun t => { t with fbars := v t }

theorem claimSlot_claims {c tid : Nat} {k : List DWord} {b : Bound} {f : Nat} (hb : b.slot < 4) : Claims c tid s (claimSlot s tid c k b f) := by
  have slot : ∀ {x : State} {g : Slot → Slot} {n : Nat}, n / 4 ≠ c → (x.modSlot (4 * c + b.slot) g).slot n = x.slot n := fun {x g n} hn => by
    rw [State.slot_modSlot, if_neg (by omega)]
  unfold claimSlot
  extract_lets n s1 mine
  have h1 : Claims c tid s s1 := by
    unfold s1
    split
    · exact ⟨rfl, fun _ _ => rfl, .inl rfl⟩
    · exact ⟨rfl, fun _ hn => slot hn, .inl rfl⟩
  have same : s1.teams = s.teams := by
    unfold s1
    split <;> rfl
  clear_value s1
  split
  · exact h1
  · refine ⟨h1.frame, fun j hj => ?_, ?_⟩
    · refine Eq.trans ?_ (h1.slots j hj)
      have kept : ∀ (x : State) h, (x.modTeam tid h).slot j = x.slot j := fun _ _ => rfl
      rw [kept]
      exact slot hj
    · refine .inr ⟨fun t => t.fbars.set n mine, ?_⟩
      exact congrArg (fun m : AMap Team => m.adj tid fun t => { t with fbars := t.fbars.set n mine }) same

/-- The fibre of a binding is set on its core. -/
theorem setFibre_room {c f : Nat} (x : Fibre) (hf : coreOf f = c) {c' : Nat} (h : c' ≠ c) : SameRoom c' s { s with fibres := s.fibres.set f x } := by
  refine ⟨rfl, rfl, fun n hn => ⟨rfl, rfl, ?_⟩, fun j hj => ?_⟩
  · have keys : ∀ m : AMap Fibre, (AMap.keys m).filter (fun f => slotOf f == n) = (m.filter fun e => slotOf e.1 == n).map Prod.fst :=
      fun m => List.filter_map
    have other : (slotOf f == n) = false := by
      rw [beq_eq_false_iff_ne]
      unfold slotOf
      unfold coreOf at hf
      omega
    unfold slotFibres
    rw [keys, keys, AMap.filter_set _ other fun _ _ => other]
  · exact AMap.get?_set_ne _ _ fun e => h (by rw [← hj, e, hf])

/-- A team's slots claimed on core c leave what the fit of another core reads. -/
theorem Claims.room {c tid : Nat} {tm : Team} (h : Claims c tid s t) (ht : s.team tid = some tm) (hc : tm.core = c) {c' : Nat} (hn : c' ≠ c) :
    SameRoom c' s t := by
  have fibres : t.fibres = s.fibres := (congrArg State.fibres h.frame :)
  have cores : t.cores = s.cores := (congrArg State.cores h.frame :)
  refine ⟨congrArg (fun m => (AMap.getD m c' Core.init).pads) cores, ?_, fun n e => ?_, fun f _ => State.fib_congr fibres f⟩
  · unfold teamsOn
    rcases h.teams with e | ⟨v, e⟩
    · rw [e]
    · rw [e]
      refine AMap.filter_adj _ fun x hx => ?_
      have own : x.core = c := by
        rw [show s.teams.get? tid = some tm from ht] at hx
        cases hx
        exact hc
      have other : (x.core == c') = false := beq_eq_false_iff_ne.2 (by rw [own]; exact hn.symm)
      simp only [other, Bool.false_and, and_self]
  · rw [h.slots n (by rw [e]; exact hn)]
    refine ⟨rfl, rfl, ?_⟩
    unfold slotFibres
    rw [fibres]

/-! ### Fibres bound one after another -/

/-- One group of a team is bound: its fibre, its slot's share, and what logs note of it. -/
def bindFibre (tid index c : Nat) (g : Grid) (stk : Option Nat) (s : State) (b : Bound) : State :=
  let f := b.fid c
  let log := if s.replaying g.part then (((s.part g.part).replay.map fun r => r.logs.getD f []).getD []) else []
  let s4 := claimSlot { s with fibres := s.fibres.set f { newFibre s tid g b stk with log := log } } tid c g.kdesc b f
  let s5 := if s.recording g.part then emit s4 g.part 24 (mkRec 9 f 0 (index % 2 ^ 32 * 2 ^ 30 + b.group * 2 ^ 25) g.launchNo) else s4
  if s.replaying g.part then
    s5.modPart g.part fun t => { t with replay := t.replay.map fun r =>
      { r with logs := r.logs.del f
               places := match r.places.find? fun x => recFibre x == f && fieldOf x 15 0 == g.launchNo % 2 ^ 16 &&
                   fieldOf x 77 46 == index % 2 ^ 32 && fieldOf x 45 41 == b.group with
                 | some x => r.places.erase x
                 | none => r.places } }
  else s5

/-- What binding some groups of a team on core c leaves of the state that its team was made in. -/
structure Binding (c tid : Nat) (g : Grid) (tm : Team) (s : State) (done : List Bound) (t : State) : Prop where
  rooms   : ∀ c', c' ≠ c → SameRoom c' s t
  teams   : ∀ j, j ≠ tid → t.team j = s.team j
  own     : ∃ v, t.team tid = some { tm with fbars := v }
  fibs    : ∀ b ∈ done, ∃ x, t.fib (b.fid c) = some x ∧ Fresh x tid b.group g
  scratch : (t.core c).scratch = (s.core c).scratch
  grids   : t.grids = s.grids
  next    : t.nextTeam = s.nextTeam

section Bind
variable {c tid index : Nat} {g : Grid} {tm : Team} {stk : Option Nat} {done : List Bound} {b : Bound}

theorem bindFibre_binding (hc : tm.core = c) (h : Binding c tid g tm s done t) (hs : b.slot < 4) (hp : b.place < 8)
    (new : ∀ a ∈ done, a.fid c ≠ b.fid c) : Binding c tid g tm s (done ++ [b]) (bindFibre tid index c g stk t b) := by
  unfold bindFibre
  extract_lets f log base s4 s5
  have core : coreOf f = c := by
    unfold f Bound.fid coreOf
    omega
  obtain ⟨x, fresh, claims⟩ : ∃ x, Fresh x tid b.group g ∧ Claims c tid { t with fibres := t.fibres.set f x } s4 :=
    ⟨_, newFibre_fresh t tid g b stk log, claimSlot_claims hs⟩
  have quiet : Quiet s4 (if t.replaying g.part then s5.modPart g.part fun t => { t with replay := t.replay.map fun r =>
      { r with logs := r.logs.del f
               places := match r.places.find? fun x => recFibre x == f && fieldOf x 15 0 == g.launchNo % 2 ^ 16 &&
                   fieldOf x 77 46 == index % 2 ^ 32 && fieldOf x 45 41 == b.group with
                 | some x => r.places.erase x
                 | none => r.places } } else s5) := by
    have h5 : Quiet s4 s5 := .ite (emit_quiet _ _ _) (.refl _)
    exact .ite (h5.trans .part) h5
  obtain ⟨v, own⟩ := h.own
  have fibs4 : ∀ j, s4.fib j = if j = f then some x else t.fib j := fun j => by
    have e : s4.fib j = (t.fibres.set f x).get? j := congrArg (fun m => AMap.get? m j) (congrArg State.fibres claims.frame :)
    rw [e]
    split
    · next e => rw [e, AMap.get?_set_self]
    · next e => exact AMap.get?_set_ne _ _ e
  refine ⟨fun c' hn => ?_, fun j hj => ?_, ?_, fun a ha => ?_, ?_, ?_, ?_⟩
  · exact (((h.rooms c' hn).trans (setFibre_room x core hn)).trans (claims.room own hc hn)).trans (quiet.room c')
  · rw [quiet.team, ← h.teams j hj]
    rcases claims.teams with e | ⟨w, e⟩
    · exact congrArg (fun m => AMap.get? m j) e
    · rw [State.team, e, AMap.get?_adj, if_neg hj]
      rfl
  · rw [quiet.team]
    rcases claims.teams with e | ⟨w, e⟩
    · exact ⟨v, (congrArg (fun m => AMap.get? m tid) e).trans own⟩
    · refine ⟨w { tm with fbars := v }, ?_⟩
      rw [State.team, e, AMap.get?_adj, if_pos rfl]
      exact congrArg (Option.map fun t => { t with fbars := w t }) own
  · rw [quiet.fib, fibs4]
    rcases List.mem_append.1 ha with m | m
    · rw [if_neg (new a m)]
      exact h.fibs a m
    · rw [List.mem_singleton.1 m, if_pos rfl]
      exact ⟨x, rfl, fresh⟩
  · rw [quiet.scratch, ← h.scratch]
    exact congrArg (fun m => (AMap.getD m c Core.init).scratch) (congrArg State.cores claims.frame :)
  · exact (quiet.grids.trans (congrArg State.grids claims.frame :)).trans h.grids
  · exact (quiet.next.trans (congrArg State.nextTeam claims.frame :)).trans h.next

theorem bindFibres_binding (hc : tm.core = c) (todo : List Bound) (h : Binding c tid g tm s done t) (places : ∀ b ∈ todo, b.slot < 4 ∧ b.place < 8)
    (nodup : ((done ++ todo).map (·.fid c)).Nodup) : Binding c tid g tm s (done ++ todo) (todo.foldl (bindFibre tid index c g stk) t) := by
  induction todo generalizing done t with
  | nil => rw [List.append_nil]; exact h
  | cons b r ih =>
    obtain ⟨hs, hp⟩ := places b (.head _)
    rw [show done ++ b :: r = done ++ [b] ++ r by rw [List.append_assoc]; rfl] at nodup ⊢
    refine ih (bindFibre_binding hc h hs hp fun a ha e => ?_) (fun x hx => places x (.tail _ hx)) nodup
    rw [List.map_append, List.map_append] at nodup
    have apart := (List.nodup_append'.1 (List.nodup_append'.1 nodup).1).2.2
    exact apart (List.mem_map_of_mem ha) (List.mem_map.2 ⟨b, .head _, e.symm⟩)

end Bind

end Sys2Proof.Machine
end

section
/-!
A team bound, and a cluster of teams bound one on each core of its rectangle (R37, R242, R245).
-/

namespace Sys2Proof.Machine

variable {s t u : State}

/-! ### One team -/

/-- The record of a team as it is made (R245). -/
def teamRecord (s : State) (g : Grid) (gid index rank c : Nat) (fit : List Bound × Nat) : Team :=
  let fs := (fit.1.mergeSort fun x y => x.group ≤ y.group).map (·.fid c)
  { grid := gid, index := index, rank := rank, core := c, groups := kGroups g.kdesc, sbase := fit.2, slines := kLines g.kdesc
    rings := (freeRings s c).take (kRings g.kdesc), fbars := [], matrix := kMatrix g.kdesc, fibres := fs, live := fs
    bars := Vector.replicate 16 (Barrier.init (kGroups g.kdesc)), cvs := Vector.replicate 16 Conv.init, staged := [], near := [], stLines := []
    held := [], unfenced := [], finished := false, retired := false }

/-- The core of a team as it is made: its rings, its scratchpad lines zero, its matrix state empty (R193, R245). -/
def claimCore (k : List DWord) (tid base : Nat) (rings : List Nat) (x : Core) : Core :=
  let mine := fun (ln : Nat) => decide (base ≤ ln ∧ ln < base + kLines k)
  { x with
    rings := rings.foldl (fun v i => vset v i { Ring.init with team := some tid }) x.rings
    scratch := x.scratch.zero (base * 128) (kLines k * 128)
    absent := x.absent.filter fun ln => !mine ln
    sep := x.sep.filter fun e => !mine e.1
    acc := if kMatrix k then [] else x.acc, wb := if kMatrix k then [] else x.wb }

/-- The state in which a team is made. -/
def teamMade (s : State) (g : Grid) (gid index rank c : Nat) (fit : List Bound × Nat) : State :=
  { s with teams := s.teams.set s.nextTeam (teamRecord s g gid index rank c fit), nextTeam := s.nextTeam + 1 }.modCore c
    (claimCore g.kdesc s.nextTeam fit.2 ((freeRings s c).take (kRings g.kdesc)))

section Team
variable {gid index rank c : Nat} {g : Grid} {fit : List Bound × Nat}

/-- A team is made, then its fibres are bound in the order of their groups; between, nothing that is bound changes. -/
theorem bindTeam_eq (hg : s.grid gid = some g) : ∃ v stk, Quiet (teamMade s g gid index rank c fit) v ∧
    bindTeam s gid index rank c fit = ((fit.1.mergeSort fun x y => x.group ≤ y.group).foldl (bindFibre s.nextTeam index c g stk) v).modGrid gid fun g =>
      { g with tstart := g.tstart.orElse fun _ => some s.mgmt.gts } := by
  unfold bindTeam
  split
  · next none_ => rw [hg] at none_; cases none_
  · next g' own =>
    rw [hg] at own
    cases own
    extract_lets k tid fidOf bs f0 fs rings tm mine ring s1 s2 s3 stk one vacant s5 s6
    have h2 : Quiet s1 s2 := (applyHeld_quiet _ _).trans (selfInvalidate_quiet _)
    have h3 : Quiet s1 s3 := .ite (h2.trans (writeStack_quiet _ _)) h2
    refine ⟨s5, stk, h3.trans (.foldl (fun x i => .slot (n := 4 * c + i) (g := fun sl => { sl with out := none }) ?_) _ _), rfl⟩
    exact fun _ => ⟨rfl, rfl⟩

theorem teamMade_room (none_ : s.team s.nextTeam = none) {c' : Nat} (hn : c' ≠ c) : SameRoom c' s (teamMade s g gid index rank c fit) := by
  refine ⟨?_, ?_, fun _ _ => ⟨rfl, rfl, rfl⟩, fun _ _ => rfl⟩
  · unfold teamMade
    rw [State.core_modCore, if_neg hn]
    rfl
  · have other : ((teamRecord s g gid index rank c fit).core == c') = false := beq_eq_false_iff_ne.2 hn.symm
    refine AMap.filter_set (fun e : Nat × Team => e.2.core == c' && !e.2.finished) (by simp only [other, Bool.false_and]) fun x hx => ?_
    rw [show s.teams.get? s.nextTeam = none from none_] at hx
    cases hx

theorem teamMade_team (n : Nat) : (teamMade s g gid index rank c fit).team n =
    if n = s.nextTeam then some (teamRecord s g gid index rank c fit) else s.team n := by
  change (s.teams.set s.nextTeam _).get? n = _
  split
  · next e => rw [e, AMap.get?_set_self]
  · next e => exact AMap.get?_set_ne _ _ e

/-- A zeroed range of a byte memory reads 0. -/
theorem Mem.read_zero (m : Mem) {a n x : Nat} (lo : a ≤ x) (hi : x < a + n) : (m.zero a n).read x = 0 := by
  unfold Mem.zero
  induction m with
  | nil => rfl
  | cons e r ih =>
    rw [List.filter_cons]
    split
    · next out =>
      obtain ⟨k, b⟩ := e
      have ne : x ≠ k := fun c => by
        have o := of_decide_eq_true out
        simp only at o
        omega
      rw [Mem.read, if_neg ne, ih, ite_self]
    · exact ih

/-- A team stands bound on its core: its record, its scratchpad zero, and a fibre for each of its groups as R37 says. -/
def TeamBound (t : State) (gid tid c index rank : Nat) (g : Grid) : Prop :=
  ∃ tm, t.team tid = some tm ∧ tm.grid = gid ∧ tm.index = index ∧ tm.rank = rank ∧ tm.core = c ∧ tm.groups = kGroups g.kdesc ∧ tm.live = tm.fibres ∧
    tm.fibres.length = kGroups g.kdesc ∧ (∀ a < tm.slines * 128, (t.core c).scratch.read (tm.sbase * 128 + a) = 0) ∧
    ∀ grp < kGroups g.kdesc, ∃ f ∈ tm.fibres, coreOf f = c ∧ ∃ x, t.fib f = some x ∧ Fresh x tid grp g

/-- A bound team stays so while nothing of its core that its fit reads changes. -/
theorem TeamBound.kept {tid : Nat} (h : TeamBound s gid tid c index rank g) (team : t.team tid = s.team tid) (room : SameRoom c s t) :
    TeamBound t gid tid c index rank g := by
  obtain ⟨tm, own, grid, idx, rk, core, groups, live, length, scratch, fibs⟩ := h
  refine ⟨tm, team.trans own, grid, idx, rk, core, groups, live, length, fun a ha => by rw [room.scratch]; exact scratch a ha, fun grp hgrp => ?_⟩
  obtain ⟨f, hf, hc, x, hx, fresh⟩ := fibs grp hgrp
  exact ⟨f, hf, hc, x, (room.fibs f hc).trans hx, fresh⟩

theorem SameRoom.modGrid (h : SameRoom c s t) (n : Nat) (f : Grid → Grid) : SameRoom c s (t.modGrid n f) := ⟨h.pads, h.teams, h.slots, h.fibs⟩

/-- What the binding of a team that fits its core leaves. -/
theorem bindTeam_answers (hg : s.grid gid = some g) (none_ : s.team s.nextTeam = none) (fits : coreFit s c g.kdesc = some fit) :
    TeamBound (bindTeam s gid index rank c fit) gid s.nextTeam c index rank g ∧ (∀ c', c' ≠ c → SameRoom c' s (bindTeam s gid index rank c fit)) ∧
    (∀ j, j ≠ s.nextTeam → (bindTeam s gid index rank c fit).team j = s.team j) ∧ (bindTeam s gid index rank c fit).nextTeam = s.nextTeam + 1 ∧
    ∃ ts, (bindTeam s gid index rank c fit).grid gid = some { g with tstart := ts } := by
  obtain ⟨v, stk, quiet, e⟩ := bindTeam_eq (index := index) (rank := rank) (c := c) (fit := fit) hg
  obtain ⟨bs, base⟩ := fit
  have fit0 : Fits c g.kdesc (bs.mergeSort fun x y => x.group ≤ y.group) := (coreFit_fits fits).perm (List.mergeSort_perm _ _)
  have made : v.team s.nextTeam = some (teamRecord s g gid index rank c (bs, base)) := by
    rw [quiet.team, teamMade_team, if_pos rfl]
  have start : Binding c s.nextTeam g (teamRecord s g gid index rank c (bs, base)) v [] v :=
    ⟨fun _ _ => .refl _ _, fun _ _ => rfl, ⟨[], made⟩, fun _ h => (nomatch h), rfl, rfl, rfl⟩
  have bound := bindFibres_binding (c := c) (index := index) (stk := stk) rfl _ start fit0.places (by rw [List.nil_append]; exact fit0.nodup)
  rw [List.nil_append] at bound
  rw [e]
  generalize (bs.mergeSort fun x y => x.group ≤ y.group).foldl (bindFibre s.nextTeam index c g stk) v = w at bound
  obtain ⟨fb, own⟩ := bound.own
  have scratch : (w.core c).scratch = (s.core c).scratch.zero (base * 128) (kLines g.kdesc * 128) := by
    rw [bound.scratch, quiet.scratch]
    unfold teamMade
    rw [State.core_modCore, if_pos rfl]
    rfl
  refine ⟨⟨_, own, rfl, rfl, rfl, rfl, rfl, rfl, ?_, fun a ha => ?_, fun grp hgrp => ?_⟩, fun c' hn => ?_, fun j hj => ?_, ?_, ?_⟩
  · change (List.map _ (bs.mergeSort fun x y => x.group ≤ y.group)).length = _
    rw [List.length_map, ← List.length_map (f := fun b : Bound => b.group), fit0.groups.length_eq, List.length_range]
  · change (w.core c).scratch.read (base * 128 + a) = 0
    rw [scratch]
    exact Mem.read_zero _ (by omega) (Nat.add_lt_add_left ha _)
  · obtain ⟨b, hb, hgroup⟩ := List.mem_map.1 (fit0.groups.symm.subset (List.mem_range.2 hgrp))
    obtain ⟨x, hx, fresh⟩ := bound.fibs b hb
    exact ⟨b.fid c, List.mem_map_of_mem hb, (fit0.core hb).1, x, hx, hgroup ▸ fresh⟩
  · exact (((teamMade_room none_ hn).trans (quiet.room c')).trans (bound.rooms c' hn)).modGrid _ _
  · exact ((bound.teams j hj).trans (quiet.team j)).trans ((teamMade_team j).trans (if_neg hj))
  · exact bound.next.trans quiet.next
  · refine ⟨g.tstart.orElse fun _ => some s.mgmt.gts, ?_⟩
    rw [State.grid_modGrid, if_pos rfl]
    have kept : w.grid gid = some g := (congrArg (fun m => AMap.get? m gid) (bound.grids.trans quiet.grids)).trans hg
    rw [kept]
    rfl

end Team

/-! ### Rectangles -/

theorem zip_range_succ {α : Type} {l : List α} {n : Nat} {x : α} (h : l[n]? = some x) : (List.range (n + 1)).zip l = (List.range n).zip l ++ [(n, x)] := by
  obtain ⟨lt, e⟩ := List.getElem?_eq_some_iff.1 h
  have split_ : l = l.take n ++ x :: l.drop (n + 1) := by
    rw [← e, List.getElem_cons_drop, List.take_append_drop]
  have front : (List.range n).zip l = (List.range n).zip (l.take n) := by
    conv => lhs; rw [split_]
    rw [← List.append_nil (List.range n), List.zip_append (by rw [List.length_range, List.length_take]; omega), List.append_nil]
    exact List.append_nil _
  rw [front, List.range_succ]
  conv => lhs; rw [split_]
  rw [List.zip_append (by rw [List.length_range, List.length_take]; omega)]
  rfl

/-- A rectangle holds as many cores as its shape, no two alike. -/
theorem rectangles_shape {p rows cols : Nat} {r : List Nat} (h : r ∈ rectangles s p rows cols) : r.Nodup ∧ r.length = rows * cols := by
  obtain ⟨b, _, hr⟩ := List.mem_flatMap.1 h
  obtain ⟨top, _, hr⟩ := List.mem_flatMap.1 hr
  obtain ⟨left, hl, rfl⟩ := List.mem_map.1 hr
  have fits : left + cols ≤ 6 := by
    have := List.mem_range.1 hl
    omega
  constructor
  · rw [List.nodup_flatMap]
    refine ⟨fun i _ => List.nodup_range.map fun x y e => by omega, ?_⟩
    refine List.nodup_range.imp_of_mem fun {i j} hi hj ne => ?_
    intro x hx hy
    obtain ⟨a, ha, rfl⟩ := List.mem_map.1 hx
    obtain ⟨d, hd, e⟩ := List.mem_map.1 hy
    have := List.mem_range.1 ha
    have := List.mem_range.1 hd
    exact ne (by omega)
  · rw [List.length_flatMap]
    simp

theorem chooseRect_fits {g : Grid} {r : List Nat} (h : chooseRect s g = some r) : r.Nodup ∧ r.length = kRows g.kdesc * kCols g.kdesc ∧
    ∀ c ∈ r, (coreFit s c g.kdesc).isSome = true := by
  have mem : r ∈ (rectangles s g.part (kRows g.kdesc) (kCols g.kdesc)).filter fun r => r.all fun c => (coreFit s c g.kdesc).isSome := by
    unfold chooseRect at h
    extract_lets ok at h
    cases empty : ok.find? fun r => r.all fun c => (teamsOn s c).isEmpty with
    | some x =>
      rw [empty] at h
      cases h
      exact List.mem_of_find?_eq_some empty
    | none =>
      rw [empty] at h
      exact List.mem_of_head? h
  obtain ⟨rect, all⟩ := List.mem_filter.1 mem
  obtain ⟨nodup, length⟩ := rectangles_shape rect
  exact ⟨nodup, length, fun c hc => List.all_eq_true.1 all c hc⟩

/-! ### Clusters -/

/-- What binding the first teams of a cluster on the cores of a rectangle leaves. -/
structure Cluster (s : State) (gid first : Nat) (g : Grid) (r : List Nat) (n : Nat) (t : State) : Prop where
  next  : t.nextTeam = s.nextTeam + n
  rooms : ∀ c, c ∉ r.take n → SameRoom c s t
  teams : ∀ j, s.nextTeam + n ≤ j → t.team j = s.team j
  grid  : ∃ ts, t.grid gid = some { g with tstart := ts }
  bound : ∀ m c, m < n → r[m]? = some c → TeamBound t gid (s.nextTeam + m) c (first + m) m g

section ClusterBind
variable {gid first : Nat} {g : Grid} {r : List Nat}

theorem bindCluster_cluster (hg : s.grid gid = some g) (none_ : ∀ i, s.team (s.nextTeam + i) = none) (nodup : r.Nodup)
    (fits : ∀ c ∈ r, (coreFit s c g.kdesc).isSome = true) {n : Nat} (hn : n ≤ r.length) :
    Cluster s gid first g r n (bindCluster s gid first r n g.kdesc) := by
  induction n with
  | zero => exact ⟨rfl, fun _ _ => .refl _ _, fun _ _ => rfl, ⟨g.tstart, hg⟩, fun _ _ c => absurd c (Nat.not_lt_zero _)⟩
  | succ n ih =>
    have lt : n < r.length := hn
    have at_ : r[n]? = some r[n] := List.getElem?_eq_getElem lt
    have new : r[n] ∉ r.take n := fun c => by
      obtain ⟨i, hi, e⟩ := List.mem_take_iff_getElem.1 c
      have := (List.Nodup.getElem_inj_iff nodup).1 e
      omega
    have so_far := ih (Nat.le_of_lt lt)
    unfold bindCluster at so_far ⊢
    rw [zip_range_succ at_, List.foldl_append]
    generalize ((List.range n).zip r).foldl (fun s e => match coreFit s e.2 g.kdesc with
      | some fit => bindTeam s gid (first + e.1) e.1 e.2 fit
      | none => s) s = t at so_far
    obtain ⟨ts, grid⟩ := so_far.grid
    obtain ⟨fit, hfit⟩ := Option.isSome_iff_exists.1 (fits r[n] (List.getElem_mem lt))
    have room := so_far.rooms r[n] new
    have fit' : coreFit t r[n] g.kdesc = some fit := (room.coreFit g.kdesc).trans hfit
    have free : t.team t.nextTeam = none := by
      rw [so_far.next]
      exact (so_far.teams _ (Nat.le_refl _)).trans (none_ n)
    rw [List.foldl_cons, List.foldl_nil, fit']
    obtain ⟨own, rooms, teams, next, ts', grid'⟩ := bindTeam_answers (index := first + n) (rank := n) grid free fit'
    rw [so_far.next] at own teams
    refine ⟨by rw [next, so_far.next]; omega, fun c hc => ?_, fun j hj => ?_, ⟨ts', grid'⟩, fun m c hm hc => ?_⟩
    · rw [List.take_add_one, at_, List.mem_append, not_or] at hc
      exact (so_far.rooms c hc.1).trans (rooms c fun e => hc.2 (e ▸ .head _))
    · exact (teams j (by omega)).trans (so_far.teams j (by omega))
    · by_cases last : m = n
      · subst last
        rw [at_] at hc
        cases hc
        exact own
      · have before : m < n := by omega
        obtain ⟨hm', e⟩ := List.getElem?_eq_some_iff.1 hc
        have other : c ≠ r[n] := fun same => last ((List.Nodup.getElem_inj_iff nodup).1 (e.trans same))
        exact (so_far.bound m c before hc).kept (teams _ (by omega)) (rooms c other)

end ClusterBind

end Sys2Proof.Machine
end

section
/-!
Clusters placed, and the events of packets and grids (R235-R242, R246, R257, R263).
-/

namespace Sys2Proof.Machine

variable {s t u : State}

/-- A grid of which n more teams are placed (R242, R246). -/
def placedMore (n : Nat) (g : Grid) : Grid := { g with placed := g.placed + n, waitFrom := none, blocks := false }

section Place
variable {gid : Nat} {g : Grid} (hg : s.grid gid = some g) (may : placing s g = true) (live : s.replaying g.part = false)
include hg may live

/-- A cluster that finds no rectangle begins to wait. -/
theorem clusterPlace_waits (none_ : chooseRect s g = none) : exec (.clusterPlace gid) s =
    .next (s.modGrid gid fun g => { g with waitFrom := g.waitFrom.orElse fun _ => some s.mgmt.gts.toNat }) := by
  refine (show exec (.clusterPlace gid) s = execClusterPlace gid s from rfl).trans ?_
  unfold execClusterPlace
  simp only [hg, may, live, none_, Bool.not_true, Bool.false_eq_true, if_false]

/-- A cluster placed counts its teams as placed, each bound on its core of the rectangle. -/
theorem clusterPlace_binds (none_ : ∀ i, s.team (s.nextTeam + i) = none) {r : List Nat} (hr : chooseRect s g = some r) {n : Nat}
    (hn : n = min (kRows g.kdesc * kCols g.kdesc) (gridTeams g.packet - g.placed)) : Gives (.clusterPlace gid) s fun t =>
      (∃ g1, t.grid gid = some g1 ∧ g1.placed = g.placed + n ∧ g1.waitFrom = none ∧ g1.blocks = false ∧ g1.teamsEnd = g.teamsEnd) ∧
      ∀ i < n, ∃ c, r[i]? = some c ∧ TeamBound t gid (s.nextTeam + i) c (g.placed + i) i g := by
  obtain ⟨nodup, length, fits⟩ := chooseRect_fits hr
  have few : n ≤ r.length := by
    rw [length, hn]
    exact Nat.min_le_left _ _
  have cluster := bindCluster_cluster (first := g.placed) hg none_ nodup fits few
  have placed : exec (.clusterPlace gid) s = .next (((bindCluster s gid g.placed r n g.kdesc).modGrid gid (placedMore n)).modPart g.part fun t =>
      { t with lastGrid := t.lastGrid.set ((bindCluster s gid g.placed r n g.kdesc).queue g.queue).prio (gid + 1) }) := by
    refine (show exec (.clusterPlace gid) s = execClusterPlace gid s from rfl).trans ?_
    unfold execClusterPlace
    simp only [hg, may, live, hr, ← hn, Bool.not_true, Bool.false_eq_true, if_false]
    rfl
  obtain ⟨ts, grid⟩ := cluster.grid
  refine ⟨_, placed, ⟨placedMore n { g with tstart := ts }, ?_, rfl, rfl, rfl, rfl⟩, fun i hi => ?_⟩
  · exact (State.grid_modGrid _ _ _ _).trans ((if_pos rfl).trans (congrArg (Option.map (placedMore n)) grid))
  · have lt : i < r.length := Nat.lt_of_lt_of_le hi few
    have at_ : r[i]? = some r[i] := List.getElem?_eq_getElem lt
    have room := SameRoom.modGrid (.refl r[i] (bindCluster s gid g.placed r n g.kdesc)) gid (placedMore n)
    exact ⟨r[i], at_, (cluster.bound i _ hi at_).kept rfl ⟨room.pads, room.teams, room.slots, room.fibs⟩⟩

end Place

end Sys2Proof.Machine

namespace Sys2Proof.Proofs

open Machine

/-- Settles O45: each event by what its shared functions leave. A completion entry is written dword by dword into one line, and the walk to it is the same in states
that differ in queues and launch numbers alone; ending a grid writes back, posts and completes in turn; a cluster is bound team by team, and a
binding changes nothing that the fit of another core reads. -/
theorem gridEvents : Obligations.GridEvents := by
  refine ⟨qdbWrite_answers, ?_, ?_, ?_⟩
  · intro s q pa place x v p w s0 ck took gone entry live typed on open_
    have head : AtHead s q pa v p w s0 ck := ⟨rfl, rfl, place, rfl, rfl, rfl, live, typed, on, open_⟩
    exact ⟨head.refused, head.marker, head.launch⟩
  · intro s gid g hg rows cols groups teams
    refine ⟨fun may live none_ => ⟨clusterPlace_waits hg may live, fun r hr => ?_⟩, fun t0 => priorityWaitLimit_blocks hg,
      fun tid tm hn ht => teamRetire_answers hg hn ht, gridComplete_answers hg, fun status => abortDrained_answers hg⟩
    obtain ⟨t, ht, counted, bound⟩ := clusterPlace_binds hg may live none_ hr rfl
    refine ⟨t, ht, counted, fun i hi => ?_⟩
    obtain ⟨c, hc, tm, own⟩ := bound i hi
    exact ⟨c, tm, hc, own⟩
  · exact fun s fid f hf done idle thawed ops => fibreRelease_answers hf done idle thawed ops

end Sys2Proof.Proofs
end

section
/-!
What a core reads, through the steps of a load: epoch states advance, requests are counted, copies are invalidated and lines are filled, and at each line that
the core sees it goes on seeing the same bytes (R154, R220, R221, R299).
-/

namespace Sys2Proof.Machine

variable {s t u : State} {k : Nat}

/-! ### The frame of a load's accesses -/

/-- An access to memory changes no register, operation in flight, fibre, grid or mode, nothing of the fabric and no byte of memory. -/
structure Calm (s t : State) : Prop where
  kept   : Kept s t
  mem    : t.mem = s.mem
  fibres : t.fibres = s.fibres
  grids  : t.grids = s.grids
  fabric : t.fabric = s.fabric
  parts  : ∀ p, (t.part p).cfg = (s.part p).cfg ∧ (t.part p).mode = (s.part p).mode ∧ (t.part p).replay = (s.part p).replay

namespace Calm

theorem refl (s : State) : Calm s s := ⟨.refl s, rfl, rfl, rfl, rfl, fun _ => ⟨rfl, rfl, rfl⟩⟩

theorem trans (h : Calm s t) (j : Calm t u) : Calm s u where
  kept := h.kept.trans j.kept
  mem := j.mem.trans h.mem
  fibres := j.fibres.trans h.fibres
  grids := j.grids.trans h.grids
  fabric := j.fabric.trans h.fabric
  parts p := ⟨(j.parts p).1.trans (h.parts p).1, (j.parts p).2.1.trans (h.parts p).2.1, (j.parts p).2.2.trans (h.parts p).2.2⟩

theorem core {n : Nat} {g : Core → Core} (h : ∀ x, (g x).pads = x.pads) : Calm s (s.modCore n g) :=
  ⟨.core h, rfl, rfl, rfl, rfl, fun _ => ⟨rfl, rfl, rfl⟩⟩

theorem of_slices (h : Slices s t) (mem : t.mem = s.mem) : Calm s t :=
  ⟨h.kept, mem, h.fibres, h.grids, h.fabric, fun p => ⟨h.cfg p, h.mode p, (congrArg Part.replay (h.parts p) :)⟩⟩

theorem line {n : Nat} {g : LineInfo → LineInfo} : Calm s (s.modLine n g) := .of_slices .line rfl

theorem count (c : Nat) (sl : Option Nat) (ev n : Nat) : Calm s (s.pmCount c sl ev n) := by
  unfold State.pmCount
  split
  · exact refl s
  · refine core fun x => ?_
    unfold Core.pmCount
    split <;> rfl

section Fields
variable (h : Calm s t)
include h

theorem fib (n : Nat) : t.fib n = s.fib n := State.fib_congr h.fibres n

theorem partOf (n : Nat) : t.partOf n = s.partOf n := by
  have own : t.gridOf n = s.gridOf n := by
    unfold State.gridOf State.team State.grid
    rw [h.fib, h.kept.teams, h.grids]
  unfold State.partOf State.partOfCore
  simp only [own, (h.parts _).1]

theorem plain {p : Nat} (m : PlainMode s p) : PlainMode t p := by
  unfold PlainMode State.recording State.replaying State.inReplayMode State.ordered
  rw [(h.parts p).2.1, (h.parts p).2.2]
  exact m

theorem plainOf {n : Nat} (m : PlainMode s (s.partOf n)) : PlainMode t (t.partOf n) := by
  rw [h.partOf]
  exact h.plain m

theorem recording (p : Nat) : t.recording p = s.recording p := by
  unfold State.recording
  rw [(h.parts p).2.1]

theorem gaddr (home pa : Nat) : gaddr t home pa = gaddr s home pa := by
  unfold Machine.gaddr
  rw [h.fabric]

end Fields
end Calm

/-! ### A line at its home -/

/-- Nothing newer than memory stands outside for a line, and neither an error nor poison is found there. -/
structure HomeClear (s : State) (ln : Nat) : Prop where
  low   : mdState (s.md ln) < 3
  good  : Good s ln
  errs  : ∀ n, s.hbm.remapErr.get? n = none
  clean : linePoison s ln = false

/-- A home stays clear where metadata change beside POISON, to a STATE that no copy outside has newer. -/
theorem HomeClear.of_md {ln : Nat} (h : HomeClear s ln) (c : Slices s t)
    (md : mdState (t.md ln) < 3 ∧ (t.md ln).getLsbD 15 = false ∧ mdPoison (t.md ln) = mdPoison (s.md ln)) (errs : t.hbm.errs.get? ln = none) :
    HomeClear t ln := by
  obtain ⟨low, bit, poison⟩ := md
  obtain ⟨none_, fence⟩ := c.errs h.errs
  refine ⟨low, ⟨errs, bit, Nat.lt_of_lt_of_le low (by omega)⟩, none_, ?_⟩
  have e : linePoison t ln = linePoison s ln := by
    unfold linePoison reachable homeOf fenced
    simp only [poison, c.fabric, c.placeOf, fence]
  rw [e]
  exact h.clean

/-- A change of some line's record beside POISON, to a STATE that no copy outside has newer. -/
theorem HomeClear.line {ln n : Nat} {g : LineInfo → LineInfo} (h : HomeClear s ln)
    (hg : ∀ l, mdState l.md < 3 → l.md.getLsbD 15 = false → mdState (g l).md < 3 ∧ (g l).md.getLsbD 15 = false ∧ mdPoison (g l).md = mdPoison l.md) :
    HomeClear (s.modLine n g) ln := by
  refine h.of_md .line ?_ h.good.errs
  unfold State.md
  rw [State.line_modLine]
  split
  · next e => subst e; exact hg _ h.low h.good.md.1
  · exact ⟨h.low, h.good.md.1, rfl⟩

theorem HomeClear.of_reads {ln : Nat} (h : HomeClear s ln) (c : Slices s t) (r : Reads s t) : HomeClear t ln := by
  obtain ⟨errs, md⟩ := r.good ln h.good
  exact h.of_md c (by rw [md]; exact ⟨h.low, h.good.md.1, rfl⟩) errs

/-- What a core has of a line has no part in how its home stands. -/
theorem HomeClear.of_core {ln n : Nat} {g : Core → Core} (h : HomeClear s ln) : HomeClear (s.modCore n g) ln :=
  ⟨h.low, ⟨h.good.errs, h.good.md⟩, h.errs, h.clean⟩

theorem HomeClear.count {ln : Nat} (h : HomeClear s ln) (c : Nat) (sl : Option Nat) (ev n : Nat) : HomeClear (s.pmCount c sl ev n) ln := by
  unfold State.pmCount
  split
  · exact h
  · exact h.of_core

/-! ### A line in an L1 -/

/-- The clean bytes of an L1 line are those of memory, and it is not poisoned. -/
def Current (m : Mem) (ln : Nat) (l : L1Line) : Prop :=
  l.poison = false ∧ ∀ i < 128, l.valid.getLsbD i = true → l.dirty.getLsbD i = false → lineByte l.data i = m.read (ln * 128 + i)

/-- An L1 line is replaced by one that is as current and has the same dirty bytes. -/
structure Renews (m : Mem) (ln : Nat) (l l' : L1Line) : Prop where
  current : Current m ln l → Current m ln l'
  dirty   : l'.dirty = l.dirty
  data    : ∀ i < 128, l.dirty.getLsbD i = true → lineByte l'.data i = lineByte l.data i

theorem Renews.refl (m : Mem) (ln : Nat) (l : L1Line) : Renews m ln l l := ⟨id, rfl, fun _ _ _ => rfl⟩

theorem Renews.trans {m : Mem} {ln : Nat} {l l' l'' : L1Line} (h : Renews m ln l l') (j : Renews m ln l' l'') : Renews m ln l l'' :=
  ⟨j.current ∘ h.current, j.dirty.trans h.dirty, fun i hi d => (j.data i hi (h.dirty ▸ d)).trans (h.data i hi d)⟩

/-- A core sees its dirty bytes of a current line, and else memory's. -/
theorem seenByte_current {a : Nat} (h : Current s.mem (a / 128) (s.l1 k (a / 128))) : seenByte s k a =
    if (s.l1 k (a / 128)).dirty.getLsbD (a % 128) then lineByte (s.l1 k (a / 128)).data (a % 128) else s.mem.read a := by
  have low : a % 128 < 128 := Nat.mod_lt _ (by omega)
  have at_ : a / 128 * 128 + a % 128 = a := by omega
  unfold seenByte
  rw [BitVec.getLsbD_or]
  cases hd : (s.l1 k (a / 128)).dirty.getLsbD (a % 128) with
  | true => simp only [Bool.or_true, if_true]; rfl
  | false =>
    cases hv : (s.l1 k (a / 128)).valid.getLsbD (a % 128) with
    | true =>
      simp only [Bool.or_false, if_true, Bool.false_eq_true, if_false]
      exact (h.2 _ low hv hd).trans (by rw [at_])
    | false => simp only [Bool.or_false, Bool.false_eq_true, if_false]

/-! ### What a core sees -/

/-- A line that core k reads as Sees says, room in the L1 aside. -/
structure Clear (s : State) (k ln : Nat) : Prop where
  home : HomeClear s ln
  own  : Current s.mem ln (s.l1 k ln)

theorem Sees.clear {ln : Nat} (h : Sees s k ln) : Clear s k ln := by
  obtain ⟨bit, errs, remap⟩ := h.good
  exact ⟨⟨h.home, ⟨errs, bit, Nat.lt_of_lt_of_le h.home (by omega)⟩, remap, h.poison.1⟩, h.poison.2, h.fresh⟩

theorem Clear.served {ln : Nat} (h : Clear s k ln) (room : (s.core k).l1.length < 1024) : Served s k ln :=
  ⟨h.home.low, h.home.good, h.home.errs, ⟨h.home.clean, h.own.1⟩, h.own.2, room⟩

/-- Between two states core k goes on seeing the same bytes at the lines that it sees, and its L1 holds at most n lines more. -/
structure Looks (s t : State) (k n : Nat) : Prop where
  calm : Calm s t
  home : ∀ ln, HomeClear s ln → HomeClear t ln
  own  : ∀ ln, HomeClear s ln → Renews s.mem ln (s.l1 k ln) (t.l1 k ln)
  room : (t.core k).l1.length ≤ (s.core k).l1.length + n

namespace Looks

theorem refl (s : State) (k : Nat) : Looks s s k 0 := ⟨.refl s, fun _ h => h, fun _ _ => .refl _ _ _, Nat.le_refl _⟩

theorem trans {m n : Nat} (h : Looks s t k m) (j : Looks t u k n) : Looks s u k (m + n) where
  calm := h.calm.trans j.calm
  home ln c := j.home ln (h.home ln c)
  own ln c := (h.own ln c).trans (h.calm.mem ▸ j.own ln (h.home ln c))
  room := by have := h.room; have := j.room; omega

theorem mono {m n : Nat} (h : Looks s t k m) (le : m ≤ n) : Looks s t k n := ⟨h.calm, h.home, h.own, Nat.le_trans h.room (by omega)⟩

/-- Nothing of the L1s changes. -/
theorem of_l1 (calm : Calm s t) (home : ∀ ln, HomeClear s ln → HomeClear t ln) (l1 : (t.core k).l1 = (s.core k).l1) : Looks s t k 0 where
  calm := calm
  home := home
  own ln _ := by unfold State.l1; rw [l1]; exact .refl _ _ _
  room := by rw [l1]; exact Nat.le_refl _

theorem count (c : Nat) (sl : Option Nat) (ev n : Nat) : Looks s (s.pmCount c sl ev n) k 0 :=
  .of_l1 (.count _ _ _ _) (fun _ h => h.count _ _ _ _) ((pmCount_sameMem _ _ _ _).l1 k)

/-- A read at the home slice. -/
theorem homeRead {ln : Nat} (nt : Bool) (h : HomeClear s ln) : Looks s (homeRead s ln nt) k 0 :=
  have reads : Reads s (Machine.homeRead s ln nt) := homeRead_reads nt h.low
  .of_l1 (.of_slices (homeRead_slices _ _) reads.mem) (fun _ c => c.of_reads (homeRead_slices _ _) reads)
    (congrArg Core.l1 ((homeRead_slices ln nt).core k))

section Fields
variable {n : Nat} (h : Looks s t k n)
include h

theorem clear {ln : Nat} (c : Clear s k ln) : Clear t k ln := by
  refine ⟨h.home ln c.home, ?_⟩
  rw [h.calm.mem]
  exact (h.own ln c.home).current c.own

theorem seenByte {a : Nat} (c : Clear s k (lineOf a)) : seenByte t k a = seenByte s k a := by
  obtain ⟨-, dirty, data⟩ := h.own _ c.home
  rw [seenByte_current (h.clear c).own, seenByte_current c.own, dirty, h.calm.mem]
  split
  · next bit => exact data _ (Nat.mod_lt _ (by omega)) bit
  · rfl

theorem seenN {a m : Nat} (fits : a % 128 + m ≤ 128) (c : Clear s k (lineOf a)) : seenN t k a m = seenN s k a m := by
  unfold Machine.seenN bytesOf
  refine congrArg List.sum (List.map_congr_left fun i hi => ?_)
  have low := List.mem_range.1 hi
  have same : lineOf (a + i) = lineOf a := by unfold lineOf; omega
  rw [h.seenByte (by rw [same]; exact c)]

end Fields
end Looks

/-! ### Requests to lines (R299) -/

theorem mdMake_fields (p : Bool) (e o st : Nat) : (mdMake p e o st).getLsbD 15 = false ∧ mdPoison (mdMake p e o st) = p := by
  have lt : e % 4 * 2 ^ 12 + o % 512 * 8 + st % 8 < 2 ^ 14 := by omega
  unfold mdMake mdPoison
  rw [BitVec.getLsbD_ofNat, BitVec.getLsbD_ofNat, Nat.add_assoc, Nat.add_assoc, ← Nat.add_assoc (e % 4 * 2 ^ 12)]
  generalize e % 4 * 2 ^ 12 + o % 512 * 8 + st % 8 = x at lt
  cases p with
  | true =>
    simp only [if_true, show (2 : Nat) ^ 14 + x = 2 ^ 14 * 1 + x by omega, Nat.testBit_two_pow_mul_add _ lt, Nat.lt_irrefl,
      show ¬ 15 < 14 by omega, if_false]
    exact ⟨by decide, by decide⟩
  | false =>
    simp only [Bool.false_eq_true, if_false, Nat.zero_add, Nat.testBit_lt_two_pow lt,
      Nat.testBit_lt_two_pow (Nat.lt_of_lt_of_le lt (show 2 ^ 14 ≤ 2 ^ 15 by omega)), Bool.and_false, and_self]

/-- A line of another device that this one is granted for a read stays clear. -/
theorem granted_looks (b : BufInfo) (ln : Nat) : Looks s (granted s b ln false) k 0 := by
  unfold granted
  split
  · exact .refl s k
  · refine .of_l1 .line (fun n h => h.line fun l low _ => ?_) rfl
    obtain ⟨bit, poison⟩ := mdMake_fields (mdPoison l.md) 0 s.fabric.device (max 1 (mdState l.md))
    refine ⟨(mdState_mdMake _ _ _ _).trans_lt ?_, bit, poison⟩
    simp only [Bool.false_eq_true, if_false]
    omega

theorem lineAccess_looks {fid ric ln va kind : Nat} (mode : PlainMode s (s.partOf fid)) : Looks s (lineAccess s fid ric ln va kind) k 0 := by
  obtain ⟨rec_, rep, -⟩ := mode
  obtain ⟨g, hg, e⟩ := lineAccess_plain (ric := ric) (ln := ln) (va := va) (kind := kind) rec_ rep
  rw [e]
  exact .of_l1 .line (fun n h => h.of_reads .line (.line hg)) rfl

/-- Steps one after the other, each with nothing logged or staged. -/
theorem Looks.foldl {α : Type} {fid : Nat} {g : State → α → State} (h : ∀ s x, PlainMode s (s.partOf fid) → Looks s (g s x) k 0) (l : List α)
    (mode : PlainMode s (s.partOf fid)) : Looks s (l.foldl g s) k 0 := by
  induction l generalizing s with
  | nil => exact .refl s k
  | cons x r ih => exact (h s x mode).trans (ih ((h s x mode).calm.plainOf mode))

/-- The lines of a load advance their epoch states. -/
theorem touchLines_looks {o : Op} (mode : PlainMode s (s.partOf o.fibre)) : Looks s (touchLines s o 0) k 0 := by
  refine Looks.foldl (fun s e mode => ?_) _ mode
  extract_lets hit s1
  have h1 : Looks s s1 k 0 := (lineAccess_looks mode).trans (.count _ _ _ _)
  split
  · exact h1.trans (granted_looks _ _)
  · exact h1

/-! ### Self-invalidation (R221) -/

/-- What stays of an L1 line at a self-invalidation. -/
theorem Renews.invalidate (m : Mem) (ln : Nat) (l : L1Line) (keep : BitVec 128) : Renews m ln l { l with valid := l.valid &&& keep } := by
  refine ⟨fun h => ⟨h.1, fun i hi hv hd => h.2 i hi ?_ hd⟩, rfl, fun _ _ _ => rfl⟩
  rw [BitVec.getLsbD_and, Bool.and_eq_true] at hv
  exact hv.1

theorem selfInvalidate_l1 (s : State) (c ln : Nat) : ∃ keep, (selfInvalidate s c).l1 c ln = { s.l1 c ln with valid := (s.l1 c ln).valid &&& keep } := by
  unfold selfInvalidate State.l1
  rw [State.core_modCore, if_pos rfl]
  unfold AMap.getD
  rw [AMap.get?_mapVals]
  cases (s.core c).l1.get? ln with
  | none => exact ⟨0, rfl⟩
  | some l => exact ⟨_, rfl⟩

theorem acquireAt_looks (k : Nat) (x : Scope) : Looks s (acquireAt s k x) k 0 := by
  unfold acquireAt
  split
  · exact .refl s k
  · refine ⟨.core fun _ => rfl, fun _ h => h.of_core, fun ln _ => ?_, ?_⟩
    · obtain ⟨keep, e⟩ := selfInvalidate_l1 s k ln
      rw [e]
      exact .invalidate _ _ _ keep
    · unfold selfInvalidate
      rw [State.core_modCore, if_pos rfl]
      exact (List.length_map _).le

/-! ### Reads through the L1 (R220, R404) -/

theorem AMap.length_set {α : Type} (m : AMap α) (j : Nat) (v : α) : (m.set j v).length ≤ m.length + 1 := by
  induction m with
  | nil => exact Nat.le_refl _
  | cons e r ih =>
    unfold AMap.set
    split
    · exact Nat.le_succ _
    · split
      · exact Nat.le_refl _
      · exact Nat.succ_le_succ ih

theorem AMap.length_del {α : Type} (m : AMap α) (j : Nat) : (m.del j).length ≤ m.length := by
  induction m with
  | nil => exact Nat.le_refl _
  | cons e r ih =>
    unfold AMap.del
    split
    · exact Nat.le_succ_of_le ih
    · exact Nat.succ_le_succ ih

theorem countRequest_looks (c ln : Nat) : Looks t (countRequest s c ln t) k 0 := by
  unfold countRequest
  split
  · exact .count _ _ _ _
  · extract_lets s2
    have h2 : Looks t s2 k 0 := Looks.trans (.count _ _ _ _) (.count _ _ _ _)
    split
    · exact h2.trans (.count _ _ _ _)
    · exact h2

/-- One line of the L1 is renewed. -/
theorem Looks.modL1 {ln n : Nat} {g : AMap L1Line → AMap L1Line} (other : ∀ m j, j ≠ ln → (g m).getD j L1Line.empty = m.getD j L1Line.empty)
    (own : HomeClear s ln → Renews s.mem ln (s.l1 k ln) ((g (s.core k).l1).getD ln L1Line.empty)) (len : ∀ m, (g m).length ≤ m.length + n) :
    Looks s (s.modCore k fun c => { c with l1 := g c.l1 }) k n := by
  have l1 j : (s.modCore k fun c => { c with l1 := g c.l1 }).l1 k j = (g (s.core k).l1).getD j L1Line.empty := by
    unfold State.l1
    rw [State.core_modCore, if_pos rfl]
  refine ⟨.core fun _ => rfl, fun _ h => h.of_core, fun j h => ?_, ?_⟩
  · rw [l1]
    by_cases e : j = ln
    · subst e
      exact own h
    · rw [other _ _ e]
      exact .refl _ _ _
  · rw [State.core_modCore, if_pos rfl]
    exact len _

/-- A filled line: memory's bytes under the core's own dirty ones. -/
theorem Renews.fill (s : State) (ln : Nat) (l : L1Line) {p : Bool} (clean : p = false) :
    Renews s.mem ln l { l with data := mergeBytes (memLine s ln) l.data l.dirty, valid := BitVec.allOnes 128, poison := p } := by
  refine ⟨fun _ => ⟨clean, fun i hi _ hd => ?_⟩, rfl, fun i hi hd => ?_⟩
  · rw [lineByte_merge _ _ _ hi, hd, lineByte_memLine _ hi]
    rfl
  · rw [lineByte_merge _ _ _ hi, hd]
    rfl

theorem l1Fill_looks {ln : Nat} (nt : Bool) (h : HomeClear s ln) (room : (s.core k).l1.length < 1024) : Looks s (l1Fill s k ln nt) k 1 := by
  unfold l1Fill
  extract_lets s1 s2
  have read : Looks s s1 k 0 := .homeRead nt h
  have counted : Looks s (countRequest s k ln s1) k 0 := read.trans (countRequest_looks _ _)
  have here : s2 = countRequest s k ln s1 := by
    have few : ((countRequest s k ln s1).core k).l1.length < 1024 := Nat.lt_of_le_of_lt counted.room room
    unfold s2 l1Room
    simp only [few, decide_true, Bool.true_or, if_true]
  rw [here]
  refine counted.trans (n := 1) (.modL1 (fun m j e => AMap.getD_upd_ne _ _ _ _ e) (fun _ => ?_) fun m => AMap.length_set _ _ _)
  have mem : (countRequest s k ln s1).mem = s1.mem := counted.calm.mem.trans read.calm.mem.symm
  rw [AMap.getD_upd, if_pos rfl, mem]
  exact .fill _ _ _ (read.home ln h).clean

/-- A line that the L1 did not hold leaves it again. -/
theorem dropFilled_looks {ln : Nat} (none_ : (s.l1 k ln).dirty = 0) :
    Looks s (s.modCore k fun c => { c with l1 := c.l1.del ln }) k 0 := by
  refine .modL1 (ln := ln) (g := fun m => m.del ln) (fun m j e => ?_) (fun _ => ?_) fun m => AMap.length_del _ _
  · unfold AMap.getD
    rw [AMap.get?_del, if_neg e]
  · unfold AMap.getD
    rw [AMap.get?_del, if_pos rfl]
    refine ⟨fun _ => ⟨rfl, fun i _ hv _ => ?_⟩, none_.symm, fun i _ hd => ?_⟩
    · exact absurd hv (by simp [L1Line.empty])
    · rw [none_] at hd
      exact absurd hd (by simp)

/-- A read through the L1 gives what the core sees, without poison, and at every line the core goes on seeing the same. -/
theorem l1Read_looks {a n : Nat} (nt : Bool) (fits : a % 128 + n ≤ 128) (h : Clear s k (lineOf a)) (room : (s.core k).l1.length < 1024) :
    let r := l1Read s k a n nt false
    r.1 = seenN s k a n ∧ r.2.1 = false ∧ Looks s r.2.2 k 1 := by
  intro r
  have served := h.served room
  unfold r l1Read
  extract_lets ln o l s0 s1 l1 s2
  simp only [Bool.false_eq_true, if_false]
  split
  · next hit =>
    refine ⟨seenN_of_bytes fun i hi => l1_hit fits hit hi, ?_, (Looks.refl s k).mono (Nat.zero_le 1)⟩
    rw [show l.poison = false from h.own.1, Bool.false_and]
  · have fill : Looks s s1 k 1 := l1Fill_looks nt h.home room
    have own : l1 = filled s (homeRead s ln nt) k ln := (l1Fill_reads nt served).2
    have mem : memLine (homeRead s ln nt) ln = memLine s ln := by
      unfold memLine
      rw [(homeRead_reads nt h.home.low).mem]
    refine ⟨seenN_of_bytes fun i hi => ?_, ?_, ?_⟩
    · rw [own]
      unfold filled
      rw [mem]
      exact l1_fill fits served hi
    · rw [own]
      unfold filled
      rw [homeRead_clean nt served, Bool.false_and]
    · change Looks s s2 k 1
      unfold s2
      split
      · next gone =>
        have none_ : l = L1Line.empty := of_decide_eq_true (Bool.and_eq_true_iff.1 gone).2
        have clean : l1.dirty = 0 := (fill.own ln h.home).dirty.trans (congrArg L1Line.dirty none_)
        exact fill.trans (n := 0) (dropFilled_looks clean)
      · exact fill

/-- The accesses of a load, one after the other: each finds what the core saw before the first. -/
theorem readAccs_looks {o : Op} {pre : State} (nt : Bool) (core : coreOf o.fibre = k) (rep : pre.replaying (pre.partOf o.fibre) = false) (accs : List Acc)
    (mode : PlainMode s (s.partOf o.fibre)) (near : ∀ a ∈ accs, a.pa % 128 + a.size ≤ 128 ∧ Clear s k (lineOf (gaddr s a.home a.pa)))
    (room : (s.core k).l1.length + accs.length ≤ 1024) :
    (readAccs pre s o nt accs).1 = accs.map (fun a => (a, seenN s k (gaddr s a.home a.pa) a.size, false)) ∧
      Looks s (readAccs pre s o nt accs).2 k accs.length := by
  induction accs generalizing s with
  | nil => exact ⟨rfl, .refl s k⟩
  | cons a r ih =>
    have line (home pa : Nat) : gaddr s home pa % 128 = pa % 128 := by unfold gaddr; split <;> omega
    have fits : ∀ b ∈ a :: r, gaddr s b.home b.pa % 128 + b.size ≤ 128 := fun b hb => by rw [line]; exact (near b hb).1
    rw [List.length_cons] at room
    obtain ⟨value, clean, looks⟩ := l1Read_looks nt (fits a List.mem_cons_self) (near a List.mem_cons_self).2 (by omega)
    have plain := readAcc_plain (s := pre) (t := s) (o := o) (a := a) (nt := nt) rfl mode.2.2 mode.1 mode.2.1 rep rfl rfl
    rw [core] at plain
    rw [← plain] at value clean looks
    have same (b : Acc) : gaddr (readAcc pre s o a nt).2.2 b.home b.pa = gaddr s b.home b.pa := looks.calm.gaddr _ _
    obtain ⟨values, rest⟩ := ih (s := (readAcc pre s o a nt).2.2) (looks.calm.plainOf mode)
      (fun b hb => ⟨(near b (List.mem_cons_of_mem _ hb)).1, by rw [same]; exact looks.clear (near b (List.mem_cons_of_mem _ hb)).2⟩)
      (by have := looks.room; omega)
    refine ⟨?_, (looks.trans rest).mono (by rw [List.length_cons]; omega)⟩
    change (a, (readAcc pre s o a nt).1, (readAcc pre s o a nt).2.1) :: _ = _
    rw [value, clean, List.map_cons, values]
    refine congrArg _ (List.map_congr_left fun b hb => ?_)
    rw [same, looks.seenN (fits b (List.mem_cons_of_mem _ hb)) (near b (List.mem_cons_of_mem _ hb)).2]

end Sys2Proof.Machine
end

section
/-!
How an operation in flight ends: its results are written register by register, it leaves the operations in flight, and an acquire is noted (R73, R154, R157,
R194, R200).
-/

namespace Sys2Proof.Machine

variable {s t u : State} {fid : Nat} {f : Fibre} {w : Writes}

/-- A frame, and then another, with no line of memory changed between. -/
theorem Only.andThen (h : Only s t fid w) (m : w.mem = false → SameMem s t) (j : Only t u fid w) (hw : w.teams = false) : Only s u fid w :=
  h.trans j fun no rep => by rw [h.partOf hw (m no), replaying_kept (m no)]; exact rep

theorem Only.hasReg {r g : Nat} {x : Fibre} (h : Only s t fid w) (hx : s.fib g = some x) :
    ∃ y, t.fib g = some y ∧ y.region = x.region ∧ y.hasReg r = x.hasReg r := by
  obtain ⟨y, hy, -, priv, shared, region⟩ := h.fibre hx
  exact ⟨y, hy, region, hasReg_congr priv shared r⟩

/-- A register that is none of those written reads as before. -/
theorem Only.readLane {r : Nat} (h : Only s t fid w) (hr : r ∉ w.v) (l : Fin 32) : readLane t fid r l = readLane s fid r l := by
  unfold Machine.readLane
  rw [h.vreg fid r fun q hq same => hr (same.1 ▸ hq)]

/-! ### Results of loads -/

theorem putRegs_sameMem (vd : Nat) (z : LaneMask) (res : List (Nat × Nat)) (n : Nat) : SameMem s (putRegs s fid vd z res n) := by
  induction n with
  | zero => exact .refl s
  | succ n ih => exact ih.trans (writeReg_sameMem _ _ _)

theorem putRegs_only {vd : Nat} (z : LaneMask) (res : List (Nat × Nat)) {n : Nat} (hw : w.teams = false) (hv : ∀ r ∈ regRange vd n, r ∈ w.v) :
    Only s (putRegs s fid vd z res n) fid w := by
  induction n with
  | zero => exact .refl s _ _
  | succ n ih =>
    rw [regRange, List.range_succ, List.map_append] at hv
    exact (ih fun r hr => hv r (List.mem_append_left _ hr)).andThen (fun _ => putRegs_sameMem _ _ _ _)
      (writeReg_only _ _ _ _ (hv _ (List.mem_append_right _ List.mem_cons_self))) hw

theorem putRegs_returns {vd n : Nat} (z : LaneMask) (res : List (Nat × Nat)) (hf : s.fib fid = some f) (area : f.region < 4)
    (regs : ∀ r ∈ regRange vd n, f.hasReg r = true) : Returns s (putRegs s fid vd z res n) fid vd z n res := by
  induction n with
  | zero => intro i hi; omega
  | succ n ih =>
    have part : ∀ r ∈ regRange vd n, r ∈ regRange vd (n + 1) := fun r hr => by
      rw [regRange, List.range_succ, List.map_append]
      exact List.mem_append_left _ hr
    have last : vd + n ∈ regRange vd (n + 1) := List.mem_map.2 ⟨n, List.mem_range.2 (Nat.lt_succ_self n), rfl⟩
    have frame : Only s (putRegs s fid vd z res n) fid { v := regRange vd n } := putRegs_only z res rfl fun _ h => h
    obtain ⟨y, hy, region, has⟩ := frame.hasReg (r := vd + n) hf
    intro i hi l
    unfold putRegs
    by_cases e : i = n
    · subst e
      have new : vd + i ∉ regRange vd i := fun h => by
        obtain ⟨j, hj, e⟩ := List.mem_map.1 h
        have := List.mem_range.1 hj
        omega
      have old := frame.readLane new l
      unfold readLane at old ⊢
      rw [readReg_writeReg_self hy (region ▸ area) (has.trans (regs _ last))]
      refine (Vector.getElem_ofFn _).trans ?_
      cases res.find? fun e => e.1 == l.val with
      | none => exact congrArg (fun x => if inMask z l then 0 else x) old
      | some e => rfl
    · have other : ¬ sameReg (putRegs s fid vd z res n) fid (vd + n) fid (vd + i) := not_sameReg_of_ne (by omega)
      rw [← ih (fun r hr => regs r (part r hr)) i (by omega) l]
      unfold readLane
      rw [readReg_writeReg_ne other]

/-! ### Leaving flight -/

/-- The operations in flight change. -/
theorem ops_only (l : List Op) (hw : w.ops = true) : Only s { s with ops := l } fid w where
  vreg _ _ _ := rfl
  pred _ _ _ := rfl
  unif _ _ _ _ := rfl
  accum _ _ _ := rfl
  fpstat _ _ := rfl
  flags _ _ := rfl
  append _ _ := rfl
  bound _ := rfl
  ops h := absurd (hw.symm.trans h) (by simp)
  pads _ _ := rfl
  teams _ := ⟨fun _ => rfl, fun _ => rfl⟩
  fbars _ _ := rfl
  outer := ⟨rfl, rfl, fun _ => rfl, rfl⟩
  mem _ _ := ⟨fun _ => rfl, rfl, fun _ => rfl⟩

/-- An operation that ends without error leaves flight, and no more. -/
theorem endOp_done (s : State) (o : Op) : s.endOp o false = { s with ops := s.ops.filter fun q => q.id != o.id } := by
  unfold State.endOp
  cases o.flag <;> rfl

theorem op_id {id : Nat} {o : Op} (h : s.op id = some o) : o.id = id :=
  beq_iff_eq.1 (List.find?_some (p := fun o : Op => o.id == id) h)

/-! ### Acquires (R157, R194, R200) -/

/-- Between two states only notes differ: which releases an acquire observed, and which bytes a core has clean. -/
structure Noted (s t : State) (fid : Nat) : Prop where
  frame : Only s t fid { ops := true, mem := true }
  ops   : t.ops.map Op.bare = s.ops.map Op.bare
  mem   : t.mem = s.mem
  modes : ∀ p, t.recording p = s.recording p

theorem noteAcq_engine (e : EngOp) : ∃ x, (OpKind.engine e).noteAcq fid = .engine x ∧ x.bare = e.bare := by
  by_cases h : (e.rel && !e.seen.contains fid) = true
  · exact ⟨_, if_pos h, rfl⟩
  · exact ⟨_, if_neg h, rfl⟩

theorem noteAcq_bare (o : Op) : { o with kind := o.kind.noteAcq fid }.bare = o.bare := by
  obtain ⟨id, fibre, team, core, lanes, clause, word, ric, flag, kind⟩ := o
  cases kind with
  | engine e =>
    obtain ⟨x, hx, bare⟩ := noteAcq_engine (fid := fid) e
    unfold Op.bare
    simp only [hx, bare]
  | _ => rfl

theorem PadWrite.acquire_noted (x : PadWrite) : { x.acquire fid with rel := false, seen := [] } = { x with rel := false, seen := [] } := by
  unfold PadWrite.acquire
  split
  · rfl
  · rfl

theorem acquire_bare (y : Team) : { y with unfenced := y.unfenced.map (PadWrite.acquire fid) }.bare = y.bare := by
  unfold Team.bare
  rw [List.map_map]
  exact congrArg (fun l => { y with unfenced := l }) (List.map_congr_left fun (x : PadWrite) _ => x.acquire_noted)

/-- What is noted of a team's scratchpad writes is no part of a frame. -/
theorem modTeam_only {n : Nat} {g : Team → Team} (h : ∀ y, (g y).bare = y.bare) (hw : w.mem = true) : Only s (s.modTeam n g) fid w where
  vreg _ _ _ := rfl
  pred _ _ _ := rfl
  unif _ _ _ _ := rfl
  accum _ _ _ := rfl
  fpstat _ _ := rfl
  flags _ _ := rfl
  append _ _ := rfl
  bound _ := rfl
  ops _ := ⟨rfl, fun _ => rfl⟩
  pads _ _ := rfl
  teams _ := by
    refine ⟨fun j => ?_, fun no => absurd (hw.symm.trans no) (by simp)⟩
    rw [State.team_modTeam]
    split
    · next e =>
      subst e
      rw [Option.map_map]
      exact congrArg (fun k => Option.map k (s.team j)) (funext h)
    · rfl
  fbars _ _ := rfl
  outer := ⟨rfl, rfl, fun _ => rfl, rfl⟩
  mem _ _ := ⟨fun _ => rfl, rfl, fun _ => rfl⟩

theorem noteAcquire_noted (s : State) (fid g : Nat) : Noted s (noteAcquire s fid) g := by
  unfold noteAcquire
  split
  · exact ⟨.refl _ _ _, rfl, rfl, fun _ => rfl⟩
  · next f hf =>
    refine ⟨(ops_only _ rfl).trans (modTeam_only acquire_bare rfl) (fun no => nomatch no), ?_, rfl, fun _ => rfl⟩
    change (s.ops.map fun o => if o.team == f.team then { o with kind := o.kind.noteAcq fid } else o).map Op.bare = s.ops.map Op.bare
    rw [List.map_map]
    refine List.map_congr_left fun o _ => ?_
    rw [Function.comp_apply]
    split
    · exact noteAcq_bare o
    · rfl

theorem Noted.trans (h : Noted s t fid) (j : Noted t u fid) : Noted s u fid :=
  ⟨h.frame.trans j.frame (fun no => nomatch no), j.ops.trans h.ops, j.mem.trans h.mem, fun p => (j.modes p).trans (h.modes p)⟩

theorem acquireBy_noted (s : State) (fid : Nat) (x : Scope) : Noted s (acquireBy s fid x) fid := by
  unfold acquireBy
  split
  · exact ⟨.refl _ _ _, rfl, rfl, fun _ => rfl⟩
  · have calm : Calm s (acquireAt s (coreOf fid) x) := (acquireAt_looks _ _).calm
    have first : Noted s (acquireAt s (coreOf fid) x) fid := ⟨.of_kept calm.kept _ _ (fun no => nomatch no), by rw [calm.kept.ops], calm.mem, calm.recording⟩
    exact first.trans (noteAcquire_noted _ _ _)

/-! ### When an operation is due -/

theorem accLines_mem {l : List Acc} {e : Nat × Nat} (h : e ∈ accLines s l) : ∃ a ∈ l, lineOf (gaddr s a.home a.pa) = e.1 := by
  have step (r : List (Nat × Nat)) : e ∈ l.foldl (fun r a =>
      let ln := lineOf (gaddr s a.home a.pa)
      if r.any (fun e => e.1 == ln) then r else r ++ [(ln, a.va)]) r → e ∈ r ∨ ∃ a ∈ l, lineOf (gaddr s a.home a.pa) = e.1 := by
    clear h
    induction l generalizing r with
    | nil => exact .inl
    | cons a l ih =>
      intro h
      rcases ih _ h with h | ⟨b, hb, eq⟩
      · dsimp only at h
        split at h
        · exact .inl h
        · rcases List.mem_append.1 h with h | h
          · exact .inl h
          · exact .inr ⟨a, List.mem_cons_self, by rw [List.mem_singleton.1 h]⟩
      · exact .inr ⟨b, List.mem_cons_of_mem _ hb, eq⟩
  exact (step [] h).resolve_left List.not_mem_nil

/-- A read at the home slice asks nothing of copies outside where none is newer (R331). -/
theorem asks_homeRead {ln : Nat} (h : mdState (s.md ln) < 3) : asks s ln (.home false) = [] := by
  unfold asks
  dsimp only
  generalize mdState (s.md ln) = n at h
  obtain rfl | rfl | rfl : n = 0 ∨ n = 1 ∨ n = 2 := by omega
  · rfl
  · rfl
  · rfl

/-- A load, a uniform load or a scratchpad load. -/
def OpKind.returnsData : OpKind → Bool
  | .load .. | .uload .. | .lds .. => true
  | _ => false

/-- What returns data asks at most to read at the home slices, and releases nothing. -/
theorem opUse_returnsData {o : Op} (h : o.kind.returnsData = true) : o.kind.relScope = none ∧ ∀ ln r, opUse s o ln = some r → r = .home false := by
  have read {p : Prop} [Decidable p] {r : LineUse} (e : (if p then none else some (.home false)) = some r) : r = .home false := by
    split at e
    · cases e
    · exact (Option.some.inj e).symm
  unfold opUse
  cases hk : o.kind with
  | load => exact ⟨rfl, fun _ _ => read⟩
  | uload => exact ⟨rfl, fun _ _ => read⟩
  | lds => exact ⟨rfl, fun _ _ => read⟩
  | _ => rw [hk] at h; cases h

/-- The lines of what returns data are ready where the core sees them. -/
theorem linesReady_returnsData {o : Op} (h : o.kind.returnsData = true) (rep : s.replaying (s.partOf o.fibre) = false)
    (near : ∀ a ∈ o.kind.memAccs, Sees s k (lineOf (gaddr s a.home a.pa))) : linesReady s o = true := by
  obtain ⟨rel, use⟩ := opUse_returnsData (s := s) h
  have lines : ∀ e ∈ accLines s o.kind.memAccs, Sees s k e.1 := fun e he => by
    obtain ⟨a, ha, eq⟩ := accLines_mem he
    exact eq ▸ near a ha
  unfold linesReady
  rw [Bool.and_eq_true, List.all_eq_true, List.all_eq_true]
  refine ⟨fun e he => ?_, fun e he => ?_⟩
  · have sees := lines e he
    have turn : replayTurn s o.fibre o.ric.toNat e.1 e.2 = true := by
      unfold replayTurn
      rw [rep]
      rfl
    have port : (isRemote e.1 && vcFull s (linePort s e.1) 0) = false := by
      cases far : isRemote e.1 with
      | true => rw [sees.quiet.2 far]; rfl
      | false => rfl
    rw [sees.held, turn, port]
    rfl
  · unfold opLines at he
    rw [rel] at he
    rcases List.mem_append.1 he with he | he
    · obtain ⟨x, hx, eq⟩ := List.mem_filterMap.1 he
      obtain ⟨r, hr, rfl⟩ := Option.map_eq_some_iff.1 eq
      obtain rfl := use _ _ hr
      have sees := lines x hx
      have go : lineWaits s x.1 (.op o.id) (.home false) = false := by
        unfold lineWaits
        rw [sees.quiet.1]
        dsimp only
        rw [asks_homeRead sees.home]
        rfl
      rw [go, Bool.not_false, Bool.or_true]
    · exact absurd he (by simp)

theorem ldsReady_plain {o : Op} (rep : s.replaying (s.partOf o.fibre) = false) : ldsReady s o = true := by
  unfold ldsReady
  refine List.all_eq_true.2 fun ln _ => ?_
  unfold replayScratch
  rw [rep]
  rfl

/-- What the return of an operation's data does, once it may be. -/
def returned (s : State) (o : Op) : State :=
  match o.kind with
  | .load accs b k vd z acq => performLoad s o accs b k vd z acq
  | .uload a b sd div => performUload s o a b sd div
  | .lds accs vd z => performLds s o accs vd z
  | _ => s

/-- The data of a load that is due return (R156). -/
theorem loadDataReturn_due {id : Nat} {o : Op} {regs : List Nat} (due : Due s id o f regs) (ready : linesReady s o = true)
    (rec_ : (returned s o).recording (s.partOf o.fibre) = false) : exec (.loadDataReturn id) s = .next (returned s o) := by
  have run : exec (.loadDataReturn id) s = .next (ifRecorded s (s.partOf o.fibre) (returned s o)) := by
    refine congrArg Host.Outcome.next ?_
    rw [due.op]
    simp only [due.order, ready, ldsReady_plain due.mode.2.1, Bool.not_true, Bool.or_false, Bool.false_eq_true, if_false]
    rfl
  rw [run, ifRecorded_plain rec_]

end Sys2Proof.Machine
end

section
/-!
O41: the data of loads, of uniform loads and of scratchpad loads return, and class B operations write their results (R112, R124, R154, R159).
-/

namespace Sys2Proof.Machine

variable {s t u : State} {fid id : Nat} {f : Fibre} {o : Op} {w : Writes}

/-! ### Loads into vector registers -/

theorem Returns.kept {vd n : Nat} {z : LaneMask} {found : List (Nat × Nat)} (h : Returns t u fid vd z n found) (k : Kept s t) :
    Returns s u fid vd z n found := fun i hi l => by
  rw [← readLane_kept k]
  exact h i hi l

/-- An operation has ended: it has left flight, w was written, and no byte of memory. -/
structure Ended (s t : State) (o : Op) (w : Writes) : Prop where
  frame : Only s t o.fibre w
  ops   : t.ops.map Op.bare = (s.ops.filter fun q => q.id != o.id).map Op.bare
  mem   : t.mem = s.mem
  modes : ∀ p, t.recording p = s.recording p

/-- What is noted of an acquire comes after the end. -/
theorem Ended.noted (h : Ended s t o w) (j : Noted t u o.fibre) (hw : w.ops = true ∧ w.mem = true) : Ended s u o w where
  frame := h.frame.trans (j.frame.mono (fun _ x => nomatch x) (fun _ x => nomatch x) (fun _ x => nomatch x) (fun _ x => nomatch x) (by simp [hw]))
    fun no => absurd (hw.2.symm.trans no) (by simp)
  ops := j.ops.trans h.ops
  mem := j.mem.trans h.mem
  modes p := (j.modes p).trans (h.modes p)

/-- Results are written after what keeps every register, and the operation leaves flight. -/
theorem Ended.of_put (kept : Kept s t) (same : w.mem = false → SameMem s t) (mem : t.mem = s.mem) (modes : ∀ p, t.recording p = s.recording p)
    (put : ∀ v : Writes, v.s = w.s → v.v = w.v → v.teams = false → Only t u o.fibre v) (still : SameMem t u) (hw : w.teams = false ∧ w.ops = true) :
    Ended s (u.endOp o false) o w := by
  obtain ⟨teams, ops⟩ := hw
  have wrote : Only s u o.fibre w := (Only.of_kept kept o.fibre w fun no _ => same no).andThen same (put w rfl rfl teams) teams
  have flight : u.ops = s.ops := (((put { v := w.v, s := w.s } rfl rfl rfl).ops rfl).2 rfl).trans kept.ops
  rw [endOp_done]
  refine ⟨wrote.andThen (fun no => (same no).trans still) (ops_only _ ops) teams, ?_, still.mem.trans mem, fun p => (recording_same still p).trans (modes p)⟩
  exact congrArg (fun l => (List.filter _ l).map Op.bare) flight

/-- The results of a load are written, and it leaves flight. -/
theorem putRegs_ended {vd n : Nat} (z : LaneMask) (res : List (Nat × Nat)) (hf : s.fib o.fibre = some f) (area : f.region < 4)
    (regs : ∀ r ∈ regRange vd n, f.hasReg r = true) (kept : Kept s t) (same : w.mem = false → SameMem s t) (mem : t.mem = s.mem)
    (modes : ∀ p, t.recording p = s.recording p) (hw : w.teams = false ∧ w.ops = true) (hv : w.v = regRange vd n) :
    Ended s ((putRegs t o.fibre vd z res n).endOp o false) o w ∧ Returns s ((putRegs t o.fibre vd z res n).endOp o false) o.fibre vd z n res := by
  refine ⟨.of_put kept same mem modes (fun v _ e no => putRegs_only z res no (by rw [e, hv]; exact fun _ h => h)) (putRegs_sameMem _ _ _ _) hw, ?_⟩
  obtain ⟨y, hy, e⟩ := kept.some hf
  have region : y.region = f.region := (congrArg Regs.region e :)
  have has r : y.hasReg r = f.hasReg r := hasReg_congr (congrArg Regs.priv e :) (congrArg Regs.shared e :) r
  rw [endOp_done]
  exact (putRegs_returns z res hy (region ▸ area) fun r hr => (has r).trans (regs r hr)).kept kept

/-- Where no access finds poison, no lane does. -/
theorem poisonLanes_clean (accs : List Acc) (val : Acc → Nat) : (poisonLanes (accs.map fun a => (a, val a, false))).1 = 0 := by
  have none_ : (accs.map fun a => (a, val a, false)).filter (fun e => e.2.2) = [] := by
    rw [List.filter_eq_nil_iff]
    intro e he
    obtain ⟨a, -, rfl⟩ := List.mem_map.1 he
    exact Bool.false_ne_true
  unfold poisonLanes
  rw [none_]
  exact mask_ext fun l => (inMask_maskOf _ _).trans (inMask_zero l).symm

/-- The accesses of an operation that is due, made in a state that its core sees alike. -/
theorem reads_due {regs : List Nat} (due : Due s id o f regs) (nt : Bool) (looks : Looks s t o.core 0)
    (near : ∀ a ∈ o.kind.memAccs, a.pa % 128 + a.size ≤ 128 ∧ Sees s o.core (lineOf (gaddr s a.home a.pa))) :
    (readAccs t (touchLines t o 0) o nt o.kind.memAccs).1 =
        o.kind.memAccs.map (fun a => (a, seenN s o.core (gaddr s a.home a.pa) a.size, false)) ∧
      Looks s (readAccs t (touchLines t o 0) o nt o.kind.memAccs).2 o.core o.kind.memAccs.length := by
  have mode := looks.calm.plainOf due.mode
  have begun : Looks s (touchLines t o 0) o.core 0 := looks.trans (touchLines_looks mode)
  have same (a : Acc) : gaddr (touchLines t o 0) a.home a.pa = gaddr s a.home a.pa := begun.calm.gaddr _ _
  obtain ⟨values, rest⟩ := readAccs_looks (k := o.core) nt due.core.symm mode.2.1 o.kind.memAccs (begun.calm.plainOf due.mode)
    (fun a ha => ⟨(near a ha).1, by rw [same]; exact begun.clear (near a ha).2.clear⟩) (Nat.le_trans (Nat.add_le_add_right begun.room _) due.room)
  refine ⟨values.trans (List.map_congr_left fun a ha => ?_), (begun.trans rest).mono (by omega)⟩
  have fits : gaddr s a.home a.pa % 128 + a.size ≤ 128 := by
    have := (near a ha).1
    unfold gaddr
    split <;> omega
  rw [same, begun.seenN fits (near a ha).2.clear]

theorem Noted.returns {vd n : Nat} {z : LaneMask} {found : List (Nat × Nat)} (h : Noted t u fid) (r : Returns s t fid vd z n found) :
    Returns s u fid vd z n found := fun i hi l => by
  rw [h.frame.readLane List.not_mem_nil]
  exact r i hi l

/-- A load whose data are not poisoned: its own acquire comes before its reads and is noted at its end (R157). -/
theorem performLoad_clean {accs : List Acc} {b : BufInfo} {kd : LdKind} {vd : Nat} {z : LaneMask} {acq : Option Scope} {val : Acc → Nat}
    (values : (readAccs (acq.elim s (acquireAt s o.core)) (touchLines (acq.elim s (acquireAt s o.core)) o 0) o b.nt accs).1 =
      accs.map fun a => (a, val a, false)) :
    let t := (readAccs (acq.elim s (acquireAt s o.core)) (touchLines (acq.elim s (acquireAt s o.core)) o 0) o b.nt accs).2
    let u := (putRegs t o.fibre vd z (accs.map fun a => (a.lane, loadVal kd (val a))) (ldRegs kd)).endOp o false
    performLoad s o accs b kd vd z acq = acq.elim u (acquireBy u o.fibre) := by
  intro t u
  have run (r : List (Acc × Nat × Bool) × State)
      (hr : r = readAccs (acq.elim s (acquireAt s o.core)) (touchLines (acq.elim s (acquireAt s o.core)) o 0) o b.nt accs) :
      performLoad s o accs b kd vd z acq = if (poisonLanes r.1).1 != 0 then endPoisoned r.2 o (poisonLanes r.1) b else
        let v := (putRegs r.2 o.fibre vd z (r.1.map fun e => (e.1.lane, loadVal kd e.2.1)) (ldRegs kd)).endOp o false
        acq.elim v (acquireBy v o.fibre) := by
    subst hr
    cases acq <;> rfl
  rw [run _ rfl, values, poisonLanes_clean, List.map_map]
  rfl

/-- A due operation whose end leaves what post says gives it. -/
theorem loadDataReturn_gives {regs : List Nat} {post : State → Prop} (due : Due s id o f regs) (ready : linesReady s o = true)
    (ended : Ended s (returned s o) o w) (h : post (returned s o)) : Gives (.loadDataReturn id) s post :=
  ⟨_, loadDataReturn_due due ready ((ended.modes _).trans due.mode.1), h⟩

/-- The end of an operation by its number, as a frame, the operations in flight and the bytes of memory. -/
theorem Ended.ends (h : Ended s t o w) (op : s.op id = some o) : Only s t o.fibre w ∧
    t.ops.map Op.bare = (s.ops.filter fun q => q.id != id).map Op.bare ∧ ∀ x, t.mem.read x = s.mem.read x :=
  ⟨h.frame, op_id op ▸ h.ops, fun x => by rw [h.mem]⟩

theorem load_answers {accs : List Acc} {b : BufInfo} {kd : LdKind} {vd : Nat} {z : LaneMask} {acq : Option Scope}
    (hk : o.kind = .load accs b kd vd z acq) (due : Due s id o f (regRange vd (ldRegs kd)))
    (near : ∀ a ∈ accs, a.pa % 128 + a.size ≤ 128 ∧ Sees s o.core (lineOf (gaddr s a.home a.pa))) :
    Gives (.loadDataReturn id) s fun t =>
      (Only s t o.fibre { v := regRange vd (ldRegs kd), ops := true, mem := true } ∧
        t.ops.map Op.bare = (s.ops.filter fun q => q.id != id).map Op.bare ∧ ∀ x, t.mem.read x = s.mem.read x) ∧
      Returns s t o.fibre vd z (ldRegs kd) (accs.map fun a => (a.lane, loadVal kd (seenN s o.core (gaddr s a.home a.pa) a.size))) := by
  have accs_ : o.kind.memAccs = accs := by rw [hk]; rfl
  have ready : linesReady s o = true := linesReady_returnsData (by rw [hk]; rfl) due.mode.2.1 fun a ha => (near a (accs_ ▸ ha)).2
  have looks0 : Looks s (acq.elim s (acquireAt s o.core)) o.core 0 := by
    cases acq with
    | none => exact .refl _ _
    | some x => exact acquireAt_looks _ _
  obtain ⟨values, looks⟩ := reads_due due b.nt looks0 (accs_ ▸ near)
  rw [accs_] at values looks
  have performed : returned s o = performLoad s o accs b kd vd z acq := by
    unfold returned
    rw [hk]
  have run := performed.trans (performLoad_clean (vd := vd) (z := z) (kd := kd) values)
  have calm := looks.calm
  generalize (readAccs (acq.elim s (acquireAt s o.core)) (touchLines (acq.elim s (acquireAt s o.core)) o 0) o b.nt accs).2 = t at calm run
  obtain ⟨ended, back⟩ := putRegs_ended (w := { v := regRange vd (ldRegs kd), ops := true, mem := true }) z
    (accs.map fun a => (a.lane, loadVal kd (seenN s o.core (gaddr s a.home a.pa) a.size))) due.fibre due.area due.regs calm.kept (fun no => nomatch no)
    calm.mem calm.recording ⟨rfl, rfl⟩ rfl
  generalize (putRegs t o.fibre vd z (accs.map fun a => (a.lane, loadVal kd (seenN s o.core (gaddr s a.home a.pa) a.size))) (ldRegs kd)).endOp o false = u
    at ended back run
  have noted : Noted u (returned s o) o.fibre := by
    rw [run]
    cases acq with
    | none => exact ⟨.refl _ _ _, rfl, rfl, fun _ => rfl⟩
    | some x => exact acquireBy_noted _ _ _
  have last := ended.noted noted ⟨rfl, rfl⟩
  exact loadDataReturn_gives due ready last ⟨last.ends due.op, noted.returns back⟩

/-- A load's value by its kind (R154). -/
theorem loadVal_signed (x : Nat) : loadVal .b8sx x = ((BitVec.ofNat 8 x).signExtend 32).toNat ∧
    loadVal .b16sx x = ((BitVec.ofNat 16 x).signExtend 32).toNat := by
  have ext {n : Nat} (hn : 0 < n) : wrapTo 32 (sgnOf n x) = ((BitVec.ofNat n x).signExtend 32).toNat := by
    have e : (BitVec.ofNat n x).toInt = sgnOf n x := by
      have double : 2 ^ n = 2 * 2 ^ (n - 1) := by rw [← Nat.pow_succ', Nat.succ_eq_add_one, Nat.sub_add_cancel hn]
      unfold sgnOf
      rw [BitVec.toInt_eq_toNat_cond, BitVec.toNat_ofNat]
      by_cases h : x % 2 ^ n < 2 ^ (n - 1)
      · rw [if_pos h, if_pos (by omega)]
      · rw [if_neg h, if_neg (by omega)]
    rw [BitVec.signExtend, e, BitVec.toNat_ofInt]
    rfl
  exact ⟨ext (by omega), ext (by omega)⟩

/-! ### Uniform loads (R112) -/

theorem putS_readS {sd l n : Nat} {d : Bool} {v : DWord} (hf : s.fib fid = some f) (low : sd < 64) :
    ∃ x, (putS s fid sd l n d v).fib fid = some x ∧ x.readS sd = if sd = 0 then 0 else v := by
  unfold putS
  by_cases h : sd = 0
  · rw [if_pos h]
    exact ⟨f, hf, by simp [h, Fibre.readS]⟩
  · rw [if_neg h]
    obtain ⟨y, hy, -⟩ := (logUwrite_kept fid sd l n d v).some hf
    exact ⟨_, modFib_some hy, readS_writeS_self low⟩

theorem uload_answers {a : Acc} {b : BufInfo} {sd : Nat} {div : Bool} (hk : o.kind = .uload a b sd div) (due : Due s id o f [])
    (near : ∀ x ∈ [a], x.pa % 128 + x.size ≤ 128 ∧ Sees s o.core (lineOf (gaddr s x.home x.pa))) (hs : sd < 64) :
    Gives (.loadDataReturn id) s fun t =>
      (Only s t o.fibre { s := [sd], ops := true, mem := true } ∧
        t.ops.map Op.bare = (s.ops.filter fun q => q.id != id).map Op.bare ∧ ∀ x, t.mem.read x = s.mem.read x) ∧
      ∃ x, t.fib o.fibre = some x ∧ x.readS sd = if sd = 0 then 0 else BitVec.ofNat 64 (seenN s o.core (gaddr s a.home a.pa) a.size) := by
  have accs_ : o.kind.memAccs = [a] := by rw [hk]; rfl
  have ready : linesReady s o = true := linesReady_returnsData (by rw [hk]; rfl) due.mode.2.1 fun a ha => (near a (accs_ ▸ ha)).2
  obtain ⟨values, looks⟩ := reads_due due b.nt (.refl s o.core) (accs_ ▸ near)
  rw [accs_] at values looks
  have calm := looks.calm
  -- The one access, as a list of one.
  have one : readAccs s (touchLines s o 0) o b.nt [a] = ([(a, (readAcc s (touchLines s o 0) o a b.nt).1, (readAcc s (touchLines s o 0) o a b.nt).2.1)],
    (readAcc s (touchLines s o 0) o a b.nt).2.2) := rfl
  rw [one] at values calm
  obtain ⟨value, clean⟩ := Prod.mk.inj (Prod.mk.inj (List.cons.inj values).1).2
  have run : returned s o = (putS (readAcc s (touchLines s o 0) o a b.nt).2.2 o.fibre sd (lowLane o.lanes).val o.ric.toNat div
      (BitVec.ofNat 64 (seenN s o.core (gaddr s a.home a.pa) a.size))).endOp o false := by
    unfold returned
    rw [hk]
    dsimp only
    unfold performUload
    simp only [value, clean, Bool.false_eq_true, if_false]
  have ended : Ended s (returned s o) o { s := [sd], ops := true, mem := true } := by
    rw [run]
    exact .of_put calm.kept (fun no => nomatch no) calm.mem calm.recording
      (fun v e _ no => putS_only _ _ _ _ _ _ _ (by rw [e]; exact List.mem_singleton_self _) no) (putS_sameMem _ _ _ _ _ _) ⟨rfl, rfl⟩
  refine loadDataReturn_gives due ready ended ⟨ended.ends due.op, ?_⟩
  rw [run, endOp_done]
  exact putS_readS ((calm.fib _).trans due.fibre) hs

/-! ### Scratchpad loads (R159) -/

/-- Where nothing is logged or replayed, a request to a scratchpad line advances its epoch state alone. -/
theorem scratchAccess_plain {ric ln kind : Nat} (rec_ : s.recording (s.partOf fid) = false) (rep : s.replaying (s.partOf fid) = false) :
    ∃ g : Core → Core, (∀ x, (g x).pads = x.pads ∧ (g x).l1 = x.l1) ∧ scratchAccess s fid ric ln kind = s.modCore (coreOf fid) g := by
  refine ⟨fun x => { x with sep := x.sep.set ln (epNext ((s.core (coreOf fid)).sep.getD ln EpLine.init) s.fabric.device fid kind).1 },
    fun _ => ⟨rfl, rfl⟩, ?_⟩
  unfold scratchAccess
  simp only [rec_, rep, Bool.false_and, Bool.or_false, Bool.false_eq_true, if_false]
  split
  · rfl
  · rfl

/-- The scratchpad lines of a load advance their epoch states. -/
theorem touchScratch_calm {kind : Nat} (mode : PlainMode s (s.partOf o.fibre)) : Calm s (touchScratch s o kind) ∧ SameMem s (touchScratch s o kind) := by
  unfold touchScratch
  generalize ldsLines o.kind.ldsAccs = lines
  induction lines generalizing s with
  | nil => exact ⟨.refl s, .refl s⟩
  | cons ln r ih =>
    obtain ⟨g, keep, e⟩ := scratchAccess_plain (ric := o.ric.toNat) (ln := ln) (kind := kind) mode.1 mode.2.1
    have calm : Calm s (s.modCore (coreOf o.fibre) g) := .core fun x => (keep x).1
    have same : SameMem s (s.modCore (coreOf o.fibre) g) := .core fun x => (keep x).2
    obtain ⟨calm', same'⟩ := ih (calm.plainOf mode)
    rw [List.foldl_cons, e]
    exact ⟨calm.trans calm', same.trans same'⟩

theorem padRead_plain {a n : Nat} (rep : s.replaying (s.partOf o.fibre) = false) : padRead s o a n = (s.core o.core).scratch.readN a n := by
  unfold padRead ldsZero
  rw [rep]
  rfl

theorem lds_answers {accs : List Acc} {vd n : Nat} {z : LaneMask} (hk : o.kind = .lds accs vd z) (hn : n = 1 ∨ n = 2) (some_ : accs ≠ [])
    (size : ∀ a ∈ accs, a.size = 4 * n) (due : Due s id o f (regRange vd n)) :
    Gives (.loadDataReturn id) s fun t =>
      (Only s t o.fibre { v := regRange vd n, ops := true } ∧
        t.ops.map Op.bare = (s.ops.filter fun q => q.id != id).map Op.bare ∧ ∀ x, t.mem.read x = s.mem.read x) ∧
      Returns s t o.fibre vd z n (accs.map fun a => (a.lane, (s.core o.core).scratch.readN a.pa a.size)) := by
  have ready : linesReady s o = true :=
    linesReady_returnsData (k := o.core) (by rw [hk]; rfl) due.mode.2.1 fun a ha => absurd ha (by rw [hk]; exact List.not_mem_nil)
  have width : (if (accs.headD ⟨0, 0, 0, 0, 0, 4, 0, 0⟩).size = 8 then 2 else 1) = n := by
    obtain ⟨a, r, rfl⟩ := List.exists_cons_of_ne_nil some_
    rw [List.headD_cons, size a List.mem_cons_self]
    rcases hn with rfl | rfl <;> rfl
  obtain ⟨touched, same⟩ := touchScratch_calm (kind := 0) due.mode
  have calm := touched.trans (.count o.core none 0x0C (bankClocks accs))
  have run : returned s o = (putRegs ((touchScratch s o 0).pmCount o.core none 0x0C (bankClocks accs)) o.fibre vd z
      (accs.map fun a => (a.lane, (s.core o.core).scratch.readN a.pa a.size)) n).endOp o false := by
    unfold returned
    rw [hk]
    dsimp only
    unfold performLds
    simp only [width, padRead_plain due.mode.2.1]
  obtain ⟨ended, back⟩ := putRegs_ended (w := { v := regRange vd n, ops := true }) z
    (accs.map fun a => (a.lane, (s.core o.core).scratch.readN a.pa a.size)) due.fibre due.area due.regs calm.kept
    (fun _ => same.trans (pmCount_sameMem _ _ _ _)) calm.mem calm.recording ⟨rfl, rfl⟩ rfl
  rw [← run] at ended back
  exact loadDataReturn_gives due ready ended ⟨ended.ends due.op, back⟩

/-! ### Class B results (R66, R73, R124) -/

section ClassB
variable {leader ric : Nat} {div : Bool}

theorem applyWrite_sameMem (x : RegWrite) : SameMem s (applyWrite fid leader ric div s x) := by
  cases x with
  | v r mask vals =>
    unfold applyWrite
    dsimp only
    split
    · exact .refl s
    · exact writeReg_sameMem _ _ _
  | s r val => exact putS_sameMem _ _ _ _ _ _

theorem applyWrite_only (x : RegWrite) (hv : ∀ r ∈ x.vregs, r ∈ w.v) (hs : ∀ r ∈ x.sregs, r ∈ w.s) (hw : w.teams = false) :
    Only s (applyWrite fid leader ric div s x) fid w := by
  cases x with
  | v r mask vals =>
    unfold applyWrite
    dsimp only
    split
    · exact .refl s _ _
    · exact writeReg_only _ _ _ _ (hv r (List.mem_singleton_self r))
  | s r val => exact putS_only _ _ _ _ _ _ _ (hs r (List.mem_singleton_self r)) hw

theorem applyWrites_sameMem (ws : List RegWrite) : SameMem s (ws.foldl (applyWrite fid leader ric div) s) := by
  induction ws generalizing s with
  | nil => exact .refl s
  | cons x ws ih => exact (applyWrite_sameMem x).trans ih

theorem applyWrites_only (ws : List RegWrite) (hv : ∀ r ∈ ws.flatMap RegWrite.vregs, r ∈ w.v) (hs : ∀ r ∈ ws.flatMap RegWrite.sregs, r ∈ w.s)
    (hw : w.teams = false) : Only s (ws.foldl (applyWrite fid leader ric div) s) fid w := by
  induction ws generalizing s with
  | nil => exact .refl s _ _
  | cons x ws ih =>
    rw [List.flatMap_cons] at hv hs
    exact (applyWrite_only x (fun r h => hv r (List.mem_append_left _ h)) (fun r h => hs r (List.mem_append_left _ h)) hw).andThen
      (fun _ => applyWrite_sameMem x) (ih (fun r h => hv r (List.mem_append_right _ h)) fun r h => hs r (List.mem_append_right _ h)) hw

/-- A list of writes around one of them, no other of which names a register that it names. -/
theorem split_at_write {ws : List RegWrite} {x : RegWrite} {regs : RegWrite → List Nat} {r : Nat} (hx : x ∈ ws) (hr : regs x = [r])
    (nodup : (ws.flatMap regs).Nodup) : ∃ l m, ws = l ++ x :: m ∧ r ∉ l.flatMap regs ∧ r ∉ m.flatMap regs := by
  obtain ⟨l, m, rfl⟩ := List.append_of_mem hx
  rw [List.flatMap_append, List.flatMap_cons, hr] at nodup
  refine ⟨l, m, rfl, fun h => ?_, fun h => ?_⟩
  · exact (List.nodup_append.1 nodup).2.2 r h r (List.mem_append_left _ (List.mem_singleton_self r)) rfl
  · exact (List.nodup_append.1 (List.nodup_append.1 nodup).2.1).2.2 r (List.mem_singleton_self r) r h rfl

theorem applyWrite_lane {r : Nat} {mask : LaneMask} {vals : Lanes Word} (hf : s.fib fid = some f) (area : f.region < 4) (has : f.hasReg r = true)
    (l : Fin 32) : readLane (applyWrite fid leader ric div s (.v r mask vals)) fid r l = if inMask mask l then vals[l] else readLane s fid r l := by
  unfold applyWrite
  dsimp only
  split
  · next none_ => rw [none_, inMask_zero]; rfl
  · unfold readLane
    rw [readReg_writeReg_self hf area has]
    exact Vector.getElem_ofFn _

/-- A vector register after a list of writes that name it once. -/
theorem applyWrites_lane {ws : List RegWrite} {r : Nat} {mask : LaneMask} {vals : Lanes Word} (hf : s.fib fid = some f) (area : f.region < 4)
    (has : f.hasReg r = true) (hx : RegWrite.v r mask vals ∈ ws) (nodup : (ws.flatMap RegWrite.vregs).Nodup) (l : Fin 32) :
    readLane (ws.foldl (applyWrite fid leader ric div) s) fid r l = if inMask mask l then vals[l] else readLane s fid r l := by
  obtain ⟨before, after, rfl, free, free'⟩ := split_at_write hx rfl nodup
  have frame (ws : List RegWrite) (s : State) : Only s (ws.foldl (applyWrite fid leader ric div) s) fid
      { v := ws.flatMap RegWrite.vregs, s := ws.flatMap RegWrite.sregs } := applyWrites_only ws (fun _ h => h) (fun _ h => h) rfl
  obtain ⟨y, hy, region, own⟩ := (frame before s).hasReg (r := r) hf
  rw [List.foldl_append, List.foldl_cons, (frame after _).readLane free', applyWrite_lane hy (region ▸ area) (own.trans has),
    (frame before s).readLane free]

/-- A uniform register after a list of writes that name it once. -/
theorem applyWrites_readS {ws : List RegWrite} {r : Nat} {val : DWord} (hf : s.fib fid = some f) (low : r < 64) (hx : RegWrite.s r val ∈ ws)
    (nodup : (ws.flatMap RegWrite.sregs).Nodup) :
    ∃ x, (ws.foldl (applyWrite fid leader ric div) s).fib fid = some x ∧ x.readS r = if r = 0 then 0 else val := by
  obtain ⟨before, after, rfl, -, free⟩ := split_at_write hx rfl nodup
  have frame (ws : List RegWrite) (s : State) : Only s (ws.foldl (applyWrite fid leader ric div) s) fid
      { v := ws.flatMap RegWrite.vregs, s := ws.flatMap RegWrite.sregs } := applyWrites_only ws (fun _ h => h) (fun _ h => h) rfl
  obtain ⟨y, hy, -⟩ := (frame before s).fibre hf
  obtain ⟨x, hx, value⟩ := putS_readS (l := leader) (n := ric) (d := div) (v := val) hy low
  rw [List.foldl_append, List.foldl_cons]
  have keeps := (frame after (applyWrite fid leader ric div (before.foldl (applyWrite fid leader ric div) s) (.s r val))).unif fid r
    (fun h => free h.2) List.not_mem_nil
  rw [show (applyWrite fid leader ric div (before.foldl (applyWrite fid leader ric div) s) (.s r val)).fib fid = some x from hx] at keeps
  obtain ⟨z, hz, e⟩ := Option.map_eq_some_iff.1 keeps
  exact ⟨z, hz, e.trans value⟩

end ClassB

/-- What the writes of a class B operation leave, its flags raised before. -/
theorem accrue_applyWrites {ws : List RegWrite} (fl : Word) {leader ric : Nat} {div : Bool} (hf : s.fib fid = some f) (area : f.region < 4)
    (vs : (ws.flatMap RegWrite.vregs).Nodup) (ss : (ws.flatMap RegWrite.sregs).Nodup) :
    let t := ws.foldl (applyWrite fid leader ric div) (accrue s fid fl)
    SameMem s t ∧ t.ops = s.ops ∧
      Only s t fid { v := ws.flatMap RegWrite.vregs, s := ws.flatMap RegWrite.sregs, fpstat := true, ops := true } ∧
      (∃ x, t.fib fid = some x ∧ x.fpstat = f.fpstat ||| fl) ∧
      (∀ r mask vals, RegWrite.v r mask vals ∈ ws → f.hasReg r = true →
        ∀ l : Fin 32, readLane t fid r l = if inMask mask l then vals[l] else readLane s fid r l) ∧
      ∀ r val, RegWrite.s r val ∈ ws → r < 64 → ∃ x, t.fib fid = some x ∧ x.readS r = if r = 0 then 0 else val := by
  intro t
  have raised : (accrue s fid fl).fib fid = some { f with fpstat := f.fpstat ||| fl } := modFib_some hf
  have frame {fp ops : Bool} : Only (accrue s fid fl) t fid
      { v := ws.flatMap RegWrite.vregs, s := ws.flatMap RegWrite.sregs, fpstat := fp, ops := ops } :=
    applyWrites_only ws (fun _ h => h) (fun _ h => h) rfl
  have flags := (frame (fp := false) (ops := false)).fpstat fid fun h => nomatch h.2
  rw [raised] at flags
  exact ⟨(accrue_sameMem _ _).trans (applyWrites_sameMem ws), ((frame (fp := true) (ops := false)).ops rfl).2 rfl,
    (accrue_only _ _ _ rfl).andThen (fun _ => accrue_sameMem _ _) frame rfl, Option.map_eq_some_iff.1 flags,
    fun r mask vals hx has l => (applyWrites_lane raised area has hx vs l).trans (by rw [readLane_accrue]),
    fun r val hx low => applyWrites_readS raised low hx ss⟩

theorem classB_answers {ws : List RegWrite} {fl : Word} {fp div : Bool} (op : s.op id = some o) (hf : s.fib o.fibre = some f) (area : f.region < 4)
    (hk : o.kind = .classB ws fl fp div) (vs : (ws.flatMap RegWrite.vregs).Nodup) (ss : (ws.flatMap RegWrite.sregs).Nodup) :
    Gives (.classBComplete id) s fun t =>
      Only s t o.fibre { v := ws.flatMap RegWrite.vregs, s := ws.flatMap RegWrite.sregs, fpstat := true, ops := true } ∧
      (t.ops = s.ops.filter fun q => q.id != id) ∧ (∃ x, t.fib o.fibre = some x ∧ x.fpstat = f.fpstat ||| fl) ∧
      (∀ r mask vals, RegWrite.v r mask vals ∈ ws → f.hasReg r = true →
        ∀ l : Fin 32, readLane t o.fibre r l = if inMask mask l then vals[l] else readLane s o.fibre r l) ∧
      ∀ r val, RegWrite.s r val ∈ ws → r < 64 → ∃ x, t.fib o.fibre = some x ∧ x.readS r = if r = 0 then 0 else val := by
  obtain ⟨same, ops, frame, flags, lanes, unif⟩ :=
    accrue_applyWrites fl (leader := (lowLane o.lanes).val) (ric := o.ric.toNat) (div := div) hf area vs ss
  have run : exec (.classBComplete id) s =
      .next ((ws.foldl (applyWrite o.fibre (lowLane o.lanes).val o.ric.toNat div) (accrue s o.fibre fl)).endOp o false) := by
    refine congrArg Host.Outcome.next ?_
    rw [op]
    dsimp only
    rw [hk]
  rw [endOp_done, op_id op] at run
  exact ⟨_, run, frame.andThen (fun _ => same) (ops_only _ rfl) rfl, congrArg (List.filter _) ops, flags, lanes, unif⟩

end Sys2Proof.Machine

namespace Sys2Proof.Proofs

open Machine

/-- Settles O41: a load by what its core sees at each access, which its earlier reads leave alone; a class B operation by the one write of each register. -/
theorem resultsReturn : Obligations.ResultsReturn := by
  unfold Obligations.ResultsReturn
  intro s id o f
  refine ⟨fun accs b kd vd z acq hk due near => ?_, fun a b sd div hk due near hs => uload_answers hk due near hs,
    fun accs vd z n hk hn some_ size due => lds_answers hk hn some_ size due,
    fun ws fl fp div op hf area hk vs ss => classB_answers op hf area hk vs ss⟩
  obtain ⟨t, run, ends, back⟩ := load_answers hk due near
  refine ⟨t, run, ends, fun _ _ => ?_⟩
  cases kd with
  | b8sx => simpa only [loadVal_signed] using back
  | b16sx => simpa only [loadVal_signed] using back
  | _ => exact back

end Sys2Proof.Proofs
end

section
/-!
O56: the words of the instructions (R77 to R83, and the tables of the instruction chapters). A word is a constant
of its row plus its operands, each scaled to its place; the decoder reads bits hi:lo of it. The bits of such a sum
are worked out once (`bitsOf_at`, `bitsOf_skip`, `bitsOf_above`), then the rows are read group by group.
-/

namespace Sys2Proof

section
variable {k x y m hi lo : Nat}

/-- Bits hi:lo of a number depend on its bits hi:0 alone. -/
theorem bitsOf_mod (x hi lo : Nat) : bitsOf (x % 2 ^ (hi + 1)) hi lo = bitsOf x hi lo := by
  rcases Nat.le_total lo (hi + 1) with h | h
  · have e : 2 ^ (hi + 1) = 2 ^ lo * 2 ^ (hi + 1 - lo) := by rw [← Nat.pow_add, Nat.add_sub_cancel' h]
    unfold bitsOf
    rw [e, Nat.mod_mul_right_div_self, Nat.mod_mod]
  · unfold bitsOf
    rw [Nat.sub_eq_zero_of_le h, Nat.pow_zero, Nat.mod_one, Nat.mod_one]

theorem bitsOf_congr {x y : Nat} (h : x % 2 ^ (hi + 1) = y % 2 ^ (hi + 1)) : bitsOf x hi lo = bitsOf y hi lo := by
  rw [← bitsOf_mod x, h, bitsOf_mod]

/-- A field that lies above the bits read does not change them. -/
theorem bitsOf_skip (hm : m % 2 ^ (hi + 1) = 0) : bitsOf (k + (x * m + y)) hi lo = bitsOf (k + y) hi lo := by
  refine bitsOf_congr ?_
  rw [Nat.add_left_comm, Nat.add_mod, Nat.mul_mod, hm, Nat.mul_zero, Nat.zero_mod, Nat.zero_add, Nat.mod_mod]

theorem bitsOf_skip_last (hm : m % 2 ^ (hi + 1) = 0) : bitsOf (k + x * m) hi lo = bitsOf k hi lo := bitsOf_skip (y := 0) hm

/-- What lies below the bits read, and carries into none of them, does not change them. -/
theorem bitsOf_above (h : y < 2 ^ lo - k % 2 ^ lo) : bitsOf (k + y) hi lo = bitsOf k hi lo := by
  have hy : y < 2 ^ lo := by omega
  unfold bitsOf
  rw [Nat.add_div_eq_of_add_mod_lt (by rw [Nat.mod_eq_of_lt hy]; omega), Nat.div_eq_of_lt hy, Nat.add_zero]

/-- The bits at which a field stands give the field back, whatever constant stands around it. -/
theorem bitsOf_at (hm : m = 2 ^ lo) (hy : y < 2 ^ lo - k % 2 ^ (hi + 1)) (hx : x < 2 ^ (hi + 1 - lo)) : bitsOf (k + (x * m + y)) hi lo = x := by
  have e : bitsOf (k + (x * m + y)) hi lo = bitsOf (x * m + (k % 2 ^ (hi + 1) + y)) hi lo := by
    rw [Nat.add_left_comm (x * m)]
    exact bitsOf_congr (Nat.mod_add_mod ..).symm
  rw [e, bitsOf, hm, Nat.mul_comm, Nat.mul_add_div (Nat.two_pow_pos lo), Nat.div_eq_of_lt (by omega), Nat.add_zero, Nat.mod_eq_of_lt hx]

theorem bitsOf_at_last (hm : m = 2 ^ lo) (hk : k % 2 ^ (hi + 1) < 2 ^ lo) (hx : x < 2 ^ (hi + 1 - lo)) : bitsOf (k + x * m) hi lo = x :=
  bitsOf_at (y := 0) hm (by omega) hx

theorem bitsOf_at_zero (hk : k % 2 ^ (hi + 1) = 0) (hx : x < 2 ^ (hi + 1)) : bitsOf (k + x) hi 0 = x := by
  simpa using bitsOf_at_last (k := k) (x := x) (hi := hi) (lo := 0) (m := 1) rfl (by omega) hx

/-- The bits of a numeral, where simp can compute them. -/
theorem bitsOf_lit {k : Nat} : bitsOf (no_index (OfNat.ofNat k)) hi lo = OfNat.ofNat k / 2 ^ lo % 2 ^ (hi + 1 - lo) := rfl

/-- The major opcode is that of the constant of the row: the operands stand below it. -/
theorem bitsOf_major (hk : k / 2 ^ 25 = m) (hm : m % 128 = m) (hy : y < 2 ^ 25 - k % 2 ^ 25) : bitsOf (k + y) 31 25 = m := by
  rw [bitsOf_above hy, bitsOf, hk]
  exact hm
end

section
variable {n u v w t p q r : Nat} {a : BitVec u} {b : BitVec v} {c : BitVec w} {d : BitVec t}

/-- The bounds of this section are those of a tail of operand fields under a constant: each field is a bit vector,
scaled to its place, and the bound asks one inequality of numerals. -/
theorem header_add_lt {k y : Nat} (h : y < n - k) : k + y < n := Nat.lt_sub_iff_add_lt'.1 h

theorem field_lt (h : 2 ^ u ≤ n) : a.toNat < n := a.isLt.trans_le h

theorem flag_le_one (x : BitVec 1) : x.toNat ≤ 1 := Nat.le_of_lt_succ x.isLt

theorem field_add_lt {y : Nat} (h : (2 ^ u - 1) * p + y < n) : a.toNat * p + y < n :=
  (Nat.add_le_add_right (Nat.mul_le_mul_right p (Nat.le_sub_one_of_lt a.isLt)) y).trans_lt h

theorem shifted_field_lt (h : (2 ^ u - 1) * p < n) : a.toNat * p < n := field_add_lt (y := 0) h

theorem two_fields_lt (h : (2 ^ u - 1) * p + 2 ^ v ≤ n) : a.toNat * p + b.toNat < n :=
  field_add_lt (Nat.lt_sub_iff_add_lt'.1 (field_lt (by omega)))

theorem two_shifted_fields_lt (h : (2 ^ u - 1) * p + (2 ^ v - 1) * q < n) : a.toNat * p + b.toNat * q < n :=
  field_add_lt (Nat.lt_sub_iff_add_lt'.1 (shifted_field_lt (by omega)))

theorem three_fields_lt (h : (2 ^ u - 1) * p + ((2 ^ v - 1) * q + 2 ^ w) ≤ n) :
    a.toNat * p + (b.toNat * q + c.toNat) < n :=
  field_add_lt (Nat.lt_sub_iff_add_lt'.1 (two_fields_lt (by omega)))

theorem three_shifted_fields_lt (h : (2 ^ u - 1) * p + ((2 ^ v - 1) * q + (2 ^ w - 1) * r) < n) :
    a.toNat * p + (b.toNat * q + c.toNat * r) < n :=
  field_add_lt (Nat.lt_sub_iff_add_lt'.1 (two_shifted_fields_lt (by omega)))

theorem four_fields_lt (h : (2 ^ u - 1) * p + ((2 ^ v - 1) * q + ((2 ^ w - 1) * r + 2 ^ t)) ≤ n) :
    a.toNat * p + (b.toNat * q + (c.toNat * r + d.toNat)) < n :=
  field_add_lt (Nat.lt_sub_iff_add_lt'.1 (three_fields_lt (by omega)))

theorem five_fields_lt {i s : Nat} {e : BitVec i}
    (h : (2 ^ u - 1) * p + ((2 ^ v - 1) * q + ((2 ^ w - 1) * r + ((2 ^ t - 1) * s + 2 ^ i))) ≤ n) :
    a.toNat * p + (b.toNat * q + (c.toNat * r + (d.toNat * s + e.toNat))) < n :=
  field_add_lt (Nat.lt_sub_iff_add_lt'.1 (four_fields_lt (by omega)))

theorem six_fields_lt {i j s s' : Nat} {e : BitVec i} {f : BitVec j}
    (h : (2 ^ u - 1) * p + ((2 ^ v - 1) * q + ((2 ^ w - 1) * r + ((2 ^ t - 1) * s + ((2 ^ i - 1) * s' + 2 ^ j)))) ≤ n) :
    a.toNat * p + (b.toNat * q + (c.toNat * r + (d.toNat * s + (e.toNat * s' + f.toNat)))) < n :=
  field_add_lt (Nat.lt_sub_iff_add_lt'.1 (five_fields_lt (by omega)))

end

/-- The field of a ICond in an instruction word. -/
def ICond.field (c : ICond) : BitVec 4 := .ofNat 4 c.code

theorem ICond.field_spec (c : ICond) : c.code = c.field.toNat ∧ ICond.ofCode? c.field.toNat = some c := by
  cases c <;> exact ⟨rfl, rfl⟩

/-- The field of a FCond in an instruction word. -/
def FCond.field (c : FCond) : BitVec 4 := .ofNat 4 c.code

theorem FCond.field_spec (c : FCond) : c.code = c.field.toNat ∧ FCond.ofCode? c.field.toNat = some c := by
  cases c <;> exact ⟨rfl, rfl⟩

/-- The field of a TCond in an instruction word. -/
def TCond.field (c : TCond) : BitVec 3 := .ofNat 3 c.code

theorem TCond.field_spec (c : TCond) : c.code = c.field.toNat ∧ TCond.ofCode? c.field.toNat = some c := by
  cases c <;> exact ⟨rfl, rfl⟩

/-- The field of a TapFmt in an instruction word. -/
def TapFmt.field (c : TapFmt) : BitVec 3 := .ofNat 3 c.code

theorem TapFmt.field_spec (c : TapFmt) : c.code = c.field.toNat ∧ TapFmt.ofCode? c.field.toNat = some c := by
  cases c <;> exact ⟨rfl, rfl⟩

/-- The field of a QmacFmt in an instruction word. -/
def QmacFmt.field (c : QmacFmt) : BitVec 4 := .ofNat 4 c.code

theorem QmacFmt.field_spec (c : QmacFmt) : c.code = c.field.toNat ∧ QmacFmt.ofCode? c.field.toNat = some c := by
  cases c <;> exact ⟨rfl, rfl⟩

/-- The field of a QaddFmt in an instruction word. -/
def QaddFmt.field (c : QaddFmt) : BitVec 3 := .ofNat 3 c.code

theorem QaddFmt.field_spec (c : QaddFmt) : c.code = c.field.toNat ∧ QaddFmt.ofCode? c.field.toNat = some c := by
  cases c <;> exact ⟨rfl, rfl⟩

/-- The field of a QTarget in an instruction word. -/
def QTarget.field (c : QTarget) : BitVec 4 := .ofNat 4 c.code

theorem QTarget.field_spec (c : QTarget) : c.code = c.field.toNat ∧ QTarget.ofCode? c.field.toNat = some c := by
  cases c <;> exact ⟨rfl, rfl⟩

/-- The field of a CvtFmt in an instruction word. -/
def CvtFmt.field (c : CvtFmt) : BitVec 4 := .ofNat 4 c.code

theorem CvtFmt.field_spec (c : CvtFmt) : c.code = c.field.toNat ∧ CvtFmt.ofCode? c.field.toNat = some c := by
  cases c <;> exact ⟨rfl, rfl⟩

/-- The field of a RedOp in an instruction word. -/
def RedOp.field (c : RedOp) : BitVec 4 := .ofNat 4 c.code

theorem RedOp.field_spec (c : RedOp) : c.code = c.field.toNat ∧ RedOp.ofCode? c.field.toNat = some c := by
  cases c <;> exact ⟨rfl, rfl⟩

/-- The field of a ScanOp in an instruction word. -/
def ScanOp.field (c : ScanOp) : BitVec 4 := .ofNat 4 c.code

theorem ScanOp.field_spec (c : ScanOp) : c.code = c.field.toNat ∧ ScanOp.ofCode? c.field.toNat = some c := by
  cases c <;> exact ⟨rfl, rfl⟩

/-- The field of a LdKind in an instruction word. -/
def LdKind.field (c : LdKind) : BitVec 3 := .ofNat 3 c.code

theorem LdKind.field_spec (c : LdKind) : c.code = c.field.toNat ∧ LdKind.ofCode? c.field.toNat = some c := by
  cases c <;> exact ⟨rfl, rfl⟩

/-- The field of a StKind in an instruction word. -/
def StKind.field (c : StKind) : BitVec 3 := .ofNat 3 c.code

theorem StKind.field_spec (c : StKind) : c.code = c.field.toNat ∧ StKind.ofCode? c.field.toNat = some c := by
  cases c <;> exact ⟨rfl, rfl⟩

/-- The field of a PfLevel in an instruction word. -/
def PfLevel.field (c : PfLevel) : BitVec 4 := .ofNat 4 c.code

theorem PfLevel.field_spec (c : PfLevel) : c.code = c.field.toNat ∧ PfLevel.ofCode? c.field.toNat = some c := by
  cases c <;> exact ⟨rfl, rfl⟩

/-- The field of a Scope in an instruction word. -/
def Scope.field (c : Scope) : BitVec 3 := .ofNat 3 c.code

theorem Scope.field_spec (c : Scope) : c.code = c.field.toNat ∧ Scope.ofCode? c.field.toNat = some c := by
  cases c <;> exact ⟨rfl, rfl⟩

/-- The field of a AaccFmt in an instruction word. -/
def AaccFmt.field (c : AaccFmt) : BitVec 3 := .ofNat 3 c.code

theorem AaccFmt.field_spec (c : AaccFmt) : c.code = c.field.toNat ∧ AaccFmt.ofCode? c.field.toNat = some c := by
  cases c <;> exact ⟨rfl, rfl⟩

/-- The field of a UCond in an instruction word. -/
def UCond.field (c : UCond) : BitVec 3 := .ofNat 3 c.code

theorem UCond.field_spec (c : UCond) : c.code = c.field.toNat ∧ UCond.ofCode? c.field.toNat = some c := by
  cases c <;> exact ⟨rfl, rfl⟩

/-- The field of a RMode in an instruction word. -/
def RMode.field (c : RMode) : BitVec 3 := .ofNat 3 c.code

theorem RMode.field_spec (c : RMode) : c.code = c.field.toNat ∧ RMode.ofCode? c.field.toNat = some c := by
  cases c <;> exact ⟨rfl, rfl⟩

/-- The field of a LKind in an instruction word. -/
def LKind.field (c : LKind) : BitVec 2 := .ofNat 2 c.code

theorem LKind.field_spec (c : LKind) : c.code = c.field.toNat ∧ LKind.ofCode? c.field.toNat = some c := by
  cases c <;> exact ⟨rfl, rfl⟩

/-- A flag stands in the word as a field of one bit. -/
theorem bit_toNat (b : Bool) : b.toNat = (BitVec.ofBool b).toNat ∧ bit1 (BitVec.ofBool b).toNat = b := by
  cases b <;> exact ⟨rfl, rfl⟩

/-- RED and SCAN share a major and the function field: no code of a SCAN is one of RED (R146, R147). -/
theorem ScanOp.not_red (c : ScanOp) : RedOp.ofCode? c.field.toNat = none := by
  cases c <;> rfl

theorem LdKind.ofCode?_seven : LdKind.ofCode? 7 = none := rfl

theorem QmacFmt.ofCode?_five : QmacFmt.ofCode? 5 = none := rfl

theorem QmacFmt.ofCode?_six : QmacFmt.ofCode? 6 = none := rfl

/-- The instruction has one word, and that word decodes to it. -/
def RoundTrips (i : Instr) : Prop := ∃ w, encode i = [w] ∧ decodeWord w = .ok i

theorem RoundTrips.of {i : Instr} {n : Nat} (he : encodeNat? i = some n) (hn : n < 2 ^ 32) (hd : decodeNat n = some i) : RoundTrips i := by
  refine ⟨BitVec.ofNat 32 n, by unfold encode; rw [he], ?_⟩
  unfold decodeWord; rw [BitVec.toNat_ofNat, Nat.mod_eq_of_lt hn, hd]

theorem decodeNat_integer {k y : Nat} (hy : y < 2 ^ 25 - k % 2 ^ 25) :
    (k / 2 ^ 25 = 0 → decodeNat (k + y) = (decIadd (k + y) <|> decIsub (k + y) <|> decImul (k + y) <|> decImulhSg (k + y) <|> decImulhUs (k + y) <|>
      decImad (k + y) <|> decIminSg (k + y) <|> decIminUs (k + y) <|> decImaxSg (k + y) <|> decImaxUs (k + y) <|> decIabs (k + y))) ∧
    (k / 2 ^ 25 = 1 → decodeNat (k + y) = (decAnd (k + y) <|> decOr (k + y) <|> decXor (k + y) <|> decAndn (k + y) <|> decShl (k + y) <|>
      decShr (k + y) <|> decSar (k + y) <|> decRot (k + y) <|> decClz (k + y) <|> decPopc (k + y) <|> decBrev (k + y) <|> decMov (k + y) <|>
      decMovFromUniform (k + y) <|> decMovB64 (k + y))) ∧
    (k / 2 ^ 25 = 2 → decodeNat (k + y) = (decBfeUs (k + y) <|> decBfeSg (k + y) <|> decBfi (k + y))) ∧
    (k / 2 ^ 25 = 3 → decodeNat (k + y) = (decIadd64 (k + y) <|> decIsub64 (k + y) <|> decImul64 (k + y) <|> decShl64 (k + y) <|> decShr64 (k + y) <|>
      decSar64 (k + y))) := by
  and_intros <;> exact fun hk => by rw [decodeNat, bitsOf_major hk rfl hy]; rfl

theorem roundTrips_integer :
    (∀ d a b, RoundTrips (.iadd d a b)) ∧ (∀ d a b, RoundTrips (.isub d a b)) ∧ (∀ d a b, RoundTrips (.imul d a b)) ∧
    (∀ d a b, RoundTrips (.imulhSg d a b)) ∧ (∀ d a b, RoundTrips (.imulhUs d a b)) ∧ (∀ d a b, RoundTrips (.imad d a b)) ∧
    (∀ d a b, RoundTrips (.iminSg d a b)) ∧ (∀ d a b, RoundTrips (.iminUs d a b)) ∧ (∀ d a b, RoundTrips (.imaxSg d a b)) ∧
    (∀ d a b, RoundTrips (.imaxUs d a b)) ∧ (∀ d a, RoundTrips (.iabs d a)) ∧ (∀ d a b, RoundTrips (.and d a b)) ∧ (∀ d a b, RoundTrips (.or d a b)) ∧
    (∀ d a b, RoundTrips (.xor d a b)) ∧ (∀ d a b, RoundTrips (.andn d a b)) ∧ (∀ d a b, RoundTrips (.shl d a b)) ∧
    (∀ d a b, RoundTrips (.shr d a b)) ∧ (∀ d a b, RoundTrips (.sar d a b)) ∧ (∀ d a b, RoundTrips (.rot d a b)) ∧ (∀ d a, RoundTrips (.clz d a)) ∧
    (∀ d a, RoundTrips (.popc d a)) ∧ (∀ d a, RoundTrips (.brev d a)) ∧ (∀ d a, RoundTrips (.mov d a)) ∧ (∀ d sa, RoundTrips (.movFromUniform d sa)) ∧
    (∀ d sa, RoundTrips (.movB64 d sa)) ∧ (∀ d a b, RoundTrips (.bfeUs d a b)) ∧ (∀ d a b, RoundTrips (.bfeSg d a b)) ∧
    (∀ d a b, RoundTrips (.bfi d a b)) ∧ (∀ d a b, RoundTrips (.iadd64 d a b)) ∧ (∀ d a b, RoundTrips (.isub64 d a b)) ∧
    (∀ d a b, RoundTrips (.imul64 d a b)) ∧ (∀ d a b, RoundTrips (.shl64 d a b)) ∧ (∀ d a b, RoundTrips (.shr64 d a b)) ∧
    (∀ d a b, RoundTrips (.sar64 d a b)) := by
  and_intros <;> intros <;> refine .of rfl ?_ ?_
  all_goals
    simp only [Nat.add_assoc, decodeNat_integer, decIadd, decIsub, decImul, decImulhSg, decImulhUs, decImad, decIminSg, decIminUs, decImaxSg,
      decImaxUs, decIabs, decAnd, decOr, decXor, decAndn, decShl, decShr, decSar, decRot, decClz, decPopc, decBrev, decMov, decMovFromUniform,
      decMovB64, decBfeUs, decBfeSg, decBfi, decIadd64, decIsub64, decImul64, decShl64, decShr64, decSar64, header_add_lt, field_lt, shifted_field_lt,
      two_fields_lt, two_shifted_fields_lt, three_fields_lt, bitsOf_skip, bitsOf_skip_last, bitsOf_above, bitsOf_at, bitsOf_at_last, bitsOf_at_zero,
      bitsOf_lit, Nat.reducePow, Nat.reduceMod, Nat.reduceDiv, Nat.reduceSub, Nat.reduceAdd, Nat.reduceMul, Nat.reduceLT, Nat.reduceLeDiff,
      Nat.reduceEqDiff, OfNat.ofNat_ne_zero, ↓reduceIte, BitVec.ofNat_toNat, BitVec.setWidth_eq, Option.orElse_eq_orElse, Option.orElse_eq_or,
      Option.or_none, Option.none_or, false_and, and_self]

theorem decodeNat_immediate {k y : Nat} (hy : y < 2 ^ 25 - k % 2 ^ 25) :
    (k / 2 ^ 25 = 16 → decodeNat (k + y) = decIaddImm (k + y)) ∧
    (k / 2 ^ 25 = 17 → decodeNat (k + y) = decAndImm (k + y)) ∧
    (k / 2 ^ 25 = 18 → decodeNat (k + y) = (decShlImm (k + y) <|> decShrImm (k + y) <|> decSarImm (k + y) <|> decRotImm (k + y) <|>
      decShl64Imm (k + y) <|> decShr64Imm (k + y) <|> decSar64Imm (k + y))) ∧
    (k / 2 ^ 25 = 19 → decodeNat (k + y) = decMovi (k + y)) ∧
    (k / 2 ^ 25 = 56 → decodeNat (k + y) = decLdsB32 (k + y)) ∧
    (k / 2 ^ 25 = 57 → decodeNat (k + y) = decLdsB64 (k + y)) ∧
    (k / 2 ^ 25 = 58 → decodeNat (k + y) = decStsB32 (k + y)) ∧
    (k / 2 ^ 25 = 59 → decodeNat (k + y) = decStsB64 (k + y)) := by
  and_intros <;> exact fun hk => by rw [decodeNat, bitsOf_major hk rfl hy]; rfl

theorem roundTrips_immediate :
    (∀ d a i, RoundTrips (.iaddImm d a i)) ∧ (∀ d a i, RoundTrips (.andImm d a i)) ∧ (∀ d a n, RoundTrips (.shlImm d a n)) ∧
    (∀ d a n, RoundTrips (.shrImm d a n)) ∧ (∀ d a n, RoundTrips (.sarImm d a n)) ∧ (∀ d a n, RoundTrips (.rotImm d a n)) ∧
    (∀ d a n, RoundTrips (.shl64Imm d a n)) ∧ (∀ d a n, RoundTrips (.shr64Imm d a n)) ∧ (∀ d a n, RoundTrips (.sar64Imm d a n)) ∧
    (∀ d i, RoundTrips (.movi d i)) ∧ (∀ d a i, RoundTrips (.ldsB32 d a i)) ∧ (∀ d a i, RoundTrips (.ldsB64 d a i)) ∧
    (∀ d a i, RoundTrips (.stsB32 d a i)) ∧ (∀ d a i, RoundTrips (.stsB64 d a i)) := by
  and_intros <;> intros <;> refine .of rfl ?_ ?_
  all_goals
    simp only [Nat.add_assoc, decodeNat_immediate, decIaddImm, decAndImm, decShlImm, decShrImm, decSarImm, decRotImm, decShl64Imm, decShr64Imm,
      decSar64Imm, decMovi, decLdsB32, decLdsB64, decStsB32, decStsB64, header_add_lt, field_lt, two_fields_lt, three_fields_lt, bitsOf_skip,
      bitsOf_above, bitsOf_at, bitsOf_at_zero, bitsOf_lit, Nat.reducePow, Nat.reduceMod, Nat.reduceDiv, Nat.reduceSub, Nat.reduceAdd, Nat.reduceMul,
      Nat.reduceLeDiff, Nat.reduceEqDiff, OfNat.ofNat_ne_zero, ↓reduceIte, BitVec.ofNat_toNat, BitVec.setWidth_eq, Option.orElse_eq_orElse,
      Option.orElse_eq_or, Option.or_none, Option.none_or]

theorem decodeNat_predicate {k y : Nat} (hy : y < 2 ^ 25 - k % 2 ^ 25) :
    (k / 2 ^ 25 = 20 → decodeNat (k + y) = decIcmp (k + y)) ∧
    (k / 2 ^ 25 = 21 → decodeNat (k + y) = decIcmp64 (k + y)) ∧
    (k / 2 ^ 25 = 22 → decodeNat (k + y) = decSel (k + y)) ∧
    (k / 2 ^ 25 = 23 → decodeNat (k + y) = (decPand (k + y) <|> decPor (k + y) <|> decPxor (k + y) <|> decPnot (k + y) <|> decIdp4Sg (k + y) <|>
      decIdp4Us (k + y) <|> decIdp2Sg (k + y) <|> decIdp2Us (k + y))) := by
  and_intros <;> exact fun hk => by rw [decodeNat, bitsOf_major hk rfl hy]; rfl

theorem roundTrips_predicate :
    (∀ c p a b, RoundTrips (.icmp c p a b)) ∧ (∀ c p a b, RoundTrips (.icmp64 c p a b)) ∧ (∀ n p d a b, RoundTrips (.sel n p d a b)) ∧
    (∀ d a b, RoundTrips (.pand d a b)) ∧ (∀ d a b, RoundTrips (.por d a b)) ∧ (∀ d a b, RoundTrips (.pxor d a b)) ∧ (∀ d a, RoundTrips (.pnot d a)) ∧
    (∀ d a b, RoundTrips (.idp4Sg d a b)) ∧ (∀ d a b, RoundTrips (.idp4Us d a b)) ∧ (∀ d a b, RoundTrips (.idp2Sg d a b)) ∧
    (∀ d a b, RoundTrips (.idp2Us d a b)) := by
  and_intros <;> intros <;> refine .of rfl ?_ ?_
  all_goals
    simp only [Nat.add_assoc, decodeNat_predicate, decIcmp, decIcmp64, decSel, decPand, decPor, decPxor, decPnot, decIdp4Sg, decIdp4Us, decIdp2Sg,
      decIdp2Us, ICond.field_spec, bit_toNat, five_fields_lt, header_add_lt, field_lt, shifted_field_lt, two_fields_lt, two_shifted_fields_lt,
      three_fields_lt, four_fields_lt, bitsOf_skip, bitsOf_skip_last, bitsOf_above, bitsOf_at, bitsOf_at_last, bitsOf_at_zero, bitsOf_lit,
      Nat.reducePow, Nat.reduceMod, Nat.reduceDiv, Nat.reduceSub, Nat.reduceAdd, Nat.reduceMul, Nat.reduceLT, Nat.reduceLeDiff, Nat.reduceEqDiff,
      OfNat.ofNat_ne_zero, ↓reduceIte, BitVec.ofNat_toNat, BitVec.setWidth_eq, Option.orElse_eq_orElse, Option.orElse_eq_or, Option.or_none,
      Option.none_or, Option.bind_some, false_and, and_self]

theorem decodeNat_float {k y : Nat} (hy : y < 2 ^ 25 - k % 2 ^ 25) :
    (k / 2 ^ 25 = 24 → decodeNat (k + y) = (decFaddF32 (k + y) <|> decFsubF32 (k + y) <|> decFmulF32 (k + y) <|> decFfmaF32 (k + y) <|>
      decFminF32 (k + y) <|> decFmaxF32 (k + y))) ∧
    (k / 2 ^ 25 = 25 → decodeNat (k + y) = (decFaddF64 (k + y) <|> decFsubF64 (k + y) <|> decFmulF64 (k + y) <|> decFfmaF64 (k + y) <|>
      decFminF64 (k + y) <|> decFmaxF64 (k + y))) ∧
    (k / 2 ^ 25 = 26 → decodeNat (k + y) = decFcmpF32 (k + y)) ∧
    (k / 2 ^ 25 = 27 → decodeNat (k + y) = decFcmpF64 (k + y)) ∧
    (k / 2 ^ 25 = 28 → decodeNat (k + y) = (decFdivF32 (k + y) <|> decFsqrtF32 (k + y) <|> decFrcpF32 (k + y) <|> decFrsqF32 (k + y))) ∧
    (k / 2 ^ 25 = 29 → decodeNat (k + y) = (decFdivF64 (k + y) <|> decFsqrtF64 (k + y) <|> decFrcpF64 (k + y) <|> decFrsqF64 (k + y))) ∧
    (k / 2 ^ 25 = 40 → decodeNat (k + y) = (decFex2F32 (k + y) <|> decFlg2F32 (k + y) <|> decFsinF32 (k + y) <|> decFcosF32 (k + y))) ∧
    (k / 2 ^ 25 = 41 → decodeNat (k + y) = decCvt (k + y)) ∧
    (k / 2 ^ 25 = 42 → decodeNat (k + y) = decCvtClamp (k + y)) := by
  and_intros <;> exact fun hk => by rw [decodeNat, bitsOf_major hk rfl hy]; rfl

theorem roundTrips_float :
    (∀ d a b, RoundTrips (.faddF32 d a b)) ∧ (∀ d a b, RoundTrips (.fsubF32 d a b)) ∧ (∀ d a b, RoundTrips (.fmulF32 d a b)) ∧
    (∀ d a b, RoundTrips (.ffmaF32 d a b)) ∧ (∀ d a b, RoundTrips (.fminF32 d a b)) ∧ (∀ d a b, RoundTrips (.fmaxF32 d a b)) ∧
    (∀ d a b, RoundTrips (.faddF64 d a b)) ∧ (∀ d a b, RoundTrips (.fsubF64 d a b)) ∧ (∀ d a b, RoundTrips (.fmulF64 d a b)) ∧
    (∀ d a b, RoundTrips (.ffmaF64 d a b)) ∧ (∀ d a b, RoundTrips (.fminF64 d a b)) ∧ (∀ d a b, RoundTrips (.fmaxF64 d a b)) ∧
    (∀ c p a b, RoundTrips (.fcmpF32 c p a b)) ∧ (∀ c p a b, RoundTrips (.fcmpF64 c p a b)) ∧ (∀ d a b, RoundTrips (.fdivF32 d a b)) ∧
    (∀ d a, RoundTrips (.fsqrtF32 d a)) ∧ (∀ d a, RoundTrips (.frcpF32 d a)) ∧ (∀ d a, RoundTrips (.frsqF32 d a)) ∧
    (∀ d a b, RoundTrips (.fdivF64 d a b)) ∧ (∀ d a, RoundTrips (.fsqrtF64 d a)) ∧ (∀ d a, RoundTrips (.frcpF64 d a)) ∧
    (∀ d a, RoundTrips (.frsqF64 d a)) ∧ (∀ d a, RoundTrips (.fex2F32 d a)) ∧ (∀ d a, RoundTrips (.flg2F32 d a)) ∧
    (∀ d a, RoundTrips (.fsinF32 d a)) ∧ (∀ d a, RoundTrips (.fcosF32 d a)) ∧ (∀ t d a f, RoundTrips (.cvt t d a f)) ∧
    (∀ t d a f, RoundTrips (.cvtClamp t d a f)) := by
  and_intros <;> intros <;> refine .of rfl ?_ ?_
  all_goals
    simp only [Nat.add_assoc, decodeNat_float, decFaddF32, decFsubF32, decFmulF32, decFfmaF32, decFminF32, decFmaxF32, decFaddF64, decFsubF64,
      decFmulF64, decFfmaF64, decFminF64, decFmaxF64, decFcmpF32, decFcmpF64, decFdivF32, decFsqrtF32, decFrcpF32, decFrsqF32, decFdivF64,
      decFsqrtF64, decFrcpF64, decFrsqF64, decFex2F32, decFlg2F32, decFsinF32, decFcosF32, decCvt, decCvtClamp, FCond.field_spec, CvtFmt.field_spec,
      header_add_lt, field_lt, shifted_field_lt, two_fields_lt, two_shifted_fields_lt, three_fields_lt, four_fields_lt, bitsOf_skip, bitsOf_skip_last,
      bitsOf_above, bitsOf_at, bitsOf_at_last, bitsOf_at_zero, bitsOf_lit, Nat.reducePow, Nat.reduceMod, Nat.reduceDiv, Nat.reduceSub, Nat.reduceAdd,
      Nat.reduceMul, Nat.reduceLT, Nat.reduceLeDiff, Nat.reduceEqDiff, OfNat.ofNat_ne_zero, ↓reduceIte, BitVec.ofNat_toNat, BitVec.setWidth_eq,
      Option.orElse_eq_orElse, Option.orElse_eq_or, Option.or_none, Option.none_or, Option.bind_some, false_and, and_self]

theorem decodeNat_tapered {k y : Nat} (hy : y < 2 ^ 25 - k % 2 ^ 25) :
    (k / 2 ^ 25 = 32 → decodeNat (k + y) = decTradd (k + y)) ∧
    (k / 2 ^ 25 = 33 → decodeNat (k + y) = decTrsub (k + y)) ∧
    (k / 2 ^ 25 = 34 → decodeNat (k + y) = decTrmul (k + y)) ∧
    (k / 2 ^ 25 = 35 → decodeNat (k + y) = decTrfma (k + y)) ∧
    (k / 2 ^ 25 = 36 → decodeNat (k + y) = (decTrmin (k + y) <|> decTrmax (k + y))) ∧
    (k / 2 ^ 25 = 37 → decodeNat (k + y) = decTrcmp (k + y)) ∧
    (k / 2 ^ 25 = 38 → decodeNat (k + y) = (decTrdec (k + y) <|> decTrenc (k + y))) := by
  and_intros <;> exact fun hk => by rw [decodeNat, bitsOf_major hk rfl hy]; rfl

theorem roundTrips_tapered :
    (∀ f d a b, RoundTrips (.tradd f d a b)) ∧ (∀ f d a b, RoundTrips (.trsub f d a b)) ∧ (∀ f d a b, RoundTrips (.trmul f d a b)) ∧
    (∀ f d a b, RoundTrips (.trfma f d a b)) ∧ (∀ f d a b, RoundTrips (.trmin f d a b)) ∧ (∀ f d a b, RoundTrips (.trmax f d a b)) ∧
    (∀ f c p a b, RoundTrips (.trcmp f c p a b)) ∧ (∀ f d a, RoundTrips (.trdec f d a)) ∧ (∀ f d a, RoundTrips (.trenc f d a)) := by
  and_intros <;> intros <;> refine .of rfl ?_ ?_
  all_goals
    simp only [Nat.add_assoc, decodeNat_tapered, decTradd, decTrsub, decTrmul, decTrfma, decTrmin, decTrmax, decTrcmp, decTrdec, decTrenc,
      TapFmt.field_spec, TCond.field_spec, five_fields_lt, header_add_lt, field_lt, shifted_field_lt, two_fields_lt, two_shifted_fields_lt,
      three_fields_lt, three_shifted_fields_lt, four_fields_lt, bitsOf_skip, bitsOf_skip_last, bitsOf_above, bitsOf_at, bitsOf_at_last,
      bitsOf_at_zero, bitsOf_lit, Nat.reducePow, Nat.reduceMod, Nat.reduceDiv, Nat.reduceSub, Nat.reduceAdd, Nat.reduceMul, Nat.reduceLT,
      Nat.reduceLeDiff, Nat.reduceEqDiff, ↓reduceIte, BitVec.ofNat_toNat, BitVec.setWidth_eq, Option.orElse_eq_orElse, Option.orElse_eq_or,
      Option.or_none, Option.none_or, Option.bind_some, false_and, and_self]

theorem decodeNat_quire {k y : Nat} (hy : y < 2 ^ 25 - k % 2 ^ 25) :
    (k / 2 ^ 25 = 39 → decodeNat (k + y) = (decQmac (k + y) <|> decQclr (k + y) <|> decQround (k + y) <|> decQadd (k + y))) := by
  exact fun hk => by rw [decodeNat, bitsOf_major hk rfl hy]; rfl

theorem roundTrips_quire :
    (∀ f q a b, RoundTrips (.qmac f q a b)) ∧ (∀ q, RoundTrips (.qclr q)) ∧ (∀ d q t, RoundTrips (.qround d q t)) := by
  and_intros <;> intros <;> refine .of rfl ?_ ?_
  all_goals
    simp only [Nat.add_assoc, decodeNat_quire, decQmac, decQclr, decQround, decQadd, QmacFmt.field_spec, QTarget.field_spec, QmacFmt.ofCode?_five,
      QmacFmt.ofCode?_six, header_add_lt, field_lt, shifted_field_lt, two_fields_lt, three_fields_lt, four_fields_lt, bitsOf_skip, bitsOf_skip_last,
      bitsOf_above, bitsOf_at, bitsOf_at_last, bitsOf_at_zero, bitsOf_lit, Nat.reducePow, Nat.reduceMod, Nat.reduceDiv, Nat.reduceSub, Nat.reduceAdd,
      Nat.reduceMul, Nat.reduceLT, Nat.reduceLeDiff, Nat.reduceEqDiff, ↓reduceIte, ite_self, BitVec.ofNat_toNat, BitVec.setWidth_eq,
      Option.orElse_eq_orElse, Option.orElse_eq_or, Option.or_none, Option.none_or, Option.some_or, Option.bind_some, Option.bind_none, false_and,
      and_self]

theorem decodeNat_crossLane {k y : Nat} (hy : y < 2 ^ 25 - k % 2 ^ 25) :
    (k / 2 ^ 25 = 44 → decodeNat (k + y) = (decShflIdx (k + y) <|> decShflUp (k + y) <|> decShflDown (k + y) <|> decShflXor (k + y))) ∧
    (k / 2 ^ 25 = 45 → decodeNat (k + y) = (decVoteAny (k + y) <|> decVoteAll (k + y) <|> decVoteBallot (k + y) <|> decVoteEq (k + y))) ∧
    (k / 2 ^ 25 = 46 → decodeNat (k + y) = (decMatchB32 (k + y) <|> decMatchB64 (k + y))) ∧
    (k / 2 ^ 25 = 47 → decodeNat (k + y) = (decRed (k + y) <|> decScan (k + y))) := by
  and_intros <;> exact fun hk => by rw [decodeNat, bitsOf_major hk rfl hy]; rfl

theorem roundTrips_crossLane :
    (∀ w d a b, RoundTrips (.shflIdx w d a b)) ∧ (∀ w d a b, RoundTrips (.shflUp w d a b)) ∧ (∀ w d a b, RoundTrips (.shflDown w d a b)) ∧
    (∀ w d a b, RoundTrips (.shflXor w d a b)) ∧ (∀ d a, RoundTrips (.voteAny d a)) ∧ (∀ d a, RoundTrips (.voteAll d a)) ∧
    (∀ d a, RoundTrips (.voteBallot d a)) ∧ (∀ d a, RoundTrips (.voteEq d a)) ∧ (∀ d a, RoundTrips (.matchB32 d a)) ∧
    (∀ d a, RoundTrips (.matchB64 d a)) ∧ (∀ f sd a, RoundTrips (.red f sd a)) ∧ (∀ f d a sd, RoundTrips (.scan f d a sd)) := by
  and_intros <;> intros <;> refine .of rfl ?_ ?_
  all_goals
    simp only [Nat.add_assoc, decodeNat_crossLane, decShflIdx, decShflUp, decShflDown, decShflXor, decVoteAny, decVoteAll, decVoteBallot, decVoteEq,
      decMatchB32, decMatchB64, decRed, decScan, bit_toNat, RedOp.field_spec, ScanOp.field_spec, ScanOp.not_red, header_add_lt, field_lt,
      shifted_field_lt, two_fields_lt, two_shifted_fields_lt, three_fields_lt, three_shifted_fields_lt, four_fields_lt, bitsOf_skip, bitsOf_skip_last,
      bitsOf_above, bitsOf_at, bitsOf_at_last, bitsOf_at_zero, bitsOf_lit, Nat.reducePow, Nat.reduceMod, Nat.reduceDiv, Nat.reduceSub, Nat.reduceAdd,
      Nat.reduceMul, Nat.reduceLT, Nat.reduceLeDiff, Nat.reduceEqDiff, OfNat.ofNat_ne_zero, ↓reduceIte, ite_self, BitVec.ofNat_toNat,
      BitVec.setWidth_eq, Option.orElse_eq_orElse, Option.orElse_eq_or, Option.or_none, Option.none_or, Option.some_or, Option.bind_some,
      Option.bind_none, false_and, and_false, and_self]

theorem decodeNat_memory {k y : Nat} (hy : y < 2 ^ 25 - k % 2 ^ 25) :
    (k / 2 ^ 25 = 48 → decodeNat (k + y) = decLdB32 (k + y)) ∧
    (k / 2 ^ 25 = 49 → decodeNat (k + y) = decLdB64 (k + y)) ∧
    (k / 2 ^ 25 = 50 → decodeNat (k + y) = decLdB128 (k + y)) ∧
    (k / 2 ^ 25 = 51 → decodeNat (k + y) = decStB32 (k + y)) ∧
    (k / 2 ^ 25 = 52 → decodeNat (k + y) = decStB64 (k + y)) ∧
    (k / 2 ^ 25 = 53 → decodeNat (k + y) = decStB128 (k + y)) ∧
    (k / 2 ^ 25 = 54 → decodeNat (k + y) = (decLdExtended (k + y) <|> decPf (k + y))) ∧
    (k / 2 ^ 25 = 55 → decodeNat (k + y) = decStExtended (k + y)) := by
  and_intros <;> exact fun hk => by rw [decodeNat, bitsOf_major hk rfl hy]; rfl

theorem roundTrips_memory :
    (∀ d a b i, RoundTrips (.ldB32 d a b i)) ∧ (∀ d a b i, RoundTrips (.ldB64 d a b i)) ∧ (∀ d a b i, RoundTrips (.ldB128 d a b i)) ∧
    (∀ d a b i, RoundTrips (.stB32 d a b i)) ∧ (∀ d a b i, RoundTrips (.stB64 d a b i)) ∧ (∀ d a b i, RoundTrips (.stB128 d a b i)) ∧
    (∀ d a b wc o c, RoundTrips (.ldExtended d a b wc o c)) ∧ (∀ a b l, RoundTrips (.pf a b l)) ∧
    (∀ d a b wc o c, RoundTrips (.stExtended d a b wc o c)) := by
  and_intros <;> intros <;> refine .of rfl ?_ ?_
  all_goals
    simp only [Nat.add_assoc, decodeNat_memory, decLdB32, decLdB64, decLdB128, decStB32, decStB64, decStB128, decLdExtended, decPf, decStExtended,
      LdKind.field_spec, bit_toNat, Scope.field_spec, PfLevel.field_spec, StKind.field_spec, LdKind.ofCode?_seven, five_fields_lt, six_fields_lt,
      header_add_lt, field_lt, two_fields_lt, three_fields_lt, four_fields_lt, bitsOf_skip, bitsOf_above, bitsOf_at, bitsOf_at_zero, bitsOf_lit,
      Nat.reducePow, Nat.reduceMod, Nat.reduceDiv, Nat.reduceSub, Nat.reduceAdd, Nat.reduceMul, Nat.reduceLeDiff, ↓reduceIte, BitVec.ofNat_toNat,
      BitVec.setWidth_eq, Option.orElse_eq_orElse, Option.orElse_eq_or, Option.none_or, Option.some_or, Option.bind_some, Option.bind_none, and_self]

theorem decodeNat_atomic {k y : Nat} (hy : y < 2 ^ 25 - k % 2 ^ 25) :
    (k / 2 ^ 25 = 60 → decodeNat (k + y) = (decAtomAddB32 (k + y) <|> decAtomMinSgB32 (k + y) <|> decAtomMinUsB32 (k + y) <|>
      decAtomMaxSgB32 (k + y) <|> decAtomMaxUsB32 (k + y) <|> decAtomAndB32 (k + y) <|> decAtomOrB32 (k + y) <|> decAtomXorB32 (k + y) <|>
      decAtomXchgB32 (k + y) <|> decAtomCasB32 (k + y))) ∧
    (k / 2 ^ 25 = 61 → decodeNat (k + y) = (decAtomAddB64 (k + y) <|> decAtomMinSgB64 (k + y) <|> decAtomMinUsB64 (k + y) <|>
      decAtomMaxSgB64 (k + y) <|> decAtomMaxUsB64 (k + y) <|> decAtomAndB64 (k + y) <|> decAtomOrB64 (k + y) <|> decAtomXorB64 (k + y) <|>
      decAtomXchgB64 (k + y) <|> decAtomCasB64 (k + y) <|> decAcasB128 (k + y) <|> decAacc (k + y) <|> decArsv (k + y))) := by
  and_intros <;> exact fun hk => by rw [decodeNat, bitsOf_major hk rfl hy]; rfl

theorem roundTrips_atomic :
    (∀ d a b sc, RoundTrips (.atomAddB32 d a b sc)) ∧ (∀ d a b sc, RoundTrips (.atomMinSgB32 d a b sc)) ∧
    (∀ d a b sc, RoundTrips (.atomMinUsB32 d a b sc)) ∧ (∀ d a b sc, RoundTrips (.atomMaxSgB32 d a b sc)) ∧
    (∀ d a b sc, RoundTrips (.atomMaxUsB32 d a b sc)) ∧ (∀ d a b sc, RoundTrips (.atomAndB32 d a b sc)) ∧
    (∀ d a b sc, RoundTrips (.atomOrB32 d a b sc)) ∧ (∀ d a b sc, RoundTrips (.atomXorB32 d a b sc)) ∧
    (∀ d a b sc, RoundTrips (.atomXchgB32 d a b sc)) ∧ (∀ d a b sc, RoundTrips (.atomCasB32 d a b sc)) ∧
    (∀ d a b sc, RoundTrips (.atomAddB64 d a b sc)) ∧ (∀ d a b sc, RoundTrips (.atomMinSgB64 d a b sc)) ∧
    (∀ d a b sc, RoundTrips (.atomMinUsB64 d a b sc)) ∧ (∀ d a b sc, RoundTrips (.atomMaxSgB64 d a b sc)) ∧
    (∀ d a b sc, RoundTrips (.atomMaxUsB64 d a b sc)) ∧ (∀ d a b sc, RoundTrips (.atomAndB64 d a b sc)) ∧
    (∀ d a b sc, RoundTrips (.atomOrB64 d a b sc)) ∧ (∀ d a b sc, RoundTrips (.atomXorB64 d a b sc)) ∧
    (∀ d a b sc, RoundTrips (.atomXchgB64 d a b sc)) ∧ (∀ d a b sc, RoundTrips (.atomCasB64 d a b sc)) ∧
    (∀ d a b sc, RoundTrips (.acasB128 d a b sc)) ∧ (∀ d a b f, RoundTrips (.aacc d a b f)) ∧ (∀ d b, RoundTrips (.arsv d b)) := by
  and_intros <;> intros <;> refine .of rfl ?_ ?_
  all_goals
    simp only [Nat.add_assoc, decodeNat_atomic, decAtomAddB32, decAtomMinSgB32, decAtomMinUsB32, decAtomMaxSgB32, decAtomMaxUsB32, decAtomAndB32,
      decAtomOrB32, decAtomXorB32, decAtomXchgB32, decAtomCasB32, decAtomAddB64, decAtomMinSgB64, decAtomMinUsB64, decAtomMaxSgB64, decAtomMaxUsB64,
      decAtomAndB64, decAtomOrB64, decAtomXorB64, decAtomXchgB64, decAtomCasB64, decAcasB128, decAacc, decArsv, Scope.field_spec, AaccFmt.field_spec,
      header_add_lt, field_lt, shifted_field_lt, two_fields_lt, two_shifted_fields_lt, three_fields_lt, four_fields_lt, bitsOf_skip, bitsOf_skip_last,
      bitsOf_above, bitsOf_at, bitsOf_at_last, bitsOf_at_zero, bitsOf_lit, Nat.reducePow, Nat.reduceMod, Nat.reduceDiv, Nat.reduceSub, Nat.reduceAdd,
      Nat.reduceMul, Nat.reduceLT, Nat.reduceLeDiff, Nat.reduceEqDiff, OfNat.ofNat_ne_zero, ↓reduceIte, BitVec.ofNat_toNat, BitVec.setWidth_eq,
      Option.orElse_eq_orElse, Option.orElse_eq_or, Option.or_none, Option.none_or, Option.some_or, Option.bind_some, and_self]

theorem decodeNat_control {k y : Nat} (hy : y < 2 ^ 25 - k % 2 ^ 25) :
    (k / 2 ^ 25 = 62 → decodeNat (k + y) = (decBra (k + y) <|> decCall (k + y) <|> decCallr (k + y) <|> decRet (k + y) <|> decJmpr (k + y) <|>
      decExit (k + y) <|> decYield (k + y) <|> decTrap (k + y) <|> decBkpt (k + y) <|> decNop (k + y))) ∧
    (k / 2 ^ 25 = 63 → decodeNat (k + y) = (decXPrefix (k + y) <|> decWPrefix (k + y))) := by
  and_intros <;> exact fun hk => by rw [decodeNat, bitsOf_major hk rfl hy]; rfl

theorem roundTrips_control :
    (∀ p n o, RoundTrips (.bra p n o)) ∧ (∀ p n o, RoundTrips (.call p n o)) ∧ (∀ p n a, RoundTrips (.callr p n a)) ∧ (∀ p n, RoundTrips (.ret p n)) ∧
    (∀ p n a, RoundTrips (.jmpr p n a)) ∧ (∀ p n, RoundTrips (.exit p n)) ∧ (∀ p n c, RoundTrips (.trap p n c)) ∧
    (∀ p n c, RoundTrips (.bkpt p n c)) ∧ (∀ sw p, RoundTrips (.wPrefix sw p)) := by
  and_intros <;> intros <;> refine .of rfl ?_ ?_
  all_goals
    simp only [Nat.add_assoc, decodeNat_control, decBra, decCall, decCallr, decRet, decJmpr, decExit, decYield, decTrap, decBkpt, decNop, decXPrefix,
      decWPrefix, bit_toNat, header_add_lt, field_lt, shifted_field_lt, two_fields_lt, two_shifted_fields_lt, three_fields_lt, bitsOf_skip,
      bitsOf_skip_last, bitsOf_above, bitsOf_at, bitsOf_at_last, bitsOf_at_zero, bitsOf_lit, Nat.reducePow, Nat.reduceMod, Nat.reduceDiv,
      Nat.reduceSub, Nat.reduceAdd, Nat.reduceMul, Nat.reduceLT, Nat.reduceLeDiff, Nat.reduceEqDiff, OfNat.ofNat_ne_zero, ↓reduceIte,
      BitVec.ofNat_toNat, BitVec.setWidth_eq, Option.orElse_eq_orElse, Option.orElse_eq_or, Option.or_none, Option.none_or, false_and, and_self]

theorem decodeNat_uniform {k y : Nat} (hy : y < 2 ^ 25 - k % 2 ^ 25) :
    (k / 2 ^ 25 = 64 → decodeNat (k + y) = (decUadd (k + y) <|> decUsub (k + y) <|> decUmul (k + y) <|> decUand (k + y) <|> decUor (k + y) <|>
      decUxor (k + y) <|> decUshl (k + y) <|> decUshr (k + y) <|> decUsar (k + y) <|> decUminSg (k + y) <|> decUminUs (k + y) <|>
      decUmaxSg (k + y) <|> decUmaxUs (k + y) <|> decUmov (k + y) <|> decUsel (k + y) <|> decUcmp (k + y))) ∧
    (k / 2 ^ 25 = 80 → decodeNat (k + y) = decUaddImm (k + y)) ∧
    (k / 2 ^ 25 = 81 → decodeNat (k + y) = (decUld (k + y) <|> decUst (k + y))) ∧
    (k / 2 ^ 25 = 82 → decodeNat (k + y) = decUmoviLo (k + y)) ∧
    (k / 2 ^ 25 = 83 → decodeNat (k + y) = decUmoviHi (k + y)) ∧
    (k / 2 ^ 25 = 84 → decodeNat (k + y) = decUbra (k + y)) ∧
    (k / 2 ^ 25 = 85 → decodeNat (k + y) = decUcall (k + y)) ∧
    (k / 2 ^ 25 = 86 → decodeNat (k + y) = decUbraReg (k + y)) ∧
    (k / 2 ^ 25 = 87 → decodeNat (k + y) = decUcallReg (k + y)) := by
  and_intros <;> exact fun hk => by rw [decodeNat, bitsOf_major hk rfl hy]; rfl

theorem roundTrips_uniform :
    (∀ d a b, RoundTrips (.uadd d a b)) ∧ (∀ d a b, RoundTrips (.usub d a b)) ∧ (∀ d a b, RoundTrips (.umul d a b)) ∧
    (∀ d a b, RoundTrips (.uand d a b)) ∧ (∀ d a b, RoundTrips (.uor d a b)) ∧ (∀ d a b, RoundTrips (.uxor d a b)) ∧
    (∀ d a b, RoundTrips (.ushl d a b)) ∧ (∀ d a b, RoundTrips (.ushr d a b)) ∧ (∀ d a b, RoundTrips (.usar d a b)) ∧
    (∀ d a b, RoundTrips (.uminSg d a b)) ∧ (∀ d a b, RoundTrips (.uminUs d a b)) ∧ (∀ d a b, RoundTrips (.umaxSg d a b)) ∧
    (∀ d a b, RoundTrips (.umaxUs d a b)) ∧ (∀ d a, RoundTrips (.umov d a)) ∧ (∀ d a b, RoundTrips (.usel d a b)) ∧
    (∀ d a b c, RoundTrips (.ucmp d a b c)) ∧ (∀ d a i, RoundTrips (.uaddImm d a i)) ∧ (∀ d a b o, RoundTrips (.uld d a b o)) ∧
    (∀ d a b o, RoundTrips (.ust d a b o)) ∧ (∀ d i, RoundTrips (.umoviLo d i)) ∧ (∀ d i, RoundTrips (.umoviHi d i)) ∧
    (∀ n a i, RoundTrips (.ubra n a i)) ∧ (∀ n a i, RoundTrips (.ucall n a i)) ∧ (∀ a, RoundTrips (.ubraReg a)) ∧
    (∀ a, RoundTrips (.ucallReg a)) := by
  and_intros <;> intros <;> refine .of rfl ?_ ?_
  all_goals
    simp only [Nat.add_assoc, decodeNat_uniform, decUadd, decUsub, decUmul, decUand, decUor, decUxor, decUshl, decUshr, decUsar, decUminSg, decUminUs,
      decUmaxSg, decUmaxUs, decUmov, decUsel, decUcmp, decUaddImm, decUld, decUst, decUmoviLo, decUmoviHi, decUbra, decUcall, decUbraReg, decUcallReg,
      UCond.field_spec, bit_toNat, header_add_lt, field_lt, shifted_field_lt, two_fields_lt, two_shifted_fields_lt, three_fields_lt,
      three_shifted_fields_lt, four_fields_lt, bitsOf_skip, bitsOf_skip_last, bitsOf_above, bitsOf_at, bitsOf_at_last, bitsOf_at_zero, bitsOf_lit,
      Nat.reducePow, Nat.reduceMod, Nat.reduceDiv, Nat.reduceSub, Nat.reduceAdd, Nat.reduceMul, Nat.reduceLT, Nat.reduceLeDiff, Nat.reduceEqDiff,
      OfNat.ofNat_ne_zero, ↓reduceIte, BitVec.ofNat_toNat, BitVec.setWidth_eq, Option.orElse_eq_orElse, Option.orElse_eq_or, Option.or_none,
      Option.none_or, Option.bind_some, false_and, and_false, and_self]

theorem decodeNat_sync {k y : Nat} (hy : y < 2 ^ 25 - k % 2 ^ 25) :
    (k / 2 ^ 25 = 88 → decodeNat (k + y) = (decFence (k + y) <|> decFenceAcq (k + y) <|> decFenceRel (k + y) <|> decFenceLrec (k + y))) ∧
    (k / 2 ^ 25 = 89 → decodeNat (k + y) = (decBarInit (k + y) <|> decBarArrive (k + y) <|> decBarWait (k + y) <|> decBarSync (k + y) <|>
      decBarInval (k + y))) ∧
    (k / 2 ^ 25 = 90 → decodeNat (k + y) = decFbarSync (k + y)) ∧
    (k / 2 ^ 25 = 91 → decodeNat (k + y) = (decRingInit (k + y) <|> decRingArriveFull (k + y) <|> decRingArriveEmpty (k + y) <|>
      decRingWaitFull (k + y) <|> decRingWaitEmpty (k + y))) ∧
    (k / 2 ^ 25 = 92 → decodeNat (k + y) = decCftest (k + y)) := by
  and_intros <;> exact fun hk => by rw [decodeNat, bitsOf_major hk rfl hy]; rfl

theorem roundTrips_sync :
    (∀ sc, RoundTrips (.fence sc)) ∧ (∀ sc, RoundTrips (.fenceAcq sc)) ∧ (∀ sc, RoundTrips (.fenceRel sc)) ∧ (∀ a n, RoundTrips (.barInit a n)) ∧
    (∀ d n, RoundTrips (.barArrive d n)) ∧ (∀ d a n, RoundTrips (.barWait d a n)) ∧ (∀ d n, RoundTrips (.barSync d n)) ∧
    (∀ n, RoundTrips (.barInval n)) ∧ (∀ d n k, RoundTrips (.fbarSync d n k)) ∧ (∀ a r, RoundTrips (.ringInit a r)) ∧
    (∀ a r, RoundTrips (.ringArriveFull a r)) ∧ (∀ a r, RoundTrips (.ringArriveEmpty a r)) ∧ (∀ d a r q, RoundTrips (.ringWaitFull d a r q)) ∧
    (∀ d a r q, RoundTrips (.ringWaitEmpty d a r q)) ∧ (∀ d n, RoundTrips (.cftest d n)) := by
  and_intros <;> intros <;> refine .of rfl ?_ ?_
  all_goals
    simp only [Nat.add_assoc, decodeNat_sync, decFence, decFenceAcq, decFenceRel, decFenceLrec, decBarInit, decBarArrive, decBarWait, decBarSync,
      decBarInval, decFbarSync, decRingInit, decRingArriveFull, decRingArriveEmpty, decRingWaitFull, decRingWaitEmpty, decCftest, Scope.field_spec,
      bit_toNat, header_add_lt, field_lt, shifted_field_lt, two_fields_lt, two_shifted_fields_lt, three_fields_lt, three_shifted_fields_lt,
      four_fields_lt, bitsOf_skip, bitsOf_skip_last, bitsOf_above, bitsOf_at, bitsOf_at_last, bitsOf_at_zero, bitsOf_lit, Nat.reducePow,
      Nat.reduceMod, Nat.reduceDiv, Nat.reduceSub, Nat.reduceAdd, Nat.reduceMul, Nat.reduceLT, Nat.reduceLeDiff, Nat.reduceEqDiff,
      OfNat.ofNat_ne_zero, ↓reduceIte, BitVec.ofNat_toNat, BitVec.setWidth_eq, Option.orElse_eq_orElse, Option.orElse_eq_or, Option.or_none,
      Option.none_or, Option.bind_some, false_and, and_self]

theorem decodeNat_engine {k y : Nat} (hy : y < 2 ^ 25 - k % 2 ^ 25) :
    (k / 2 ^ 25 = 96 → decodeNat (k + y) = (decCopy (k + y) <|> decCopySt (k + y) <|> decCopyAcc (k + y))) ∧
    (k / 2 ^ 25 = 104 → decodeNat (k + y) = (decCvinit (k + y) <|> decMma (k + y) <|> decWbload (k + y) <|> decWbloadMask (k + y) <|>
      decAccld (k + y) <|> decAccldF64 (k + y) <|> decAccst (k + y) <|> decAccstF64 (k + y) <|> decAcczero (k + y) <|> decOpfence (k + y))) ∧
    (k / 2 ^ 25 = 112 → decodeNat (k + y) = (decXformCvt (k + y) <|> decXformRound (k + y) <|> decXformScale (k + y) <|> decXformFill (k + y) <|>
      decXformZero (k + y))) ∧
    (k / 2 ^ 25 = 113 → decodeNat (k + y) = (decMsgSend (k + y) <|> decMsgRecv (k + y))) := by
  and_intros <;> exact fun hk => by rw [decodeNat, bitsOf_major hk rfl hy]; rfl

theorem roundTrips_engine :
    (∀ a b sc, RoundTrips (.copy a b sc)) ∧ (∀ a b sc, RoundTrips (.copySt a b sc)) ∧ (∀ a b sc, RoundTrips (.copyAcc a b sc)) ∧
    (∀ a c, RoundTrips (.cvinit a c)) ∧ (∀ a c, RoundTrips (.mma a c)) ∧ (∀ a b, RoundTrips (.wbload a b)) ∧ (∀ a b, RoundTrips (.wbloadMask a b)) ∧
    (∀ a, RoundTrips (.accld a)) ∧ (∀ a, RoundTrips (.accldF64 a)) ∧ (∀ a, RoundTrips (.accst a)) ∧ (∀ a, RoundTrips (.accstF64 a)) ∧
    (∀ a, RoundTrips (.acczero a)) ∧ (∀ a b, RoundTrips (.xformCvt a b)) ∧ (∀ a b, RoundTrips (.xformRound a b)) ∧
    (∀ a b, RoundTrips (.xformScale a b)) ∧ (∀ a b, RoundTrips (.xformFill a b)) ∧ (∀ a b, RoundTrips (.xformZero a b)) ∧
    (∀ a b, RoundTrips (.msgSend a b)) ∧ (∀ d a b, RoundTrips (.msgRecv d a b)) := by
  and_intros <;> intros <;> refine .of rfl ?_ ?_
  all_goals
    simp only [Nat.add_assoc, decodeNat_engine, decCopy, decCopySt, decCopyAcc, decCvinit, decMma, decWbload, decWbloadMask, decAccld, decAccldF64,
      decAccst, decAccstF64, decAcczero, decOpfence, decXformCvt, decXformRound, decXformScale, decXformFill, decXformZero, decMsgSend, decMsgRecv,
      Scope.field_spec, header_add_lt, field_lt, shifted_field_lt, two_fields_lt, two_shifted_fields_lt, three_fields_lt, three_shifted_fields_lt,
      bitsOf_skip, bitsOf_skip_last, bitsOf_above, bitsOf_at, bitsOf_at_last, bitsOf_at_zero, bitsOf_lit, Nat.reducePow, Nat.reduceMod, Nat.reduceDiv,
      Nat.reduceSub, Nat.reduceAdd, Nat.reduceMul, Nat.reduceLT, Nat.reduceLeDiff, Nat.reduceEqDiff, OfNat.ofNat_ne_zero, ↓reduceIte,
      BitVec.ofNat_toNat, BitVec.setWidth_eq, Option.orElse_eq_orElse, Option.orElse_eq_or, Option.or_none, Option.none_or, Option.bind_some,
      false_and, and_false, and_self]

theorem decodeNat_system {k y : Nat} (hy : y < 2 ^ 25 - k % 2 ^ 25) :
    (k / 2 ^ 25 = 116 → decodeNat (k + y) = (decSregRdVector (k + y) <|> decSregRdUniform (k + y) <|> decSregWr (k + y))) ∧
    (k / 2 ^ 25 = 117 → decodeNat (k + y) = decTemit (k + y)) ∧
    (k / 2 ^ 25 = 118 → decodeNat (k + y) = (decCtrRd (k + y) <|> decCtrCtl (k + y) <|> decRtag (k + y))) ∧
    (k / 2 ^ 25 = 120 → decodeNat (k + y) = decGlaunch (k + y)) := by
  and_intros <;> exact fun hk => by rw [decodeNat, bitsOf_major hk rfl hy]; rfl

theorem roundTrips_system :
    (∀ d i, RoundTrips (.sregRdVector d i)) ∧ (∀ d i, RoundTrips (.sregRdUniform d i)) ∧ (∀ a i, RoundTrips (.sregWr a i)) ∧
    (∀ a c, RoundTrips (.temit a c)) ∧ (∀ d n, RoundTrips (.ctrRd d n)) ∧ (∀ a n, RoundTrips (.ctrCtl a n)) ∧ (∀ d g, RoundTrips (.rtag d g)) ∧
    (∀ a q, RoundTrips (.glaunch a q)) := by
  and_intros <;> intros <;> refine .of rfl ?_ ?_
  all_goals
    simp only [Nat.add_assoc, decodeNat_system, decSregRdVector, decSregRdUniform, decSregWr, decTemit, decCtrRd, decCtrCtl, decRtag, decGlaunch,
      header_add_lt, field_lt, shifted_field_lt, two_fields_lt, two_shifted_fields_lt, bitsOf_skip, bitsOf_skip_last, bitsOf_above, bitsOf_at,
      bitsOf_at_last, bitsOf_at_zero, bitsOf_lit, Nat.reducePow, Nat.reduceMod, Nat.reduceDiv, Nat.reduceSub, Nat.reduceAdd, Nat.reduceMul,
      Nat.reduceLT, Nat.reduceLeDiff, Nat.reduceEqDiff, OfNat.ofNat_ne_zero, ↓reduceIte, BitVec.ofNat_toNat, BitVec.setWidth_eq,
      Option.orElse_eq_orElse, Option.orElse_eq_or, Option.or_none, Option.none_or, false_and, and_self]

/-- The format of QADD shares bits 24:21 with the function of the other quire words: it reads there as 8 and more (R137). -/
theorem roundTrips_qadd (f : QaddFmt) (q : BitVec 1) (a : BitVec 7) : RoundTrips (.qadd f q a) := by
  have notQmac : QmacFmt.ofCode? (8 + f.field.toNat) = none := by cases f <;> rfl
  have notQclr : 8 + f.field.toNat ≠ 5 := by omega
  have notQround : 8 + f.field.toNat ≠ 6 := by omega
  have fn : bitsOf (1325400064 + (f.field.toNat * 2097152 + (q.toNat * 16384 + a.toNat * 128))) 24 21 = 8 + f.field.toNat := by
    rw [show 1325400064 + (f.field.toNat * 2097152 + (q.toNat * 16384 + a.toNat * 128)) =
      1308622848 + ((8 + f.field.toNat) * 2097152 + (q.toNat * 16384 + a.toNat * 128)) by omega]
    exact bitsOf_at rfl (by omega) (by omega)
  refine .of rfl ?_ ?_
  all_goals
    simp only [Nat.add_assoc, fn, notQmac, notQclr, notQround, decodeNat_quire, decQmac, decQclr, decQround, decQadd, QaddFmt.field_spec,
      header_add_lt, field_lt, shifted_field_lt, two_shifted_fields_lt, three_shifted_fields_lt, bitsOf_skip, bitsOf_skip_last, bitsOf_above,
      bitsOf_at, bitsOf_at_last, bitsOf_at_zero, bitsOf_lit, Nat.reducePow, Nat.reduceMod, Nat.reduceDiv, Nat.reduceSub, Nat.reduceAdd, Nat.reduceMul,
      Nat.reduceLT, Nat.reduceLeDiff, ↓reduceIte, BitVec.ofNat_toNat, BitVec.setWidth_eq, Option.orElse_eq_orElse, Option.orElse_eq_or,
      Option.none_or, Option.bind_some, Option.bind_none, false_and, and_self]

theorem roundTrips_xPrefix (g : BitVec 3) (z n : Bool) (r : RMode) (v : BitVec 7) (k : LKind) (kk : BitVec 5) (ls : Bool) :
    RoundTrips (.xPrefix g z n r v k kk ls) := by
  have tail0 : ∀ m, 16776960 ≤ m →
      g.toNat * 2097152 + ((BitVec.ofBool z).toNat * 1048576 + ((BitVec.ofBool n).toNat * 524288 +
        (r.field.toNat * 65536 + (v.toNat * 512 + (k.field.toNat * 64 + (kk.toNat * 2 + (BitVec.ofBool ls).toNat)))))) < m := by omega
  have tail1 : ∀ m, 2096896 ≤ m →
      (BitVec.ofBool z).toNat * 1048576 + ((BitVec.ofBool n).toNat * 524288 +
        (r.field.toNat * 65536 + (v.toNat * 512 + (k.field.toNat * 64 + (kk.toNat * 2 + (BitVec.ofBool ls).toNat))))) < m := by omega
  have tail2 : ∀ m, 1048320 ≤ m →
      (BitVec.ofBool n).toNat * 524288 +
        (r.field.toNat * 65536 + (v.toNat * 512 + (k.field.toNat * 64 + (kk.toNat * 2 + (BitVec.ofBool ls).toNat)))) < m := by omega
  have tail3 : ∀ m, 524032 ≤ m →
      r.field.toNat * 65536 + (v.toNat * 512 + (k.field.toNat * 64 + (kk.toNat * 2 + (BitVec.ofBool ls).toNat))) < m := by omega
  refine .of rfl ?_ ?_
  all_goals
    simp only [Nat.add_assoc, tail0, tail1, tail2, tail3, bit_toNat, RMode.field_spec, LKind.field_spec, decodeNat_control, decXPrefix, decWPrefix,
      header_add_lt, field_lt, two_fields_lt, three_fields_lt, four_fields_lt, bitsOf_skip, bitsOf_above, bitsOf_at, bitsOf_at_zero, bitsOf_lit,
      Nat.reducePow, Nat.reduceMod, Nat.reduceDiv, Nat.reduceSub, Nat.reduceAdd, Nat.reduceMul, Nat.reduceLeDiff, ↓reduceIte, BitVec.ofNat_toNat,
      BitVec.setWidth_eq, Option.orElse_eq_orElse, Option.orElse_eq_or, Option.some_or, Option.bind_some]

/-- The words without operands. -/
theorem roundTrips_bare : RoundTrips .yield ∧ RoundTrips .nop ∧ RoundTrips .fenceLrec ∧ RoundTrips .opfence := by
  and_intros <;> exact .of rfl (by decide) rfl

theorem roundTrips_of_isWord (i : Instr) (h : i.isWord = true) : RoundTrips i := by
  cases i with
  | iadd | isub | imul | imulhSg | imulhUs | imad | iminSg | iminUs | imaxSg | imaxUs | iabs | and | or | xor | andn | shl | shr | sar | rot | clz
    | popc | brev | mov | movFromUniform | movB64 | bfeUs | bfeSg | bfi | iadd64 | isub64 | imul64 | shl64 | shr64 | sar64 =>
    simp only [roundTrips_integer]
  | iaddImm | andImm | shlImm | shrImm | sarImm | rotImm | shl64Imm | shr64Imm | sar64Imm | movi | ldsB32 | ldsB64 | stsB32 | stsB64 =>
    simp only [roundTrips_immediate]
  | icmp | icmp64 | sel | pand | por | pxor | pnot | idp4Sg | idp4Us | idp2Sg | idp2Us => simp only [roundTrips_predicate]
  | faddF32 | fsubF32 | fmulF32 | ffmaF32 | fminF32 | fmaxF32 | faddF64 | fsubF64 | fmulF64 | ffmaF64 | fminF64 | fmaxF64 | fcmpF32 | fcmpF64
    | fdivF32 | fsqrtF32 | frcpF32 | frsqF32 | fdivF64 | fsqrtF64 | frcpF64 | frsqF64 | fex2F32 | flg2F32 | fsinF32 | fcosF32 | cvt | cvtClamp =>
    simp only [roundTrips_float]
  | tradd | trsub | trmul | trfma | trmin | trmax | trcmp | trdec | trenc => simp only [roundTrips_tapered]
  | qmac | qclr | qround => simp only [roundTrips_quire]
  | shflIdx | shflUp | shflDown | shflXor | voteAny | voteAll | voteBallot | voteEq | matchB32 | matchB64 | red | scan =>
    simp only [roundTrips_crossLane]
  | ldB32 | ldB64 | ldB128 | stB32 | stB64 | stB128 | ldExtended | pf | stExtended => simp only [roundTrips_memory]
  | atomAddB32 | atomMinSgB32 | atomMinUsB32 | atomMaxSgB32 | atomMaxUsB32 | atomAndB32 | atomOrB32 | atomXorB32 | atomXchgB32 | atomCasB32
    | atomAddB64 | atomMinSgB64 | atomMinUsB64 | atomMaxSgB64 | atomMaxUsB64 | atomAndB64 | atomOrB64 | atomXorB64 | atomXchgB64 | atomCasB64
    | acasB128 | aacc | arsv => simp only [roundTrips_atomic]
  | bra | call | callr | ret | jmpr | exit | trap | bkpt | wPrefix => simp only [roundTrips_control]
  | uadd | usub | umul | uand | uor | uxor | ushl | ushr | usar | uminSg | uminUs | umaxSg | umaxUs | umov | usel | ucmp | uaddImm | uld | ust
    | umoviLo | umoviHi | ubra | ucall | ubraReg | ucallReg => simp only [roundTrips_uniform]
  | fence | fenceAcq | fenceRel | barInit | barArrive | barWait | barSync | barInval | fbarSync | ringInit | ringArriveFull | ringArriveEmpty
    | ringWaitFull | ringWaitEmpty | cftest => simp only [roundTrips_sync]
  | copy | copySt | copyAcc | cvinit | mma | wbload | wbloadMask | accld | accldF64 | accst | accstF64 | acczero | xformCvt | xformRound | xformScale
    | xformFill | xformZero | msgSend | msgRecv => simp only [roundTrips_engine]
  | sregRdVector | sregRdUniform | sregWr | temit | ctrRd | ctrCtl | rtag | glaunch => simp only [roundTrips_system]
  | qadd f q a => exact roundTrips_qadd f q a
  | xPrefix g z n r v k kk ls => exact roundTrips_xPrefix g z n r v k kk ls
  | yield | nop | fenceLrec | opfence => simp only [roundTrips_bare]
  | _ => exact absurd h Bool.false_ne_true

theorem encode_of_not_isWord {i : Instr} (h : i.isWord = false) : encode i = [] := by
  have hn : (encodeNat? i).isSome = i.isWord := by cases i <;> rfl
  rw [h, Option.isSome_eq_false_iff, Option.isNone_iff_eq_none] at hn
  rw [encode, hn]

end Sys2Proof

namespace Sys2Proof.Proofs

/-- Settles O56: the decoder reads back each field of each row, for every value of the operands. -/
theorem encodingsRoundTrip : Obligations.EncodingsRoundTrip := by
  unfold Obligations.EncodingsRoundTrip
  exact fun i => ⟨fun h _ => roundTrips_of_isWord i h, encode_of_not_isWord⟩

end Sys2Proof.Proofs
end

section
/-!
O55: the worked words of the spec.
-/

namespace Sys2Proof.Proofs

/-- Settles O55: each is a word of numerals, and the decoder computes. -/
theorem wordsDecode : Obligations.WordsDecode := by
  unfold Obligations.WordsDecode
  refine ⟨?_, ?_, ?_, ?_, ?_, ?_, ?_, ?_, ?_, ?_, ?_, ?_, ?_, ?_, ?_⟩ <;> rfl

end Sys2Proof.Proofs
end

section
/-!
O16, O17: control words (R71, R75, R113 to R117): which lanes take a transfer, where it sends them, the link it writes, and the faults
of targets that are no clause addresses, of TRAP and of BKPT.
-/

namespace Sys2Proof.Machine

variable {s t : State} {c : Issue} {f : Fibre}

/-! ### The lanes that take a word, and the targets (R75, R113) -/

theorem inMask_takeMask (c : Issue) (f : Fibre) (p : BitVec 3) (n : Bool) (l : Fin 32) :
    inMask (takeMask c f p n) l = (inMask c.lanes l && Bool.xor (inMask (f.readP p.toNat) l) n) := by
  unfold takeMask
  rw [inMask_and]
  cases n
  · rw [if_neg Bool.false_ne_true, Bool.xor_false]
  · rw [if_pos rfl, inMask_not, Bool.xor_true]

theorem takeMask_eq_zero {p : BitVec 3} {n : Bool} (h : ∀ l, (inMask c.lanes l && Bool.xor (inMask (f.readP p.toNat) l) n) = false) :
    takeMask c f p n = 0 :=
  mask_ext fun l => by rw [inMask_takeMask, h, inMask_zero]

theorem relTarget_eq {w : Nat} (c : Issue) (o : BitVec w) : relTarget c o = c.clause + BitVec.ofInt 64 (64 * o.toInt) := by
  unfold relTarget BitVec.signExtend
  rw [BitVec.shiftLeft_eq_mul_twoPow, Int.mul_comm, BitVec.ofInt_mul]
  rfl

theorem inMask_badTargets (take : LaneMask) (target : Fin 32 → DWord) (l : Fin 32) :
    inMask (badTargets take target) l = (inMask take l && (target l) &&& 63#64 != 0) := inMask_maskOf _ _

/-! ### The link of a call (R114) -/

theorem writeLink_only (fid : Nat) (take : LaneMask) (x : DWord) : Only s (writeLink s fid take x) fid { v := [62, 63] } := by
  unfold writeLink
  split
  · exact .refl s _ _
  · refine (writeReg_only fid 62 _ _ (by simp)).trans (writeReg_only fid 63 _ _ (by simp)) fun _ hr => ?_
    rw [(writeReg_only (s := s) fid 62 _ { v := [62] } (by simp)).partOf rfl (writeReg_sameMem _ _ _), replaying_kept (writeReg_sameMem _ _ _)]
    exact hr

theorem writeLink_sameMem (fid : Nat) (take : LaneMask) (x : DWord) : SameMem s (writeLink s fid take x) := by
  unfold writeLink
  split
  · exact .refl s
  · exact (writeReg_sameMem _ _ _).trans (writeReg_sameMem _ _ _)

theorem writeLink_placed (fid : Nat) (take : LaneMask) (x : DWord) : Placed s (writeLink s fid take x) := by
  unfold writeLink
  split
  · exact .refl s
  · exact (writeReg_placed _ _ _).trans (writeReg_placed _ _ _)

theorem link_halves (x : DWord) : (x >>> 32).setWidth 32 ++ x.setWidth 32 = x := by
  refine BitVec.eq_of_getLsbD_eq fun i hi => ?_
  simp only [BitVec.getLsbD_append, BitVec.getLsbD_setWidth, BitVec.getLsbD_ushiftRight]
  by_cases h : i < 32
  · simp [h]
  · simp [h, show i - 32 < 32 by omega, show 32 + (i - 32) = i by omega]

theorem readLane_writeReg_ne {fid r r' : Nat} {v : VReg} (h : r' ≠ r) (l : Fin 32) :
    readLane (writeReg s fid r v) fid r' l = readLane s fid r' l := by
  unfold readLane
  rw [readReg_writeReg_ne (not_sameReg_of_ne h)]

/-- A register of the link after its write in the lanes of a mask. -/
theorem readLane_putMasked {fid r : Nat} {m : LaneMask} {x : Word} (hf : s.fib fid = some f) (ha : f.region < 4) (hr : f.hasReg r = true)
    (l : Fin 32) : readLane (writeReg s fid r ⟨Vector.ofFn fun l => if inMask m l then x else (readReg s fid r).vals[l], .g⟩) fid r l =
      if inMask m l then x else readLane s fid r l := by
  unfold readLane
  rw [readReg_writeReg_self hf ha hr]
  simp only [Fin.getElem_fin, Vector.getElem_ofFn]

/-- The pair of the link in a lane that takes the call, and in one that does not. -/
theorem readPair_writeLink {fid : Nat} {take : LaneMask} {x : DWord} (hf : s.fib fid = some f) (ha : f.region < 4)
    (h62 : f.hasReg 62 = true) (h63 : f.hasReg 63 = true) (l : Fin 32) :
    readPair (writeLink s fid take x) fid 62 l = if inMask take l then x else readPair s fid 62 l := by
  unfold writeLink
  split
  · next e => rw [e, inMask_zero, if_neg Bool.false_ne_true]
  have o1 : ∀ v, Only s (writeReg s fid 62 v) fid { v := [62] } := fun v => writeReg_only _ _ _ _ (by simp)
  obtain ⟨y, hy, -, hp, hs, hr⟩ := (o1 _).fibre hf
  unfold readPair
  rw [readLane_putMasked hy (hr ▸ ha) (by rw [hasReg_congr hp hs]; exact h63), readLane_writeReg_ne (by omega),
    readLane_writeReg_ne (by omega), readLane_putMasked hf ha h62]
  split
  · exact (link_halves x)
  · rfl

/-- What regGate lets pass (R23, R74). -/
theorem regGate_pass {vs ds ss : List Nat} {k : State} (h : c.active f = 0 ∨ ∀ r ∈ vs ++ ds, f.hasReg r = true)
    (hv : ∀ r ∈ vs, s.vPending c.fibre r = false) (hd : ∀ r ∈ ds, s.vOwn c.fibre r = false) (hs : ∀ r ∈ ss, s.sPending c.fibre r = false) :
    regGate s c f vs ds ss k = k := by
  have windows : (c.active f != 0 && (vs ++ ds).any fun r => !f.hasReg r) = false := by
    rcases h with e | e
    · simp [e]
    · rw [List.any_eq_false.2 fun r hr => by simp [e r hr], Bool.and_false]
  have pending : (vs.any (fun r => f.hasReg r && s.vPending c.fibre r) || ds.any (fun r => f.hasReg r && s.vOwn c.fibre r) ||
      ss.any (s.sPending c.fibre)) = false := by
    rw [List.any_eq_false.2 fun r hr => by simp [hv r hr], List.any_eq_false.2 fun r hr => by simp [hd r hr],
      List.any_eq_false.2 fun r hr => by simp [hs r hr]]
    rfl
  unfold regGate
  rw [windows, pending, if_neg Bool.false_ne_true, if_neg Bool.false_ne_true]

/-! ### Transfers (R75, R114) -/

/-- Where no lane has moved, a transfer sends each lane of the bundle to its clause. -/
theorem retireTo_goes (hp : Placed s t) (hf : s.fib c.fibre = some f) (target : Fin 32 → DWord) :
    Goes s c f (retireTo t c target) target := by
  obtain ⟨y, hy, hl, hr⟩ := hp.some hf
  obtain ⟨z, hz, hc, hz'⟩ := retireTo_some hy
  have lane : ∀ l, y.lane l = f.lane l := fun l => congrArg (fun v : Vector Lane 32 => v[l]) hl
  refine ⟨z, hz, by rw [hc, hr], fun l => ?_⟩
  rw [hz' l, lane l, hp.clock]
  split
  · next hm => exact stamped_at hm
  · rfl

/-- The state in which a transfer moves its lanes: the link of a call is written. -/
def linked (s : State) (c : Issue) (take : LaneMask) (link : Bool) : State :=
  if link then writeLink s c.fibre take (c.clause + 64) else s

theorem linked_only (take : LaneMask) (link : Bool) : Only s (linked s c take link) c.fibre { v := if link then [62, 63] else [] } := by
  cases link
  · exact .refl s _ _
  · exact writeLink_only _ _ _

theorem linked_sameMem (take : LaneMask) (link : Bool) : SameMem s (linked s c take link) := by
  cases link
  · exact .refl s
  · exact writeLink_sameMem _ _ _

theorem linked_placed (take : LaneMask) (link : Bool) : Placed s (linked s c take link) := by
  cases link
  · exact .refl s
  · exact writeLink_placed _ _ _

/-- What the registers of a transfer must satisfy where some lane takes it (R74, R114). -/
def Linkable (s : State) (c : Issue) (f : Fibre) (take : LaneMask) (regs links : List Nat) : Prop :=
  take = 0 ∨ ((c.active f = 0 ∨ ∀ r ∈ regs ++ links, f.hasReg r = true) ∧ (∀ r ∈ regs, s.vPending c.fibre r = false) ∧
    ∀ r ∈ links, s.vOwn c.fibre r = false)

/-- A transfer whose registers let it issue: it raises 0x03 where a target is no clause address, and else moves its lanes. -/
theorem transfer_ready {p : BitVec 3} {n link : Bool} {regs : List Nat} {target : Issue → Fin 32 → DWord} (h : Ready s c f {})
    (hr : Linkable s c f (takeMask c f p n) regs (if link then [62, 63] else [])) :
    transfer s p n regs link target = .next (
      if badTargets (takeMask c f p n) (target c) != 0 then raise s c { cause := 0x03, lanes := badTargets (takeMask c f p n) (target c) }
      else retireTo (linked s c (takeMask c f p n) link) c fun l => if inMask (takeMask c f p n) l then target c l else c.clause + 64) := by
  unfold transfer
  rw [gate_ready h]
  refine congrArg Host.Outcome.next (regGate_pass ?_ ?_ ?_ (by simp))
  all_goals
    rcases hr with e | ⟨h1, h2, h3⟩
    · simp [e]
    · cases link <;> by_cases e : takeMask c f p n = 0 <;> simp_all

theorem Flt.fits_of {cause info : Nat} {lanes : LaneMask} (hc : cause < 256) (hi : info < 2 ^ 32) :
    Flt.Fits { cause := cause, lanes := lanes, info := info } :=
  ⟨rfl, hc, Nat.zero_lt_succ _, Nat.two_pow_pos _, Nat.two_pow_pos _, Nat.zero_lt_succ _, hi⟩

theorem badTargets_eq_zero {take : LaneMask} {target : Fin 32 → DWord} (h : ∀ l, inMask take l = true → (target l) &&& 63#64 = 0) :
    badTargets take target = 0 :=
  mask_ext fun l => by
    rw [inMask_badTargets, inMask_zero]
    cases e : inMask take l
    · rfl
    · rw [h l e]; rfl

/-- A transfer to clause addresses (R75, R114). -/
theorem transfer_goes {p : BitVec 3} {n link : Bool} {regs : List Nat} {target : Issue → Fin 32 → DWord} (h : Ready s c f {})
    (hr : Linkable s c f (takeMask c f p n) regs (if link then [62, 63] else []))
    (ht : ∀ l, inMask (takeMask c f p n) l = true → (target c l) &&& 63#64 = 0) :
    ∃ t, transfer s p n regs link target = .next t ∧
      Goes s c f t (fun l => if inMask (takeMask c f p n) l then target c l else c.clause + 64) ∧
      Only s t c.fibre { v := if link then [62, 63] else [] } ∧
      (link = true → f.hasReg 62 = true → f.hasReg 63 = true →
        ∀ l, readPair t c.fibre 62 l = if inMask (takeMask c f p n) l then c.clause + 64 else readPair s c.fibre 62 l) := by
  refine ⟨_, transfer_ready h hr, ?_⟩
  rw [badTargets_eq_zero ht, if_neg (by simp)]
  refine ⟨retireTo_goes (linked_placed _ _) h.fibre _, (linked_only _ _).retireTo rfl (linked_sameMem _ _) _, fun hl h62 h63 l => ?_⟩
  have kept := retireTo_kept (s := linked s c (takeMask c f p n) link) c fun l =>
    if inMask (takeMask c f p n) l then target c l else c.clause + 64
  subst hl
  unfold readPair
  rw [readLane_kept kept, readLane_kept kept]
  exact readPair_writeLink h.fibre h.area h62 h63 l

/-- A transfer that some lane takes to no clause address (R75). -/
theorem transfer_faults {p : BitVec 3} {n link : Bool} {regs : List Nat} {target : Issue → Fin 32 → DWord} (h : Ready s c f {})
    (hr : Linkable s c f (takeMask c f p n) regs (if link then [62, 63] else [])) (hb : badTargets (takeMask c f p n) (target c) ≠ 0) :
    ∃ t, transfer s p n regs link target = .next t ∧ Faults c f t 0x03 (badTargets (takeMask c f p n) (target c)) 0 0 ∧ Only s t c.fibre {} := by
  refine ⟨_, transfer_ready h hr, ?_⟩
  rw [if_pos (by simpa using hb)]
  exact ⟨raiseAt_faults h.fibre (Flt.fits_of (by decide) (by decide)), raiseAt_only _ _ _ _⟩

/-! ### Words that end or yield (R115, R116) -/

/-- Lane l of an exit that lanes of take take: they end. -/
theorem onLanes_exit {take : LaneMask} (ht : ∀ l, inMask take l = true → inMask c.lanes l = true) (l : Fin 32) (now : Nat) :
    (if inMask c.lanes l then ((f.onLanes take fun x => { x with live := false }).lane l).at_ (c.clause + 64) now
      else (f.onLanes take fun x => { x with live := false }).lane l) =
    if inMask take l then { (f.lane l).at_ (c.clause + 64) now with live := false, stamp := (f.lane l).stamp }
    else if inMask c.lanes l then (f.lane l).at_ (c.clause + 64) now else f.lane l := by
  rw [onLanes_lane]
  by_cases h : inMask take l = true
  · rw [if_pos h, if_pos h, if_pos (ht l h)]
    rfl
  · rw [if_neg h, if_neg h]

theorem exit_ready (p : BitVec 3) (n : Bool) (h : Ready s c f {}) :
    ∃ t, execExit p n s = .next t ∧ Only s t c.fibre {} ∧ ∃ x, t.fib c.fibre = some x ∧ x.ric = f.ric + 1 ∧ ∀ l, x.lane l =
      if inMask (takeMask c f p n) l then { (f.lane l).at_ (c.clause + 64) s.clock with live := false, stamp := (f.lane l).stamp }
      else if inMask c.lanes l then (f.lane l).at_ (c.clause + 64) s.clock else f.lane l := by
  have only : Only s (s.modFib c.fibre fun x => x.onLanes (takeMask c f p n) fun l => { l with live := false }) c.fibre {} :=
    .of_kept (.fib fun _ => by simp only [Fibre.onLanes, Fibre.regs]) _ _ fun _ _ => .fib
  have mem : SameMem s (s.modFib c.fibre fun x => x.onLanes (takeMask c f p n) fun l => { l with live := false }) := .fib
  refine ⟨_, gate_ready h, only.retireTo rfl mem _, ?_⟩
  obtain ⟨x, hx, hr, hl⟩ := retireTo_goes (.refl _) (modFib_some h.fibre) fun _ => c.clause + 64
  refine ⟨x, hx, hr.trans (by simp only [Fibre.onLanes]), fun l => ?_⟩
  rw [hl l]
  exact onLanes_exit (fun l e => by rw [inMask_takeMask, Bool.and_eq_true] at e; exact e.1) l _

theorem yield_ready (h : Ready s c f {}) : ∃ t, execYield s = .next t ∧ Passes s c f t ∧ Only s t c.fibre {} ∧
    (f.step = none → ∃ x, t.fib c.fibre = some x ∧ x.yielded = true) := by
  have passes : Passes s c f (retire s c) := retire_passes (.refl s) h.fibre
  have only : Only s (retire s c) c.fibre {} := (Only.refl s _ _).retire rfl (.refl s)
  refine ⟨_, gate_ready h, ?_⟩
  split
  · next e => exact ⟨passes, only, fun hn => by rw [hn] at e; exact absurd e Bool.false_ne_true⟩
  · obtain ⟨x, hx, hr, hl⟩ := passes
    refine ⟨⟨_, modFib_some hx, hr, hl⟩, only.kept ?_ fun _ _ => .fib, fun _ => ⟨_, modFib_some hx, rfl⟩⟩
    exact yieldPoint_kept _

/-! ### Traps (R117) -/

theorem takeMask_eq (c : Issue) (f : Fibre) (p : BitVec 3) (n : Bool) :
    takeMask c f p n = maskOf fun l => inMask c.lanes l && Bool.xor (inMask (f.readP p.toNat) l) n :=
  mask_ext fun l => by rw [inMask_takeMask, inMask_maskOf]

theorem trapWord_ready (p : BitVec 3) (n : Bool) (code : BitVec 16) {cause : Nat} (hc : cause < 256) (h : Ready s c f {}) :
    ∃ t, trapWord s p n code cause = .next t ∧ Only s t c.fibre {} ∧
      if takeMask c f p n = 0 then Passes s c f t else Faults c f t cause (takeMask c f p n) 0 code.toNat := by
  refine ⟨_, gate_ready h, ?_⟩
  simp only []
  split
  · exact ⟨(Only.refl s _ _).retire rfl (.refl s), retire_passes (.refl s) h.fibre⟩
  · exact ⟨raiseAt_only _ _ _ _, raiseAt_faults h.fibre (Flt.fits_of hc (code.isLt.trans (by decide)))⟩

/-! ### Uniform transfers (R118) -/

theorem uniTransfer_faults {taken : Fibre → Bool} {ss : List Nat} {link : Bool} {target : Issue → Fibre → DWord} (h : Ready s c f { s := ss })
    (ht : taken f = true) (hb : (target c f) &&& 63#64 ≠ 0) (hl : link = true → s.sPending c.fibre 63 = false) :
    ∃ t, uniTransfer s taken ss link target = .next t ∧ Faults c f t 0x03 c.lanes 0 0 ∧ Only s t c.fibre {} := by
  refine ⟨_, gate_ready h, ?_⟩
  simp only [ht, Bool.not_true, Bool.false_eq_true, if_false]
  rw [regGate_pass (by simp) (by simp) (by simp) (by cases link <;> simp_all), if_pos (by simpa using hb)]
  exact ⟨raiseCause_faults h.fibre (by decide), raiseCause_only _ _ _⟩

end Sys2Proof.Machine

namespace Sys2Proof.Proofs

open Machine

/-- Settles O16: the transfers by `transfer_goes`, with the lanes that take them given by `takeMask`. -/
theorem perThreadControl : Obligations.PerThreadControl := by
  unfold Obligations.PerThreadControl
  intro p n o a take jump rel
  have jumps : ∀ (i : Instr) (regs : List Nat) (link : Bool) (target : State → Issue → Fin 32 → DWord),
      (∀ s, exec i s = transfer s p n regs link (target s)) → jump i regs link target := by
    intro i regs link target hi s c f h links hr ht
    have ht' : ∀ l, inMask (takeMask c f p n) l = true → (target s c l) &&& 63#64 = 0 := fun l e => ht l ((inMask_takeMask c f p n l).symm.trans e)
    obtain ⟨t, he, hg, ho, hl⟩ := transfer_goes (target := target s) h (hr.imp takeMask_eq_zero id) ht'
    simp only [inMask_takeMask] at hg hl
    exact ⟨t, (hi s).trans he, hg, ho, hl⟩
  have rel_eq : ∀ s : State, (fun (c : Issue) (_ : Fin 32) => relTarget c o) = rel s := fun s => funext fun c => funext fun _ => relTarget_eq c o
  refine ⟨jumps _ _ _ _ fun s => ?_, jumps _ _ _ _ fun s => ?_, jumps _ _ _ _ fun _ => rfl, jumps _ _ _ _ fun _ => rfl, jumps _ _ _ _ fun _ => rfl,
    fun s c f h => ?_, fun s c f h => ?_, fun s c f h => yield_ready h⟩
  · rw [← rel_eq s]; rfl
  · rw [← rel_eq s]; rfl
  · obtain ⟨t, he, ho, x, hx, hr, hl⟩ := exit_ready p n h
    simp only [inMask_takeMask] at hl
    exact ⟨t, he, ho, x, hx, hr, hl⟩
  · exact ⟨_, gate_ready h, retire_passes (.refl s) h.fibre, (Only.refl s _ _).retire rfl (.refl s)⟩

/-- Settles O17: the transfers by `transfer_faults` and `uniTransfer_faults`, TRAP and BKPT by `trapWord_ready`. -/
theorem controlFaults : Obligations.ControlFaults := by
  unfold Obligations.ControlFaults
  refine ⟨fun p n a u => ?_, fun p n k => ?_⟩
  · intro take bad jump
    have jumps : ∀ (i : Instr) (r : Nat) (link : Bool),
        (∀ s, exec i s = transfer s p n [r, r + 1] link fun c l => readPair s c.fibre r l) → jump i r link := by
      intro i r link hi s c f h hr hl ⟨l, hb⟩
      have same : badTargets (takeMask c f p n) (fun l => readPair s c.fibre r l) = maskOf (bad s c f r) :=
        mask_ext fun l => by rw [inMask_badTargets, inMask_maskOf, inMask_takeMask]
      have some_bad : maskOf (bad s c f r) ≠ 0 := fun e => by
        have := inMask_maskOf (bad s c f r) l
        rw [e, inMask_zero, hb] at this
        exact absurd this Bool.false_ne_true
      have linkable : Linkable s c f (takeMask c f p n) [r, r + 1] (if link then [62, 63] else []) := by
        refine .inr ⟨.inr fun q hq => ?_, fun q hq => (hr q hq).2, fun q hq => ?_⟩
        · cases link
          · exact (hr q (by simpa using hq)).1
          · rcases List.mem_append.1 hq with hq | hq
            · exact (hr q hq).1
            · exact (hl rfl q hq).1
        · cases link
          · exact absurd hq List.not_mem_nil
          · exact (hl rfl q hq).2
      obtain ⟨t, he, hf, ho⟩ := transfer_faults (target := fun c l => readPair s c.fibre r l) h linkable (same ▸ some_bad)
      exact ⟨t, (hi s).trans he, same ▸ hf, ho⟩
    refine ⟨jumps _ _ _ fun _ => rfl, jumps _ _ _ fun _ => rfl, jumps _ _ _ fun _ => rfl, fun s c f h hb => ⟨?_, fun hp => ?_⟩⟩
    · exact uniTransfer_faults h rfl hb (fun e => absurd e Bool.false_ne_true)
    · exact uniTransfer_faults h rfl hb fun _ => hp
  · intro take word
    have words : ∀ (i : Instr) (cause : Nat), cause < 256 → (∀ s, exec i s = trapWord s p n k cause) → word i cause := by
      intro i cause hc hi s c f h
      obtain ⟨t, he, ho, hp⟩ := trapWord_ready p n k hc h
      rw [takeMask_eq] at hp
      exact ⟨t, (hi s).trans he, ho, hp⟩
    exact ⟨words _ _ (by decide) fun _ => rfl, words _ _ (by decide) fun _ => rfl⟩

end Sys2Proof.Proofs
end

section
/-!
O8: class B words (R73, R74, R124, R125, R146 to R148): their results and flags stand in flight.
-/

namespace Sys2Proof.Machine

variable {s t : State} {c : Issue} {f : Fibre}

/-! ### Words of one register and of a pair (R124, R125) -/

/-- The results of the lanes whose guard is true are those computed for them. -/
theorem perLane_active {α : Type} {d : α} {m : LaneMask} {g : Fin 32 → α} {l : Fin 32} (h : inMask m l = true) : (perLane d m g)[l] = g l := by
  rw [perLane_get, if_pos h]

theorem laneFlags_perLane {α : Type} (d : α) (m : LaneMask) (g : Fin 32 → α) (π : α → Word) :
    laneFlags m (fun l => π (perLane d m g)[l]) = laneFlags m fun l => π (g l) :=
  laneFlags_congr fun _ e => congrArg π (perLane_active e)

theorem classWrite_perLane {α : Type} (d : α) (r : Nat) (g : Fin 32 → α) (π : α → Word) :
    classWrite c f r (Vector.ofFn fun l => π (perLane d (c.active f) g)[l]) =
      .v r (c.active f ||| c.zeroed f) (Vector.ofFn fun l => if inMask (c.active f) l then π (g l) else 0) := by
  unfold classWrite
  refine congrArg (RegWrite.v r _) (congrArg Vector.ofFn (funext fun l => ?_))
  split
  · next e =>
    rw [Fin.getElem_fin, Vector.getElem_ofFn]
    exact congrArg π (perLane_active e)
  · rfl

theorem classB1_flight {d : BitVec 7} {srcs : List Nat} {val : Issue → Fibre → Fin 32 → Word × Word} (h : Ready s c f { v := srcs, d := [d.toNat] }) :
    ∃ t, classB1 s d srcs val = .next t ∧ (c.active f ≠ 0 → InFlight s c f t (flagOf (fieldOf c.hdr 19 16))
      (.classB [.v d.toNat (c.active f ||| c.zeroed f) (Vector.ofFn fun l => if inMask (c.active f) l then (val c f l).1 else 0)]
        (laneFlags (c.active f) fun l => (val c f l).2) true c.div)) := by
  refine ⟨_, gate_ready h, fun ha => ?_⟩
  rw [← classWrite_perLane ((0, 0) : Word × Word) _ (val c f) Prod.fst, ← laneFlags_perLane ((0, 0) : Word × Word) _ (val c f) Prod.snd]
  exact issueB_inFlight h.fibre ha

theorem setWidth_code64 (n : Nat) : (BitVec.ofNat 64 n).setWidth 32 = BitVec.ofNat 32 (n % 2 ^ 64) := by
  refine BitVec.eq_of_toNat_eq ?_
  simp

theorem high_code64 (n : Nat) : ((BitVec.ofNat 64 n) >>> 32).setWidth 32 = BitVec.ofNat 32 (n % 2 ^ 64 / 2 ^ 32) := by
  refine BitVec.eq_of_toNat_eq ?_
  simp [Nat.shiftRight_eq_div_pow]

theorem classB2_flight {d : BitVec 7} {srcs : List Nat} {val : Issue → Fibre → Fin 32 → Nat × Word}
    (h : Ready s c f { v := srcs, d := regRange d.toNat 2 }) :
    ∃ t, classB2 s d srcs (fun c f l => code64 (val c f l)) = .next t ∧ (c.active f ≠ 0 → InFlight s c f t (flagOf (fieldOf c.hdr 19 16))
      (.classB [.v d.toNat (c.active f ||| c.zeroed f)
          (Vector.ofFn fun l => if inMask (c.active f) l then BitVec.ofNat 32 ((val c f l).1 % 2 ^ 64) else 0),
        .v (d.toNat + 1) (c.active f ||| c.zeroed f)
          (Vector.ofFn fun l => if inMask (c.active f) l then BitVec.ofNat 32 ((val c f l).1 % 2 ^ 64 / 2 ^ 32) else 0)]
        (laneFlags (c.active f) fun l => (val c f l).2) true c.div)) := by
  refine ⟨_, gate_ready h, fun ha => ?_⟩
  have low := classWrite_perLane (c := c) (f := f) ((0, 0) : DWord × Word) d.toNat (fun l => code64 (val c f l)) fun x => x.1.setWidth 32
  have high := classWrite_perLane (c := c) (f := f) ((0, 0) : DWord × Word) (d.toNat + 1) (fun l => code64 (val c f l))
    fun x => (x.1 >>> 32).setWidth 32
  have flags := laneFlags_perLane ((0, 0) : DWord × Word) (c.active f) (fun l => code64 (val c f l)) Prod.snd
  simp only [setWidth_code64, high_code64] at low high flags
  rw [← low, ← high, ← flags]
  exact issueB_inFlight h.fibre ha

/-! ### Reductions and scans (R141, R146 to R148) -/

/-- The bundle that a cross-lane word issues with (R141). -/
def crossed (c : Issue) (f : Fibre) : Issue :=
  if (f.lane (lowLane c.lanes)).hold = .crossGo then c
  else { c with lanes := crossSet f c.clause c.first ||| c.lanes, div := f.liveMask &&& ~~~ (crossSet f c.clause c.first ||| c.lanes) != 0 }

theorem crossed_same (c : Issue) (f : Fibre) : (crossed c f).fibre = c.fibre ∧ (crossed c f).hdr = c.hdr ∧ (crossed c f).vc = c.vc := by
  unfold crossed
  split <;> exact ⟨rfl, rfl, rfl⟩

/-- A cross-lane word that no lane waits for issues with all the lanes held at it. -/
theorem cross_ready {vs ds ss : List Nat} {k : Issue → Fibre → (Fin 32 → LaneMask) → State → State}
    (h : Ready s c f { v := vs, d := ds, s := ss, vc := 1 })
    (hgo : (f.lane (lowLane c.lanes)).hold = .crossGo ∨ (crossWants f (crossSet f c.clause c.first) ||| crossWaits s c f) &&&
      ~~~ (crossSet f c.clause c.first ||| c.lanes) = 0) :
    cross s vs ds ss k = .next (k (crossed c f) f (crossSees s (crossed c f) f) s) := by
  unfold cross
  rw [gate_ready h]
  simp only [crossed]
  by_cases e : (f.lane (lowLane c.lanes)).hold = .crossGo
  · simp [e]
  · simp [e, hgo.resolve_left e]

/-- The member set of a reduction, in lane order: the lowest participating lane and the participating live lanes that it names (R140, R146). -/
def redMembers (s : State) (c e : Issue) (f : Fibre) : List (Fin 32) :=
  (List.finRange 32).filter fun j => inMask (e.active f) j &&
    (j == lowLane (e.active f) || (inMask (c.rdC s (lowLane (e.active f))) j && inMask f.liveMask j))

theorem laneList_members (ha : (crossed c f).active f ≠ 0) :
    laneList (members (crossed c f) f (crossSees s (crossed c f) f)) = redMembers s c (crossed c f) f := by
  have rdC : (crossed c f).rdC s (lowLane ((crossed c f).active f)) = c.rdC s (lowLane ((crossed c f).active f)) := by
    obtain ⟨fibre, -, vc⟩ := crossed_same c f
    rw [Issue.rdC, Issue.rdC, fibre, vc]
  unfold laneList members crossSees redMembers
  rw [if_neg ha, rdC]
  refine List.filter_congr fun j _ => ?_
  rw [inMask_and, inMask_or, inMask_lane, inMask_and, Bool.and_comm]
  rfl

theorem contains_laneList (m : LaneMask) (l : Fin 32) : (laneList m).contains l = inMask m l := by
  rw [Bool.eq_iff_iff, List.contains_iff_mem, mem_laneList]

/-- What red leaves in flight (R146). -/
theorem red_flight {k : RedOp} {sd : BitVec 6} {a : BitVec 7} (h : Ready s c f { v := [a.toNat], d := [], s := [sd.toNat], vc := 1 })
    (hgo : (f.lane (lowLane c.lanes)).hold = .crossGo ∨ (crossWants f (crossSet f c.clause c.first) ||| crossWaits s c f) &&&
      ~~~ (crossSet f c.clause c.first ||| c.lanes) = 0) :
    ∃ t, execRed k sd a s = .next t ∧ ((crossed c f).active f ≠ 0 →
      let r := redVal k f.rm ((redMembers s c (crossed c f) f).map fun l => readLane s (crossed c f).fibre a.toNat l)
      InFlight s (crossed c f) f t (flagOf (fieldOf c.hdr 19 16)) (.classB [.s sd.toNat r.1] r.2 (decide (k = .addF32)) (crossed c f).div)) := by
  obtain ⟨fibre, hdr, -⟩ := crossed_same c f
  refine ⟨_, cross_ready h hgo, fun ha => ?_⟩
  rw [laneList_members ha, ← hdr]
  exact issueB_inFlight (by rw [fibre]; exact h.fibre) ha

/-- A scan's results in a lane: the running value of a member, and the value as it stands of a lane that is none (R147). -/
def scanRun (j : ScanOp) (rm : Rnd) (m : List (Fin 32)) (val : Fin 32 → Word) (l : Fin 32) : DWord × Word :=
  if m.contains l then
    redVal (scanRed j) rm ((m.filter fun i => if scanInc j then decide (i.val ≤ l.val) else decide (i.val < l.val)).map val)
  else (if scanInc j then (val l).zeroExtend 64 else 0, 0)

/-- What scan leaves in flight (R147). -/
theorem scan_flight {j : ScanOp} {d a : BitVec 7} {sd : BitVec 6} (h : Ready s c f { v := [a.toNat], d := [d.toNat], s := [sd.toNat], vc := 1 })
    (hgo : (f.lane (lowLane c.lanes)).hold = .crossGo ∨ (crossWants f (crossSet f c.clause c.first) ||| crossWaits s c f) &&&
      ~~~ (crossSet f c.clause c.first ||| c.lanes) = 0) :
    ∃ t, execScan j d a sd s = .next t ∧ ((crossed c f).active f ≠ 0 →
      let e := crossed c f
      let m := redMembers s c e f
      let val := fun l => readLane s e.fibre a.toNat l
      let total := redVal (scanRed j) f.rm (m.map val)
      InFlight s e f t (flagOf (fieldOf c.hdr 19 16))
        (.classB [.v d.toNat (e.active f ||| e.zeroed f)
            (Vector.ofFn fun l => if inMask (e.active f) l then (scanRun j f.rm m val l).1.setWidth 32 else 0), .s sd.toNat total.1]
          (total.2 ||| laneFlags (e.active f) fun l => (scanRun j f.rm m val l).2) (decide (scanRed j = .addF32)) e.div)) := by
  obtain ⟨fibre, hdr, -⟩ := crossed_same c f
  refine ⟨_, cross_ready h hgo, fun ha => ?_⟩
  intro e m val total
  have results : scanRun j f.rm m val = fun l => if inMask (members e f (crossSees s e f)) l then
      redVal (scanRed j) f.rm (((laneList (members e f (crossSees s e f))).filter fun i =>
        if scanInc j then decide (i.val ≤ l.val) else decide (i.val < l.val)).map val)
      else (if scanInc j then (val l).zeroExtend 64 else 0, 0) := by
    funext l
    rw [laneList_members ha, ← contains_laneList, laneList_members ha]
    rfl
  rw [← classWrite_perLane ((0, 0) : DWord × Word) _ (scanRun j f.rm m val) fun x => x.1.setWidth 32,
    ← laneFlags_perLane ((0, 0) : DWord × Word) _ (scanRun j f.rm m val) Prod.snd, results, ← hdr]
  rw [show total = redVal (scanRed j) f.rm ((laneList (members e f (crossSees s e f))).map val) by rw [laneList_members ha]]
  exact issueB_inFlight (by rw [fibre]; exact h.fibre) ha

end Sys2Proof.Machine

namespace Sys2Proof.Proofs

open Machine

/-- Settles O8: the words of one register and of a pair by `classB1_flight` and `classB2_flight`; red and scan issue with the bundle of
`cross_ready`, over the members of `laneList_members`. -/
theorem lateResultsGoInFlight : Obligations.LateResultsGoInFlight := by
  unfold Obligations.LateResultsGoInFlight
  refine ⟨fun d a b => ?_, fun d a sd k j => ?_⟩
  · intro flight one pair f1 f2
    exact ⟨fun s c f h => classB1_flight h, fun s c f h => classB2_flight h, fun s c f h => classB1_flight h, fun s c f h => classB1_flight h,
      fun s c f h => classB1_flight h, fun s c f h => classB2_flight h, fun s c f h => classB2_flight h, fun s c f h => classB2_flight h,
      fun s c f h => classB1_flight h, fun s c f h => classB1_flight h, fun s c f h => classB1_flight h, fun s c f h => classB1_flight h⟩
  · intro all go word val op inc
    refine ⟨fun s c f h hg => ?_, fun s c f h hg => ?_⟩
    · exact red_flight h hg
    · have red : scanRed j = op := by cases j <;> rfl
      have incl : scanInc j = inc := by cases j <;> rfl
      obtain ⟨t, he, ht⟩ := scan_flight (j := j) h hg
      unfold scanRun at ht
      simp only [red, incl] at ht
      exact ⟨t, he, ht⟩

end Sys2Proof.Proofs
end

section
/-!
O39: the prefixes (R84, R85, R88, R89): each is refused where the word after it does not take it, and else hands on to that word.
-/

namespace Sys2Proof.Machine

variable {s : State} {c : Issue} {f : Fibre}

/-- A misused X or W word raises 0x01, and SKIP goes on after its word (R85, R89, R274). -/
theorem badPrefix_faults (hf : s.fib c.fibre = some f) :
    Faults c f (badPrefix s c) 0x01 c.lanes 0 0 0 0 0 (afterWord c.hdr (c.word + 1)) ∧ Only s (badPrefix s c) c.fibre {} :=
  ⟨raiseAt_faults (y := { cause := 0x01, lanes := c.lanes }) hf (Flt.fits_of (by decide) (by decide)), raiseAt_only _ _ _ _⟩

/-- An X or W word before a word that takes it gives `ok`, and before any other, or none, is misused. -/
theorem prefix_cases {next : Option Word} {allowed : Word → Bool} {ok : State} {post : State → Prop} (hf : s.fib c.fibre = some f) (hok : post ok) :
    let t := if (next.map allowed).getD false then ok else badPrefix s c
    if (next.map allowed).getD false then post t
    else Faults c f t 0x01 c.lanes 0 0 0 0 0 (afterWord c.hdr (c.word + 1)) ∧ Only s t c.fibre {} := by
  intro t
  by_cases e : (next.map allowed).getD false = true
  · simpa only [t, e, if_true] using hok
  · simpa only [t, if_neg e] using badPrefix_faults hf

/-- Whether a word takes what an X word gives (R85): a word of the table what its operands use, one that is none no more than a guard. -/
def takesX (x : XPre) (w : Word) : Bool :=
  match decodeWord w with
  | .ok i => x.ok (xuse i)
  | .error _ => !(w.getLsbD 31 || decide (0x3E ≤ fieldOf w 30 25)) && x.ok { guard := true }

theorem execXPrefix_eq (gp : BitVec 3) (z gn : Bool) (rm : RMode) (vc : BitVec 7) (lk : LKind) (k : BitVec 5) (ls : Bool)
    (hi : s.issue = some c) (hf : s.fib c.fibre = some f) :
    let x : XPre := ⟨gp, z, gn, rm, vc, lk, k, ls⟩
    execXPrefix gp z gn rm vc lk k ls s = .next (if ((nextWord f c).map (takesX x)).getD false then
      { s with issue := some { c with word := c.word + 1, px := some x } } else badPrefix s c) := by
  intro x
  unfold execXPrefix
  rw [hi]
  simp only [hf]
  cases nextWord f c with
  | none => rfl
  | some w =>
    have taken : ∀ (a : Bool) (u v : State), (if (!a) = true then (.next u : Host.Outcome State Fault Refusal) else .next v) =
        .next (if a = true then v else u) := by intro a u v; cases a <;> rfl
    have both : ∀ a b : Bool, (a || !b) = !(!a && b) := by decide
    cases h : decodeWord w with
    | ok i =>
      simp only [Option.map_some, Option.getD_some, takesX, h]
      exact taken _ _ _
    | error e =>
      simp only [Option.map_some, Option.getD_some, takesX, h, both]
      exact taken _ _ _

theorem isPrefix_eq (w : Word) : isPrefix w = (w.getLsbD 31 == false && fieldOf w 30 25 == 0x3F) := by
  unfold isPrefix
  cases w.getLsbD 31 <;> rfl

theorem execWPrefix_eq (sw : Bool) (p : BitVec 12) (hi : s.issue = some c) (hf : s.fib c.fibre = some f) :
    execWPrefix sw p s = .next (if ((nextWord f c).map fun w => !(w.getLsbD 31 == false && fieldOf w 30 25 == 0x3F)).getD false then
      if s.cfWaits c.fibre p then stall s { c with sw := c.sw || sw } (.flags p)
      else { s with issue := some { c with word := c.word + 1, sw := c.sw || sw } } else badPrefix s c) := by
  unfold execWPrefix
  rw [hi]
  simp only [hf, ← isPrefix_eq]
  cases nextWord f c with
  | none => rfl
  | some w => cases h : isPrefix w <;> cases s.cfWaits c.fibre p <;> simp [h]

end Sys2Proof.Machine

namespace Sys2Proof.Proofs

open Machine

/-- Settles O39: each of the two words by what it answers for the word after it (`execXPrefix_eq`, `execWPrefix_eq`). -/
theorem prefixes : Obligations.Prefixes := by
  unfold Obligations.Prefixes
  intro gp z gn rm vc lk k ls sw p word x
  refine ⟨fun s c f hi hf => ⟨_, execXPrefix_eq gp z gn rm vc lk k ls hi hf, ?_⟩, fun s c f hi hf => ⟨_, execWPrefix_eq sw p hi hf, ?_⟩⟩
  · exact prefix_cases (post := fun t => t = { s with issue := some { c with word := c.word + 1, px := some x } }) hf rfl
  · refine prefix_cases (post := fun t => if s.cfWaits c.fibre p then Waits c f t (.flags p) ∧ Only s t c.fibre {}
      else t = { s with issue := some { c with word := c.word + 1, sw := c.sw || sw } }) hf ?_
    split
    · exact ⟨stall_waits (c := { c with sw := c.sw || sw }) hf, stall_only _ _ _⟩
    · rfl

end Sys2Proof.Proofs
end

section
/-!
O19, O20: issuing loads and stores (R73, R149, R152 to R154, R157, R260): the checks that a word passes, what changes before its operation goes in
flight, and the staging lines of the ordered modes.
-/

namespace Sys2Proof.Machine

variable {s t u : State} {c : Issue} {f : Fibre} {w : Writes}

/-! ### The checks (R149, R150) -/

/-- No walk fails where every page is mapped. -/
theorem checkWalk_none {tr : List (Item × Nat × Trans)} (h : ∀ e ∈ tr, ∃ pa, e.2.2 = .ok pa) (whole : Option LaneMask) : checkWalk whole tr = none := by
  unfold checkWalk
  extract_lets bad
  have none_bad : bad = [] := List.filterMap_eq_nil_iff.2 fun e he => by
    obtain ⟨pa, eq⟩ := h e he
    rw [eq]
  rw [none_bad]

/-- The lanes of a word that reaches memory pass every check. -/
theorem bufCheck_ok {n size al : Nat} {lanes : List (Fin 32)} {off : Fin 32 → DWord} {need : Need} {pa : Fin 32 → Nat}
    (h : Reaches s c f n lanes off size al need pa) :
    bufCheck s c.fibre n (vget f.b n 0) none (lanes.map fun l => (l.val, (off l).toNat)) size al need =
      .ok (accsOf (bufOf s c f n) lanes off size pa (fun _ => 0) fun _ => 0) (infoOf s c f n) := by
  obtain ⟨-, -, align, valid, bound, right, rdo, owner, page⟩ := h
  have aligned : (lanes.map fun l => (l.val, (off l).toNat)).filter (fun i : Item => i.2 % al != 0) = [] :=
    List.filter_eq_nil_iff.2 fun i hi => by
      obtain ⟨l, hl, rfl⟩ := List.mem_map.1 hi
      simp [align l hl]
  have inside : (lanes.map fun l => (l.val, (off l).toNat)).filter (fun i : Item => decide ((bufOf s c f n).len < i.2 + size)) = [] :=
    List.filter_eq_nil_iff.2 fun i hi => by
      obtain ⟨l, hl, rfl⟩ := List.mem_map.1 hi
      simpa using bound l hl
  have writable : (need != .read && bregRdo (vget f.b n 0)) = false := by
    rcases rdo with rfl | e
    · rfl
    · rw [e, Bool.and_false]
  have mapped : ((lanes.map fun l => (l.val, (off l).toNat)).map fun i : Item => (i, (bufOf s c f n).base + i.2,
      transWord s c.fibre (s.viOf c.fibre) ((bufOf s c f n).base + i.2) (bufOf s c f n).icl (need != .read) false)) =
      lanes.map fun l => ((l.val, (off l).toNat), (bufOf s c f n).base + (off l).toNat, Trans.ok (pa l)) := by
    rw [List.map_map]
    exact List.map_congr_left fun l hl => by simp only [Function.comp_apply, page l hl]
  have present : (lanes.map fun l => ((l.val, (off l).toNat), (bufOf s c f n).base + (off l).toNat, Trans.ok (pa l))).filter
      (fun t : Item × Nat × Trans => t.2.2 == .miss) = [] :=
    List.filter_eq_nil_iff.2 fun e he => by obtain ⟨l, -, rfl⟩ := List.mem_map.1 he; simp
  have walked := checkWalk_none (tr := lanes.map fun l => ((l.val, (off l).toNat), (bufOf s c f n).base + (off l).toNat, Trans.ok (pa l)))
    (fun e he => by obtain ⟨l, -, rfl⟩ := List.mem_map.1 he; exact ⟨_, rfl⟩) none
  unfold bufOf at *
  unfold bufCheck
  simp only [aligned, valid, inside, right, writable, owner, mapped, present, walked, bne_self_eq_false, Bool.not_true, Bool.false_eq_true, if_false]
  rw [List.map_map]
  rfl

/-- A word that reaches memory goes on with its accesses, its buffer-table entry cached. -/
theorem bufWord_reaches {n size al : Nat} {lanes : List (Fin 32)} {off : Fin 32 → DWord} {need : Need} {pa : Fin 32 → Nat}
    (h : Reaches s c f n lanes off size al need pa) (k : State → List Acc → BufInfo → State) :
    bufWord s c f n none (lanes.map fun l => (l.val, (off l).toNat)) size al need k =
      k (cacheEntry s (coreOf c.fibre) (s.viOf c.fibre) (bregIdx (vget f.b n 0)))
        (accsOf (bufOf s c f n) lanes off size pa (fun _ => 0) fun _ => 0) (infoOf s c f n) := by
  unfold bufWord bufWordOf
  rw [h.acq, h.room]
  simp only [bufCheck_ok h, Bool.false_eq_true, if_false]

/-! ### What changes before an operation goes in flight -/

/-- Between two states of a word only what w lists differs, no memory moved, and the fibre's partition is the same. -/
structure Beside (s t : State) (c : Issue) (w : Writes) : Prop where
  frame : Only s t c.fibre w
  mem   : SameMem s t
  part  : t.partOf c.fibre = s.partOf c.fibre

theorem Beside.of_kept (k : Kept s t) (m : SameMem s t) : Beside s t c w :=
  ⟨.of_kept k _ _ fun _ _ => m, m, partOf_kept k m _⟩

theorem Beside.trans (h : Beside s t c w) (j : Beside t u c w) : Beside s u c w :=
  ⟨h.frame.trans j.frame fun _ rep => by rw [h.part, replaying_kept h.mem]; exact rep, h.mem.trans j.mem, j.part.trans h.part⟩

theorem Beside.retire (h : Beside s t c w) : Only s (Machine.retire t c) c.fibre w :=
  h.frame.kept (retire_kept c) fun _ rep => retire_sameMem c (by rw [h.part, replaying_kept h.mem]; exact rep)

/-- What w lists, with the operations in flight and the errors of flags. -/
abbrev Writes.inFlight (w : Writes) : Writes := { w with ops := true, flags := true }

theorem Beside.inFlight (h : Beside s t c w) : Beside s t c w.inFlight :=
  ⟨h.frame.mono (fun _ => id) (fun _ => id) (fun _ => id) (fun _ => id) ⟨id, fun _ => rfl, id, fun _ => rfl, id, id, id, id⟩ (fun _ => id) id,
    h.mem, h.part⟩

theorem addOp_beside (kind : OpKind) : Beside s (s.addOp (c.op s f kind)) c w.inFlight :=
  ⟨addOp_only _ _ rfl _ rfl rfl, addOp_sameMem _, (addOp_only _ _ rfl { ops := true, flags := true } rfl rfl).partOf rfl (addOp_sameMem _) _⟩

theorem ops_beside (l : List Op) : Beside s { s with ops := l } c w.inFlight :=
  ⟨ops_only _ rfl, .of_eq rfl rfl rfl rfl rfl, rfl⟩

/-- As Beside, and no operation came or went. -/
structure Leads (s t : State) (c : Issue) (w : Writes) : Prop extends Beside s t c w where
  ops  : t.ops = s.ops
  next : t.nextOp = s.nextOp

theorem Leads.of_kept (k : Kept s t) (m : SameMem s t) (next : t.nextOp = s.nextOp) : Leads s t c w := ⟨.of_kept k m, k.ops, next⟩

theorem Leads.refl (s : State) : Leads s s c w := .of_kept (.refl s) (.refl s) rfl

theorem Leads.trans (h : Leads s t c w) (j : Leads t u c w) : Leads s u c w :=
  ⟨h.toBeside.trans j.toBeside, j.ops.trans h.ops, j.next.trans h.next⟩

/-- The word's operation added. -/
theorem Leads.addOp (h : Leads s t c w) (kind : OpKind) : Beside s (t.addOp (c.op t f kind)) c w.inFlight :=
  h.toBeside.inFlight.trans (addOp_beside kind)

/-- A flag that was not pending has lost its error when the word counts against it (R32). -/
theorem Leads.addOp_clear {x : Fibre} (h : Leads s t c w) (hf : s.fib c.fibre = some x) (kind : OpKind)
    (k : ∀ x, (t.addOp (c.op t f kind)).fib c.fibre = some x → ∃ y, u.fib c.fibre = some y ∧ y.regs = x.regs) (n : Nat) (hn : c.setA = some n)
    (hp : s.cfPending c.fibre n = false) : ∃ x, u.fib c.fibre = some x ∧ x.cfErr.getLsbD n = false := by
  obtain ⟨z, hz, -⟩ := h.frame.fibre hf
  obtain ⟨x, hx, hc⟩ := Machine.addOp_clear (c.op t f kind) hz hn ((cfPending_of_ops h.ops).trans hp)
  obtain ⟨y, hy, hr⟩ := k x hx
  exact ⟨y, hy, (congrArg (fun r => (Regs.cfErr r).getLsbD n) hr).trans hc⟩

/-- A class A word goes in flight after such changes (R73). -/
theorem Leads.issueA (h : Leads s t c w) (hf : s.fib c.fibre = some f) (kind : OpKind) :
    InFlight s c f (issueA t c f kind) c.setA kind w.inFlight := by
  have walks (v : State) : Kept v (v.modFib c.fibre fun x => { x with walkRes := [] }) := .fib fun _ => rfl
  have after : Kept (t.addOp (c.op t f kind)) (Machine.issueA t c f kind) := (walks _).trans (retire_kept c)
  refine ⟨?_, h.addOp_clear hf kind fun x hx => after.some hx, ((h.addOp kind).trans (.of_kept (walks _) .fib)).retire⟩
  rw [after.ops, addOp_ops, h.ops, h.next]
  rfl

/-- A class A word complete at its issue is done after such changes (R73). -/
theorem Leads.issueDone {x : Fibre} (h : Leads s t c w) (hf : s.fib c.fibre = some x) : Done s c (issueDone t c f) c.setA w := by
  have out : (t.addOp (c.op t f .done)).ops.filter (fun q : Op => q.id != t.nextOp) = s.ops.filter fun q => q.id != s.nextOp := by
    rw [addOp_ops, List.filter_append, h.ops, h.next]
    simp
  have done : Machine.issueDone t c f = Machine.retire { t.addOp (c.op t f .done) with ops := s.ops.filter fun q => q.id != s.nextOp } c := by
    unfold Machine.issueDone
    extract_lets o
    rw [endOp_done]
    exact congrArg (fun l => Machine.retire { t.addOp (c.op t f .done) with ops := l } c) out
  rw [done]
  have ops := congrArg (List.map Op.bare) (retire_kept (s := { t.addOp (c.op t f .done) with ops := s.ops.filter fun q => q.id != s.nextOp }) c).ops
  exact ⟨⟨ops, fun _ => (retire_kept c).ops⟩, h.addOp_clear hf .done fun x hx => (retire_kept c).some hx,
    ((h.addOp .done).trans (ops_beside _)).retire⟩

/-! ### The buffer-table entry (R284) -/

theorem cacheEntry_cases (k ctx i : Nat) : cacheEntry s k ctx i = s ∨ ∃ g : Core → Core, (∀ x, (g x).pads = x.pads ∧ (g x).l1 = x.l1) ∧
    cacheEntry s k ctx i = s.modCore k g := by
  unfold cacheEntry
  split
  · exact .inl rfl
  · refine .inr ⟨_, fun x => ?_, rfl⟩
    split <;> exact ⟨rfl, rfl⟩

theorem cacheEntry_kept (k ctx i : Nat) : Kept s (cacheEntry s k ctx i) := by
  rcases cacheEntry_cases (s := s) k ctx i with e | ⟨g, h, e⟩
  · rw [e]; exact .refl s
  · rw [e]; exact .core fun x => (h x).1

theorem cacheEntry_leads (k ctx i : Nat) : Leads s (cacheEntry s k ctx i) c w := by
  rcases cacheEntry_cases (s := s) k ctx i with e | ⟨g, h, e⟩
  · rw [e]; exact .refl s
  · rw [e]; exact .of_kept (.core fun x => (h x).1) (.core fun x => (h x).2) rfl

/-! ### Loads -/

theorem writeReg_nextOp (fid r : Nat) (x : VReg) : (writeReg s fid r x).nextOp = s.nextOp := by
  unfold writeReg
  split
  · rfl
  · split
    · rfl
    · split <;> rfl

theorem putRegs_nextOp {fid vd : Nat} (z : LaneMask) (res : List (Nat × Nat)) (n : Nat) : (putRegs s fid vd z res n).nextOp = s.nextOp := by
  induction n with
  | zero => rfl
  | succ n ih => exact (writeReg_nextOp _ _ _).trans ih

/-- Registers of no result are zero in the lanes of the zero policy; those outside the windows read zero and stay so (R22, R86). -/
theorem putRegs_zero {fid vd n : Nat} (z : LaneMask) (hf : s.fib fid = some f) (area : f.region < 4) {i : Nat} (hi : i < n) (l : Fin 32) :
    readLane (putRegs s fid vd z [] n) fid (vd + i) l = if inMask z l then 0 else readLane s fid (vd + i) l := by
  induction n with
  | zero => omega
  | succ n ih =>
    have frame : Only s (putRegs s fid vd z [] n) fid { v := regRange vd n } := putRegs_only z [] rfl fun _ h => h
    obtain ⟨y, hy, region, has⟩ := frame.hasReg (r := vd + n) hf
    unfold putRegs
    by_cases e : i = n
    · subst e
      have new : vd + i ∉ regRange vd i := fun h => by
        obtain ⟨j, hj, e⟩ := List.mem_map.1 h
        have := List.mem_range.1 hj
        omega
      have old := frame.readLane new l
      cases hr : f.hasReg (vd + i) with
      | true =>
        unfold readLane at old ⊢
        rw [readReg_writeReg_self hy (region ▸ area) (has.trans hr)]
        exact (Vector.getElem_ofFn _).trans (congrArg (fun x => if inMask z l then 0 else x) old)
      | false =>
        rw [writeReg_out hy (has.trans hr), old]
        unfold readLane
        rw [readReg_out hf hr]
        simp [VReg.zero, lanesOf]
    · have other : ¬ sameReg (putRegs s fid vd z [] n) fid (vd + n) fid (vd + i) := not_sameReg_of_ne (by omega)
      rw [← ih (by omega)]
      unfold readLane
      rw [readReg_writeReg_ne other]

theorem zeroRegs_leads (vd n : Nat) : Leads s (zeroRegs s c f vd n) c { v := regRange vd n } := by
  unfold zeroRegs
  split
  · exact .refl s
  · have frame : Only s (putRegs s c.fibre vd (c.zeroed f) [] n) c.fibre { v := regRange vd n } := putRegs_only _ _ rfl fun _ h => h
    have m : SameMem s (putRegs s c.fibre vd (c.zeroed f) [] n) := putRegs_sameMem _ _ _ _
    exact ⟨⟨frame, m, frame.partOf rfl m _⟩, (frame.ops rfl).2 rfl, putRegs_nextOp _ _ _⟩

/-- With no lane to serve, a load leaves zero where the zero policy writes (R73, R86). -/
theorem zeroRegs_zero {vd n r : Nat} (hf : s.fib c.fibre = some f) (area : f.region < 4) (hr : r ∈ regRange vd n) (l : Fin 32) :
    readLane (zeroRegs s c f vd n) c.fibre r l = if inMask (c.zeroed f) l then 0 else readLane s c.fibre r l := by
  obtain ⟨i, hi, rfl⟩ := List.mem_map.1 hr
  unfold zeroRegs
  split
  · next e => rw [e, inMask_zero, if_neg Bool.false_ne_true]
  · exact putRegs_zero _ hf area (List.mem_range.1 hi) l

/-- What a load does when it may issue. -/
theorem loadWord_ready {d a : BitVec 7} {b : BitVec 4} {imm : BitVec 7} (k : LdKind) (acq : Option Scope)
    (h : Ready s c f { v := [a.toNat, a.toNat + 1], d := regRange d.toNat (ldRegs k) }) : ∃ t, loadWord s d a b imm k acq = .next t ∧
      (c.active f = 0 → Done s c t c.setA { v := regRange d.toNat (ldRegs k) } ∧
        ∀ r ∈ regRange d.toNat (ldRegs k), Holds1 s c f t r fun _ => 0) ∧
      ∀ pa, c.active f ≠ 0 →
        Reaches s c f b.toNat (c.takers f) (bufOff s c a imm (ldSize k)) (ldSize k) (ldSize k) .read pa →
          InFlight s c f t c.setA (.load
            (accsOf (bufOf s c f b.toNat) (c.takers f) (bufOff s c a imm (ldSize k)) (ldSize k) pa (fun _ => 0) fun _ => 0)
            (infoOf s c f b.toNat) k d.toNat (c.zeroed f) acq) := by
  refine ⟨_, gate_ready h, fun h0 => ?_, fun pa h0 reach => ?_⟩
  · rw [if_pos h0]
    have zeroed : Leads s (zeroRegs s c f d.toNat (ldRegs k)) c { v := regRange d.toNat (ldRegs k) } := zeroRegs_leads _ _
    refine ⟨zeroed.issueDone h.fibre, fun r hr l => ?_⟩
    obtain ⟨y, hy, -⟩ := zeroed.frame.fibre h.fibre
    have counted : Done _ c (issueDone (zeroRegs s c f d.toNat (ldRegs k)) c f) c.setA {} := (Leads.refl _).issueDone hy
    rw [if_neg (by simp [Spread, h0]), counted.frame.readLane List.not_mem_nil]
    exact zeroRegs_zero h.fibre h.area hr l
  · rw [if_neg h0]
    have go := bufWord_reaches reach fun s accs bi => issueA s c f (.load accs bi k d.toNat (c.zeroed f) acq)
    exact go ▸ (cacheEntry_leads _ _ _ (w := {})).issueA h.fibre _

/-! ### Stores -/

theorem addItemAt_leads (ric addr data : Nat) : Leads s (addItemAt s c.fibre ric addr data) c w := by
  refine .of_kept (addItemAt_kept _ _ _ _) ?_ ?_
  all_goals
    unfold addItemAt
    split
  · exact .fib
  · exact .refl s
  · rfl
  · rfl

theorem addItems_leads (addr size data : Nat) : Leads s (addItems s c.fibre addr size data) c w := by
  unfold addItems addItemsAt
  split
  · exact (addItemAt_leads _ _ _).trans (addItemAt_leads _ _ _)
  · exact addItemAt_leads _ _ _

theorem hashAccs_leads (accs : List Acc) : Leads s (hashAccs s c.fibre accs) c w := by
  unfold hashAccs
  induction accs generalizing s with
  | nil => exact .refl s
  | cons a accs ih => exact (addItems_leads _ _ _).trans ih

/-- Claiming staging lines changes the team's lines and no more. -/
theorem stLines_leads {n : Nat} (lines : List Nat) (hw : w.teams = true) :
    Leads s (s.modTeam n fun t => { t with stLines := t.stLines ++ lines }) c w where
  frame := {
    vreg := fun _ _ _ => rfl
    pred := fun _ _ _ => rfl
    unif := fun _ _ _ _ => rfl
    accum := fun _ _ _ => rfl
    fpstat := fun _ _ => rfl
    flags := fun _ _ => rfl
    append := fun _ _ => rfl
    bound := fun _ => rfl
    ops := fun _ => ⟨rfl, fun _ => rfl⟩
    pads := fun _ _ => rfl
    teams := fun no => absurd (hw.symm.trans no) (by simp)
    fbars := fun _ _ => rfl
    outer := ⟨rfl, rfl, fun _ => rfl, rfl⟩
    mem := fun _ _ => ⟨fun _ => rfl, rfl, fun _ => rfl⟩ }
  mem := .of_eq rfl rfl rfl rfl rfl
  part := by
    have own : (s.modTeam n fun t => { t with stLines := t.stLines ++ lines }).gridOf c.fibre = s.gridOf c.fibre := by
      refine Option.bind_congr fun x _ => ?_
      rw [State.team_modTeam]
      split
      · next e => rw [e]; cases s.team n <;> rfl
      · rfl
    exact congrArg (fun g : Option Grid => (g.map (·.part)).getD (s.partOfCore (coreOf c.fibre))) own
  ops := rfl
  next := rfl

theorem stagingTeam_none (h : s.ordered (s.partOf c.fibre) = false) : stagingTeam s c.fibre = none := by
  unfold stagingTeam
  rw [h, if_neg Bool.false_ne_true]

theorem cacheEntry_fib (k ctx i n : Nat) : (cacheEntry s k ctx i).fib n = s.fib n := by
  rcases cacheEntry_cases (s := s) k ctx i with e | ⟨g, -, e⟩
  · rw [e]
  · rw [e]; rfl

theorem stagingTeam_cacheEntry (k ctx i : Nat) : stagingTeam (cacheEntry s k ctx i) c.fibre = stagingTeam s c.fibre := by
  rcases cacheEntry_cases (s := s) k ctx i with e | ⟨g, -, e⟩
  · rw [e]
  · rw [e]; rfl

theorem accLines_cacheEntry (k ctx i : Nat) (l : List Acc) : accLines (cacheEntry s k ctx i) l = accLines s l := by
  rcases cacheEntry_cases (s := s) k ctx i with e | ⟨g, -, e⟩
  · rw [e]
  · rw [e]; rfl

theorem claimStaging_direct {accs : List Acc} {k : State → State} (h : stagingTeam s c.fibre = none) : claimStaging s c accs k = k s := by
  unfold claimStaging
  rw [h]

theorem claimStaging_room {accs : List Acc} {k : State → State} {tm : Team} (h : stagingTeam s c.fibre = some tm) (hf : s.fib c.fibre = some f)
    (room : tm.stLines.length + (((accLines s accs).map (·.1)).filter fun ln => !tm.stLines.contains ln).length ≤ 64) :
    claimStaging s c accs k = k (s.modTeam f.team fun t =>
      { t with stLines := t.stLines ++ ((accLines s accs).map (·.1)).filter fun ln => !tm.stLines.contains ln }) := by
  unfold claimStaging
  rw [h, hf]
  exact if_pos (by rw [decide_eq_true room, Bool.or_true])

/-- The words of up to four registers, summed. -/
theorem sum_words (g : Nat → Nat) (k : StKind) :
    g 0 + (if 4 < stSize k then g 1 else 0) + (if 8 < stSize k then g 2 + g 3 else 0) = ((List.range ((stSize k + 3) / 4)).map g).sum := by
  cases k <;> simp [stSize, List.range_succ, Nat.add_assoc]

/-- The data of a store, register by register. -/
theorem regBytes_eq (r : Nat) (k : StKind) (l : Fin 32) : regBytes s c.fibre r (stSize k) l = bytesAt s c r (stSize k) l := by
  have sum := sum_words (fun i => (readLane s c.fibre (r + i) l).toNat * 2 ^ (32 * i)) k
  have first : (readLane s c.fibre r l).toNat = (readLane s c.fibre (r + 0) l).toNat * 2 ^ (32 * 0) := (Nat.mul_one _).symm
  unfold regBytes bytesAt
  rw [← sum, first]

theorem regBytes_kept (k : Kept s t) (fid r n : Nat) (l : Fin 32) : regBytes t fid r n l = regBytes s fid r n l := by
  unfold regBytes
  simp only [readLane_kept k]

theorem accsOf_data {e : BufEntry} {lanes : List (Fin 32)} {off : Fin 32 → DWord} {size : Nat} {pa data cmp : Fin 32 → Nat} {g : Fin 32 → Nat} :
    (accsOf e lanes off size pa data cmp).map (fun x => { x with data := g (Fin.ofNat 32 x.lane) }) = accsOf e lanes off size pa g cmp := by
  unfold accsOf
  rw [List.map_map]
  refine List.map_congr_left fun l _ => ?_
  have e : Fin.ofNat 32 l.val = l := Fin.ext (Nat.mod_eq_of_lt l.isLt)
  simp only [Function.comp_apply, e]

/-- What a store does when it may issue. -/
theorem storeWord_ready {d a : BitVec 7} {b : BitVec 4} {imm : BitVec 7} (k : StKind) (rel : Option Scope)
    (h : Ready s c f { v := regRange d.toNat (max 1 (stSize k / 4)) ++ [a.toNat, a.toNat + 1] }) : ∃ t, storeWord s d a b imm k rel = .next t ∧
      (c.active f = 0 → Done s c t c.setA {}) ∧
      ∀ pa, c.active f ≠ 0 →
        Reaches s c f b.toNat (c.takers f) (bufOff s c a imm (stSize k)) (stSize k) (stSize k) .write pa →
          let accs := accsOf (bufOf s c f b.toNat) (c.takers f) (bufOff s c a imm (stSize k)) (stSize k) pa
            (bytesAt s c d.toNat (stSize k)) fun _ => 0
          let kind := OpKind.store accs (infoOf s c f b.toNat) rel
          (s.ordered (s.partOf c.fibre) = false → InFlight s c f t c.setA kind) ∧
          (StagingRoom s c accs → InFlight s c f t c.setA kind { ops := true, flags := true, teams := true }) := by
  refine ⟨_, gate_ready h, fun h0 => ?_, fun pa h0 reach => ?_⟩
  · rw [if_pos h0]
    exact (Leads.refl s).issueDone h.fibre
  · rw [if_neg h0]
    extract_lets accs kind
    have go := bufWord_reaches reach fun s accs bi =>
      let accs := accs.map fun x => { x with data := regBytes s c.fibre d.toNat (stSize k) (Fin.ofNat 32 x.lane) }
      claimStaging s c accs fun s => issueA (hashAccs s c.fibre accs) c f (.store accs bi rel)
    have data : regBytes (cacheEntry s (coreOf c.fibre) (s.viOf c.fibre) (bregIdx (vget f.b b.toNat 0))) c.fibre d.toNat (stSize k) =
        bytesAt s c d.toNat (stSize k) :=
      funext fun l => (regBytes_kept (cacheEntry_kept _ _ _) _ _ _ l).trans (regBytes_eq _ k l)
    simp only [accsOf_data, data] at go
    refine go ▸ ⟨fun direct => ?_, fun ⟨tm, team, room⟩ => ?_⟩
    · rw [claimStaging_direct ((stagingTeam_cacheEntry _ _ _).trans (stagingTeam_none direct))]
      exact ((cacheEntry_leads _ _ _ (w := {})).trans (hashAccs_leads _)).issueA h.fibre _
    · rw [claimStaging_room ((stagingTeam_cacheEntry _ _ _).trans team) ((cacheEntry_fib _ _ _ _).trans h.fibre)
        (by rw [accLines_cacheEntry]; exact room)]
      exact (((cacheEntry_leads _ _ _ (w := { teams := true })).trans (stLines_leads _ rfl)).trans (hashAccs_leads _)).issueA h.fibre _

end Sys2Proof.Machine

namespace Sys2Proof.Proofs

open Machine

/-- Settles O19: every form is `loadWord`, whose two cases are `Leads.issueDone` and `Leads.issueA`. -/
theorem loads : Obligations.Loads := by
  unfold Obligations.Loads
  intro d a b i k ord sc word
  refine ⟨fun s c f h => loadWord_ready .b32 none h, fun s c f h => loadWord_ready .b64 none h,
    fun s c f h => loadWord_ready .b128 none h, fun s c f h => ?_⟩
  cases k <;> exact loadWord_ready _ _ h

/-- Settles O20: every form is `storeWord`; its operation goes in flight at once, or after its staging lines are claimed. -/
theorem stores : Obligations.Stores := by
  unfold Obligations.Stores
  intro d a b i k ord sc word
  refine ⟨fun s c f h => storeWord_ready .b32 none h, fun s c f h => storeWord_ready .b64 none h,
    fun s c f h => storeWord_ready .b128 none h, fun s c f h => ?_⟩
  cases k <;> exact storeWord_ready _ _ h

end Sys2Proof.Proofs
end
